-- ==== Sys2Proof/Word.lean ====
section
/-! DEFINITION. The word types of the MH-512 and the index ranges the spec names. Bit 0 is the least
significant bit of every field (00 R3); multi-byte fields are little-endian (00 R4). -/

namespace Sys2Proof

abbrev Byte := BitVec 8
abbrev U16 := BitVec 16
abbrev U32 := BitVec 32
abbrev U64 := BitVec 64
/-- One column word without its check bits (05 R128). -/
abbrev ColData := BitVec 256
/-- One Marl line, one column pair, or one vector register (02 R31, 05 R131, R133). -/
abbrev Line := BitVec 512
/-- One burst of the four dies of a rank, or one accumulator (07 R195, 05 R133). -/
abbrev Wide := BitVec 1024

/-- A function: 0 is the PF, n is VF n (03 R66). -/
abbrev Func := Fin 256
/-- One of the module's 1,024 descriptor places (04 R95). -/
abbrev Place := Fin 1024
abbrev Chan := Fin 16
/-- A rank of a channel; 2 is the spare rank (00 R13). -/
abbrev Rank := Fin 3
abbrev Die := Fin 4
abbrev BankNo := Fin 32
abbrev RowNo := Fin 65536
abbrev ColNo := Fin 64
/-- A grain's index, mapped 0 to 2,047 or physical 2,048 to 2,303 (05 R130). -/
abbrev GrainNo := Fin 2304
abbrev Quad := Fin 4
/-- Context x of SQs is 8s + x (09 R247). -/
abbrev CtxNo := Fin 32
abbrev PortNo := Fin 6
abbrev MxNo := Fin 4
abbrev LyNo := Fin 2
/-- Queues of 09 Table 9.3, in order: MX0-3, SL0-3, LY0-1, BC0-15. -/
abbrev QueueNo := Fin 26
abbrev SlotNo := Fin 8
abbrev ModNo := Fin 256

end Sys2Proof
end

