-- ==== Sys2Proof/Syntax.lean ====
section
/-! DEFINITION. The commands of the MH-512: one constructor of `Instr` for each row of
spec/opcode_table.json, in the table's order. The table gives no row a bit or an operand; the operands
are the model's: the object a command acts on, and what comes in from outside (log entry 1). -/

namespace Sys2Proof

/-- The half of a 64-bit register a write covers (03 R65, 20 R497). -/
inductive Half where
  | whole | low | high
  deriving DecidableEq, Repr

/-- The path of a mailbox command: the PF's mailbox, or the sideband, which counts as the GRC (03 R81). -/
inductive MbPath where
  | pf | sideband
  deriving DecidableEq, Repr

/-- The CXL event logs (19 R491). -/
inductive EvLog where
  | fatal | failure | informational
  deriving DecidableEq, Repr

/-- What the check bits of a Marl word, or of the engine words a command uses, gave on a read (02 R53, 10 R300, 11 R317). -/
inductive Ecc where
  | clean | corrected | uncorrectable
  deriving DecidableEq, Repr

/-- An HDM decoder setting as the host writes it (03 R67, R68); ways and gran are CXL 3.1 codes. -/
structure HdmSetting where
  base : U64
  size : U64
  skip : U64
  ways : BitVec 4
  gran : BitVec 4
  pos : Nat
  lock : Bool
  deriving DecidableEq, Repr

/-- Where a Marl access goes (02 R32, R42): a line of quadrant space, or a bank line by either of its
names, as a line number (byte address div 64). -/
inductive MarlTarget where
  | quadLine (q : Quad) (line : Nat)
  | dpaLine (line : Nat)
  | localLine (line : Nat)
  deriving DecidableEq, Repr

/-- A port of a bank controller (08 Table 8.1). -/
abbrev BcPort := Fin 8

/-- For each die of a unit, how many bits of its word have flipped since it was last read: 0, 1 or, for two and more, 2
(05 R129). What the environment did to the array comes in with the command that reads it (log entry 94). -/
abbrev Flips := List (Fin 3)

/-- A port request at a bank controller: a whole or partial 128-byte unit (08 R212, R229), with the errors it meets. -/
structure BcReq where
  port : BcPort
  rank : Fin 2
  bank : BankNo
  row : RowNo
  col : ColNo
  write : Bool
  data : Wide
  mask : BitVec 128
  poison : Bool
  flips : Flips
  deriving DecidableEq, Repr

/-- Number formats of the matrix engines and the Slip (10 Table 10.1, Table 10.5). -/
inductive Fmt where
  | fp32 | bf16 | e4m3 | e5m2 | int8 | int32
  deriving DecidableEq, Repr

/-- The kinds of operand of a command (09 R258); a region operand is a generator with its access size. -/
inductive Operand where
  | gen (g : Fin 8) (size : Nat)
  | stream (k : Fin 16)
  | bank (b : Fin 4)
  | tile (t : Fin 4)
  | imm (v : U32)
  | reg (c : Fin 16)
  deriving DecidableEq, Repr

/-- The second operand of a Slip stage (10 R288, R296). -/
inductive SlipArg where
  | input2 | bcast0 | bcast1 | imm0 | imm1
  deriving DecidableEq, Repr

/-- The element stages of 10 Table 10.4. -/
inductive SlipOp where
  | add (a : SlipArg) | sub (a : SlipArg) | mul (a : SlipArg) | max (a : SlipArg) | min (a : SlipArg)
  | iadd (a : SlipArg) | isub (a : SlipArg) | imul (a : SlipArg) | imax (a : SlipArg) | imin (a : SlipArg)
  | fma (a b : SlipArg)
  | land (a : SlipArg) | lor (a : SlipArg)
  | abs | neg | clamp | iabs | ineg | iclamp
  | cast (src dst : Fmt) (sat : Bool)
  | cmpEq (a : SlipArg) | cmpLt (a : SlipArg) | cmpLe (a : SlipArg)
  | icmpEq (a : SlipArg) | icmpLt (a : SlipArg) | icmpLe (a : SlipArg)
  | select (a b : SlipArg)
  | idxRow | idxCol
  | rotatePair (cos sin : SlipArg)
  | exp | log | rsqrt | recip | tanh | sigmoid | silu | gelu
  -- steps of the resident Slip routines that are no stage of a pushed command (R297; log entry 111)
  | rowRms | rotaryOf (dim : Nat) (pos : U32) | routineOf (number : Nat)
  deriving DecidableEq, Repr

/-- The combining operation of a tile stage (10 R292 to R295, Table 10.5). -/
inductive CombOp where
  | sum | max | min | mul | land
  deriving DecidableEq, Repr

/-- The tile stages of 10 Table 10.4; `fp` tells fp32 from int32, `down` rows from columns. -/
inductive TileStage where
  | reduce (op : CombOp) (fp : Bool) (down : Bool)
  | scan (op : CombOp) (fp : Bool) (down : Bool) (seg : Option (Fin 4))
  | argmaxRow (fp : Bool)
  | topkRow (k : Nat)
  deriving DecidableEq, Repr

/-- A Slip command: a chain of stages over its rows (10 R288, R290, R291, R296). -/
structure SlipCmd where
  stages : List SlipOp
  tile : Option TileStage
  in1 : Operand
  in1Fmt : Fmt
  in2 : Option Operand
  in2Fmt : Fmt
  bcast0 : Option (Operand × Bool)
  bcast1 : Option (Operand × Bool)
  i0 : U32
  i1 : U32
  rows : Nat
  cols : Nat
  laneMask : Option (Fin 4)
  maskOut : Option (Fin 4)
  out : Operand
  outFmt : Fmt
  sat : Bool
  deriving DecidableEq, Repr

/-- The grains of one rank that a P1 command selects (07 R191): a die mask and a grain mask. -/
structure GrainSel where
  dies : BitVec 4
  grains : BitVec 16
  deriving DecidableEq, Repr

/-- The engine commands of 09 Table 9.3. A bank address is a line number, in DPA (`loc` false) or in bank-local space (`loc`
true); a fill with `bind` binds the lines to its region operand (02 R35; log entry 95). `regionWord` reads a 32-bit word of a
region for a value register (R263). -/
inductive EngCmd where
  | weightLoad (buf : Fin 2) (fmt : Fmt) (src : Operand)
  | product (a : Operand) (aFmt : Fmt) (buf : Fin 2) (bank : Fin 4) (start : Bool)
  | slip (c : SlipCmd)
  | regionWord (src : Operand) (word : Fin 16384)
  | layout (d s t : Fin 8)
  | fill (dst : Operand) (line : Nat) (loc : Bool) (lines : Nat) (bind : Bool)
  | drain (src : Operand) (line : Nat) (loc : Bool) (lines : Nat)
  | spread (rank : Fin 2) (sel : GrainSel) (insn : U32) (row : RowNo) (act pre : Bool)
  | grun (rank : Fin 2) (sel : GrainSel) (entry : Fin 2048)
  | craw (rank : Fin 2) (sel : GrainSel) (slot : Fin 7) (data : ColData)
  | craWord (rank : Fin 2) (die : Die) (grain : Fin 16) (word : Fin 8)
  deriving DecidableEq, Repr

/-- A push of a context: its queue, its command, and what it carries (09 R257, R263, 12 R324, R328); `lib` marks the push
that a CALL of a resident Slip routine makes (10 R297). -/
structure Push where
  queue : QueueNo
  cmd : EngCmd
  flag : Option (Bool × Nat)
  wire : Option (Fin 8)
  value : Option (Fin 16)
  lib : Bool := false
  deriving DecidableEq, Repr

/-- A generator's new value: a value register, an immediate, or a 32-bit word of the argument area (09 R256). -/
inductive ValSrc where
  | reg (c : Fin 16)
  | imm (v : U32)
  | arg (i : Fin 4096)
  deriving DecidableEq, Repr

/-- A loop's count: an immediate of 0 to 2^24 - 1, or a value register (09 R254). -/
inductive LoopCount where
  | reg (c : Fin 16)
  | imm (v : BitVec 24)
  deriving DecidableEq, Repr

/-- The second operand of a branch: a value register, or an 18-bit immediate (09 R264). -/
inductive BranchArg where
  | reg (c : Fin 16)
  | imm (v : BitVec 18)
  deriving DecidableEq, Repr

/-- The field of a generator that GENERATOR_SET writes (09 R256). -/
inductive GenField where
  | base
  | stride (l : Fin 6)
  | region (r : Fin 32)
  deriving DecidableEq, Repr

/-- The flag spaces of routines 0x30 to 0x32 (12 R324). -/
inductive FlagSpace where
  | loc | shared
  deriving DecidableEq, Repr

/-- The engines a watchdog measures (12 R336): MX with its Slip, LY, or the grain work of a rank. -/
inductive WdEngine where
  | mx (n : MxNo)
  | ly (n : LyNo)
  | grains (c : Chan) (r : Rank)
  deriving DecidableEq, Repr

/-- The fields of a packet header that a receiver uses (15 Table 15.2). -/
structure PktHdr where
  vc : Bool
  nack : Bool
  crdVc : Bool
  crd : BitVec 12
  seq : U32
  ack : U32
  dst : Byte
  src : Byte
  detour : Bool
  wrongWay : Bool
  tag : Place
  deriving DecidableEq, Repr

/-- An IDENT's payload (15 Table 15.4). -/
structure IdentPl where
  rackId : U32
  planGen : U32
  pos : Byte
  port : BitVec 3
  laneOk : BitVec 8
  serial : U64
  rxNext : U32
  deriving DecidableEq, Repr

/-- A TSYNC's payload (15 Table 15.8). -/
structure TsyncPl where
  tx : U64
  echoTx : U64
  echoRx : U64
  root : BitVec 9
  dist : BitVec 4
  deriving DecidableEq, Repr

/-- What makes a receiver discard a packet (15 R399). -/
inductive Discard where
  | crc | fec | len3 | seq | linkLocalCrc
  deriving DecidableEq, Repr

/-- The islands whose clocks the loops act on (01 Table 1.2, 16 Table 16.3). -/
inductive Island where
  | host | marl (q : Quad) | seq | mx (n : MxNo) | lay | bc (c : Chan) | lk (p : PortNo) | pmu
  | grain (c : Chan) (r : Rank) (d : Die)
  deriving DecidableEq, Repr

/-- The self-tests of step 7 (18 R466, R467). -/
inductive SelfTest where
  | rom | mx (n : MxNo) | lay
  deriving DecidableEq, Repr

/-- What fails a rank (08 R239). -/
inductive RankCause where
  | chk2 | ca | corrected
  deriving DecidableEq, Repr

/-- A sweep of a rank's training (08 R213): its set, its step (one less than its number in R213), its lane, which of its 128
delays or references passed, and the read reference of the lane, for which R213 gives no sweep. -/
structure TrainResult where
  rank : Rank
  lane : Fin 8
  setB : Bool
  step : Fin 5
  passed : BitVec 128
  rvref : BitVec 7
  deriving DecidableEq, Repr

/-- What the GRC reads of a module (17 R457, R461): whether it is healthy, its grains in service, its fenced ranks, the ports that
are UP, and those that are UP or DEGRADED. -/
structure ModReport where
  m : ModNo
  healthy : Bool
  grains : Nat
  fencedRanks : Nat
  upPorts : BitVec 6
  carryPorts : BitVec 6
  deriving DecidableEq, Repr

/-- Why the GRC fences a module (17 R458). -/
inductive FenceCause where
  | latched | thermal | planFailed | notReady | ordered
  deriving DecidableEq, Repr

/-- What a write to the host carried that the host rejected (04 R127, 19 R495). -/
inductive HostWriteKind where
  | doneRecord | inspect | evcSnap
  deriving DecidableEq, Repr

/-- The commands, one per row of spec/opcode_table.json. -/
inductive Instr where
  -- doorbells and rings (04)
  | workDoorbell (pfPage : Bool) (f : Func) (v : U64)
  | cancelDoorbell (pfPage : Bool) (f : Func) (v : U64)
  | ringCfgWrite (pfPage : Bool) (f : Func) (h : Half) (v : U64)
  | ringBaseWrite (pfPage : Bool) (f : Func) (done : Bool) (h : Half) (v : U64)
  | doorbellPageBadAccess (pfPage : Bool) (f : Func) (write : Bool) (off : Nat) (size : Nat)
  | descriptorFetchIssue (f : Func) (n : Nat)
  | descriptorFetchLand (f : Func) (k : Fin 4) (slots : List (List U64)) (bad : Option (Fin 8))
  | descriptorAccept (f : Func)
  -- descriptors (04 Table 4.6)
  | nop (p : Place)
  | fence (p : Place)
  | fenceWaitsEnd (p : Place)
  | resync (p : Place)
  | inspect (p : Place)
  | run (p : Place) (image : List Byte)
  | serveStep (p : Place) (batch : List (List U64))
  | cancel (p : Place)
  | copy (p : Place)
  | spread (p : Place)
  | grainRun (p : Place)
  | tilthLoad (p : Place) (code : List U32)
  | keepWrite (p : Place) (src : List Line)
  | keepRead (p : Place)
  | ship (p : Place) (list : List U64)
  | signal (p : Place)
  | pageGrant (p : Place)
  | pageReturn (p : Place) (list : List U32)
  | pageClear (p : Place)
  | evcSnap (p : Place)
  | contextAssign (p : Place)
  | descriptorCompletion (p : Place)
  | doneRecordWrite (f : Func)
  -- the host side (03)
  | flrVf (f : Func)
  | hdmDecoderCommit (dec : Fin 2) (v : HdmSetting)
  | cxlMemRead (hpa : U64)
  | cxlMemWrite (hpa : U64) (data : Line) (mask : BitVec 64)
  | cxlLinkLoss
  | ideIntegrityFailure (mem : Bool)
  | conventionalReset
  | hubResetWrite (v : U64)
  -- mailbox (03 Table 3.8)
  | getEventRecords (path : MbPath) (log : EvLog) (count : Nat)
  | clearEventRecords (path : MbPath) (log : EvLog) (handles : List U16)
  | getFwInfo (path : MbPath)
  | transferFw (path : MbPath) (slot : Fin 2) (image : List Byte)
  | activateFw (path : MbPath) (slot : Fin 2) (online : Bool)
  | getTimestamp (path : MbPath)
  | setTimestamp (path : MbPath) (v : U64)
  | getSupportedLogs (path : MbPath)
  | getLog (path : MbPath) (index : Nat)
  | identifyMemoryDevice (path : MbPath)
  | getHealthInfo (path : MbPath)
  | getPoisonList (path : MbPath)
  | keepGetInfo (path : MbPath) (payload : List Byte)
  | keepSetSize (path : MbPath) (payload : List Byte)
  | planLoad (path : MbPath) (payload : List Byte)
  | planGet (path : MbPath) (payload : List Byte)
  | rampSet (path : MbPath) (payload : List Byte)
  | rampGet (path : MbPath) (payload : List Byte)
  | unsupportedMailboxCommand (path : MbPath) (opcode : U16)
  -- SPDM, IDE, CDAT (03 R79, R80, R63)
  | getVersion
  | getCapabilities (flags : U32)
  | negotiateAlgorithms (asym hash : U32)
  | getDigests
  | getCertificate (slot : Nat) (off len : Nat)
  | challenge (slot : Nat) (nonce : BitVec 256)
  | getMeasurements (index : Nat)
  | keyExchange (data : List Byte)
  | finish (verify : List Byte)
  | endSession
  | ideKm (mem : Bool) (skid : Bool) (key : BitVec 256)
  | cdatRead
  -- the Marl (02)
  | marlWriteCommit (t : MarlTarget) (data : Line) (mask : BitVec 64) (poison : Bool)
  | marlRead (t : MarlTarget) (ecc : Ecc)
  | marlPatrolScrub (t : MarlTarget) (ecc : Ecc)
  | passLaneAgeExpiry (c : Chan) (r : Fin 2)
  | writeBack (word : Nat)
  | regionRelease (id : Nat)
  | preCommandWriteBack (c : Chan)
  | marlPartTakeEffect
  -- command/address bus and dies (07)
  | act (c : Chan) (r : Rank) (bank : BankNo) (row : RowNo)
  | rd (c : Chan) (r : Rank) (bank : BankNo) (col : ColNo) (ap : Bool) (flips : Flips)
  | wr (c : Chan) (r : Rank) (bank : BankNo) (col : ColNo) (ap poison : Bool) (data : Wide)
  | pre (c : Chan) (r : Rank) (bank : BankNo) (all : Bool)
  | ref (c : Chan) (r : Rank) (bank : BankNo) (all : Bool)
  | mrw (c : Chan) (r : Rank) (addr : Byte) (data : Byte) (dies : BitVec 4)
  | mrr (c : Chan) (r : Rank) (addr : Byte)
  | grainSelfTestStart (c : Chan) (r : Rank) (dies : BitVec 4)
  | alertCauseClear (c : Chan) (r : Rank) (dies : BitVec 4) (causes : Byte)
  | modeChangeEffect (c : Chan) (r : Rank) (d : Die)
  | sre (c : Chan) (r : Rank)
  | srx (c : Chan) (r : Rank)
  | zq (c : Chan) (r : Rank)
  | sel (c : Chan) (r : Rank) (sel : GrainSel)
  | actg (c : Chan) (r : Rank) (row : RowNo)
  | preg (c : Chan) (r : Rank)
  | sprd (c : Chan) (r : Rank) (insn : U32)
  | grun (c : Chan) (r : Rank) (entry : Fin 2048)
  | haltg (c : Chan) (r : Rank)
  | stat (c : Chan) (r : Rank)
  | craw (c : Chan) (r : Rank) (slot : Fin 7) (data : Wide)
  | crar (c : Chan) (r : Rank) (slot : Fin 8) (grain : Fin 16)
  | tlw (c : Chan) (r : Rank) (index : Byte) (words : Byte) (data : Wide)
  | tlr (c : Chan) (r : Rank) (index : Byte) (grain : Fin 16)
  | bind (c : Chan) (r : Rank) (lo hi : BitVec 12) (f : Func)
  | undefinedCaCommand (c : Chan) (r : Rank) (cycles : List (BitVec 15))
  | resetNRelease (c : Chan) (r : Rank)
  | spreadEnd (c : Chan) (r : Rank) (grains : BitVec 64)
  | grainStop (g : GrainNo) (parity : Bool)
  -- Tilth code (06)
  | halt (g : GrainNo)
  | tilthNop (g : GrainNo)
  | loopi (g : GrainNo)
  | loopr (g : GrainNo)
  | br (g : GrainNo)
  | salu (g : GrainNo)
  | addi (g : GrainNo)
  | ori (g : GrainNo)
  | lui (g : GrainNo)
  | shi (g : GrainNo)
  | sgetv (g : GrainNo)
  | vsets (g : GrainNo)
  | vldc (g : GrainNo)
  | vstc (g : GrainNo)
  | vlds (g : GrainNo)
  | vsts (g : GrainNo)
  | slds (g : GrainNo)
  | ssts (g : GrainNo)
  | sldr (g : GrainNo)
  | sstr (g : GrainNo)
  | alds (g : GrainNo)
  | asts (g : GrainNo)
  | aldc (g : GrainNo)
  | astc (g : GrainNo)
  | vop (g : GrainNo)
  | vsplat (g : GrainNo)
  | vcmp (g : GrainNo)
  | mac (g : GrainNo)
  | macc (g : GrainNo)
  | bpmac (g : GrainNo)
  | aop (g : GrainNo)
  | ahred (g : GrainNo)
  | send (g : GrainNo)
  | recv (g : GrainNo)
  | radd (g : GrainNo)
  | seamVectorArrive (g : GrainNo) (down : Bool)
  -- bank controllers (08)
  | refreshDue (c : Chan) (r : Rank) (bank : BankNo)
  | temperatureRead (c : Chan) (r : Rank) (temps : List Int)
  | neighbourRefresh (c : Chan)
  | throttleRelease (c : Chan)
  | bcRequestLatch (c : Chan) (req : BcReq)
  | statPoll (c : Chan) (r : Rank)
  | alertNLow (c : Chan)
  | refreshGuard (c : Chan) (r : Rank) (bank : BankNo)
  | bcFreqWrite (v : U64)
  | rankFailure (c : Chan) (r : Rank) (cause : RankCause) (dpa : Nat)
  | migrationStart (q : Quad)
  | migrationRowCopy (q : Quad)
  | migrationComplete (q : Quad)
  | bankPatrolScrub (c : Chan) (r : Rank) (bank : BankNo) (row : RowNo) (col : ColNo) (flips : Flips)
  | bcRelease (c : Chan) (results : List TrainResult)
  -- sequencers (09)
  | imageLoadComplete (x : CtxNo) (image args : List Byte)
  | commandPush (x : CtxNo) (cmd : Push)
  | loopOpen (x : CtxNo) (count : LoopCount) (body bodyEnd : U32)
  | branch (x : CtxNo) (cond : Fin 9) (a : Fin 16) (b : BranchArg) (target : U32)
  | call (x : CtxNo) (routine : Byte)
  | ret (x : CtxNo)
  | valueOp (x : CtxNo) (fn : Fin 16) (d a b : Fin 16)
  | generatorSet (x : CtxNo) (g : Fin 8) (fld : GenField) (v : ValSrc)
  | contextEnd (x : CtxNo)
  | contextWake (x : CtxNo)
  | engineCommandComplete (q : QueueNo)
  | contextWatchdogExpiry (x : CtxNo)
  | engineWatchdogExpiry (e : WdEngine)
  -- flags and wires (12)
  | flagSet (x : CtxNo) (sp : FlagSpace) (n : Nat)
  | flagClear (x : CtxNo) (sp : FlagSpace) (n : Nat)
  | flagWait (x : CtxNo) (sp : FlagSpace) (n : Nat) (want : Bool)
  | flagWaitConsume (x : CtxNo) (sp : FlagSpace) (n : Nat)
  | remoteSignal (x : CtxNo) (n : Nat) (dst : Byte)
  | barrierClaim (x : CtxNo) (w : Fin 8) (n : BitVec 6) (moduleWide : Bool)
  | barrierArrive (x : CtxNo) (w : Fin 8)
  | barrierArriveWait (x : CtxNo) (w : Fin 8)
  | barrierWait (x : CtxNo) (w : Fin 8)
  | moduleWideWireRelease (w : Fin 8)
  | realignRequest (x : CtxNo) (k : Fin 16)
  -- engines (10, 11)
  | weightLoad (n : MxNo) (ecc : Ecc)
  | productPass (n : MxNo) (ecc : Ecc)
  | slipCommand (n : MxNo) (ecc : Ecc)
  | layoutCommand (n : LyNo)
  | layoutStep (n : LyNo) (ecc : Ecc)
  -- serving (13, 14)
  | workUnitEnd (x : CtxNo) (ended : List (Fin 1024))
  | rowCommit (p : Place) (row : Fin 1024)
  | outputTableWrite (p : Place)
  | hubModelTakeEffect (f : Func) (slot : Fin 16)
  | grnPartTakeEffect (f : Func)
  -- links (15)
  | ident (p : PortNo) (h : PktHdr) (pl : IdentPl)
  | lack (p : PortNo) (h : PktHdr)
  | tsync (p : PortNo) (h : PktHdr) (pl : TsyncPl)
  | openShip (p : PortNo) (h : PktHdr) (flag : BitVec 14) (part : BitVec 6) (last : Bool) (pages : List U32)
  | openReply (p : PortNo) (h : PktHdr) (code : BitVec 2)
  | write (p : PortNo) (h : PktHdr) (page : BitVec 23) (segment : Byte) (data : BitVec 2048) (poison : Bool)
  | writeAck (p : PortNo) (h : PktHdr) (entry : BitVec 12)
  | flagSetPacket (p : PortNo) (h : PktHdr) (flag : BitVec 14) (ship : Bool)
  | flagReply (p : PortNo) (h : PktHdr) (code : BitVec 2)
  | abort (p : PortNo) (h : PktHdr)
  | noroute (p : PortNo) (h : PktHdr) (type : BitVec 6)
  | unknownPacket (p : PortNo) (h : PktHdr) (type : BitVec 6) (payload : Bool)
  | packetForward (p : PortNo) (vc : Bool)
  | replayTimerExpiry (p : PortNo)
  | codewordErrorLimit (p : PortNo)
  | signalDetect (p : PortNo) (polarity reversed : Bool)
  | lossOfSignal (p : PortNo)
  | laneFailure (p : PortNo) (lane : Fin 8)
  | identSendTimer (p : PortNo)
  | tsyncSendTimer (p : PortNo)
  | rateLoopCheck (p : PortNo) (corrected : Nat) (symbols : Nat) (uncorrectable : Nat) (codewords : Nat)
  | rateRetryTimer (p : PortNo)
  -- power and the Keep region (16)
  | powerLossLatch (cause : Fin 4) (minMv : Nat) (covers : Nat)
  | powerMeasure (watts : Nat) (predicted : Nat)
  | rampInterval
  | thermalSense (isl : Island) (temp : Int)
  | voltageDroop (isl : Island) (ns : Nat)
  | channelFreqLoop
  | holdupVoltageMeasure (mv : Nat)
  | capacitanceMeasure (uf : Nat) (mv : Nat) (cellFault : Bool)
  | trickleCleanTimer (block : Nat)
  | keepCopyCommit (block : Nat)
  | nandProgramFailure (block : Nat)
  | thermalTrip (isl : Island) (temp : Int)
  | holdupChargeComplete (uf mv : Nat)
  -- tray and rack (16 R418 to R420, 17)
  | slotEnable (i : SlotNo)
  | inrushComplete (i : SlotNo) (outMv : Nat) (busMv : Nat) (ma : Nat)
  | efuseFastTrip (i : SlotNo) (ma : Nat)
  | efuseLimitTrip (i : SlotNo)
  | inrushBudgetExpiry (i : SlotNo)
  | busLowHold (mv : Nat)
  | busRecover (mv : Nat)
  | slotRetry (i : SlotNo)
  | slotOff (i : SlotNo)
  | clearLatch (i : SlotNo)
  | coldResetOrder
  | capacityChange (shelves : Nat) (trays : Nat) (seen : List ModReport)
  | budgetDistribution (held : List (ModNo × Nat))
  | moduleFence (m : ModNo) (cause : FenceCause)
  | grcRestart (budgetGens planGens : List U32) (seen : List ModReport)
  -- start-up and faults (18)
  | powerGood (slotId : BitVec 3)
  | marlSelfTestDone (ok : Bool)
  | islandSelfTestDone (which : SelfTest) (ok : Bool)
  | grainSelfTestDone (failing : List GrainNo)
  | memoryInitDone
  | keepRestoreDone
  | mediaReady
  | fabricReady
  | fabricWaitExpiry (p : PortNo)
  | pmuWatchdogExpiry
  | hubFault (code : Fin 4) (location : BitVec 12) (sliceRow : U16) (deadSlices : List (Fin 64))
  | paritySweep (offsets : List Nat)
  -- setup registers (20)
  | registerWrite (off : Nat) (size : Nat) (v : U64)
  | marlPartCommit (v : U64)
  | hubTenCommit (v : U64)
  | hubModelCommit (v : U64)
  | bcMapCommit (v : U64)
  | grnPartCommit (v : U64)
  | synFlagbCommit (v : U64)
  | lnkLaneCommit (v : U64)
  | keepCommit (v : U64)
  | evcCfgWrite (n : Fin 16) (h : Half) (v : U64)
  | flrPf
  | flrWorkTimeout (f : Func)
  | perstDeassert
  | cxlLinkUp (lanes rate : Nat) (flit256 : Bool)
  | packetDiscard (p : PortNo) (why : Discard) (h : PktHdr)
  | hostWriteRejected (f : Func) (kind : HostWriteKind)
  | pmuFirmwareRestartDone
  | frequencyChangeDone (c : Chan) (ok : Bool)
  deriving DecidableEq, Repr

end Sys2Proof
end

