-- ==== Sys2Proof/Config.lean ====
section
/-! DEFINITION. The values the spec leaves open, as free values: opaque constants that nothing in Lean
can evaluate. A name with a first argument `n : Nat` is applied to the state's counter `freeCtr`. -/

namespace Sys2Proof.Config

/-- exp, log, rsqrt, recip, tanh and sigmoid of an fp32 pattern away from the special values: fixed functions, whose error
bound Machine/Fp.lean keeps (06 R174, 10 R284); and the tanh-form gelu, a fixed sequence. Log entry 21. -/
opaque expBits : U32 → U32
opaque logBits : U32 → U32
opaque rsqrtBits : U32 → U32
opaque recipBits : U32 → U32
opaque tanhBits : U32 → U32
opaque sigmoidBits : U32 → U32
opaque geluBits : U32 → U32

/-- Whether an image's ECDSA P-384 signature verifies (03 R83). Log entry 9. -/
opaque fwSignatureOk : List Byte → Bool
/-- The library routines that a firmware image holds patch images of (09 R267). Log entry 9. -/
opaque imagePatches : List Byte → List Nat
/-- Whether a patch image's signature verifies at start-up (09 R267). Log entry 9. -/
opaque patchSignatureOk : Nat → Bool
/-- SHA-256 of a byte string (09 R268). Log entry 9. -/
opaque sha256 : List Byte → BitVec 256
/-- The measurement values of 03 Table 3.7. Log entry 9. -/
opaque measurement : Nat → Nat → BitVec 384
/-- The answer bytes of an SPDM request whose content the spec does not lay out. Log entry 9. -/
opaque spdmAnswer : Nat → List Byte
/-- Whether a secured session's handshake verifies (03 R80). Log entry 9. -/
opaque spdmFinishOk : Nat → List Byte → Bool
/-- The module's serial, fixed at manufacture (20 Table 20.4). Log entry 22. -/
opaque serial : U64
/-- The answer bytes of a CXL mailbox command whose layout the spec leaves to CXL 3.1. Log entry 23. -/
opaque mailboxAnswer : Nat → List Byte

/-- The neighbour-refresh draw of an activation, from a 32-bit LFSR whose polynomial is not given
(08 R225). Log entry 13. -/
opaque lfsrDraw : Nat → U32
/-- Whether a grain holds weight tiles of the model whose manifest lies at a DPA (13 R342, private tables). Log entry
19. -/
opaque weightsOn : Nat → Nat → Bool
/-- What the placement tables of a manifest say of a weight tile: the grain and the slot that hold it, by layer, matrix, row
group and input tile (13 R342, private). Log entry 19. -/
opaque tileGrain : List Line → Nat → Nat → Nat → Nat → Nat
opaque tileSlot : List Line → Nat → Nat → Nat → Nat → Nat
/-- A product over bit-plane weights, whose slots and scales are private: by manifest, weight pages, layer, matrix, output,
tiles and inputs (13 R354). Log entry 112. -/
opaque planePartial : List Line → (Nat → Line) → Nat → Nat → Nat → List Nat → (Nat → U16) → U32
/-- The resident routines' embedding of a token, norms, rotation of K, and activation (13 R342, private): functions of what 13
R350 lets a row depend on. Log entry 112. -/
opaque embedded : List Line → (Nat → Line) → Nat → Nat → U16
opaque normed : List Line → (Nat → Line) → Nat → (Nat → U16) → Nat → U16
opaque rotated : List Line → Nat → Nat → (Nat → U32) → U16
opaque activated : Bool → U32 → U32 → U16
/-- A span's attention partial (13 R354): m, l and an element of o, by manifest, layer, head, element, whether the matrix
engines form it, the span's first position and the last valid one, the span, the K and V that the row appends, and the query.
Log entry 112. -/
opaque attnPart : List Line × Nat × Nat × Nat × Bool × Nat × Nat → (Nat → Line) → (Nat → Nat → U16) → (Nat → Nat → U16)
  → (Nat → U32) → Nat → U32
/-- The token where no running sum exceeds the draw, by the logits, the seed and the position (13 R356). Log entry 46. -/
opaque noDraw : List U32 → U32 → Nat → U32
/-- The data of a CXL.mem read that carries poison where no rule says which data (03 R69, 08 R219, R243).
Log entry 18. -/
opaque poisonedLine : Nat → Line
/-- The poison indication of a CXL.mem read that no committed decoder maps (03 R67). Log entry 26. -/
opaque strayPoison : Nat → Bool
/-- The detail word of a PREEMPTED that a peer's reply reports: the reply does not name the winner
(15 Table 15.3). Log entry 32. -/
opaque winner : Nat → U64
/-- The slice row of a pass-lane slice that holds a column word's line (02 R30: the spec does not lay the pass lane out).
Log entry 44. -/
opaque passRow : Nat → U16
/-- A column word and a line of quadrant space whose contents the spec leaves undefined after work that wrote them (04
R120, 05 R159, 09 R276, 11 R316, 15 R410). Log entry 18. -/
opaque undefinedCol : Nat → Nat → ColData
opaque undefinedLine : Nat → Nat → Line
/-- The program position of a library routine's first operation (09 R266, private). Log entry 20. -/
opaque routineEntry : Nat → U32

/-- A result of a matrix engine or of the Slip that the spec does not state, by the value's number and its place.
Log entry 46. -/
opaque engineBits : Nat → Nat → U32
/-- What the spec leaves open of a resident Slip routine: what it leaves in the registers and generators, the Slip it uses, a
count beyond its bound. Log entry 111. -/
opaque routineWord : Nat → Nat → U32
/-- The grain clocks of a run whose clocks depend on times the model leaves out (05 Table 5.4). Log entry 39. -/
opaque runClocks : Nat → U32
/-- How many column slots of a store a halt command lets finish (05 R159). Log entry 39. -/
opaque haltSlot : Nat → Nat
/-- What the data and CHK lines carry in a burst that a die does not drive (07 R192, R206). Log entry 40. -/
opaque undriven : Nat → BitVec 258

/-- How many REFs a bank controller issues ahead of what a bank owes (08 R221). Log entry 103. -/
opaque refAhead : Nat → BitVec 4

/-- Whether a destination that refuses a shipment refuses its flag, not a page of its list (15 Table 15.3). Log entry 109. -/
opaque flagRefused : Nat → Bool

/-- What the module indicator shows between step 3 of the start and Media Ready, by its place in 21 Table 21.4, which gives it no
state there (log entry 115). -/
opaque startLight : Fin 4

end Sys2Proof.Config
end

