-- ==== Sys2Proof/Machine/State.lean ====
section
/-! DEFINITION. The state of one MH-512 as plain data, with what the model keeps of the tray and the
rack, and the state after reset. Tables keyed by a number are lists of pairs (`Tab`). -/

namespace Sys2Proof.Machine

/-- Where a step stops: nowhere. The spec gives every command an effect, or the model a free value (log entry 26). -/
inductive Fault where
  deriving DecidableEq, Repr

/-- What the model does not give a meaning. -/
inductive Refusal where
  /-- Raised by an arm of exec for a command not yet modelled. Safe: the model stops. -/
  | notModelled (mnemonic : String)
  deriving DecidableEq, Repr

/-- A sparse table: pairs of a key and a value, keys strictly rising, no value equal to the default. -/
abbrev Tab (β : Type) := List (Nat × β)

/-- The bytes of the bank array: Host.Cell pairs keyed by 32 times the column-word number plus the byte
(05 R128); a byte that is not listed reads as 0. -/
abbrev Memory := List Host.Cell

/-! ### What leaves the module -/

/-- Mailbox return codes (03 R81 to R87). -/
inductive MbCode where
  | success | unsupported | invalidInput | busy | retryRequired
  deriving DecidableEq, Repr

/-- Packets as a port sends them (15 Table 15.3). -/
inductive Pkt where
  | ident (pl : IdentPl)
  | lack
  | tsync (pl : TsyncPl)
  | openShip (flag : BitVec 14) (part : BitVec 6) (last : Bool) (pages : List U32)
  | openReply (code : BitVec 2)
  | write (page : BitVec 23) (segment : Byte) (data : BitVec 2048) (poison : Bool)
  | writeAck (entry : BitVec 12)
  | flagSet (flag : BitVec 14) (ship : Bool)
  | flagReply (code : BitVec 2)
  | abort
  | noroute (type : BitVec 6)
  deriving DecidableEq, Repr

/-- What goes over the sideband or is logged outside the module: reports to the TMC and the GRC, the TMC's log of its
slots (16 R420), the GRC's orders (17 Table 17.4). -/
inductive Report where
  | fabricReady | hubFault | holdupFault | thermalTrip
  | slotTrip (i : Nat) | slotRetry (i : Nat) | slotLatch (i : Nat)
  | rampOrder (m up down cap : Nat) | slotOffOrder (m : Nat)
  deriving DecidableEq, Repr

/-- The rack mode (17 R459). -/
inductive RackMode where
  | full | degraded | belowFloor
  deriving DecidableEq, Repr

/-- The rack capacity report (17 Table 17.5): the bandwidth in GB/s, the matrix figure in tenths of a TFLOPS, and the ordered
pairs of modules that routing does not join (R462). -/
structure Capacity where
  mode : RackMode
  healthy : Nat
  grains : Nat
  nearBankGbs : Nat
  dpaGib : Nat
  matrixTenths : Nat
  unreachable : List (Nat × Nat)
  maxHops : Nat
  deriving DecidableEq, Repr

/-- What the module sends out, in order (log entry 5); `hostRead` a read of host memory over CXL.io: its address and how
many bytes. -/
inductive Out where
  | hostRead (addr : U64) (bytes : Nat)
  | hostWrite (addr : U64) (words : List U64)
  | hostIds (addr : U64) (ids : List U32)
  | msix (f : Func) (v : Fin 8)
  | memData (hpa : U64) (data : Line) (poison : Bool)
  | memDone (hpa : U64)
  | marlData (t : MarlTarget) (data : Line) (poison : Bool)
  | mailbox (path : MbPath) (code : MbCode) (ext : U16) (payload : List Byte)
  | doe (words : List U64) (bytes : List Byte)
  | regData (off : Nat) (v : U64)
  | packet (p : PortNo) (h : PktHdr) (k : Pkt)
  | caData (c : Chan) (r : Rank) (d : Wide) (chk : BitVec 8)
  | bcData (c : Chan) (port : BcPort) (data : Wide) (poison : Bool)
  | sideband (r : Report) (v : U64)
  | planOrder (m : Nat) (payload : List Byte)
  | capacity (c : Capacity)
  | flrDone (f : Func)
  deriving DecidableEq, Repr

/-! ### Clocks, start-up, the host side -/

/-- The timebase and the time stamps (00 R5, 03 R82, 15 R413); `up` the ns since power good (18 Table 18.2). -/
structure Clk where
  mtb : U64
  tsOffset : U64
  slew : Int
  slewWait : Nat
  stepped : Bool
  up : U64
  deriving DecidableEq, Repr

/-- Start-up and health (18 R466 to R473, R479). -/
structure Boot where
  powered : Bool
  slotId : BitVec 3
  powerOnCount : U32
  phase : Byte
  code : Byte
  mediaReady : Bool
  fabricReady : Bool
  fwSlot : Bool
  fwFallback : Bool
  hubFault : Bool
  ms : U32
  relHost : Bool
  relMarl : Bool
  relBc : BitVec 16
  relSeq : Bool
  relLay : Bool
  relMx : BitVec 4
  relLk : Bool
  testFails : Tab Nat
  grainFails : List Nat
  grainTested : Bool
  memInit : Bool
  keepRestored : Bool
  wdLast : Option U64
  fwRestarting : Bool
  portWaived : BitVec 6
  patched : List Nat
  deriving DecidableEq, Repr

/-- An HDM decoder (03 R67, R68). -/
structure Hdm where
  set : HdmSetting
  committed : Bool
  error : Bool
  deriving DecidableEq, Repr

/-- An IDE stream (03 R79): its key once IDE_KM has given one, its mode (skid or containment), whether it ended in an
integrity failure. -/
structure Ide where
  key : Option (BitVec 256)
  skid : Bool
  failed : Bool
  deriving DecidableEq, Repr

/-- The CXL port (03 R60, R63, R67, R79; 21 R523): its two IDE streams; the FLRs of VFs that have not completed, with their
times (03 R78); the answer that the primary mailbox's registers hold (03 R64, R81). -/
structure Cxl where
  up : Bool
  perst : Bool
  lanes : Nat
  rate : Nat
  flit256 : Bool
  ideIo : Ide
  ideMem : Ide
  hdm0 : Hdm
  hdm1 : Hdm
  flrs : Tab U64
  mbox : MbCode × U16 × List Byte
  deriving DecidableEq, Repr

/-- The firmware store (03 R83); `patches` the library routines it holds a patch image of (09 R267). -/
structure Fw where
  patches : List Nat
  valid0 : Bool
  valid1 : Bool
  image0 : List Byte
  image1 : List Byte
  active : Bool
  nextSlot : Bool
  deriving DecidableEq, Repr

/-- The SPDM responder's connection (03 R80). -/
structure Spdm where
  version : Bool
  caps : Bool
  algs : Bool
  exchanged : Bool
  session : Bool
  deriving DecidableEq, Repr

/-! ### Setup registers (20) -/

/-- A pair group (20 R502 to R504). -/
structure Pair (α : Type) where
  staged : α
  inForce : α
  waiting : Option α
  mismatch : Bool
  preempted : Bool
  busy : Bool
  deriving DecidableEq, Repr

structure Ten where
  base : BitVec 12
  limit : BitVec 12
  deriving DecidableEq, Repr

structure MarlPart where
  bc : BitVec 5
  lk : BitVec 6
  deriving DecidableEq, Repr

structure BcMap where
  order : BitVec 2
  ranks : U32
  deriving DecidableEq, Repr

structure GrnPart where
  set : BitVec 38
  lo : BitVec 12
  hi : BitVec 12
  flagQ : BitVec 15
  deriving DecidableEq, Repr

structure LnkLane where
  lanes : BitVec 4
  map : BitVec 24
  deriving DecidableEq, Repr

structure KeepSz where
  size : BitVec 6
  rsv : BitVec 6
  deriving DecidableEq, Repr

/-- HUB_COST_FIX, POS, ATT, PF (14 Table 14.2). -/
structure Cost where
  fix : U64
  pos : U64
  att : U64
  pf : U64
  deriving DecidableEq, Repr

/-- Port configuration of a bank controller (08 Table 8.1). -/
structure PortCfg where
  target : U16
  mode : Bool
  deriving DecidableEq, Repr

/-- A lane's training record (08 R214). -/
structure Trn where
  left : BitVec 7
  right : BitVec 7
  centre : BitVec 7
  wvref : BitVec 7
  rvref : BitVec 7
  pass : Bool
  deriving DecidableEq, Repr

/-- An EVC_CFGn (19 Table 19.3). -/
structure Evc where
  source : Byte
  inst : Byte
  func : Byte
  enable : Bool
  deriving DecidableEq, Repr

/-- The HUB, MARL, GRN and SYN setup registers (20 Tables 20.4, 20.5, 20.7, 20.8). -/
structure HubRegs where
  tenSel : Byte
  modelFn : Byte
  modelSlot : BitVec 4
  grnSel : Byte
  ten : Tab (Pair Ten)
  model : Tab (Pair (BitVec 39))
  descQuota : Tab (BitVec 11)
  posQuota : Tab U16
  pageQuota : Tab (BitVec 24)
  marlQuota : Tab (BitVec 12)
  cost : Tab Cost
  marlPart : Pair MarlPart
  dirtyCap : BitVec 5
  grnPart : Tab (Pair GrnPart)
  flagBase : Tab (Pair (BitVec 14))
  realign : BitVec 5
  wdCtx : BitVec 10
  wdEng : BitVec 13
  deriving DecidableEq, Repr

/-- The BC, LNK, PWR and KEEP setup registers (20 Tables 20.6, 20.9, 20.10, 20.11); `runA` and `runB` are the speed
points the two timing sets were trained at (08 R237), `policyFreq` what the PF last selected (16 R423). -/
structure DevRegs where
  bcMap : Pair BcMap
  freq : Bool
  policyFreq : Bool
  aInvalid : Bool
  bInvalid : Bool
  speedA : BitVec 2
  speedB : BitVec 2
  runA : BitVec 2
  runB : BitVec 2
  portSel : BitVec 3
  portCfg : Tab PortCfg
  trnSel : BitVec 10
  trn : Tab Trn
  pnrDiv : BitVec 13
  thrNs : BitVec 14
  gcap : BitVec 7
  pollNs : BitVec 14
  ceThr : U16
  migRate : BitVec 6
  lnkSel : BitVec 3
  lnkLane : Tab (Pair LnkLane)
  ratePin : BitVec 12
  clkHold : BitVec 34
  perfFloor : BitVec 34
  keep : Pair KeepSz
  trickle : U16
  restoreStat : U64
  restoreMtb : U64
  deriving DecidableEq, Repr

/-- Counters (19 Tables 19.1 to 19.3) and the writes held for unreleased blocks (20 R511). -/
structure Counters where
  cfg : Tab Evc
  cnt : Tab U64
  fixed : Tab U64
  perFunc : Tab U64
  parity : List Nat
  held : List (Nat × Nat × U64)
  deriving DecidableEq, Repr

/-! ### The event log -/

/-- An entry of the event log (19 Table 19.6); `seen` once a Get Event Records returned it. -/
structure LogEntry where
  mtb : U64
  cls : Byte
  code : Byte
  loc : U16
  func : Byte
  master : Byte
  seq : U16
  data0 : U64
  data1 : U64
  seen : Bool
  deriving DecidableEq, Repr

/-- An entry of the persistent fault log (18 R481). -/
structure PLogEntry where
  mtb : U64
  powerOn : U32
  code : Byte
  loc : U16
  info : U64
  deriving DecidableEq, Repr

/-- An object that two requests can contest (04 Table 4.9, Tables 3.10, 4.10, 20.14). -/
inductive Obj where
  | ring (f : Func)
  | desc (f : Func) (hsn : U32)
  | page (pg : Nat)
  | flag (n : Nat)
  | keep | plan | ramp
  deriving DecidableEq, Repr

/-- What a request does to the object it contests. -/
inductive Req where
  | doorbell | enable | disable | flr | resync | cancel | pages | flagOp | keepSize | keepCommit | keepWrite | planLoad | rampSet
  | fence
  deriving DecidableEq, Repr

/-- A request as its owning island latched it: its object, its kind, its master (19 Table 19.6), its function, the HSN of its
descriptor (0 where it has none). -/
structure Order where
  obj : Obj
  req : Req
  master : Nat
  func : Byte
  hsn : U32
  deriving DecidableEq, Repr

/-- `orders` are the requests on contested objects latched at the window boundary `ordersAt` (01 R20; log entry 2). -/
structure Log where
  events : List LogEntry
  seq : U16
  plog : List PLogEntry
  inputMin : Nat
  orders : List Order
  ordersAt : U64
  deriving DecidableEq, Repr

/-! ### Rings and descriptors (04) -/

/-- The status codes (00 Table 0.4). -/
inductive Status where
  | done | doneClipped | cancelled | cancelLate | admitMem | admitTime | quota | rsvNonzero | badOpcode
  | badTenant | cfgMismatch | holdupShort | keepFull | preempted | orphaned | watchdog | grainFault
  | seqFault | poisoned | linkDown | fenced
  deriving DecidableEq, Repr

/-- A built done record (04 Table 4.7), without the phase bit, which the write adds. -/
structure DoneRec where
  w0 : U64
  w1 : U64
  w2 : U64
  w3 : U64
  quiet : Bool
  place : Place
  deriving DecidableEq, Repr

/-- An outstanding fetch read (04 R95): its number, its first slot, its places. -/
structure Fetch where
  id : Fin 4
  slot : Nat
  places : List Nat
  landed : Bool
  deriving DecidableEq, Repr

/-- A ring pair (04 R92 to R100, R116 to R122). -/
structure Ring where
  wbase : U64
  dbase : U64
  wsize : BitVec 4
  dsize : BitVec 4
  msix : Bool
  enable : Bool
  fetchHead : Nat
  doneIdx : Nat
  doneCons : Nat
  tail : Nat
  phase : Bool
  needResync : Bool
  stalled : Bool
  baseWritten : Bool
  lastHsn : U32
  lastDsn : U32
  lastBuilt : U32
  epoch : U32
  replaced : Option U32
  cancels : List (U32 × U16)
  gaps : Nat
  firstMissing : Option U32
  fetches : List Fetch
  built : List DoneRec
  deriving DecidableEq, Repr

/-- How far a descriptor has come: `ended` until HOST latches its completion, `built` until its record is
written (04 R95, R118). -/
inductive Stage where
  | fetching | landed | accepted | ctxWait | running | ended | built
  deriving DecidableEq, Repr

/-- A run of bank lines by one of their names: `loc` bank-local, else DPA. -/
structure Span where
  loc : Bool
  line : Nat
  lines : Nat
  deriving DecidableEq, Repr

/-- Progress of a descriptor's work. `ranks` are the ranks (4c + r) whose grain work or commands have not
reported; `bytes` and `count` are what the detail word reports; `lines` what a FENCE waits to see written
back; `pages` what a page operation still has to do; `wrote` the pages and lines its work has written, which some
endings leave undefined (04 R120, 05 R159, 09 R276, 11 R316). -/
structure Progress where
  ranks : List Nat
  run : Nat
  skipped : Nat
  faulted : Nat
  firstFault : Option (Nat × Nat)
  count : Nat
  ports : Nat
  words : List Nat
  pages : List Nat
  fenceBefore : Nat
  wrote : List Span
  deriving DecidableEq, Repr

/-- A work descriptor in one of the 1,024 places (04 R95); `failed` where its fetch ended in an error or in poison (04
R127); `early` the commits of its function before which it was fetched: 0 GRN_PART, 1 SYN_FLAGB, 2 + n HUB_MODEL of slot n (05
R150, 13 R341); `discard` where an FLR drops its record (03 R78). -/
structure Desc where
  early : List Nat
  func : Func
  slot : Nat
  stage : Stage
  failed : Bool
  words : List U64
  hsn : U32
  epoch : U32
  acc : Nat
  conds : List Status
  detail : U64
  cancel : Bool
  cancelRows : List Nat
  committed : Bool
  clipped : Bool
  discard : Bool
  ctx : Option CtxNo
  prog : Progress
  deriving DecidableEq, Repr

/-! ### The Marl (02) -/

/-- A copy of a bank column word in the Marl: owned by the pass lane (`region` none) or by a bound
region; which bytes are valid; when it was first made dirty (02 R42, R46, R526). -/
structure Copy where
  region : Option Nat
  data : ColData
  mask : BitVec 32
  poison : Bool
  since : U64
  deriving DecidableEq, Repr

/-- Region kinds that come and go (02 Table 2.2); pass lane and ring shadow are fixed. -/
inductive RegionKind where
  | staging | scoreboarded
  deriving DecidableEq, Repr

structure Region where
  kind : RegionKind
  ctx : Option CtxNo
  place : Option Place
  func : Func
  quad : Quad
  first : Nat
  blocks : Nat
  releasing : Bool
  deriving DecidableEq, Repr

/-- A binding of region lines to bank lines (02 R35); `line` is a DPA line, or with `loc` a bank-local line. -/
structure Bind where
  region : Nat
  off : Nat
  line : Nat
  loc : Bool
  lines : Nat
  deriving DecidableEq, Repr

/-- A line of quadrant space. -/
structure SramLine where
  data : Line
  poison : Bool
  deriving DecidableEq, Repr

structure Marl where
  copies : Tab Copy
  sram : Tab SramLine
  regions : Tab Region
  binds : List Bind
  retired : List (Nat × Nat)
  ueSeen : List (Nat × Nat × U64)
  deadSlices : List Nat
  deriving DecidableEq, Repr

/-! ### Bank dies and grains (05, 07) -/

/-- CRA 0xE0 [1:0] (05 Table 5.4). -/
inductive GState where
  | idle | running | faulted | stopped
  deriving DecidableEq, Repr

/-- A loop level of a grain (06 R176): its first instruction, its len, its count, its index. -/
structure GLoop where
  first : Nat
  len : Nat
  count : Nat
  index : Nat
  deriving DecidableEq, Repr

/-- Whose a grain's banks are: the controller's; grain-owned until E, in a lockstep Spread; grain-owned until a STAT
returns them (07 R201 to R203). -/
inductive Own where
  | controller | blind | polled
  deriving DecidableEq, Repr

/-- A grain: Table 5.2, the CRA's fields past the result slot (Table 5.4), and its run; `unclocked` where the run's
clocks depend on times the model leaves out (log entry 39). -/
structure Grain where
  scal : Tab U32
  vec : Tab Line
  kmask : Tab U64
  acc : Tab Wide
  store : Tab U32
  scratch : Tab Byte
  cra : Tab Byte
  state : GState
  fault : Byte
  faultPc : BitVec 11
  runClocks : U32
  eccCorrected : U16
  lastFn : Byte
  pageLo : BitVec 12
  pageHi : BitVec 12
  craMtb : U64
  recvUp : List Line
  recvDown : List Line
  inflightUp : List Line
  inflightDown : List Line
  pc : Nat
  insn : Option U32
  loop0 : Option GLoop
  loop1 : Option GLoop
  accReady : Tab Nat
  own : Own
  unclocked : Bool
  deriving DecidableEq, Repr

/-- A die: its banks' open rows, its selection, its mode registers as
written (Table 7.5), what is in force of speed, mode and oscillator (R198, R204). -/
structure DieSt where
  openRows : Tab Nat
  sel : U16
  mr : Tab Byte
  speed : BitVec 2
  ready : Bool
  osc : Byte
  temp : Byte
  changed : U16
  clipped : Bool
  selfRefresh : Bool
  inReset : Bool
  selfTest : Bool
  stDone : Bool
  undefCode : BitVec 5
  cause : Byte
  deferred : Tab Nat
  deriving DecidableEq, Repr

/-- What the array keeps of a column word beside its data: poison, and flipped bits 0 to 2 (R129, R195). -/
structure Mark where
  poison : Bool
  flips : Fin 3
  deriving DecidableEq, Repr

/-- The array and the dies. -/
structure Banks where
  mem : Memory
  marks : Tab Mark
  dies : Tab DieSt
  grains : Tab Grain
  mappedOut : List Nat
  parityOnce : List (Nat × U64)
  deriving DecidableEq, Repr

/-! ### Bank controllers (08) -/

/-- A write waiting in a bank controller's write queue (R228): a 128-byte unit of rank c.r. -/
structure WUnit where
  port : Nat
  rank : Nat
  bank : Nat
  row : Nat
  col : Nat
  data : Wide
  mask : BitVec 128
  poison : Bool
  since : U64
  deriving DecidableEq, Repr

/-- What a P1 command does (08 Table 8.1, 07 Table 7.3). -/
inductive P1Kind where
  | spread (insn : U32) (row : Nat) (act pre : Bool)
  | grun (entry : Nat)
  | craw (slot : Nat) (data : ColData)
  | craRead (die : Nat) (grain : Nat) (word : Nat)
  deriving DecidableEq, Repr

/-- A grain command waiting at a bank controller: its logical rank, its grains, who sent it, the dirty
column words it waits for (02 R47), the grains it started, by mapped index and by the grain that works, whether it has gone
out on the CA bus, and since when. -/
structure P1 where
  rank : Nat
  sel : GrainSel
  kind : P1Kind
  place : Option Place
  ctx : Option CtxNo
  func : Func
  dirty : List Nat
  started : List (Nat × Nat)
  issued : Bool
  since : U64
  num : Nat
  deriving DecidableEq, Repr

/-- A row of the throttling tracker (R226). -/
structure Track where
  port : Nat
  rank : Nat
  bank : Nat
  row : Nat
  at_ : U64
  deriving DecidableEq, Repr

/-- A request that waits at a bank controller, with when it was latched (R232). -/
structure Waiting where
  req : BcReq
  since : U64
  deriving DecidableEq, Repr

/-- A bank controller: its queued writes, and whether the channel is turned to them (R231); the requests that wait; the port
served last, its streak of column commands and since when a panic stretch has run (R232, R233); its P1 commands; the writes
issued in the last 100 ns (R241). -/
structure Bc where
  writes : List WUnit
  toWrites : Bool
  heldAct : List Waiting
  lastPort : Nat
  streak : Nat
  panicFrom : Option U64
  recent : List WUnit
  p1 : List P1
  debt : Tab Int
  sent : Tab Nat
  halved : BitVec 3
  tracker : List Track
  nbr : List (Nat × Nat × Nat)
  spreadFrom : U64
  spreadNs : Tab Nat
  setB : Bool
  changing : Bool
  deriving DecidableEq, Repr

/-- A migration in progress (R240): the next row and bank to copy, paused by a frequency change. -/
structure Mig where
  row : Nat
  bank : Nat
  paused : Bool
  deriving DecidableEq, Repr

/-- A quad's rank map (20 R507); `again` the writes that are applied again to the spare (R241). -/
structure QuadMap where
  again : List WUnit
  fenced : Byte
  failed : Option (Fin 8)
  spareFor : Option (Fin 8)
  spareIn : Bool
  spareBad : Bool
  mig : Option Mig
  deriving DecidableEq, Repr

/-- The bank controllers and the rank maps; corrected reads per rank (4c + r) in the present hour, the DPA of the unit whose
read with CHK code 2 fails a rank (R239), and the column word that a grain last reported with ECC_UE (05 R147). -/
structure Ctl where
  bad : Tab Nat
  reported : Tab Nat
  bcs : Tab Bc
  quads : Tab QuadMap
  corrected : Tab (Nat × U64)
  deriving DecidableEq, Repr

/-! ### Sequencers, queues, flags and wires (09, 12) -/

/-- States of a context (09 Table 9.1). -/
inductive CState where
  | free | load | run | waitQ | waitSb | waitVal | waitFlag | drain
  deriving DecidableEq, Repr

/-- What a waiting context waits for. -/
inductive WaitFor where
  | nothing
  | push (p : Push)
  | value (c : Fin 16)
  | flagIs (space : FlagSpace) (n : Nat) (want consume : Bool)
  | wire (w : Fin 8) (gen : Nat)
  | claim (w : Fin 8) (n : Nat) (moduleWide : Bool)
  | realign (k : Fin 16) (held : Option Push)
  deriving DecidableEq, Repr

/-- An address generator (Table 9.2): a region of the footprint, a base and six strides. -/
structure Gen where
  region : Nat
  base : U32
  strides : Tab U32
  deriving DecidableEq, Repr

/-- A stream (Table 9.2, R259): its queues once fixed; slots filled and slots freed; commands popping from it. -/
structure Stream where
  region : Nat
  slotLog : Nat
  push : Nat
  pop : Nat
  producer : Option QueueNo
  consumer : Option QueueNo
  filled : List Nat
  done : Nat
  deriving DecidableEq, Repr

/-- A loop level (R254). -/
structure Level where
  count : Nat
  index : Nat
  body : U32
  last : U32
  deriving DecidableEq, Repr

structure Ctx where
  st : CState
  place : Place
  func : Func
  image : Option (U64 × Nat)
  entry : Nat
  pos : U32
  vals : Tab U32
  pendVals : List Nat
  gens : Tab Gen
  streams : Tab Stream
  loops : List Level
  stack : List (U32 × Nat)
  args : List Byte
  regions : List (Nat × Nat)
  wait : WaitFor
  since : U64
  seqFault : Option Byte
  sets : Nat
  grains : List (Nat × Nat)
  deriving DecidableEq, Repr

/-- A command in an engine queue (R257 to R263): its context, none for a COPY, whose layout descriptor `words`
holds; the regions it reads and writes, with the offsets of its region operands in order; the stream slots it
was given, by number; whether it has started and finished, and since when it has made no progress (12 R336). -/
structure QCmd where
  ctx : Option CtxNo
  place : Place
  push : Push
  words : List U64
  offs : List (Nat × Nat)
  reads : List Nat
  writes : List Nat
  slot : Option (Fin 16 × Nat)
  pops : List (Fin 16 × Nat)
  pushNo : Nat
  started : Bool
  fin : Bool
  since : U64
  result : Option U32
  deriving DecidableEq, Repr

/-- A kept image (R273). -/
structure Kept where
  id : U64
  len : Nat
  func : Func
  deriving DecidableEq, Repr

/-- A flag (12 R319, Table 12.2). -/
structure Flag where
  value : Bool
  setter : Fin 8
  setMtb : U64
  clearMtb : U64
  sets : U16
  clears : U16
  deriving DecidableEq, Repr

/-- A barrier wire (R328 to R330). -/
structure Wire where
  func : Option Func
  n : Nat
  moduleWide : Bool
  count : Nat
  gen : Nat
  joined : List CtxNo
  due : Option Nat
  deriving DecidableEq, Repr

/-- An engine resource claim (10 R287): engine, resource (0 to 3 banks, 4 and 5 weight buffers, 6 to 9
tile registers, 10 to 13 mask tiles), context. -/
structure Claim where
  mx : Nat
  res : Nat
  ctx : CtxNo
  deriving DecidableEq, Repr

/-- The SEQ island; `freed` holds when each FREE context became free (19 Table 19.8), `clearedAt` when a reset
last cleared every flag (12 R334). -/
structure Seq where
  ctxs : Tab Ctx
  queues : Tab (List QCmd)
  claims : List Claim
  pushNo : Tab Nat
  kept : Tab (List Kept)
  served : Tab Nat
  localF : Tab Flag
  sharedF : Tab Flag
  faultedWords : List Nat
  waits : List CtxNo
  freed : Tab U64
  clearedAt : U64
  wires : Tab Wire
  deriving DecidableEq, Repr

/-! ### Engines (10, 11) -/

/-- An MX island (10 R285): accumulator banks, weight buffers, tile registers as tables of words keyed by
16,384 times the resource plus 128 times the row plus the column; mask tiles keyed alike; tainted resources. -/
structure Mx where
  acc : Tab U32
  wts : Tab U32
  wtFmt : Tab Fmt
  tiles : Tab U32
  masks : Tab Bool
  taint : List Nat
  deriving DecidableEq, Repr

/-- A layout descriptor being carried out (11): its eight words, the first command owner, the next step. -/
structure LyJob where
  words : List U64
  place : Place
  step : Nat
  started : Bool
  poisoned : Bool
  deriving DecidableEq, Repr

structure Eng where
  mxs : Tab Mx
  lys : Tab LyJob
  deriving DecidableEq, Repr

/-! ### Serving (13, 14) -/

/-- A STEP's row in flight (13 Tables 13.3, 13.7; 14 R368, R379). -/
structure RowRun where
  words : List U64
  pages : List Nat
  conds : List Status
  admitted : Bool
  ended : Bool
  committed : Bool
  cancel : Bool
  tokens : List U32
  accepted : Nat
  mtb : U64
  deriving DecidableEq, Repr

/-- A STEP in flight, keyed by its place: its model slot, its rows, its predicted finish (R372), the model's
pages in use (R376), whether the output table has been sent (R363). -/
structure StepRun where
  func : Func
  slot : Nat
  rows : List RowRun
  finish : Nat
  posQuads : Nat
  modelPages : List (Nat × Nat)
  sent : Bool
  deriving DecidableEq, Repr

/-- A shipment being sent, keyed by its place (14 R382 to R385, 15 R409). -/
structure ShipOut where
  dest : Byte
  flag : BitVec 14
  ports : BitVec 6
  pairs : List (Nat × Nat)
  parts : Nat
  opened : Bool
  unacked : List Nat
  used : BitVec 6
  flagSent : Bool
  poisoned : Bool
  deriving DecidableEq, Repr

/-- A shipment or flag request open at this destination (15 R410). -/
structure ShipIn where
  src : Byte
  tag : Place
  flag : BitVec 14
  func : Func
  pages : List Nat
  parts : Nat
  accepted : Bool
  got : List Nat
  deriving DecidableEq, Repr

/-- Serving: STEPs, the owner of each granted page (function plus 1), pages under return (R375), shipments. -/
structure Serve where
  steps : Tab StepRun
  pages : Tab Nat
  clearing : List (Nat × Nat)
  shipsOut : Tab ShipOut
  shipsIn : List ShipIn
  deriving DecidableEq, Repr

/-! ### Module Links (15) -/

/-- Port states (15 Table 15.6). -/
inductive PState where
  | down | train | quarantine | looped | degraded | up
  deriving DecidableEq, Repr

/-- A packet a port holds for replay, or one waiting to be sent. -/
structure PktOut where
  h : PktHdr
  k : Pkt
  deriving DecidableEq, Repr

structure Port where
  st : PState
  lanes : Nat
  first : Nat
  fallback : Bool
  polarity : Bool
  reversed : Bool
  good : BitVec 8
  farGood : BitVec 8
  txSeq : U32
  rxNext : U32
  nackSent : Bool
  held : List PktOut
  queue : List PktOut
  credit0 : Nat
  credit1 : Nat
  back0 : Nat
  back1 : Nat
  staged : List PktOut
  restaged : List PktOut
  stalls : Nat
  replays : U32
  ident : Option IdentPl
  partner : Option U64
  lastTsync : Option (TsyncPl × U64)
  offset : Int
  loopHold : Bool
  panic : Bool
  deriving DecidableEq, Repr

/-- A port's entry of the wiring plan (03 R88). -/
structure PlanPort where
  enabled : Bool
  far : Byte
  farPort : BitVec 3
  lanes : Nat
  deriving DecidableEq, Repr

/-- The wiring plan in force (03 R88): its 64 bytes, and their meaning. -/
structure Plan where
  bytes : List Byte
  gen : U32
  rackId : U32
  own : Byte
  ports : List PlanPort
  since : U64
  deriving DecidableEq, Repr

/-- The links and the place in the time tree (R412). -/
structure Lnk where
  ports : Tab Port
  plan : Option Plan
  root : BitVec 9
  dist : BitVec 4
  parent : Option PortNo
  deriving DecidableEq, Repr

/-! ### Power and the Keep region (16) -/

/-- A ramp budget (03 R89). -/
structure Ramp where
  up : U16
  down : U16
  cap : U16
  gen : U32
  deriving DecidableEq, Repr

/-- A protective loop's record (19 Table 19.8). -/
structure LoopRec where
  active : Bool
  overruled : Bool
  setting : U32
  heldNs : U64
  changed : U64
  deriving DecidableEq, Repr

/-- The PMU's power state (16): budgets in force, to come, and last accepted from the sideband (17 R453); mean draw
of the last interval, ceiling and floor in tenths of a watt (R421), the ms held back in the last second, the samples
of this interval in W; the loops, the clocks in MHz that the thermal loop lowered and when it last moved each, until when
a droop stretches an island's clock; since when a die has been hot, or all cool (Table 16.3); the input lost, the rails
off after a thermal trip; the hold-up bank (R431, R443). -/
structure Pwr where
  ramp : Ramp
  rampNext : Option Ramp
  grcRamp : Option Ramp
  draw : Nat
  ceiling : Nat
  floor : Nat
  heldMs : List Nat
  holding : Bool
  ballast : Bool
  samples : List Nat
  loops : Tab LoopRec
  clk : Tab Nat
  clkAt : Tab U64
  clip : Tab U64
  lost : Bool
  trip : Bool
  capUf : Nat
  hotSince : Option U64
  coolSince : Option U64
  bankMv : Nat
  holdup : Nat
  keepState : BitVec 2
  forced : Bool
  deriving DecidableEq, Repr

/-- A 64 KiB Keep block (16 R427 to R430): dirty since, generation of its copy, its slot, a copy in
progress. -/
structure KBlock where
  dirty : Bool
  since : U64
  gen : U64
  slot : Option Nat
  copying : Bool
  deriving DecidableEq, Repr

/-- A slot of the Keep NAND: the block it holds, its generation, whether its tag is good, its 64 KiB. -/
structure NandSlot where
  block : Nat
  gen : U64
  tagOk : Bool
  data : Memory
  poison : List Nat
  deriving DecidableEq, Repr

/-- The record of the last save (R441): its MTB, its counts, the sizes, the grants it keeps (R390). -/
structure SaveRec where
  mtb : U64
  blocks : Nat
  stale : Nat
  keep : KeepSz
  grants : List (Nat × Nat)
  returns : List Nat
  deriving DecidableEq, Repr

structure KeepSt where
  blocks : Tab KBlock
  nand : Tab NandSlot
  badSlots : List Nat
  sparesUsed : Nat
  record : Option SaveRec
  deriving DecidableEq, Repr

/-! ### The tray and the rack (16 R418 to R420, 17) -/

/-- A slot eFuse's state. -/
inductive SlotSt where
  | off | inrush | run | tripped | latched
  deriving DecidableEq, Repr

/-- A slot eFuse (16 R418 to R420): its output, since when it ramps or runs, the ns of its ramps so far. -/
structure Slot where
  st : SlotSt
  outMv : Nat
  since : U64
  ramped : Nat
  held : Bool
  fails : List U64
  deriving DecidableEq, Repr

/-- The tray: its number in the rack (17 R454), its slots, whether its 54 V bus is low, the lowest bus reading in mV, its own time
in ns. -/
structure Tray where
  no : Nat
  slots : Tab Slot
  busLow : Bool
  busMin : Nat
  ns : U64
  deriving DecidableEq, Repr

/-- What the GRC keeps of a module: its health, its budget and cap as last sent, and the figures it last read (17 R457, R461). -/
structure RackMod where
  healthy : Bool
  fenced : Bool
  up : Nat
  down : Nat
  cap : Nat
  grains : Nat
  fencedRanks : Nat
  upPorts : BitVec 6
  carryPorts : BitVec 6
  deriving DecidableEq, Repr

/-- The GRC: its settings (17 Table 17.2), the source's shelves in service and the trays powered, its record of each
module, the generations it has sent, the rack mode, the raises of a distribution that wait until its lowerings apply, with the
time from which they may go (R452), the last capacity report. -/
structure Grc where
  rackId : U32
  facility : Bool
  pFac : Nat
  rackRamp : Nat
  hostAllow : Nat
  demand : Bool
  shelves : Nat
  trays : Nat
  mods : Tab RackMod
  budgetGen : U32
  planGen : U32
  mode : RackMode
  raises : List (Nat × Nat)
  raiseAt : U64
  report : Option Capacity
  deriving DecidableEq, Repr

/-! ### The state -/

/-- The machine: `pending` is the queue of waiting commands, first in, first out; `freeCtr` numbers the
free values taken so far; `acceptCtr` the descriptors accepted so far. -/
structure State where
  pending : List Instr
  out : List Out
  freeCtr : Nat
  acceptCtr : Nat
  clk : Clk
  boot : Boot
  cxl : Cxl
  fw : Fw
  spdm : Spdm
  hub : HubRegs
  dev : DevRegs
  cnt : Counters
  log : Log
  rings : Tab Ring
  places : Tab Desc
  marl : Marl
  bank : Banks
  ctl : Ctl
  seq : Seq
  eng : Eng
  serve : Serve
  lnk : Lnk
  pwr : Pwr
  keep : KeepSt
  tray : Tray
  grc : Grc
  deriving DecidableEq, Repr

/-- A pair group whose staged and in-force values are `v`. -/
def Pair.at_ {α : Type} (v : α) : Pair α :=
  { staged := v, inForce := v, waiting := none, mismatch := false, preempted := false, busy := false }

def Clk.reset : Clk := { mtb := 0#64, tsOffset := 0#64, slew := 0, slewWait := 0, stepped := false, up := 0#64 }

/-- Start of step 1 of Table 18.1 (log entry 3). -/
def Boot.reset : Boot :=
  { powered := true, slotId := 0#3, powerOnCount := 1#32, phase := 0x01#8, code := 0#8, mediaReady := false,
    fabricReady := false, fwSlot := false, fwFallback := false, hubFault := false, ms := 0#32,
    relHost := false, relMarl := false, relBc := 0#16, relSeq := false, relLay := false, relMx := 0#4,
    relLk := false, testFails := [], grainFails := [], grainTested := false, memInit := false,
    keepRestored := false, wdLast := none, fwRestarting := false, portWaived := 0#6, patched := [] }

def Hdm.reset : Hdm :=
  { set := { base := 0#64, size := 0#64, skip := 0#64, ways := 0#4, gran := 0#4, pos := 0, lock := false },
    committed := false, error := false }

def Ide.reset : Ide := { key := none, skid := false, failed := false }

def Cxl.reset : Cxl :=
  { up := false, perst := true, lanes := 16, rate := 64, flit256 := true, ideIo := Ide.reset, ideMem := Ide.reset,
    hdm0 := Hdm.reset, hdm1 := Hdm.reset, flrs := [], mbox := (.success, 0#16, []) }

def Fw.reset : Fw :=
  { patches := [], valid0 := true, valid1 := false, image0 := [], image1 := [], active := false, nextSlot := false }

def Spdm.reset : Spdm :=
  { version := false, caps := false, algs := false, exchanged := false, session := false }

/-- Reset column of Tables 20.4, 20.5, 20.7, 20.8; a table entry that is absent is at its reset value. -/
def HubRegs.reset : HubRegs :=
  { tenSel := 0#8, modelFn := 0#8, modelSlot := 0#4, grnSel := 0#8, ten := [], model := [], descQuota := [],
    posQuota := [], pageQuota := [], marlQuota := [], cost := [],
    marlPart := Pair.at_ { bc := 8#5, lk := 16#6 }, dirtyCap := 16#5, grnPart := [], flagBase := [],
    realign := 24#5, wdCtx := 50#10, wdEng := 500#13 }

/-- Reset column of Tables 20.6, 20.9, 20.10, 20.11. -/
def DevRegs.reset : DevRegs :=
  { bcMap := Pair.at_ { order := 0#2, ranks := 0xFFFFFFFF#32 }, freq := false, policyFreq := false,
    aInvalid := false, bInvalid := false, speedA := 0#2, speedB := 1#2, runA := 0#2, runB := 1#2, portSel := 0#3, portCfg := [],
    trnSel := 0#10, trn := [], pnrDiv := 256#13, thrNs := 4000#14, gcap := 56#7, pollNs := 250#14,
    ceThr := 4096#16, migRate := 32#6, lnkSel := 0#3, lnkLane := [], ratePin := 0#12,
    clkHold := 640#10 ++ 1200#12 ++ 1500#12, perfFloor := 300#10 ++ 600#12 ++ 500#12,
    keep := Pair.at_ { size := 0#6, rsv := 0#6 }, trickle := 1000#16, restoreStat := 0#64, restoreMtb := 0#64 }

def Counters.reset : Counters := { cfg := [], cnt := [], fixed := [], perFunc := [], parity := [], held := [] }

def Log.reset : Log := { events := [], seq := 0#16, plog := [], inputMin := 54000, orders := [], ordersAt := 0#64 }

def Marl.reset : Marl :=
  { copies := [], sram := [], regions := [], binds := [], retired := [], ueSeen := [], deadSlices := [] }

def Banks.reset : Banks := { mem := [], marks := [], dies := [], grains := [], mappedOut := [], parityOnce := [] }

def Ctl.reset : Ctl := { bad := [], reported := [], bcs := [], quads := [], corrected := [] }

def Seq.reset : Seq :=
  { ctxs := [], queues := [], claims := [], pushNo := [], kept := [], served := [], localF := [],
    sharedF := [], faultedWords := [], waits := [], freed := [], clearedAt := 0#64, wires := [] }

def Eng.reset : Eng := { mxs := [], lys := [] }

def Serve.reset : Serve := { steps := [], pages := [], clearing := [], shipsOut := [], shipsIn := [] }

def Lnk.reset : Lnk := { ports := [], plan := none, root := 0#9, dist := 0#4, parent := none }

/-- Reset budget of 03 R89. -/
def Ramp.reset : Ramp := { up := 30#16, down := 30#16, cap := 480#16, gen := 0#32 }

def Pwr.reset : Pwr :=
  { ramp := Ramp.reset, rampNext := none, grcRamp := none, draw := 380, ceiling := 410, floor := 380, heldMs := [],
    holding := false, ballast := false, samples := [], loops := [], clk := [], clkAt := [], clip := [], lost := false,
    trip := false, capUf := 0, hotSince := none, coolSince := none, bankMv := 0, holdup := 0, keepState := 0#2, forced := false }

def KeepSt.reset : KeepSt := { blocks := [], nand := [], badSlots := [], sparesUsed := 0, record := none }

/-- The slot of the module has just given it power good (16 Table 16.2). -/
def Tray.reset : Tray :=
  { slots := [(0, { st := .run, outMv := 54000, since := 0#64, ramped := 0, held := false, fails := [] })],
    no := 0, busLow := false, busMin := 54000, ns := 0#64 }

def Grc.reset : Grc :=
  { rackId := 1#32, facility := false, pFac := 165000, rackRamp := 8000, hostAllow := 300, demand := false,
    shelves := 8, trays := 32, mods := [], budgetGen := 0#32, planGen := 0#32, mode := .belowFloor,
    raises := [], raiseAt := 0#64, report := none }

/-- The machine right after reset: the start of step 1 of Table 18.1 on a first cold start (log entry 3). -/
def State.reset : State :=
  { pending := [], out := [], freeCtr := 0, acceptCtr := 0, clk := Clk.reset, boot := Boot.reset,
    cxl := Cxl.reset, fw := Fw.reset, spdm := Spdm.reset, hub := HubRegs.reset, dev := DevRegs.reset,
    cnt := Counters.reset, log := Log.reset, rings := [], places := [], marl := Marl.reset,
    bank := Banks.reset, ctl := Ctl.reset, seq := Seq.reset, eng := Eng.reset, serve := Serve.reset,
    lnk := Lnk.reset, pwr := Pwr.reset, keep := KeepSt.reset, tray := Tray.reset, grc := Grc.reset }

end Sys2Proof.Machine
end

