-- ==== Sys2Proof/Machine/Ops.lean ====
section
/-! DEFINITION. The shared operations: sparse tables, bit fields, what leaves the module, counters, the
event log, the byte memory of the bank array, and access to the parts of the state by number. -/

namespace Sys2Proof.Machine

/-! ### Sparse tables -/

/-- The value listed under a key. -/
def tfind {β : Type} (t : Tab β) (k : Nat) : Option β :=
  match t with
  | [] => none
  | (j, v) :: rest => if j = k then some v else tfind rest k

/-- The value under a key, `d` where none is listed. -/
def tget {β : Type} (d : β) (t : Tab β) (k : Nat) : β := (tfind t k).getD d

/-- Remove every pair under a key. -/
def terase {β : Type} (t : Tab β) (k : Nat) : Tab β :=
  match t with
  | [] => []
  | (j, v) :: rest => if j = k then terase rest k else (j, v) :: terase rest k

/-- Put a pair before the first larger key. -/
def tinsert {β : Type} (t : Tab β) (k : Nat) (v : β) : Tab β :=
  match t with
  | [] => [(k, v)]
  | (j, w) :: rest => if k < j then (k, v) :: (j, w) :: rest else (j, w) :: tinsert rest k v

/-- List a value under a key. -/
def tput {β : Type} (t : Tab β) (k : Nat) (v : β) : Tab β := tinsert (terase t k) k v

/-- Store a value under a key; the default is not listed. -/
def tset {β : Type} [DecidableEq β] (d : β) (t : Tab β) (k : Nat) (v : β) : Tab β :=
  if v = d then terase t k else tput t k v

/-- The keys rise strictly. -/
def trising {β : Type} (t : Tab β) : Bool :=
  match t with
  | [] => true
  | [_] => true
  | (j, _) :: (k, w) :: rest => decide (j < k) && trising ((k, w) :: rest)

/-- The canonical form: keys rise strictly and no value is the default. -/
def twf {β : Type} [DecidableEq β] (d : β) (t : Tab β) : Bool :=
  trising t && t.all (fun p => decide (p.2 ≠ d))

/-! ### Bit fields and sequence values -/

/-- Bits [lo + len - 1 : lo] of a number. -/
def bits (w lo len : Nat) : Nat := w / 2 ^ lo % 2 ^ len

/-- One bit of a number. -/
def bitAt (w i : Nat) : Bool := decide (w / 2 ^ i % 2 = 1)

/-- One bit at a place. -/
def bitIf (b : Bool) (i : Nat) : Nat := if b then 2 ^ i else 0

/-- The lowest set bit of a number below `n`, or 0. -/
def lowBit (n w : Nat) : Nat := ((List.range n).find? (bitAt w)).getD 0

/-- How many of the low `n` bits are set. -/
def popCount (n w : Nat) : Nat := ((List.range n).filter (bitAt w)).length

/-- a is later than b (00 R6). -/
def later (a b : U32) : Bool :=
  let d := (a - b).toNat
  decide (1 ≤ d ∧ d ≤ 2 ^ 31 - 1)

/-- Word i of a list of 64-bit words. -/
def wordAt (ws : List U64) (i : Nat) : Nat := (ws.getD i 0#64).toNat

/-- n little-endian bytes of a number (00 R4). -/
def leBytes (n v : Nat) : List Byte := (List.range n).map (fun i => BitVec.ofNat 8 (v / 2 ^ (8 * i)))

/-- The number that little-endian bytes spell. -/
def leNat (bs : List Byte) : Nat := bs.foldr (fun b n => b.toNat + 256 * n) 0

/-- The little-endian number of n bytes at an offset. -/
def leAt (bs : List Byte) (off n : Nat) : Nat := leNat ((bs.drop off).take n)

/-- A count held in a field that saturates (19 R485, 04 R110). -/
def satNat (w n : Nat) : Nat := min n (2 ^ w - 1)

/-! ### What leaves, what is counted, what is logged -/

/-- The MTB at this moment. An island's copy may stand up to 2 ns from the PMU's master count (01 R17); every copy is taken
as equal to it (DESIGN CHOICE, log entry 86). -/
def now (s : State) : U64 := s.clk.mtb

def emit (o : Out) (s : State) : State := { s with out := s.out ++ [o] }

/-- Signal an MSI-X vector (03 R77). -/
def msix (f : Func) (v : Fin 8) (s : State) : State := emit (.msix f v) s

/-- The next free value's number. -/
def takeFree (s : State) : State := { s with freeCtr := s.freeCtr + 1 }

/-- A 64-bit counter one further, saturating (19 R485). -/
def satInc (v : U64) : U64 := if v = 0xFFFFFFFFFFFFFFFF#64 then v else v + 1#64

/-- Fixed counter i (19 Table 19.1). -/
def fixedCtr (s : State) (i : Nat) : U64 := tget 0#64 s.cnt.fixed i

/-- Count one on fixed counter i. -/
def bump (i : Nat) (s : State) : State :=
  { s with cnt := { s.cnt with fixed := tset 0#64 s.cnt.fixed i (satInc (fixedCtr s i)) } }

/-- Count n on fixed counter i. -/
def bumpBy (i n : Nat) (s : State) : State :=
  let v := BitVec.ofNat 64 (satNat 64 ((fixedCtr s i).toNat + n))
  { s with cnt := { s.cnt with fixed := tset 0#64 s.cnt.fixed i v } }

/-- Per-function counter i (19 Table 19.2). -/
def funcCtr (s : State) (f : Func) (i : Nat) : U64 := tget 0#64 s.cnt.perFunc (f.val * 8 + i)

def bumpFuncBy (f : Func) (i n : Nat) (s : State) : State :=
  let v := BitVec.ofNat 64 (satNat 64 ((funcCtr s f i).toNat + n))
  { s with cnt := { s.cnt with perFunc := tset 0#64 s.cnt.perFunc (f.val * 8 + i) v } }

/-- The reset value of an EVC_CFGn (19 Table 19.3). -/
def Evc.reset : Evc := { source := 0#8, inst := 0xFF#8, func := 0xFF#8, enable := false }

def evcCfg (s : State) (n : Nat) : Evc := tget Evc.reset s.cnt.cfg n

/-- Sources without an instance, and sources that ignore the function filter (19 Table 19.4). -/
def evcNoInst (src : Nat) : Bool := decide (src ∈ [0x01, 0x02, 0x13, 0x62, 0x80, 0x81, 0x82])
def evcHasFunc (src : Nat) : Bool :=
  decide (src ∈ [0x01, 0x02, 0x26, 0x30, 0x31, 0x32, 0x40, 0x41, 0x50, 0x60, 0x61, 0x62, 0x82])

/-- Whether counter configuration `c` counts an event of a source at an instance, of a function (R487). -/
def evcCounts (c : Evc) (src inst : Nat) (f : Option Func) : Bool :=
  c.enable && decide (c.source.toNat = src)
    && (evcNoInst src || decide (c.inst = 0xFF#8) || decide (c.inst.toNat = inst))
    && (decide (c.func = 0xFF#8)
        || (evcHasFunc src && decide (f.map (fun g => g.val) = some c.func.toNat)))

/-- Count n events of a source on the programmable counters that select it (R485, R487). -/
def countEv (src inst : Nat) (f : Option Func) (n : Nat) (s : State) : State :=
  let add := fun (t : Tab U64) (i : Nat) =>
    if evcCounts (evcCfg s i) src inst f then
      tset 0#64 t i (BitVec.ofNat 64 (satNat 64 ((tget 0#64 t i).toNat + n)))
    else t
  { s with cnt := { s.cnt with cnt := (List.range 16).foldl add s.cnt.cnt } }

/-- An event-log location (19 Table 19.6): its kind and its index. -/
def locOf (kind idx : Nat) : U16 := BitVec.ofNat 16 (kind * 4096 + idx % 4096)

/-- Entry numbers of islands in a location of kind 3 (19 R528). -/
def islHost : Nat := 0
def islMarl (q : Nat) : Nat := 1 + q
def islSeq : Nat := 5
def islMx (n : Nat) : Nat := 6 + n
def islLay : Nat := 10
def islBc (c : Nat) : Nat := 11 + c
def islLk (p : Nat) : Nat := 27 + p
def islPmu : Nat := 33
def islGrain (c r d : Nat) : Nat := 64 + 16 * c + 4 * r + d

/-- The last n of a list. -/
def lastN {α : Type} (n : Nat) (l : List α) : List α := (l.reverse.take n).reverse

/-- One entry more overwrites the oldest, which no Get Event Records returned. -/
def overwrites (l : List LogEntry) : Bool := decide (4096 ≤ l.length) && l.head?.any (fun x => !x.seen)

/-- Append an entry to the event log: the latest 4,096 stay; an entry overwritten before a Get Event
Records returned it is counted in EVC_LOG_LOST (18 R482, 19 R491). The PF's vector 2 is signalled (03 R77). -/
def logAs (cls code : Nat) (loc : U16) (func : Byte) (master : Nat) (d0 d1 : Nat) (s : State) : State :=
  let e : LogEntry :=
    { mtb := now s, cls := BitVec.ofNat 8 cls, code := BitVec.ofNat 8 code, loc := loc, func := func,
      master := BitVec.ofNat 8 master, seq := s.log.seq, data0 := BitVec.ofNat 64 d0,
      data1 := BitVec.ofNat 64 d1, seen := false }
  let s1 := { s with log := { s.log with events := lastN 4096 (s.log.events ++ [e]), seq := s.log.seq + 1#16 } }
  msix 0 2 (if overwrites s.log.events then bump 12 s1 else s1)

/-- The master a function is (19 Table 19.6). -/
def masterOf (f : Func) : Nat := if f.val = 0 then 1 else 2

/-- An entry whose master is the device and whose function is none. -/
def logDev (cls code : Nat) (loc : U16) (d0 d1 : Nat) (s : State) : State :=
  logAs cls code loc 0xFF#8 4 d0 d1 s

/-- An entry for work of a function. -/
def logFn (cls code : Nat) (loc : U16) (f : Func) (d0 d1 : Nat) (s : State) : State :=
  logAs cls code loc (BitVec.ofNat 8 f.val) (masterOf f) d0 d1 s

/-- Append an entry to the persistent fault log of 256 entries (18 R481). -/
def plogAdd (loc : U16) (info : Nat) (s : State) : State :=
  let e : PLogEntry :=
    { mtb := now s, powerOn := s.boot.powerOnCount, code := s.boot.code, loc := loc,
      info := BitVec.ofNat 64 info }
  { s with log := { s.log with plog := lastN 256 (s.log.plog ++ [e]) } }

/-! ### The byte memory of the array -/

/-- A byte of memory; a byte that is not listed reads as 0 (log entry 11). -/
def Memory.byte (m : Memory) (a : Nat) : Byte := tget 0#8 m a

/-- Store a byte, keeping the canonical form. -/
def Memory.setByte (m : Memory) (a : Nat) (b : Byte) : Memory := tset 0#8 m a b

/-- The canonical form of a memory: addresses strictly rising, no byte 0 listed. -/
def Memory.wf (m : Memory) : Bool := twf 0#8 m

/-- Store a run of bytes from an address up. -/
def Memory.setBytes (m : Memory) (a : Nat) (bs : List Byte) : Memory :=
  match bs with
  | [] => m
  | b :: rest => Memory.setBytes (Memory.setByte m a b) (a + 1) rest

/-- n bytes from an address up. -/
def Memory.bytes (m : Memory) (a n : Nat) : List Byte := (List.range n).map (fun i => Memory.byte m (a + i))

/-- The 32 bytes of column word w as one word, byte k in bits 8k + 7 to 8k (07 R195). -/
def Memory.col (m : Memory) (w : Nat) : ColData := BitVec.ofNat 256 (leNat (Memory.bytes m (w * 32) 32))

/-- Replace the whole column word w (05 R145). -/
def Memory.setCol (m : Memory) (w : Nat) (d : ColData) : Memory := Memory.setBytes m (w * 32) (leBytes 32 d.toNat)

/-! ### Parts of the state by number -/

/-- A ring right after cold reset (04 R116, Start-up); its phase is DESIGN CHOICE 1 (log entry 10). -/
def Ring.reset : Ring :=
  { wbase := 0#64, dbase := 0#64, wsize := 0#4, dsize := 0#4, msix := false, enable := false,
    fetchHead := 0, doneIdx := 0, doneCons := 0, tail := 0, phase := true, needResync := false,
    stalled := false, baseWritten := false, lastHsn := 0#32, lastDsn := 0#32, lastBuilt := 0#32,
    epoch := 0#32, replaced := none, cancels := [], gaps := 0, firstMissing := none, fetches := [], built := [] }

def ring (s : State) (f : Func) : Ring := tget Ring.reset s.rings f.val
def setRing (f : Func) (r : Ring) (s : State) : State := { s with rings := tset Ring.reset s.rings f.val r }

/-- A function's record in force of each per-function register (20 Tables 20.4 to 20.8). -/
def Ten.reset (f : Nat) : Pair Ten := Pair.at_ { base := 0#12, limit := if f = 0 then 2048#12 else 0#12 }
def tenOf (s : State) (f : Nat) : Pair Ten := tget (Ten.reset f) s.hub.ten f
def GrnPart.reset (f : Nat) : Pair GrnPart :=
  Pair.at_ { set := if f = 0 then 0x3FFFFFFFFF#38 else 0#38, lo := 0#12, hi := 4095#12,
             flagQ := if f = 0 then 16384#15 else 0#15 }
def grnPartOf (s : State) (f : Nat) : Pair GrnPart := tget (GrnPart.reset f) s.hub.grnPart f
def flagBaseOf (s : State) (f : Nat) : Pair (BitVec 14) := tget (Pair.at_ 0#14) s.hub.flagBase f
def modelOf (s : State) (f slot : Nat) : Pair (BitVec 39) := tget (Pair.at_ 0#39) s.hub.model (f * 16 + slot)
def descQuotaOf (s : State) (f : Nat) : Nat := (tget 1024#11 s.hub.descQuota f).toNat
def posQuotaOf (s : State) (f : Nat) : Nat := (tget 0#16 s.hub.posQuota f).toNat
def pageQuotaOf (s : State) (f : Nat) : Nat := (tget 8388608#24 s.hub.pageQuota f).toNat
def marlQuotaOf (s : State) (f : Nat) : Nat := (tget 2496#12 s.hub.marlQuota f).toNat
def Cost.reset : Cost := { fix := 0#64, pos := 0#64, att := 0#64, pf := 0#64 }
def costOf (s : State) (f slot : Nat) : Cost := tget Cost.reset s.hub.cost (f * 16 + slot)
def LnkLane.reset : Pair LnkLane := Pair.at_ { lanes := 8#4, map := 0xFAC688#24 }
def lnkLaneOf (s : State) (p : Nat) : Pair LnkLane := tget LnkLane.reset s.dev.lnkLane p

/-- A place's descriptor; none where the place is free. -/
def desc (s : State) (p : Place) : Option Desc := tfind s.places p.val
def setDesc (p : Place) (d : Desc) (s : State) : State := { s with places := tput s.places p.val d }
def freePlace (p : Place) (s : State) : State := { s with places := terase s.places p.val }

/-- The contents of Table 5.2 after cold reset. -/
def Grain.reset : Grain :=
  { scal := [], vec := [], kmask := [], acc := [], store := [], scratch := [], cra := [], state := .idle,
    fault := 0#8, faultPc := 0#11, runClocks := 0#32, eccCorrected := 0#16, lastFn := 0#8, pageLo := 0#12,
    pageHi := 0#12, craMtb := 0#64, recvUp := [], recvDown := [], inflightUp := [], inflightDown := [],
    pc := 0, insn := none, loop0 := none, loop1 := none, accReady := [], own := .controller,
    unclocked := false }

def grain (s : State) (g : Nat) : Grain := tget Grain.reset s.bank.grains g
def setGrain (g : Nat) (x : Grain) (s : State) : State :=
  { s with bank := { s.bank with grains := tset Grain.reset s.bank.grains g x } }

/-- A die held in reset, as the controller holds it until it releases RESET_n; its settings are those of the release
(07 R210): lockstep mode, speed point 3200, registers at reset. Its temperature before the first reading is DESIGN
CHOICE 25 (log entry 12). -/
def DieSt.reset : DieSt :=
  { openRows := [], sel := 0#16, mr := [], speed := 2#2, ready := false, osc := 64#8, temp := 25#8,
    changed := 0#16, clipped := false, selfRefresh := false, inReset := true, selfTest := false,
    stDone := false, undefCode := 0#5, cause := 0#8, deferred := [] }

/-- The number of die c.r.d, spare ranks included. -/
def dieNo (c r d : Nat) : Nat := (c * 3 + r) * 4 + d
def die (s : State) (i : Nat) : DieSt := tget DieSt.reset s.bank.dies i
def setDie (i : Nat) (x : DieSt) (s : State) : State :=
  { s with bank := { s.bank with dies := tset DieSt.reset s.bank.dies i x } }

def Mark.clean : Mark := { poison := false, flips := 0 }
def markOf (s : State) (w : Nat) : Mark := tget Mark.clean s.bank.marks w

def Bc.reset : Bc :=
  { writes := [], toWrites := false, heldAct := [], lastPort := 0, streak := 0, panicFrom := none, recent := [], p1 := [], debt := [], sent := [], halved := 0#3,
    tracker := [], nbr := [], spreadFrom := 0#64, spreadNs := [], setB := false, changing := false }
def bc (s : State) (c : Nat) : Bc := tget Bc.reset s.ctl.bcs c
def setBc (c : Nat) (b : Bc) (s : State) : State := { s with ctl := { s.ctl with bcs := tset Bc.reset s.ctl.bcs c b } }

def QuadMap.reset : QuadMap :=
  { again := [], fenced := 0#8, failed := none, spareFor := none, spareIn := false, spareBad := false, mig := none }
def quadMap (s : State) (q : Nat) : QuadMap := tget QuadMap.reset s.ctl.quads q
def setQuad (q : Nat) (m : QuadMap) (s : State) : State :=
  { s with ctl := { s.ctl with quads := tset QuadMap.reset s.ctl.quads q m } }

/-- A context (09 Table 9.2); none where it is FREE. -/
def ctx (s : State) (x : Nat) : Option Ctx := tfind s.seq.ctxs x
def setCtx (x : Nat) (c : Ctx) (s : State) : State := { s with seq := { s.seq with ctxs := tput s.seq.ctxs x c } }
def eraseCtx (x : Nat) (s : State) : State :=
  { s with seq := { s.seq with ctxs := terase s.seq.ctxs x, freed := tset 0#64 s.seq.freed x (now s) } }
/-- A context enters a state (09 Table 9.1). -/
def moveCtx (x : Nat) (c : Ctx) (st : CState) (s : State) : State := setCtx x { c with st := st, since := now s } s

def queue (s : State) (q : Nat) : List QCmd := tget [] s.seq.queues q
def setQueue (q : Nat) (l : List QCmd) (s : State) : State :=
  { s with seq := { s.seq with queues := tset [] s.seq.queues q l } }

/-- A flag cleared by reset (12 Table 12.2); its stamps are DESIGN CHOICE 0 (log entry 14). -/
def Flag.reset : Flag := { value := false, setter := 5, setMtb := 0#64, clearMtb := 0#64, sets := 0#16, clears := 0#16 }
/-- A flag since the last reset that cleared every flag (12 R334). -/
def Flag.cleared (t : U64) : Flag := { Flag.reset with clearMtb := t }
def localFlag (s : State) (i : Nat) : Flag := tget (Flag.cleared s.seq.clearedAt) s.seq.localF i
def sharedFlag (s : State) (i : Nat) : Flag := tget (Flag.cleared s.seq.clearedAt) s.seq.sharedF i

def Wire.reset : Wire := { func := none, n := 0, moduleWide := false, count := 0, gen := 0, joined := [], due := none }
def wire (s : State) (w : Nat) : Wire := tget Wire.reset s.seq.wires w
def setWire (w : Nat) (x : Wire) (s : State) : State := { s with seq := { s.seq with wires := tset Wire.reset s.seq.wires w x } }

def Mx.reset : Mx := { acc := [], wts := [], wtFmt := [], tiles := [], masks := [], taint := [] }
def mx (s : State) (n : Nat) : Mx := tget Mx.reset s.eng.mxs n
def setMx (n : Nat) (m : Mx) (s : State) : State := { s with eng := { s.eng with mxs := tset Mx.reset s.eng.mxs n m } }

/-- A port after cold or warm reset (15 R415). -/
def Port.reset : Port :=
  { st := .down, lanes := 0, first := 0, fallback := false, polarity := false, reversed := false, good := 0#8,
    farGood := 0#8, txSeq := 0#32, rxNext := 0#32, nackSent := false, held := [], queue := [], credit0 := 0,
    credit1 := 0, back0 := 0, back1 := 0, staged := [], restaged := [], stalls := 0, replays := 0#32, ident := none,
    partner := none, lastTsync := none, offset := 0, loopHold := false, panic := false }
def port (s : State) (p : Nat) : Port := tget Port.reset s.lnk.ports p
def setPort (p : Nat) (x : Port) (s : State) : State := { s with lnk := { s.lnk with ports := tset Port.reset s.lnk.ports p x } }

/-- The owner of a granted page: the function's number plus 1, 0 where the page is not granted. -/
def pageOwner (s : State) (pg : Nat) : Nat := tget 0 s.serve.pages pg
def setPageOwner (pg owner : Nat) (s : State) : State :=
  { s with serve := { s.serve with pages := tset 0 s.serve.pages pg owner } }
/-- How many pages a function holds. -/
def pagesHeld (s : State) (f : Nat) : Nat := (s.serve.pages.filter (fun p => decide (p.2 = f + 1))).length

def LoopRec.reset : LoopRec := { active := false, overruled := false, setting := 0#32, heldNs := 0#64, changed := 0#64 }
def loopRec (s : State) (i : Nat) : LoopRec := tget LoopRec.reset s.pwr.loops i

def KBlock.reset : KBlock := { dirty := false, since := 0#64, gen := 0#64, slot := none, copying := false }
def kblock (s : State) (i : Nat) : KBlock := tget KBlock.reset s.keep.blocks i
def setKblock (i : Nat) (b : KBlock) (s : State) : State := { s with keep := { s.keep with blocks := tset KBlock.reset s.keep.blocks i b } }

def Slot.reset : Slot := { st := .off, outMv := 0, since := 0#64, ramped := 0, held := false, fails := [] }
def slot (s : State) (i : Nat) : Slot := tget Slot.reset s.tray.slots i
def setSlot (i : Nat) (x : Slot) (s : State) : State := { s with tray := { s.tray with slots := tset Slot.reset s.tray.slots i x } }

/-- A module the GRC has read nothing of: without impairment (DESIGN CHOICE, log entry 113). -/
def RackMod.reset : RackMod :=
  { healthy := false, fenced := false, up := 30, down := 30, cap := 480, grains := 2048, fencedRanks := 0,
    upPorts := 0x3F#6, carryPorts := 0x3F#6 }
def rackMod (s : State) (m : Nat) : RackMod := tget RackMod.reset s.grc.mods m
def setRackMod (m : Nat) (x : RackMod) (s : State) : State := { s with grc := { s.grc with mods := tset RackMod.reset s.grc.mods m x } }

end Sys2Proof.Machine
end

