-- ==== Sys2Proof/Machine/Flags.lean ====
section
/-! DEFINITION. Status codes: their values, their order, and which one is written (00 R11, R12, R524). -/

namespace Sys2Proof.Machine

/-- The code of a status (00 Table 0.4). -/
def statusCode (st : Status) : Nat :=
  match st with
  | .done => 0x00 | .doneClipped => 0x01 | .cancelled => 0x02 | .cancelLate => 0x03
  | .admitMem => 0x10 | .admitTime => 0x11 | .quota => 0x12
  | .rsvNonzero => 0x20 | .badOpcode => 0x21 | .badTenant => 0x22 | .cfgMismatch => 0x23
  | .holdupShort => 0x30 | .keepFull => 0x31
  | .preempted => 0x40 | .orphaned => 0x41
  | .watchdog => 0x50 | .grainFault => 0x51 | .seqFault => 0x52
  | .poisoned => 0x60 | .linkDown => 0x61 | .fenced => 0x62

/-- Its place in the order of R12, from 1. -/
def statusRank (st : Status) : Nat :=
  match st with
  | .badTenant => 1 | .badOpcode => 2 | .rsvNonzero => 3 | .cfgMismatch => 4 | .quota => 5
  | .admitMem => 6 | .keepFull => 7 | .holdupShort => 8 | .admitTime => 9 | .orphaned => 10
  | .preempted => 11 | .cancelled => 12 | .fenced => 13 | .poisoned => 14 | .linkDown => 15
  | .grainFault => 16 | .seqFault => 17 | .watchdog => 18 | .cancelLate => 19 | .doneClipped => 20
  | .done => 21

/-- Add a status to those that applied; DONE is never one beside another (R524), and none counts twice. -/
def addStatus (st : Status) (l : List Status) : List Status :=
  if st = .done ∨ st ∈ l then l
  else l.filter (fun x => decide (statusRank x < statusRank st)) ++ [st]
    ++ l.filter (fun x => decide (statusRank st < statusRank x))

/-- The status written: the one that comes first in R12's order, DONE when none applied. -/
def chosen (l : List Status) : Status :=
  l.foldl (fun a b => if statusRank b < statusRank a then b else a) .done

/-- The multi bit: two or more statuses other than DONE applied (R524). -/
def multiOf (l : List Status) : Bool := decide (2 ≤ (l.filter (fun x => decide (x ≠ .done))).length)

/-- data0 of a class 0x05 entry: each applying status as one byte in R12 order, the first eight, unused
bytes 0xFF (19 Table 19.9). -/
def statusBytes (l : List Status) : Nat :=
  leNat (((l.map (fun x => BitVec.ofNat 8 (statusCode x))) ++ List.replicate 8 0xFF#8).take 8)

/-- The per-function counters that an ending counts on (19 Table 19.2). -/
def endingCtr (st : Status) : Option Nat :=
  let c := statusCode st
  if c = 0x01 then some 2
  else if 0x10 ≤ c ∧ c ≤ 0x12 then some 3
  else if 0x50 ≤ c ∧ c ≤ 0x62 then some 4
  else if c = 0x02 ∨ c = 0x03 then some 5
  else none

/-- Count the ending of a descriptor or a row. -/
def countEnding (f : Func) (st : Status) (s : State) : State :=
  let s1 := match endingCtr st with
    | some i => bumpFuncBy f i 1 s
    | none => s
  s1

end Sys2Proof.Machine
end

