-- ==== Sys2Proof/Machine/Orders.lean ====
section
/-! DEFINITION. Requests that one window boundary latches (01 R18 to R22, 04 R123 to R126): the requests of the present
boundary on contested objects, and the entries that a collision writes. One tick separates two boundaries; of the
requests of one boundary, the sender queues first the one that is served first (DESIGN CHOICE, log entry 2). -/

namespace Sys2Proof.Machine

/-- The requests latched at this boundary so far. -/
def ordersNow (s : State) : List Order := if s.log.ordersAt = now s then s.log.orders else []

/-- Keep a request for those of the same boundary that follow it. -/
def noteOrder (o : Order) (s : State) : State :=
  { s with log := { s.log with orders := ordersNow s ++ [o], ordersAt := now s } }

/-- The latest request of this boundary on an object, of one of some kinds. -/
def rival (s : State) (o : Obj) (kinds : List Req) : Option Order :=
  ((ordersNow s).filter (fun x => decide (x.obj = o ∧ x.req ∈ kinds))).getLast?

/-- The location of a contested object (19 Table 19.9). -/
def Obj.loc (o : Obj) : U16 :=
  match o with
  | .ring f => locOf 5 f.val
  | .desc f _ => locOf 5 f.val
  | .page g => locOf 1 (g / 4096)
  | .flag n => locOf 8 (n / 64)
  | _ => locOf 0 0

/-- Two requests collide (01 R22, 19 R490): an entry for each, with equal stamps, each with the other's seq; the second
may have lost. -/
def logCollision (a b : Order) (lost : Bool) (s : State) : State :=
  let q := s.log.seq
  let s1 := logAs 0x01 0x00 a.obj.loc a.func a.master (q + 1#16).toNat a.hsn.toNat s
  logAs 0x01 (if lost then 0x40 else 0x00) b.obj.loc b.func b.master q.toNat b.hsn.toNat s1

/-- The function of a request as a winner is reported: 0 where it has none (04 R110). -/
def winnerFunc (a : Order) : Nat := if a.func = 0xFF#8 then 0 else a.func.toNat

/-- The detail word of PREEMPTED: the winning master and its function (04 Table 4.8). -/
def preemptDetail (a : Order) : Nat := a.master % 4 + winnerFunc a * 2 ^ 8

/-- The entry of class 0x02 of a loser: a descriptor's at its ring, a mailbox command's at the module (19 Table 19.9). -/
def logPreempted (a : Order) (loser : Option (Func × U32)) (s : State) : State :=
  let w := a.master % 4 * 2 ^ 32 + winnerFunc a * 2 ^ 40
  match loser with
  | some (f, hsn) => logFn 0x02 0x40 (locOf 5 f.val) f (hsn.toNat + w) 0 s
  | none => logAs 0x02 0x40 (locOf 0 0) 0xFF#8 1 w 0 s

/-- A request that takes effect, beside the one of this boundary it collides with, if any. -/
def contend (kinds : List Req) (o : Order) (s : State) : State :=
  match rival s o.obj kinds with
  | some a => logCollision a o false (noteOrder o s)
  | none => noteOrder o s

/-- A request of a function's own ring or descriptor. -/
def ownOrder (o : Obj) (k : Req) (f : Func) (hsn : U32) : Order :=
  { obj := o, req := k, master := masterOf f, func := BitVec.ofNat 8 f.val, hsn := hsn }

/-- A request of the PF on another function's object. -/
def pfOrder (o : Obj) (k : Req) (hsn : U32) : Order := { obj := o, req := k, master := 1, func := 0#8, hsn := hsn }

end Sys2Proof.Machine
end

