-- ==== Sys2Proof/Machine/Operands.lean ====
section
/-! DEFINITION. The operand forms: locations in the banks and the address-map orders (08 Table 8.2),
bank-local space (05 Table 5.1), grain sets and page identifiers (04 R105, R106), flag blocks (12 R320),
DPA windows (03 R76), and the checks of a descriptor's fields (04 R104, R107, R112, R527). -/

namespace Sys2Proof.Machine

/-! ### Locations in the banks -/

/-- A column word's place: channel, rank, die, bank, row, column (00 R13, 05 R128). -/
structure Loc where
  c : Nat
  r : Nat
  d : Nat
  bank : Nat
  row : Nat
  col : Nat
  deriving DecidableEq, Repr

/-- The number of a column word, spare ranks included. -/
def locWord (l : Loc) : Nat := ((((l.c * 3 + l.r) * 4 + l.d) * 32 + l.bank) * 65536 + l.row) * 64 + l.col

/-- The place of a column word's number. -/
def wordLoc (w : Nat) : Loc :=
  { c := w / 64 / 65536 / 32 / 4 / 3, r := w / 64 / 65536 / 32 / 4 % 3, d := w / 64 / 65536 / 32 % 4,
    bank := w / 64 / 65536 % 32, row := w / 64 % 65536, col := w % 64 }

/-- The place of the column word that holds DPA byte a, under address-map order o (08 Table 8.2). -/
def dpaLoc (o a : Nat) : Loc :=
  match o with
  | 0 => { c := bits a 8 4, r := bits a 22 1, d := bits a 5 2,
           bank := bits a 12 3 * 4 + bits a 20 2, row := bits a 23 16, col := bits a 7 1 + 2 * bits a 15 5 }
  | 1 => { c := bits a 12 4, r := bits a 22 1, d := bits a 5 2,
           bank := bits a 17 5, row := bits a 23 16, col := bits a 7 5 + 32 * bits a 16 1 }
  | 2 => { c := bits a 8 2 + 4 * bits a 37 2, r := bits a 20 1, d := bits a 5 2,
           bank := bits a 15 5, row := bits a 21 16, col := bits a 7 1 + 2 * bits a 10 5 }
  | _ => { c := bits a 35 4, r := bits a 34 1, d := bits a 5 2,
           bank := bits a 13 1 + 2 * bits a 30 4, row := bits a 14 16, col := bits a 7 6 }

/-- The DPA of byte 0 of a data rank's column word, under order o. -/
def locDpa (o : Nat) (l : Loc) : Nat :=
  match o with
  | 0 => l.d * 2 ^ 5 + l.col % 2 * 2 ^ 7 + l.c * 2 ^ 8 + l.bank / 4 * 2 ^ 12 + l.col / 2 * 2 ^ 15
           + l.bank % 4 * 2 ^ 20 + l.r * 2 ^ 22 + l.row * 2 ^ 23
  | 1 => l.d * 2 ^ 5 + l.col % 32 * 2 ^ 7 + l.c * 2 ^ 12 + l.col / 32 * 2 ^ 16 + l.bank * 2 ^ 17
           + l.r * 2 ^ 22 + l.row * 2 ^ 23
  | 2 => l.d * 2 ^ 5 + l.col % 2 * 2 ^ 7 + l.c % 4 * 2 ^ 8 + l.col / 2 * 2 ^ 10 + l.bank * 2 ^ 15
           + l.r * 2 ^ 20 + l.row * 2 ^ 21 + l.c / 4 * 2 ^ 37
  | _ => l.d * 2 ^ 5 + l.col * 2 ^ 7 + l.bank % 2 * 2 ^ 13 + l.row * 2 ^ 14 + l.bank / 2 * 2 ^ 30
           + l.r * 2 ^ 34 + l.c * 2 ^ 35

/-- The address-map order in force (08 R217). -/
def amo (s : State) : Nat := s.dev.bcMap.inForce.order.toNat

/-- The place of bank-local byte a of grain index g (05 R131, R132). -/
def localLoc (g a : Nat) : Loc :=
  { c := g / 128, r := g / 64 % 2, d := g / 16 % 4, bank := 2 * (g % 16) + bits a 5 1,
    row := bits a 16 12 * 16 + bits a 12 4, col := bits a 6 6 }

/-- The grain index and bank-local offset of a data rank's column word. -/
def locLocal (l : Loc) : Nat × Nat :=
  (l.c * 128 + l.r * 64 + l.d * 16 + l.bank / 2,
   l.row * 2 ^ 12 + l.col * 2 ^ 6 + l.bank % 2 * 2 ^ 5)

/-- The logical number of a rank within its quad (20 R507). -/
def quadRank (c r : Nat) : Nat := 2 * (c % 4) + r

/-- Where a data rank's row stands: in the spare once the spare is in service, or once the migration has
copied the row (08 R240, R241). -/
def physLoc (s : State) (l : Loc) : Loc :=
  let q := quadMap s (l.c / 4)
  let named := decide (l.r < 2 ∧ (q.spareFor.map (fun k => k.val)) = some (quadRank l.c l.r))
  let copied := match q.mig with
    | some m => decide (l.row < m.row ∨ (l.row = m.row ∧ l.bank < m.bank))
    | none => false
  if named && (q.spareIn || copied) then { l with c := 4 * (l.c / 4) + 3, r := 2 } else l

/-- The channel and rank whose grains carry out the work of a logical rank (04 R105, 08 R240). -/
def physRank (s : State) (c r : Nat) : Nat × Nat :=
  let q := quadMap s (c / 4)
  if q.spareIn = true ∧ (q.spareFor.map (fun k => k.val)) = some (quadRank c r) ∧ r < 2 then (4 * (c / 4) + 3, 2) else (c, r)

/-- The logical rank that a physical rank serves, where it serves one. -/
def logicalLoc (s : State) (l : Loc) : Loc :=
  let q := quadMap s (l.c / 4)
  if l.r = 2 then
    match q.spareFor with
    | some k => { l with c := 4 * (l.c / 4) + k.val / 2, r := k.val % 2 }
    | none => l
  else l

/-- A logical data rank that is fenced (08 R243). -/
def isFenced (s : State) (c r : Nat) : Bool := (quadMap s (c / 4)).fenced.getLsbD (quadRank c r)

/-- A rank out of DPA under AMO3 (08 R219). -/
def isUnpop (s : State) (c r : Nat) : Bool :=
  decide (amo s = 3) && !(s.dev.bcMap.inForce.ranks.getLsbD (2 * c + r))

/-- The column words of a 64-byte DPA line, in order of address: dies 2k and 2k + 1 (08 Table 8.2). -/
def dpaLineLocs (s : State) (line : Nat) : List Loc :=
  [dpaLoc (amo s) (line * 64), dpaLoc (amo s) (line * 64 + 32)]

/-- The column words of a 64-byte bank-local line: one of each of the grain's banks (05 R131). -/
def localLineLocs (line : Nat) : List Loc :=
  [localLoc (line * 64 / 2 ^ 28) (line * 64 % 2 ^ 28), localLoc (line * 64 / 2 ^ 28) (line * 64 % 2 ^ 28 + 32)]

/-- The physical column words of a bank line by either of its names. -/
def lineWords (s : State) (loc : Bool) (line : Nat) : List Nat :=
  ((if loc then localLineLocs line else dpaLineLocs s line).map (fun l => locWord (physLoc s l)))

/-- The logical rank a bank line lies in. -/
def lineRank (s : State) (loc : Bool) (line : Nat) : Nat × Nat :=
  match (if loc then localLineLocs line else dpaLineLocs s line) with
  | l :: _ => (l.c, l.r)
  | [] => (0, 0)

/-! ### Grains, grain sets, pages -/

/-- The channel, rank, die and grain of a grain's index, mapped or physical (05 R130). -/
def grainCoord (g : Nat) : Nat × Nat × Nat × Nat :=
  if g < 2048 then (g / 128, g / 64 % 2, g / 16 % 4, g % 16)
  else (4 * ((g - 2048) / 64) + 3, 2, g / 16 % 4, g % 16)

/-- The physical index of grain g of die c.r.d (05 R130). -/
def grainAt (c r d g : Nat) : Nat :=
  if r < 2 then c * 128 + r * 64 + d * 16 + g else 2048 + c / 4 * 64 + d * 16 + g

/-- The grain that carries out work named by a mapped index: the spare rank's once it serves (04 R105). -/
def physGrain (s : State) (g : Nat) : Nat :=
  let q := quadMap s (g / 512)
  if q.spareIn ∧ (q.spareFor.map (fun k => k.val)) = some (g / 64 % 8) then 2048 + g / 512 * 64 + g % 64 else g

/-- Whether a mapped grain is mapped out (05 R155). -/
def isOut (s : State) (g : Nat) : Bool := decide (physGrain s g ∈ s.bank.mappedOut)

/-- A grain set's four masks (04 R105). -/
def setChans (w : Nat) : Nat := bits w 0 16
def setRanks (w : Nat) : Nat := bits w 16 2
def setDies (w : Nat) : Nat := bits w 18 4
def setGrains (w : Nat) : Nat := bits w 22 16

/-- Whether a grain set holds the mapped grain g (04 R105). -/
def setHolds (w g : Nat) : Bool :=
  bitAt (setChans w) (g / 128) && bitAt (setRanks w) (g / 64 % 2) && bitAt (setDies w) (g / 16 % 4)
    && bitAt (setGrains w) (g % 16)

/-- The number of grains a set holds. -/
def setSize (w : Nat) : Nat :=
  popCount 16 (setChans w) * popCount 2 (setRanks w) * popCount 4 (setDies w) * popCount 16 (setGrains w)

/-- The grains a set holds, in ascending index. -/
def setList (w : Nat) : List Nat := (List.range 2048).filter (setHolds w)

/-- Whether a set names the pair (channel, data rank): it holds at least one grain there (05 R149). -/
def namesPair (w c r : Nat) : Bool :=
  bitAt (setChans w) c && bitAt (setRanks w) r && decide (setDies w ≠ 0) && decide (setGrains w ≠ 0)

/-- The pairs a set names, as numbers 2c + r in ascending order. -/
def pairsOf (w : Nat) : List Nat := (List.range 32).filter (fun k => namesPair w (k / 2) (k % 2))

/-- Whether two sets share a grain. -/
def setsMeet (a b : Nat) : Bool :=
  decide (setChans a &&& setChans b ≠ 0) && decide (setRanks a &&& setRanks b ≠ 0)
    && decide (setDies a &&& setDies b ≠ 0) && decide (setGrains a &&& setGrains b ≠ 0)

/-- The bit of a grain-set word that names an object outside `own`, lowest first (04 R527). The set leaves the partition
where a set bit is not in the partition's mask of the same kind: mask by mask (DESIGN CHOICE, log entry 90). -/
def setOutside (w own : Nat) : Option Nat :=
  if setSize w = 0 then none
  else if setSize own = 0 then (List.range 38).find? (bitAt w)
  else
    let mask := setChans own + 2 ^ 16 * setRanks own + 2 ^ 18 * setDies own + 2 ^ 22 * setGrains own
    (List.range 38).find? (fun i => bitAt w i && !bitAt mask i)

/-- The function's grain set in force. -/
def grainsOf (s : State) (f : Nat) : Nat := (grnPartOf s f).inForce.set.toNat

/-- Whether page p of a grain lies in the function's page range (05 R151). -/
def pageInRange (s : State) (f p : Nat) : Bool :=
  let g := (grnPartOf s f).inForce
  decide (g.lo.toNat ≤ p ∧ p ≤ g.hi.toNat)

/-! ### Flag blocks (12 R320, R321) -/

/-- The block of a partition: its base and its quota. -/
def flagBlock (s : State) (f : Nat) : Nat × Nat :=
  ((flagBaseOf s f).inForce.toNat, (grnPartOf s f).inForce.flagQ.toNat)

/-- P of R320. -/
def pairCount (s : State) (f : Nat) : Nat := (pairsOf (grainsOf s f)).length

def inBlock (s : State) (f n : Nat) : Bool :=
  let b := flagBlock s f
  decide (b.1 ≤ n ∧ n < b.1 + b.2)

/-- The VF whose block holds a shared flag. Only functions whose partition has been set have a block. -/
def vfOfFlag (s : State) (n : Nat) : Option Nat :=
  (s.hub.grnPart.map (fun p => p.1)).find? (fun f => decide (0 < f) && inBlock s f n)

/-- The function a shared flag is attributed to (12 R321). -/
def flagOwner (s : State) (n : Nat) : Option Nat :=
  match vfOfFlag s n with
  | some f => some f
  | none => if inBlock s 0 n then some 0 else none

/-- Whether flag n lies in the flag range of its block's function f: below the run-done flags (R320). -/
def inFlagRange (s : State) (f n : Nat) : Bool :=
  let b := flagBlock s f
  decide (b.1 ≤ n ∧ n + pairCount s f < b.1 + b.2) && (decide (0 < f) || decide (vfOfFlag s n = none))

/-- Whether flag n is a run-done flag of f. -/
def isRunDone (s : State) (f n : Nat) : Bool :=
  inBlock s f n && decide ((flagBlock s f).1 + (flagBlock s f).2 ≤ n + pairCount s f)

/-- The run-done flag of (c, r) of a function (12 R320). -/
def runDoneFlag (s : State) (f c r : Nat) : Option Nat :=
  let ps := pairsOf (grainsOf s f)
  match ps.findIdx? (fun k => decide (k = 2 * c + r)) with
  | some i => some ((flagBlock s f).1 + (flagBlock s f).2 - ps.length + i)
  | none => none

/-! ### DPA windows -/

/-- Whether n bytes from DPA a lie in the function's window (03 R76). -/
def inWindow (s : State) (f a n : Nat) : Bool :=
  let t := (tenOf s f).inForce
  decide (t.base.toNat * 2 ^ 28 ≤ a ∧ a + n ≤ t.limit.toNat * 2 ^ 28)

/-! ### Descriptor fields -/

/-- The opcode byte. -/
def opcodeOf (ws : List U64) : Nat := bits (wordAt ws 0) 0 8
def quietOf (ws : List U64) : Bool := bitAt (wordAt ws 0) 8
def afterOf (ws : List U64) : Bool := bitAt (wordAt ws 0) 9
def hsnOf (ws : List U64) : U32 := BitVec.ofNat 32 (bits (wordAt ws 0) 32 32)

/-- The opcodes of 00 Table 0.3. -/
def knownOpcode (op : Nat) : Bool :=
  decide (op ∈ [0x01, 0x02, 0x03, 0x04, 0x10, 0x11, 0x12, 0x20, 0x21, 0x22, 0x23, 0x30, 0x31, 0x40, 0x41,
    0x50, 0x51, 0x60])

/-- The opcodes that run on a context (09 R247). -/
def onContext (op : Nat) : Bool := decide (op ∈ [0x10, 0x11, 0x22, 0x23, 0x31, 0x41])

/-- An offending field: the byte offset of its word and a bit (04 R527). -/
abbrev Offence := Nat × Nat

/-- The lowest bit of word i that is 1 and that no named field (low bit, length) covers. -/
def rsvBits (ws : List U64) (i : Nat) (named : List (Nat × Nat)) : List Offence :=
  match (List.range 64).find? (fun b =>
      bitAt (wordAt ws i) b && !(named.any (fun f => decide (f.1 ≤ b ∧ b < f.1 + f.2)))) with
  | some b => [(8 * i, b)]
  | none => []

/-- A field at bit b of word i that is out of range. -/
def badField (bad : Bool) (i b : Nat) : List Offence := if bad then [(8 * i, b)] else []

/-- Words that are reserved as a whole. -/
def rsvWords (ws : List U64) (l : List Nat) : List Offence := l.flatMap (fun i => rsvBits ws i [])

/-- The first offending field in ascending order of offset and then of bit (04 R527). -/
def firstOffence (l : List Offence) : Option Offence :=
  l.foldl (fun a b => match a with
    | none => some b
    | some x => if b.1 < x.1 ∨ (b.1 = x.1 ∧ b.2 < x.2) then some b else some x) none

/-- Bytes of the Keep region in force (03 R87). -/
def keepBytes (s : State) : Nat := s.dev.keep.inForce.size.toNat * 2 ^ 28

/-- Reserved bits and ranges of each opcode's body (04 Table 4.6, R112); a COPY's body is not checked
(R113), and an undefined opcode's neither (R114). -/
def rangeOffences (s : State) (ws : List U64) : List Offence :=
  let w (i : Nat) : Nat := wordAt ws i
  let misaligned (i n : Nat) : List Offence := badField (decide (w i % n ≠ 0)) i 0
  let header := rsvBits ws 0 [(0, 10), (32, 32)]
  let keepBody := misaligned 1 64
    ++ badField (decide (w 2 % 64 ≠ 0)) 2 0
    ++ rsvBits ws 3 [(0, 33)]
    ++ badField (decide (bits (w 3) 0 32 % 64 ≠ 0 ∨ bits (w 3) 0 32 < 64 ∨ 2 ^ 28 < bits (w 3) 0 32
        ∨ keepBytes s < w 2 + bits (w 3) 0 32)) 3 0
    ++ rsvWords ws [4, 5, 6, 7]
  let pageBody := rsvBits ws 1 [(0, 13), (16, 8)]
    ++ badField (decide (bits (w 1) 0 13 = 0 ∨ 4096 < bits (w 1) 0 13)) 1 0 ++ misaligned 3 64
  match opcodeOf ws with
  | 0x01 => header ++ rsvWords ws [1, 2, 3, 4, 5, 6, 7]
  | 0x02 => header ++ rsvBits ws 1 [(0, 3)] ++ rsvWords ws [2, 3, 4, 5, 6, 7]
  | 0x03 => header ++ rsvBits ws 1 [(0, 32)] ++ rsvWords ws [2, 3, 4, 5, 6, 7]
  | 0x04 =>
    let kind := bits (w 1) 0 8
    let sel := match kind with
      | 1 => rsvBits ws 1 [(0, 16)]
      | 2 => rsvBits ws 1 [(0, 8)]
      | 3 =>
        let fst := bits (w 1) 8 14
        let cnt := bits (w 1) 22 14 + 1
        let lim := match bits (w 1) 36 2 with
          | 0 => 192
          | 1 => 16384
          | 2 => 8
          | _ => 0
        rsvBits ws 1 [(0, 38)] ++ badField (decide (lim < fst + cnt)) 1 8
      | 4 => rsvBits ws 1 [(0, 8)]
      | 5 => rsvBits ws 1 [(0, 8)]
      | _ => badField true 1 0
    header ++ sel ++ misaligned 2 64 ++ rsvBits ws 3 [(0, 32)]
      ++ badField (decide (w 3 % 2 ^ 32 % 64 ≠ 0 ∨ w 3 % 2 ^ 32 < 64 ∨ 2 ^ 20 < w 3 % 2 ^ 32)) 3 0
      ++ rsvWords ws [4, 5, 6, 7]
  | 0x10 =>
    let len := bits (w 2) 0 24
    header ++ misaligned 1 4096 ++ rsvBits ws 2 [(0, 35)]
      ++ badField (decide (len % 64 ≠ 0 ∨ len < 0x100 ∨ 2 ^ 18 < len)) 2 0
      ++ badField (decide (4 < bits (w 2) 32 3)) 2 32 ++ misaligned 3 64 ++ rsvBits ws 4 [(0, 16)]
      ++ badField (decide (256 < bits (w 4) 0 16 ∨ (w 3 = 0 ∧ bits (w 4) 0 16 ≠ 0))) 4 0
      ++ rsvWords ws [5, 6, 7]
  | 0x11 =>
    header ++ misaligned 1 64 ++ rsvBits ws 2 [(0, 11), (16, 4)]
      ++ badField (decide (bits (w 2) 0 11 = 0 ∨ 1024 < bits (w 2) 0 11)) 2 0 ++ misaligned 3 64
      ++ rsvWords ws [4, 5, 6, 7]
  | 0x12 =>
    let row := bits (w 1) 32 16
    let n := bits (w 2) 0 11
    header ++ rsvBits ws 1 [(0, 56)] ++ badField (decide (1023 < row ∧ row ≠ 0xFFFF)) 1 32
      ++ rsvBits ws 2 [(0, 11)]
      ++ badField (decide (n = 0 ∨ 1024 < n ∨ (1 < n ∧ row ≠ 0xFFFF))) 2 0 ++ rsvWords ws [3, 4, 5, 6, 7]
  | 0x20 => header
  | 0x21 => header ++ rsvBits ws 1 [(0, 38)] ++ rsvBits ws 2 [(0, 32)] ++ rsvBits ws 3 [(0, 18)]
      ++ rsvWords ws [4, 5, 6, 7]
  | 0x22 =>
    let argv := bitAt (w 2) 19
    let off := bits (w 2) 16 3
    header ++ rsvBits ws 1 [(0, 38)] ++ rsvBits ws 2 [(0, 11), (16, 4)]
      ++ badField (decide ((argv = true ∧ off = 7) ∨ (argv = false ∧ off ≠ 0))) 2 16
      ++ rsvWords ws [3] ++ (if argv then [] else rsvWords ws [4, 5, 6, 7])
  | 0x23 =>
    let n := bits (w 3) 0 12
    header ++ rsvBits ws 1 [(0, 38)] ++ misaligned 2 64 ++ rsvBits ws 3 [(0, 12), (16, 11)]
      ++ badField (decide (n = 0 ∨ 2048 < n)) 3 0 ++ badField (decide (2048 < bits (w 3) 16 11 + n)) 3 16
      ++ rsvWords ws [4, 5, 6, 7]
  | 0x30 => header ++ keepBody
  | 0x31 => header ++ keepBody
  | 0x40 =>
    header ++ rsvBits ws 1 [(0, 22), (24, 6)] ++ misaligned 2 64 ++ rsvBits ws 3 [(0, 13)]
      ++ badField (decide (bits (w 3) 0 13 = 0 ∨ 4096 < bits (w 3) 0 13)) 3 0 ++ rsvWords ws [4, 5, 6, 7]
  | 0x41 =>
    let sp := bits (w 1) 16 2
    let op := bits (w 1) 18 2
    header ++ rsvBits ws 1 [(0, 14), (16, 6)] ++ badField (decide (sp = 0 ∧ 47 < bits (w 1) 0 14)) 1 0
      ++ badField (decide (sp = 3)) 1 16 ++ badField (decide (1 < op ∨ (sp = 2 ∧ op ≠ 0))) 1 18
      ++ rsvBits ws 2 [(0, 8)] ++ rsvWords ws [3, 4, 5, 6, 7]
  | 0x50 => header ++ pageBody ++ rsvBits ws 2 [(0, 38)] ++ rsvWords ws [4, 5, 6, 7]
  | 0x51 => header ++ pageBody ++ rsvWords ws [2, 4, 5, 6, 7]
  | 0x60 => header ++ misaligned 1 64 ++ rsvBits ws 2 [(0, 1)] ++ rsvWords ws [3, 4, 5, 6, 7]
  | _ => []

/-! ### Extents of a COPY (11 R307, R313) -/

/-- The bytes of a tensor in a format word's layout: its extent (11 R307). -/
def layoutExtent (fmt q0 q1 q2 : Nat) : Nat :=
  let planes := decide (bits fmt 0 2 = 3)
  let tr := 2 ^ (if planes then 5 else bits fmt 2 3) * 2 ^ bits fmt 8 2
  let tc := 2 ^ (if planes then 4 else bits fmt 5 3) * 2 ^ bits fmt 10 2
  let p0 := (q0 + tc - 1) / tc * tc
  let p1 := (q1 + tr - 1) / tr * tr
  let w := [2, 3, 4, 6].getD (bits fmt 2 2) 2
  if planes then p0 / 16 * (p1 / 32) * q2 * (64 * w) else p0 * p1 * q2 * 2 ^ bits fmt 0 2

/-- Extents of a layout descriptor's source and destination. -/
def srcExtent (ws : List U64) : Nat :=
  layoutExtent (bits (wordAt ws 1) 40 14) (bits (wordAt ws 4) 0 16 + 1) (bits (wordAt ws 4) 16 16 + 1) (bits (wordAt ws 4) 32 16 + 1)
def dstExtent (ws : List U64) : Nat :=
  layoutExtent (bits (wordAt ws 2) 40 14) (bits (wordAt ws 5) 0 16 + 1) (bits (wordAt ws 5) 16 16 + 1) (bits (wordAt ws 5) 32 16 + 1)

/-- Whether bytes a to a + n - 1 of bank-local space are pages granted to a function. -/
def localGranted (s : State) (f a n : Nat) : Bool :=
  let k := (a + n - 1) / 65536 + 1 - a / 65536
  decide (k ≤ pagesHeld s f) && (List.range k).all (fun i => decide (pageOwner s (a / 65536 + i) = f + 1))

/-- Whether an extent is one the function may name (R313). -/
def extentOk (s : State) (f w n : Nat) : Bool :=
  let a := bits w 0 39
  decide (a + n ≤ 2 ^ 39) && (if bitAt w 39 then localGranted s f a n else inWindow s f a n)

/-- Fields that name an object outside the function's ownership (04 R104, R113, 05 R151, 19 R492, R494). -/
def tenantOffences (s : State) (f : Nat) (ws : List U64) : List Offence :=
  let w (i : Nat) : Nat := wordAt ws i
  let vf := decide (0 < f)
  let grains (i own : Nat) : List Offence :=
    match setOutside (w i) own with
    | some b => [(8 * i, b)]
    | none => []
  let fnField := badField (vf && decide (bits (w 1) 16 8 ≠ 0)) 1 16
  match opcodeOf ws with
  | 0x02 => badField (vf && bitAt (w 1) 1) 1 1
  | 0x04 =>
    match bits (w 1) 0 8 with
    | 1 => badField (vf && decide (bits (w 1) 8 8 ≠ 0)) 1 8
    | 3 =>
      let fst := bits (w 1) 8 14
      let cnt := bits (w 1) 22 14 + 1
      let b := flagBlock s f
      badField (vf && decide (bits (w 1) 36 2 = 1 ∧ (fst < b.1 ∨ b.1 + b.2 < fst + cnt))) 1 8
    | 4 => badField vf 1 0
    | 5 => badField vf 1 0
    | _ => []
  | 0x12 => badField (vf && decide (bits (w 1) 48 8 ≠ 0)) 1 48
  | 0x20 => badField (!extentOk s f (w 1) (srcExtent ws)) 1 0 ++ badField (!extentOk s f (w 2) (dstExtent ws)) 2 0
  | 0x21 => grains 1 (grainsOf s f)
      ++ badField (!pageInRange s f (bits (w 3) 0 16 / 16)) 3 0
  | 0x22 => grains 1 (grainsOf s f)
  | 0x23 => grains 1 (grainsOf s f)
  | 0x30 => badField (bitAt (w 3) 32 && !inWindow s f (w 1) (bits (w 3) 0 32)) 1 0
      ++ badField (!inWindow s f (w 2) (bits (w 3) 0 32)) 2 0
  | 0x31 => badField (bitAt (w 3) 32 && !inWindow s f (w 1) (bits (w 3) 0 32)) 1 0
      ++ badField (!inWindow s f (w 2) (bits (w 3) 0 32)) 2 0
  | 0x41 => badField (decide (bits (w 1) 16 2 = 1) && !inFlagRange s f (bits (w 1) 0 14)) 1 0
  | 0x50 => fnField ++ grains 2 (grainsOf s (if vf then f else bits (w 1) 16 8))
  | 0x51 => fnField
  | _ => []

/-- The detail word of RSV_NONZERO or BAD_TENANT (04 R110, R527). -/
def offenceDetail (o : Offence) : U64 := BitVec.ofNat 64 (o.1 % 256 + 256 * o.2)

end Sys2Proof.Machine
end

