-- ==== Sys2Proof/Machine/CaBus.lean ====
section
/-! DEFINITION. The encodings of the CA bus (07 R187 to R190, Table 7.2): the cycles that a command is sent as, their
parity, and the command that a die reads from the cycles it receives. -/

namespace Sys2Proof.Machine

/-- The bits that Table 7.2 names in each cycle of a code, the code itself among them; none for a code it lacks. A list
holds as many as the command has cycles (R187). -/
def caMasks (code : Nat) : Option (List Nat) :=
  match code with
  | 0x01 => some [0x3FFF, 0x0FFF]
  | 0x02 => some [0x3E1F, 0x007F]
  | 0x03 => some [0x3E1F, 0x00FF]
  | 0x04 => some [0x3E1F, 0x0001]
  | 0x05 => some [0x3E1F, 0x0001]
  | 0x06 => some [0x1FFF, 0x0FFF]
  | 0x07 => some [0x1FFF, 0]
  | 0x08 => some [0x001F, 0]
  | 0x09 => some [0x001F, 0]
  | 0x0A => some [0x001F, 0]
  | 0x10 => some [0x07FF, 0x3FFF]
  | 0x11 => some [0x01FF, 0x0FFF]
  | 0x12 => some [0x001F, 0]
  | 0x13 => some [0x001F, 0x3FFF, 0x3FFF, 0x000F]
  | 0x14 => some [0x001F, 0x07FF]
  | 0x15 => some [0x001F, 0]
  | 0x16 => some [0x001F, 0]
  | 0x17 => some [0x00FF, 0]
  | 0x18 => some [0x0FFF, 0]
  | 0x19 => some [0x1FFF, 0x00FF]
  | 0x1A => some [0x1FFF, 0x000F]
  | 0x1B => some [0x001F, 0x0FFF, 0x0FFF, 0x00FF]
  | _ => none

/-- The cycles of a CA command as Table 7.2 lays them out; none for a command of another bus. A self-test start and a clear
of alert causes are writes of mode registers 0x24 and 0x08 (R208, R210). -/
def caCycles (i : Instr) : Option (List Nat) :=
  match i with
  | .act _ _ bank row => some [0x01 + row.val / 4096 * 2 ^ 5 + bank.val * 2 ^ 9, row.val % 4096]
  | .rd _ _ bank col ap _ => some [0x02 + bank.val * 2 ^ 9, col.val + bitIf ap 6]
  | .wr _ _ bank col ap poison _ => some [0x03 + bank.val * 2 ^ 9, col.val + bitIf ap 6 + bitIf poison 7]
  | .pre _ _ bank all => some [0x04 + bank.val * 2 ^ 9, bitIf all 0]
  | .ref _ _ bank all => some [0x05 + bank.val * 2 ^ 9, bitIf all 0]
  | .mrw _ _ addr data dies => some [0x06 + addr.toNat * 2 ^ 5, data.toNat + dies.toNat * 2 ^ 8]
  | .grainSelfTestStart _ _ dies => some [0x06 + 0x24 * 2 ^ 5, 1 + dies.toNat * 2 ^ 8]
  | .alertCauseClear _ _ dies causes => some [0x06 + 0x08 * 2 ^ 5, causes.toNat + dies.toNat * 2 ^ 8]
  | .mrr _ _ addr => some [0x07 + addr.toNat * 2 ^ 5, 0]
  | .sre _ _ => some [0x08, 0]
  | .srx _ _ => some [0x09, 0]
  | .zq _ _ => some [0x0A, 0]
  | .sel _ _ v => some [0x10 + v.dies.toNat * 2 ^ 5 + v.grains.toNat / 2 ^ 14 * 2 ^ 9, v.grains.toNat % 2 ^ 14]
  | .actg _ _ row => some [0x11 + row.val / 4096 * 2 ^ 5, row.val % 4096]
  | .preg _ _ => some [0x12, 0]
  | .sprd _ _ insn => some [0x13, bits insn.toNat 0 14, bits insn.toNat 14 14, bits insn.toNat 28 4]
  | .grun _ _ entry => some [0x14, entry.val]
  | .haltg _ _ => some [0x15, 0]
  | .stat _ _ => some [0x16, 0]
  | .craw _ _ slot _ => some [0x17 + slot.val * 2 ^ 5, 0]
  | .crar _ _ slot grain => some [0x18 + slot.val * 2 ^ 5 + grain.val * 2 ^ 8, 0]
  | .tlw _ _ index words _ => some [0x19 + index.toNat * 2 ^ 5, words.toNat]
  | .tlr _ _ index grain => some [0x1A + index.toNat * 2 ^ 5, grain.val]
  | .bind _ _ lo hi f => some [0x1B, lo.toNat, hi.toNat, f.val]
  | _ => none

/-- The command of a code by the fields of its cycles, with the data of its write burst. -/
def caFields (c : Chan) (r : Rank) (v : List Nat) (data : Wide) : Option Instr :=
  let x := v.getD 0 0
  let y := v.getD 1 0
  let bank : BankNo := Fin.ofNat 32 (bits x 9 5)
  let row (hi : Nat) : RowNo := Fin.ofNat 65536 (hi * 4096 + bits y 0 12)
  let col : ColNo := Fin.ofNat 64 (bits y 0 6)
  let byte (w b : Nat) : Byte := BitVec.ofNat 8 (bits w b 8)
  match bits x 0 5 with
  | 0x01 => some (.act c r bank (row (bits x 5 4)))
  | 0x02 => some (.rd c r bank col (bitAt y 6) [])
  | 0x03 => some (.wr c r bank col (bitAt y 6) (bitAt y 7) data)
  | 0x04 => some (.pre c r bank (bitAt y 0))
  | 0x05 => some (.ref c r bank (bitAt y 0))
  | 0x06 => some (.mrw c r (byte x 5) (byte y 0) (BitVec.ofNat 4 (bits y 8 4)))
  | 0x07 => some (.mrr c r (byte x 5))
  | 0x08 => some (.sre c r)
  | 0x09 => some (.srx c r)
  | 0x0A => some (.zq c r)
  | 0x10 => some (.sel c r { dies := BitVec.ofNat 4 (bits x 5 4), grains := BitVec.ofNat 16 (bits x 9 2 * 2 ^ 14 + bits y 0 14) })
  | 0x11 => some (.actg c r (row (bits x 5 4)))
  | 0x12 => some (.preg c r)
  | 0x13 => some (.sprd c r (BitVec.ofNat 32 (bits y 0 14 + bits (v.getD 2 0) 0 14 * 2 ^ 14 + bits (v.getD 3 0) 0 4 * 2 ^ 28)))
  | 0x14 => some (.grun c r (Fin.ofNat 2048 (bits y 0 11)))
  | 0x15 => some (.haltg c r)
  | 0x16 => some (.stat c r)
  | 0x17 => if bits x 5 3 = 7 then none else some (.craw c r (Fin.ofNat 7 (bits x 5 3)) data)
  | 0x18 => some (.crar c r (Fin.ofNat 8 (bits x 5 3)) (Fin.ofNat 16 (bits x 8 4)))
  | 0x19 => some (.tlw c r (byte x 5) (byte y 0) data)
  | 0x1A => some (.tlr c r (byte x 5) (Fin.ofNat 16 (bits y 0 4)))
  | 0x1B => some (.bind c r (BitVec.ofNat 12 (bits y 0 12)) (BitVec.ofNat 12 (bits (v.getD 2 0) 0 12))
      (Fin.ofNat 256 (bits (v.getD 3 0) 0 8)))
  | _ => none

/-- The command that a die reads from the cycles it receives; none for an undefined encoding: a code that Table 7.2 lacks, a
reserved bit, CRAW of slot 7, or fewer cycles than the code asks for (R190). -/
def caDecode (c : Chan) (r : Rank) (v : List Nat) (data : Wide) : Option Instr :=
  match caMasks (bits (v.getD 0 0) 0 5) with
  | none => none
  | some ms =>
    if v.length < ms.length ∨ (List.range ms.length).any (fun i => decide (v.getD i 0 &&& (2 ^ 14 - 1 - ms.getD i 0) ≠ 0)) then none
    else caFields c r v data

/-- A cycle of CA[13:0] with PAR above them has an even number of ones (Table 7.1). -/
def evenParity (v : BitVec 15) : Bool := decide (popCount 15 v.toNat % 2 = 0)

/-- The cycles that belong to a command: as many as its code asks for (R187), or all where the code asks for none. -/
def caTaken (cycles : List (BitVec 15)) : List (BitVec 15) :=
  match caMasks (bits (cycles.headD 0).toNat 0 5) with
  | some ms => cycles.take ms.length
  | none => cycles

end Sys2Proof.Machine
end

