-- ==== Sys2Proof/Machine/Fp.lean ====
section
/-! DEFINITION. Floating point: the one arithmetic of grains, matrix engines and Slips (06 R170,
10 R282), computed exactly on ±m·2^e and rounded once, to nearest, ties to even. -/

namespace Sys2Proof.Fp

/-- A value before rounding: a NaN, an infinity, or (-1)^neg · m · 2^e. -/
inductive Val where
  | nan
  | inf (neg : Bool)
  | fin (neg : Bool) (m : Nat) (e : Int)
  deriving DecidableEq, Repr

/-- The canonical NaN of fp32 (R170). -/
def nan32 : U32 := 0x7FC00000#32

/-- Widen an fp32 pattern; a subnormal counts as a zero of its sign (R170). -/
def val32 (x : U32) : Val :=
  let neg := x.getLsbD 31
  let ex := (x.extractLsb' 23 8).toNat
  let fr := (x.extractLsb' 0 23).toNat
  if ex = 255 then (if fr = 0 then .inf neg else .nan)
  else if ex = 0 then .fin neg 0 0
  else .fin neg (fr + 2 ^ 23) ((ex : Int) - 150)

/-- Widen a bf16 pattern: it is the top half of an fp32 pattern (R170). -/
def val16 (x : U16) : Val := val32 (x.zeroExtend 32 <<< 16)

/-- m, shifted right by k, rounded to nearest, ties to even. -/
def shiftRne (m k : Nat) : Nat :=
  let q := m >>> k
  let rem := m % 2 ^ k
  let half := 2 ^ k / 2
  if k = 0 then m
  else if rem > half ∨ (rem = half ∧ q % 2 = 1) then q + 1 else q

/-- Round a positive m·2^e to p significant bits as if the exponent were unbounded: (q, e') with q
of exactly p bits. -/
def roundSig (p m : Nat) (e : Int) : Nat × Int :=
  let len := Nat.log2 m + 1
  if len ≤ p then (m <<< (p - len), e - ((p - len : Nat) : Int))
  else
    let k := len - p
    let q := shiftRne m k
    if q = 2 ^ p then (q / 2, e + (k : Int) + 1) else (q, e + (k : Int))

/-- Round to fp32: overflow gives an infinity, below the smallest normal a zero of its sign (R170). -/
def round32 (v : Val) : U32 :=
  let sgn (neg : Bool) : U32 := if neg then 0x80000000#32 else 0#32
  match v with
  | .nan => nan32
  | .inf neg => sgn neg ||| 0x7F800000#32
  | .fin neg m e =>
    if m = 0 then sgn neg
    else
      let (q, e') := roundSig 24 m e
      let ex := e' + 23
      if ex > 127 then sgn neg ||| 0x7F800000#32
      else if ex < -126 then sgn neg
      else sgn neg ||| BitVec.ofNat 32 ((ex + 127).toNat * 2 ^ 23 + (q - 2 ^ 23))

/-- Round to bf16, with the same exponent range (R170). `sat` caps a finite overflow (10 Table 10.2). -/
def round16 (sat : Bool) (v : Val) : U16 :=
  let sgn (neg : Bool) : U16 := if neg then 0x8000#16 else 0#16
  match v with
  | .nan => 0x7FC0#16
  | .inf neg => sgn neg ||| 0x7F80#16
  | .fin neg m e =>
    if m = 0 then sgn neg
    else
      let (q, e') := roundSig 8 m e
      let ex := e' + 7
      if ex > 127 then sgn neg ||| (if sat then 0x7F7F#16 else 0x7F80#16)
      else if ex < -126 then sgn neg
      else sgn neg ||| BitVec.ofNat 16 ((ex + 127).toNat * 2 ^ 7 + (q - 2 ^ 7))

/-- The signed integer a·2^(ea - e) for e at most ea. -/
def scaled (neg : Bool) (m : Nat) (ea e : Int) : Int :=
  let k : Int := ((m <<< (ea - e).toNat : Nat) : Int)
  if neg then -k else k

/-- Exact sum. A sum that is exactly zero is +0 unless both terms are zeros or terms of sign minus
that are zero (PRESUMED: IEEE 754 to nearest; the spec states no sign. Log entry 24). -/
def addV (a b : Val) : Val :=
  match a, b with
  | .nan, _ => .nan
  | _, .nan => .nan
  | .inf x, .inf y => if x = y then .inf x else .nan
  | .inf x, _ => .inf x
  | _, .inf y => .inf y
  | .fin n1 m1 e1, .fin n2 m2 e2 =>
    let e := min e1 e2
    let r := scaled n1 m1 e1 e + scaled n2 m2 e2 e
    if r = 0 then .fin (n1 && n2) 0 0
    else .fin (decide (r < 0)) r.natAbs e

def negV : Val → Val
  | .nan => .nan
  | .inf n => .inf (!n)
  | .fin n m e => .fin (!n) m e

/-- Exact product; an infinity times zero is a NaN (R170). -/
def mulV (a b : Val) : Val :=
  match a, b with
  | .nan, _ => .nan
  | _, .nan => .nan
  | .inf x, .inf y => .inf (x != y)
  | .inf x, .fin y m _ => if m = 0 then .nan else .inf (x != y)
  | .fin x m _, .inf y => if m = 0 then .nan else .inf (x != y)
  | .fin n1 m1 e1, .fin n2 m2 e2 => .fin (n1 != n2) (m1 * m2) (e1 + e2)

def isNan (x : U32) : Bool := decide (val32 x = .nan)

/-- The order key of a value that is not a NaN: compares as the extended reals, −0 equal to +0. -/
def ltV (a b : Val) : Bool :=
  match a, b with
  | .nan, _ => false
  | _, .nan => false
  | .inf x, .inf y => x && !y
  | .inf x, .fin _ _ _ => x
  | .fin _ _ _, .inf y => !y
  | .fin n1 m1 e1, .fin n2 m2 e2 =>
    let e := min e1 e2
    decide (scaled n1 m1 e1 e < scaled n2 m2 e2 e)

def eqV (a b : Val) : Bool :=
  match a, b with
  | .nan, _ => false
  | _, .nan => false
  | x, y => !ltV x y && !ltV y x

def add (x y : U32) : U32 := round32 (addV (val32 x) (val32 y))
def sub (x y : U32) : U32 := round32 (addV (val32 x) (negV (val32 y)))
def mul (x y : U32) : U32 := round32 (mulV (val32 x) (val32 y))
/-- x·y + z with one rounding (10 Table 10.4). -/
def fma (x y z : U32) : U32 := round32 (addV (mulV (val32 x) (val32 y)) (val32 z))
/-- acc + a·b for bf16 a and b: exact product, one rounding (06 R172, 10 R281). -/
def macc16 (acc : U32) (a b : U16) : U32 := round32 (addV (val32 acc) (mulV (val16 a) (val16 b)))

/-- IEEE 754 compares; a NaN operand gives false (R170). -/
def lt (x y : U32) : Bool := ltV (val32 x) (val32 y)
def eq (x y : U32) : Bool := eqV (val32 x) (val32 y)
def le (x y : U32) : Bool := lt x y || eq x y

/-- Quiet the input of a maximum or minimum: a subnormal counts as a zero of its sign (R170). -/
def flush32 (x : U32) : U32 := round32 (val32 x)

/-- Order with −0 below +0, for maximum and minimum (R170). -/
def ltTotal (x y : U32) : Bool := lt x y || (eq x y && x.getLsbD 31 && !y.getLsbD 31)

def max32 (x y : U32) : U32 :=
  if isNan x || isNan y then nan32 else if ltTotal (flush32 x) (flush32 y) then flush32 y else flush32 x
def min32 (x y : U32) : U32 :=
  if isNan x || isNan y then nan32 else if ltTotal (flush32 y) (flush32 x) then flush32 y else flush32 x

/-- Widening of bf16 to fp32 with the input rules (R170). -/
def ofBf16 (x : U16) : U32 := round32 (val16 x)
/-- Narrowing of fp32 to bf16. -/
def toBf16 (x : U32) : U16 := round16 false (val32 x)

/-- x / y rounded to fp32: the quotient to 64 bits and a sticky bit. -/
def div (x y : U32) : U32 :=
  match val32 x, val32 y with
  | .nan, _ => nan32
  | _, .nan => nan32
  | .inf _, .inf _ => nan32
  | .inf a, .fin b _ _ => round32 (.inf (a != b))
  | .fin a _ _, .inf b => round32 (.fin (a != b) 0 0)
  | .fin a m e, .fin b n g =>
    if n = 0 then (if m = 0 then nan32 else round32 (.inf (a != b)))
    else
      let q := m * 2 ^ 64 / n
      let sticky := if m * 2 ^ 64 % n = 0 then 0 else 1
      round32 (.fin (a != b) (2 * q + sticky) (e - g - 65))

/-! ### The transcendental functions (06 R174, 10 R284)

Each is a fixed function of its input whose error is at most 2 units in the last place. `pick` keeps the free pattern that
Config gives where it meets that bound, and rounds the value itself where it does not: so nothing but the bound is known of
it. The values are taken to `prec` fraction bits, far beyond what the bound can tell apart (log entry 21). -/

def prec : Nat := 320

/-- 2 artanh(num / den) in units of 2^-prec. -/
def artanh2 (num den : Nat) : Nat :=
  let z := num * 2 ^ prec / den
  2 * ((List.range 110).foldl (fun (a : Nat × Nat) i => (a.1 + a.2 / (2 * i + 1), a.2 * (z * z / 2 ^ prec) / 2 ^ prec)) (0, z)).1

/-- ln 2, and ln of m·2^e for m above 0. -/
def ln2 : Nat := artanh2 1 3
def lnV (m : Nat) (e : Int) : Val :=
  let k := Nat.log2 m
  let v : Int := (e + (k : Int)) * (ln2 : Int) + (artanh2 (m - 2 ^ k) (m + 2 ^ k) : Int)
  .fin (decide (v < 0)) v.natAbs (-(prec : Int))

/-- The exponential of t·2^-prec as a·2^(k - prec): a and k. -/
def expParts (t : Int) : Nat × Int :=
  let k := t / (ln2 : Int)
  let r := (t - k * (ln2 : Int)).toNat
  (((List.range 72).foldl (fun (a : Nat × Nat) i => (a.1 + a.2, a.2 * r / 2 ^ prec / (i + 1))) (0, 2 ^ prec)).1, k)

/-- m·2^e in units of 2^-prec. -/
def fixed (m : Nat) (e : Int) : Nat :=
  if 0 ≤ e + (prec : Int) then m <<< (e + (prec : Int)).toNat else m >>> (-(e + (prec : Int))).toNat

/-- The exponential of ±m·2^e. -/
def expV (neg : Bool) (m : Nat) (e : Int) : Val :=
  let t : Int := (fixed m e : Int)
  let p := expParts (if neg then -t else t)
  .fin false p.1 (p.2 - (prec : Int))

/-- The exponential of -m·2^e in units of 2^-prec. -/
def expNeg (m : Nat) (e : Int) : Nat :=
  let p := expParts (-(fixed m e : Int))
  if p.2 < -(2 * prec : Int) then 0 else p.1 >>> (-p.2).toNat

/-- The integer root of n, of at most `bits` bits. -/
def root (n bits : Nat) : Nat :=
  (List.range bits).reverse.foldl (fun r b => if (r + 2 ^ b) ^ 2 ≤ n then r + 2 ^ b else r) 0

/-- 1 / sqrt(m·2^e) for m above 0. -/
def rsqrtV (m : Nat) (e : Int) : Val :=
  let n := if e % 2 = 0 then m else 2 * m
  .fin false (root (2 ^ (2 * prec) / n) (prec + 1)) (-(prec : Int) - (if e % 2 = 0 then e else e - 1) / 2)

/-- 1 / (±m·2^e) for m above 0. -/
def recipV (neg : Bool) (m : Nat) (e : Int) : Val := .fin neg (2 ^ prec / m) (-(prec : Int) - e)

/-- 1 / (1 + exp(-x)) for x of ±m·2^e. -/
def sigmoidV (neg : Bool) (m : Nat) (e : Int) : Val :=
  let below := 2 ^ prec + expNeg m e
  if neg then
    let p := expParts (-(fixed m e : Int))
    .fin false (p.1 * 2 ^ prec / below) (p.2 - (prec : Int))
  else .fin false (2 ^ (2 * prec) / below) (-(prec : Int))

/-- tanh of ±m·2^e. -/
def tanhV (neg : Bool) (m : Nat) (e : Int) : Val :=
  let t := expNeg m (e + 1)
  .fin neg ((2 ^ prec - t) * 2 ^ prec / (2 ^ prec + t)) (-(prec : Int))

/-- The pattern c lies within 2 units in the last place, of the pattern or of the value, of the value h. -/
def near (c : U32) (h : Val) : Bool :=
  match val32 c, h with
  | .fin n m e, .fin b k g =>
    let top : Int := (Nat.log2 k : Int) + g
    if m = 0 ∨ top < -140 ∨ 130 < top then false
    else
      match addV (.fin n m e) (.fin (!b) k g) with
      | .fin _ d x => !ltV (.fin false 2 (max e (top - 23))) (.fin false d x)
      | _ => false
  | _, _ => false

/-- A result of a transcendental stage: the free pattern where it is within the bound, else the value rounded. -/
def pick (c : U32) (h : Val) : U32 := if near c h then c else round32 h

/-- exp with the special values of 06 R174. -/
def exp (x : U32) : U32 :=
  match val32 x with
  | .nan => nan32
  | .inf true => 0#32
  | .inf false => 0x7F800000#32
  | .fin neg m e => pick (Config.expBits x) (expV neg m e)

/-- log with the special values of 10 R284. -/
def log (x : U32) : U32 :=
  match val32 x with
  | .nan => nan32
  | .inf true => nan32
  | .inf false => 0x7F800000#32
  | .fin neg m e =>
    if m = 0 then 0xFF800000#32 else if neg then nan32
    else if x = 0x3F800000#32 then 0#32 else pick (Config.logBits x) (lnV m e)

def signBit (neg : Bool) : U32 := if neg then 0x80000000#32 else 0#32

/-- rsqrt with the special values of 10 R284. -/
def rsqrt (x : U32) : U32 :=
  match val32 x with
  | .nan => nan32
  | .inf true => nan32
  | .inf false => 0#32
  | .fin neg m e => if m = 0 then signBit neg ||| 0x7F800000#32 else if neg then nan32 else pick (Config.rsqrtBits x) (rsqrtV m e)

/-- recip with the special values of 10 R284. -/
def recip (x : U32) : U32 :=
  match val32 x with
  | .nan => nan32
  | .inf neg => signBit neg
  | .fin neg m e => if m = 0 then signBit neg ||| 0x7F800000#32 else pick (Config.recipBits x) (recipV neg m e)

/-- tanh with the special values of 10 R284. -/
def tanh (x : U32) : U32 :=
  match val32 x with
  | .nan => nan32
  | .inf neg => signBit neg ||| 0x3F800000#32
  | .fin neg m e => if m = 0 then signBit neg else pick (Config.tanhBits x) (tanhV neg m e)

/-- sigmoid with the special values of 10 R284. -/
def sigmoid (x : U32) : U32 :=
  match val32 x with
  | .nan => nan32
  | .inf true => 0#32
  | .inf false => 0x3F800000#32
  | .fin neg m e => pick (Config.sigmoidBits x) (sigmoidV neg m e)

/-- silu: x times sigmoid of x, rounded after each step (10 Table 10.4). -/
def silu (x : U32) : U32 := mul x (sigmoid x)

/-- fp8 widening, subnormals kept (10 R282): E4M3. -/
def valE4m3 (x : Byte) : Val :=
  let neg := x.getLsbD 7
  let ex := (x.extractLsb' 3 4).toNat
  let fr := (x.extractLsb' 0 3).toNat
  if ex = 15 ∧ fr = 7 then .nan
  else if ex = 0 then .fin neg fr (-9)
  else .fin neg (fr + 8) ((ex : Int) - 10)

/-- fp8 widening: E5M2. -/
def valE5m2 (x : Byte) : Val :=
  let neg := x.getLsbD 7
  let ex := (x.extractLsb' 2 5).toNat
  let fr := (x.extractLsb' 0 2).toNat
  if ex = 31 then (if fr = 0 then .inf neg else .nan)
  else if ex = 0 then .fin neg fr (-16)
  else .fin neg (fr + 4) ((ex : Int) - 17)

/-- m·2^e in units of 2^q, rounded to nearest even; `low` is whether the value reaches half a unit, the
bound 10 Table 10.2 gives for a subnormal (DEDUCED, log entry 25). -/
def quantise (m : Nat) (e q : Int) : Nat :=
  if e ≥ q then m <<< (e - q).toNat
  else
    let k := (q - e).toNat
    let r := shiftRne m k
    if r = 0 ∧ 2 * m ≥ 2 ^ k then 1 else r

/-- Whether m·2^e is at least k·2^q. -/
def reaches (m : Nat) (e : Int) (k : Nat) (q : Int) : Bool :=
  if q ≤ e then decide (k ≤ m * 2 ^ (e - q).toNat) else decide (k * 2 ^ (q - e).toNat ≤ m)

/-- Narrow to an fp8 format with `f` fraction bits, bias such that the smallest normal is 2^emin, and largest finite code
`top`; a value that reaches half.1·2^half.2, halfway to the next step beyond the largest, counts as overflow (10 Table
10.2); `ovf` is the code of a finite overflow with sat 0, `infc` that of an infinity. -/
def roundFp8 (f : Nat) (emin : Int) (top : Nat) (half : Nat × Int) (ovf infc nanc : Nat) (sat satInf : Bool) (v : Val) : Byte :=
  let sgn (neg : Bool) (c : Nat) : Byte := BitVec.ofNat 8 (c + if neg then 128 else 0)
  match v with
  | .nan => BitVec.ofNat 8 nanc
  | .inf neg => if sat && satInf then sgn neg top else if infc = nanc then BitVec.ofNat 8 nanc else sgn neg infc
  | .fin neg m e =>
    if m = 0 then sgn neg 0
    else
      let (q, e') := roundSig (f + 1) m e
      let ex := e' + (f : Int)
      let code : Nat :=
        if ex ≥ emin then (ex - emin + 1).toNat * 2 ^ f + (q - 2 ^ f)
        else quantise m e (emin - (f : Int))
      if reaches m e half.1 half.2 then (if sat then sgn neg top else if ovf = nanc then BitVec.ofNat 8 nanc else sgn neg ovf)
      else sgn neg code

/-- fp32 to E4M3: largest 448, 0x7E, no infinity (10 Table 10.2). -/
def toE4m3 (sat : Bool) (x : U32) : Byte := roundFp8 3 (-6) 0x7E (29, 4) 0x7F 0x7F 0x7F sat true (val32 x)
/-- fp32 to E5M2: largest 57,344, 0x7B, infinity 0x7C whatever sat (10 Table 10.2). -/
def toE5m2 (sat : Bool) (x : U32) : Byte := roundFp8 2 (-14) 0x7B (15, 12) 0x7C 0x7C 0x7F sat false (val32 x)

/-- Saturate to a signed width (10 Table 10.2). -/
def satInt (bits : Nat) (i : Int) : Int :=
  let hi : Int := 2 ^ (bits - 1) - 1
  max (-(hi + 1)) (min hi i)

/-- Round a value to the nearest integer, ties to even, and saturate (10 Table 10.2). -/
def toInt (bits : Nat) (x : U32) : Int :=
  match val32 x with
  | .nan => 0
  | .inf neg => satInt bits (if neg then -(2 ^ 40) else 2 ^ 40)
  | .fin neg m e =>
    let k : Int := if e ≥ 0 then ((m <<< e.toNat : Nat) : Int) else ((shiftRne m (-e).toNat : Nat) : Int)
    satInt bits (if neg then -k else k)

/-- int32 to fp32, rounded to nearest even (10 Table 10.2). -/
def ofInt (i : Int) : U32 := round32 (.fin (decide (i < 0)) i.natAbs 0)

/-- x times 2^k, exact unless it overflows (06 R175). -/
def scaleV (neg : Bool) (k : Nat) (v : Val) : Val :=
  mulV (.fin neg 1 (k : Int)) v

end Sys2Proof.Fp
end

