-- ==== Sys2Proof/Machine/Alu.lean ====
section
/-! DEFINITION. The SALU functions and the branch conditions of 06 Table 6.3, which grains and sequencer
contexts share (06 R165, 09 R264). -/

namespace Sys2Proof.Machine

/-- SALU functions 0x00 to 0x0F; none for a code the table does not list there. -/
def salu (fn : Nat) (a b : U32) : Option U32 :=
  let k := b.toNat % 32
  match fn with
  | 0x00 => some (a + b)
  | 0x01 => some (a - b)
  | 0x02 => some (a * b)
  | 0x03 => some (a &&& b)
  | 0x04 => some (a ||| b)
  | 0x05 => some (a ^^^ b)
  | 0x06 => some (a <<< k)
  | 0x07 => some (a >>> k)
  | 0x08 => some (a.sshiftRight k)
  | 0x09 => some (if a.slt b then a else b)
  | 0x0A => some (if a.slt b then b else a)
  | 0x0B => some (Fp.add a b)
  | 0x0C => some (Fp.sub a b)
  | 0x0D => some (Fp.mul a b)
  | 0x0E => some (Fp.max32 a b)
  | 0x0F => some (Fp.min32 a b)
  | _ => none

/-- BR conditions 0 to 8; none for a code the table does not list. -/
def brTaken (cond : Nat) (a b : U32) : Option Bool :=
  match cond with
  | 0 => some (decide (a = b))
  | 1 => some (decide (a ≠ b))
  | 2 => some (a.slt b)
  | 3 => some (!a.slt b)
  | 4 => some (a.ult b)
  | 5 => some (!a.ult b)
  | 6 => some (Fp.lt a b)
  | 7 => some (Fp.le b a)
  | 8 => some true
  | _ => none

end Sys2Proof.Machine
end

