-- ==== Sys2Proof/Machine/BankOps.lean ====
section
/-! DEFINITION. The shared operations on the bank array and on the Marl's copies of bank lines: reading a
column word with its check result, writing a channel unit, committing to a line, writing a line back. -/

namespace Sys2Proof.Machine

/-! ### The array -/

/-- The CHK code of a column word (07 R196): poison dominates, then two flipped bits, then one. -/
def chkOf (s : State) (w : Nat) : Nat :=
  let m := markOf s w
  if m.poison then 3 else m.flips.val

/-- Replace a whole column word with fresh check bits (05 R145, 07 R195). -/
def setColAt (w : Nat) (d : ColData) (poison : Bool) (s : State) : State :=
  { s with bank := { s.bank with mem := Memory.setCol s.bank.mem w d,
                                 marks := tset Mark.clean s.bank.marks w { poison := poison, flips := 0 } } }

/-- Bits of a column word that have flipped since it was written, as a read finds them (05 R129): with one it is correctable,
with two not, its data then as the array holds them, which nothing says (log entry 94). -/
def flipCol (w n : Nat) (s : State) : State :=
  let m := markOf s w
  let k := min 2 (m.flips.val + n)
  if n = 0 then s
  else
    let s1 := { s with bank := { s.bank with marks := tset Mark.clean s.bank.marks w { m with flips := Fin.ofNat 3 k } } }
    if m.flips.val < 2 ∧ k = 2 then
      takeFree { s1 with bank := { s1.bank with mem := Memory.setCol s1.bank.mem w (Config.undefinedCol s.freeCtr w) } }
    else s1

/-- The flips that a read of column words finds, by their dies. -/
def takeFlips (ws : List Nat) (flips : Flips) (s : State) : State :=
  ws.foldl (fun s' w => flipCol w (flips.getD (wordLoc w).d 0).val s') s

/-- The four column words of a channel unit (08 R212). -/
def unitWords (c r bank row col : Nat) : List Nat :=
  (List.range 4).map (fun d => locWord { c := c, r := r, d := d, bank := bank, row := row, col := col })

/-- Whether a unit reads with CHK code 2 or 3 on some die (08 R229, R230). -/
def unitBad (s : State) (ws : List Nat) : Bool := ws.any (fun w => decide (2 ≤ chkOf s w))

/-- Merge the bytes of `new` whose mask bit is 1 into `old`, of n bytes. -/
def mergeBytes (n : Nat) (old new mask : Nat) : Nat :=
  leNat ((List.range n).map (fun i =>
    BitVec.ofNat 8 (if bitAt mask i then new / 2 ^ (8 * i) else old / 2 ^ (8 * i))))

/-- Corrected reads of a rank in the present hour (08 R239). -/
def noteCorrected (c r : Nat) (s : State) : State :=
  let k := 4 * c + r
  let v := tget (0, 0#64) s.ctl.corrected k
  let n := if (now s - v.2).toNat < 3600000000000 ∧ v.1 ≠ 0 then (v.1 + 1, v.2) else (1, now s)
  countEv 0x25 c none 1 { s with ctl := { s.ctl with corrected := tset (0, 0#64) s.ctl.corrected k n } }

/-- A read of a unit of a physical rank by its bank controller or by a grain: a corrected read is counted, an uncorrectable
one fails the rank, which the failure's own command then finds (08 R239). -/
def noteRead (c r bank row col : Nat) (ws : List Nat) (s : State) : State :=
  let s1 := if ws.any (fun w => decide (chkOf s w = 1)) then noteCorrected c r s else s
  if ws.any (fun w => decide (chkOf s w = 2)) then
    let a := locDpa (amo s) (logicalLoc s { c := c, r := r, d := 0, bank := bank, row := row, col := col })
    { s1 with ctl := { s1.ctl with bad := tput s1.ctl.bad (4 * c + r) a } }
  else s1

/-- A write issued to a rank stands with those of the last 100 ns (08 R241). -/
def noteIssued (c r bank row col : Nat) (data : Wide) (mask : BitVec 128) (poison : Bool) (s : State) : State :=
  let b := bc s c
  let u : WUnit := { port := 3, rank := r, bank := bank, row := row, col := col, data := data, mask := mask, poison := poison,
                     since := now s }
  setBc c { b with recent := b.recent.filter (fun v => decide ((now s - v.since).toNat < 100)) ++ [u] } s

/-- Store a unit's bytes of the mask in the array, with fresh check bits and a poison. -/
def storeUnit (ws : List Nat) (data : Wide) (mask : BitVec 128) (poison : Bool) (s : State) : State :=
  (List.range 4).foldl
    (fun s' d =>
      let w := ws.getD d 0
      let new := (data.extractLsb' (256 * d) 256).toNat
      let mk := (mask.extractLsb' (32 * d) 32).toNat
      setColAt w (BitVec.ofNat 256 (mergeBytes 32 (Memory.col s.bank.mem w).toNat new mk)) poison s')
    s

/-- Write a unit: whole, or by read-modify-write, poisoned when the read part was bad (08 R229). The mask
has one bit for each of the 128 bytes; die d carries bytes 32d to 32d + 31. -/
def writeUnit (c r bank row col : Nat) (data : Wide) (mask : BitVec 128) (poison : Bool) (s : State) : State :=
  let ws := unitWords c r bank row col
  let whole := decide (mask = BitVec.allOnes 128)
  let s1 := noteIssued c r bank row col data mask poison (if whole then s else noteRead c r bank row col ws s)
  storeUnit ws data mask (poison || (!whole && unitBad s ws)) s1

/-- Whether a queued write names the unit of a location. -/
def wunitAt (u : WUnit) (l : Loc) : Bool :=
  decide (u.rank = l.r ∧ u.bank = l.bank ∧ u.row = l.row ∧ u.col = l.col)

/-- The queued writes of a location's unit, in the order they were latched. -/
def unitQueue (s : State) (l : Loc) : List WUnit := (bc s l.c).writes.filter (fun u => wunitAt u l)

/-- The data of a unit as its bank holds it. -/
def unitData (s : State) (ws : List Nat) : Wide :=
  BitVec.ofNat 1024 (leNat (ws.flatMap (fun w => leBytes 32 (Memory.col s.bank.mem w).toNat)))

/-- A unit as a read returns it, its queued writes over the bank's bytes (08 R228): the data, and whether it reports poison.
A queued write of part of a unit leaves it poisoned where it was bad (R229). -/
def unitView (s : State) (l : Loc) : Wide × Bool :=
  let ws := unitWords l.c l.r l.bank l.row l.col
  (unitQueue s l).foldl
    (fun v u => (BitVec.ofNat 1024 (mergeBytes 128 v.1.toNat u.data.toNat u.mask.toNat),
                 u.poison || (decide (u.mask ≠ BitVec.allOnes 128) && v.2)))
    (unitData s ws, unitBad s ws)

/-- A read of a unit needs no bank access: a queued write covers it whole (08 R228). -/
def unitQueued (s : State) (l : Loc) : Bool := (unitQueue s l).any (fun u => decide (u.mask = BitVec.allOnes 128))

/-- A later write of a unit over a queued one: its bytes replace the others, and the queue serves both at once. -/
def overWrite (data : Wide) (mask : BitVec 128) (poison : Bool) (u : WUnit) : WUnit :=
  { u with data := BitVec.ofNat 1024 (mergeBytes 128 u.data.toNat data.toNat mask.toNat), mask := u.mask ||| mask,
           poison := poison || (decide (mask ≠ BitVec.allOnes 128) && u.poison) }

/-- Write a unit that its bank takes: after the writes of the unit that are queued (08 R228), joined to the last of them. -/
def putUnit (l : Loc) (data : Wide) (mask : BitVec 128) (poison : Bool) (s : State) : State :=
  let b := bc s l.c
  match b.writes.reverse.findIdx? (fun u => wunitAt u l) with
  | none => writeUnit l.c l.r l.bank l.row l.col data mask poison s
  | some i => setBc l.c { b with writes := b.writes.modify (b.writes.length - 1 - i) (overWrite data mask poison) } s

/-- A column word as the bank controller reads it: queued writes of its unit count (08 R228). The flag is
whether the unit reports poison (08 R230). -/
def bankCol (s : State) (w : Nat) : ColData × Bool :=
  let l := wordLoc w
  if unitQueue s l = [] then (Memory.col s.bank.mem w, unitBad s (unitWords l.c l.r l.bank l.row l.col))
  else ((unitView s l).1.extractLsb' (256 * l.d) 256, (unitView s l).2)

/-- A write to one column word: its bytes, which of them, and its poison. -/
structure WordWrite where
  word : Nat
  data : ColData
  mask : BitVec 32
  poison : Bool
  deriving DecidableEq, Repr

/-- Whether two column words lie in one channel unit. -/
def sameUnit (v w : Nat) : Bool := decide ({ wordLoc v with d := 0 } = { wordLoc w with d := 0 })

/-- The write of one unit that some writes to its words make together. -/
def joined (xs : List WordWrite) : Wide × BitVec 128 × Bool :=
  (BitVec.ofNat 1024 (xs.foldl (fun n x => n + x.data.toNat * 2 ^ (256 * (wordLoc x.word).d)) 0),
   BitVec.ofNat 128 (xs.foldl (fun n x => n + x.mask.toNat * 2 ^ (32 * (wordLoc x.word).d)) 0), xs.any (fun x => x.poison))

/-- Write column words through their bank controllers, those of one unit in one write (08 R229). -/
def writeWords (xs : List WordWrite) (s : State) : State :=
  (List.range xs.length).foldl
    (fun s' i =>
      match xs[i]? with
      | none => s'
      | some x =>
        if (xs.take i).any (fun y => sameUnit y.word x.word) then s'
        else
          let v := joined (xs.filter (fun y => sameUnit y.word x.word))
          putUnit { wordLoc x.word with d := 0 } v.1 v.2.1 v.2.2 s')
    s

/-- The writes of a bank line's two column words. -/
def lineWrites (ws : List Nat) (d : Line) (mask : BitVec 64) (poison : Bool) : List WordWrite :=
  [{ word := ws.getD 0 0, data := d.extractLsb' 0 256, mask := mask.extractLsb' 0 32, poison := poison },
   { word := ws.getD 1 0, data := d.extractLsb' 256 256, mask := mask.extractLsb' 32 32, poison := poison }]

/-- DPAs of the units that report poison (08 R230), as the poison list gives them: units of ranks in service, a row that a
migration has copied by its place in the spare. -/
def poisonUnits (s : State) : List Nat :=
  (s.bank.marks.filter (fun p => p.2.poison && (let l := logicalLoc s (wordLoc p.1)
    decide (l.r < 2 ∧ locWord (physLoc s l) = p.1)))).map (fun p =>
    let l := logicalLoc s (wordLoc p.1)
    locDpa (amo s) { l with d := 0 })

/-! ### Copies in the Marl -/

/-- The key of a quadrant-space line in the table of lines. -/
def sramKey (q : Quad) (line : Nat) : Nat := q.val * 2 ^ 20 + line

def SramLine.zero : SramLine := { data := 0#512, poison := false }

def copyOf (s : State) (w : Nat) : Option Copy := tfind s.marl.copies w
def setCopy (w : Nat) (c : Copy) (s : State) : State :=
  { s with marl := { s.marl with copies := tput s.marl.copies w c } }
def dropCopy (w : Nat) (s : State) : State :=
  { s with marl := { s.marl with copies := terase s.marl.copies w } }

/-- The line of quadrant space that byte `off` of a region lies in: its quadrant and its line (02 R32, R34). -/
def regionLine (s : State) (key off : Nat) : Quad × Nat :=
  match tfind s.marl.regions key with
  | some r => (r.quad, (r.first * 65536 + off) / 64)
  | none => (0, 0)

/-- The 64 bytes of a region that hold byte `off`. -/
def readRegion (s : State) (key off : Nat) : SramLine :=
  let l := regionLine s key off
  tget SramLine.zero s.marl.sram (sramKey l.1 l.2)

/-- The address of a column word by the kind of name that a binding uses: bank-local, or DPA. -/
def wordAddr (s : State) (loc : Bool) (w : Nat) : Nat :=
  let l := logicalLoc s (wordLoc w)
  if loc then (locLocal l).1 * 2 ^ 28 + (locLocal l).2 else locDpa (amo s) l

/-- Whether a binding covers a column word, compared by physical location (02 R35). -/
def bindCovers (s : State) (b : Bind) (w : Nat) : Bool :=
  let line := wordAddr s b.loc w / 64
  decide (b.line ≤ line ∧ line < b.line + b.lines)

/-- The binding that covers a column word, and the byte of its region that holds the word (02 R42). -/
def bindingOf (s : State) (w : Nat) : Option (Bind × Nat) :=
  (s.marl.binds.find? (fun b => bindCovers s b w)).map (fun b => (b, b.off + (wordAddr s b.loc w - 64 * b.line)))

/-- The bound region that owns a column word (02 R42). -/
def boundRegion (s : State) (w : Nat) : Option Nat := (bindingOf s w).map (fun b => b.1.region)

/-- A column word of a bound region is dirty from now on, where it is not already; its data stand in the region. -/
def markBound (key w : Nat) (s : State) : State :=
  match copyOf s w with
  | some _ => s
  | none => setCopy w { region := some key, data := 0#256, mask := BitVec.allOnes 32, poison := false, since := now s } s

/-- A write of byte `off` of a region: the bank line bound there is dirty (02 R42, R45). -/
def touchBound (key off : Nat) (s : State) : State :=
  s.marl.binds.foldl
    (fun s' b =>
      if b.region = key ∧ b.off ≤ off ∧ off < b.off + 64 * b.lines then
        (lineWords s b.loc (b.line + (off - b.off) / 64)).foldl (fun t w => markBound key w t) s'
      else s')
    s

/-- Write the 64 bytes of a region that hold byte `off`. -/
def writeRegion (key off : Nat) (v : SramLine) (s : State) : State :=
  let l := regionLine s key off
  touchBound key off { s with marl := { s.marl with sram := tset SramLine.zero s.marl.sram (sramKey l.1 l.2) v } }

/-- The column word at byte `off` of a region. -/
def regionCol (s : State) (key off : Nat) : ColData × Bool :=
  let v := readRegion s key off
  (v.data.extractLsb' (8 * (off % 64)) 256, v.poison)

/-- Put a column word at byte `off` of a region. -/
def setRegionCol (key off : Nat) (d : ColData) (mask : BitVec 32) (poison : Bool) (s : State) : State :=
  let o := readRegion s key off
  let n := mergeBytes 64 o.data.toNat (d.toNat * 2 ^ (8 * (off % 64))) (mask.toNat * 2 ^ (off % 64))
  writeRegion key off { data := BitVec.ofNat 512 n, poison := poison } s

/-- A column word as a later read of the Marl returns it (02 R41, R43, R526): of a bound line from its region; else the copy's
valid bytes over the bank's, with its poison. -/
def marlCol (s : State) (w : Nat) : ColData × Bool :=
  match bindingOf s w with
  | some b => regionCol s b.1.region b.2
  | none =>
    match copyOf s w with
    | none => bankCol s w
    | some c =>
      if c.mask = BitVec.allOnes 32 then (c.data, c.poison)
      else
        let b := bankCol s w
        (BitVec.ofNat 256 (mergeBytes 32 b.1.toNat c.data.toNat c.mask.toNat), c.poison || b.2)

/-- A read of a column word needs its bank: no copy in the Marl holds it whole (02 R41, 08 R228). -/
def needsBank (s : State) (w : Nat) : Bool :=
  decide ((bindingOf s w).isNone) && (copyOf s w).all (fun c => decide (c.mask ≠ BitVec.allOnes 32))
    && !unitQueued s (wordLoc w)

/-- The 64 bytes of a bank line by its column words, and its poison. -/
def marlLine (s : State) (ws : List Nat) : Line × Bool :=
  let cs := ws.map (marlCol s)
  (BitVec.ofNat 512 (leNat (cs.flatMap (fun c => leBytes 32 c.1.toNat))), cs.any (fun c => c.2))

/-- Commit a write to one column word at its owner (02 R40, R42, R54): the bytes of the mask; a write of the
whole line gives the poison of the write, a partial write leaves the line poisoned. -/
def commitCol (w : Nat) (d : ColData) (mask : BitVec 32) (poison wholeLine : Bool) (s : State) : State :=
  if mask = 0#32 then s
  else
    match bindingOf s w with
    | some b =>
      let o := readRegion s b.1.region b.2
      setRegionCol b.1.region b.2 d mask (if wholeLine then poison else o.poison || poison) s
    | none =>
      match copyOf s w with
      | some c =>
        let data := BitVec.ofNat 256 (mergeBytes 32 c.data.toNat d.toNat mask.toNat)
        setCopy w { c with data := data, mask := c.mask ||| mask,
                           poison := if wholeLine then poison else c.poison || poison } s
      | none => setCopy w { region := none, data := d, mask := mask, poison := poison, since := now s } s

/-- Commit a write to a bank line of two column words. -/
def commitLine (ws : List Nat) (d : Line) (mask : BitVec 64) (poison : Bool) (s : State) : State :=
  let whole := decide (mask = BitVec.allOnes 64)
  let s1 := commitCol (ws.getD 0 0) (d.extractLsb' 0 256) (mask.extractLsb' 0 32) poison whole s
  commitCol (ws.getD 1 0) (d.extractLsb' 256 256) (mask.extractLsb' 32 32) poison whole s1

/-- What a dirty column word writes back: its latest committed bytes, their mask and poison (02 R45, R54, R526). -/
def dirtyCol (s : State) (w : Nat) (c : Copy) : ColData × BitVec 32 × Bool :=
  match bindingOf s w with
  | some b => ((regionCol s b.1.region b.2).1, BitVec.allOnes 32, (regionCol s b.1.region b.2).2)
  | none => (c.data, c.mask, c.poison)

/-- Write the dirty column words of a list back to their banks, those of one unit in one write, and drop their copies (02
R45, 08 R229, R230). A rank that is fenced takes no write (08 R243): its lines are gone (DEDUCED, log entry 93). -/
def writeBackWords (ws : List Nat) (s : State) : State :=
  let xs := ws.filterMap (fun w => (copyOf s w).map (fun c =>
    let v := dirtyCol s w c
    ({ word := w, data := v.1, mask := v.2.1, poison := v.2.2 } : WordWrite)))
  let live := xs.filter (fun x => let k := logicalLoc s (wordLoc x.word); !isFenced s k.c k.r)
  writeWords live (ws.foldl (fun s' w => dropCopy w s') s)

/-- Write back every copy of a list of column words. -/
def writeBackAll (ws : List Nat) (s : State) : State := writeBackWords (ws.dedup) s

/-- Every dirty column word. -/
def dirtyWords (s : State) : List Nat := s.marl.copies.map (fun p => p.1)

/-- Dirty column words of a logical rank. -/
def dirtyOfRank (s : State) (c r : Nat) : List Nat :=
  (dirtyWords s).filter (fun w =>
    let l := logicalLoc s (wordLoc w)
    decide (l.c = c ∧ l.r = r))

/-- Dirty pass-lane copies of a logical rank. -/
def passOfRank (s : State) (c r : Nat) : List (Nat × Copy) :=
  s.marl.copies.filter (fun p =>
    let l := logicalLoc s (wordLoc p.1)
    decide (l.c = c ∧ l.r = r) && decide (p.2.region = none))

/-- Bytes of a rank's dirty lines in the pass lane: 64 for each line, by its DPA (02 R46). -/
def passBytes (s : State) (c r : Nat) : Nat :=
  let lines := (passOfRank s c r).map (fun p => locDpa (amo s) (logicalLoc s (wordLoc p.1)) / 64)
  64 * lines.dedup.length

/-- A rank's dirty limit in bytes (02 R46). -/
def dirtyLimit (s : State) : Nat := s.hub.dirtyCap.toNat * 16384

/-- The triggers of 02 R46: more than 64 KiB, at the limit, or a line that has waited 10 µs. -/
def passTrigger (s : State) (c r : Nat) : Bool :=
  decide (65536 < passBytes s c r) || decide (dirtyLimit s ≤ passBytes s c r)
    || (passOfRank s c r).any (fun p => decide (10000 ≤ ((now s) - p.2.since).toNat))

/-! ### What some endings leave undefined (04 R120, 05 R159, 08 R241, 09 R276, 11 R316, 15 R410) -/

/-- The work of a descriptor has written a run of lines. -/
def noteSpan (p : Place) (x : Span) (s : State) : State :=
  match desc s p with
  | some d => if x ∈ d.prog.wrote then s else setDesc p { d with prog := { d.prog with wrote := x :: d.prog.wrote } } s
  | none => s

/-- The page that holds a column word (05 R131). -/
def pageSpan (s : State) (w : Nat) : Span :=
  let l := locLocal (logicalLoc s (wordLoc w))
  { loc := true, line := (l.1 * 2 ^ 28 + l.2) / 65536 * 1024, lines := 1024 }

def spanWords (s : State) (x : Span) : List Nat :=
  (List.range x.lines).flatMap (fun i => lineWords s x.loc (x.line + i))

/-- A queued write's bytes of one column word are undefined. -/
def scribbleQueued (l : Loc) (v : ColData) (u : WUnit) : WUnit :=
  if wunitAt u l then
    { u with data := BitVec.ofNat 1024 (mergeBytes 128 u.data.toNat (v.toNat * 2 ^ (256 * l.d)) ((2 ^ 32 - 1) * 2 ^ (32 * l.d))) }
  else u

/-- A column word's contents are undefined from now on: a free value, in the array, in the writes queued for it and in the
Marl's copy. Its poison and its check state stand (log entry 18). -/
def scribbleCol (n w : Nat) (s : State) : State :=
  let v := Config.undefinedCol n w
  let l := wordLoc w
  let b := bc s l.c
  let s1 := if b.writes.isEmpty then s else setBc l.c { b with writes := b.writes.map (scribbleQueued l v) } s
  let s2 := { s1 with bank := { s1.bank with mem := Memory.setCol s1.bank.mem w v } }
  match bindingOf s2 w, copyOf s2 w with
  | some b, _ => setRegionCol b.1.region b.2 v (BitVec.allOnes 32) (regionCol s2 b.1.region b.2).2 s2
  | none, some c => setCopy w { c with data := v } s2
  | none, none => s2

/-- The contents of some column words are undefined. -/
def scribble (ws : List Nat) (s : State) : State :=
  if ws.isEmpty then s else takeFree (ws.foldl (fun s' w => scribbleCol s.freeCtr w s') s)

/-- The lines of regions of quadrant space are undefined. -/
def scribbleRegions (keys : List Nat) (s : State) : State :=
  let lines := keys.flatMap (fun k => match tfind s.marl.regions k with
    | some r => (List.range (1024 * r.blocks)).map (fun i => sramKey r.quad (r.first * 1024 + i))
    | none => [])
  let put (t : Tab SramLine) (k : Nat) : Tab SramLine :=
    tset SramLine.zero t k { data := Config.undefinedLine s.freeCtr k, poison := (tget SramLine.zero t k).poison }
  if lines.isEmpty then s
  else takeFree { s with marl := { s.marl with sram := lines.foldl put s.marl.sram } }

/-- Whether a DPA lies in the Keep region (16 R426). -/
def inKeep (s : State) (a : Nat) : Bool := decide (a < keepBytes s)

/-- Whether a column word lies in the Keep region. -/
def wordInKeep (s : State) (w : Nat) : Bool := inKeep s (locDpa (amo s) (logicalLoc s (wordLoc w)))

end Sys2Proof.Machine
end

