-- ==== Sys2Proof/Machine/SeqOps.lean ====
section
/-! DEFINITION. The shared operations on contexts, flags, wires and engine queues: setting and clearing a
flag and judging the waits (12 R323, R326), stopping a context (09 R276, R277), returning it to FREE
(R253), arriving at a wire (12 R330), halting grains (05 R159). -/

namespace Sys2Proof.Machine

/-! ### Flags -/

/-- A flag by its space: local flags are numbered 48s + f (12 R319). -/
def getFlag (s : State) (sp : FlagSpace) (n : Nat) : Flag :=
  match sp with
  | .loc => localFlag s n
  | .shared => sharedFlag s n

def putFlag (sp : FlagSpace) (n : Nat) (x : Flag) (s : State) : State :=
  match sp with
  | .loc => { s with seq := { s.seq with localF := tset (Flag.cleared s.seq.clearedAt) s.seq.localF n x } }
  | .shared => { s with seq := { s.seq with sharedF := tset (Flag.cleared s.seq.clearedAt) s.seq.sharedF n x } }

/-- The word of 64 flags a flag lies in: shared words from 0, local words from 256 (12 R339). -/
def flagWord (sp : FlagSpace) (n : Nat) : Nat :=
  match sp with
  | .loc => 256 + n / 64
  | .shared => n / 64

def wordFaulted (s : State) (sp : FlagSpace) (n : Nat) : Bool := decide (flagWord sp n ∈ s.seq.faultedWords)

/-- A saturating 16-bit count (12 Table 12.2). -/
def sat16 (v : U16) : U16 := if v = 0xFFFF#16 then v else v + 1#16

/-- A context waits on this flag for `want`. -/
def waitsOn (s : State) (x : CtxNo) (sp : FlagSpace) (n : Nat) (want consume : Bool) : Bool :=
  match ctx s x.val with
  | some c => decide (c.st = .waitFlag) && decide (c.wait = .flagIs sp n want consume)
  | none => false

/-- The wait of a context has ended; it returns to RUN at its wake (09 R251). -/
def endWait (x : CtxNo) (s : State) : State :=
  match ctx s x.val with
  | some c => { setCtx x.val { c with wait := .nothing } s with
      seq := { (setCtx x.val { c with wait := .nothing } s).seq with
               waits := s.seq.waits.filter (fun y => decide (y ≠ x)) } }
  | none => s

/-- Judge the waits on one flag against its value (12 R323, R326): every waiter that wants the value held
goes on; of the consuming ones only the first latched, which clears the flag, and the clear may satisfy
waiters for 0. -/
def judgeWaits (sp : FlagSpace) (n : Nat) (s : State) : State :=
  let v := (getFlag s sp n).value
  let plain := s.seq.waits.filter (fun x => waitsOn s x sp n v false)
  let eater := if v then s.seq.waits.find? (fun x => waitsOn s x sp n true true) else none
  let s1 := plain.foldl (fun s' x => endWait x s') s
  match eater with
  | none => s1
  | some x =>
    let f := getFlag s1 sp n
    let s2 := putFlag sp n { f with value := false, clearMtb := now s, clears := sat16 f.clears } (endWait x s1)
    (s2.seq.waits.filter (fun y => waitsOn s2 y sp n false false)).foldl (fun s' y => endWait y s') s2

/-- Set a flag; `setter` as Table 12.2 counts last_setter (12 R323). -/
def setFlag (sp : FlagSpace) (n : Nat) (setter : Fin 8) (s : State) : State :=
  let f := getFlag s sp n
  judgeWaits sp n
    (putFlag sp n { f with value := true, setter := setter, setMtb := now s, sets := sat16 f.sets } s)

/-- Clear a flag by an operation (12 R323). -/
def clearFlag (sp : FlagSpace) (n : Nat) (s : State) : State :=
  let f := getFlag s sp n
  judgeWaits sp n (putFlag sp n { f with value := false, clearMtb := now s, clears := sat16 f.clears } s)

/-- A flag holds 0, with no waiters and counts of 0 (12 R334). -/
def wipeOne (sp : FlagSpace) (n : Nat) (s : State) : State :=
  let s1 := putFlag sp n (Flag.cleared (now s)) s
  { s1 with seq := { s1.seq with
      faultedWords := s1.seq.faultedWords.filter (fun w => decide (w ≠ flagWord sp n)),
      waits := s1.seq.waits.filter (fun x => !waitsOn s x sp n true false && !waitsOn s x sp n false false
        && !waitsOn s x sp n true true) } }

/-- Clear a flag by reset or commit (12 R334); a faulted word returns to service with all its flags 0 (R339). -/
def wipeFlag (sp : FlagSpace) (n : Nat) (s : State) : State :=
  let ns := if wordFaulted s sp n then (List.range 64).map (fun i => n / 64 * 64 + i) else [n]
  ns.foldl (fun s' k => wipeOne sp k s') s

def wipeFlags (sp : FlagSpace) (ns : List Nat) (s : State) : State := ns.foldl (fun s' n => wipeFlag sp n s') s

/-- The six local flags of a context: 6x to 6x + 5 of its sequencer (09 R252). -/
def ownFlags (x : Nat) : List Nat := (List.range 6).map (fun i => 48 * (x / 8) + 6 * (x % 8) + i)

/-! ### Wires -/

/-- P1 commands of a function queued or running on any channel that were pushed before number n (12 R330). -/
def p1Busy (s : State) (f : Func) (n : Nat) : Bool :=
  (List.range 16).any (fun c => (bc s c).p1.any (fun k => decide (k.func = f ∧ k.num < n)))

/-- How many P1 commands have been pushed, the number of the next. -/
def p1Count (s : State) : Nat := tget 0 s.seq.pushNo 26

/-- Latch a P1 command into the queue of BCc: it takes its number, and the dirty lines it waits for are those of
its rank at this moment (02 R47). -/
def queueP1 (c : Nat) (k : P1) (s : State) : State :=
  let b := bc s c
  let s1 := setBc c { b with p1 := b.p1 ++ [{ k with dirty := dirtyOfRank s c k.rank, since := now s, num := p1Count s }] } s
  { s1 with seq := { s1.seq with pushNo := tset 0 s1.seq.pushNo 26 (p1Count s + 1) } }

/-- Commands in the queue of a bank controller (01 Table 1.1: 64 at most): those of contexts that push them, and the grain
commands that HOST and the hub's own contexts send. -/
def bcLoad (s : State) (c : Nat) : Nat :=
  (queue s (10 + c)).length + ((bc s c).p1.filter (fun k => match k.ctx with
    | none => true
    | some x => (ctx s x.val).all (fun v => v.image.isNone))).length

/-- Release a wire: its waiters wake, the generation increments, the count returns to 0 (12 R330). -/
def releaseWire (w : Fin 8) (s : State) : State :=
  let x := wire s w.val
  let s1 := setWire w.val { x with gen := x.gen + 1, count := 0, due := none } s
  (s.seq.waits.filter (fun y => match ctx s y.val with
    | some c => decide (c.st = .waitFlag ∧ c.wait = .wire w x.gen)
    | none => false)).foldl (fun s' y => endWait y s') s1

/-- Count one arrival; a hub-only wire releases at N, a module-wide one once every bank controller asserts
its input as well (12 R330). -/
def arriveWire (w : Fin 8) (s : State) : State :=
  let x := wire s w.val
  let s1 := setWire w.val { x with count := x.count + 1 } s
  if x.count + 1 < x.n then s1
  else if x.moduleWide ∧ (x.func.map (fun f => p1Busy s f (p1Count s))) = some true then
    setWire w.val { x with count := x.count + 1, due := some (x.due.getD (p1Count s)) } s
  else releaseWire w s1

/-! ### Grains -/

/-- Both banks of a grain are precharged. -/
def closeRows (g : Nat) (s : State) : State :=
  let k := grainCoord g
  let i := dieNo k.1 k.2.1 k.2.2.1
  let d := die s i
  setDie i { d with openRows := terase (terase d.openRows (2 * k.2.2.2)) (2 * k.2.2.2 + 1) } s

/-- A grain stops: its state, its fault, its stamp, its clocks; the die's status bits (05 Table 5.4, 07 R194, R208). Its loop
levels stand (06 R182). -/
def stopGrain (g : Nat) (st : GState) (fault : Nat) (pc : Nat) (s : State) : State :=
  let x := grain s g
  let k := grainCoord g
  let i := dieNo k.1 k.2.1 k.2.2.1
  let y := { x with state := st, fault := BitVec.ofNat 8 fault, faultPc := BitVec.ofNat 11 pc,
                    runClocks := if x.unclocked then Config.runClocks s.freeCtr else x.runClocks,
                    craMtb := now s, insn := none, accReady := [] }
  let d := die s i
  let d1 := { d with changed := d.changed ||| (1#16 <<< k.2.2.2),
                     cause := if st = .faulted then d.cause ||| 0x10#8 else d.cause }
  let s1 := setDie i d1 (setGrain g y s)
  if x.unclocked then takeFree s1 else s1

/-- HALTG at one grain: a running grain stops in state 3 with its banks precharged; any other is unaffected (05 R159,
07 Table 7.3, R203). -/
def haltGrain (g : Nat) (s : State) : State :=
  if (grain s g).state = .running then
    closeRows g (stopGrain g .stopped 0 0 (setGrain g { (grain s g) with unclocked := true } s))
  else s

/-- The grains of a P1 command (05 R137, 07 R191): for each its mapped index and the grain that does the work: those that it
started, or before that those of its selection that are not mapped out. -/
def p1Pairs (s : State) (c : Nat) (k : P1) : List (Nat × Nat) :=
  if k.started ≠ [] then k.started else
  let l := physRank s c k.rank
  (((List.range 64).filter (fun i => k.sel.dies.getLsbD (i / 16) && k.sel.grains.getLsbD (i % 16))).map
      (fun i => (c * 128 + k.rank * 64 + i, grainAt l.1 l.2 (i / 16) (i % 16)))).filter
    (fun g => decide (g.2 ∉ s.bank.mappedOut))

def p1Grains (s : State) (c : Nat) (k : P1) : List Nat := (p1Pairs s c k).map (fun g => g.2)

/-! ### Contexts -/

/-- Commands of a context that are still in an engine queue. -/
def ctxCmds (s : State) (x : CtxNo) : Nat :=
  (s.seq.queues.flatMap (fun q => q.2.filter (fun k => decide (k.ctx = some x)))).length

/-- P1 commands of a context that have not reported. -/
def ctxP1 (s : State) (x : CtxNo) : Nat :=
  (s.ctl.bcs.flatMap (fun b => b.2.p1.filter (fun k => decide (k.ctx = some x)))).length

/-- Commands outstanding, remote sets without their reply among them (09 Table 9.1). -/
def outstanding (s : State) (x : CtxNo) : Nat :=
  ctxCmds s x + ctxP1 s x + ((ctx s x.val).map (fun c => c.sets)).getD 0

/-- Mark a descriptor ended once nothing of its context is outstanding. -/
def settleCtx (x : CtxNo) (s : State) : State :=
  match ctx s x.val with
  | some c =>
    if c.st = .drain ∧ outstanding s x = 0 then
      match desc s c.place with
      | some d => setDesc c.place { d with stage := if d.stage = .built then .built else .ended } s
      | none => s
    else s
  | none => s

/-- Remove a context's commands that their engines have not started (09 R276). -/
def dropUnstarted (x : CtxNo) (s : State) : State :=
  { s with
    seq := { s.seq with queues := (s.seq.queues.map (fun q =>
      (q.1, q.2.filter (fun k => !(decide (k.ctx = some x) && !k.started))))).filter (fun q => decide (q.2 ≠ [])) },
    ctl := { s.ctl with bcs := s.ctl.bcs.map (fun b =>
      (b.1, { b.2 with p1 := b.2.p1.filter (fun k => !(decide (k.ctx = some x) && !k.issued)) })) } }

/-- Halt the grains of a context's started grain runs (09 R276, 05 R159). -/
def haltRuns (x : CtxNo) (s : State) : State :=
  (List.range 16).foldl
    (fun s' c => ((bc s c).p1.filter (fun k => decide (k.ctx = some x) && k.issued)).foldl
      (fun s'' k => (p1Grains s c k).foldl (fun t g => haltGrain g t) s'') s')
    s

/-- Stop a context as a cancel does (09 R276): it issues nothing more, its unstarted commands are removed,
its started grain runs are halted, its other started commands run to their ends. -/
def stopCtx (x : CtxNo) (s : State) : State :=
  match ctx s x.val with
  | none => s
  | some c =>
    let s1 := haltRuns x s
    let s2 := dropUnstarted x s1
    let s3 := setCtx x.val { c with st := .drain, wait := .nothing, since := now s, sets := 0 } s2
    let s4 := { s3 with seq := { s3.seq with waits := s3.seq.waits.filter (fun y => decide (y ≠ x)) } }
    settleCtx x s4

/-- Add a status to a descriptor. -/
def addCond (p : Place) (st : Status) (s : State) : State :=
  match desc s p with
  | some d => setDesc p { d with conds := addStatus st d.conds } s
  | none => s

/-- A context faults with a SEQ_FAULT code (09 R277): it stops at the operation, which has no effect. -/
def faultCtx (x : CtxNo) (code : Nat) (s : State) : State :=
  match ctx s x.val with
  | none => s
  | some c =>
    let s1 := addCond c.place .seqFault s
    let s2 := setCtx x.val { c with seqFault := some (BitVec.ofNat 8 code) } s1
    let hsn := match desc s c.place with
      | some d => d.hsn.toNat
      | none => 0
    stopCtx x (logFn 0x03 0x2E (locOf 6 x.val) c.func code hsn s2)

/-! ### Regions (02 R34 to R39, R50) -/

/-- Blocks of a quadrant that stand before the general pool, at a partition's staging sizes (02 Table 2.3). -/
def poolStart (p : MarlPart) (q : Nat) : Nat :=
  32 + 4 * p.bc.toNat + (if q < 2 then 2 else 1) * p.lk.toNat + (if q = 3 then 32 else 0)

/-- The block of quadrant space that holds a slice's row (02 R32, R34). -/
def rowBlock (slice row : Nat) : Nat := (row * 15 + slice % 16) / 256

/-- A block is out of use because it holds a retired row (02 R55). -/
def blockRetired (s : State) (q b : Nat) : Bool :=
  s.marl.retired.any (fun p => decide (p.1 / 16 = q ∧ p.1 % 16 < 15 ∧ rowBlock p.1 p.2 = b))

/-- Blocks of a run that are out of use: their partition is smaller by as many (02 R55). In a quadrant the ring shadow's 32
blocks stand first, then its bank controllers' shares by channel, its ports' by number, Silt staging and the pool (log
entry 96). -/
def retiredIn (s : State) (q first n : Nat) : Nat := ((List.range n).filter (fun i => blockRetired s q (first + i))).length

/-- Blocks of BC staging of a channel, and of link staging of a port, that are in use (02 Table 2.3, R55). -/
def bcStageBlocks (s : State) (c : Nat) : Nat :=
  let p := s.hub.marlPart.inForce
  p.bc.toNat - retiredIn s (c / 4) (32 + c % 4 * p.bc.toNat) p.bc.toNat
def lkStageBlocks (s : State) (p : Nat) : Nat :=
  let m := s.hub.marlPart.inForce
  m.lk.toNat - retiredIn s (p % 4) (32 + 4 * m.bc.toNat + p / 4 * m.lk.toNat) m.lk.toNat

/-- Bytes of a quadrant's ring shadow for batch and output tables: its blocks, less the 256 descriptor places (02 Tables 2.2,
2.3; log entry 96). -/
def tableSpace (s : State) (q : Nat) : Nat := (32 - retiredIn s q 0 32) * 65536 - 16384

/-- Ports whose link staging holds data: each such staging region has an entry of the region table (02 R34, R35). -/
def portStaging (s : State) : Nat :=
  (s.lnk.ports.filter (fun p => decide (p.2.staged ≠ [] ∨ p.2.restaged ≠ [] ∨ p.2.queue ≠ []))).length

/-- No staging or scoreboarded region exists (02 R37). -/
def noRegions (s : State) : Bool := decide (s.marl.regions = [] ∧ portStaging s = 0)

/-- An entry of the region table is free for a table that holds these regions (02 R34). -/
def entryFree (s : State) (rs : Tab Region) : Bool := decide (rs.length + portStaging s < 1024)

def blockTaken (rs : Tab Region) (q b : Nat) : Bool :=
  rs.any (fun p => decide (p.2.quad.val = q ∧ p.2.first ≤ b ∧ b < p.2.first + p.2.blocks))

/-- The lowest run of n free pool blocks of a quadrant (02 R39). -/
def freeRun (s : State) (rs : Tab Region) (q n : Nat) : Option Nat :=
  let lo := poolStart s.hub.marlPart.inForce q
  (List.range (720 - lo)).map (fun i => lo + i) |>.find? (fun b =>
    decide (b + n ≤ 720) && (List.range n).all (fun i => !blockTaken rs q (b + i) && !blockRetired s q (b + i)))

/-- The lowest number not used as a region's key. -/
def freeKey {β : Type} (t : Tab β) : Option Nat := (List.range 1024).find? (fun k => decide (tfind t k = none))

/-- Place one region in its preferred quadrant if that has room, else in the lowest that has (02 R39). -/
def placeRegion (s : State) (rs : Tab Region) (k : RegionKind) (x : Option CtxNo) (p : Option Place)
    (f : Func) (blocks : Nat) (pref : Option (Fin 4)) : Option (Tab Region × Nat) :=
  let order := (match pref with
    | some q => [q]
    | none => []) ++ [(0 : Fin 4), 1, 2, 3]
  match order.find? (fun q => (freeRun s rs q.val blocks).isSome), (if entryFree s rs then freeKey rs else none) with
  | some q, some key =>
    match freeRun s rs q.val blocks with
    | some b =>
      some (tput rs key { kind := k, ctx := x, place := p, func := f, quad := q, first := b,
                          blocks := blocks, releasing := false }, key)
    | none => none
  | _, _ => none

/-- Place a footprint whole or not at all (02 R39): regions as (region number, blocks, quadrant). -/
def placeAll (s : State) (rs : Tab Region) (x : Option CtxNo) (p : Option Place) (f : Func)
    (fp : List (Nat × Nat × Option (Fin 4))) : Option (Tab Region × List (Nat × Nat)) :=
  match fp with
  | [] => some (rs, [])
  | (i, blocks, pref) :: rest =>
    match placeRegion s rs .scoreboarded x p f blocks pref with
    | none => none
    | some (rs1, key) =>
      match placeAll s rs1 x p f rest with
      | none => none
      | some (rs2, keys) => some (rs2, (i, key) :: keys)

/-- Blocks a function holds against its quota: of its footprints and of its hub-handled descriptors (02 R38). -/
def blocksHeld (s : State) (f : Func) : Nat :=
  (s.marl.regions.filter (fun p => decide (p.2.func = f) && (decide (p.2.kind = .scoreboarded) || p.2.place.isSome))).foldl
    (fun n p => n + p.2.blocks) 0

/-- Scoreboard entries in use, one per region (02 R34). -/
def scoreboardUsed (s : State) : Nat :=
  (s.marl.regions.filter (fun p => decide (p.2.kind = .scoreboarded))).length

/-- Dirty column words of a region. -/
def dirtyOfRegion (s : State) (id : Nat) : List Nat :=
  (s.marl.copies.filter (fun p => decide (p.2.region = some id))).map (fun p => p.1)

/-- A region that is going away: at once where it has no dirty bound line, else once they have been
written back (02 R50). -/
def releaseRegion (id : Nat) (s : State) : State :=
  if dirtyOfRegion s id = [] then
    { s with marl := { s.marl with regions := terase s.marl.regions id,
                                   binds := s.marl.binds.filter (fun b => decide (b.region ≠ id)) } }
  else
    match tfind s.marl.regions id with
    | some r => { s with marl := { s.marl with regions := tput s.marl.regions id { r with releasing := true } } }
    | none => s

/-- Free wires all of whose holders have gone (12 R329). -/
def leaveWires (x : CtxNo) (s : State) : State :=
  (List.range 8).foldl
    (fun s' w =>
      let y := wire s' w
      if x ∈ y.joined then
        let j := y.joined.filter (fun z => decide (z ≠ x))
        setWire w (if j = [] then Wire.reset else { y with joined := j }) s'
      else s')
    s

/-- An engine resource is cleared as its claim is released (10 R287): banks 0 to 3, tile registers 6 to 9, mask tiles
10 to 13. -/
def clearRes (n res : Nat) (s : State) : State :=
  let m := mx s n
  let out (lo k : Nat) : Bool := !decide (lo * 16384 ≤ k ∧ k < (lo + 1) * 16384)
  let t := m.taint.filter (fun r => decide (r ≠ res))
  if res < 4 then setMx n { m with acc := m.acc.filter (fun e => out res e.1), taint := t } s
  else if res < 10 then setMx n { m with tiles := m.tiles.filter (fun e => out (res - 6) e.1), taint := t } s
  else setMx n { m with masks := m.masks.filter (fun e => out (res - 10) e.1), taint := t } s

/-- A context returns to FREE: its regions are released, its state, its local flags and its claims are
cleared (09 R253, 10 R287, 12 R329). -/
def freeCtx (x : CtxNo) (s : State) : State :=
  match ctx s x.val with
  | none => s
  | some c =>
    let s1 := c.regions.foldl (fun s' r => releaseRegion r.2 s') s
    let s0 := (s1.seq.claims.filter (fun k => decide (k.ctx = x))).foldl (fun s' k => clearRes k.mx k.res s') s1
    let s2 := wipeFlags .loc (ownFlags x.val) (leaveWires x (eraseCtx x.val s0))
    { s2 with seq := { s2.seq with claims := s2.seq.claims.filter (fun k => decide (k.ctx ≠ x)),
                                   waits := s2.seq.waits.filter (fun y => decide (y ≠ x)) } }

end Sys2Proof.Machine
end

