-- ==== Sys2Proof/Machine/DescOps.lean ====
section
/-! DEFINITION. The shared operations on descriptors: when one may start (04 R101, R108), ending one,
cancelling one at its commit point (14 R378), the record built at its completion (04 R109 to R111, R118),
and a function's descriptors in flight (04 R115). -/

namespace Sys2Proof.Machine

/-- A descriptor in flight: accepted, with no done record built (04 R100, R115). -/
def inFlight (d : Desc) : Bool :=
  match d.stage with
  | .fetching => false
  | .landed => false
  | .built => false
  | _ => true

/-- The descriptors of a function in flight, with their places. -/
def flying (s : State) (f : Func) : List (Nat × Desc) :=
  s.places.filter (fun p => decide (p.2.func = f) && inFlight p.2)

/-- The number of a function's descriptors that its quota counts: a RESYNC is none (04 R115). -/
def quotaCount (s : State) (f : Func) : Nat :=
  ((flying s f).filter (fun p => decide (opcodeOf p.2.words ≠ 0x03))).length

/-- Whether an accepted descriptor may start: `after` waits for every earlier one of its ring to have its
record built (04 Table 4.4); an earlier FENCE of its ring holds it (R108). -/
def mayStart (s : State) (d : Desc) : Bool :=
  let older := (flying s d.func).filter (fun p => decide (p.2.acc < d.acc))
  (!afterOf d.words || older.isEmpty) && !(older.any (fun p => decide (opcodeOf p.2.words = 0x02)))

/-- The descriptor a place holds with this opcode, accepted and free to start. -/
def startable (s : State) (p : Place) (op : Nat) : Option Desc :=
  match desc s p with
  | some d => if d.stage = .accepted ∧ opcodeOf d.words = op ∧ mayStart s d = true then some d else none
  | none => none

/-- The descriptor a place holds with this opcode, running on a context. -/
def runningOn (s : State) (p : Place) (op : Nat) : Option (Desc × CtxNo) :=
  match desc s p with
  | some d =>
    match d.ctx with
    | some x => if d.stage = .running ∧ opcodeOf d.words = op then some (d, x) else none
    | none => none
  | none => none

/-- End a descriptor with a status (DONE adds none) and a detail word. -/
def endDesc (p : Place) (st : Status) (detail : Nat) (s : State) : State :=
  match desc s p with
  | some d => setDesc p { d with stage := .ended, conds := addStatus st d.conds,
                                 detail := BitVec.ofNat 64 detail } s
  | none => s

/-- The detail word of a descriptor that has not ended. -/
def noteDetail (p : Place) (detail : Nat) (s : State) : State :=
  match desc s p with
  | some d => setDesc p { d with detail := BitVec.ofNat 64 detail } s
  | none => s

def Progress.none : Progress :=
  { ranks := [], run := 0, skipped := 0, faulted := 0, firstFault := Option.none, count := 0, ports := 0,
    words := [], pages := [], fenceBefore := 0, wrote := [] }

/-- Release the regions a hub-handled descriptor holds (02 R38). -/
def releasePlace (p : Place) (s : State) : State :=
  (s.marl.regions.filter (fun r => decide (r.2.place = some p))).foldl (fun s' r => releaseRegion r.1 s') s

/-- Remove the grain commands of a hub-handled descriptor that have not gone out; the ranks whose commands have gone out
are those that still report. -/
def dropP1 (p : Place) (s : State) : State :=
  let out (k : Nat) : Bool := (bc s (k / 4)).p1.any (fun y => decide (y.place = some p ∧ y.rank = k % 4) && y.issued)
  let s1 := match desc s p with
    | some d => setDesc p { d with prog := { d.prog with ranks := d.prog.ranks.filter out } } s
    | none => s
  { s1 with ctl := { s1.ctl with bcs := s1.ctl.bcs.map (fun b =>
      (b.1, { b.2 with p1 := b.2.p1.filter (fun k => !(decide (k.place = some p) && !k.issued)) })) } }

/-- An island works for a descriptor: it is marked clipped where a loop holds the island back (16 R424). -/
def clipDesc (p : Place) (yes : Bool) (s : State) : State :=
  match desc s p with
  | some d => if yes && !d.clipped then setDesc p { d with clipped := true } s else s
  | none => s

/-- An island's clip flag: a loop holds its clock down (16 R424). -/
def islClip (s : State) (isl : Nat) : Bool :=
  (tfind s.pwr.clk isl).isSome || decide ((now s).toNat < (tget 0#64 s.pwr.clip isl).toNat)

/-- Take a COPY out of the layout queues and out of the engine (11 R316). -/
def dropCopyCmd (p : Place) (s : State) : State :=
  { s with
    seq := { s.seq with queues := (s.seq.queues.map (fun q =>
      (q.1, q.2.filter (fun k => !(decide (k.ctx = none) && decide (k.place = p)))))).filter (fun q => decide (q.2 ≠ [])) },
    eng := { s.eng with lys := s.eng.lys.filter (fun j => decide (j.2.place ≠ p)) } }

/-! ### Cancelling (14 R377 to R379, 09 R276) -/

/-- What a cancel did to its target. -/
inductive CancelResult where
  | cancelled | late | miss
  deriving DecidableEq, Repr

/-- Cancel one row of a STEP in flight: before its commit its cancel bit is set, after it the row reports
CANCEL_LATE in place of the status it delivered with (14 R379, 00 R524). -/
def cancelRow (p : Place) (row : Nat) (s : State) : State × CancelResult :=
  match desc s p, tfind s.serve.steps p.val with
  | some d, none =>
    if opcodeOf d.words = 0x11 ∧ row < bits (wordAt d.words 2) 0 11 ∧ d.stage ≠ .ended then
      (setDesc p { d with cancelRows := row :: d.cancelRows } s, .cancelled)
    else (bump 1 s, .miss)
  | some _, some r =>
    match r.rows[row]? with
    | none => (bump 1 s, .miss)
    | some x =>
      let late := x.committed
      let y := { x with cancel := !late || x.cancel,
                        conds := if late then addStatus .cancelLate (x.conds.filter (fun c => decide (c ≠ .doneClipped))) else x.conds }
      let r1 := { r with rows := r.rows.set row y }
      ({ s with serve := { s.serve with steps := tput s.serve.steps p.val r1 } },
       if late then .late else .cancelled)
  | none, _ => (bump 1 s, .miss)

/-- Cancel every uncommitted row of a STEP; whether any was left. -/
def cancelRows (p : Place) (s : State) : State × Bool :=
  match tfind s.serve.steps p.val with
  | none => (s, true)
  | some r =>
    let live := r.rows.any (fun x => x.admitted && !x.committed)
    let rows := r.rows.map (fun x => if x.admitted && !x.committed then { x with cancel := true } else x)
    ({ s with serve := { s.serve with steps := tput s.serve.steps p.val { r with rows := rows } } }, live)

/-- Cancel a whole descriptor in flight, by its commit point (14 Table 14.3). One with an undefined opcode keeps
BAD_OPCODE alone (04 R114). -/
def cancelDesc (p : Place) (s : State) : State × CancelResult :=
  match desc s p with
  | none => (bump 1 s, .miss)
  | some d =>
    let op := opcodeOf d.words
    let late (t : State) : State × CancelResult := (addCond p .cancelLate t, .late)
    let now_ (t : State) : State × CancelResult := (endDesc p .cancelled 0 t, .cancelled)
    if op = 0x03 then (s, .miss)
    else if !knownOpcode op then (s, .late)
    else
      match d.stage with
      | .accepted => now_ s
      | .ctxWait => now_ (if op = 0x11 then (cancelRows p s).1 else s)
      | .running =>
        match d.ctx with
        | some x =>
          if op = 0x11 then
            let r := cancelRows p s
            if r.2 then (stopCtx x (addCond p .cancelled r.1), .cancelled) else late s
          else (stopCtx x (addCond p .cancelled s), .cancelled)
        | none =>
          if op = 0x02 then now_ s
          else if op = 0x40 ∨ op = 0x20 then (if d.committed then late s else now_ (releasePlace p (dropCopyCmd p s)))
          else late s
      | .ended => if onContext op ∧ op ≠ 0x11 then (addCond p .cancelled s, .cancelled) else late s
      | _ => (bump 1 s, .miss)

/-- Of two places' descriptors the one accepted first. -/
def olderOf (a : Option (Nat × Desc)) (q : Nat × Desc) : Option (Nat × Desc) :=
  match a with
  | none => some q
  | some b => if q.2.acc < b.2.acc then some q else some b

/-- The place of the descriptor in flight on a ring with this HSN; of several with the same HSN, the one accepted first
(DESIGN CHOICE, log entry 89). -/
def findHsn (s : State) (f : Func) (hsn : U32) : Option Place :=
  match (s.places.filter (fun p => decide (p.2.func = f) && inFlight p.2 && decide (p.2.hsn = hsn))).foldl olderOf none with
  | some q => if h : q.1 < 1024 then some ⟨q.1, h⟩ else none
  | none => none

/-! ### The done record (04 R109 to R111, R118) -/

/-- The detail word: by status first, then by opcode (04 Table 4.8). -/
def detailOf (s : State) (d : Desc) : U64 :=
  let st := chosen d.conds
  let op := opcodeOf d.words
  match st with
  | .rsvNonzero => d.detail
  | .badTenant => d.detail
  | .preempted => d.detail
  | .orphaned => 0#64
  | .grainFault =>
    let ff := d.prog.firstFault.getD (0, 0)
    BitVec.ofNat 64 (ff.1 % 2048 + ff.2 % 256 * 2 ^ 16 + satNat 16 d.prog.faulted * 2 ^ 32)
  | .seqFault =>
    match d.ctx with
    | some x =>
      let code := ((ctx s x.val).bind (fun c => c.seqFault)).getD 0#8
      BitVec.ofNat 64 (code.toNat + (x.val / 8) * 2 ^ 8 + (x.val % 8) * 2 ^ 11)
    | none => d.detail
  | _ =>
    if op = 0x21 ∨ op = 0x22 ∨ op = 0x23 then
      BitVec.ofNat 64 (satNat 12 d.prog.run + satNat 12 d.prog.skipped * 2 ^ 16)
    else d.detail

/-- A STEP any of whose rows has another status than its own sets multi (13 R364). -/
def stepDiffers (s : State) (p : Place) (st : Status) : Bool :=
  (tfind s.serve.steps p.val).any (fun t => t.rows.any (fun r => decide (chosen r.conds ≠ st)))

/-- Build the done record of an ended descriptor with the ring's next DSN (04 R109, R118); log every status
that applied where it is not DONE, and count the ending (00 R524, 19 Table 19.2). -/
def buildRecord (p : Place) (d : Desc) (s : State) : State :=
  let r := ring s d.func
  let st := chosen d.conds
  let dsn := r.lastBuilt + 1#32
  let w0 := statusCode st + opcodeOf d.words * 2 ^ 8 + (if multiOf d.conds || stepDiffers s p st then 2 ^ 17 else 0) + dsn.toNat * 2 ^ 32
  let rec_ : DoneRec :=
    { w0 := BitVec.ofNat 64 w0, w1 := BitVec.ofNat 64 (d.hsn.toNat + d.epoch.toNat * 2 ^ 32), w2 := now s,
      w3 := detailOf s d, quiet := quietOf d.words, place := p }
  let s1 := setRing d.func { r with lastBuilt := dsn, built := r.built ++ [rec_] } s
  let s2 := setDesc p { d with stage := .built } s1
  let s3 := countEnding d.func st s2
  if st = .done then s3
  else logFn 0x05 (statusCode st) (locOf 5 d.func.val) d.func (statusBytes d.conds)
         (d.hsn.toNat + 0x7FF * 2 ^ 32) s3

/-! ### Pages -/

/-- The two runs of 1,024 column words of a page: its 16 rows in each of its grain's banks (05 R131). -/
def pageRuns (s : State) (pg : Nat) : List Nat :=
  let a := pg % 4096 * 2 ^ 16
  [locWord (physLoc s (localLoc (pg / 4096) a)), locWord (physLoc s (localLoc (pg / 4096) (a + 32)))]

/-- Write a page with zero column words and clean check bits (14 R375); copies of its lines are gone first. -/
def clearPage (pg : Nat) (s : State) : State :=
  let runs := pageRuns s pg
  let inW (w : Nat) : Bool := runs.any (fun r => decide (r ≤ w ∧ w < r + 1024))
  { s with
    bank := { s.bank with mem := s.bank.mem.filter (fun p => !inW (p.1 / 32)),
                          marks := s.bank.marks.filter (fun p => !inW p.1) },
    marl := { s.marl with copies := s.marl.copies.filter (fun p => !inW p.1) } }

/-! ### Rings -/

def workSlots (r : Ring) : Nat := 2 ^ (6 + r.wsize.toNat)
def doneSlots (r : Ring) : Nat := 2 ^ (6 + r.dsize.toNat)

/-- The landed descriptor at a ring's fetch head. -/
def headDesc (s : State) (f : Func) : Option (Place × Desc) :=
  let r := ring s f
  match s.places.find? (fun p => decide (p.2.func = f ∧ p.2.stage = .landed ∧ p.2.slot = r.fetchHead)) with
  | some q => if h : q.1 < 1024 then some (⟨q.1, h⟩, q.2) else none
  | none => none

/-- Discard the descriptors of a ring that have not been accepted, from slot offset `k` past the head on, and
free their places (04 R95). -/
def dropFetched (f : Func) (k : Nat) (s : State) : State :=
  let r := ring s f
  let n := workSlots r
  let gone (d : Desc) : Bool := decide (d.func = f) && (decide (d.stage = .fetching) || decide (d.stage = .landed))
    && decide (k ≤ (d.slot + n - r.fetchHead) % n)
  let s1 := { s with places := s.places.filter (fun p => !gone p.2) }
  setRing f { r with fetches := r.fetches.filter (fun x => decide ((x.slot + n - r.fetchHead) % n < k)) } s1

/-- Disable a ring: nothing more is fetched; what is not accepted is discarded (04 R95). -/
def disableRing (f : Func) (s : State) : State :=
  let s1 := dropFetched f 0 s
  setRing f { (ring s1 f) with enable := false, baseWritten := false } s1

/-- need_resync becomes 1, which signals vector 1 (04 R111, R122). -/
def needResync (f : Func) (s : State) : State :=
  let r := ring s f
  if r.needResync then s else msix f 1 (setRing f { r with needResync := true } s)

end Sys2Proof.Machine
end

