-- ==== Sys2Proof/Machine/Rings.lean ====
section
/-! DEFINITION. Doorbells, ring registers, descriptor fetch, acceptance, completion and done records (04,
03 R65, R66). -/

namespace Sys2Proof.Machine

/-- The next state of a command that always completes. -/
def ok (s : State) : Host.Outcome State Fault Refusal := .next s

/-- HOST answers: its island has been released (01 R29). -/
def hostUp (s : State) : Bool := s.boot.relHost

/-- A write of half or all of a 64-bit register (03 R65, 20 R497). -/
def mergeHalf (h : Half) (old v : U64) : U64 :=
  match h with
  | .whole => v
  | .low => old.extractLsb' 32 32 ++ v.extractLsb' 0 32
  | .high => v.extractLsb' 0 32 ++ old.extractLsb' 0 32

/-- A write through a page of BAR2 that is not the PF's own (03 R66). -/
def foreignPage (pfPage : Bool) (f : Func) : Bool := pfPage && decide (f.val ≠ 0)

/-- The epoch field of a doorbell matches, compared in n bits (04 R98, R121). -/
def epochOk (r : Ring) (n e : Nat) : Bool :=
  decide (r.epoch.toNat % 2 ^ n = e) || decide (r.replaced.map (fun x => x.toNat % 2 ^ n) = some e)

/-- WORK_DOORBELL (04 R98, R99, R121). One that the same boundary latches as the PF's disable of its ring has its tail
recorded; one that meets an FLR is dropped (03 Table 3.10). -/
def execWorkDoorbell (pfPage : Bool) (f : Func) (v : U64) (s : State) : Host.Outcome State Fault Refusal :=
  let r := ring s f
  let t := bits v.toNat 0 16
  let dh := bits v.toNat 16 16
  let e := bits v.toNat 32 32
  let me := ownOrder (.ring f) .doorbell f 0#32
  if !hostUp s then ok s
  else if foreignPage pfPage f then ok (bump 0 s)
  else
    match rival s (.ring f) [.flr] with
    | some a => ok (bump 0 (logCollision a me true s))
    | none =>
      if (!r.enable && (rival s (.ring f) [.disable]).isNone) || !epochOk r 32 e
          || decide (workSlots r ≤ t ∨ doneSlots r ≤ dh) then ok (bump 0 s)
      else
        let n := workSlots r
        let behind := decide ((t + n - r.fetchHead) % n < (r.tail + n - r.fetchHead) % n)
        let r1 := { r with tail := if behind then r.tail else t, doneCons := dh, stalled := false,
                           replaced := if r.epoch.toNat = e then none else r.replaced }
        let s1 := contend [.disable, .doorbell] me (setRing f r1 s)
        ok (if behind then bump 0 s1 else s1)

/-- CANCEL_DOORBELL (04 R98, R100; 14 R377). One that the same boundary latches as a RESYNC taking effect is dropped and
counted (04 Table 4.10). -/
def execCancelDoorbell (pfPage : Bool) (f : Func) (v : U64) (s : State) : Host.Outcome State Fault Refusal :=
  let r := ring s f
  let hsn : U32 := v.extractLsb' 0 32
  let row := bits v.toNat 32 16
  let me := ownOrder (.desc f hsn) .cancel f hsn
  if !hostUp s then ok s
  else if foreignPage pfPage f || !r.enable || !epochOk r 16 (bits v.toNat 48 16)
      || decide (1023 < row ∧ row ≠ 0xFFFF) then ok (bump 0 s)
  else
    match rival s (.ring f) [.resync] with
    | some a => ok (bump 0 (logCollision a me true s))
    | none =>
      match findHsn s f hsn with
      | some p => ok (contend [.cancel] me (if row = 0xFFFF then (cancelDesc p s).1 else (cancelRow p row s).1))
      | none =>
        if later hsn r.lastHsn then
          if r.cancels.length < 16 then
            ok (noteOrder me (setRing f { r with cancels := r.cancels ++ [(hsn, BitVec.ofNat 16 row)] } s))
          else ok (bump 0 s)
        else ok (bump 1 s)

/-- RING_CFG as its register reads (04 Table 4.1). -/
def ringCfg (r : Ring) : U64 :=
  BitVec.ofNat 64 (r.wsize.toNat + 2 ^ 4 * r.dsize.toNat + (if r.msix then 2 ^ 8 else 0) + (if r.enable then 2 ^ 9 else 0))

/-- A base aligned to the smaller of its ring's size in bytes and 4 KiB (04 R92). -/
def baseAligned (base : U64) (bytes : Nat) : Bool := decide (base.toNat % min bytes 4096 = 0)

/-- The ring is empty: indices and tail 0, phase 1 (04 R93). -/
def clearIndices (r : Ring) : Ring :=
  { r with fetchHead := 0, doneIdx := 0, doneCons := 0, tail := 0, phase := true, baseWritten := true }

/-- The requests on a ring's enable that outrank its VF's: the PF's disable and an FLR (04 Table 4.9). -/
def enableLost (pfPage : Bool) (f : Func) (s : State) : Option Order :=
  if pfPage || decide (f.val = 0) then none else rival s (.ring f) [.disable, .flr]

/-- A write to RING_CFG (04 R93; 03 R66). The PF reaches the enable of another function's ring only to clear
it, by a write that covers it and changes nothing else (DEDUCED, log entry 29). A VF's enable loses to the PF's disable or
an FLR that the same boundary latches (04 R123). -/
def execRingCfgWrite (pfPage : Bool) (f : Func) (h : Half) (v : U64) (s : State) :
    Host.Outcome State Fault Refusal :=
  let r := ring s f
  let w := (mergeHalf h (ringCfg r) v).toNat
  let n := bits w 0 4
  let m := bits w 4 4
  let en := bitAt w 9
  let sized := decide (n ≠ r.wsize.toNat ∨ m ≠ r.dsize.toNat)
  let resume := en && !r.enable
  if !hostUp s then ok s
  else if foreignPage pfPage f && (en || sized || decide (bitAt w 8 ≠ r.msix) || decide (h = .high)) then ok (bump 0 s)
  else if decide (10 < n ∨ 10 < m) || (r.enable && sized)
      || (sized && !(baseAligned r.wbase (64 * 2 ^ (6 + n)) && baseAligned r.dbase (32 * 2 ^ (6 + m))))
      || (resume && r.needResync && !r.baseWritten && !sized) then ok (bump 0 s)
  else
    let r1 := if sized then clearIndices { r with wsize := BitVec.ofNat 4 n, dsize := BitVec.ofNat 4 m } else r
    let s1 := setRing f { r1 with msix := bitAt w 8, enable := en } s
    if r.enable && !en then
      let s2 := disableRing f (setRing f { r1 with msix := bitAt w 8 } s)
      ok (if foreignPage pfPage f then noteOrder (pfOrder (.ring f) .disable 0#32) (msix f 1 s2)
          else if f.val = 0 then msix f 1 s2 else s2)
    else
      match resume, enableLost pfPage f s with
      | true, some a => ok (logCollision a (ownOrder (.ring f) .enable f 0#32) true s)
      | _, _ => ok s1

/-- A write to RING_WBASE or RING_DBASE (04 R92, R93). -/
def execRingBaseWrite (pfPage : Bool) (f : Func) (done : Bool) (h : Half) (v : U64) (s : State) :
    Host.Outcome State Fault Refusal :=
  let r := ring s f
  let w := mergeHalf h (if done then r.dbase else r.wbase) v
  let bytes := if done then 32 * doneSlots r else 64 * workSlots r
  if !hostUp s then ok s
  else if foreignPage pfPage f || r.enable || !baseAligned w bytes then ok (bump 0 s)
  else ok (setRing f (clearIndices (if done then { r with dbase := w } else { r with wbase := w })) s)

/-- RING_HEAD (04 Table 4.2). -/
def ringHead (r : Ring) : Nat :=
  r.fetchHead + 2 ^ 16 * r.doneIdx + (if r.phase then 2 ^ 32 else 0) + (if r.needResync then 2 ^ 33 else 0)

/-- A register of the doorbell page as a read returns it (03 Table 3.5). -/
def pageReg (r : Ring) (off : Nat) : Nat :=
  match off with
  | 0x040 => r.wbase.toNat
  | 0x048 => r.dbase.toNat
  | 0x050 => (ringCfg r).toNat
  | 0x060 => r.lastHsn.toNat
  | 0x068 => r.lastDsn.toNat
  | 0x070 => r.epoch.toNat
  | 0x078 => ringHead r
  | _ => 0

/-- Registers of the doorbell page that a write of 4 or 8 bytes may name: their own commands carry the
writes to them; the read-only ones take a write without effect (03 Table 3.5, 00 R7). -/
def pageRo (off : Nat) : Bool := decide (off ∈ [0x060, 0x068, 0x070, 0x078])

/-- An access to a doorbell page that no other command carries (03 R65, R66): a read returns the register, 0
for a wrong size or alignment or a reserved offset; a write is dropped and counted, unless it is an aligned
write to a read-only register by the ring's owner. -/
def execDoorbellPageBadAccess (pfPage : Bool) (f : Func) (write : Bool) (off size : Nat) (s : State) :
    Host.Outcome State Fault Refusal :=
  let aligned := decide ((size = 4 ∨ size = 8) ∧ off % size = 0)
  if !hostUp s then ok s
  else if write then
    if aligned && pageRo (off / 8 * 8) && !foreignPage pfPage f then ok s else ok (bump 0 s)
  else if aligned then
    let v := pageReg (ring s f) (off / 8 * 8) / 2 ^ (8 * (off % 8)) % 2 ^ (8 * size)
    ok (emit (.regData off (BitVec.ofNat 64 v)) s)
  else ok (emit (.regData off 0#64) s)

/-! ### Fetch -/

/-- Free places a ring may take, its own quadrant first, then the lowest (04 R95); within a quadrant the
lowest-numbered (DESIGN CHOICE, log entry 28). -/
def freePlaces (s : State) (f : Func) : List Nat :=
  let order := (f.val % 4) :: [0, 1, 2, 3].filter (fun q => decide (q ≠ f.val % 4))
  order.flatMap (fun q => ((List.range 256).map (fun i => q * 256 + i)).filter
    (fun p => decide (tfind s.places p = none)))

/-- Slots of a ring whose descriptors are on their way or landed. -/
def fetched (s : State) (f : Func) : Nat :=
  (s.places.filter (fun p => decide (p.2.func = f)
    && (decide (p.2.stage = .fetching) || decide (p.2.stage = .landed)))).length

def Desc.fresh (f : Func) (sl : Nat) : Desc :=
  { early := [], func := f, slot := sl, stage := .fetching, failed := false, words := [], hsn := 0#32, epoch := 0#32, acc := 0,
    conds := [], detail := 0#64, cancel := false, cancelRows := [], committed := false, clipped := false,
    discard := false, ctx := none, prog := Progress.none }

/-- The rings may fetch (18 R469, R473, R478). -/
def mayFetch (s : State) : Bool := s.boot.mediaReady && !s.boot.hubFault && !s.pwr.lost && !s.pwr.trip

/-- HOST issues a read of n slots in slot order (04 R95), from slot i at RING_WBASE + 64 i (R92). -/
def execDescriptorFetchIssue (f : Func) (n : Nat) (s : State) : Host.Outcome State Fault Refusal :=
  let r := ring s f
  let m := workSlots r
  let got := fetched s f
  let next := (r.fetchHead + got) % m
  let places := (freePlaces s f).take n
  let ids := (List.range 4).filter (fun i => !(r.fetches.any (fun x => decide (x.id.val = i))))
  match ids with
  | i :: _ =>
    if mayFetch s ∧ r.enable ∧ !r.stalled ∧ 1 ≤ n ∧ n ≤ 8 ∧ got + n ≤ (r.tail + m - r.fetchHead) % m
        ∧ next + n ≤ m ∧ places.length = n then
      let s1 := (List.range n).foldl
        (fun s' k => { s' with places := tput s'.places (places.getD k 0) (Desc.fresh f (next + k)) }) s
      ok (emit (.hostRead (r.wbase + BitVec.ofNat 64 (64 * next)) (64 * n))
        (setRing f { r with fetches := r.fetches ++ [{ id := Fin.ofNat 4 i, slot := next, places := places, landed := false }] } s1))
    else ok s
  | [] => ok s

/-- A descriptor at the fetch head whose fetch failed is not accepted: it and the later ones are dropped, the ring fetches
nothing until a doorbell and needs a RESYNC (04 R127). -/
def refuseFetch (f : Func) (s : State) : State :=
  match headDesc s f with
  | some (_, d) =>
    if d.failed then
      let s1 := dropFetched f 0 s
      logFn 0x03 0x30 (locOf 5 f.val) f d.slot 0 (needResync f (setRing f { (ring s1 f) with stalled := true } s1))
    else s
  | none => s

/-- A fetch read completes: its descriptors land; the slot that came with an error or with poison is refused once every
slot before it has been accepted (04 R95, R127). -/
def execDescriptorFetchLand (f : Func) (k : Fin 4) (slots : List (List U64)) (bad : Option (Fin 8)) (s : State) :
    Host.Outcome State Fault Refusal :=
  let r := ring s f
  match r.fetches.find? (fun x => decide (x.id = k)) with
  | none => ok s
  | some x =>
    let s1 := (List.range x.places.length).foldl
      (fun s' i =>
        let p := x.places.getD i 0
        match tfind s'.places p with
        | some d =>
          let d1 := { d with stage := .landed, words := slots.getD i [], failed := decide (bad.map (fun b => b.val) = some i) }
          { s' with places := tput s'.places p d1 }
        | none => s')
      s
    ok (refuseFetch f (setRing f { r with fetches := r.fetches.filter (fun y => decide (y.id ≠ k)) } s1))

/-! ### Acceptance -/

/-- Whether a descriptor waits at acceptance for a commit of its function, after which it was fetched, to take effect (05 R150,
13 R341, 12 R321). -/
def waitsForCommit (s : State) (f : Func) (d : Desc) : Bool :=
  let slot := bits (wordAt d.words 2) 16 4
  ((grnPartOf s f.val).waiting.isSome && decide (0 ∉ d.early)) || ((flagBaseOf s f.val).waiting.isSome && decide (1 ∉ d.early))
    || (decide (opcodeOf d.words = 0x11 ∧ 2 + slot ∉ d.early) && (modelOf s f.val slot).waiting.isSome)

/-- The statuses of a descriptor's admission checks, with its detail word (04 R104, R112, R114, R115). -/
def admissionConds (s : State) (f : Func) (ws : List U64) (cancelled : Bool) : List Status × U64 :=
  if !knownOpcode (opcodeOf ws) then ([.badOpcode], 0#64)
  else
    let t := firstOffence (tenantOffences s f.val ws)
    let v := firstOffence (rangeOffences s ws)
    let tooMany := decide (opcodeOf ws ≠ 0x03 ∧ descQuotaOf s f.val < quotaCount s f + 1)
    let l0 := if cancelled then addStatus .cancelled [] else []
    let l1 := if tooMany then addStatus .quota l0 else l0
    let l2 := if v.isSome then addStatus .rsvNonzero l1 else l1
    let l3 := if t.isSome then addStatus .badTenant l2 else l2
    (l3, match t, v with
      | some o, _ => offenceDetail o
      | none, some o => offenceDetail o
      | none, none => 0#64)

/-- Note a departure from consecutive HSNs (04 R117). -/
def noteGap (f : Func) (hsn : U32) (s : State) : State :=
  let r := ring s f
  let want := r.lastHsn + 1#32
  if hsn = want then s
  else
    let n := r.gaps + 1
    logFn 0x09 0x00 (locOf 5 f.val) f (want.toNat + hsn.toNat * 2 ^ 32) (satNat 16 n)
      (setRing f { r with gaps := n, firstMissing := some (r.firstMissing.getD want) } s)

/-- A RESYNC of the ring has been accepted and has not taken effect: descriptors behind it are accepted under the new
epoch (04 R119, R120). -/
def resyncDue (s : State) (f : Func) : Bool :=
  (flying s f).any (fun q => decide (opcodeOf q.2.words = 0x03 ∧ q.2.stage = .accepted))

/-- A pending cancel and the acceptance of its target, latched at one boundary (04 Table 4.10). -/
def logCancelMet (f : Func) (hsn : U32) (s : State) : State :=
  match rival s (.desc f hsn) [.cancel] with
  | some a => logCollision a { ownOrder (.desc f hsn) .doorbell f hsn with master := 4 } false s
  | none => s

/-- HOST accepts the landed descriptor at the fetch head (04 R95, R100, R112, R115, R117, R120, R122). -/
def execDescriptorAccept (f : Func) (s : State) : Host.Outcome State Fault Refusal :=
  match headDesc s f with
  | none => ok s
  | some (p, d) =>
    let r := ring s f
    let op := opcodeOf d.words
    if d.failed then ok (refuseFetch f s)
    else if r.needResync ∧ op ≠ 0x03 then
      let s1 := dropFetched f 0 s
      ok (bump 0 (setRing f { (ring s1 f) with stalled := true } s1))
    else if waitsForCommit s f d || resyncDue s f then ok s
    else
      let hsn := hsnOf d.words
      let mine := r.cancels.filter (fun c => decide (c.1 = hsn))
      let applies := decide (op ≠ 0x03)
      let whole := applies && mine.any (fun c => decide (c.2 = 0xFFFF#16))
      let rowsOf := (mine.filter (fun c => decide (c.2 ≠ 0xFFFF#16))).map (fun c => c.2.toNat)
      let hit := rowsOf.filter (fun i => decide (op = 0x11 ∧ i < bits (wordAt d.words 2) 0 11))
      let missed := if applies then rowsOf.length - hit.length else 0
      let a := admissionConds s f d.words whole
      let s1 := noteGap f hsn s
      let r1 := ring s1 f
      let s2 := setRing f { r1 with lastHsn := hsn, fetchHead := (r.fetchHead + 1) % workSlots r,
                                    cancels := if applies then r.cancels.filter (fun c => decide (c.1 ≠ hsn))
                                               else r.cancels } s1
      let d1 := { d with stage := if a.1 = [] then .accepted else .ended, hsn := hsn, epoch := r.epoch,
                         acc := s.acceptCtr, conds := a.1, detail := a.2, cancelRows := hit }
      let s3 := { setDesc p d1 s2 with acceptCtr := s.acceptCtr + 1 }
      let s4 := if applies && !mine.isEmpty then logCancelMet f hsn s3 else s3
      ok (refuseFetch f (bumpBy 1 missed (bumpFuncBy f 0 1 (countEv 0x01 0 (some f) 1 s4))))

/-! ### Completion and the done ring -/

/-- The place of a CANCEL's target in flight: a target stands as its acceptance number and its row. -/
def targetPlace (s : State) (e : Nat) : Option (Nat × Desc) :=
  s.places.find? (fun q => decide (q.2.acc = e / 65536) && inFlight q.2)

/-- The row of a STEP that a CANCEL's target names. -/
def targetRow (s : State) (p e : Nat) : Option RowRun := (tfind s.serve.steps p).bind (fun t => t.rows[e % 65536]?)

/-- Whether a CANCEL's target has ended, and if so whether it ended CANCELLED (14 R377): a row ends with its commit, a
descriptor with its record. -/
def cancelEnd (s : State) (e : Nat) : Option Bool :=
  match targetPlace s e with
  | none => some false
  | some q =>
    if e % 65536 = 0xFFFF then none
    else match targetRow s q.1 e with
      | none => none
      | some r => if r.committed || !r.admitted then some (decide (chosen r.conds = .cancelled)) else none

/-- The targets that ended CANCELLED join a CANCEL's detail (04 Table 4.8). -/
def cancelDetail (s : State) (d : Desc) : Desc :=
  if opcodeOf d.words = 0x12 ∧ d.conds = [] then
    let n := d.prog.count + (d.prog.pages.filter (fun e => cancelEnd s e == some true)).length
    { d with detail := BitVec.ofNat 64 (satNat 11 n + d.detail.toNat / 2 ^ 16 * 2 ^ 16) }
  else d

/-- A descriptor ends: the CANCELs that name it, or a row of it, note how it ended. -/
def settleCancels (p : Place) (d : Desc) (s : State) : State :=
  let of_ (e : Nat) : Bool := decide (e / 65536 = d.acc)
  let yes (e : Nat) : Bool :=
    if e % 65536 = 0xFFFF then decide (chosen d.conds = .cancelled)
    else match targetRow s p.val e with
      | some r => decide (chosen r.conds = .cancelled)
      | none => decide (chosen d.conds = .cancelled)
  (s.places.filter (fun q => decide (opcodeOf q.2.words = 0x12) && inFlight q.2 && q.2.prog.pages.any of_)).foldl
    (fun s' q =>
      let g := q.2.prog
      let g1 := { g with pages := g.pages.filter (fun e => !of_ e), count := g.count + (g.pages.filter (fun e => of_ e && yes e)).length }
      { s' with places := tput s'.places q.1 { q.2 with prog := g1 } })
    s

/-- Orphans of a ring are built in the order of their HSNs, and the RESYNC after them (04 R119); a CANCEL
after its targets have ended (14 R377); one with an undefined opcode and `after` when no earlier one of its ring is left
(R114; DEDUCED, log entry 31). -/
def recordTurn (s : State) (p : Place) (d : Desc) : Bool :=
  let others := (flying s d.func).filter (fun q => decide (q.1 ≠ p.val ∧ Status.orphaned ∈ q.2.conds))
  if opcodeOf d.words = 0x03 ∧ Status.rsvNonzero ∉ d.conds then
    !(others.any (fun q => decide (q.2.acc < d.acc)))
  else if opcodeOf d.words = 0x12 ∧ d.conds = [] then d.prog.pages.all (fun e => (cancelEnd s e).isSome)
  else if Status.orphaned ∈ d.conds then !(others.any (fun q => later d.hsn q.2.hsn))
  else if !knownOpcode (opcodeOf d.words) && afterOf d.words then !((flying s d.func).any (fun q => decide (q.2.acc < d.acc)))
  else true

/-- The pages an FLR returned are cleared, a fenced one skips it, and are free again (03 R78, 14 R375, R389); they stand
under the tag 1,025 plus the function. -/
def clearTagged (tag : Nat) (s : State) : State :=
  let mine := (s.serve.clearing.filter (fun c => decide (c.2 = tag))).map (fun c => c.1)
  let s1 := mine.foldl (fun s' pg =>
    if isFenced s' (pg / 4096 / 128) (pg / 4096 / 64 % 2) then s' else clearPage pg s') s
  { s1 with serve := { s1.serve with clearing := s1.serve.clearing.filter (fun c => decide (c.2 ≠ tag)) } }

/-- A VF's FLR completes once none of its discarded descriptors is left (03 R78). -/
def endFlr (f : Func) (s : State) : State :=
  if (tfind s.cxl.flrs f.val).isSome && !(s.places.any (fun q => decide (q.2.func = f) && q.2.discard)) then
    emit (.flrDone f) (clearTagged (1025 + f.val) { s with cxl := { s.cxl with flrs := terase s.cxl.flrs f.val } })
  else s

/-- Whether a descriptor's ending leaves what its work wrote undefined: ORPHANED (R120), CANCELLED (05 R159, 09 R276, 11
R316; the rows of a STEP take theirs one by one), WATCHDOG of grain work (05 R159). -/
def endsUndefined (d : Desc) : Bool :=
  decide (Status.orphaned ∈ d.conds) || (decide (Status.cancelled ∈ d.conds) && decide (opcodeOf d.words ≠ 0x11))
    || (decide (Status.watchdog ∈ d.conds) && decide (opcodeOf d.words ≠ 0x20))

/-- The pages, the lines and the regions that ended work wrote are undefined (log entry 18). -/
def undefineWork (d : Desc) (s : State) : State :=
  if endsUndefined d then
    scribbleRegions (((d.ctx.bind (fun x => ctx s x.val)).map (fun c => c.regions.map (fun r => r.2))).getD [])
      (scribble (d.prog.wrote.flatMap (spanWords s)) s)
  else s

/-- HOST latches a descriptor's completion: the record is built and given its DSN, the context returns to
FREE, the place's regions are released (04 R118, 09 R253). A record an FLR discards frees its place, and writes no entry
of class 0x05 (DESIGN CHOICE, log entry 88). -/
def execDescriptorCompletion (p : Place) (s : State) : Host.Outcome State Fault Refusal :=
  match desc s p with
  | none => ok s
  | some d =>
    if d.stage = .ended ∧ recordTurn s p d ∧ (tfind s.serve.steps p.val).all (fun t => t.sent || d.discard) then
      let clip := (d.clipped || islClip s islHost) && decide (d.conds = []) && decide (opcodeOf d.words ≠ 0x11)
      let d1 := if clip then { d with conds := [.doneClipped] } else cancelDetail s d
      let s0 := settleCancels p d (undefineWork d s)
      let s1 := if d.discard then freePlace p s0 else buildRecord p d1 s0
      let s2 := match d.ctx with
        | some x => freeCtx x s1
        | none => s1
      let s3 := releasePlace p s2
      let s4 := if clip then bump 11 s3 else s3
      let s5 := { s4 with serve := { s4.serve with shipsOut := terase s4.serve.shipsOut p.val,
                                                   steps := if d.discard then terase s4.serve.steps p.val else s4.serve.steps } }
      ok (if d.discard then endFlr d.func s5 else s5)
    else ok s

/-- HOST writes the oldest built record once a done slot is free (04 R97, R111); a STEP's output table has
gone before (13 R363). -/
def execDoneRecordWrite (f : Func) (s : State) : Host.Outcome State Fault Refusal :=
  let r := ring s f
  match r.built with
  | [] => ok s
  | x :: rest =>
    let m := doneSlots r
    let unsent := (tfind s.serve.steps x.place.val).any (fun t => !t.sent)
    if (r.doneIdx + 1) % m = r.doneCons ∨ unsent ∨ hostUp s = false then ok s
    else
      let w0 := BitVec.ofNat 64 (x.w0.toNat + if r.phase then 2 ^ 16 else 0)
      let next := (r.doneIdx + 1) % m
      let s1 := setRing f { r with built := rest, doneIdx := next,
                                   phase := if next = 0 then !r.phase else r.phase,
                                   lastDsn := BitVec.ofNat 32 (x.w0.toNat / 2 ^ 32) } s
      let s2 := emit (.hostWrite (r.dbase + BitVec.ofNat 64 (32 * r.doneIdx)) [w0, x.w1, x.w2, x.w3]) s1
      let s3 := freePlace x.place { s2 with serve := { s2.serve with steps := terase s2.serve.steps x.place.val } }
      let s4 := bumpFuncBy f 1 1 (countEv 0x02 0 (some f) 1 s3)
      ok (if r.msix ∧ !x.quiet then msix f 0 s4 else s4)

/-- A write that the host rejected is logged; its DSN stays consumed (04 R127, 19 R495). The spec gives such
an entry no code: class 0x03, code 0x30, at the ring (DESIGN CHOICE, log entry 30). -/
def execHostWriteRejected (f : Func) (_kind : HostWriteKind) (s : State) : Host.Outcome State Fault Refusal :=
  ok (logFn 0x03 0x30 (locOf 5 f.val) f 0 0 s)

end Sys2Proof.Machine
end

