-- ==== Sys2Proof/Machine/HubWork.lean ====
section
/-! DEFINITION. The descriptors the hub handles without a context, and the grain descriptors: NOP, FENCE,
RESYNC, CANCEL, the page opcodes, SPREAD, GRAIN_RUN, TILTH_LOAD, SIGNAL's flags, EVC_SNAP (04 Table 4.6). -/

namespace Sys2Proof.Machine

/-- NOP completes with no effect (00 Table 0.3). -/
def execNop (p : Place) (s : State) : Host.Outcome State Fault Refusal :=
  match startable s p 0x01 with
  | some _ => ok (endDesc p .done 0 s)
  | none => ok s

/-! ### FENCE -/

/-- FENCE is admitted: with no scope bit it completes, else its waits begin (04 R108, 02 R49). -/
def execFence (p : Place) (s : State) : Host.Outcome State Fault Refusal :=
  match startable s p 0x02 with
  | none => ok s
  | some d =>
    if bits (wordAt d.words 1) 0 3 = 0 then ok (endDesc p .done 0 s)
    else
      let ws := if bitAt (wordAt d.words 1) 2 then dirtyWords s else []
      ok (setDesc p { d with stage := .running,
                             prog := { d.prog with words := ws, count := (now s).toNat } } s)

/-- Whether a running FENCE's waits are over. -/
def fenceOver (s : State) (d : Desc) : Bool :=
  let w := wordAt d.words 1
  let older (q : Nat × Desc) : Bool := inFlight q.2 && decide (q.2.acc < d.acc)
  (!bitAt w 0 || !((flying s d.func).any older))
    && (!bitAt w 1 || !(s.places.any older))
    && !(d.prog.words.any (fun x => match copyOf s x with
        | some c => decide (c.since.toNat ≤ d.prog.count)
        | none => false))

/-- The waits of a FENCE are over and it completes (04 R108, 02 R49). -/
def execFenceWaitsEnd (p : Place) (s : State) : Host.Outcome State Fault Refusal :=
  match desc s p with
  | some d =>
    if d.stage = .running ∧ opcodeOf d.words = 0x02 ∧ fenceOver s d then ok (endDesc p .done 0 s) else ok s
  | none => ok s

/-! ### RESYNC -/

/-- End one earlier descriptor of the ring with ORPHANED, as CANCEL ends work (04 R119). -/
def orphanOne (q : Place) (s : State) : State :=
  match desc s q with
  | none => s
  | some d =>
    match d.stage with
    | .running =>
      match d.ctx with
      | some x => stopCtx x (addCond q .orphaned s)
      | none =>
        let copying := decide (opcodeOf d.words = 0x20 ∧ d.committed = true)
        let s1 := dropP1 q (if opcodeOf d.words = 0x20 ∧ copying = false then dropCopyCmd q s else s)
        if (desc s1 q).any (fun e => decide (e.prog.ranks = [])) ∧ copying = false then
          endDesc q .orphaned 0 s1
        else addCond q .orphaned s1
    | .ended => addCond q .orphaned s
    | _ => endDesc q .orphaned 0 s

/-- The places of a list of numbers. -/
def placesOf (l : List (Nat × Desc)) : List Place :=
  l.filterMap (fun q => if h : q.1 < 1024 then some ⟨q.1, h⟩ else none)

/-- An order of a higher master on a descriptor that the same boundary latches (04 R123). -/
def outranked (s : State) (d : Desc) : Option Order :=
  match rival s (.desc d.func d.hsn) [.cancel, .fence] with
  | some a => if a.master < masterOf d.func then some a else none
  | none => none

/-- The earlier descriptors of its ring that a RESYNC ends: those without a record, but for one with an undefined opcode,
which keeps BAD_OPCODE alone (04 R114), and one that an order of a higher master holds (R123). -/
def orphansOf (s : State) (d : Desc) : List (Nat × Desc) :=
  (flying s d.func).filter (fun q => decide (q.2.acc < d.acc) && knownOpcode (opcodeOf q.2.words) && (outranked s q.2).isNone)

/-- RESYNC takes effect at its admission (04 R119, R120, R121). It waits for no earlier descriptor, since it
ends them (DEDUCED, log entry 31). -/
def execResync (p : Place) (s : State) : Host.Outcome State Fault Refusal :=
  match desc s p with
  | none => ok s
  | some d =>
    if d.stage = .accepted ∧ opcodeOf d.words = 0x03 then
      let r := ring s d.func
      let new : U32 := BitVec.ofNat 32 (bits (wordAt d.words 1) 0 32)
      let e := if later new r.epoch then new else r.epoch + 1#32
      let old := orphansOf s d
      let s1 := (placesOf old).foldl (fun s' q => orphanOne q s') s
      let missed := (r.cancels.filter (fun c => decide (c.1 = d.hsn))).length
      let detail := (r.firstMissing.getD 0#32).toNat + satNat 16 r.gaps * 2 ^ 32 + satNat 16 old.length * 2 ^ 48
      let r1 := ring s1 d.func
      let s2 := setRing d.func { r1 with epoch := e, replaced := some r.epoch, cancels := [],
                                         needResync := false, gaps := 0, firstMissing := none } s1
      let s3 := setDesc p { d with stage := .ended, epoch := e, detail := BitVec.ofNat 64 detail } s2
      ok (noteOrder (ownOrder (.ring d.func) .resync d.func d.hsn) (bumpBy 1 missed s3))
    else ok s

/-! ### CANCEL -/

/-- One target of a CANCEL descriptor of function `by_`: the state, the targets cancelled (acceptance number and row), those
late. Two cancels of one target at one boundary both apply (04 Table 4.10). -/
def cancelTarget (by_ : Func) (f : Func) (hsn : U32) (row : Nat) (self : Nat) (a : State × List Nat × Nat) :
    State × List Nat × Nat :=
  match findHsn a.1 f hsn with
  | none => (bump 1 a.1, a.2)
  | some q =>
    match desc a.1 q with
    | none => a
    | some t =>
      if t.acc = self then (bump 1 a.1, a.2)
      else
        let s1 := contend [.cancel] (ownOrder (.desc f hsn) .cancel by_ hsn) a.1
        let r := if row = 0xFFFF then cancelDesc q s1 else cancelRow q row s1
        match r.2 with
        | .cancelled => (r.1, a.2.1 ++ [t.acc * 65536 + row], a.2.2)
        | .late => (r.1, a.2.1, a.2.2 + 1)
        | .miss => (r.1, a.2)

/-- CANCEL (14 R377): its targets are the descriptors in flight on the named ring with HSNs hsn to
hsn + count - 1. The done record waits until every target has ended, and counts those that ended CANCELLED
(DESCRIPTOR_COMPLETION). -/
def execCancel (p : Place) (s : State) : Host.Outcome State Fault Refusal :=
  match startable s p 0x12 with
  | none => ok s
  | some d =>
    let w := wordAt d.words 1
    let f : Func := if d.func.val = 0 then Fin.ofNat 256 (bits w 48 8) else d.func
    let n := bits (wordAt d.words 2) 0 11
    let a := (List.range n).foldl
      (fun a i => cancelTarget d.func f (BitVec.ofNat 32 (bits w 0 32 + i)) (bits w 32 16) d.acc a) (s, [], 0)
    let detail := satNat 11 a.2.2 * 2 ^ 16
    match desc a.1 p with
    | some d1 => ok (endDesc p .done detail (setDesc p { d1 with prog := { d1.prog with pages := a.2.1 } } a.1))
    | none => ok a.1

/-! ### Pages (14 R373 to R376) -/

/-- A page of a mapped grain in service: not mapped out, its rank not fenced (14, 05 R155, 08 R243). -/
def pageInService (s : State) (pg : Nat) : Bool :=
  let g := pg / 4096
  !isOut s g && !isFenced s (g / 128) (g / 64 % 2)

/-- The page pool: pages in service that are neither granted nor being cleared. -/
def pageFree (s : State) (pg : Nat) : Bool :=
  decide (pageOwner s pg = 0) && pageInService s pg && !(s.serve.clearing.any (fun c => decide (c.1 = pg)))

/-- The 64-byte header of the manifest of a model slot (13 Table 13.1), as eight words; none for an empty slot. -/
def manifest (s : State) (f slot_ : Nat) : Option (List U64) :=
  let a := (modelOf s f slot_).inForce.toNat
  if a = 0 then none
  else
    let l := marlLine s (lineWords s false (a / 64))
    some ((List.range 8).map (fun i => l.1.extractLsb' (64 * i) 64))

/-- A page number within the weight or work ranges of a committed model slot of the function. -/
def modelPage (s : State) (f p : Nat) : Bool :=
  (s.hub.model.filter (fun m => decide (m.1 / 16 = f))).any (fun m =>
    match manifest s f (m.1 % 16) with
    | some h =>
      decide (bits (wordAt h 4) 0 12 ≤ p ∧ p ≤ bits (wordAt h 4) 16 12)
        || decide (bits (wordAt h 5) 0 12 ≤ p ∧ p ≤ bits (wordAt h 5) 16 12)
    | none => false)

/-- The lowest start of n consecutive grantable pages of a grain for a function (14 R374). -/
def grantRun (s : State) (f g n : Nat) : Option Nat :=
  (List.range 4096).find? (fun b => decide (b + n ≤ 4096) && (List.range n).all (fun i =>
    pageInRange s f (b + i) && pageFree s (g * 4096 + b + i) && !modelPage s f (b + i)))

/-- The function a page descriptor names: a VF's own, or the one the PF gives (04 Table 4.6). -/
def namedFn (d : Desc) : Nat := if d.func.val = 0 then bits (wordAt d.words 1) 16 8 else d.func.val

/-- PAGE_GRANT (14 R374): the first outcome that applies is its status, and the only one that counts (DESIGN CHOICE, log
entry 87). Its grain set was checked at acceptance (04 R104); the pages come from those of its grains that the partition in
force holds (05 R150). -/
def execPageGrant (p : Place) (s : State) : Host.Outcome State Fault Refusal :=
  match startable s p 0x50 with
  | none => ok s
  | some d =>
    let f := namedFn d
    let n := bits (wordAt d.words 1) 0 13
    if pageQuotaOf s f < pagesHeld s f + n then ok (endDesc p .quota 0 s)
    else
      match ((setList (wordAt d.words 2)).filter (setHolds (grainsOf s f))).findSome? (fun g => (grantRun s f g n).map (fun b => (g, b))) with
      | none => ok (endDesc p .admitMem 0 s)
      | some (g, b) =>
        let ids := (List.range n).map (fun i => g * 4096 + b + i)
        let s1 := ids.foldl (fun s' pg => noteOrder (ownOrder (.page pg) .pages d.func d.hsn) (setPageOwner pg (f + 1) s')) s
        ok (endDesc p .done n (emit (.hostIds (BitVec.ofNat 64 (wordAt d.words 3)) (ids.map (BitVec.ofNat 32))) s1))

/-- Whether a STEP uses a page: a span list of its rows names it, or it lies in its model's ranges (14 R376). -/
def stepUses (s : State) (t : StepRun) (pg : Nat) : Bool :=
  t.rows.any (fun r => decide (pg ∈ r.pages))
    || (t.modelPages.any (fun m => decide (m.1 ≤ pg % 4096 ∧ pg % 4096 ≤ m.2)) && setHolds (grainsOf s t.func.val) (pg / 4096))

/-- The STEPs admitted by now that use any of the pages, by acceptance number. -/
def stepsUsing (s : State) (ids : List Nat) : List Nat :=
  (s.serve.steps.filter (fun t => ids.any (stepUses s t.2))).filterMap (fun t => (tfind s.places t.1).map (fun d => d.acc))

/-- PAGE_RETURN (14 R375): it loses to an order of a higher master on one of its pages at the same boundary (04 R123); judged on
its whole list, then ownership ends and the clear waits. The list has the descriptor's count of identifiers. -/
def execPageReturn (p : Place) (list : List U32) (s : State) : Host.Outcome State Fault Refusal :=
  match startable s p 0x51 with
  | none => ok s
  | some d =>
    let f := namedFn d
    let ids := (list.take (bits (wordAt d.words 1) 0 13)).map (fun v => v.toNat)
    let rsv := ids.any (fun v => decide (2 ^ 23 ≤ v))
    let alien := ids.any (fun v => decide (v < 2 ^ 23 ∧ pageOwner s v ≠ f + 1))
    let detail := 0x18
    let order (v : Nat) : Order := ownOrder (.page v) .pages d.func d.hsn
    match ids.findSome? (fun v => rival s (.page v) [.pages] |>.bind (fun a =>
        if a.master < masterOf d.func then some (a, v) else none)) with
    | some (a, v) =>
      ok (logPreempted a (some (d.func, d.hsn)) (logCollision a (order v) true (endDesc p .preempted (preemptDetail a) s)))
    | none =>
    if rsv ∨ alien then
      let s1 := if rsv then endDesc p .rsvNonzero detail s else s
      ok (if alien then endDesc p .badTenant detail s1 else s1)
    else
      let s1 := ids.foldl (fun s' pg => setPageOwner pg 0 s') s
      let s2 := { s1 with serve := { s1.serve with clearing := s1.serve.clearing ++ ids.map (fun v => (v, p.val + 1)) } }
      let g := { d.prog with pages := ids, count := ids.length, words := stepsUsing s ids }
      ok (ids.foldl (fun s' v => noteOrder (order v) s') (setDesc p { d with stage := .running, prog := g } s2))

/-- A STEP that used the pages of a PAGE_RETURN when it was latched has not completed (14 R375, R376). -/
def returnWaits (s : State) (d : Desc) : Bool := s.places.any (fun q => decide (q.2.acc ∈ d.prog.words) && inFlight q.2)

/-- The clear of a PAGE_RETURN: once no STEP admitted before uses any of its pages, each is written with
zero and re-enters the pool; a fenced page skips its clear (14 R375, R389). -/
def execPageClear (p : Place) (s : State) : Host.Outcome State Fault Refusal :=
  match desc s p with
  | none => ok s
  | some d =>
    if d.stage = .running ∧ opcodeOf d.words = 0x51 ∧ !returnWaits s d then
      let s1 := d.prog.pages.foldl (fun s' pg =>
        if isFenced s' (pg / 4096 / 128) (pg / 4096 / 64 % 2) then s' else clearPage pg s') s
      let s2 := { s1 with serve := { s1.serve with
        clearing := s1.serve.clearing.filter (fun c => decide (c.2 ≠ p.val + 1)) } }
      ok (endDesc p .done d.prog.count s2)
    else ok s

/-! ### Grain descriptors (04 R105, 05 R137, 08 R242, R243) -/

/-- The ranks (4c + r) in which a grain set holds a grain. -/
def setRankList (w : Nat) : List Nat := (pairsOf w).map (fun k => 4 * (k / 2) + k % 2)

/-- The selection a set makes in any one of its ranks. -/
def setSel (w : Nat) : GrainSel := { dies := BitVec.ofNat 4 (setDies w), grains := BitVec.ofNat 16 (setGrains w) }

/-- A rank that is being migrated, or waits for it (08 R240, R242). -/
def rankMigrating (s : State) (c r : Nat) : Bool :=
  let q := quadMap s (c / 4)
  decide (q.failed.map (fun k => k.val) = some (quadRank c r))
    || (decide (q.spareFor.map (fun k => k.val) = some (quadRank c r)) && q.mig.isSome)

/-- The mapped-out grains a set names, which it skips (04 R105). -/
def setSkipped (s : State) (w : Nat) : Nat := ((setList w).filter (isOut s)).length

/-- The grains of a set that run, physical. -/
def setLive (s : State) (w : Nat) : List Nat := ((setList w).filter (fun g => !isOut s g)).map (physGrain s)

/-- Latch one P1 command into the queue of each named rank's bank controller (02 R47, 08 R211). -/
def pushP1 (w : Nat) (kind : P1Kind) (pl : Option Place) (x : Option CtxNo) (f : Func) (s : State) : State :=
  (setRankList w).foldl
    (fun s' k =>
      let c := k / 4
      queueP1 c { rank := k % 4, sel := setSel w, kind := kind, place := pl, ctx := x, func := f, dirty := [],
                  started := [], issued := false, since := 0#64, num := 0 } s')
    s

/-- Whether a set names a fenced rank, or one under migration. -/
def setFenced (s : State) (w : Nat) : Bool := (setRankList w).any (fun k => isFenced s (k / 4) (k % 4))
def setMigrating (s : State) (w : Nat) : Bool := (setRankList w).any (fun k => rankMigrating s (k / 4) (k % 4))

/-- Whether the queue of a bank controller that a set names is full (01 Table 1.1). -/
def setFull (s : State) (w : Nat) : Bool := (setRankList w).any (fun k => decide (64 ≤ bcLoad s (k / 4)))

/-- SPREAD: one Spread command into the queue of each named rank's bank controller (01 R26, 04 Table 4.6). It
waits while a named rank migrates, and while a queue is full; a fenced rank gives FENCED; with no grain left to run it completes. -/
def execSpread (p : Place) (s : State) : Host.Outcome State Fault Refusal :=
  match startable s p 0x21 with
  | none => ok s
  | some d =>
    let w := wordAt d.words 1
    let skipped := setSkipped s w
    let pr := { d.prog with ranks := setRankList w, run := setSize w - skipped, skipped := skipped }
    if setFenced s w then ok (endDesc p .fenced 0 s)
    else if setMigrating s w || setFull s w then ok s
    else if setSize w ≤ skipped then ok (endDesc p .done 0 (setDesc p { d with prog := { pr with ranks := [] } } s))
    else
      let row := bits (wordAt d.words 3) 0 16
      let kind := P1Kind.spread (BitVec.ofNat 32 (wordAt d.words 2)) row (bitAt (wordAt d.words 3) 16)
        (bitAt (wordAt d.words 3) 17)
      ok (pushP1 w kind (some p) none d.func (setDesc p { d with stage := .running, committed := true, prog := pr } s))

/-- The context has executed its end and drains (09 Table 9.1). -/
def drainCtx (x : CtxNo) (s : State) : State :=
  match ctx s x.val with
  | some c => setCtx x.val { c with st := .drain, since := now s } s
  | none => s

/-- Write n bytes of a grain's CRA from an offset (05 Table 5.4, slots 0 to 6). -/
def writeCra (g off : Nat) (bs : List Byte) (s : State) : State :=
  let x := grain s g
  setGrain g { x with cra := (List.range bs.length).foldl (fun t i => tset 0#8 t (off + i) (bs.getD i 0#8)) x.cra } s

/-- GRAIN_RUN on its context: arguments into each grain's CRA, then one run command into the queue of each
named rank's bank controller (04 Table 4.6, 05 R137). -/
def execGrainRun (p : Place) (s : State) : Host.Outcome State Fault Refusal :=
  match runningOn s p 0x22 with
  | none => ok s
  | some (d, x) =>
    let w := wordAt d.words 1
    let skipped := setSkipped s w
    let live := setLive s w
    let pr := { d.prog with ranks := setRankList w, run := setSize w - skipped, skipped := skipped }
    let busy := live.any (fun g => decide ((grain s g).state = .running))
    if (ctx s x.val).any (fun c => decide (c.st = .drain)) then ok s
    else if setFenced s w then ok (settleCtx x (drainCtx x (addCond p .fenced s)))
    else if setMigrating s w ∨ busy then ok s
    else if setSize w ≤ skipped then
      ok (settleCtx x (drainCtx x (setDesc p { d with prog := { pr with ranks := [] } } s)))
    else
      let args := (List.range 4).flatMap (fun i => leBytes 8 (wordAt d.words (4 + i)))
      let s1 := if bitAt (wordAt d.words 2) 19 then
          live.foldl (fun s' g => writeCra g (32 * bits (wordAt d.words 2) 16 3) args s') s
        else s
      let s2 := setDesc p { d with prog := pr } s1
      ok (drainCtx x (pushP1 w (.grun (bits (wordAt d.words 2) 0 11)) (some p) (some x) d.func s2))

/-- Write words into a grain's Tilth store. -/
def writeStore (g at_ : Nat) (code : List U32) (s : State) : State :=
  let x := grain s g
  let st := (List.range code.length).foldl (fun t i => tset 0#32 t (at_ + i) (code.getD i 0#32)) x.store
  setGrain g { x with store := st } s

/-- TILTH_LOAD on its context: count instructions into the store of each grain of the set, from index dst;
it waits while a named grain runs (04 Table 4.6, 05 R137). -/
def execTilthLoad (p : Place) (code : List U32) (s : State) : Host.Outcome State Fault Refusal :=
  match runningOn s p 0x23 with
  | none => ok s
  | some (d, x) =>
    let w := wordAt d.words 1
    let live := setLive s w
    let skipped := setSkipped s w
    let n := bits (wordAt d.words 3) 0 12
    if (ctx s x.val).any (fun c => decide (c.st = .drain)) then ok s
    else if setFenced s w then ok (settleCtx x (drainCtx x (addCond p .fenced s)))
    else if setMigrating s w ∨ live.any (fun g => decide ((grain s g).state = .running)) then ok s
    else
      let s1 := live.foldl (fun s' g => writeStore g (bits (wordAt d.words 3) 16 11) (code.take n) s') s
      let pr := { d.prog with run := setSize w - skipped, skipped := skipped }
      ok (settleCtx x (drainCtx x (setDesc p { d with prog := pr } s1)))

/-! ### EVC_SNAP (19 R488, R489, R495) -/

/-- A counter as a read reports it: 2^64 − 1 after a parity error (19 R495). Counters are numbered by their
word in the snapshot: 8 to 23 programmable, 24 to 55 fixed. -/
def ctrRead (s : State) (i : Nat) (v : U64) : U64 := if i ∈ s.cnt.parity then 0xFFFFFFFFFFFFFFFF#64 else v

/-- Whether the snapshot of function f reports programmable counter n. -/
def snapOwns (s : State) (f n : Nat) : Bool := decide (f = 0) || decide ((evcCfg s n).func.toNat = f)

/-- The 64 words of a snapshot (19 Table 19.5). -/
def snapshot (s : State) (f : Func) : List U64 :=
  let perr := s.cnt.parity.any (fun i => decide (8 ≤ i ∧ i < 24 ∧ snapOwns s f.val (i - 8)) || decide (24 ≤ i ∧ f.val = 0))
  let magic := BitVec.ofNat 64 (0x50435645 + f.val * 2 ^ 32 + if perr then 2 ^ 40 else 0)
  [magic, now s, 0#64, 0#64, 0#64, 0#64, 0#64, 0#64]
    ++ (List.range 16).map (fun n => if snapOwns s f.val n then ctrRead s (8 + n) (tget 0#64 s.cnt.cnt n) else 0#64)
    ++ (List.range 32).map (fun n => if f.val = 0 ∧ n < 13 then ctrRead s (24 + n) (fixedCtr s n) else 0#64)
    ++ (List.range 8).map (fun n => funcCtr s f n)

/-- EVC_SNAP writes the snapshot to dest; with clear it sets the counters it reported to 0 (19 R488, R489). -/
def execEvcSnap (p : Place) (s : State) : Host.Outcome State Fault Refusal :=
  match startable s p 0x60 with
  | none => ok s
  | some d =>
    let f := d.func
    let s1 := emit (.hostWrite (BitVec.ofNat 64 (wordAt d.words 1)) (snapshot s f)) s
    let k := s.cnt
    let k1 := { k with cnt := k.cnt.filter (fun e => !snapOwns s f.val e.1),
                       fixed := if f.val = 0 then [] else k.fixed,
                       perFunc := k.perFunc.filter (fun e => decide (e.1 / 8 ≠ f.val)),
                       parity := k.parity.filter (fun i => !(decide (8 ≤ i ∧ i < 24 ∧ snapOwns s f.val (i - 8))
                                                            || decide (24 ≤ i ∧ f.val = 0))) }
    ok (endDesc p .done 512 (if bitAt (wordAt d.words 2) 0 then { s1 with cnt := k1 } else s1))

end Sys2Proof.Machine
end

