-- ==== Sys2Proof/Machine/Links.lean ====
section
/-! DEFINITION. Module Links (15) and the shipments and remote flags that travel over them (14 R382 to R387,
12 R325). -/

namespace Sys2Proof.Machine

/-! ### Routing (15 R406, R407) -/

def ringSize (dim : Nat) : Nat := if dim = 2 then 4 else 8
def coordOf (pos dim : Nat) : Nat := if dim = 2 then bits pos 6 2 else bits pos (3 * dim) 3

/-- The module's own position, from the plan in force. -/
def ownPos (s : State) : Option Byte := s.lnk.plan.map (fun p => p.own)

def portUp (s : State) (p : Nat) : Bool :=
  match (port s p).st with
  | .up => true
  | .degraded => true
  | _ => false

/-- A port that carries, or will once it has trained: packets queued to it wait (R405). -/
def portKept (s : State) (p : Nat) : Bool := portUp s p || decide ((port s p).st = .train)

/-- The offset to a target in one dimension. -/
def dimOff (own dst dim : Nat) : Nat := (coordOf dst dim + ringSize dim - coordOf own dim) % ringSize dim

/-- The productive port of a dimension: + below and at half the ring, − above it. -/
def prodPort (own dst dim : Nat) : Nat := 2 * dim + if dimOff own dst dim ≤ ringSize dim / 2 then 0 else 1

/-- Ports in order of preference, with the detour and wrong_way bits the packet leaves with. -/
def candidates (own dst : Nat) (detour : Bool) : List (Nat × Bool × Bool) :=
  let dims := [0, 1, 2].filter (fun d => decide (dimOff own dst d ≠ 0))
  match dims with
  | [] => []
  | d :: rest =>
    let p := prodPort own dst d
    let tie := if dimOff own dst d = ringSize d / 2 then [(2 * d + 1, detour, false)] else []
    let more := if detour then [] else
      rest.map (fun e => (prodPort own dst e, true, false)) ++ [(2 * d + 1 - p % 2, true, true)]
    (p, detour, false) :: tie ++ more

/-- The port a packet leaves a module by, of those that `carries` says are UP or DEGRADED: a wrong-way packet goes straight on
until its offset there is 0 (R406). -/
def routeWith (carries : Nat → Bool) (own dst : Nat) (detour wrongWay : Bool) (inPort : Nat) : Option (Nat × Bool × Bool) :=
  let c := if wrongWay && decide (dimOff own dst (inPort / 2) ≠ 0)
    then [(inPort + 1 - 2 * (inPort % 2), true, true)]
    else candidates own dst detour
  c.find? (fun x => carries x.1)

/-- The port a packet leaves this module by. -/
def routeOf (s : State) (own dst : Nat) (detour wrongWay : Bool) (inPort : Nat) : Option (Nat × Bool × Bool) :=
  routeWith (portUp s) own dst detour wrongWay inPort

/-- The channel a packet uses on a link: 0 where it enters a dimension, 1 once it has crossed the link
between the last coordinate and 0 (R407). -/
def vcOf (own outPort : Nat) (inPort : Option Nat) (vc : Bool) : Bool :=
  let dim := outPort / 2
  let x := coordOf own dim
  let wrap := if outPort % 2 = 0 then decide (x = ringSize dim - 1) else decide (x = 0)
  let kept := match inPort with
    | some i => decide (i / 2 = dim) && vc
    | none => false
  wrap || kept

/-! ### Sending -/

/-- Whether a packet costs a credit: transport packets with a payload (R397, R402). -/
def costs (k : Pkt) : Bool :=
  match k with
  | .openShip .. => true
  | .write .. => true
  | _ => false

/-- Send one packet: it takes the next seq, is held for replay, and uses a credit (R399 to R402). -/
def sendNow (p : PortNo) (o : PktOut) (s : State) : State :=
  let x := port s p.val
  let h := { o.h with seq := x.txSeq, ack := x.rxNext - 1#32, nack := false }
  let c := if costs o.k then 1 else 0
  let y := { x with txSeq := x.txSeq + 1#32, held := x.held ++ [{ h := h, k := o.k }],
                    credit0 := if o.h.vc then x.credit0 else x.credit0 - c,
                    credit1 := if o.h.vc then x.credit1 - c else x.credit1 }
  countEv 0x70 p.val none 1 (emit (.packet p h o.k) (setPort p.val y s))

/-- Whether a packet may go now: the port carries, the replay buffer has room, the channel has a credit. -/
def mayGo (s : State) (p : PortNo) (o : PktOut) : Bool :=
  let x := port s p.val
  portUp s p.val && decide (x.held.length < 512)
    && (!costs o.k || decide (0 < if o.h.vc then x.credit1 else x.credit0))

/-- Send queued packets in order while the head may go; at most n of them. -/
def pump (n : Nat) (p : PortNo) (s : State) : State :=
  match n with
  | 0 => s
  | k + 1 =>
    match (port s p.val).queue with
    | [] => s
    | o :: rest =>
      if mayGo s p o then pump k p (sendNow p o (setPort p.val { (port s p.val) with queue := rest } s)) else s

/-- Queue a packet at a port and send what may go. -/
def queueAt (p : PortNo) (o : PktOut) (s : State) : State :=
  let x := port s p.val
  pump (x.queue.length + 1) p (setPort p.val { x with queue := x.queue ++ [o] } s)

def Hdr.fresh (dst src : Byte) (tag : Place) (vc detour wrongWay : Bool) : PktHdr :=
  { vc := vc, nack := false, crdVc := false, crd := 0#12, seq := 0#32, ack := 0#32, dst := dst, src := src,
    detour := detour, wrongWay := wrongWay, tag := tag }

/-- Originate a transport packet: over a given port, or by routing (R407). None where no port is usable. -/
def originate (dst : Byte) (tag : Place) (k : Pkt) (via : Option Nat) (s : State) : Option State :=
  match ownPos s with
  | none => none
  | some own =>
    let r := match via with
      | some p => if portKept s p then some (p, false, false) else none
      | none => routeOf s own.toNat dst.toNat false false 0
    match r with
    | none => none
    | some (p, dt, ww) =>
      let h := Hdr.fresh dst own tag (vcOf own.toNat p none false) dt ww
      let mine := match k with
        | .openShip .. => true
        | .write .. => true
        | .flagSet .. => true
        | _ => false
      let slow := mine && ((port s p).fallback || islClip s (islLk p) || s.pwr.holding)
      some (queueAt (Fin.ofNat 6 p) { h := h, k := k } (clipDesc tag slow s))

/-- Originate by routing; a packet with no path is dropped. -/
def reply (dst : Byte) (tag : Place) (k : Pkt) (s : State) : State := (originate dst tag k none s).getD s

/-- A LACK: acknowledgement, nack and the credits to return (R397, R399, R402). -/
def sendLack (p : PortNo) (nack : Bool) (s : State) : State :=
  let x := port s p.val
  let vc := decide (x.back0 = 0) && decide (0 < x.back1)
  let n := min 4095 (if vc then x.back1 else x.back0)
  let h : PktHdr := { vc := false, nack := nack, crdVc := vc, crd := BitVec.ofNat 12 n, seq := 0#32,
                      ack := x.rxNext - 1#32, dst := 0#8, src := 0#8, detour := false, wrongWay := false, tag := 0 }
  let y := { x with nackSent := nack || x.nackSent, back0 := if vc then x.back0 else x.back0 - n,
                    back1 := if vc then x.back1 - n else x.back1 }
  if portUp s p.val then emit (.packet p h .lack) (setPort p.val y s) else s

/-! ### Port states (15 R393 to R408) -/

def pstateCode (x : PState) : Nat :=
  match x with
  | .down => 0 | .train => 1 | .quarantine => 2 | .looped => 3 | .degraded => 4 | .up => 5

/-- The plan's entry of a port. -/
def planPort (s : State) (p : Nat) : Option PlanPort := s.lnk.plan.bind (fun pl => pl.ports[p]?)

/-- Log a change of a port's state (R404, 19 Table 19.9). -/
def logPort (p : Nat) (s : State) : State :=
  let x := port s p
  let e := planPort s p
  let far := (e.map (fun y => y.far.toNat)).getD 0
  let farP := (e.map (fun y => y.farPort.toNat)).getD 0
  let rp := (x.ident.map (fun i => i.pos.toNat)).getD 0
  let rport := (x.ident.map (fun i => i.port.toNat)).getD 0
  logDev 0x06 (pstateCode x.st) (locOf 4 p) (far + farP * 2 ^ 8 + rp * 2 ^ 16 + rport * 2 ^ 24 + x.lanes * 2 ^ 28)
    ((x.ident.map (fun i => i.serial.toNat)).getD 0) s

/-- The module's index x + 8y + 64z (R412). -/
def ownIndex (s : State) : Nat := ((ownPos s).map (fun b => b.toNat)).getD 0

/-- Root, dist and parent from the last TSYNCs of the ports that are UP or DEGRADED (R412). A root heard equal
to the module's own index is its own echo (DEDUCED, log entry 34). -/
def chooseParent (s : State) : State :=
  let own := ownIndex s
  let heard := (List.range 6).filterMap (fun p =>
    if portUp s p then (port s p).lastTsync.map (fun t => (t.1.root.toNat, t.1.dist.toNat, p)) else none)
  let best := heard.foldl (fun a b => match a with
    | none => some b
    | some c => if b.1 < c.1 ∨ (b.1 = c.1 ∧ (b.2.1 < c.2.1 ∨ (b.2.1 = c.2.1 ∧ b.2.2 < c.2.2))) then some b else some c)
    (none : Option (Nat × Nat × Nat))
  match best with
  | some (r, dist, p) =>
    if own ≤ r then { s with lnk := { s.lnk with root := BitVec.ofNat 9 own, dist := 0#4, parent := none } }
    else { s with lnk := { s.lnk with root := BitVec.ofNat 9 r, dist := BitVec.ofNat 4 (min 15 (dist + 1)),
                                      parent := some (Fin.ofNat 6 p) } }
  | none => { s with lnk := { s.lnk with root := BitVec.ofNat 9 own, dist := 0#4, parent := none } }

/-- The payload of an IDENT this port sends (Table 15.4). -/
def ownIdent (s : State) (p : PortNo) : IdentPl :=
  { rackId := (s.lnk.plan.map (fun x => x.rackId)).getD 0#32, planGen := (s.lnk.plan.map (fun x => x.gen)).getD 0#32,
    pos := (ownPos s).getD 0#8, port := BitVec.ofNat 3 p.val, laneOk := (port s p.val).good, serial := Config.serial,
    rxNext := (port s p.val).rxNext }

def localHdr : PktHdr := Hdr.fresh 0#8 0#8 0 false false false

/-- Queued and held packets go back to staging when the port leaves UP or DEGRADED for another state than
TRAIN, or does not come back from TRAIN (R405; log entry 107). They hold no buffer of the port's channels. -/
def restage (x : Port) : Port := { x with restaged := x.restaged ++ x.held ++ x.queue, held := [], queue := [] }

/-- A port changes state: the change is logged, an entry into UP or DEGRADED sends an IDENT (R403), and the parent is
chosen again among the ports that carry (R412). A port that leaves DOWN and TRAIN has not stayed there (18 R470). -/
def enterState (p : Nat) (st : PState) (s : State) : State :=
  let x := port s p
  if x.st = st then s
  else
    let carries := decide (st = .up ∨ st = .degraded)
    let y := if carries || decide (st = .train) then x else restage x
    let waived := if st = .down ∨ st = .train then s.boot.portWaived else s.boot.portWaived &&& ~~~(1#6 <<< p)
    let s1 := chooseParent (logPort p (setPort p { y with st := st } { s with boot := { s.boot with portWaived := waived } }))
    if carries then emit (.packet (Fin.ofNat 6 p) localHdr (.ident (ownIdent s1 (Fin.ofNat 6 p)))) s1 else s1

/-- Entry into TRAIN: a pending LNK_LANE commit takes effect (R393). -/
def enterTrain (p : Nat) (s : State) : State :=
  let g := lnkLaneOf s p
  let s1 := match g.waiting with
    | some v =>
      { s with dev := { s.dev with
          lnkLane := tset LnkLane.reset s.dev.lnkLane p { g with inForce := v, waiting := none } } }
    | none => s
  enterState p .train s1

/-- The lane groups of R395: lanes and first lane. -/
def laneGroups : List (Nat × Nat) := [(8, 0), (4, 0), (4, 4), (2, 0), (2, 2), (2, 4), (2, 6)]

/-- The first group, no larger than `most`, whose lanes are good at both ends (R395). -/
def pickGroup (good far : BitVec 8) (most : Nat) : Option (Nat × Nat) :=
  laneGroups.find? (fun g => decide (g.1 ≤ most)
    && (List.range g.1).all (fun i => (good &&& far).getLsbD (g.2 + i)))

/-- Buffers of 256 bytes on one channel of a port's link staging (R402, 02 R55). -/
def stagingCredits (s : State) (p : Nat) : Nat := lkStageBlocks s p * 128

/-- Return from TRAIN to UP or DEGRADED (R401, R402): the same partner resumes from the far end's rx_next, a new one
starts at seq 0 and held packets are routed again. The far end's buffers are taken as this module's (DESIGN CHOICE,
entry 33). -/
def resumePort (p : PortNo) (pl : IdentPl) (s : State) : State :=
  let x := port s p.val
  let n := stagingCredits s p.val
  let y := { x with credit0 := n, credit1 := n, partner := some pl.serial, stalls := 0, nackSent := false }
  if x.partner = some pl.serial then
    let kept := x.held.filter (fun o => !(later pl.rxNext o.h.seq))
    setPort p.val { y with held := kept, txSeq := if kept = [] then pl.rxNext else x.txSeq } s
  else setPort p.val { y with txSeq := 0#32, rxNext := 0#32, restaged := x.restaged ++ x.held, held := [] } s

/-- Send the packets held for replay (R400, R401). -/
def sendHeld (p : PortNo) (s : State) : State := (port s p.val).held.foldl (fun s' o => emit (.packet p o.h o.k) s') s

/-- Judge a port's last IDENT (R404). -/
def judgePort (p : PortNo) (s : State) : State :=
  let x := port s p.val
  match x.ident with
  | none => s
  | some pl =>
    if x.st = .down then s
    else if pl.serial = Config.serial then enterState p.val .looped s
    else
      match s.lnk.plan, planPort s p.val with
      | some plan, some e =>
        if !e.enabled then enterState p.val .quarantine s
        else if pl.rackId ≠ plan.rackId ∨ pl.pos ≠ e.far ∨ pl.port ≠ e.farPort then enterState p.val .quarantine s
        else
          match pickGroup x.good x.farGood (min (lnkLaneOf s p.val).inForce.lanes.toNat e.lanes) with
          | none => enterState p.val .down s
          | some (n, k) =>
            let was := portUp s p.val
            let s1 := setPort p.val { x with lanes := n, first := k } s
            let s2 := if was then s1 else resumePort p pl s1
            let s3 := enterState p.val (if n < e.lanes then .degraded else .up) s2
            let s3 := if was then s3 else sendHeld p s3
            pump (port s3 p.val).queue.length p s3
      | _, _ => enterState p.val .quarantine s

/-! ### Receiving at the link level (15 R399, R400) -/

/-- Send every held packet again: one more replay without an advance. -/
def replayFrom (p : PortNo) (s : State) : State :=
  let x := port s p.val
  let s1 := setPort p.val { x with replays := x.replays + 1#32, stalls := x.stalls + 1 } s
  countEv 0x71 p.val none 1 (sendHeld p s1)

/-- A cause for a replay: after eight without an advance the port trains (R400). -/
def replayOrTrain (p : PortNo) (s : State) : State :=
  let x := port s p.val
  if x.held = [] then s
  else if 8 ≤ x.stalls then enterTrain p.val (setPort p.val { x with stalls := 0 } s)
  else replayFrom p s

/-- What every arriving header carries: an acknowledgement, a nack, credits. -/
def takeHeader (p : PortNo) (h : PktHdr) (s : State) : State :=
  let x := port s p.val
  let kept := x.held.filter (fun o => later o.h.seq h.ack)
  let y := { x with held := kept, stalls := if kept.length < x.held.length then 0 else x.stalls,
                    credit0 := if h.crdVc then x.credit0 else x.credit0 + h.crd.toNat,
                    credit1 := if h.crdVc then x.credit1 + h.crd.toNat else x.credit1 }
  let s1 := setPort p.val y s
  let s2 := if h.nack then replayOrTrain p s1 else s1
  pump y.queue.length p s2

/-- Discard a packet: one nack until the expected seq arrives (R399). -/
def discard (p : PortNo) (s : State) : State := if (port s p.val).nackSent then s else sendLack p true s

/-- Accept a transport packet in sequence and acknowledge it, or discard it; whether it was accepted. -/
def takeTransport (p : PortNo) (h : PktHdr) (s : State) : State × Bool :=
  if !portUp s p.val then (s, false)
  else if h.seq = (port s p.val).rxNext then
    let s1 := takeHeader p h s
    let x := port s1 p.val
    (sendLack p false (setPort p.val { x with rxNext := x.rxNext + 1#32, nackSent := false } s1), true)
  else (discard p (takeHeader p h s), false)

/-- Buffers of a port's link staging in use, out of how many (08 Table 8.1): panic once three quarters are, until fewer than
half are. -/
def notePanic (p : PortNo) (s : State) : State :=
  let x := port s p.val
  let used := x.staged.length + x.restaged.length
  let room := 2 * stagingCredits s p.val
  let on := if used = 0 ∨ 2 * used < room then false else if 3 * room ≤ 4 * used then true else x.panic
  setPort p.val { x with panic := on } s

/-- Return a credit: a payload packet has left staging (R402). -/
def giveBack (p : PortNo) (vc : Bool) (s : State) : State :=
  let x := port s p.val
  setPort p.val (if vc then { x with back1 := x.back1 + 1 } else { x with back0 := x.back0 + 1 }) s

/-- Hold a packet for another module in staging until PACKET_FORWARD takes it (R407). -/
def stage (p : PortNo) (o : PktOut) (s : State) : State :=
  let x := port s p.val
  notePanic p (setPort p.val { x with staged := x.staged ++ [o] } s)

/-- An arriving transport packet: `here` acts on one that is addressed to this module. -/
def arrive (p : PortNo) (h : PktHdr) (k : Pkt) (here : State → State) (s : State) : State :=
  let r := takeTransport p h s
  if !r.2 then r.1
  else if ownPos s = some h.dst then
    let s1 := here r.1
    if costs k then giveBack p h.vc s1 else s1
  else stage p { h := h, k := k } r.1

/-! ### Shipments at the destination (15 R409, R410; 14 R383, R385) -/

def findShip (s : State) (src : Byte) (tag : Place) : Option ShipIn :=
  s.serve.shipsIn.find? (fun x => decide (x.src = src ∧ x.tag = tag))

def dropShip (src : Byte) (tag : Place) (s : State) : State :=
  { s with serve := { s.serve with
      shipsIn := s.serve.shipsIn.filter (fun x => decide (¬(x.src = src ∧ x.tag = tag))) } }

def putShip (x : ShipIn) (s : State) : State :=
  let s1 := dropShip x.src x.tag s
  { s1 with serve := { s1.serve with shipsIn := s1.serve.shipsIn ++ [x] } }

/-- The order of the receiving function, latched at this boundary, that took a page of a shipment's list: a PAGE_RETURN, or the
function's FLR (R414). -/
def shipRival (s : State) (f : Nat) (x : ShipIn) : Option Order :=
  match (x.pages.filter (fun pg => decide (pageOwner s pg ≠ f + 1))).findSome? (fun pg => rival s (.page pg) [.pages]) with
  | some a => some a
  | none => rival s (.ring (Fin.ofNat 256 f)) [.flr]

/-- Judge a shipment whose whole list is here: the flag in a flag range, every page granted to its function (14 R383). Where an
order of the function at the same boundary took a page, the function's applies first and the shipment is preempted
(04 R123, R124; Table 15.9). -/
def judgeShip (x : ShipIn) (s : State) : State :=
  match flagOwner s x.flag.toNat with
  | some f =>
    if inFlagRange s f x.flag.toNat ∧ x.pages.all (fun pg => decide (pageOwner s pg = f + 1)) then
      reply x.src x.tag (.openReply 0#2) (putShip { x with func := Fin.ofNat 256 f, accepted := true } s)
    else
      let t := dropShip x.src x.tag s
      match (if inFlagRange s f x.flag.toNat then shipRival s f x else none) with
      | some a =>
        let me : Order := { obj := a.obj, req := .pages, master := 3, func := 0xFF#8, hsn := 0#32 }
        reply x.src x.tag (.openReply 2#2) (logCollision a me true t)
      | none => reply x.src x.tag (.openReply 1#2) t
  | none => reply x.src x.tag (.openReply 1#2) (dropShip x.src x.tag s)

/-- One part of an OPEN's list; part 0 opens the shipment anew (R409, R410). -/
def openPart (src : Byte) (tag : Place) (flag : BitVec 14) (part : Nat) (last : Bool) (pages : List U32)
    (s : State) : State :=
  let ids := (pages.filter (fun v => decide (v ≠ 0xFFFFFFFF#32))).map (fun v => v.toNat)
  let base : Option ShipIn :=
    if part = 0 then
      some { src := src, tag := tag, flag := flag, func := 0, pages := [], parts := 0, accepted := false, got := [] }
    else (findShip s src tag).bind (fun x => if x.parts = part then some x else none)
  match base with
  | none => s
  | some x =>
    let y := { x with pages := x.pages ++ ids, parts := part + 1 }
    if last then judgeShip y (putShip y s) else putShip y s

/-- Whether a further shipment must wait: 64 are open (R410). -/
def shipsFull (s : State) (src : Byte) (tag : Place) (part : Nat) : Bool :=
  decide (part = 0) && decide (64 ≤ s.serve.shipsIn.length) && (findShip s src tag).isNone

/-- A staged packet is an OPEN of this shipment. -/
def opensShip (src : Byte) (tag : Place) (o : PktOut) : Bool :=
  match o.k with
  | .openShip .. => decide (o.h.src = src ∧ o.h.tag = tag)
  | _ => false

/-- An OPEN waits in staging: 64 shipments are open, or an earlier OPEN of its shipment waits there (R410). -/
def openWaits (s : State) (src : Byte) (tag : Place) (part : Nat) : Bool :=
  shipsFull s src tag part || (List.range 6).any (fun i => (port s i).staged.any (opensShip src tag))

/-- Whether a staged OPEN can be served: the first part once a shipment may open, a later part once the one before it
has been. -/
def openReady (s : State) (src : Byte) (tag : Place) (part : Nat) : Bool :=
  if part = 0 then !shipsFull s src tag part
  else (findShip s src tag).any (fun x => decide (x.parts = part))

/-- OPEN -/
def execOpenShip (p : PortNo) (h : PktHdr) (flag : BitVec 14) (part : BitVec 6) (last : Bool)
    (pages : List U32) (s : State) : Host.Outcome State Fault Refusal :=
  let k := Pkt.openShip flag part last pages
  if ownPos s = some h.dst ∧ openWaits s h.src h.tag part.toNat then
    let r := takeTransport p h s
    ok (if r.2 then stage p { h := h, k := k } r.1 else r.1)
  else ok (arrive p h k (openPart h.src h.tag flag part.toNat last pages) s)

/-- The open shipment of its src that a WRITE belongs to: the one of its tag, else any that names the page (R410). -/
def shipFor (s : State) (h : PktHdr) (page : Nat) : Option ShipIn :=
  let ok_ (x : ShipIn) : Bool := decide (x.src = h.src) && x.accepted && decide (page ∈ x.pages)
  match s.serve.shipsIn.find? (fun x => ok_ x && decide (x.tag = h.tag)) with
  | some x => some x
  | none => s.serve.shipsIn.find? ok_

/-- The list entries of an open shipment that name a page. -/
def entriesOf (x : ShipIn) (page : Nat) : List Nat :=
  (List.range x.pages.length).filter (fun i => decide (x.pages[i]? = some page))

/-- WRITE at its destination: 256 bytes of a page of an open shipment commit at their owning slices; the last
segment of an entry draws its WRITE_ACK (R409, R410, 14 R384). -/
def writeHere (h : PktHdr) (page seg : Nat) (data : BitVec 2048) (poison : Bool) (s : State) : State :=
  match shipFor s h page with
  | none => bump 9 s
  | some x =>
    let s1 := (List.range 4).foldl
      (fun s' i =>
        let line := page * 1024 + seg * 4 + i
        commitLine (lineWords s' true line) (data.extractLsb' (512 * i) 512) (BitVec.allOnes 64) poison s') s
    let y := { x with got := if page * 256 + seg ∈ x.got then x.got else (page * 256 + seg) :: x.got }
    let s2 := putShip y s1
    let done := (y.got.filter (fun n => decide (n / 256 = page))).length
    if done = 256 then
      (entriesOf x page).foldl (fun s' i => reply h.src x.tag (.writeAck (BitVec.ofNat 12 i)) s') s2
    else s2

/-- WRITE -/
def execWrite (p : PortNo) (h : PktHdr) (page : BitVec 23) (segment : Byte) (data : BitVec 2048) (poison : Bool)
    (s : State) : Host.Outcome State Fault Refusal :=
  ok (arrive p h (.write page segment data poison) (writeHere h page.toNat segment.toNat data poison) s)

/-- The winner that a PREEMPTED by a peer's reply names: its master and its function (04 Table 4.8), which the reply does not
give (log entry 32). -/
def winnerWord (s : State) : Nat := bits (Config.winner s.freeCtr).toNat 0 2 + bits (Config.winner s.freeCtr).toNat 8 8 * 2 ^ 8

/-- A remote set at its destination (12 R325, R339; 14 R385): whether it is applied. -/
def remoteSet (n : Nat) (s : State) : State × Bool :=
  match flagOwner s n with
  | some f =>
    if inFlagRange s f n ∧ !wordFaulted s .shared n then (countEv 0x62 0 (some (Fin.ofNat 256 f)) 1 (setFlag .shared n 4 s), true)
    else (bump 6 s, false)
  | none => (bump 6 s, false)

/-- A peer's set at its destination, and the reply's code (12 R325, R338; 15 Table 15.3): refused outside a function's range;
preempted where the function's own set or clear of the flag is latched at the same boundary (04 R123). -/
def peerSet (n : Nat) (s : State) : State × Nat :=
  match (flagOwner s n).bind (fun f => if inFlagRange s f n ∧ !wordFaulted s .shared n then rival s (.flag n) [.flagOp] else none) with
  | some a => (logCollision a { obj := .flag n, req := .flagOp, master := 3, func := 0xFF#8, hsn := 0#32 } true s, 2)
  | none =>
    let r := remoteSet n s
    (r.1, if r.2 then 0 else 1)

/-- FLAG_SET at its destination: a shipment's lines are written back first, then the flag is set and the
shipment ends (14 R385, 15 R410). -/
def flagHere (h : PktHdr) (flag : BitVec 14) (ship : Bool) (s : State) : State :=
  if ship then
    match findShip s h.src h.tag with
    | none => reply h.src h.tag (.flagReply 1#2) (bump 6 s)
    | some x =>
      let ws := (dirtyWords s).filter (fun w =>
        let l := locLocal (logicalLoc s (wordLoc w))
        decide (l.1 * 4096 + l.2 / 2 ^ 16 ∈ x.pages))
      let r := peerSet flag.toNat (writeBackAll ws s)
      reply h.src h.tag (.flagReply (BitVec.ofNat 2 r.2)) (dropShip h.src h.tag r.1)
  else
    let r := peerSet flag.toNat s
    reply h.src h.tag (.flagReply (BitVec.ofNat 2 r.2)) r.1

/-- FLAG_SET -/
def execFlagSetPacket (p : PortNo) (h : PktHdr) (flag : BitVec 14) (ship : Bool) (s : State) :
    Host.Outcome State Fault Refusal :=
  ok (arrive p h (.flagSet flag ship) (flagHere h flag ship) s)

/-- The pages an open shipment has written before it is aborted are undefined (R410). -/
def undefineShip (src : Byte) (tag : Place) (s : State) : State :=
  match findShip s src tag with
  | some x => scribble ((x.pages.filter (fun g => x.got.any (fun n => decide (n / 256 = g)))).flatMap
      (fun g => spanWords s { loc := true, line := g * 1024, lines := 1024 })) s
  | none => s

/-- ABORT ends the open shipment (R410). -/
def execAbort (p : PortNo) (h : PktHdr) (s : State) : Host.Outcome State Fault Refusal :=
  ok (arrive p h .abort (fun s' => dropShip h.src h.tag (undefineShip h.src h.tag s')) s)

/-! ### Shipments at the source (14 R382 to R385, R389; 15 R409 to R411) -/

/-- Ports of a mask, in ascending order. -/
def maskPorts (m : BitVec 6) : List Nat := (List.range 6).filter (fun i => m.getLsbD i)

/-- The 256 bytes of segment seg of a page, and their poison. -/
def pageSeg (s : State) (pg seg : Nat) : BitVec 2048 × Bool :=
  let ls := (List.range 4).map (fun i => marlLine s (lineWords s true (pg * 1024 + seg * 4 + i)))
  (BitVec.ofNat 2048 (leNat (ls.flatMap (fun l => leBytes 64 l.1.toNat))), ls.any (fun l => l.2))

/-- Pages shipped and ports used, as a SHIP's detail word gives them (04 Table 4.8): the entries acknowledged, the ports that
its packets have gone over. -/
def shipDetail (x : ShipOut) : Nat := satNat 13 (x.pairs.length - x.unacked.length) + x.used.toNat * 2 ^ 16

/-- A shipment's record, and its descriptor's detail with it. -/
def putShipOut (p : Place) (x : ShipOut) (s : State) : State :=
  let s1 := { s with serve := { s.serve with shipsOut := tput s.serve.shipsOut p.val x } }
  match desc s1 p with
  | some d => setDesc p { d with detail := BitVec.ofNat 64 (shipDetail x) } s1
  | none => s1

/-- A packet of a shipment goes over a port: of its mask, or by routing. -/
def noteUsed (p : Place) (via : Option Nat) (s : State) : State :=
  match tfind s.serve.shipsOut p.val with
  | none => s
  | some x =>
    let port_ := match via with
      | some i => some i
      | none => (match ownPos s with
        | some own => (routeOf s own.toNat x.dest.toNat false false 0).map (fun (r : Nat × Bool × Bool) => r.1)
        | none => none)
    match port_ with
    | some i => putShipOut p { x with used := x.used ||| (1#6 <<< i) } s
    | none => s

/-- Send the 256 WRITE packets of entry k over its port (14 R384). -/
def sendEntry (p : Place) (x : ShipOut) (k : Nat) (s : State) : State :=
  let ports := maskPorts x.ports
  let via := if ports = [] then none else ports[k % ports.length]?
  let pr := x.pairs.getD k (0, 0)
  (List.range 256).foldl
    (fun s' i =>
      let d := pageSeg s' pr.1 i
      let s1 := if d.2 then
          match tfind s'.serve.shipsOut p.val with
          | some y => { s' with serve := { s'.serve with shipsOut := tput s'.serve.shipsOut p.val { y with poisoned := true } } }
          | none => s'
        else s'
      (originate x.dest p (.write (BitVec.ofNat 23 pr.2) (BitVec.ofNat 8 i) d.1 d.2) via s1).getD s1)
    (noteUsed p via s)

/-- End a SHIP or a SIGNAL of a place; a SIGNAL's context drains. -/
def endRemote (p : Place) (st : Status) (detail : Nat) (s : State) : State :=
  match desc s p with
  | none => s
  | some d =>
    match d.ctx with
    | some x =>
      let s1 := addCond p st (setDesc p { d with detail := BitVec.ofNat 64 detail } s)
      match ctx s1 x.val with
      | some c => settleCtx x (drainCtx x (setCtx x.val { c with sets := 0 } s1))
      | none => s1
    | none => endDesc p st detail s

/-- End a SHIP that was accepted without its flag: ABORT goes while a route remains (R410). -/
def abortShip (p : Place) (st : Status) (s : State) : State :=
  match tfind s.serve.shipsOut p.val with
  | some x =>
    let s1 := if x.opened then reply x.dest p .abort s else s
    endDesc p st (shipDetail x) { s1 with serve := { s1.serve with shipsOut := terase s1.serve.shipsOut p.val } }
  | none => endDesc p st 0 s

/-- Whether a path exists for a shipment's packets: over a port of its mask, or by routing. -/
def pathFor (s : State) (dst : Byte) (m : BitVec 6) : Bool :=
  match maskPorts m with
  | [] => match ownPos s with
    | some own => (routeOf s own.toNat dst.toNat false false 0).isSome
    | none => false
  | l => l.all (portUp s)

/-- The OPEN packets of a shipment (R409): up to 64 pages each, unused words all ones. -/
def openParts (x : ShipOut) : List Pkt :=
  let n := (x.pairs.length + 63) / 64
  (List.range n).map (fun i =>
    let ids := ((x.pairs.drop (64 * i)).take 64).map (fun q => BitVec.ofNat 32 q.2)
    .openShip x.flag (BitVec.ofNat 6 i) (decide (i + 1 = n)) (ids ++ List.replicate (64 - ids.length) 0xFFFFFFFF#32))

def sendOpens (p : Place) (x : ShipOut) (s : State) : State :=
  (openParts x).foldl (fun s' k => (originate x.dest p k (maskPorts x.ports)[0]? s').getD s')
    (noteUsed p (maskPorts x.ports)[0]? s)

/-- SHIP: judged at admission, then the list goes to the destination (14 R382, R383; 15 R409). -/
def execShip (p : Place) (list : List U64) (s : State) : Host.Outcome State Fault Refusal :=
  match startable s p 0x40 with
  | none => ok s
  | some d =>
    let w := wordAt d.words 1
    let n := bits (wordAt d.words 3) 0 13
    let dst : Byte := BitVec.ofNat 8 (bits w 0 8)
    let ports : BitVec 6 := BitVec.ofNat 6 (bits w 24 6)
    let pairs := (list.take n).map (fun v => (bits v.toNat 0 32, bits v.toNat 32 32))
    let alien := pairs.any (fun q => decide (pageOwner s q.1 ≠ d.func.val + 1 ∧ q.1 < 2 ^ 23))
    let rsv := pairs.any (fun q => decide (2 ^ 23 ≤ q.1 ∨ 2 ^ 23 ≤ q.2))
    let self := decide (ownPos s = some dst)
    let fenced := pairs.any (fun q => isFenced s (q.1 / 4096 / 128) (q.1 / 4096 / 64 % 2))
    let l0 := if pathFor s dst ports then [] else addStatus .linkDown []
    let l1 := if fenced then addStatus .fenced l0 else l0
    let l2 := if rsv || self then addStatus .rsvNonzero l1 else l1
    let l3 := if alien then addStatus .badTenant l2 else l2
    if l3 ≠ [] then
      let det := if alien then 0x10 else if self then 0x08 else if rsv then 0x10 else 0
      ok (setDesc p { d with stage := .ended, conds := l3, detail := BitVec.ofNat 64 det } s)
    else
      let x : ShipOut := { dest := dst, flag := BitVec.ofNat 14 (bits w 8 14), ports := ports, pairs := pairs,
                           parts := (n + 63) / 64, opened := false, unacked := List.range pairs.length,
                           used := 0#6, flagSent := false, poisoned := false }
      let s1 := setDesc p { d with stage := .running } s
      ok (sendOpens p x { s1 with serve := { s1.serve with shipsOut := tput s1.serve.shipsOut p.val x } })

/-- OPEN_REPLY at the source: acceptance starts the writes, a refusal or a preemption ends the SHIP; an acceptance of a
SHIP that has ended draws an ABORT (R410). A refusal does not say whether the flag or a page of the list is the field that
BAD_TENANT names (log entry 109). -/
def openReplyHere (src : Byte) (p : Place) (code : Nat) (s : State) : State :=
  match tfind s.serve.shipsOut p.val, desc s p with
  | some x, some d =>
    if x.opened then s
    else if d.stage ≠ .running then (if code = 0 then reply src p .abort s else s)
    else if code = 0 then
      let y := { x with opened := true }
      let s1 := setDesc p { d with committed := true } s
      let s2 := { s1 with serve := { s1.serve with shipsOut := tput s1.serve.shipsOut p.val y } }
      (List.range x.pairs.length).foldl (fun s' k => sendEntry p y k s') s2
    else if code = 1 then takeFree (endDesc p .badTenant (if Config.flagRefused s.freeCtr then 0x08 + 8 * 256 else 0x10) s)
    else takeFree (endDesc p .preempted (winnerWord s) s)
  | _, _ => if code = 0 then reply src p .abort s else s

/-- OPEN_REPLY -/
def execOpenReply (p : PortNo) (h : PktHdr) (code : BitVec 2) (s : State) : Host.Outcome State Fault Refusal :=
  ok (arrive p h (.openReply code) (openReplyHere h.src h.tag code.toNat) s)

/-- WRITE_ACK at the source: after the last one the flag set is sent (14 R385). -/
def writeAckHere (p : Place) (k : Nat) (s : State) : State :=
  match tfind s.serve.shipsOut p.val with
  | none => s
  | some x =>
    let y := { x with unacked := x.unacked.filter (fun i => decide (i ≠ k)) }
    let last := decide (y.unacked = []) && !y.flagSent
    let s1 := putShipOut p { y with flagSent := y.flagSent || last } s
    if last then (originate y.dest p (.flagSet y.flag true) (maskPorts y.ports)[0]? s1).getD s1 else s1

/-- WRITE_ACK -/
def execWriteAck (p : PortNo) (h : PktHdr) (entry : BitVec 12) (s : State) : Host.Outcome State Fault Refusal :=
  ok (arrive p h (.writeAck entry) (writeAckHere h.tag entry.toNat) s)

/-- FLAG_REPLY to a remote set of a context (12 R325): a refusal is a status of its descriptor, whose detail names the field
of the data that holds the set, the image of a RUN or the model slot of a STEP (04 R527; DEDUCED, log entry 109). -/
def ctxReplyHere (p : Place) (d : Desc) (code : Nat) (s : State) : State :=
  match d.ctx with
  | none => s
  | some x =>
    match ctx s x.val with
    | none => s
    | some c =>
      let s1 := setCtx x.val { c with sets := c.sets - 1 } s
      settleCtx x (if code = 1 then addCond p .badTenant (noteDetail p (if opcodeOf d.words = 0x10 then 0x08 else 0x10 + 16 * 256) s1)
                   else if code ≠ 0 then
                     let s2 := addCond p .preempted s1
                     match desc s2 p with
                     | some e => takeFree (setDesc p { e with detail := BitVec.ofNat 64 (winnerWord s) } s2)
                     | none => s2
                   else s1)

/-- FLAG_REPLY at the source: a SHIP or a SIGNAL ends (14 R385, R387). -/
def flagReplyHere (p : Place) (code : Nat) (s : State) : State :=
  match desc s p with
  | none => s
  | some d =>
    let op := opcodeOf d.words
    if d.stage ≠ .running then s
    else if op = 0x10 ∨ op = 0x11 then ctxReplyHere p d code s
    else if ¬(op = 0x40 ∨ op = 0x41) then s
    else if code = 1 then endRemote p .badTenant (if op = 0x40 then 0x08 + 8 * 256 else 0x08) s
    else if code ≠ 0 then takeFree (endRemote p .preempted (winnerWord s) s)
    else
      match tfind s.serve.shipsOut p.val with
      | some x => endRemote p (if x.poisoned then .poisoned else .done) (shipDetail x) s
      | none => endRemote p .done 0 s

/-- FLAG_REPLY -/
def execFlagReply (p : PortNo) (h : PktHdr) (code : BitVec 2) (s : State) : Host.Outcome State Fault Refusal :=
  ok (arrive p h (.flagReply code) (flagReplyHere h.tag code.toNat) s)

/-- A shipment loses a port, or a packet of it found no route: what is not acknowledged goes again over the
remaining ports of the mask or by a new route; with none left the SHIP ends LINK_DOWN (14 R389, 15 R411). -/
def rerouteShip (p : Place) (x : ShipOut) (s : State) : State :=
  let left := (maskPorts x.ports).filter (portKept s)
  let ports := (List.range 6).foldl (fun m i => if i ∈ left then m ||| (1#6 <<< i) else m) 0#6
  let none_ := if maskPorts x.ports = [] then !pathFor s x.dest 0#6 else decide (left = [])
  if none_ then abortShip p .linkDown s
  else
    let y := { x with ports := ports }
    let s1 := { s with serve := { s.serve with shipsOut := tput s.serve.shipsOut p.val y } }
    if !x.opened then sendOpens p y s1
    else if x.flagSent then (originate x.dest p (.flagSet x.flag true) left[0]? s1).getD s1
    else x.unacked.foldl (fun s' k => sendEntry p y k s') s1

/-- A packet of a type (Table 15.3) that its originating place sent: OPEN, WRITE or FLAG_SET. -/
def ownType (type : Nat) : Bool := decide (type = 0x08 ∨ type = 0x0A ∨ type = 0x0C)

/-- NOROUTE at the source (R411): the port it came in on counts as lost (log entry 108); one for a reply, an ABORT or a
NOROUTE ends nothing. -/
def norouteHere (p : Place) (inPort type : Nat) (s : State) : State :=
  if !ownType type then s
  else match tfind s.serve.shipsOut p.val, desc s p with
  | some x, _ =>
    let m := if maskPorts x.ports = [] then x.ports else x.ports &&& ~~~(1#6 <<< inPort)
    if maskPorts x.ports ≠ [] ∧ maskPorts m = [] then abortShip p .linkDown s else rerouteShip p { x with ports := m } s
  | none, some d =>
    if d.stage ≠ .running then s
    else if opcodeOf d.words = 0x41 then endRemote p .linkDown 0 s
    else if opcodeOf d.words = 0x10 ∨ opcodeOf d.words = 0x11 then addCond p .linkDown (ctxReplyHere p d 0 s)
    else s
  | none, none => s

/-- NOROUTE -/
def execNoroute (p : PortNo) (h : PktHdr) (type : BitVec 6) (s : State) : Host.Outcome State Fault Refusal :=
  ok (arrive p h (.noroute type) (norouteHere h.tag p.val type.toNat) s)

/-- A packet of a type outside Table 15.3: sequenced and acknowledged, a credit that its payload cost returned, then dropped and
counted (R398). -/
def execUnknownPacket (p : PortNo) (h : PktHdr) (_type : BitVec 6) (payload : Bool) (s : State) :
    Host.Outcome State Fault Refusal :=
  let r := takeTransport p h s
  ok (if r.2 then bump 7 (if payload then giveBack p h.vc r.1 else r.1) else r.1)

/-- The type number of a packet (Table 15.3). -/
def pktType (k : Pkt) : Nat :=
  match k with
  | .ident _ => 0x01 | .lack => 0x02 | .tsync _ => 0x03 | .openShip .. => 0x08 | .openReply _ => 0x09
  | .write .. => 0x0A | .writeAck _ => 0x0B | .flagSet .. => 0x0C | .flagReply _ => 0x0D | .abort => 0x0E
  | .noroute _ => 0x0F

/-- Whether PACKET_FORWARD may take a staged packet: an OPEN for this module only once it can be served. -/
def forwardable (s : State) (own : Byte) (o : PktOut) : Bool :=
  match o.k with
  | .openShip _ part _ _ => decide (o.h.dst ≠ own) || openReady s o.h.src o.h.tag part.toNat
  | _ => true

/-- A packet that finds no port: dropped and counted, its source told (R406, R411). -/
def noPath (p : PortNo) (own : Byte) (o : PktOut) (s : State) : State :=
  let s1 := bump 8 s
  if o.h.src = own then norouteHere o.h.tag p.val (pktType o.k) s1
  else reply o.h.src o.h.tag (.noroute (BitVec.ofNat 6 (pktType o.k))) s1

/-- Route a packet that a port handed back (R405, R407): one of this module's own from the start, one in transit as it
came, through the port opposite the one it was to leave by. -/
def rerouteOf (s : State) (own : Byte) (p : PortNo) (o : PktOut) : Option (Nat × Bool × Bool) :=
  if o.h.src = own then routeOf s own.toNat o.h.dst.toNat false false 0
  else routeOf s own.toNat o.h.dst.toNat o.h.detour o.h.wrongWay (p.val + 1 - 2 * (p.val % 2))

/-- PACKET_FORWARD: a packet that the port handed back is routed again, else the first staged packet of a channel that
came in on the port goes on (R406, R407), or an OPEN that waited for a free shipment is served. -/
def execPacketForward (p : PortNo) (vc : Bool) (s : State) : Host.Outcome State Fault Refusal :=
  let x := port s p.val
  match ownPos s with
  | none => ok s
  | some own =>
    match x.restaged.find? (fun o => decide (o.h.vc = vc)) with
    | some o =>
      let s0 := notePanic p (setPort p.val { x with restaged := x.restaged.erase o } s)
      match rerouteOf s0 own p o with
      | none => ok (noPath p own o s0)
      | some (q, dt, ww) =>
        let arrived := if o.h.src = own then none else some (p.val + 1 - 2 * (p.val % 2))
        let h := { o.h with vc := vcOf own.toNat q arrived vc, detour := dt, wrongWay := ww }
        ok (queueAt (Fin.ofNat 6 q) { h := h, k := o.k } s0)
    | none =>
      match x.staged.find? (fun o => decide (o.h.vc = vc) && forwardable s own o) with
      | none => ok s
      | some o =>
        let s0 := notePanic p (setPort p.val { x with staged := x.staged.erase o } s)
        let back (t : State) : State := if costs o.k then giveBack p vc t else t
        if o.h.dst = own then
          match o.k with
          | .openShip flag part last pages => ok (back (openPart o.h.src o.h.tag flag part.toNat last pages s0))
          | _ => ok (back s0)
        else
          match routeOf s own.toNat o.h.dst.toNat o.h.detour o.h.wrongWay p.val with
          | none => ok (noPath p own o (back s0))
          | some (q, dt, ww) =>
            let h := { o.h with vc := vcOf own.toNat q (some p.val) vc, detour := dt, wrongWay := ww }
            ok (queueAt (Fin.ofNat 6 q) { h := h, k := o.k } (back s0))

/-! ### Link-local packets and port events -/

/-- Shipments whose mask has lost its last port end LINK_DOWN, others go on over what is left (14 R389); a port that
trains is not lost (R405). -/
def checkShips (s : State) : State :=
  s.serve.shipsOut.foldl
    (fun s' q =>
      if h : q.1 < 1024 then
        if maskPorts q.2.ports ≠ [] ∧ (maskPorts q.2.ports).any (fun i => !portKept s' i) then rerouteShip ⟨q.1, h⟩ q.2 s'
        else s'
      else s')
    s

/-- IDENT: stored, then judged (R403, R404). A DOWN port hears nothing (R405). -/
def execIdent (p : PortNo) (_h : PktHdr) (pl : IdentPl) (s : State) : Host.Outcome State Fault Refusal :=
  let x := port s p.val
  if x.st = .down then ok s
  else ok (checkShips (judgePort p (setPort p.val { x with ident := some pl, farGood := pl.laneOk } s)))

/-- LACK: an acknowledgement, a nack, credits (R399, R400, R402). -/
def execLack (p : PortNo) (h : PktHdr) (s : State) : Host.Outcome State Fault Refusal :=
  if portUp s p.val then ok (takeHeader p h s) else ok s

/-- The offset of R413, in ns: positive where the parent is ahead. -/
def tsyncOffset (pl : TsyncPl) (t4 : U64) : Int :=
  (((pl.echoRx - pl.echoTx).toInt) - ((t4 - pl.tx).toInt)) / 2

/-- TSYNC (R412, R413): from the parent, the one step before fabric ready, else the slew. -/
def execTsync (p : PortNo) (_h : PktHdr) (pl : TsyncPl) (s : State) : Host.Outcome State Fault Refusal :=
  let x := port s p.val
  if !(portUp s p.val || decide (x.st = .quarantine)) then ok s
  else
    let off := tsyncOffset pl (now s)
    let s1 := setPort p.val { x with lastTsync := some (pl, now s), offset := off } s
    let s2 := if portUp s p.val then chooseParent s1 else s1
    if s2.lnk.parent ≠ some p then ok s2
    else if s2.boot.fabricReady ∨ s2.clk.stepped then ok { s2 with clk := { s2.clk with slew := off } }
    else
      let new := BitVec.ofInt 64 ((now s).toInt + off)
      let s3 := { s2 with clk := { s2.clk with mtb := new, stepped := true, slew := 0 } }
      ok (logDev 0x06 (pstateCode x.st) (locOf 4 p.val) (now s).toNat new.toNat s3)

/-- The 10 ms timer of IDENT, in TRAIN, QUARANTINE and LOOPED (R403). -/
def execIdentSendTimer (p : PortNo) (s : State) : Host.Outcome State Fault Refusal :=
  match (port s p.val).st with
  | .train => ok (emit (.packet p localHdr (.ident (ownIdent s p))) s)
  | .quarantine => ok (emit (.packet p localHdr (.ident (ownIdent s p))) s)
  | .looped => ok (emit (.packet p localHdr (.ident (ownIdent s p))) s)
  | _ => ok s

/-- The 1 ms timer of TSYNC, in UP and DEGRADED (R412). A module with no root has dist 15. -/
def execTsyncSendTimer (p : PortNo) (s : State) : Host.Outcome State Fault Refusal :=
  if portUp s p.val then
    let l := (port s p.val).lastTsync
    let pl : TsyncPl := { tx := now s, echoTx := (l.map (fun t => t.1.tx)).getD 0#64,
                          echoRx := (l.map (fun t => t.2)).getD 0#64, root := s.lnk.root, dist := s.lnk.dist }
    ok (emit (.packet p localHdr (.tsync pl)) s)
  else ok s

/-- Signal on a lane of a DOWN port: it trains, every lane taken as good until one fails; what the training frames show of an
inverted polarity or a reversed lane order is corrected, and LNK_STATE reports it (R394, R405). -/
def execSignalDetect (p : PortNo) (polarity reversed : Bool) (s : State) : Host.Outcome State Fault Refusal :=
  let x := port s p.val
  if s.boot.relLk ∧ x.st = .down then
    ok (enterTrain p.val (setPort p.val { x with good := 0xFF#8, ident := none, polarity := polarity, reversed := reversed } s))
  else ok s

/-- No signal on every lane for 1 ms (R405). -/
def execLossOfSignal (p : PortNo) (s : State) : Host.Outcome State Fault Refusal :=
  ok (checkShips (enterState p.val .down s))

/-- A lane fails: the port trains and returns with the next group (R395). -/
def execLaneFailure (p : PortNo) (lane : Fin 8) (s : State) : Host.Outcome State Fault Refusal :=
  let x := port s p.val
  let s1 := setPort p.val { x with good := x.good &&& ~~~(1#8 <<< lane.val) } s
  ok (if portUp s p.val then enterTrain p.val s1 else s1)

/-- 2 µs without an acknowledgement: replay; after eight without an advance the port trains (R400). -/
def execReplayTimerExpiry (p : PortNo) (s : State) : Host.Outcome State Fault Refusal :=
  let x := port s p.val
  if portUp s p.val ∧ x.held ≠ [] then ok (replayOrTrain p s) else ok s

/-- Uncorrectable codewords past 10 in 1 ms on a lane: the port trains (R400). -/
def execCodewordErrorLimit (p : PortNo) (s : State) : Host.Outcome State Fault Refusal :=
  if portUp s p.val then ok (enterTrain p.val s) else ok s

/-- A received packet that R399 discards; a link-local one draws no nack (no counter of 19 counts it). -/
def execPacketDiscard (p : PortNo) (why : Discard) (_h : PktHdr) (s : State) : Host.Outcome State Fault Refusal :=
  match why with
  | .linkLocalCrc => ok s
  | _ => if portUp s p.val then ok (discard p s) else ok s

/-- Change a port's rate through TRAIN (R408). -/
def setRate (p : Nat) (fallback : Bool) (s : State) : State :=
  let x := port s p
  if x.fallback = fallback then s
  else
    let s1 := setPort p { x with fallback := fallback } s
    if portUp s p then enterTrain p s1 else s1

/-- The pin of a port (20 Table 20.9). -/
def ratePinOf (s : State) (p : Nat) : Nat := bits s.dev.ratePin.toNat (2 * p) 2

end Sys2Proof.Machine
end

