-- ==== Sys2Proof/Machine/Sequencer.lean ====
section
/-! DEFINITION. Sequencer contexts (09): RUN's admission, assignment, the load checks, the operations a
context issues, pushes into the engine queues, and waits. The code's encoding is private (R274): a command
carries what one operation does, positions count operations, and one operation moves on by one (log entry 20). -/

namespace Sys2Proof.Machine

/-! ### Footprints and assignment (09 R248, 02 R39) -/

/-- A footprint entry as a number: the region's index times 2^32 plus its region record (09 R270). -/
def fpEntry (c : Nat) : Nat × Nat × Option (Fin 4) :=
  (c / 2 ^ 32, bits c 0 16, if bitAt c 18 then none else some (Fin.ofNat 4 (bits c 16 2)))

def fpBlocks (fp : List Nat) : Nat := fp.foldl (fun n c => n + bits c 0 16) 0

/-- Whether a footprint ends with QUOTA at admission: over the function's free quota, or never placeable (02 R39). -/
def fpDenied (s : State) (f : Func) (fp : List Nat) : Bool :=
  decide (marlQuotaOf s f.val < blocksHeld s f + fpBlocks fp)
    || (placeAll s [] none none f (fp.map fpEntry)).isNone

/-- 16-byte record i of a table of an image. -/
def sqiRec (im : List Byte) (off i : Nat) : Nat × Nat := (leAt im (off + 16 * i) 8, leAt im (off + 16 * i + 8) 8)

/-- The footprint of entry e of an image: the regions its mask names (09 R269, R270). -/
def imageFp (im : List Byte) (e : Nat) : List Nat :=
  let mask := bits (sqiRec im (leAt im 0x20 4) e).2 0 32
  ((List.range (min 32 (leAt im 0x1C 2))).filter (bitAt mask)).map (fun i =>
    i * 2 ^ 32 + (sqiRec im (leAt im 0x24 4) i).1 % 2 ^ 32)

/-- RUN at admission: HOST reads the image's header, entry table and region table (09 R248, R271). -/
def execRun (p : Place) (image : List Byte) (s : State) : Host.Outcome State Fault Refusal :=
  match startable s p 0x10 with
  | none => ok s
  | some d =>
    let e := bits (wordAt d.words 2) 24 8
    let fp := imageFp image e
    if leAt image 0x1A 2 ≤ e then ok (endDesc p .rsvNonzero (0x10 + 256 * 24) s)
    else if fpDenied s d.func fp then ok (endDesc p .quota 0 s)
    else ok (setDesc p { d with stage := .ctxWait, prog := { d.prog with words := fp } } s)

/-- Whether a descriptor waits for a context. -/
def waitsForCtx (s : State) (d : Desc) : Bool :=
  let op := opcodeOf d.words
  match d.stage with
  | .ctxWait => true
  | .accepted => onContext op && decide (op ≠ 0x10 ∧ op ≠ 0x11) && mayStart s d
  | _ => false

def freeCtxs (s : State) (q : Nat) : List Nat :=
  ((List.range 8).map (fun i => 8 * q + i)).filter (fun x => (ctx s x).isNone)

/-- The sequencers a descriptor may run on (09 R248). -/
def eligibleSqs (d : Desc) : List Nat :=
  let sq := bits (wordAt d.words 2) 32 3
  if opcodeOf d.words = 0x10 ∧ sq < 4 then [sq] else [0, 1, 2, 3]

/-- The eligible sequencer with the most free contexts, the lowest-numbered on a tie; its lowest free context
(DESIGN CHOICE, log entry 28). -/
def pickCtx (s : State) (d : Desc) : Option Nat :=
  let best := (eligibleSqs d).foldl (fun a q =>
    if (freeCtxs s a).length < (freeCtxs s q).length then q else a) ((eligibleSqs d).headD 0)
  (freeCtxs s best).head?

/-- The context and the granted footprint that a waiting descriptor gets, if all three conditions hold. -/
def grantFor (s : State) (d : Desc) : Option (Nat × Tab Region × List (Nat × Nat)) :=
  match pickCtx s d with
  | none => none
  | some x =>
    let fp := if d.stage = .ctxWait then d.prog.words else []
    if marlQuotaOf s d.func.val < blocksHeld s d.func + fpBlocks fp ∧ fp ≠ [] then none
    else if 256 < scoreboardUsed s + fp.length then none
    else
      match placeAll s s.marl.regions (some (Fin.ofNat 32 x)) none d.func (fp.map fpEntry) with
      | some (rs, keys) => some (x, rs, keys)
      | none => none

/-- A context as it is assigned: every element of Table 9.2 is 0 (09 R253). -/
def Ctx.fresh (p : Place) (f : Func) (keys : List (Nat × Nat)) (t : U64) : Ctx :=
  { st := .load, place := p, func := f, image := none, entry := 0, pos := 0#32, vals := [], pendVals := [],
    gens := [], streams := [], loops := [], stack := [], args := [], regions := keys, wait := .nothing,
    since := t, seqFault := none, sets := 0, grains := [] }

/-- CONTEXT_ASSIGN: the oldest waiting descriptor of the module gets its footprint and its context in one step, once it can
be granted them (09 R248, R253). -/
def execContextAssign (p : Place) (s : State) : Host.Outcome State Fault Refusal :=
  match desc s p with
  | none => ok s
  | some d =>
    let older := s.places.any (fun q => decide (q.2.acc < d.acc) && waitsForCtx s q.2)
    if waitsForCtx s d ∧ !older then
      match grantFor s d with
      | none => ok s
      | some (x, rs, keys) =>
        let s1 := { s with marl := { s.marl with regions := rs } }
        let s2 := wipeFlags .loc (ownFlags x) s1
        let st := if opcodeOf d.words = 0x10 ∨ opcodeOf d.words = 0x11 then CState.load else CState.run
        let s3 := setCtx x { Ctx.fresh p d.func keys (now s) with st := st } s2
        ok (setDesc p { d with stage := .running, ctx := some (Fin.ofNat 32 x) } s3)
    else ok s

/-! ### The load checks (09 R268 to R273) -/

/-- Bytes of a range that must be 0. -/
def zeroBytes (im : List Byte) (off n : Nat) : Bool := ((im.drop off).take n).all (fun b => decide (b = 0#8))

/-- Whether the tables lie on 64-byte boundaries, past the header, within the image, apart from one another. -/
def tablesPlaced (im : List Byte) : Bool :=
  let n := leAt im 0x0C 4
  let tabs := [(leAt im 0x20 4, 16 * leAt im 0x1A 2), (leAt im 0x24 4, 16 * leAt im 0x1C 2),
               (leAt im 0x28 4, leAt im 0x2C 4)]
  let apart (a b : Nat × Nat) : Bool := decide (a.1 + a.2 ≤ b.1 ∨ b.1 + b.2 ≤ a.1)
  tabs.all (fun t => decide (t.1 % 64 = 0 ∧ 0x60 ≤ t.1 ∧ t.1 + t.2 ≤ n))
    && apart (tabs.getD 0 (0, 0)) (tabs.getD 1 (0, 0)) && apart (tabs.getD 0 (0, 0)) (tabs.getD 2 (0, 0))
    && apart (tabs.getD 1 (0, 0)) (tabs.getD 2 (0, 0))

/-- Whether an entry record is sound: its reserved bits, its args_min, its mask within the region table. -/
def entrySound (im : List Byte) (i : Nat) : Bool :=
  let r := sqiRec im (leAt im 0x20 4) i
  decide (r.1 / 2 ^ 48 = 0 ∧ r.2 / 2 ^ 32 = 0 ∧ bits r.1 32 16 ≤ 256 ∧ r.2 < 2 ^ leAt im 0x1C 2)

/-- Whether a region record is sound: its reserved bits, its blocks, its slot size; a stream's depth is 2 at least (R259,
DEDUCED, log entry 110). -/
def regionSound (im : List Byte) (i : Nat) : Bool :=
  let r := sqiRec im (leAt im 0x24 4) i
  decide (r.1 / 2 ^ 28 = 0 ∧ r.2 = 0 ∧ 1 ≤ bits r.1 0 16 ∧ bits r.1 0 16 ≤ 720 ∧ bits r.1 24 4 ≤ 8)
    && (!bitAt r.1 19 || decide (2 * 2 ^ (8 + bits r.1 24 4) ≤ bits r.1 0 16 * 65536))

/-- Check 4 of R272. -/
def imageFormatOk (im : List Byte) (len : Nat) : Bool :=
  let ne := leAt im 0x1A 2
  let nr := leAt im 0x1C 2
  decide (leAt im 0x0C 4 = len ∧ 1 ≤ ne ∧ ne ≤ 64 ∧ 1 ≤ nr ∧ nr ≤ 32) && tablesPlaced im
    && zeroBytes im 0x06 2 && zeroBytes im 0x0B 1 && zeroBytes im 0x1E 2 && zeroBytes im 0x30 16
    && (List.range ne).all (entrySound im) && (List.range nr).all (regionSound im)

def keptMatch (s : State) (sq : Nat) (k : Kept) : Bool := decide (k ∈ tget [] s.seq.kept sq)

/-- The code of the first load check that fails (09 R272). -/
def loadFault (s : State) (sq : Nat) (k : Kept) (im : List Byte) (e argsLen : Nat) : Option Nat :=
  let digest := BitVec.ofNat 256 (leAt im 0x40 32)
  if leAt im 0x00 4 ≠ 0x31495153 then some 0x01
  else if leAt im 0x04 2 ≠ 1 ∨ leAt im 0x18 2 ≠ 3 then some 0x02
  else if leAt im 0x08 2 ≠ 0x0002 ∨ leAt im 0x0A 1 ≠ 0x21 then some 0x03
  else if !imageFormatOk im k.len then some 0x04
  else if !keptMatch s sq k && decide (Config.sha256 ((im.drop 0x60).take (k.len - 0x60)) ≠ digest) then some 0x05
  else if argsLen < bits (sqiRec im (leAt im 0x20 4) e).1 32 16 then some 0x06
  else none

/-- Keep an image: the latest used last, at most 8 on a sequencer (09 R273). -/
def keepImage (sq : Nat) (k : Kept) (s : State) : State :=
  let l := (tget [] s.seq.kept sq).filter (fun y => decide (y ≠ k)) ++ [k]
  { s with seq := { s.seq with kept := tset [] s.seq.kept sq (l.drop (l.length - 8)) } }

/-- The streams that the regions of a footprint bind at the start (09 R259, R270). -/
def startStreams (fp : List Nat) : Tab Stream :=
  (fp.filter (fun c => bitAt c 19)).foldl
    (fun t c => tput t (bits c 20 4)
      { region := c / 2 ^ 32, slotLog := 8 + bits c 24 4, push := 0, pop := 0, producer := none,
        consumer := none, filled := [], done := 0 }) []

/-- The image of a RUN and its argument block have come in: the load checks, then the context runs (09 R272, R273). -/
def loadRun (x : CtxNo) (c : Ctx) (d : Desc) (image args : List Byte) (s : State) : State :=
  let e := bits (wordAt d.words 2) 24 8
  let n := bits (wordAt d.words 4) 0 16
  let k : Kept := { id := BitVec.ofNat 64 (leAt image 0x10 8), len := bits (wordAt d.words 2) 0 24, func := d.func }
  match loadFault s (x.val / 8) k image e n with
  | some code => faultCtx x code s
  | none =>
    let pos := BitVec.ofNat 32 (bits (sqiRec image (leAt image 0x20 4) e).1 0 32)
    let c1 := { c with image := some (k.id, k.len), entry := e, pos := pos, args := args.take (64 * n),
                       streams := startStreams d.prog.words }
    moveCtx x.val c1 .run (keepImage (x.val / 8) k s)

/-! ### Issuing an operation (09 R250, R254) -/

/-- The context x where it is in RUN. -/
def inRun (s : State) (x : CtxNo) : Option Ctx :=
  match ctx s x.val with
  | some c => if c.st = .run then some c else none
  | none => none

/-- The context whose operation sequencer q issues next: the first in RUN, round robin from after the one it served last
(09 R250); at first from context 0 (DESIGN CHOICE, log entry 28). -/
def turnOf (s : State) (q : Nat) : Option Nat :=
  ((List.range 8).map (fun i => 8 * q + (tget 7 s.seq.served q + 1 + i) % 8)).find? (fun x =>
    (ctx s x).any (fun c => decide (c.st = .run)))

/-- The context x where it is in RUN and its operation is the next that its sequencer issues. -/
def running (s : State) (x : CtxNo) : Option Ctx := if turnOf s (x.val / 8) = some x.val then inRun s x else none

/-- A sequencer has taken an operation of a context. -/
def serve (x : CtxNo) (s : State) : State :=
  { s with seq := { s.seq with served := tset 7 s.seq.served (x.val / 8) (x.val % 8) } }

/-- An operation that the sequencer has taken faults its context (09 R277). -/
def failOp (x : CtxNo) (code : Nat) (s : State) : State := faultCtx x code (serve x s)

/-- Where the loops stand once the position is reached: the innermost body goes round again, or its level closes (09 R254).
In a routine only the levels above the caller's are looked at (R265). -/
def settleLoops (n : Nat) (c : Ctx) : Ctx :=
  match n with
  | 0 => c
  | k + 1 =>
    match c.loops.getLast? with
    | none => c
    | some l =>
      if c.pos ≠ l.last ∨ c.loops.length ≤ (c.stack.getLast?.map (fun r => r.2)).getD 0 then c
      else if l.index + 1 < l.count then
        { c with pos := l.body, loops := c.loops.dropLast ++ [{ l with index := l.index + 1 }] }
      else settleLoops k { c with loops := c.loops.dropLast }

/-- The context goes on at a position. -/
def goTo (pos : U32) (c : Ctx) : Ctx := settleLoops 6 { c with pos := pos }

/-- One operation further. -/
def advance (c : Ctx) : Ctx := goTo (c.pos + 1#32) c

/-- Count an operation issued (19 Table 19.4) and store the context after it; one that was waiting enters RUN now
(19 Table 19.8). -/
def goOn (x : CtxNo) (c : Ctx) (s : State) : State :=
  let ran := (ctx s x.val).any (fun o => decide (o.st = .run))
  let s1 := setCtx x.val { c with since := if ran then c.since else now s } s
  countEv 0x60 (x.val / 8) (some c.func) 1 (clipDesc c.place (islClip s islSeq) s1)

/-- The sequencer issues an operation of a context, which goes on. -/
def issue (x : CtxNo) (c : Ctx) (s : State) : State := goOn x c (serve x s)

/-- The sequencer takes an operation of a context, which enters a wait. -/
def waitFor (x : CtxNo) (c : Ctx) (st : CState) (w : WaitFor) (s : State) : State :=
  let s1 := moveCtx x.val { c with wait := w } st (serve x s)
  if st = .waitFlag then { s1 with seq := { s1.seq with waits := s1.seq.waits ++ [x] } } else s1

/-- A value register. -/
def valOf (c : Ctx) (r : Nat) : U32 := tget 0#32 c.vals r

/-- The value of an operand, or the register whose pending write it must wait for (09 R263). -/
def valSrc (c : Ctx) (v : ValSrc) : U32 ⊕ Fin 16 :=
  match v with
  | .imm i => .inl i
  | .reg r => if r.val ∈ c.pendVals then .inr r else .inl (valOf c r.val)
  | .arg i => .inl (BitVec.ofNat 32 (leAt c.args (4 * i.val) 4))

/-- A loop's count as a source (09 R254), and a branch's second operand: its immediate is sign-extended (09 R264). -/
def countSrc (n : LoopCount) : ValSrc :=
  match n with
  | .reg r => .reg r
  | .imm v => .imm (v.setWidth 32)

def branchSrc (a : BranchArg) : ValSrc :=
  match a with
  | .reg r => .reg r
  | .imm v => .imm (v.signExtend 32)

/-- LOOP_OPEN: the next level opens, a count of 0 skips the body (09 R254). -/
def execLoopOpen (x : CtxNo) (count : LoopCount) (body bodyEnd : U32) (s : State) : Host.Outcome State Fault Refusal :=
  match running s x with
  | none => ok s
  | some c =>
    if 6 ≤ c.loops.length then ok (failOp x 0x12 s)
    else
      match valSrc c (countSrc count) with
      | .inr r => ok (waitFor x c .waitVal (.value r) s)
      | .inl n =>
        if n = 0#32 then ok (issue x (goTo bodyEnd c) s)
        else ok (issue x { c with loops := c.loops ++ [{ count := n.toNat, index := 0, body := body, last := bodyEnd }],
                                  pos := body } s)

/-- BRANCH (09 R264): on a condition of Table 6.3, to a position of the code. -/
def execBranch (x : CtxNo) (cond : Fin 9) (a : Fin 16) (b : BranchArg) (target : U32) (s : State) :
    Host.Outcome State Fault Refusal :=
  match running s x with
  | none => ok s
  | some c =>
    match valSrc c (.reg a), valSrc c (branchSrc b) with
    | .inr r, _ => ok (waitFor x c .waitVal (.value r) s)
    | _, .inr r => ok (waitFor x c .waitVal (.value r) s)
    | .inl v, .inl w =>
      if brTaken cond.val v w = some true then ok (issue x (goTo target c) s) else ok (issue x (advance c) s)

/-- A routine's number in the library, or in the patch RAM past it where a patch replaces it (09 R267). -/
def routineNo (s : State) (r : Nat) : Nat := if r ∈ s.boot.patched then 0x100 + r else r

/-- RETURN to the caller, with the caller's loop levels as they stood (09 R265). -/
def execRet (x : CtxNo) (s : State) : Host.Outcome State Fault Refusal :=
  match running s x with
  | none => ok s
  | some c =>
    match c.stack.getLast? with
    | none => ok (failOp x 0x14 s)
    | some (pos, depth) =>
      ok (issue x (goTo pos { c with stack := c.stack.dropLast, loops := c.loops.take depth }) s)

/-- VALUE_OP: a SALU function on value registers (09 R264). -/
def execValueOp (x : CtxNo) (fn d a b : Fin 16) (s : State) : Host.Outcome State Fault Refusal :=
  match running s x with
  | none => ok s
  | some c =>
    match valSrc c (.reg a), valSrc c (.reg b) with
    | .inr r, _ => ok (waitFor x c .waitVal (.value r) s)
    | _, .inr r => ok (waitFor x c .waitVal (.value r) s)
    | .inl v, .inl w =>
      ok (issue x (advance { c with vals := tset 0#32 c.vals d.val ((salu fn.val v w).getD 0#32) }) s)

/-- A generator as cleared (09 R253). -/
def Gen.reset : Gen := { region := 0, base := 0#32, strides := [] }
def genOf (c : Ctx) (g : Nat) : Gen := tget Gen.reset c.gens g

/-- GENERATOR_SET: region, base or a stride, for the next command pushed (09 R256). -/
def execGeneratorSet (x : CtxNo) (g : Fin 8) (fld : GenField) (v : ValSrc) (s : State) :
    Host.Outcome State Fault Refusal :=
  match running s x with
  | none => ok s
  | some c =>
    match valSrc c v with
    | .inr r => ok (waitFor x c .waitVal (.value r) s)
    | .inl w =>
      let o := genOf c g.val
      let n := match fld with
        | .base => { o with base := w }
        | .stride l => { o with strides := tset 0#32 o.strides l.val w }
        | .region r => { o with region := r.val }
      ok (issue x (advance { c with gens := tset Gen.reset c.gens g.val n }) s)

/-- CONTEXT_END: the context drains (09 R249). -/
def execContextEnd (x : CtxNo) (s : State) : Host.Outcome State Fault Refusal :=
  match running s x with
  | none => ok s
  | some c => ok (settleCtx x (countEv 0x60 (x.val / 8) (some c.func) 1 (drainCtx x (serve x s))))

/-! ### Pushes (09 R255 to R263) -/

/-- The queue's kind of engine carries the command (09 Table 9.3); the read of a region's word, which that table does not
place, goes to a Slip queue (DESIGN CHOICE, log entry 46). -/
def queueCarries (q : Nat) (k : EngCmd) : Bool :=
  match k with
  | .weightLoad .. => decide (q < 4)
  | .product .. => decide (q < 4)
  | .slip _ => decide (4 ≤ q ∧ q < 8)
  | .regionWord .. => decide (4 ≤ q ∧ q < 8)
  | .layout .. => decide (8 ≤ q ∧ q < 10)
  | _ => decide (10 ≤ q)

/-- The region a generator names: its key in the region table, where the context holds it. -/
def regionOf (c : Ctx) (r : Nat) : Option Nat := (c.regions.find? (fun k => decide (k.1 = r))).map (fun k => k.2)

/-- A region that a stream is bound to (09 R259). -/
def streamBound (c : Ctx) (r : Nat) : Bool := c.streams.any (fun t => decide (t.2.region = r))

/-- The byte offset a generator gives now, in signed 64-bit arithmetic (09 R255): strides are signed, the base is not (log
entry 35). -/
def genOff (c : Ctx) (g : Gen) : Int :=
  (BitVec.ofInt 64 ((List.range 6).foldl
    (fun n l => n + (tget 0#32 g.strides l).toInt * (((c.loops[l]?).map (fun v => v.index)).getD 0 : Nat))
    (g.base.toNat : Int))).toInt

/-- Bytes of a region. -/
def regionLen (s : State) (key : Nat) : Nat := ((tfind s.marl.regions key).map (fun r => r.blocks * 65536)).getD 0

/-- A region operand checked (09 R255, R258): its key and its offset, or a SEQ_FAULT code. -/
def regionOperand (s : State) (c : Ctx) (g : Fin 8) (size : Nat) : Except Nat (Nat × Nat) :=
  let o := genOf c g.val
  match regionOf c o.region with
  | none => .error 0x16
  | some key =>
    let off := genOff c o
    if streamBound c o.region then .error 0x16
    else if off < 0 ∨ (regionLen s key : Int) < off + size ∨ off % 64 ≠ 0 then .error 0x11
    else .ok (key, off.toNat)

/-- Words of the layout descriptor at a region offset; the first is ignored (11 R303). -/
def layoutWords (s : State) (key off : Nat) : List U64 :=
  (List.range 8).map (fun i => (readRegion s key off).data.extractLsb' (64 * i) 64)

/-- The operands of a command, each with whether it is written. -/
def operandsOf (s : State) (c : Ctx) (k : EngCmd) : List (Operand × Bool) :=
  match k with
  | .weightLoad _ _ src => [(src, false)]
  | .product a _ _ _ _ => [(a, false)]
  | .slip v => [(v.in1, false)] ++ (v.in2.toList.map (fun o => (o, false)))
      ++ (v.bcast0.toList.map (fun o => (o.1, false))) ++ (v.bcast1.toList.map (fun o => (o.1, false))) ++ [(v.out, true)]
  | .layout d t u =>
    let ws := match regionOperand s c d 64 with
      | .ok (key, off) => layoutWords s key off
      | .error _ => []
    [(.gen d 64, false), (.gen t (srcExtent ws), false), (.gen u (dstExtent ws), true)]
  | .regionWord src _ => [(src, false)]
  | .fill dst _ _ _ _ => [(dst, true)]
  | .drain src _ _ _ => [(src, false)]
  | _ => []

/-- Check the region operands in order. -/
def checkRegions (s : State) (c : Ctx) (l : List (Operand × Bool)) : Except Nat (List (Nat × Nat × Bool)) :=
  match l with
  | [] => .ok []
  | (.gen g size, w) :: rest =>
    match regionOperand s c g size, checkRegions s c rest with
    | .error e, _ => .error e
    | .ok _, .error e => .error e
    | .ok (key, off), .ok more => .ok ((key, off, w) :: more)
  | _ :: rest => checkRegions s c rest

/-- Two queues count as one at a stream's end: the queues of the 16 bank controllers fill one stream together (09 R259,
DEDUCED, log entry 110). -/
def oneEnd (q r : QueueNo) : Bool := decide (q = r ∨ (10 ≤ q.val ∧ 10 ≤ r.val))

/-- A stream end may be used from a queue: the first use fixes it (09 R259). -/
def streamOk (c : Ctx) (q : QueueNo) (o : Operand × Bool) : Bool :=
  match o.1 with
  | .stream k =>
    match tfind c.streams k.val with
    | none => false
    | some t => match (if o.2 then t.producer else t.consumer) with
      | none => true
      | some r => oneEnd q r
  | _ => true

/-- A flag the context may set or clear (12 R324): its six local ones, or the shared ones of its range; the
number a flag has in its space. -/
def ctxFlag (s : State) (x : CtxNo) (f : Func) (sp : FlagSpace) (n : Nat) (wait : Bool) : Option Nat :=
  match sp with
  | .loc => if n < 48 ∧ n / 6 = x.val % 8 then some (48 * (x.val / 8) + n) else none
  | .shared => if inFlagRange s f.val n || (wait && isRunDone s f.val n) then some n else none

/-- The engine resources a command names, each with whether it is written (10 R285, R286): banks 0 to 3, weight buffers
4 and 5, tile registers 6 to 9, mask tiles 10 to 13. -/
def cmdRes (k : EngCmd) : List (Nat × Bool) :=
  let opnd (w : Bool) (o : Operand) : List (Nat × Bool) := match o with
    | .bank b => [(b.val, w)]
    | .tile t => [(6 + t.val, w)]
    | _ => []
  match k with
  | .weightLoad b _ src => (4 + b.val, true) :: opnd false src
  | .product a _ buf bank _ => opnd false a ++ [(4 + buf.val, false), (bank.val, true)]
  | .slip v =>
    let seg := match v.tile with
      | some (.scan _ _ _ (some m)) => [(10 + m.val, false)]
      | _ => []
    opnd false v.in1 ++ v.in2.toList.flatMap (opnd false) ++ v.bcast0.toList.flatMap (fun b => opnd false b.1)
      ++ v.bcast1.toList.flatMap (fun b => opnd false b.1) ++ v.laneMask.toList.map (fun m => (10 + m.val, false)) ++ seg
      ++ opnd true v.out ++ v.maskOut.toList.map (fun m => (10 + m.val, true))
  | _ => []

/-- The resources of a command that are claimed (10 R287): not the weight buffers. -/
def cmdClaims (k : EngCmd) : List Nat := ((cmdRes k).map (fun r => r.1)).filter (fun r => decide (r < 4 ∨ 6 ≤ r))

/-- Another context claims a resource that a push names (10 R287). -/
def claimBlocked (s : State) (x : CtxNo) (p : Push) : Bool :=
  s.seq.claims.any (fun c => decide (c.mx = p.queue.val % 4 ∧ c.res ∈ cmdClaims p.cmd ∧ c.ctx ≠ x))

/-- Claim the resources that a push names and that its context does not hold. -/
def takeClaims (x : CtxNo) (p : Push) (s : State) : State :=
  (cmdClaims p.cmd).foldl
    (fun s' r =>
      let c : Claim := { mx := p.queue.val % 4, res := r, ctx := x }
      if c ∈ s'.seq.claims then s' else { s' with seq := { s'.seq with claims := s'.seq.claims ++ [c] } }) s

/-- What a push comes to. -/
inductive PushResult where
  | fault (code : Nat)
  | value (r : Fin 16)
  | realign (k : Fin 16)
  | blocked
  | full
  | enter (regs : List (Nat × Nat × Bool))
  deriving DecidableEq, Repr

/-- Whether a region operand is blocked by an incomplete command of the context on another queue (09 R261). -/
def scoreBlocked (s : State) (x : CtxNo) (q : QueueNo) (r : Nat × Nat × Bool) : Bool :=
  s.seq.queues.any (fun e => decide (e.1 ≠ q.val) && e.2.any (fun k =>
    decide (k.ctx = some x) && (decide (r.1 ∈ k.writes) || (r.2.2 && decide (r.1 ∈ k.reads)))))

/-- The first region that blocks a push, by its index in the footprint. -/
def blockingRegion (s : State) (x : CtxNo) (c : Ctx) (p : Push) : Nat :=
  match checkRegions s c (operandsOf s c p.cmd) with
  | .ok l =>
    match l.find? (scoreBlocked s x p.queue) with
    | some r => ((c.regions.find? (fun k => decide (k.2 = r.1))).map (fun k => k.1)).getD 0
    | none => 0
  | .error _ => 0

/-- The realignment period 2^k (12 R331). -/
def realignAt (s : State) : Nat := 2 ^ s.hub.realign.toNat

/-- The stream a command produces into. -/
def producedStream (l : List (Operand × Bool)) : Option (Fin 16) :=
  l.findSome? (fun o => match o with
    | (.stream k, true) => some k
    | _ => none)

/-- Commands that hold entries of an engine queue, of 64 (01 Table 1.1). -/
def queueLoad (s : State) (q : Nat) : Nat := if 10 ≤ q then bcLoad s (q - 10) else (queue s q).length

/-- Judge a push: its faults first, then what it waits for. -/
def judgePush (s : State) (x : CtxNo) (c : Ctx) (p : Push) : PushResult :=
  let ops := operandsOf s c p.cmd
  let flagBad := match p.flag with
    | some (shared, n) => (ctxFlag s x c.func (if shared then .shared else .loc) n false).isNone
    | none => false
  let wireBad := match p.wire with
    | some w => decide (x ∉ (wire s w.val).joined)
    | none => false
  let pendReg := ops.findSome? (fun o => match o.1 with
    | .reg r => if r.val ∈ c.pendVals then some r else none
    | _ => none)
  let realign := (producedStream ops).bind (fun k =>
    match tfind c.streams k.val with
    | some t => if t.push + 1 = realignAt s then some k else none
    | none => none)
  if !queueCarries p.queue.val p.cmd then .fault 0x10
  else
    match checkRegions s c ops with
    | .error e => .fault e
    | .ok regs =>
      if ops.any (fun o => !streamOk c p.queue o) then .fault 0x17
      else if flagBad || wireBad then .fault 0x18
      else
        match pendReg, realign with
        | some r, _ => .value r
        | none, some k => .realign k
        | none, none =>
          if regs.any (scoreBlocked s x p.queue) || claimBlocked s x p then .blocked
          else if 64 ≤ queueLoad s p.queue.val then .full
          else .enter regs

/-- A command with its value-register operands replaced by their values (09 R258). -/
def fixOperand (c : Ctx) (o : Operand) : Operand :=
  match o with
  | .reg r => .imm (valOf c r.val)
  | v => v

def fixCmd (c : Ctx) (k : EngCmd) : EngCmd :=
  match k with
  | .weightLoad buf fmt src => .weightLoad buf fmt (fixOperand c src)
  | .product a fmt buf bank start => .product (fixOperand c a) fmt buf bank start
  | .regionWord src w => .regionWord (fixOperand c src) w
  | .fill d line loc n b => .fill (fixOperand c d) line loc n b
  | .drain d line loc n => .drain (fixOperand c d) line loc n
  | .slip v => .slip { v with in1 := fixOperand c v.in1, in2 := v.in2.map (fixOperand c),
                              bcast0 := v.bcast0.map (fun b => (fixOperand c b.1, b.2)),
                              bcast1 := v.bcast1.map (fun b => (fixOperand c b.1, b.2)) }
  | other => other

/-- The grain command of a push (07 Table 7.3). -/
def p1OfCmd (k : EngCmd) : Option (Nat × GrainSel × P1Kind) :=
  match k with
  | .spread r sel insn row act pre => some (r.val, sel, .spread insn row.val act pre)
  | .grun r sel entry => some (r.val, sel, .grun entry.val)
  | .craw r sel slot_ data => some (r.val, sel, .craw slot_.val data)
  | .craWord r d g w => some (r.val, { dies := 1#4 <<< d.val, grains := 1#16 <<< g.val }, .craRead d.val g.val w.val)
  | _ => none

/-- Give a command its slot of each stream it names (09 R259). -/
def takeSlots (q : QueueNo) (ops : List (Operand × Bool)) (c : Ctx) :
    Ctx × Option (Fin 16 × Nat) × List (Fin 16 × Nat) :=
  ops.foldl
    (fun a o => match o.1 with
      | .stream k =>
        match tfind a.1.streams k.val with
        | none => a
        | some t =>
          if o.2 then
            ({ a.1 with streams := tput a.1.streams k.val { t with push := t.push + 1, producer := some q } },
             some (k, t.push), a.2.2)
          else
            ({ a.1 with streams := tput a.1.streams k.val { t with pop := t.pop + 1, consumer := some q } },
             a.2.1, a.2.2 ++ [(k, t.pop)])
      | _ => a)
    (c, none, [])

/-- Where a queue's commands are numbered: an MX island numbers those of its MX and its SL queue together (10 R286). -/
def pushKey (q : Nat) : Nat := if 4 ≤ q ∧ q < 8 then q - 4 else q

/-- The layout descriptor of a push, as it stands at the push (11 R303, R313). -/
def pushWords (s : State) (c : Ctx) (k : EngCmd) : List U64 :=
  match k with
  | .layout d _ _ => match regionOperand s c d 64 with
    | .ok (key, off) => layoutWords s key off
    | .error _ => []
  | _ => []

/-- A routine may change any register and generator (09 R265): after a Slip routine they hold free values (log entry 111). -/
def scrambled (n : Nat) (c : Ctx) : Ctx :=
  { c with vals := (List.range 16).foldl (fun t r => tset 0#32 t r (Config.routineWord n r)) c.vals,
           gens := (List.range 8).foldl (fun t g => tset Gen.reset t g
             { region := (Config.routineWord n (16 + 8 * g)).toNat % 32, base := Config.routineWord n (17 + 8 * g),
               strides := (List.range 6).foldl (fun u l => tset 0#32 u l (Config.routineWord n (18 + 8 * g + l))) [] }) c.gens }

/-- Enter a command into its queue. -/
def enterPush (x : CtxNo) (c : Ctx) (p : Push) (regs : List (Nat × Nat × Bool)) (s : State) : State :=
  let q := p.queue.val
  let n := tget 0 s.seq.pushNo (pushKey q)
  let t := takeSlots p.queue (operandsOf s c p.cmd) c
  let k : QCmd :=
    { ctx := some x, place := c.place, push := { p with cmd := fixCmd c p.cmd }, words := pushWords s c p.cmd,
      offs := regs.map (fun r => (r.1, r.2.1)), reads := (regs.filter (fun r => !r.2.2)).map (fun r => r.1),
      writes := (regs.filter (fun r => r.2.2)).map (fun r => r.1), slot := t.2.1, pops := t.2.2, pushNo := n,
      started := false, fin := false, since := now s, result := none }
  let c1 := match p.value with
    | some r => { t.1 with pendVals := r.val :: t.1.pendVals }
    | none => t.1
  let s1 := takeClaims x p (setQueue q (queue s q ++ [k]) s)
  let s2 := { s1 with seq := { s1.seq with pushNo := tset 0 s1.seq.pushNo (pushKey q) (n + 1) } }
  let s3 := match p1OfCmd p.cmd with
    | some (r, sel, kind) => queueP1 (q - 10) { rank := r, sel := sel, kind := kind, place := some c.place, ctx := some x,
                                                func := c.func, dirty := [], started := [], issued := false, since := 0#64, num := 0 } s2
    | none => s2
  let c2 := { c1 with st := .run, wait := .nothing }
  if p.lib then issue x (advance (scrambled s.freeCtr c2)) (takeFree s3) else issue x (advance c2) s3

/-- Carry out what a push came to. -/
def doPush (x : CtxNo) (c : Ctx) (p : Push) (s : State) : State :=
  match judgePush s x c p with
  | .fault e => failOp x e s
  | .value r => waitFor x c .waitVal (.value r) s
  | .realign k => waitFor x c .waitFlag (.realign k (some p)) s
  | .blocked => waitFor x c .waitSb (.push p) s
  | .full => waitFor x c .waitQ (.push p) s
  | .enter regs => enterPush x c p regs s

/-- COMMAND_PUSH (09 R255 to R263). -/
def execCommandPush (x : CtxNo) (cmd : Push) (s : State) : Host.Outcome State Fault Refusal :=
  match running s x with
  | none => ok s
  | some c => ok (doPush x c { cmd with lib := false } s)

/-! ### Calls (09 R265, R266; 10 R297) -/

/-- The low n bits of a Slip routine's argument word above bit i (10 Table 10.5). -/
def argBits (c : Ctx) (w i n : Nat) : Nat := bits (valOf c w).toNat i n

/-- The format of a type code; a bank or a tile register, which a type of 6 or 7 names, holds fp32 (log entry 111). -/
def typeFmt (t : Nat) : Fmt :=
  match t with
  | 1 => .bf16
  | 2 => .e4m3
  | 3 => .e5m2
  | 4 => .int8
  | 5 => .int32
  | _ => .fp32

/-- Bytes of an element of a format (10 Table 10.1). -/
def fmtBytes (f : Fmt) : Nat :=
  match f with
  | .fp32 => 4 | .int32 => 4 | .bf16 => 2 | .e4m3 => 1 | .e5m2 => 1 | .int8 => 1

/-- An operand of n elements of a Slip routine: a bank, a tile register, or the generator's region. -/
def argOperand (t index : Nat) (g : Fin 8) (n : Nat) : Operand :=
  match t with
  | 6 => .bank (Fin.ofNat 4 index)
  | 7 => .tile (Fin.ofNat 4 index)
  | _ => .gen g ((n * fmtBytes (typeFmt t) + 63) / 64 * 64)

/-- The combination that c3 [12:10] names; 5 to 7 are read as 0. -/
def argComb (n : Nat) : CombOp :=
  match n with
  | 1 => .max
  | 2 => .min
  | 3 => .mul
  | 4 => .land
  | _ => .sum

/-- k of topk_rows: 0 is read as 1, values above 64 as 64; the rotary dimension: an odd value is rounded down. -/
def argTopk (c : Ctx) : Nat := max 1 (min 64 (argBits c 6 0 7))
def argRotary (c : Ctx) : Nat := argBits c 6 0 16 / 2 * 2

/-- Rows and columns of a Slip routine's tensor (R297); a count beyond the bound that the spec gives is free within it (log
entry 111). -/
def argCount (n free bound : Nat) : Nat := if n ≤ bound then n else 1 + free % bound
def argRows (s : State) (c : Ctx) : Nat := argCount (valOf c 0).toNat (Config.routineWord s.freeCtr 80).toNat (2 ^ 24 - 1)
def argCols (s : State) (c : Ctx) : Nat := argCount (valOf c 1).toNat (Config.routineWord s.freeCtr 81).toNat 65536

/-- The stages of a Slip routine; `y` is its second input. What the spec does not state as a chain is a step of its own. -/
def routineStages (c : Ctx) (r : Nat) (isInt : Bool) (y : SlipArg) : List SlipOp :=
  match r with
  | 0x10 => [.rowRms, .mul y]
  | 0x12 => [.rotaryOf (argRotary c) (valOf c 7)]
  | 0x15 => [.gelu]
  | 0x16 => [if isInt then .iadd y else .add y]
  | 0x17 => [if isInt then .imul y else .mul y]
  | 0x1E => [if isInt then .iclamp else .clamp]
  | 0x1F => [.select .imm0 .imm0]
  | 0x11 => [.routineOf r]
  | 0x13 => [.routineOf r]
  | 0x14 => [.routineOf r]
  | _ => []

/-- The tile stage of a Slip routine. -/
def routineTile (c : Ctx) (r : Nat) (fp : Bool) : Option TileStage :=
  let op := argComb (argBits c 3 10 3)
  let seg : Option (Fin 4) := if argBits c 3 8 1 = 1 then some (Fin.ofNat 4 (argBits c 3 6 2)) else none
  match r with
  | 0x18 => some (.reduce op fp false)
  | 0x19 => some (.reduce op fp true)
  | 0x1A => some (.scan op fp (decide (argBits c 3 9 1 = 1)) seg)
  | 0x1B => some (.scan op fp (decide (argBits c 3 9 1 = 1)) seg)
  | 0x1C => some (.topkRow (argTopk c))
  | 0x1D => some (.argmaxRow fp)
  | _ => none

/-- Elements of a Slip routine's output. -/
def routineOut (c : Ctx) (r rows cols : Nat) : Nat :=
  match r with
  | 0x18 => rows
  | 0x19 => cols
  | 0x1C => rows * 2 * argTopk c
  | 0x1D => rows
  | _ => rows * cols

/-- The Slip command that a resident Slip routine comes to, from c0 to c7 and G0 to G2 (10 R297, Table 10.5). -/
def routineCmd (s : State) (c : Ctx) (r : Nat) : SlipCmd :=
  let rows := argRows s c
  let cols := argCols s c
  let t (i : Nat) : Nat := argBits c 2 (3 * i) 3
  let at_ (i : Nat) : Nat := argBits c 2 (9 + 2 * i) 2
  let shape := argBits c 2 16 2
  let inFmt := if r = 0x1F then (if t 2 = 4 ∨ t 2 = 5 then Fmt.int32 else Fmt.fp32) else typeFmt (t 0)
  let two := decide (r ∈ [0x10, 0x11, 0x12, 0x14, 0x16, 0x17])
  let isInt := decide (inFmt = .int8 ∨ inFmt = .int32)
  let y : SlipArg := match shape with
    | 0 => .input2
    | 3 => .imm0
    | _ => .bcast0
  { stages := routineStages c r isInt y, tile := routineTile c r (!isInt),
    in1 := if r = 0x1F then .imm 0#32 else argOperand (t 0) (at_ 0) 0 (rows * cols), in1Fmt := inFmt,
    in2 := if two && decide (shape = 0) then some (argOperand (t 1) (at_ 1) 1 (rows * cols)) else none, in2Fmt := typeFmt (t 1),
    bcast0 := if two && decide (shape = 1 ∨ shape = 2) then
        some (argOperand (t 1) (at_ 1) 1 (if shape = 1 then cols else rows), decide (shape = 2)) else none,
    bcast1 := none, i0 := valOf c 4, i1 := valOf c 5, rows := rows, cols := cols,
    laneMask := if argBits c 3 2 1 = 1 then some (Fin.ofNat 4 (argBits c 3 0 2)) else none,
    maskOut := if argBits c 3 5 1 = 1 then some (Fin.ofNat 4 (argBits c 3 3 2)) else none,
    out := argOperand (t 2) (at_ 2) 2 (routineOut c r rows cols), outFmt := typeFmt (t 2), sat := decide (argBits c 2 15 1 = 1) }

/-- The push of a resident Slip routine, on the queue of a Slip that the spec does not name (log entry 111). -/
def routinePush (s : State) (c : Ctx) (r : Nat) : Push :=
  { queue := Fin.ofNat 26 (4 + (Config.routineWord s.freeCtr 82).toNat % 4), cmd := .slip (routineCmd s c r), flag := none,
    wire := none, value := none, lib := true }

/-- The first of c0 to c7 whose write is pending: the routine reads them (09 R263). -/
def pendingArg (c : Ctx) : Option (Fin 16) := ([0, 1, 2, 3, 4, 5, 6, 7] : List (Fin 16)).find? (fun r => decide (r.val ∈ c.pendVals))

/-- CALL of a routine of the library (09 R265, R266). A Slip routine reads its arguments, returns at once where a count is 0,
else comes to one command of a Slip (10 R297, log entry 111); any other routine runs as operations of its own. -/
def execCall (x : CtxNo) (routine : Byte) (s : State) : Host.Outcome State Fault Refusal :=
  match running s x with
  | none => ok s
  | some c =>
    let r := routine.toNat
    if 4 ≤ c.stack.length then ok (failOp x 0x13 s)
    else if 0x40 ≤ r then ok (failOp x 0x15 s)
    else if 0x10 ≤ r ∧ r < 0x20 then
      match pendingArg c with
      | some v => ok (waitFor x c .waitVal (.value v) s)
      | none =>
        if valOf c 0 = 0#32 ∨ valOf c 1 = 0#32 then ok (issue x (advance c) s)
        else ok (doPush x c (routinePush s c r) s)
    else ok (issue x { c with stack := c.stack ++ [(c.pos + 1#32, c.loops.length)],
                              pos := Config.routineEntry (routineNo s r) } s)

/-! ### Waking (09 R251) -/

/-- A stream's counts agree and its pops have completed (12 R331). -/
def realigned (c : Ctx) (k : Nat) : Bool :=
  match tfind c.streams k with
  | some t => decide (t.push = t.pop ∧ t.done = t.pop)
  | none => true

/-- Both counts of a stream return to 0 and the next slot is slot 0 (12 R331). -/
def zeroStream (k : Nat) (c : Ctx) : Ctx :=
  match tfind c.streams k with
  | some t => { c with streams := tput c.streams k { t with push := 0, pop := 0, done := 0, filled := [] } }
  | none => c

/-- A claim on a wire for a context: a free wire is held, a hold with the same terms is joined (12 R329). -/
def claimWire (x : CtxNo) (f : Func) (w : Fin 8) (n : Nat) (mw : Bool) (s : State) : Option State :=
  let y := wire s w.val
  if y.func = none then
    some (setWire w.val { Wire.reset with func := some f, n := n, moduleWide := mw, joined := [x] } s)
  else if y.func = some f ∧ y.n = n ∧ y.moduleWide = mw then
    some (if x ∈ y.joined then s else setWire w.val { y with joined := y.joined ++ [x] } s)
  else none

/-- Take a context out of the list of waits. -/
def unwait (x : CtxNo) (s : State) : State :=
  { s with seq := { s.seq with waits := s.seq.waits.filter (fun y => decide (y ≠ x)) } }

/-- CONTEXT_WAKE: a waiting context whose event has been latched returns to RUN (09 R251); one that waits on a
flag of a faulted word faults (12 R339). -/
def execContextWake (x : CtxNo) (s : State) : Host.Outcome State Fault Refusal :=
  match ctx s x.val with
  | none => ok s
  | some c =>
    let go (t : State) : State :=
      goOn x (advance { c with st := .run, wait := .nothing }) (unwait x t)
    match c.st, c.wait with
    | .waitVal, .value r =>
      ok (if r.val ∈ c.pendVals then s else moveCtx x.val { c with wait := .nothing } .run s)
    | .waitQ, .push p => ok (if judgePush s x c p = .full then s else doPush x c p s)
    | .waitSb, .push p => ok (if judgePush s x c p = .blocked then s else doPush x c p s)
    | .waitFlag, .nothing => ok (go s)
    | .waitFlag, .flagIs sp n _ _ => ok (if wordFaulted s sp n then faultCtx x 0x19 s else s)
    | .waitFlag, .claim w n mw =>
      match claimWire x c.func w n mw s with
      | some t => ok (go t)
      | none => ok s
    | .waitFlag, .realign k held =>
      if realigned c k.val then
        let c1 := zeroStream k.val { c with st := .run, wait := .nothing }
        match held with
        | some p => ok (doPush x c1 p (setCtx x.val c1 (unwait x s)))
        | none => ok (goOn x (advance c1) (unwait x s))
      else ok s
    | _, _ => ok s

/-! ### Waits seen from outside (19 Tables 19.8, 19.9; 12 R335) -/

/-- The number of a context's state (19 Table 19.8). -/
def cstateCode (st : CState) : Nat :=
  match st with
  | .free => 0 | .load => 1 | .run => 2 | .waitQ => 3 | .waitSb => 4 | .waitVal => 5 | .waitFlag => 6 | .drain => 7

/-- What a context waits on: its kind, its index, a stream's slot (19 Table 19.9). -/
def waitObject (s : State) (x : CtxNo) (c : Ctx) : Nat × Nat × Nat :=
  match c.wait with
  | .push p => if c.st = .waitQ then (1, p.queue.val, 0) else (2, blockingRegion s x c p, 0)
  | .value r => (3, r.val, 0)
  | .flagIs _ n _ _ => (4, n, 0)
  | .wire w _ => (5, w.val, 0)
  | .claim w _ _ => (5, w.val, 0)
  | .realign k _ => (6, k.val, ((tfind c.streams k.val).map (fun t => t.push)).getD 0)
  | .nothing => (0, 0, 0)

/-- CONTEXT_WATCHDOG_EXPIRY: a stay in LOAD, in a WAIT state or in DRAIN has lasted the period; the context ends
as a cancel ends it (12 R335, R337). -/
def execContextWatchdogExpiry (x : CtxNo) (s : State) : Host.Outcome State Fault Refusal :=
  match ctx s x.val with
  | none => ok s
  | some c =>
    if c.st = .run ∨ now s < c.since + BitVec.ofNat 64 (s.hub.wdCtx.toNat * 1000000) then ok s
    else
      let o := waitObject s x c
      let hsn := ((desc s c.place).map (fun d => d.hsn.toNat)).getD 0
      let d0 := cstateCode c.st + o.1 * 2 ^ 8 + o.2.1 * 2 ^ 16 + o.2.2 * 2 ^ 32
      ok (stopCtx x (addCond c.place .watchdog (logFn 0x04 0x01 (locOf 6 x.val) c.func d0 hsn s)))

end Sys2Proof.Machine
end

