-- ==== Sys2Proof/Machine/FlagOps.lean ====
section
/-! DEFINITION. Flag and wire operations of contexts, and the SIGNAL descriptor (12 R323 to R331, 14 R387). -/

namespace Sys2Proof.Machine

/-- Count a shared flag's set for its function (19 Table 19.4). -/
def countSet (sp : FlagSpace) (f : Func) (s : State) : State :=
  match sp with
  | .shared => countEv 0x62 0 (some f) 1 s
  | .loc => s

/-- A function's set or clear of a shared flag is latched (12 R338); one of the same boundary by another descriptor collides
with it, and both apply. -/
def noteFlagOp (sp : FlagSpace) (n : Nat) (f : Func) (p : Place) (s : State) : State :=
  match sp with
  | .loc => s
  | .shared =>
    let me := ownOrder (.flag n) .flagOp f (((desc s p).map (fun d => d.hsn)).getD 0#32)
    match rival s (.flag n) [.flagOp] with
    | some a => if a = me then s else logCollision a me false (noteOrder me s)
    | none => noteOrder me s

/-- An operation of a context on a flag: FLAG_RANGE outside what it may name, HW_PARITY on a faulted word (12
R324, R339), else `act` on the flag's number in its space. -/
def onFlag (x : CtxNo) (sp : FlagSpace) (n : Nat) (wait : Bool) (s : State)
    (act : Ctx → Nat → Host.Outcome State Fault Refusal) : Host.Outcome State Fault Refusal :=
  match running s x with
  | none => ok s
  | some c =>
    match ctxFlag s x c.func sp n wait with
    | none => ok (failOp x 0x18 s)
    | some i => if wordFaulted s sp i then ok (failOp x 0x19 s) else act c i

/-- FLAG_SET (12 R323). -/
def execFlagSet (x : CtxNo) (sp : FlagSpace) (n : Nat) (s : State) : Host.Outcome State Fault Refusal :=
  onFlag x sp n false s (fun c i => ok (countSet sp c.func (setFlag sp i 0 (noteFlagOp sp i c.func c.place (issue x (advance c) s)))))

/-- FLAG_CLEAR (12 R323). -/
def execFlagClear (x : CtxNo) (sp : FlagSpace) (n : Nat) (s : State) : Host.Outcome State Fault Refusal :=
  onFlag x sp n false s (fun c i => ok (clearFlag sp i (noteFlagOp sp i c.func c.place (issue x (advance c) s))))

/-- FLAG_WAIT: the context goes on where the flag holds the value, else it waits (12 R323). -/
def execFlagWait (x : CtxNo) (sp : FlagSpace) (n : Nat) (want : Bool) (s : State) : Host.Outcome State Fault Refusal :=
  onFlag x sp n true s (fun c i =>
    if (getFlag s sp i).value = want then ok (issue x (advance c) s)
    else ok (waitFor x c .waitFlag (.flagIs sp i want false) s))

/-- FLAG_WAIT_CONSUME: wants 1, and clears the flag when it is satisfied (12 R323). -/
def execFlagWaitConsume (x : CtxNo) (sp : FlagSpace) (n : Nat) (s : State) : Host.Outcome State Fault Refusal :=
  onFlag x sp n true s (fun c i =>
    if (getFlag s sp i).value then ok (clearFlag sp i (issue x (advance c) s))
    else ok (waitFor x c .waitFlag (.flagIs sp i true true) s))

/-- REMOTE_SIGNAL: one flag-set packet to a peer; its reply is waited for in DRAIN at the latest. With no path the
descriptor takes LINK_DOWN; a set to the own module is applied here (12 R325, DESIGN CHOICE, log entry 36). -/
def execRemoteSignal (x : CtxNo) (n : Nat) (dst : Byte) (s : State) : Host.Outcome State Fault Refusal :=
  match running s x with
  | none => ok s
  | some c =>
    let s1 := issue x (advance c) s
    let flag : BitVec 14 := BitVec.ofNat 14 n
    if ownPos s = some dst then
      let r := remoteSet flag.toNat s1
      ok (if r.2 then r.1 else addCond c.place .badTenant r.1)
    else
      match originate dst c.place (.flagSet flag false) none s1 with
      | some s2 =>
        match ctx s2 x.val with
        | some c2 => ok (setCtx x.val { c2 with sets := c2.sets + 1 } s2)
        | none => ok s2
      | none => ok (addCond c.place .linkDown s1)

/-! ### Barrier wires (12 R328 to R330) -/

/-- BARRIER_CLAIM: claim a free wire, join a hold with the same terms, or wait (12 R328, R329). -/
def execBarrierClaim (x : CtxNo) (w : Fin 8) (n : BitVec 6) (moduleWide : Bool) (s : State) :
    Host.Outcome State Fault Refusal :=
  match running s x with
  | none => ok s
  | some c =>
    let k := max 1 (min 32 n.toNat)
    match claimWire x c.func w k moduleWide s with
    | some s1 => ok (issue x (advance c) s1)
    | none => ok (waitFor x c .waitFlag (.claim w k moduleWide) s)

/-- BARRIER_ARRIVE (12 R330). -/
def execBarrierArrive (x : CtxNo) (w : Fin 8) (s : State) : Host.Outcome State Fault Refusal :=
  match running s x with
  | none => ok s
  | some c =>
    if x ∈ (wire s w.val).joined then ok (arriveWire w (issue x (advance c) s)) else ok (failOp x 0x18 s)

/-- BARRIER_ARRIVE_WAIT: the arrival counts first; the context waits unless it released the wire (12 R330). -/
def execBarrierArriveWait (x : CtxNo) (w : Fin 8) (s : State) : Host.Outcome State Fault Refusal :=
  match running s x with
  | none => ok s
  | some c =>
    if x ∈ (wire s w.val).joined then
      let g := (wire s w.val).gen
      let s1 := arriveWire w (serve x s)
      if (wire s1 w.val).gen = g then ok (waitFor x c .waitFlag (.wire w g) s1) else ok (issue x (advance c) s1)
    else ok (failOp x 0x18 s)

/-- BARRIER_WAIT: wait for the release of the present generation (12 R330). -/
def execBarrierWait (x : CtxNo) (w : Fin 8) (s : State) : Host.Outcome State Fault Refusal :=
  match running s x with
  | none => ok s
  | some c =>
    if x ∈ (wire s w.val).joined then ok (waitFor x c .waitFlag (.wire w (wire s w.val).gen) s)
    else ok (failOp x 0x18 s)

/-- MODULE_WIDE_WIRE_RELEASE: the count has reached N and every bank controller asserts its input (12 R330). -/
def execModuleWideWireRelease (w : Fin 8) (s : State) : Host.Outcome State Fault Refusal :=
  let y := wire s w.val
  match y.due, y.func with
  | some n, some f => if p1Busy s f n then ok s else ok (releaseWire w s)
  | _, _ => ok s

/-- REALIGN_REQUEST: the context waits until the stream's counts agree and its pops have completed (12 R331). -/
def execRealignRequest (x : CtxNo) (k : Fin 16) (s : State) : Host.Outcome State Fault Refusal :=
  match running s x with
  | none => ok s
  | some c =>
    if realigned c k.val then ok (issue x (advance (zeroStream k.val c)) s)
    else ok (waitFor x c .waitFlag (.realign k none) s)

/-! ### SIGNAL (12 R324, R325, R339; 14 R387) -/

/-- End a SIGNAL on its context; BAD_TENANT names the flag field (04 R527). -/
def endSignal (p : Place) (x : CtxNo) (st : Status) (s : State) : State :=
  settleCtx x (drainCtx x (addCond p st (if st = .badTenant then noteDetail p 0x08 s else s)))

/-- SIGNAL on its context: a local flag of a context of the same function, a shared flag of the function's range,
or a remote set. -/
def execSignal (p : Place) (s : State) : Host.Outcome State Fault Refusal :=
  match runningOn s p 0x41 with
  | none => ok s
  | some (d, x) =>
    let w := wordAt d.words 1
    let n := bits w 0 14
    let set_ := decide (bits w 18 2 = 0)
    let apply_ (sp : FlagSpace) (i : Nat) : State :=
      let s0 := noteFlagOp sp i d.func p s
      if set_ then countSet sp d.func (setFlag sp i 2 s0) else clearFlag sp i s0
    if (ctx s x.val).any (fun c => decide (c.st = .drain)) then ok s
    else
      match bits w 16 2 with
      | 0 =>
        let i := 48 * bits w 20 2 + n
        let target := 8 * bits w 20 2 + n / 6
        if wordFaulted s .loc i then ok (faultCtx x 0x19 s)
        else if (ctx s target).any (fun c => decide (c.func = d.func)) then ok (endSignal p x .done (apply_ .loc i))
        else ok (endSignal p x .badTenant s)
      | 1 =>
        if wordFaulted s .shared n then ok (faultCtx x 0x19 s)
        else if inFlagRange s d.func.val n then ok (endSignal p x .done (apply_ .shared n))
        else ok (endSignal p x .badTenant s)
      | _ =>
        let dst : Byte := BitVec.ofNat 8 (bits (wordAt d.words 2) 0 8)
        if ownPos s = some dst then
          let r := remoteSet n s
          ok (endSignal p x (if r.2 then .done else .badTenant) r.1)
        else
          match originate dst p (.flagSet (BitVec.ofNat 14 n) false) none s with
          | some s1 => ok (match ctx s1 x.val with
              | some c => moveCtx x.val { c with sets := 1 } .drain s1
              | none => s1)
          | none => ok (endSignal p x .linkDown s)

end Sys2Proof.Machine
end

