-- ==== Sys2Proof/Machine/Inspect.lean ====
section
/-! DEFINITION. INSPECT: the header and the records of each kind (19 R492 to R494, Table 19.8). Bits that the
table does not name read 0. -/

namespace Sys2Proof.Machine

def w64 (n : Nat) : U64 := BitVec.ofNat 64 n

/-- Descriptors of a ring that wait for a context. -/
def waitingCtx (s : State) (f : Func) : Nat :=
  (s.places.filter (fun q => decide (q.2.func = f) && waitsForCtx s q.2)).length

/-- The HSN of the oldest descriptor in flight of a ring, 0 where there is none. -/
def oldestHsn (s : State) (f : Func) : Nat :=
  ((flying s f).foldl (fun a q => match a with
    | none => some q.2
    | some (b : Desc) => if q.2.acc < b.acc then some q.2 else some b) (none : Option Desc)).elim 0 (fun d => d.hsn.toNat)

/-- The ring record. -/
def ringRecord (s : State) (f : Func) : List U64 :=
  let r := ring s f
  [w64 (ringHead r + bitIf r.enable 34),
   w64 (r.lastHsn.toNat + r.lastDsn.toNat * 2 ^ 32),
   w64 (r.epoch.toNat + (flying s f).length % 2 ^ 16 * 2 ^ 32 + r.cancels.length % 32 * 2 ^ 48),
   w64 (r.tail + r.doneCons * 2 ^ 16 + satNat 16 r.gaps * 2 ^ 32 + waitingCtx s f % 2 ^ 16 * 2 ^ 48),
   w64 ((r.firstMissing.getD 0#32).toNat + oldestHsn s f * 2 ^ 32), 0#64, 0#64, 0#64]

/-- A context's record as function f sees it; a VF sees its own, function 0xFF otherwise (R494). A FREE context
has no function: 0xFF. -/
def ctxRecord (s : State) (f : Func) (x : CtxNo) : List U64 :=
  match ctx s x.val with
  | none =>
    if f.val = 0 then [w64 (0xFF * 2 ^ 8), 0#64, tget 0#64 s.seq.freed x.val, 0#64] else [w64 (0xFF * 2 ^ 8), 0#64, 0#64, 0#64]
  | some c =>
    if f.val ≠ 0 ∧ c.func ≠ f then [w64 (0xFF * 2 ^ 8), 0#64, 0#64, 0#64]
    else
      let d := desc s c.place
      let op := (d.map (fun e => opcodeOf e.words)).getD 0
      let hsn := (d.map (fun e => e.hsn.toNat)).getD 0
      [w64 (cstateCode c.st + c.func.val * 2 ^ 8 + op * 2 ^ 16 + (waitObject s x c).2.1 % 2 ^ 16 * 2 ^ 24),
       w64 (hsn + c.func.val * 2 ^ 32), c.since,
       w64 (outstanding s x % 2 ^ 16 + c.regions.length * 2 ^ 16)]

/-- Contexts that wait on a flag, and those of them that consume. -/
def flagWaiters (s : State) (sp : FlagSpace) (n : Nat) : Nat × Nat :=
  let plain := s.seq.waits.filter (fun x => waitsOn s x sp n true false || waitsOn s x sp n false false)
  let eats := s.seq.waits.filter (fun x => waitsOn s x sp n true true)
  (plain.length + eats.length, eats.length)

/-- The kind of a shared flag (12 Table 12.2). -/
def sharedKind (s : State) (n : Nat) : Nat :=
  match flagOwner s n with
  | some f => if inFlagRange s f n then 1 else if isRunDone s f n then 2 else 3
  | none => 3

/-- A flag's record (12 Table 12.2). -/
def flagRecord (s : State) (f : Func) (sp : FlagSpace) (n : Nat) : List U64 :=
  let x := getFlag s sp n
  let owner := match sp with
    | .loc => ((ctx s (8 * (n / 48) + n % 48 / 6)).map (fun c => c.func.val)).getD 0xFF
    | .shared => (flagOwner s n).getD 0xFF
  let kind := match sp with
    | .loc => 0
    | .shared => sharedKind s n
  let ws := flagWaiters s sp n
  if sp = .loc ∧ f.val ≠ 0 ∧ owner ≠ f.val then [w64 (0xFF * 2 ^ 3), 0#64, 0#64, 0#64]
  else
    [w64 (bitIf x.value 0 + kind * 2 + owner * 2 ^ 3 + ws.1 * 2 ^ 11 + ws.2 * 2 ^ 17 + x.setter.val * 2 ^ 23
          + x.sets.toNat * 2 ^ 32 + x.clears.toNat * 2 ^ 48), x.setMtb, x.clearMtb, 0#64]

/-- A wire's record (12 R333). -/
def wireRecord (s : State) (f : Func) (w : Nat) : List U64 :=
  let y := wire s w
  let n := (s.seq.waits.filter (fun x => match ctx s x.val with
    | some c => match c.wait with
      | .wire v _ => decide (v.val = w)
      | .claim v _ _ => decide (v.val = w)
      | _ => false
    | none => false)).length
  match y.func with
  | none => [w64 (if f.val = 0 then 0xFF + n * 2 ^ 21 else 0xFF), 0#64, 0#64, 0#64]
  | some g =>
    if f.val ≠ 0 ∧ g ≠ f then [w64 0xFF, 0#64, 0#64, 0#64]
    else [w64 (g.val + y.n * 2 ^ 8 + bitIf y.moduleWide 14 + y.count % 64 * 2 ^ 15 + n * 2 ^ 21 + y.gen % 2 ^ 32 * 2 ^ 32),
          0#64, 0#64, 0#64]

/-- Word 0x00 of a port's record, which LNK_STATE reads too (20 Table 20.9). -/
def portWord (s : State) (p : Nat) : Nat :=
  let x := port s p
  pstateCode x.st + x.lanes * 2 ^ 3 + bitIf x.fallback 7 + bitIf x.polarity 8 + bitIf x.reversed 9

/-- A port's record. -/
def portRecord (s : State) (p : Nat) : List U64 :=
  let x := port s p
  let i := x.ident
  [w64 (portWord s p),
   w64 ((i.map (fun v => v.pos.toNat + v.port.toNat * 2 ^ 8 + v.planGen.toNat * 2 ^ 32)).getD 0),
   (i.map (fun v => v.serial)).getD 0#64,
   w64 (x.replays.toNat + x.held.length * 2 ^ 32),
   w64 (x.credit0 % 2 ^ 16 + x.credit1 % 2 ^ 16 * 2 ^ 16 + s.lnk.root.toNat * 2 ^ 32 + s.lnk.dist.toNat * 2 ^ 44),
   BitVec.ofInt 64 x.offset, 0#64, 0#64]

/-- A loop's record. -/
def loopRecord (s : State) (i : Nat) : List U64 :=
  let l := loopRec s i
  [w64 (bitIf l.active 0 + bitIf l.overruled 1 + l.setting.toNat * 2 ^ 32), l.heldNs, l.changed, 0#64]

/-- The records of a kind, in order, and the size of one in bytes (19 Table 19.7, R493). -/
def inspectRecords (s : State) (f : Func) (w : Nat) : List (List U64) × Nat :=
  let fst := bits w 8 14
  let cnt := bits w 22 14 + 1
  let ids := (List.range cnt).map (fun i => fst + i)
  match bits w 0 8 with
  | 0x01 => ([ringRecord s (if f.val = 0 then Fin.ofNat 256 (bits w 8 8) else f)], 64)
  | 0x02 => ((List.range 32).map (fun x => ctxRecord s f (Fin.ofNat 32 x)), 32)
  | 0x03 =>
    (match bits w 36 2 with
     | 0 => ids.map (flagRecord s f .loc)
     | 1 => ids.map (flagRecord s f .shared)
     | _ => ids.map (wireRecord s f), 32)
  | 0x04 => ((List.range 6).map (portRecord s), 64)
  | _ => ((List.range 6).map (loopRecord s), 32)

/-- A read of the loops' records clears their overruled bits (19 Table 19.8). -/
def readLoops (s : State) : State :=
  { s with pwr := { s.pwr with loops := (s.pwr.loops.map (fun l => (l.1, { l.2 with overruled := false }))).filter
                                          (fun l => decide (l.2 ≠ LoopRec.reset)) } }

/-- INSPECT writes its header and the records that fit to host memory (19 R492). -/
def execInspect (p : Place) (s : State) : Host.Outcome State Fault Refusal :=
  match startable s p 0x04 with
  | none => ok s
  | some d =>
    let w := wordAt d.words 1
    let r := inspectRecords s d.func w
    let n := min r.1.length ((bits (wordAt d.words 3) 0 32 - 64) / r.2)
    let head := [w64 (bits w 0 8 + r.2 * 2 ^ 16 + r.1.length * 2 ^ 32), now s, w64 n, 0#64, 0#64, 0#64, 0#64, 0#64]
    let s1 := if bits w 0 8 = 0x05 then readLoops s else s
    ok (endDesc p .done (64 + n * r.2) (emit (.hostWrite (BitVec.ofNat 64 (wordAt d.words 2)) (head ++ (r.1.take n).flatten)) s1))

end Sys2Proof.Machine
end

