-- ==== Sys2Proof/Machine/Setup.lean ====
section
/-! DEFINITION. The pair groups and their commits (20 R502 to R504), the frequency request (08 R237, R238), the
size of the Keep region (16 R426, R429), and a write to BAR0 (20 R497 to R501, R511). -/

namespace Sys2Proof.Machine

/-! ### Pair groups -/

/-- A commit judged (20 R504): refused for `bad` or `busy`, in force at once where `now_`, else pending. -/
def Pair.judge {α : Type} (bad busy now_ : Bool) (p : Pair α) : Pair α :=
  let q := { p with mismatch := false, preempted := false, busy := false }
  if bad then { q with mismatch := true, staged := p.waiting.getD p.inForce }
  else if busy then { q with busy := true, staged := p.waiting.getD p.inForce }
  else if now_ then { q with inForce := p.staged, waiting := none }
  else { q with waiting := some p.staged }

/-- A commit that lost to another order (20 Table 20.14). -/
def Pair.lose {α : Type} (p : Pair α) : Pair α :=
  { p with mismatch := false, preempted := true, busy := false, staged := p.waiting.getD p.inForce }

/-- The waiting values take effect. -/
def Pair.take {α : Type} (p : Pair α) : Pair α :=
  match p.waiting with
  | some v => { p with inForce := v, waiting := none }
  | none => p

/-- Staged values and pending commits are discarded at a reset (20 R511). -/
def Pair.discard {α : Type} (p : Pair α) : Pair α := Pair.at_ p.inForce

/-- What a COMMIT register reads (20 Table 20.3). -/
def Pair.read {α : Type} (p : Pair α) : Nat :=
  bitIf p.waiting.isSome 1 + bitIf p.mismatch 2 + bitIf p.preempted 3 + bitIf p.busy 4

/-- Log a refused commit (20 R504, 19 Table 19.9): the island, the instance's function, the group's number. -/
def logRefused (code isl : Nat) (func : Byte) (group : Nat) (s : State) : State :=
  logAs 0x08 code (locOf 3 isl) func 1 group 0 s

def logIf (bad busy : Bool) (isl : Nat) (func : Byte) (group : Nat) (s : State) : State :=
  if bad then logRefused 0x23 isl func group s else if busy then logRefused 0x80 isl func group s else s

/-- MARL_PART_COMMIT (02 R37): pending while any staging or scoreboarded region exists. -/
def commitMarlPart (s : State) : State :=
  let p := s.hub.marlPart
  let bad := decide (p.staged.bc.toNat < 4 ∨ 16 < p.staged.bc.toNat ∨ p.staged.lk.toNat < 8 ∨ 32 < p.staged.lk.toNat)
  let s1 := { s with hub := { s.hub with marlPart := p.judge bad false (noRegions s) } }
  logIf bad false (islMarl 0) 0xFF#8 0 s1

/-- HUB_TEN_COMMIT (03 R76, 20 Table 20.2). -/
def commitTen (s : State) : State :=
  let f := s.hub.tenSel.toNat
  let p := tenOf s f
  let bad := decide (p.staged.limit < p.staged.base ∨ 2048 < p.staged.limit.toNat)
  let s1 := { s with hub := { s.hub with ten := tset (Ten.reset f) s.hub.ten f (p.judge bad false true) } }
  logIf bad false islHost (BitVec.ofNat 8 f) 1 s1

/-- A STEP of the function that names the slot is in execution (13 R341). -/
def stepNames (s : State) (f slot_ : Nat) : Bool :=
  s.places.any (fun q => decide (q.2.func.val = f ∧ opcodeOf q.2.words = 0x11) && inFlight q.2
    && decide (q.2.stage ≠ .ended) && decide (bits (wordAt q.2.words 2) 16 4 = slot_))

/-- The descriptors of a function that have been fetched and not accepted do not wait for a commit made now (05 R150). -/
def noteEarly (f n : Nat) (s : State) : State :=
  let mark (d : Desc) : Desc :=
    if d.func.val = f ∧ (d.stage = .fetching ∨ d.stage = .landed) then { d with early := n :: d.early.erase n } else d
  { s with places := s.places.map (fun q => (q.1, mark q.2)) }

/-- HUB_MODEL_COMMIT (13 R341). -/
def commitModel (s : State) : State :=
  let f := s.hub.modelFn.toNat
  let k := s.hub.modelSlot.toNat
  let p := modelOf s f k
  let a := p.staged.toNat
  let bad := decide (a ≠ 0) && (decide (a % 4096 ≠ 0) || !inWindow s f a 1)
  let s1 := { s with hub := { s.hub with model := tset (Pair.at_ 0#39) s.hub.model (f * 16 + k) (p.judge bad false (!stepNames s f k)) } }
  logIf bad false islHost (BitVec.ofNat 8 f) 2 (if !bad && stepNames s f k then noteEarly f (2 + k) s1 else s1)

/-- BC_MAP_COMMIT (08 R218). -/
def commitBcMap (s : State) : State :=
  let p := s.dev.bcMap
  let bad := s.cxl.hdm0.committed || s.cxl.hdm1.committed
    || decide (p.staged.order ≠ 3#2 ∧ p.staged.ranks ≠ 0xFFFFFFFF#32)
  logIf bad false (islBc 0) 0xFF#8 3 { s with dev := { s.dev with bcMap := p.judge bad false true } }

/-- The VFs, beside `f`, whose partition has been set. -/
def otherVfs (s : State) (f : Nat) : List Nat :=
  (s.hub.grnPart.map (fun p => p.1)).filter (fun g => decide (g ≠ 0 ∧ g ≠ f))

/-- Two ranges of flags, base and length, share one. -/
def rangesMeet (a b : Nat × Nat) : Bool :=
  decide (0 < a.2 ∧ 0 < b.2 ∧ a.1 < b.1 + b.2 ∧ b.1 < a.1 + a.2)

/-- The conditions of 12 R321 broken by a block of function f with a grain set. -/
def blockBad (s : State) (f : Nat) (block : Nat × Nat) (set_ : Nat) : Bool :=
  let tail (b : Nat × Nat) (n : Nat) : Nat × Nat := (b.1 + b.2 - n, min n b.2)
  decide (16384 < block.1 + block.2)
    || (decide (f ≠ 0) && ((otherVfs s f).any (fun g => rangesMeet block (flagBlock s g))
          || rangesMeet block (tail (flagBlock s 0) (pairCount s 0))))
    || (decide (f = 0) && (otherVfs s 0).any (fun g =>
          rangesMeet (tail block (pairsOf set_).length) (flagBlock s g)))

/-- A SPREAD, GRAIN_RUN, TILTH_LOAD or STEP of the function is in execution (05 R150). -/
def grainWork (s : State) (f : Nat) : Bool :=
  s.places.any (fun q => decide (q.2.func.val = f) && inFlight q.2 && decide (q.2.stage ≠ .ended)
    && decide (opcodeOf q.2.words ∈ [0x11, 0x21, 0x22, 0x23]))

/-- The flags of one block that are not in another. -/
def blockMinus (a b : Nat × Nat) : List Nat :=
  ((List.range a.2).map (fun i => a.1 + i)).filter (fun n => !decide (b.1 ≤ n ∧ n < b.1 + b.2))

/-- Clear every flag that enters or leaves a function's block (12 R321). -/
def clearMoved (old new : Nat × Nat) (s : State) : State :=
  wipeFlags .shared (blockMinus old new ++ blockMinus new old) s

def setGrnPart (f : Nat) (p : Pair GrnPart) (s : State) : State :=
  { s with hub := { s.hub with grnPart := tset (GrnPart.reset f) s.hub.grnPart f p } }

def setFlagBase (f : Nat) (p : Pair (BitVec 14)) (s : State) : State :=
  { s with hub := { s.hub with flagBase := tset (Pair.at_ 0#14) s.hub.flagBase f p } }

/-- The pending GRN_PART and SYN_FLAGB values of a function take effect (05 R150, 12 R321). -/
def takeGrnPart (f : Nat) (s : State) : State :=
  let old := flagBlock s f
  let s1 := setFlagBase f (flagBaseOf s f).take (setGrnPart f (grnPartOf s f).take s)
  clearMoved old (flagBlock s1 f) s1

/-- A grain set of a VF that shares a grain with another VF's set, in force or pending (05 R149). -/
def setShared (s : State) (f set_ : Nat) : Bool :=
  decide (f ≠ 0) && (otherVfs s f).any (fun g =>
    setsMeet set_ (grainsOf s g) || ((grnPartOf s g).waiting.any (fun v => setsMeet set_ v.set.toNat)))

/-- GRN_PART_COMMIT (05 R149, R150; 12 R321). -/
def commitGrnPart (s : State) : State :=
  let f := s.hub.grnSel.toNat
  let p := grnPartOf s f
  let g := p.staged
  let w := g.set.toNat
  let bad := decide (setSize w ≠ 0 ∧ g.hi < g.lo) || setShared s f w || decide (g.flagQ.toNat < (pairsOf w).length)
    || blockBad s f ((flagBlock s f).1, g.flagQ.toNat) w
  let s1 := setGrnPart f (p.judge bad false false) s
  let s2 := if !bad && !grainWork s f then takeGrnPart f s1 else if bad then s1 else noteEarly f 0 s1
  logIf bad false islHost (BitVec.ofNat 8 f) 4 s2

/-- SYN_FLAGB_COMMIT (12 R321). -/
def commitFlagB (s : State) : State :=
  let f := s.hub.grnSel.toNat
  let p := flagBaseOf s f
  let bad := blockBad s f (p.staged.toNat, (flagBlock s f).2) (grainsOf s f)
  let s1 := setFlagBase f (p.judge bad false false) s
  let s2 := if !bad && !grainWork s f then takeGrnPart f s1 else if bad then s1 else noteEarly f 1 s1
  logIf bad false islSeq (BitVec.ofNat 8 f) 5 s2

/-- LNK_LANE_COMMIT (15 R393): pending until the port's next entry into TRAIN. -/
def commitLnkLane (s : State) : State :=
  let k := s.dev.lnkSel.toNat
  let p := lnkLaneOf s k
  let n := p.staged.lanes.toNat
  let ls := (List.range n).map (fun i => bits p.staged.map.toNat (3 * i) 3)
  let bad := decide (n ∉ [2, 4, 8]) || decide (¬ ls.Nodup)
  let s1 := { s with dev := { s.dev with lnkLane := tset LnkLane.reset s.dev.lnkLane k (p.judge bad false false) } }
  logIf bad false (islLk k) 0xFF#8 6 s1

/-! ### The Keep region's size (16 R426, R429; 03 R87) -/

/-- A KEEP_WRITE or KEEP_READ is in execution, or a save or restore is in progress (03 R87). -/
def keepBusy (s : State) : Bool :=
  s.places.any (fun q => decide (q.2.stage = .running ∧ (opcodeOf q.2.words = 0x30 ∨ opcodeOf q.2.words = 0x31)))
    || decide (s.pwr.keepState = 1#2) || s.pwr.lost || s.pwr.trip || decide (s.boot.phase = 0x0B#8 ∨ s.boot.phase = 0x07#8)

/-- The sizes that R87 refuses. -/
def keepBad (k : KeepSz) : Bool :=
  decide (32 < k.size.toNat ∨ 48 < k.rsv.toNat ∨ 4 * k.rsv.toNat < 2 * k.size.toNat)

/-- A new size: blocks beyond it leave with their slots and their state; new blocks are clean, with no copy. -/
def resizeKeep (k : KeepSz) (s : State) : State :=
  let n := k.size.toNat * 4096
  { s with
    dev := { s.dev with keep := { s.dev.keep with inForce := k } },
    keep := { s.keep with blocks := s.keep.blocks.filter (fun b => decide (b.1 < n)),
                          nand := s.keep.nand.filter (fun e => decide (e.2.block < n)),
                          badSlots := s.keep.badSlots.filter (fun j => decide (j < 2 * n)) } }

/-- KEEP_COMMIT (20 Table 20.2, 03 R87). It loses to the GRC's KEEP_SET_SIZE of the same boundary: preempted, its staging
reloaded (Table 20.14). -/
def commitKeep (s : State) : State :=
  let p := s.dev.keep
  let bad := keepBad p.staged
  let busy := keepBusy s
  let me := pfOrder .keep .keepCommit 0#32
  match (rival s .keep [.keepSize]).filter (fun a => decide (a.master = 0)) with
  | some a =>
    logRefused 0x40 islPmu 0xFF#8 7 (logCollision a me true { s with dev := { s.dev with keep := p.lose } })
  | none =>
    let s1 := { s with dev := { s.dev with keep := p.judge bad busy true } }
    logIf bad busy islPmu 0xFF#8 7 (if bad || busy then s1 else noteOrder me (resizeKeep p.staged s1))

/-! ### The frequency request (08 R237, R238; 16 R423) -/

/-- Every channel whose set differs begins the change of Table 8.5; a migration pauses (08 Table 8.6). -/
def startChange (setB : Bool) (s : State) : State :=
  let s1 := { s with dev := { s.dev with freq := setB } }
  (List.range 16).foldl
    (fun s' c =>
      let b := bc s' c
      if b.setB = setB then s'
      else
        let q := quadMap s' (c / 4)
        setQuad (c / 4) { q with mig := q.mig.map (fun m => { m with paused := true }) } (setBc c { b with changing := true } s'))
    s1

/-- The channel-frequency loop holds set B (16 R423). -/
def freqHeld (s : State) : Bool := (loopRec s 3).active

/-- A write to BC_FREQ by the PF: refused under R238 and R423, else a change (20 R501). -/
def freqWrite (setB : Bool) (s : State) : State :=
  if freqHeld s && !setB then bump 10 (bump 3 s)
  else if (setB && s.dev.bInvalid) || (!setB && s.dev.aInvalid) then bump 3 s
  else startChange setB { s with dev := { s.dev with policyFreq := setB } }

/-! ### Registers by offset (20 Tables 20.4 to 20.13) -/

/-- A port's configuration at reset (08 Table 8.1). -/
def PortCfg.reset (p : Nat) : PortCfg :=
  { target := BitVec.ofNat 16 ([200, 100, 2000, 10000, 5000, 20000, 5000, 50000].getD p 0),
    mode := decide (p ∈ [2, 4, 5, 6]) }
def portCfg (s : State) (p : Nat) : PortCfg := tget (PortCfg.reset p) s.dev.portCfg p
def portRange (p : Nat) : Nat × Nat :=
  [(50, 10000), (50, 10000), (200, 50000), (1000, 50000), (500, 50000), (0, 0), (500, 50000), (0, 0)].getD p (0, 0)

def Trn.reset : Trn := { left := 0#7, right := 0#7, centre := 0#7, wvref := 0#7, rvref := 0#7, pass := false }
/-- The lane whose record BC_TRN_SEL selects. -/
def trnKey (s : State) : Nat := s.dev.trnSel.toNat
def trnOf (s : State) (k : Nat) : Trn := tget Trn.reset s.dev.trn k

def clampN (lo hi v : Nat) : Nat := max lo (min hi v)

/-- A quad's field of BC_RANK_STAT (20 R507). -/
def rankStat (s : State) (q : Nat) : Nat :=
  let m := quadMap s q
  let named := m.spareIn || m.mig.isSome
  m.fenced.toNat + (if named then ((m.spareFor.map (fun k => k.val)).getD 0) * 2 ^ 8 else 0) + bitIf m.spareIn 11
    + bitIf m.spareBad 12 + bitIf m.mig.isSome 13

/-- PMU_BOOT_STAT (18 Table 18.2). -/
def bootStat (s : State) : Nat :=
  let b := s.boot
  b.phase.toNat + b.code.toNat * 2 ^ 8 + bitIf b.mediaReady 16 + bitIf b.fabricReady 17 + bitIf b.fwSlot 18
    + bitIf b.fwFallback 19 + bitIf s.lnk.plan.isSome 20 + bitIf b.hubFault 21 + b.ms.toNat * 2 ^ 24

/-- An EVC_CFGn as it reads (19 Table 19.3). -/
def evcWord (e : Evc) : Nat :=
  e.source.toNat + e.inst.toNat * 2 ^ 8 + e.func.toNat * 2 ^ 16 + bitIf e.enable 24

/-- The word of a register as its own writes leave it: the staged value of an RWC field, the value of any other
(20 Tables 20.4 to 20.13). None for a reserved offset. -/
def regStaged (s : State) (off : Nat) : Option Nat :=
  let f := s.hub.tenSel.toNat
  let mf := s.hub.modelFn.toNat
  let mk := s.hub.modelSlot.toNat
  let g := grnPartOf s s.hub.grnSel.toNat
  let lp := s.dev.lnkSel.toNat
  let t := trnOf s (trnKey s)
  match off with
  | 0x0000 => some 0x210002
  | 0x0008 => some Config.serial.toNat
  | 0x0010 => some 0
  | 0x0040 => some f
  | 0x0048 => some (tenOf s f).staged.base.toNat
  | 0x0050 => some (tenOf s f).staged.limit.toNat
  | 0x0058 => some (tenOf s f).read
  | 0x0060 => some (descQuotaOf s f)
  | 0x0068 => some (posQuotaOf s f)
  | 0x0070 => some (pageQuotaOf s f)
  | 0x0080 => some (mf + mk * 2 ^ 8)
  | 0x0088 => some (modelOf s mf mk).staged.toNat
  | 0x0090 => some (modelOf s mf mk).read
  | 0x00A0 => some (costOf s mf mk).fix.toNat
  | 0x00A8 => some (costOf s mf mk).pos.toNat
  | 0x00B0 => some (costOf s mf mk).att.toNat
  | 0x00B8 => some (costOf s mf mk).pf.toNat
  | 0x0100 => some (ctrRead s 24 (fixedCtr s 0)).toNat
  | 0x0108 => some (ctrRead s 25 (fixedCtr s 1)).toNat
  | 0x0110 => some (ctrRead s 26 (fixedCtr s 2)).toNat
  | 0x0118 => some (ctrRead s 27 (fixedCtr s 3)).toNat
  | 0x1000 => some s.hub.marlPart.staged.bc.toNat
  | 0x1008 => some s.hub.marlPart.staged.lk.toNat
  | 0x1010 => some s.hub.marlPart.read
  | 0x1018 => some s.hub.dirtyCap.toNat
  | 0x1020 => some (marlQuotaOf s f)
  | 0x2000 => some s.dev.bcMap.staged.order.toNat
  | 0x2008 => some s.dev.bcMap.staged.ranks.toNat
  | 0x2010 => some s.dev.bcMap.read
  | 0x2018 => some (bitIf s.dev.freq 0 + bitIf (s.ctl.bcs.any (fun b => b.2.changing)) 8 + bitIf s.dev.aInvalid 9
      + bitIf s.dev.bInvalid 10)
  | 0x2020 => some s.dev.speedA.toNat
  | 0x2028 => some s.dev.speedB.toNat
  | 0x2030 => some s.dev.portSel.toNat
  | 0x2038 =>
    let c := portCfg s s.dev.portSel.toNat
    some (c.target.toNat + bitIf c.mode 16)
  | 0x2040 => some s.dev.trnSel.toNat
  | 0x2048 => some (t.left.toNat + t.right.toNat * 2 ^ 8 + t.centre.toNat * 2 ^ 16 + t.wvref.toNat * 2 ^ 24
      + t.rvref.toNat * 2 ^ 32 + bitIf t.pass 39)
  | 0x2050 => some s.dev.pnrDiv.toNat
  | 0x2058 => some s.dev.thrNs.toNat
  | 0x2060 => some s.dev.gcap.toNat
  | 0x2068 => some s.dev.pollNs.toNat
  | 0x2070 => some s.dev.ceThr.toNat
  | 0x2078 => some s.dev.migRate.toNat
  | 0x2080 => some ((List.range 4).foldl (fun n q => n + rankStat s q * 2 ^ (16 * q)) 0)
  | 0x2100 => some (ctrRead s 28 (fixedCtr s 4)).toNat
  | 0x2108 => some (ctrRead s 29 (fixedCtr s 5)).toNat
  | 0x3000 => some s.hub.grnSel.toNat
  | 0x3008 => some g.staged.set.toNat
  | 0x3010 => some (g.staged.lo.toNat + g.staged.hi.toNat * 2 ^ 16)
  | 0x3018 => some g.staged.flagQ.toNat
  | 0x3020 => some g.read
  | 0x4000 => some (flagBaseOf s s.hub.grnSel.toNat).staged.toNat
  | 0x4008 => some (flagBaseOf s s.hub.grnSel.toNat).read
  | 0x4010 => some s.hub.realign.toNat
  | 0x4018 => some s.hub.wdCtx.toNat
  | 0x4020 => some s.hub.wdEng.toNat
  | 0x4100 => some (ctrRead s 30 (fixedCtr s 6)).toNat
  | 0x5000 => some lp
  | 0x5008 => some (lnkLaneOf s lp).staged.lanes.toNat
  | 0x5010 => some (lnkLaneOf s lp).staged.map.toNat
  | 0x5018 => some (lnkLaneOf s lp).read
  | 0x5020 => some (portWord s lp)
  | 0x5028 => some s.dev.ratePin.toNat
  | 0x5100 => some (ctrRead s 31 (fixedCtr s 7)).toNat
  | 0x5108 => some (ctrRead s 32 (fixedCtr s 8)).toNat
  | 0x5110 => some (ctrRead s 33 (fixedCtr s 9)).toNat
  | 0x6000 => some s.dev.clkHold.toNat
  | 0x6008 => some s.dev.perfFloor.toNat
  | 0x6100 => some (ctrRead s 34 (fixedCtr s 10)).toNat
  | 0x6108 => some (ctrRead s 35 (fixedCtr s 11)).toNat
  | 0x7000 => some s.dev.keep.staged.size.toNat
  | 0x7008 => some s.dev.keep.staged.rsv.toNat
  | 0x7010 => some s.dev.keep.read
  | 0x7018 => some s.dev.trickle.toNat
  | 0x7020 => some s.dev.restoreStat.toNat
  | 0x7028 => some s.dev.restoreMtb.toNat
  | 0x8100 => some (ctrRead s 36 (fixedCtr s 12)).toNat
  | 0x9000 => some (bootStat s)
  | 0x9008 => some (now s).toNat
  | 0xA000 => some 128
  | n =>
    if 0x8000 ≤ n ∧ n < 0x8080 ∧ n % 8 = 0 then some (evcWord (evcCfg s ((n - 0x8000) / 8)))
    else if 0x8080 ≤ n ∧ n < 0x8100 ∧ n % 8 = 0 then
      some (ctrRead s (8 + (n - 0x8080) / 8) (tget 0#64 s.cnt.cnt ((n - 0x8080) / 8))).toNat
    else none

/-- What a read of a register returns (20 R498, 00 R7, R8): the value in force of an RWC field, 0 at a reserved
offset. -/
def readReg (s : State) (off : Nat) : Nat :=
  let g := (grnPartOf s s.hub.grnSel.toNat).inForce
  let l := (lnkLaneOf s s.dev.lnkSel.toNat).inForce
  match off with
  | 0x0048 => (tenOf s s.hub.tenSel.toNat).inForce.base.toNat
  | 0x0050 => (tenOf s s.hub.tenSel.toNat).inForce.limit.toNat
  | 0x0088 => (modelOf s s.hub.modelFn.toNat s.hub.modelSlot.toNat).inForce.toNat
  | 0x1000 => s.hub.marlPart.inForce.bc.toNat
  | 0x1008 => s.hub.marlPart.inForce.lk.toNat
  | 0x2000 => s.dev.bcMap.inForce.order.toNat
  | 0x2008 => s.dev.bcMap.inForce.ranks.toNat
  | 0x3008 => g.set.toNat
  | 0x3010 => g.lo.toNat + g.hi.toNat * 2 ^ 16
  | 0x3018 => g.flagQ.toNat
  | 0x4000 => (flagBaseOf s s.hub.grnSel.toNat).inForce.toNat
  | 0x5008 => l.lanes.toNat
  | 0x5010 => l.map.toNat
  | 0x7000 => s.dev.keep.inForce.size.toNat
  | 0x7008 => s.dev.keep.inForce.rsv.toNat
  | n => (regStaged s n).getD 0

/-- The largest power of two that is not above v. -/
def pow2Below (v : Nat) : Nat := if v = 0 then 0 else 2 ^ Nat.log2 v

/-- The clock fields of PWR_CLK_HOLD and PWR_PERF_FLOOR, clamped (20 Table 20.10, R500). -/
def clkFields (w : Nat) : BitVec 34 :=
  BitVec.ofNat 10 (clampN 300 640 (bits w 24 10)) ++ BitVec.ofNat 12 (clampN 600 1200 (bits w 12 12))
    ++ BitVec.ofNat 12 (clampN 500 1500 (bits w 0 12))

/-- The rate a port goes to: fallback where it is pinned there or the loop holds it there (15 R408). -/
def applyPins (s : State) : State :=
  (List.range 6).foldl (fun s' p => setRate p (decide (ratePinOf s' p = 1) || (port s' p).loopHold) s') s

/-- A coded field that is written with a value without a meaning keeps its value (20 R500). -/
def ratePins (old w : Nat) : Nat :=
  (List.range 6).foldl (fun n p => n + (if bits w (2 * p) 2 = 3 then bits old (2 * p) 2 else bits w (2 * p) 2) * 2 ^ (2 * p)) 0

/-- Write a port's configuration (20 Table 20.6). -/
def writePortCfg (w : Nat) (s : State) : State :=
  let p := s.dev.portSel.toNat
  let c := portCfg s p
  let r := portRange p
  let n : PortCfg := { target := if p = 5 ∨ p = 7 then c.target else BitVec.ofNat 16 (clampN r.1 r.2 (bits w 0 16)),
                       mode := if p = 7 then c.mode else bitAt w 16 }
  { s with dev := { s.dev with portCfg := tset (PortCfg.reset p) s.dev.portCfg p n } }

def writeTrn (w : Nat) (s : State) : State :=
  let v (n : Nat) : BitVec 7 := BitVec.ofNat 7 (clampN 40 88 n)
  let t : Trn := { left := BitVec.ofNat 7 (bits w 0 7), right := BitVec.ofNat 7 (bits w 8 7),
                   centre := BitVec.ofNat 7 (bits w 16 7), wvref := v (bits w 24 7), rvref := v (bits w 32 7),
                   pass := bitAt w 39 }
  { s with dev := { s.dev with trn := tset Trn.reset s.dev.trn (trnKey s) t } }

/-- Write the HUB, MARL, GRN and SYN registers with the word w. -/
def writeHub (off w : Nat) (s : State) : State :=
  let h := s.hub
  let f := h.tenSel.toNat
  let mi := h.modelFn.toNat * 16 + h.modelSlot.toNat
  let ct := costOf s h.modelFn.toNat h.modelSlot.toNat
  let gf := h.grnSel.toNat
  let g := grnPartOf s gf
  let put (x : HubRegs) : State := { s with hub := x }
  let cost (c : Cost) : State := put { h with cost := tset Cost.reset h.cost mi c }
  let ten (t : Ten) : State := put { h with ten := tset (Ten.reset f) h.ten f { tenOf s f with staged := t } }
  let gp (x : GrnPart) : State := setGrnPart gf { g with staged := x } s
  match off with
  | 0x0040 => put { h with tenSel := BitVec.ofNat 8 w }
  | 0x0048 => ten { (tenOf s f).staged with base := BitVec.ofNat 12 w }
  | 0x0050 => ten { (tenOf s f).staged with limit := BitVec.ofNat 12 w }
  | 0x0060 => put { h with descQuota := tset 1024#11 h.descQuota f (BitVec.ofNat 11 (clampN 1 1024 (bits w 0 11))) }
  | 0x0068 => put { h with posQuota := tset 0#16 h.posQuota f (BitVec.ofNat 16 w) }
  | 0x0070 => put { h with pageQuota := tset 8388608#24 h.pageQuota f (BitVec.ofNat 24 w) }
  | 0x0080 => put { h with modelFn := BitVec.ofNat 8 w, modelSlot := BitVec.ofNat 4 (bits w 8 4) }
  | 0x0088 => put { h with model := tset (Pair.at_ 0#39) h.model mi
                             { tget (Pair.at_ 0#39) h.model mi with staged := BitVec.ofNat 39 w } }
  | 0x00A0 => cost { ct with fix := BitVec.ofNat 64 (bits w 0 16) }
  | 0x00A8 => cost { ct with pos := BitVec.ofNat 64 (bits w 0 32) }
  | 0x00B0 => cost { ct with att := BitVec.ofNat 64 (bits w 0 32) }
  | 0x00B8 => cost { ct with pf := BitVec.ofNat 64 (bits w 0 32) }
  | 0x1000 => put { h with marlPart := { h.marlPart with staged := { h.marlPart.staged with bc := BitVec.ofNat 5 w } } }
  | 0x1008 => put { h with marlPart := { h.marlPart with staged := { h.marlPart.staged with lk := BitVec.ofNat 6 w } } }
  | 0x1018 => put { h with dirtyCap := BitVec.ofNat 5 (clampN 1 16 (bits w 0 5)) }
  | 0x1020 => put { h with marlQuota := tset 2496#12 h.marlQuota f (BitVec.ofNat 12 w) }
  | 0x3000 => put { h with grnSel := BitVec.ofNat 8 w }
  | 0x3008 => gp { g.staged with set := BitVec.ofNat 38 w }
  | 0x3010 => gp { g.staged with lo := BitVec.ofNat 12 w, hi := BitVec.ofNat 12 (bits w 16 12) }
  | 0x3018 => gp { g.staged with flagQ := BitVec.ofNat 15 w }
  | 0x4000 => setFlagBase gf { flagBaseOf s gf with staged := BitVec.ofNat 14 w } s
  | 0x4010 => put { h with realign := BitVec.ofNat 5 (clampN 16 30 (bits w 0 5)) }
  | 0x4018 => put { h with wdCtx := BitVec.ofNat 10 (clampN 1 1000 (bits w 0 10)) }
  | 0x4020 => put { h with wdEng := BitVec.ofNat 13 (clampN 10 5000 (bits w 0 13)) }
  | _ => s

/-- Write the BC, LNK, PWR and KEEP registers with the word w. -/
def writeDev (off w : Nat) (s : State) : State :=
  let d := s.dev
  let put (x : DevRegs) : State := { s with dev := x }
  let lp := d.lnkSel.toNat
  let lane (v : LnkLane) : State := put { d with lnkLane := tset LnkLane.reset d.lnkLane lp { lnkLaneOf s lp with staged := v } }
  match off with
  | 0x2000 => put { d with bcMap := { d.bcMap with staged := { d.bcMap.staged with order := BitVec.ofNat 2 w } } }
  | 0x2008 => put { d with bcMap := { d.bcMap with staged := { d.bcMap.staged with ranks := BitVec.ofNat 32 w } } }
  | 0x2018 => freqWrite (bitAt w 0) s
  | 0x2020 => if bits w 0 2 = 3 then s else put { d with speedA := BitVec.ofNat 2 w }
  | 0x2028 => if bits w 0 2 = 3 then s else put { d with speedB := BitVec.ofNat 2 w }
  | 0x2030 => put { d with portSel := BitVec.ofNat 3 w }
  | 0x2038 => writePortCfg w s
  | 0x2040 =>
    let rk := if bits w 4 2 = 3 then bits d.trnSel.toNat 4 2 else bits w 4 2
    put { d with trnSel := BitVec.ofNat 10 (bits w 0 4 + rk * 2 ^ 4 + bits w 6 4 * 2 ^ 6) }
  | 0x2048 => writeTrn w s
  | 0x2050 => put { d with pnrDiv := BitVec.ofNat 13 (clampN 16 4096 (pow2Below (bits w 0 13))) }
  | 0x2058 => put { d with thrNs := BitVec.ofNat 14 (clampN 1000 16000 (bits w 0 14)) }
  | 0x2060 => put { d with gcap := BitVec.ofNat 7 (clampN 32 64 (bits w 0 7)) }
  | 0x2068 => put { d with pollNs := BitVec.ofNat 14 (clampN 100 10000 (bits w 0 14)) }
  | 0x2070 => put { d with ceThr := BitVec.ofNat 16 w }
  | 0x2078 => put { d with migRate := BitVec.ofNat 6 (clampN 8 48 (bits w 0 6)) }
  | 0x5000 => if 6 ≤ bits w 0 3 then s else put { d with lnkSel := BitVec.ofNat 3 w }
  | 0x5008 => lane { (lnkLaneOf s lp).staged with lanes := BitVec.ofNat 4 w }
  | 0x5010 => lane { (lnkLaneOf s lp).staged with map := BitVec.ofNat 24 w }
  | 0x5028 => applyPins (put { d with ratePin := BitVec.ofNat 12 (ratePins d.ratePin.toNat w) })
  | 0x6000 => put { d with clkHold := clkFields w }
  | 0x6008 => put { d with perfFloor := clkFields w }
  | 0x7000 => put { d with keep := { d.keep with staged := { d.keep.staged with size := BitVec.ofNat 6 w } } }
  | 0x7008 => put { d with keep := { d.keep with staged := { d.keep.staged with rsv := BitVec.ofNat 6 w } } }
  | 0x7018 => put { d with trickle := BitVec.ofNat 16 w }
  | _ => s

/-- Write an EVC_CFGn: its counter returns to 0 and to service (19 R486, R495). -/
def writeEvcCfg (n w : Nat) (s : State) : State :=
  let e : Evc := { source := BitVec.ofNat 8 w, inst := BitVec.ofNat 8 (bits w 8 8), func := BitVec.ofNat 8 (bits w 16 8),
                   enable := bitAt w 24 }
  { s with cnt := { s.cnt with cfg := tset Evc.reset s.cnt.cfg n e, cnt := terase s.cnt.cnt n,
                               parity := s.cnt.parity.filter (fun i => decide (i ≠ 8 + n)) } }

/-- A commit register written with bit 0 set. -/
def commitAt (off : Nat) (s : State) : State :=
  match off with
  | 0x0058 => commitTen s
  | 0x0090 => commitModel s
  | 0x1010 => commitMarlPart s
  | 0x2010 => commitBcMap s
  | 0x3020 => commitGrnPart s
  | 0x4008 => commitFlagB s
  | 0x5018 => commitLnkLane s
  | 0x7010 => commitKeep s
  | _ => s

def isCommit (off : Nat) : Bool := decide (off ∈ [0x0058, 0x0090, 0x1010, 0x2010, 0x3020, 0x4008, 0x5018, 0x7010])

/-- The island of a block has been released (20 Table 20.1). -/
def blockUp (s : State) (off : Nat) : Bool :=
  match off / 0x1000 with
  | 1 => s.boot.relMarl
  | 2 => decide (s.boot.relBc = 0xFFFF#16)
  | 4 => s.boot.relSeq
  | 5 => s.boot.relLk
  | _ => true

end Sys2Proof.Machine
end

