-- ==== Sys2Proof/Machine/KeepOps.lean ====
section
/-! DEFINITION. The shared operations on the Keep region: the energy of the hold-up bank (16 R431, R432), the blocks
and their copies in the Keep NAND (R427 to R430), Silt Save (R437, R438) and the restore (R440, R441). -/

namespace Sys2Proof.Machine

/-! ### Energy -/

/-- holdup_mj from the capacitance in µF and the voltage in mV (R431); 0 when negative. -/
def holdupMj (uf mv : Nat) : Nat := 437 * uf * (mv * mv - 64000000) / 1000000000000 - 15000

/-- need_mj of B dirty bytes (R432). -/
def needMj (bytes : Nat) : Nat := 2000 + (bytes * 38 + 4199999) / 4200000

/-- The dirty Keep blocks, in ascending order (R427). -/
def dirtyBlocks (s : State) : List Nat := (s.keep.blocks.filter (fun b => b.2.dirty)).map (fun b => b.1)

def dirtyBytes (s : State) : Nat := (dirtyBlocks s).length * 65536

/-! ### Blocks and slots -/

/-- The Keep blocks that n bytes from offset o touch. -/
def blocksTouched (o n : Nat) : List Nat :=
  if n = 0 then [] else (List.range ((o + n - 1) / 65536 + 1 - o / 65536)).map (fun i => o / 65536 + i)

/-- The slot that does not hold the block's latest committed copy (R428). -/
def altSlot (b : KBlock) (i : Nat) : Nat := if b.slot = some (2 * i) then 2 * i + 1 else 2 * i

/-- The spare NAND blocks left: what the reservation holds beside two slots for each Keep block (R428). -/
def sparesLeft (s : State) : Nat :=
  s.dev.keep.inForce.rsv.toNat * 16384 - s.dev.keep.inForce.size.toNat * 8192 - s.keep.sparesUsed

/-- The slots of a block that were retired when no spare was left (R443). -/
def badSlotsOf (s : State) (i : Nat) : List Nat := s.keep.badSlots.filter (fun k => decide (k / 2 = i))

/-- The slot a block's next copy goes to can be programmed. -/
def copyable (s : State) (i : Nat) : Bool := decide (altSlot (kblock s i) i ∉ s.keep.badSlots)

/-- The DPA of byte 0 of a physical column word that serves a data rank. -/
def dpaOfWord (s : State) (w : Nat) : Option Nat :=
  let l := logicalLoc s (wordLoc w)
  if l.r < 2 ∧ locWord (physLoc s l) = w then some (locDpa (amo s) l) else none

/-- Whether a physical column word lies in DPA bytes a to b - 1. -/
def wordWithin (s : State) (a b w : Nat) : Bool :=
  match dpaOfWord s w with
  | some x => decide (a ≤ x ∧ x < b)
  | none => false

/-- The bytes of a Keep block, keyed by their offset in it, and the offsets of its poisoned column words. -/
def blockData (s : State) (i : Nat) : Memory × List Nat :=
  let lo := i * 65536
  let put (m : Memory) (p : Nat × Byte) : Memory :=
    match dpaOfWord s (p.1 / 32) with
    | some x => if lo ≤ x ∧ x < lo + 65536 then Memory.setByte m (x - lo + p.1 % 32) p.2 else m
    | none => m
  let bad := (s.bank.marks.filter (fun p => p.2.poison && wordWithin s lo (lo + 65536) p.1)).filterMap (fun p =>
    (dpaOfWord s p.1).map (fun x => x - lo))
  (s.bank.mem.foldl put [], bad)

/-- Serve every queued write of a bank controller in order (08 R228). -/
def drainBc (c : Nat) (s : State) : State :=
  let b := bc s c
  b.writes.foldl (fun s' u => writeUnit c u.rank u.bank u.row u.col u.data u.mask u.poison s')
    (setBc c { b with writes := [] } s)

def drainBcs (s : State) : State := (List.range 16).foldl (fun s' c => drainBc c s') s

/-- The state with the queued writes and the Marl's copies of a block in its banks: a copy of the block holds every
committed byte (02 R41; DEDUCED, log entry 48). -/
def settledBlock (s : State) (i : Nat) : State :=
  let mine (w : Nat) : Bool := wordWithin s (i * 65536) ((i + 1) * 65536) w
  drainBcs (writeBackAll ((dirtyWords s).filter mine) s)

/-- Commit a copy of a block to its alternate slot; the block is clean (R427, R428). -/
def commitCopy (i : Nat) (s : State) : State :=
  let b := kblock s i
  let k := altSlot b i
  let d := blockData (settledBlock s i) i
  let e : NandSlot := { block := i, gen := b.gen + 1#64, tagOk := true, data := d.1, poison := d.2 }
  let s1 := { s with keep := { s.keep with nand := tput s.keep.nand k e } }
  setKblock i { b with dirty := false, gen := b.gen + 1#64, slot := some k, copying := false } s1

/-- Drop every copy in progress: its slot header is not programmed (R427). -/
def abandonCopies (s : State) : State :=
  let bs := s.keep.blocks.map (fun b => (b.1, { b.2 with copying := false }))
  { s with keep := { s.keep with blocks := bs.filter (fun b => decide (b.2 ≠ KBlock.reset)) } }

/-! ### Stopping the module -/

/-- HALTG at every running grain. -/
def haltGrains (s : State) : State :=
  (s.bank.grains.filter (fun g => decide (g.2.state = .running))).foldl (fun s' g => haltGrain g.1 s') s

/-! ### Silt Save -/

/-- The DPA extent of a page (08 Table 8.3): its first byte and its length. -/
def pageExtent (o pg : Nat) : Nat × Nat :=
  let g := pg / 4096
  let p := pg % 4096
  match o with
  | 0 => (p * 2 ^ 27, 2 ^ 27)
  | 1 => (p * 2 ^ 27, 2 ^ 27)
  | 2 => (g / 512 * 2 ^ 37 + p * 2 ^ 25, 2 ^ 25)
  | _ => (g / 128 * 2 ^ 35 + g / 64 % 2 * 2 ^ 34 + g % 16 * 2 ^ 30 + p * 2 ^ 18, 2 ^ 18)

/-- A page whose extent lies wholly in the Keep region (14 R390). -/
def pageInKeep (s : State) (pg : Nat) : Bool :=
  let e := pageExtent (amo s) pg
  decide (e.1 + e.2 ≤ keepBytes s)

/-- Steps 2 to 6 of Table 16.4: grains halted, dirty lines of the Keep region written back (02 R57), dirty blocks
copied in ascending order, at most `covers` of them before the energy runs out (R438), the save record, and its entry
in the persistent fault log (18 R481). `dead` holds column words that cannot be written back; a block that holds one
is not copied (18 R478). Before Media Ready nothing is saved (18 Table 18.8). -/
def saveKeep (covers : Nat) (dead : List Nat) (s : State) : State :=
  if !s.boot.mediaReady && decide (s.boot.phase ≠ 0x0A#8) then abandonCopies (haltGrains s)
  else
    let s0 := drainBcs (abandonCopies (haltGrains s))
    let ws := (dirtyWords s0).filter (fun w => wordInKeep s0 w && !decide (w ∈ dead))
    let s1 := drainBcs (writeBackAll ws s0)
    let lost := dead.filterMap (fun w => (dpaOfWord s0 w).map (fun x => x / 65536))
    let dirty := dirtyBlocks s1
    let done := (dirty.filter (fun i => !decide (i ∈ lost) && copyable s1 i)).take covers
    let s2 := done.foldl (fun s' i => commitCopy i s') s1
    let stale := dirty.length - done.length
    let r : SaveRec :=
      { mtb := now s, blocks := done.length, stale := stale, keep := s.dev.keep.inForce,
        grants := s.serve.pages.filter (fun p => pageInKeep s p.1),
        returns := (s.serve.clearing.map (fun p => p.1)).filter (pageInKeep s) }
    plogAdd (locOf 0 0) (done.length + stale * 2 ^ 32) { s2 with keep := { s2.keep with record := some r } }

/-! ### Restore -/

/-- What the slots of a block give (R440). -/
inductive Copied where
  | none | newest (k : Nat) (e : NandSlot) | older (k : Nat) (e : NandSlot) | bad
  deriving DecidableEq, Repr

def chooseCopy (s : State) (i : Nat) : Copied :=
  let held (k : Nat) : Option NandSlot := match tfind s.keep.nand k with
    | some e => if e.block = i then some e else none
    | none => none
  let pick (a b : Nat × NandSlot) : Copied :=
    if a.2.tagOk then .newest a.1 a.2 else if b.2.tagOk then .older b.1 b.2 else .bad
  match held (2 * i), held (2 * i + 1) with
  | none, none => .none
  | some a, none => if a.tagOk then .newest (2 * i) a else .bad
  | none, some b => if b.tagOk then .newest (2 * i + 1) b else .bad
  | some a, some b => if b.gen ≤ a.gen then pick (2 * i, a) (2 * i + 1, b) else pick (2 * i + 1, b) (2 * i, a)

/-- The physical column word of a DPA. -/
def wordOfDpa (s : State) (a : Nat) : Nat := locWord (physLoc s (dpaLoc (amo s) a))

/-- Write a copy to its block's DPA, the rest of the block being zero already. -/
def writeCopy (i : Nat) (e : NandSlot) (s : State) : State :=
  let lo := i * 65536
  let m := e.data.foldl (fun m p => Memory.setByte m (wordOfDpa s (lo + p.1) * 32 + p.1 % 32) p.2) s.bank.mem
  let k := e.poison.foldl (fun t o => tset Mark.clean t (wordOfDpa s (lo + o)) { poison := true, flips := 0 }) s.bank.marks
  { s with bank := { s.bank with mem := m, marks := k } }

/-- Mark every unit of a block poisoned (R440, 08 R230). -/
def poisonBlock (i : Nat) (s : State) : State :=
  let k := (List.range 2048).foldl
    (fun t j => tset Mark.clean t (wordOfDpa s (i * 65536 + j * 32)) { poison := true, flips := 0 }) s.bank.marks
  { s with bank := { s.bank with marks := k } }

/-- Restore one block; the state, the stale and the poisoned blocks so far. -/
def restoreBlock (a : State × Nat × Nat) (i : Nat) : State × Nat × Nat :=
  match chooseCopy a.1 i with
  | .none => a
  | .newest k e => (setKblock i { KBlock.reset with gen := e.gen, slot := some k } (writeCopy i e a.1), a.2)
  | .older k e => (setKblock i { KBlock.reset with gen := e.gen, slot := some k } (writeCopy i e a.1), a.2.1 + 1, a.2.2)
  | .bad => (setKblock i KBlock.reset (poisonBlock i a.1), a.2.1, a.2.2 + 1)

/-- The blocks with a copy in the Keep NAND, of those in force. -/
def nandBlocks (s : State) : List Nat :=
  ((s.keep.nand.map (fun e => e.2.block)).dedup).filter (fun i => decide (i * 65536 < keepBytes s))

/-- The whole restore (R440, R441; 14 R375, R390). -/
def restoreKeep (s : State) : State :=
  let n := keepBytes s
  let s0 := { s with
    bank := { s.bank with mem := s.bank.mem.filter (fun p => !wordWithin s 0 n (p.1 / 32)),
                          marks := s.bank.marks.filter (fun p => !wordWithin s 0 n p.1) },
    keep := { s.keep with blocks := [] } }
  let r := (nandBlocks s0).foldl restoreBlock (s0, 0, 0)
  let stale := r.2.1 + (s.keep.record.map (fun x => x.stale)).getD 0
  let bad := r.2.2
  let s1 := r.1
  let s2 := match s.keep.record with
    | some x => x.returns.foldl (fun s' pg => clearPage pg s') { s1 with serve := { s1.serve with pages := x.grants } }
    | none => s1
  let stat := 1 + bitIf s.keep.record.isSome 1 + satNat 32 stale * 4 + satNat 16 bad * 2 ^ 34
  let s3 := { s2 with dev := { s2.dev with restoreStat := BitVec.ofNat 64 stat,
                                           restoreMtb := (s.keep.record.map (fun x => x.mtb)).getD 0#64 } }
  if stale = 0 ∧ bad = 0 then s3 else logDev 0x03 0x36 (locOf 0 0) (satNat 32 stale + satNat 16 bad * 2 ^ 32) 0 s3

end Sys2Proof.Machine
end

