-- ==== Sys2Proof/Machine/Reset.lean ====
section
/-! DEFINITION. The resets of the whole module (18 R474 to R476, Tables 18.3 to 18.5): what a warm reset does, the
state a cold reset leaves, and the commands that cause a warm reset from the host side (03 R91, 18 Table 18.3). -/

namespace Sys2Proof.Machine

/-- A change of phase, with its time in ms since power good (18 Table 18.2). -/
def setPhase (ph : Byte) (code : Nat) (s : State) : State :=
  { s with boot := { s.boot with phase := ph, code := BitVec.ofNat 8 code,
                                 ms := BitVec.ofNat 32 (satNat 32 (s.clk.up.toNat / 1000000)) } }

/-! ### Warm reset -/

/-- A ring after a warm reset (04 R116, R118, R122): bases and sizes are kept, and the MSI-X bit returns to its reset value as
every other RW field (00 Table 0.2, 18 Table 18.5; DEDUCED, log entry 92). -/
def warmRing (r : Ring) : Ring :=
  { r with msix := false, enable := false, needResync := true, stalled := false, baseWritten := false, lastBuilt := r.lastDsn,
           fetches := [], built := [] }

/-- The rings whose need_resync becomes 1 signal vector 1 (03 Table 3.6, 04 R111). -/
def warmSignals (s : State) : List Out :=
  ((List.range 256).filter (fun f => !(tget Ring.reset s.rings f).needResync)).map (fun f => .msix (Fin.ofNat 256 f) 1)

/-- The HUB, MARL, GRN and SYN registers after a warm reset (18 Table 18.5, 20 R511). -/
def HubRegs.warm (h : HubRegs) : HubRegs :=
  { HubRegs.reset with
    ten := (h.ten.map (fun p => (p.1, p.2.discard))).filter (fun p => decide (p.2 ≠ Ten.reset p.1)),
    marlPart := h.marlPart.discard,
    grnPart := (h.grnPart.map (fun p => (p.1, p.2.discard))).filter (fun p => decide (p.2 ≠ GrnPart.reset p.1)),
    flagBase := (h.flagBase.map (fun p => (p.1, p.2.discard))).filter (fun p => decide (p.2 ≠ Pair.at_ 0#14)) }

/-- The BC, LNK, PWR and KEEP registers after a warm reset (18 Table 18.5). -/
def DevRegs.warm (d : DevRegs) : DevRegs :=
  { DevRegs.reset with
    bcMap := d.bcMap.discard, aInvalid := d.aInvalid, bInvalid := d.bInvalid, speedA := d.speedA, speedB := d.speedB,
    runA := d.runA, runB := d.runB, trn := d.trn,
    lnkLane := (d.lnkLane.map (fun p => (p.1, p.2.discard))).filter (fun p => decide (p.2 ≠ LnkLane.reset)),
    keep := d.keep.discard }

/-- The pass lane's copies, in order (02 R59). -/
def passWords (s : State) : List Nat :=
  (s.marl.copies.filter (fun p => decide (p.2.region = none))).map (fun p => p.1)

/-- Steps 2 to 4 of Table 18.4 on the grains, the banks and the Marl. -/
def warmBanks (s : State) : State :=
  let s1 := drainBcs (writeBackAll (passWords s) (haltGrains s))
  let gs := s1.bank.grains.map (fun g => (g.1, { Grain.reset with eccCorrected := g.2.eccCorrected }))
  let sp : Byte := s.dev.runA.setWidth 8
  let ds := s1.bank.dies.map (fun d => (d.1, { d.2 with openRows := [], sel := 0#16, deferred := [], speed := s.dev.runA,
                                                        mr := tset 2#8 (tset 2#8 d.2.mr 0x02 sp) 0x102 sp }))
  let qs := s1.ctl.quads.map (fun q => (q.1, { q.2 with mig := q.2.mig.map (fun m => { m with paused := false }) }))
  { s1 with
    bank := { s1.bank with grains := gs.filter (fun g => decide (g.2 ≠ Grain.reset)),
                           dies := ds.filter (fun d => decide (d.2 ≠ DieSt.reset)) },
    ctl := { s1.ctl with bcs := [], quads := qs.filter (fun q => decide (q.2 ≠ QuadMap.reset)) },
    marl := { s1.marl with copies := [], sram := [], regions := [], binds := [] } }

/-- The pages of PAGE_RETURNs that the reset ended are cleared, and are free (14 R375). -/
def finishReturns (s : State) : State :=
  let pgs := s.serve.clearing.map (fun p => p.1)
  let s1 := pgs.foldl (fun s' pg => if isFenced s' (pg / 4096 / 128) (pg / 4096 / 64 % 2) then s' else clearPage pg s') s
  { s1 with serve := { s1.serve with clearing := [] } }

/-- Contexts, queues, kept images, flags and wires are cleared (12 R334, R340). -/
def warmSeq (s : State) : State :=
  let freed := s.seq.ctxs.foldl (fun t x => tset 0#64 t x.1 (now s)) s.seq.freed
  { s with seq := { Seq.reset with freed := freed, clearedAt := now s } }

/-- What a warm reset does (18 Tables 18.4, 18.5). -/
def warmClear (s : State) : State :=
  let s1 := finishReturns (warmBanks s)
  let s2 := warmSeq s1
  { s2 with
    out := s2.out ++ warmSignals s,
    rings := (List.range 256).map (fun f => (f, warmRing (tget Ring.reset s.rings f))), places := [],
    hub := s.hub.warm, dev := s.dev.warm, cnt := Counters.reset, spdm := Spdm.reset, eng := Eng.reset,
    clk := { s.clk with stepped := false },
    cxl := { s.cxl with up := false, ideIo := { Ide.reset with failed := s.cxl.ideIo.failed },
                        ideMem := { Ide.reset with failed := s.cxl.ideMem.failed }, hdm0 := Hdm.reset, hdm1 := Hdm.reset },
    serve := { Serve.reset with pages := s2.serve.pages },
    lnk := { Lnk.reset with plan := s.lnk.plan },
    pwr := { s2.pwr with loops := terase s2.pwr.loops 3 } }

/-- The module can take a warm reset: powered, neither halted nor in a hub fault nor saving (18 R473, R478, Table 18.8). -/
def mayWarm (s : State) : Bool :=
  s.boot.powered && !s.boot.hubFault && !s.pwr.lost && !s.pwr.trip
    && decide (s.boot.phase ≠ 0x0E#8 ∧ s.boot.phase ≠ 0x0B#8)

/-- A warm reset: one at a time (18 Table 18.8); a cause before HOST is released acts on nothing (21 R523, Table 18.8: the cold
reset); a cold start that has not reached Media Ready goes on after it (DESIGN CHOICE, log entry 37). -/
def warmReset (s : State) : State :=
  if !mayWarm s || !s.boot.relHost || decide (s.boot.phase = 0x0A#8) then s
  else
    let s1 := warmClear s
    if s.boot.mediaReady then
      setPhase 0x0A#8 0 { s1 with boot := { s1.boot with
        mediaReady := false, fabricReady := false, relHost := false, relMarl := false, relBc := 0#16, relSeq := false,
        relLay := false, relMx := 0#4, relLk := false, portWaived := 0#6 } }
    else s1

/-! ### Cold reset -/

/-- A quad's ranks after cold reset: the rank map is kept; a spare that was to take a rank's place has it, since no
content is left to copy (08 R215, R244; DEDUCED, log entry 38). -/
def QuadMap.cold (q : QuadMap) : QuadMap :=
  match q.mig, q.failed with
  | some _, _ => { q with mig := none, failed := none, spareIn := true }
  | none, some k => { q with failed := none, spareFor := some k, spareIn := true }
  | none, none => q

/-- The patch images that the slot to boot holds; those of the image at manufacture stand as they are (09 R267). -/
def patchesOf (f : Fw) : List Nat :=
  let im := if f.nextSlot then f.image1 else f.image0
  if im = [] then f.patches else Config.imagePatches im

/-- The module at step 1 of Table 18.1, with what survives a cold reset (18 Table 18.5, R481; 16 R441; 08 R237, R244;
05 R156); the KEEP pair comes from the Keep NAND's record (20 Table 20.11). -/
def coldState (s : State) : State :=
  let ks : KeepSz := (s.keep.record.map (fun r => r.keep)).getD { size := 0#6, rsv := 0#6 }
  { State.reset with
    pending := s.pending, out := s.out, freeCtr := s.freeCtr,
    boot := { Boot.reset with slotId := s.boot.slotId, powerOnCount := s.boot.powerOnCount },
    fw := { s.fw with active := s.fw.nextSlot, patches := patchesOf s.fw },
    dev := { DevRegs.reset with speedA := s.dev.speedA, speedB := s.dev.speedB, runA := s.dev.speedA,
                                runB := s.dev.speedB, keep := Pair.at_ ks },
    log := { Log.reset with plog := s.log.plog },
    bank := { Banks.reset with mappedOut := s.bank.mappedOut },
    ctl := { Ctl.reset with quads := s.ctl.quads.map (fun q => (q.1, q.2.cold)) },
    pwr := { Pwr.reset with capUf := s.pwr.capUf, bankMv := s.pwr.bankMv, holdup := holdupMj s.pwr.capUf s.pwr.bankMv },
    keep := { s.keep with blocks := [] },
    tray := s.tray, grc := s.grc }

/-- A cold reset with input power present: the next cold start begins. -/
def coldReset (s : State) : State :=
  let t := coldState s
  { t with boot := { t.boot with powerOnCount := s.boot.powerOnCount + 1#32 } }

/-- The rails are off. -/
def powerOff (s : State) : State :=
  let t := coldState s
  { t with boot := { t.boot with powered := false } }

/-! ### Causes on the host side (18 Table 18.3) -/

/-- CXL conventional reset of the device: a warm reset (18 R474). -/
def execConventionalReset (s : State) : Host.Outcome State Fault Refusal := ok (warmReset s)

/-- FLR of the PF: a warm reset of the whole module (18 R475). -/
def execFlrPf (s : State) : Host.Outcome State Fault Refusal := ok (if hostUp s then warmReset s else s)

/-- Loss of the CXL link: logged, then as on a warm reset (03 R91). -/
def execCxlLinkLoss (s : State) : Host.Outcome State Fault Refusal :=
  if s.cxl.up then ok (warmReset (logDev 0x03 0x31 (locOf 0 0) 0 0 { s with cxl := { s.cxl with up := false } })) else ok s

/-- An IDE integrity failure of a keyed stream: the stream ends, and a warm reset follows (03 R79, 18 Table 18.7). -/
def execIdeIntegrityFailure (mem : Bool) (s : State) : Host.Outcome State Fault Refusal :=
  let v : Ide := { Ide.reset with failed := true }
  if (if mem then s.cxl.ideMem else s.cxl.ideIo).key.isSome then
    ok (warmReset (logDev 0x03 0x32 (locOf 0 0) 0 0
      { s with cxl := if mem then { s.cxl with ideMem := v } else { s.cxl with ideIo := v } }))
  else ok s

end Sys2Proof.Machine
end

