-- ==== Sys2Proof/Machine/Registers.lean ====
section
/-! DEFINITION. Writes to the PF's BAR0 (20 R497 to R504, R511): the plain registers, the commits, the counter
configurations, BC_FREQ and HUB_RESET, and the writes held for an island that is not yet released. -/

namespace Sys2Proof.Machine

/-- Offsets of RO registers: a write does nothing and is not counted (00 Table 0.2). -/
def regRo (off : Nat) : Bool :=
  decide (off ∈ [0x0000, 0x0008, 0x0100, 0x0108, 0x0110, 0x0118, 0x2080, 0x2100, 0x2108, 0x4100, 0x5020, 0x5100, 0x5108,
    0x5110, 0x6100, 0x6108, 0x7020, 0x7028, 0x8100, 0x9000, 0x9008, 0xA000])
    || decide (0x8080 ≤ off ∧ off < 0x8100)

/-- The 64-bit word a write of 4 or 8 bytes leaves a register to judge (20 R497): the half it does not cover keeps
what the register's own writes left. A WO bit that the write does not cover is 0. -/
def mergedWord (off size v old : Nat) : Nat :=
  if size = 8 then v % 2 ^ 64
  else if off % 8 = 0 then v % 2 ^ 32 + old / 2 ^ 32 * 2 ^ 32
  else old % 2 ^ 32 + v % 2 ^ 32 * 2 ^ 32

/-- A write that has reached its block takes effect (20 R498). -/
def applyWrite (off size v : Nat) (s : State) : State :=
  let reg := off - off % 8
  let covered := decide (size = 8 ∨ off % 8 = 0)
  let wo := isCommit reg || decide (reg = 0x0010)
  let w := mergedWord off size v (if wo then 0 else (regStaged s reg).getD 0)
  if isCommit reg then (if bitAt w 0 then commitAt reg s else s)
  else if reg = 0x0010 then (if bitAt w 0 then warmReset s else s)
  else if reg = 0x2018 then (if covered then freqWrite (bitAt w 0) s else s)
  else if 0x8000 ≤ reg ∧ reg < 0x8080 then writeEvcCfg ((reg - 0x8000) / 8) w s
  else if reg / 0x1000 = 0 ∨ reg / 0x1000 = 1 ∨ reg / 0x1000 = 3 ∨ reg / 0x1000 = 4 then writeHub reg w s
  else writeDev reg w s

/-- A write to BAR0 as HOST latches it (20 R497 to R501, R511): a bad size or alignment and a reserved offset drop it
and count it; a block whose island is not released has it held, up to 256 of them. -/
def barWrite (off size v : Nat) (s : State) : State :=
  if !hostUp s then s
  else if (size ≠ 4 ∧ size ≠ 8) ∨ off % size ≠ 0 ∨ regStaged s (off - off % 8) = none then bump 3 s
  else if regRo (off - off % 8) then s
  else if !blockUp s (off - off % 8) then
    if s.cnt.held.length < 256 then
      { s with cnt := { s.cnt with held := s.cnt.held ++ [(off, size, BitVec.ofNat 64 v)] } }
    else bump 3 s
  else applyWrite off size v s

/-- The writes held for blocks that are now released take effect, in order (20 R511). -/
def releaseHeld (s : State) : State :=
  let up := s.cnt.held.filter (fun w => blockUp s (w.1 - w.1 % 8))
  let rest := s.cnt.held.filter (fun w => !blockUp s (w.1 - w.1 % 8))
  up.foldl (fun s' w => applyWrite w.1 w.2.1 w.2.2.toNat s') { s with cnt := { s.cnt with held := rest } }

/-- What a read of BAR0 returns (20 R497, R511): 0 for a bad size or alignment; of a block that is not yet released, what a read
at the moment of release would. -/
def barRead (off size : Nat) (s : State) : Nat :=
  if (size ≠ 4 ∧ size ≠ 8) ∨ off % size ≠ 0 then 0
  else
    let reg := off - off % 8
    let mine := s.cnt.held.filter (fun w => decide (w.1 / 0x1000 = reg / 0x1000))
    let t := if blockUp s reg then s else mine.foldl (fun s' w => applyWrite w.1 w.2.1 w.2.2.toNat s') s
    let v := readReg t reg
    if size = 8 then v else if off % 8 = 0 then v % 2 ^ 32 else v / 2 ^ 32

/-- A write to a setup register (20 R497 to R501). -/
def execRegisterWrite (off size : Nat) (v : U64) (s : State) : Host.Outcome State Fault Refusal :=
  ok (barWrite off size v.toNat s)

/-- MARL_PART_COMMIT (02 R37). -/
def execMarlPartCommit (v : U64) (s : State) : Host.Outcome State Fault Refusal := ok (barWrite 0x1010 8 v.toNat s)

/-- HUB_TEN_COMMIT (03 R76). -/
def execHubTenCommit (v : U64) (s : State) : Host.Outcome State Fault Refusal := ok (barWrite 0x0058 8 v.toNat s)

/-- HUB_MODEL_COMMIT (13 R341). -/
def execHubModelCommit (v : U64) (s : State) : Host.Outcome State Fault Refusal := ok (barWrite 0x0090 8 v.toNat s)

/-- BC_MAP_COMMIT (08 R218). -/
def execBcMapCommit (v : U64) (s : State) : Host.Outcome State Fault Refusal := ok (barWrite 0x2010 8 v.toNat s)

/-- GRN_PART_COMMIT (05 R149). -/
def execGrnPartCommit (v : U64) (s : State) : Host.Outcome State Fault Refusal := ok (barWrite 0x3020 8 v.toNat s)

/-- SYN_FLAGB_COMMIT (12 R321). -/
def execSynFlagbCommit (v : U64) (s : State) : Host.Outcome State Fault Refusal := ok (barWrite 0x4008 8 v.toNat s)

/-- LNK_LANE_COMMIT (15 R393). -/
def execLnkLaneCommit (v : U64) (s : State) : Host.Outcome State Fault Refusal := ok (barWrite 0x5018 8 v.toNat s)

/-- KEEP_COMMIT (03 R87, 20 Table 20.2). -/
def execKeepCommit (v : U64) (s : State) : Host.Outcome State Fault Refusal := ok (barWrite 0x7010 8 v.toNat s)

/-- A write to EVC_CFGn, whole or of one half (19 R486). -/
def execEvcCfgWrite (n : Fin 16) (h : Half) (v : U64) (s : State) : Host.Outcome State Fault Refusal :=
  ok (match h with
    | .whole => barWrite (0x8000 + 8 * n.val) 8 v.toNat s
    | .low => barWrite (0x8000 + 8 * n.val) 4 v.toNat s
    | .high => barWrite (0x8004 + 8 * n.val) 4 v.toNat s)

/-- A write to HUB_RESET (18 R475). -/
def execHubResetWrite (v : U64) (s : State) : Host.Outcome State Fault Refusal := ok (barWrite 0x0010 8 v.toNat s)

/-- A write to BC_FREQ (08 R237, R238). -/
def execBcFreqWrite (v : U64) (s : State) : Host.Outcome State Fault Refusal := ok (barWrite 0x2018 8 v.toNat s)

end Sys2Proof.Machine
end

