-- ==== Sys2Proof/Machine/Startup.lean ====
section
/-! DEFINITION. The cold start of Table 18.1, Media Ready and fabric ready (18 R466 to R473), the PMU watchdog and the
hub fault (18 R477 to R479), and the parity sweep of the setup registers and the flags (20 R510, 12 R339). -/

namespace Sys2Proof.Machine

/-! ### The cold start -/

/-- The start halts (18 R473): phase 0x0E with its code, logged, with an entry in the persistent fault log. -/
def haltStart (code : Nat) (s : State) : State :=
  plogAdd (locOf 0 0) 0 (logDev 0x03 code (locOf 0 0) 0 0 (setPhase 0x0E#8 code s))

/-- A self-test, numbered k, failed: it is run once more, and the second failure counts (18 R467). -/
def failTest (k code : Nat) (s : State) : State :=
  if tget 0 s.boot.testFails k = 0 then { s with boot := { s.boot with testFails := tset 0 s.boot.testFails k 1 } }
  else haltStart code s

/-- Whether a firmware slot verifies. -/
def slotValid (s : State) (k : Bool) : Bool := if k then s.fw.valid1 else s.fw.valid0

/-- Steps 1 to 3 of Table 18.1: the boot ROM takes the active slot, else the other one; PMU firmware releases HOST and
LK0 to LK5. -/
def bootSteps (s : State) : State :=
  let a := s.fw.active
  if slotValid s a then
    setPhase 0x04#8 0 { s with boot := { s.boot with fwSlot := a, relHost := true, relLk := true } }
  else if slotValid s (!a) then
    let s1 := logDev 0x03 0x07 (locOf 0 0) (bitIf a 0) 0 s
    plogAdd (locOf 0 0) (bitIf a 0)
      (setPhase 0x04#8 0 { s1 with boot := { s1.boot with fwSlot := !a, fwFallback := true, relHost := true, relLk := true } })
  else haltStart 0x01 s

/-- The rails come up with the slot's power good, and steps 1 to 3 run. -/
def powerUp (slotId : BitVec 3) (count : U32) (s : State) : State :=
  bootSteps { s with boot := { s.boot with powered := true, slotId := slotId, powerOnCount := count },
                     pwr := { s.pwr with lost := false, trip := false } }

/-- Power good: an unpowered module, or one at step 1 of a cold start, runs steps 1 to 3 (18 R466, 21 SLOT_ID). -/
def execPowerGood (slotId : BitVec 3) (s : State) : Host.Outcome State Fault Refusal :=
  if s.boot.powered ∧ s.boot.phase ≠ 0x01#8 then ok s
  else
    let n := if s.boot.powered then s.boot.powerOnCount else s.boot.powerOnCount + 1#32
    ok (powerUp slotId n s)

/-- PERST# is released (21 R523). -/
def execPerstDeassert (s : State) : Host.Outcome State Fault Refusal :=
  ok { s with cxl := { s.cxl with perst := false } }

/-- The CXL link trains (03 R60, R61, Table 3.2): 68-byte flits are not offered at 64 GT/s. A width or rate the
module does not support trains nothing. In the last step of a warm reset HOST is released first (18 Table 18.4). -/
def execCxlLinkUp (lanes rate : Nat) (flit256 : Bool) (s : State) : Host.Outcome State Fault Refusal :=
  if (hostUp s || decide (s.boot.phase = 0x0A#8 ∧ s.boot.relBc = 0xFFFF#16)) && !s.cxl.perst && decide (lanes = 16 ∨ lanes = 8)
      && decide (rate = 64 ∨ rate = 32 ∨ rate = 16) then
    ok { s with boot := { s.boot with relHost := true },
                cxl := { s.cxl with up := true, lanes := lanes, flit256 := flit256,
                                    rate := if rate = 64 ∧ flit256 = false then 32 else rate } }
  else ok s

/-- Marl self-test and row repair have run (18 Table 18.1 step 4, 02 R58). -/
def execMarlSelfTestDone (pass : Bool) (s : State) : Host.Outcome State Fault Refusal :=
  if s.boot.phase = 0x04#8 then
    if pass then ok (releaseHeld (setPhase 0x05#8 0 { s with boot := { s.boot with relMarl := true } }))
    else ok (failTest 0 0x02 s)
  else ok s

/-- Steps 5 to 9 of the cold start are under way, in which SEQ, LAY and MX are tested (18 Table 18.1). -/
def inStart (s : State) : Bool := decide (s.boot.phase = 0x05#8 ∨ s.boot.phase = 0x06#8 ∨ s.boot.phase = 0x07#8)

/-- The patch images whose signatures verify are loaded; the others are logged (09 R267, R278). -/
def loadPatches (s : State) : State :=
  s.fw.patches.foldl
    (fun s' r => if Config.patchSignatureOk r then { s' with boot := { s'.boot with patched := s'.boot.patched ++ [r] } }
                 else logDev 0x03 0x23 (locOf 0 0) (r % 256) 0 s')
    s

/-- A self-test of step 7 has run (18 R467; 09 R278, 10 R302, 11 R318). -/
def execIslandSelfTestDone (which : SelfTest) (pass : Bool) (s : State) : Host.Outcome State Fault Refusal :=
  if !inStart s then ok s
  else
    match which with
    | .rom =>
      if s.boot.relSeq then ok s
      else if pass then ok (releaseHeld (loadPatches { s with boot := { s.boot with relSeq := true } }))
      else ok (failTest 1 0x03 s)
    | .mx n =>
      if s.boot.relMx.getLsbD n.val then ok s
      else if pass then ok { s with boot := { s.boot with relMx := s.boot.relMx ||| (1#4 <<< n.val) } }
      else ok (failTest (2 + n.val) 0x04 s)
    | .lay =>
      if s.boot.relLay then ok s
      else if pass then ok { s with boot := { s.boot with relLay := true } }
      else ok (failTest 6 0x05 s)

/-- Map a grain out, with the cause of Table 19.10; it is recorded for good (05 R155, R156; 18 R481). Its die's mapped_out
register is written, so that no selection holds it from now on (07 R191; DEDUCED, log entry 97). -/
def mapOut (g cause : Nat) (s : State) : State :=
  if g ∈ s.bank.mappedOut then s
  else
    let l := (s.bank.mappedOut.filter (fun k => decide (k < g))) ++ g :: (s.bank.mappedOut.filter (fun k => decide (g < k)))
    let k := grainCoord g
    let i := dieNo k.1 k.2.1 k.2.2.1
    let d := die s i
    let a := 0x22 + k.2.2.2 / 8
    let d1 := { d with mr := tset 0#8 d.mr a (tget 0#8 d.mr a ||| (1#8 <<< (k.2.2.2 % 8))) }
    plogAdd (locOf 1 g) cause
      (logDev 0x03 0x25 (locOf 1 g) cause 0 { setDie i d1 s with bank := { (setDie i d1 s).bank with mappedOut := l } })

/-- A grain as Table 5.2 has it at reset; its count of corrected reads stands (05 R160, R161). -/
def Grain.cleared (x : Grain) : Grain := { Grain.reset with eccCorrected := x.eccCorrected }

/-- A die's self-test is complete: its grains are as Table 5.2 states (05 R160), st_done, and st_pass for the grains that
passed (07 Table 7.5); a spare rank that is not in service is held in self-refresh from then on (08 R224). -/
def testedDie (failing : List Nat) (c r d : Nat) (s : State) : State :=
  let x := die s (dieNo c r d)
  let byte (k : Nat) : Byte := BitVec.ofNat 8 ((List.range 8).foldl (fun n g =>
    if grainAt c r d (8 * k + g) ∈ failing then n else n + 2 ^ g) 0)
  (List.range 16).foldl (fun s' g => setGrain (grainAt c r d g) (grain s' (grainAt c r d g)).cleared s') <|
  setDie (dieNo c r d) { x with selfTest := false, stDone := true, selfRefresh := decide (r = 2) && !(quadMap s (c / 4)).spareIn,
                                mr := tset 0#8 (tset 0#8 x.mr 0x20 (byte 0)) 0x21 (byte 1) } s

def testedDies (failing : List Nat) (s : State) : State :=
  (List.range 192).foldl
    (fun s' i => if (i / 4 % 3 < 2 ∨ i / 12 % 4 = 3) ∧ (die s' (dieNo (i / 12) (i / 4 % 3) (i % 4))).selfTest then testedDie failing (i / 12) (i / 4 % 3) (i % 4) s' else s') s

/-- Grain self-test has run: at start-up a failing one is run again, and the grains that fail twice are mapped out (05 R155,
R160; 18 R467); one that a later st_start began ends alike, with nothing mapped out (07 R210; DEDUCED, log entry 97). -/
def execGrainSelfTestDone (failing : List GrainNo) (s : State) : Host.Outcome State Fault Refusal :=
  if s.boot.phase = 0x05#8 ∧ s.boot.relBc = 0xFFFF#16 ∧ s.boot.grainTested = false then
    let ids := failing.map (fun g => g.val)
    if s.boot.grainFails = [] ∧ ids ≠ [] then ok { s with boot := { s.boot with grainFails := ids } }
    else
      let bad := ids.filter (fun g => decide (g ∈ s.boot.grainFails))
      let s1 := bad.foldl (fun s' g => mapOut g 0 s') (testedDies ids s)
      ok (setPhase 0x06#8 0 { s1 with boot := { s1.boot with grainTested := true, grainFails := [] } })
  else if s.boot.grainTested then ok (testedDies (failing.map (fun g => g.val)) s)
  else ok s

/-- Memory initialisation has written zero outside the Keep region (18 R468). -/
def execMemoryInitDone (s : State) : Host.Outcome State Fault Refusal :=
  if s.boot.phase = 0x06#8 then
    let n := keepBytes s
    ok (setPhase 0x07#8 0 { s with
      boot := { s.boot with memInit := true },
      bank := { s.bank with mem := s.bank.mem.filter (fun p => wordWithin s 0 n (p.1 / 32)),
                            marks := s.bank.marks.filter (fun p => wordWithin s 0 n p.1) } })
  else ok s

/-- The Keep region has been restored (16 R440). -/
def execKeepRestoreDone (s : State) : Host.Outcome State Fault Refusal :=
  if s.boot.phase = 0x07#8 ∧ s.boot.keepRestored = false then
    let s1 := restoreKeep s
    ok { s1 with boot := { s1.boot with keepRestored := true } }
  else ok s

/-- FLRs that a warm reset covered complete at Media Ready (18 Table 18.8). -/
def endFlrs (s : State) : State :=
  s.cxl.flrs.foldl (fun s' p => emit (.flrDone (Fin.ofNat 256 p.1)) s') { s with cxl := { s.cxl with flrs := [] } }

/-- Media Ready (18 R469): after the later of steps 7 and 9 of a cold start, or at the end of a warm reset, when the
islands are released again (18 Table 18.4). -/
def execMediaReady (s : State) : Host.Outcome State Fault Refusal :=
  let b := s.boot
  if b.phase = 0x07#8 ∧ b.keepRestored = true ∧ b.relSeq = true ∧ b.relLay = true ∧ b.relMx = 0xF#4 then
    ok (endFlrs (setPhase 0x08#8 0 { s with boot := { b with mediaReady := true } }))
  else if b.phase = 0x0A#8 ∧ b.relBc = 0xFFFF#16 then
    let s1 := { s with
      boot := { b with mediaReady := true, relHost := true, relMarl := true, relSeq := true, relLay := true,
                       relMx := 0xF#4, relLk := true },
      lnk := { s.lnk with plan := s.lnk.plan.map (fun p => { p with since := now s }) } }
    ok (endFlrs (setPhase 0x08#8 0 s1))
  else ok s

/-- An enabled port has been judged, or has stayed in DOWN or TRAIN for 10 s (18 R470). -/
def portSettled (s : State) (p : Nat) : Bool :=
  match (port s p).st with
  | .down => s.boot.portWaived.getLsbD p
  | .train => s.boot.portWaived.getLsbD p
  | _ => true

/-- Fabric ready (18 R470, R471): Media Ready, a plan, every enabled port settled, and the one step of the MTB taken,
or no parent found once 10 s have passed. -/
def execFabricReady (s : State) : Host.Outcome State Fault Refusal :=
  match s.lnk.plan with
  | none => ok s
  | some pl =>
    let ports := (List.range 6).filter (fun p => (pl.ports[p]?).any (fun e => e.enabled))
    let waited := decide (s.boot.portWaived ≠ 0#6) || decide (10000000000 ≤ (now s - pl.since).toNat)
    if s.boot.phase = 0x08#8 ∧ ports.all (portSettled s) ∧ (s.clk.stepped = true ∨ (s.lnk.parent = none ∧ waited = true)) then
      ok (emit (.sideband .fabricReady 1#64) (setPhase 0x09#8 0 { s with boot := { s.boot with fabricReady := true } }))
    else ok s

/-- An enabled port of the plan has stayed in DOWN or TRAIN for 10 s (18 R470). -/
def execFabricWaitExpiry (p : PortNo) (s : State) : Host.Outcome State Fault Refusal :=
  let en := s.lnk.plan.any (fun pl => (pl.ports[p.val]?).any (fun e => e.enabled))
  if s.boot.relLk ∧ en ∧ ((port s p.val).st = .down ∨ (port s p.val).st = .train) then
    ok { s with boot := { s.boot with portWaived := s.boot.portWaived ||| (1#6 <<< p.val) } }
  else ok s

/-! ### Hub fault -/

/-- The slice that owns a copy of a bank line (02 R32, R42). -/
def copySlice (s : State) (w : Nat) : Nat :=
  match bindingOf s w with
  | some b => let l := regionLine s b.1.region b.2
              16 * l.1.val + l.2 / 4 % 15
  | none => 16 * ((logicalLoc s (wordLoc w)).c / 4) + 15

/-- Dirty column words in slices that do not answer. -/
def deadWords (s : State) (slices : List Nat) : List Nat :=
  (s.marl.copies.filter (fun p => decide (copySlice s p.1 ∈ slices))).map (fun p => p.1)

/-- Every ring is disabled with need_resync set, and all work is dropped with no done record (18 R478). -/
def dropWork (s : State) : State :=
  let s1 := (List.range 256).foldl (fun s' f => needResync (Fin.ofNat 256 f) s') s
  let rs := s1.rings.map (fun r => (r.1, warmRing r.2))
  let s2 := warmSeq { s1 with rings := rs, places := [] }
  { s2 with eng := Eng.reset, serve := { s2.serve with steps := [], shipsOut := [], shipsIn := [] },
            ctl := { s2.ctl with bcs := s2.ctl.bcs.map (fun b => (b.1, { b.2 with p1 := [] })) } }

/-- A hub fault with its code of Table 18.6 (18 R478): logged, the grains halted, the Keep region saved as far as the
slices that answer allow, reported; the module stays so until a cold reset. -/
def hubFaultAct (code : Nat) (loc : U16) (row : Nat) (dead : List Nat) (s : State) : State :=
  if !s.boot.powered || s.boot.hubFault || s.pwr.lost || s.pwr.trip then s
  else
    let s1 := saveKeep 131072 (deadWords s dead) (logDev 0x03 code loc row 0 s)
    let s2 := dropWork { s1 with marl := { s1.marl with deadSlices := dead } }
    let s3 := setPhase 0x0F#8 code { s2 with boot := { s2.boot with hubFault := true, fabricReady := false } }
    emit (.sideband .hubFault (BitVec.ofNat 64 code)) (plogAdd loc row s3)

/-- A hub fault of Table 18.6. For a slice port (code 0x10) the location is the slice, else an island (19 Table 19.10). -/
def execHubFault (code : Fin 4) (location : BitVec 12) (sliceRow : U16) (deadSlices : List (Fin 64)) (s : State) :
    Host.Outcome State Fault Refusal :=
  let slice := decide (code.val = 0)
  let dead := (if slice then [location.toNat % 64] else []) ++ deadSlices.map (fun d => d.val)
  ok (hubFaultAct (0x10 + code.val) (locOf (if slice then 7 else 3) location.toNat) (if slice then sliceRow.toNat else 0) dead s)

/-- The PMU's hardware watchdog expires (18 R479). -/
def execPmuWatchdogExpiry (s : State) : Host.Outcome State Fault Refusal :=
  if !s.boot.powered || decide (s.boot.phase = 0x0E#8) || s.boot.hubFault then ok s
  else
    let s1 := logDev 0x03 0x24 (locOf 3 islPmu) 0 0 s
    if !s.boot.mediaReady ∧ s.boot.phase ≠ 0x0A#8 then ok (haltStart 0x06 s1)
    else if s.boot.wdLast.any (fun t => decide ((now s - t).toNat < 3600000000000)) then
      ok (hubFaultAct 0x12 (locOf 3 islPmu) 0 [] s1)
    else ok { s1 with boot := { s1.boot with fwRestarting := true, wdLast := some (now s) } }

/-- PMU firmware runs again (18 R479). -/
def execPmuFirmwareRestartDone (s : State) : Host.Outcome State Fault Refusal :=
  ok { s with boot := { s.boot with fwRestarting := false } }

/-! ### The parity sweep (20 R510, 12 R339, 19 R495) -/

/-- The staged value of a word's field is discarded (20 R510). -/
def unstage (off : Nat) (s : State) : State :=
  let h := s.hub
  let d := s.dev
  let f := h.tenSel.toNat
  let mi := h.modelFn.toNat * 16 + h.modelSlot.toNat
  let g := h.grnSel.toNat
  let p := d.lnkSel.toNat
  let ten (v : Ten) : State := { s with hub := { h with ten := tset (Ten.reset f) h.ten f { tenOf s f with staged := v } } }
  let t := tenOf s f
  let gp := grnPartOf s g
  let lane (v : LnkLane) : State :=
    { s with dev := { d with lnkLane := tset LnkLane.reset d.lnkLane p { lnkLaneOf s p with staged := v } } }
  let l := lnkLaneOf s p
  match off with
  | 0x0048 => ten { t.staged with base := t.inForce.base }
  | 0x0050 => ten { t.staged with limit := t.inForce.limit }
  | 0x0088 =>
    let m := tget (Pair.at_ 0#39) h.model mi
    { s with hub := { h with model := tset (Pair.at_ 0#39) h.model mi { m with staged := m.inForce } } }
  | 0x1000 => { s with hub := { h with marlPart := { h.marlPart with staged := { h.marlPart.staged with bc := h.marlPart.inForce.bc } } } }
  | 0x1008 => { s with hub := { h with marlPart := { h.marlPart with staged := { h.marlPart.staged with lk := h.marlPart.inForce.lk } } } }
  | 0x2000 => { s with dev := { d with bcMap := { d.bcMap with staged := { d.bcMap.staged with order := d.bcMap.inForce.order } } } }
  | 0x2008 => { s with dev := { d with bcMap := { d.bcMap with staged := { d.bcMap.staged with ranks := d.bcMap.inForce.ranks } } } }
  | 0x3008 => setGrnPart g { gp with staged := { gp.staged with set := gp.inForce.set } } s
  | 0x3010 => setGrnPart g { gp with staged := { gp.staged with lo := gp.inForce.lo, hi := gp.inForce.hi } } s
  | 0x3018 => setGrnPart g { gp with staged := { gp.staged with flagQ := gp.inForce.flagQ } } s
  | 0x4000 => setFlagBase g { flagBaseOf s g with staged := (flagBaseOf s g).inForce } s
  | 0x5008 => lane { l.staged with lanes := l.inForce.lanes }
  | 0x5010 => lane { l.staged with map := l.inForce.map }
  | 0x7000 => { s with dev := { d with keep := { d.keep with staged := { d.keep.staged with size := d.keep.inForce.size } } } }
  | 0x7008 => { s with dev := { d with keep := { d.keep with staged := { d.keep.staged with rsv := d.keep.inForce.rsv } } } }
  | _ => s

/-- An RW word returns to its reset value (20 Tables 20.4 to 20.12). -/
def resetWord (off : Nat) (s : State) : State :=
  let rw := [(0x0040, 0), (0x0060, 1024), (0x0068, 0), (0x0070, 8388608), (0x0080, 0), (0x00A0, 0), (0x00A8, 0),
    (0x00B0, 0), (0x00B8, 0), (0x1018, 16), (0x1020, 2496), (0x2030, 0), (0x2040, 0), (0x2050, 256), (0x2058, 4000),
    (0x2060, 56), (0x2068, 250), (0x2070, 4096), (0x2078, 32), (0x3000, 0), (0x4010, 24), (0x4018, 50), (0x4020, 500),
    (0x5000, 0), (0x5028, 0), (0x6000, DevRegs.reset.clkHold.toNat), (0x6008, DevRegs.reset.perfFloor.toNat), (0x7018, 1000)]
  if off = 0x2018 then (if freqHeld s then s else startChange false { s with dev := { s.dev with policyFreq := false } })
  else if off = 0x2038 then { s with dev := { s.dev with portCfg := terase s.dev.portCfg s.dev.portSel.toNat } }
  else if 0x8000 ≤ off ∧ off < 0x8080 then { s with cnt := { s.cnt with cfg := terase s.cnt.cfg ((off - 0x8000) / 8) } }
  else
    match rw.find? (fun p => decide (p.1 = off)) with
    | some p => writeDev off p.2 (writeHub off p.2 s)
    | none => s

/-- The number of the counter whose register stands at an offset (19 R495), as counter parity numbers them. -/
def counterAt (off : Nat) : Option Nat :=
  if 0x8080 ≤ off ∧ off < 0x8100 then some (8 + (off - 0x8080) / 8)
  else
    ([(0x0100, 24), (0x0108, 25), (0x0110, 26), (0x0118, 27), (0x2100, 28), (0x2108, 29), (0x4100, 30), (0x5100, 31),
      (0x5108, 32), (0x5110, 33), (0x6100, 34), (0x6108, 35), (0x8100, 36)].find? (fun p => decide (p.1 = off))).map (fun p => p.2)

/-- The island that owns a block (20 Table 20.1), by its number in the event log. -/
def blockIsland (s : State) (off : Nat) : Nat :=
  match off / 0x1000 with
  | 1 => islMarl 0
  | 2 => islBc 0
  | 4 => islSeq
  | 5 => islLk s.dev.lnkSel.toNat
  | 6 => islPmu
  | 7 => islPmu
  | 9 => islPmu
  | _ => islHost

/-- A flag word has a parity error: it is faulted, and each context that waits on one of its flags faults (12 R339). -/
def faultWord (w : Nat) (s : State) : State :=
  let s1 := logDev 0x03 0x2F (locOf 8 w) 0 0
    { s with seq := { s.seq with faultedWords := w :: s.seq.faultedWords.filter (fun k => decide (k ≠ w)) } }
  let on (x : CtxNo) : Bool := match ctx s x.val with
    | some c => (match c.wait with
      | .flagIs sp n _ _ => decide (c.st = .waitFlag ∧ flagWord sp n = w)
      | _ => false)
    | none => false
  (s.seq.waits.filter on).foldl (fun s' x => faultCtx x 0x19 s') s1

/-- One word that fails its parity: a counter reads 2^64 - 1 until it is cleared (19 R495), a register is reloaded and
logged (20 R510); numbers from 0x10000 up are the flag words (12 R339, log entry 1). -/
def sweepWord (off : Nat) (s : State) : State :=
  if 0x10000 ≤ off then (if off - 0x10000 < 259 then faultWord (off - 0x10000) s else s)
  else
    match counterAt off with
    | some k => { s with cnt := { s.cnt with parity := k :: s.cnt.parity.filter (fun j => decide (j ≠ k)) } }
    | none =>
      if regStaged s off = none ∨ off % 8 ≠ 0 then s
      else logDev 0x03 0x38 (locOf 3 (blockIsland s off)) off 0 (resetWord off (unstage off s))

/-- The sweep of every register word and flag word found these with a parity error (20 R510). -/
def execParitySweep (offsets : List Nat) (s : State) : Host.Outcome State Fault Refusal :=
  if hostUp s then ok (offsets.foldl (fun s' o => sweepWord o s') s) else ok s

end Sys2Proof.Machine
end

