-- ==== Sys2Proof/Machine/DieOps.lean ====
section
/-! DEFINITION. The shared operations on dies and grains: mode registers (07 Table 7.5), the selection, the Seam's
neighbours, the CRA as a reader sees it, starting and ending a run, and the completion of P1 commands (07 R203). -/

namespace Sys2Proof.Machine

/-! ### Mode registers -/

/-- Reset values of the mode registers (07 Table 7.5). -/
def mrReset (a : Nat) : Byte :=
  match a with
  | 0x02 => 2#8 | 0x04 => 64#8 | 0x07 => 95#8 | 0x0B => 0x33#8 | 0x0C => 64#8 | 0x0D => 64#8
  | 0x10 => 0x5A#8 | 0x11 => 0x3C#8 | 0x12 => 0xA5#8 | 0x13 => 0xC3#8
  | _ => 0#8

/-- The bits a write to a mode register stores; 0 where the register is not RW or does not exist. -/
def mrMask (a : Nat) : Byte :=
  match a with
  | 0x02 => 0x03#8 | 0x03 => 0x01#8 | 0x04 => 0x7F#8 | 0x07 => 0xFF#8 | 0x0B => 0x77#8 | 0x0C => 0x7F#8 | 0x0D => 0x7F#8
  | 0x10 => 0xFF#8 | 0x11 => 0xFF#8 | 0x12 => 0xFF#8 | 0x13 => 0xFF#8 | 0x22 => 0xFF#8 | 0x23 => 0xFF#8
  | _ => 0#8

/-- A stored mode register. Key 0x102 holds the last speed point written that is not reserved (R198), keys 0x20 and
0x21 st_pass. -/
def mrStored (d : DieSt) (a : Nat) : Byte := tget (mrReset a) d.mr a

def mrPut (a : Nat) (v : Byte) (d : DieSt) : DieSt := { d with mr := tset (mrReset a) d.mr a v }

/-- What MRR returns in byte 0 (R197, R198). -/
def mrRead (d : DieSt) (a : Nat) : Byte :=
  match a with
  | 0x00 => 0x32#8
  | 0x01 => 0x21#8
  | 0x06 => d.temp
  | 0x08 => d.cause
  | 0x09 => d.undefCode.setWidth 8
  | 0x24 => if d.stDone then 2#8 else 0#8
  | 0x102 => 0#8
  | _ => mrStored d a

/-- The speed point that the next SRX puts in force (R198). -/
def nextSpeed (d : DieSt) : BitVec 2 := (tget 2#8 d.mr 0x102).setWidth 2

/-- Alert causes are cleared by the ones written (R208). -/
def clearCauses (v : Byte) (d : DieSt) : DieSt := { d with cause := d.cause &&& ~~~v }

/-- st_start (R210): self-test begins. -/
def startSelfTest (d : DieSt) : DieSt := mrPut 0x20 0#8 (mrPut 0x21 0#8 { d with selfTest := true, stDone := false })

/-- A write to a mode register of one die (R197, R198). -/
def mrWrite (a : Nat) (v : Byte) (d : DieSt) : DieSt :=
  if a = 0x08 then clearCauses v d
  else if a = 0x24 then (if v.getLsbD 0 then startSelfTest d else d)
  else if mrMask a = 0#8 then d
  else
    let x := v &&& mrMask a
    let d1 := mrPut a x d
    if a = 0x02 ∧ x ≠ 3#8 then { d1 with mr := tset 2#8 d1.mr 0x102 x }
    else if a = 0x04 ∧ 30 ≤ x.toNat ∧ x.toNat ≤ 64 then { d1 with osc := x }
    else d1

/-- A speed point written to mode register 0x02 and put in force (R198, 08 Table 8.5 steps 5 to 7). -/
def atSpeed (sp : BitVec 2) (d : DieSt) : DieSt := { mrWrite 0x02 (sp.setWidth 8) d with speed := sp }

/-- A grain that mode register 0x22 or 0x23 marks as mapped out (R191). -/
def mrOut (d : DieSt) (g : Nat) : Bool := (mrStored d (0x22 + g / 8)).getLsbD (g % 8)

/-! ### Ranks, dies, grains -/

/-- The ranks a channel has (07 R186). -/
def rankExists (c r : Nat) : Bool := decide (r < 2 ∨ (r = 2 ∧ c % 4 = 3))

/-- A die takes commands other than SRX. -/
def dieHears (d : DieSt) : Bool := !d.inReset && !d.selfRefresh

/-- Do something at each die of a rank that takes commands. -/
def onRank (c r : Nat) (act : Nat → State → State) (s : State) : State :=
  if rankExists c r then
    (List.range 4).foldl (fun s' d => if dieHears (die s' (dieNo c r d)) then act d s' else s') s
  else s

/-- A cause bit is set at a die (R208). -/
def setCause (c r d bit : Nat) (s : State) : State :=
  let x := die s (dieNo c r d)
  setDie (dieNo c r d) { x with cause := x.cause ||| (1#8 <<< bit) } s

/-- The selected grains of a die (R191), by their number on the die. -/
def selected (s : State) (c r d : Nat) : List Nat :=
  let x := die s (dieNo c r d)
  (List.range 16).filter (fun g => x.sel.getLsbD g && !mrOut x g)

/-- The grain of a bank of a die, and whose its banks are. -/
def bankOwn (s : State) (c r d bank : Nat) : Own := (grain s (grainAt c r d (bank / 2))).own

/-- A grain that takes part in nothing: mapped out by the hub's record or by its die (05 R143, R155; 07 Table 7.5). -/
def grainOut (s : State) (g : Nat) : Bool :=
  let k := grainCoord g
  decide (g ∈ s.bank.mappedOut) || mrOut (die s (dieNo k.1 k.2.1 k.2.2.1)) k.2.2.2

/-- The nearest live grain in a direction of the Seam (05 R143). -/
def nearest (s : State) (g : Nat) (down : Bool) : Option Nat :=
  let n := (grainCoord g).2.2.2
  let line := if down then (List.range n).reverse.map (fun i => g - n + i) else (List.range (15 - n)).map (fun i => g + 1 + i)
  line.find? (fun h => !grainOut s h)

/-- The row open in a bank. -/
def rowOf (s : State) (g side : Nat) : Option Nat :=
  let k := grainCoord g
  tfind (die s (dieNo k.1 k.2.1 k.2.2.1)).openRows (2 * k.2.2.2 + side)

/-- A grain activates a row in both of its banks. -/
def openPair (g row : Nat) (s : State) : State :=
  let k := grainCoord g
  let i := dieNo k.1 k.2.1 k.2.2.1
  let d := die s i
  setDie i { d with openRows := tput (tput d.openRows (2 * k.2.2.2) row) (2 * k.2.2.2 + 1) row } s

/-- The deferred refreshes of a grain's two banks (R205). -/
def deferredOf (s : State) (g : Nat) : Nat :=
  let k := grainCoord g
  let d := die s (dieNo k.1 k.2.1 k.2.2.1)
  tget 0 d.deferred (2 * k.2.2.2) + tget 0 d.deferred (2 * k.2.2.2 + 1)

/-- The die runs the deferred refreshes of a grain's banks that hold at least n. -/
def serveDeferred (g n : Nat) (s : State) : State :=
  let k := grainCoord g
  let i := dieNo k.1 k.2.1 k.2.2.1
  let d := die s i
  let one (t : Tab Nat) (b : Nat) : Tab Nat := if n ≤ tget 0 t b then terase t b else t
  setDie i { d with deferred := one (one d.deferred (2 * k.2.2.2)) (2 * k.2.2.2 + 1) } s

/-! ### The CRA as a reader sees it (05 Table 5.4) -/

def gstateCode (st : GState) : Nat :=
  match st with
  | .idle => 0 | .running => 1 | .faulted => 2 | .stopped => 3

/-- The four 64-bit words of slot 7. -/
def craWords (x : Grain) : List Nat :=
  [gstateCode x.state + x.fault.toNat * 2 ^ 8 + x.faultPc.toNat * 2 ^ 16 + x.runClocks.toNat * 2 ^ 32,
   x.eccCorrected.toNat + x.lastFn.toNat * 2 ^ 16,
   x.pageLo.toNat + x.pageHi.toNat * 2 ^ 16,
   x.craMtb.toNat]

/-- A byte of the CRA. -/
def craByte (x : Grain) (i : Nat) : Byte :=
  if i < 0xE0 then tget 0#8 x.cra i else BitVec.ofNat 8 (((craWords x).getD ((i - 0xE0) / 8) 0) / 2 ^ (8 * (i % 8)))

/-- n bytes of the CRA as a number. -/
def craNat (x : Grain) (off n : Nat) : Nat := leNat ((List.range n).map (fun i => craByte x (off + i)))

/-- The state is cleared when a command arrives from another function (05 R152). -/
def Grain.clearFor (x : Grain) (f : Byte) : Grain :=
  { x with scal := [], vec := [], kmask := [], acc := [], scratch := [], recvUp := [], recvDown := [],
           cra := x.cra.filter (fun p => decide (p.1 < 0xC0)), lastFn := f }

/-! ### Faults and the first check of a fetched word (06 R181) -/

/-- A running grain faults (05 R154): fault_pc is 0 for a Spread's instruction, which has no index (DEDUCED, log entry 41).
Every stop other than HALT precharges both banks, but in a lockstep Spread they stay as they are until E (07 R202, R203). -/
def faultGrain (g code : Nat) (s : State) : State :=
  let x := grain s g
  let s1 := stopGrain g .faulted code (if x.insn = none then x.pc else 0) s
  if x.own = .blind then s1 else closeRows g s1

/-- The major opcodes of 06 Table 6.2. -/
def majorKnown (op : Nat) : Bool :=
  decide (op ∈ [0x01, 0x02, 0x03, 0x04, 0x05, 0x08, 0x09, 0x0A, 0x0B, 0x0C, 0x0D, 0x0E, 0x10, 0x11, 0x12, 0x13, 0x14, 0x15,
    0x16, 0x17, 0x18, 0x19, 0x1A, 0x1B, 0x20, 0x21, 0x22, 0x28, 0x29, 0x2A, 0x2B, 0x2C, 0x30, 0x31, 0x32])

/-- The word a running grain executes next. -/
def currentWord (x : Grain) : Nat :=
  match x.insn with
  | some w => w.toNat
  | none => (tget 0#32 x.store x.pc).toNat

def majorOf (w : Nat) : Nat := bits w 26 6

/-- An undefined major opcode faults as it is fetched; a Spread carries none of HALT, LOOPI, LOOPR and BR (06 R163,
R180; 05 R134). -/
def fetchCheck (g : Nat) (s : State) : State :=
  let x := grain s g
  let op := majorOf (currentWord x)
  if x.state = .running ∧ (majorKnown op = false ∨ (x.insn.isSome = true ∧ op ∈ [0x01, 0x03, 0x04, 0x05])) then faultGrain g 0x01 s
  else s

/-- A grain starts a Spread (`insn`) or a run from an index (07 R201, R203; 05 Table 5.4). No loop level is active then: those
of an earlier run stand until it (DESIGN CHOICE, log entry 98). -/
def startGrain (g : Nat) (insn : Option U32) (entry : Nat) (s : State) : State :=
  let x := grain s g
  let k := grainCoord g
  let i := dieNo k.1 k.2.1 k.2.2.1
  let d := die s i
  let y := { x with state := .running, fault := 0#8, faultPc := 0#11, runClocks := 0#32, craMtb := now s, pc := entry,
                    insn := insn, loop0 := none, loop1 := none, accReady := [], unclocked := d.ready,
                    own := if insn.isSome && !d.ready then .blind else .polled }
  let s1 := setDie i { d with changed := d.changed ||| (1#16 <<< k.2.2.2) } (setGrain g y s)
  fetchCheck g s1

/-! ### P1 commands (08 R211, R236; 12 R322) -/

/-- The P1 commands whose work is done at a physical rank: their logical channel and themselves. -/
def p1At (s : State) (c r : Nat) : List (Nat × P1) :=
  (List.range 4).flatMap (fun i =>
    let c1 := 4 * (c / 4) + i
    ((bc s c1).p1.filter (fun k => decide (physRank s c1 k.rank = (c, r)))).map (fun k => (c1, k)))

/-- The selection registers of a rank hold a P1 command's selection. -/
def selMatches (s : State) (c r : Nat) (sel : GrainSel) : Bool :=
  (List.range 4).all (fun d =>
    let x := die s (dieNo c r d)
    let want (g : Nat) : Bool := sel.dies.getLsbD d && sel.grains.getLsbD g
    (List.range 16).all (fun g => mrOut x g || decide (x.sel.getLsbD g = want g)))

/-- The run-done flag of a function's pair becomes 0 or 1 (12 R322). -/
def runDone (f : Func) (c r : Nat) (v : Bool) (s : State) : State :=
  match runDoneFlag s f.val c r with
  | some n => if v then setFlag .shared n 3 s else clearFlag .shared n s
  | none => s

/-- The dirty column words that a P1 command still waits for: those made dirty before it was latched (02 R47). -/
def dirtyFor (s : State) (k : P1) : List Nat :=
  k.dirty.filter (fun w => match copyOf s w with
    | some y => decide (y.since ≤ k.since)
    | none => false)

/-- The queue entry of a context's grain command. -/
def isQCmdOf (k : P1) (j : QCmd) : Bool :=
  decide (j.ctx = k.ctx) && !j.fin && decide (p1OfCmd j.push.cmd = some (k.rank, k.sel, k.kind))

/-- A grain command's turn in the queue of its bank controller: every command pushed before it has been started (09 R257). -/
def p1Turn (s : State) (k : Nat × P1) : Bool :=
  (bc s k.1).p1.all (fun j => j.issued || decide (k.2.num ≤ j.num))
    && ((queue s (10 + k.1)).takeWhile (fun j => !isQCmdOf k.2 j || j.started)).all (fun j => j.started)

/-- The first P1 command at a physical rank that a CA command carries out, in its turn. -/
def matchP1 (s : State) (c r : Nat) (kind : P1Kind → Bool) : Option (Nat × P1) :=
  (p1At s c r).find? (fun k => !k.2.issued && kind k.2.kind && selMatches s c r k.2.sel
    && (dirtyFor s k.2).isEmpty && p1Turn s k)

/-- It has started. -/
def startQCmd (c1 : Nat) (k : P1) (s : State) : State :=
  let q := queue s (10 + c1)
  match q.findIdx? (fun j => isQCmdOf k j && !j.started) with
  | some i => setQueue (10 + c1) (q.modify i (fun j => { j with started := true, since := now s })) s
  | none => s

/-- A P1 command has gone out on the CA bus: counted, its run-done flag cleared (19 Table 19.4, 12 R322). -/
def markIssued (src : Nat) (c1 : Nat) (k : P1) (s : State) : State :=
  let b := bc s c1
  let gs := p1Pairs s c1 k
  let s1 := setBc c1 { b with p1 := b.p1.map (fun j => if j.num = k.num then { j with issued := true, since := now s, started := gs }
                                                     else j) } (startQCmd c1 k s)
  let l := physRank s c1 k.rank
  let slow := islClip s (islBc c1) || s.pwr.holding || (bc s l.1).halved.getLsbD l.2
    || (List.range 4).any (fun d => islClip s (islGrain l.1 l.2 d))
  let s2 := match k.place with
    | some p => clipDesc p slow s1
    | none => s1
  runDone k.func c1 k.rank false (countEv src c1 (some k.func) 1 s2)

/-- The rows of a STEP that a fault of a grain ends (13 R366): every row not yet committed where the grain holds weight
tiles of the model, else the rows with a span on it. -/
def faultRows (t : StepRun) (g : Nat) (weights poisoned : Bool) : StepRun :=
  { t with rows := t.rows.map (fun r =>
      if r.admitted && !r.committed && (weights || r.pages.any (fun pg => decide (pg / 4096 = g))) then
        { r with conds := addStatus .grainFault (if poisoned then addStatus .poisoned r.conds else r.conds) }
      else r) }

/-- A grain fault reaches its descriptor, or the rows of its STEP (05 R147, R154; 13 R366). -/
def faultConds (p : Place) (g : Nat) (poisoned : Bool) (s : State) : State :=
  match tfind s.serve.steps p.val with
  | some t =>
    let a := (modelOf s t.func.val t.slot).inForce.toNat
    { s with serve := { s.serve with steps := tput s.serve.steps p.val (faultRows t g (Config.weightsOn a g) poisoned) } }
  | none => addCond p .grainFault (if poisoned then addCond p .poisoned s else s)

/-- A grain of a command stopped faulted: logged, counted, and a condition of the descriptor (05 R147, R154). -/
def noteFault (c1 : Nat) (k : P1) (g : Nat × Nat) (s : State) : State :=
  let x := grain s g.2
  if x.state ≠ .faulted then s
  else
    let hsn := ((k.place.bind (desc s)).map (fun d => d.hsn.toNat)).getD 0
    let s1 := countEv 0x32 c1 (some k.func) 1
      (logFn 0x03 0x26 (locOf 1 g.2) k.func (x.fault.toNat + x.faultPc.toNat * 2 ^ 8) hsn s)
    match k.place with
    | none => s1
    | some p =>
      let s2 := faultConds p g.1 (decide (x.fault = 6#8)) s1
      match desc s2 p with
      | some d =>
        let pr := { d.prog with faulted := d.prog.faulted + 1,
                                firstFault := some (d.prog.firstFault.getD (g.1, x.fault.toNat)) }
        setDesc p { d with prog := pr } s2
      | none => s2

/-- The queue entry of a context's grain command is finished; a CRA read gives its word (09 R258). -/
def finishQCmd (c1 : Nat) (k : P1) (res : Option U32) (s : State) : State :=
  let q := queue s (10 + c1)
  match q.findIdx? (isQCmdOf k) with
  | some i => setQueue (10 + c1) (q.modify i (fun j => { j with started := true, fin := true, result := res })) s
  | none => s

/-- A P1 command is done: it leaves its bank controller, and its descriptor or its context learns of it. -/
def completeP1 (c1 : Nat) (k : P1) (res : Option U32) (s : State) : State :=
  let s0 := match k.kind with
    | .spread _ _ _ _ => runDone k.func c1 k.rank true ((p1Pairs s c1 k).foldl (fun s' g => noteFault c1 k g s') s)
    | .grun _ => runDone k.func c1 k.rank true ((p1Pairs s c1 k).foldl (fun s' g => noteFault c1 k g s') s)
    | _ => s
  let b := bc s0 c1
  let s1 := setBc c1 { b with p1 := b.p1.filter (fun j => decide (j.num ≠ k.num)) } s0
  let s2 := match k.place with
    | none => s1
    | some p =>
      match desc s1 p with
      | some d =>
        let ranks := d.prog.ranks.filter (fun n => decide (n ≠ 4 * c1 + k.rank))
        let over_ := decide (k.ctx = none) && ranks.isEmpty && decide (d.stage = .running)
        setDesc p { d with prog := { d.prog with ranks := ranks }, stage := if over_ then .ended else d.stage } s1
      | none => s1
  match k.ctx with
  | some x => settleCtx x (finishQCmd c1 k res s2)
  | none => s2

/-- Complete the issued runs and Spreads of a physical rank whose grains have all returned their banks (07 R203). -/
def reapP1 (c r : Nat) (s : State) : State :=
  let runs (k : P1) : Bool := match k.kind with
    | .spread _ _ _ _ => true
    | .grun _ => true
    | _ => false
  ((p1At s c r).filter (fun k => k.2.issued && runs k.2
      && (p1Grains s k.1 k.2).all (fun g => decide ((grain s g).own = .controller)))).foldl
    (fun s' k => completeP1 k.1 k.2 none s') s

end Sys2Proof.Machine
end

