-- ==== Sys2Proof/Machine/Tilth.lean ====
section
/-! DEFINITION. Tilth code (06): the shared step of a grain (faults R181, loops R176, clocks Table 6.2), the effect of
each major opcode, and the arrival of a Seam vector. A command acts when the grain is running and the instruction it
fetches next has the command's major opcode; otherwise it has no effect. -/

namespace Sys2Proof.Machine

/-! ### Registers and lanes -/

def sreg (x : Grain) (i : Nat) : U32 := tget 0#32 x.scal i
def vreg (x : Grain) (i : Nat) : Line := tget 0#512 x.vec i
def kreg (x : Grain) (i : Nat) : U64 := tget 0#64 x.kmask i
def areg (x : Grain) (i : Nat) : Wide := tget 0#1024 x.acc i
def Grain.setS (x : Grain) (i : Nat) (v : U32) : Grain := { x with scal := tset 0#32 x.scal i v }
def Grain.setV (x : Grain) (i : Nat) (v : Line) : Grain := { x with vec := tset 0#512 x.vec i v }
def Grain.setK (x : Grain) (i : Nat) (v : U64) : Grain := { x with kmask := tset 0#64 x.kmask i v }

/-- Write an accumulator; `ready` is the run clock from which it may be read, 0 for no wait (R164). -/
def Grain.setA (x : Grain) (i : Nat) (v : Wide) (ready : Nat) : Grain :=
  { x with acc := tset 0#1024 x.acc i v, accReady := tset 0 x.accReady i ready }

/-- Lanes of w bits, lane 0 lowest. -/
def lanes (n w v : Nat) : List Nat := (List.range n).map (fun i => v / 2 ^ (w * i) % 2 ^ w)
def unlanes (w : Nat) (l : List Nat) : Nat := l.foldr (fun x a => x % 2 ^ w + 2 ^ w * a) 0

def aLanes (v : Wide) : List U32 := (lanes 32 32 v.toNat).map (BitVec.ofNat 32)
def ofALanes (l : List U32) : Wide := BitVec.ofNat 1024 (unlanes 32 (l.map (fun x => x.toNat)))
def hLanes (v : Line) : List U16 := (lanes 32 16 v.toNat).map (BitVec.ofNat 16)
def ofHLanes (l : List U16) : Line := BitVec.ofNat 512 (unlanes 16 (l.map (fun x => x.toNat)))
def wLanes (v : Line) : List U32 := (lanes 16 32 v.toNat).map (BitVec.ofNat 32)
def ofWLanes (l : List U32) : Line := BitVec.ofNat 512 (unlanes 32 (l.map (fun x => x.toNat)))
def bLanes (v : Line) : List Byte := (lanes 64 8 v.toNat).map (BitVec.ofNat 8)
def ofBLanes (l : List Byte) : Line := BitVec.ofNat 512 (unlanes 8 (l.map (fun x => x.toNat)))

/-! ### What an instruction came to -/

inductive TOut where
  /-- It faults with a code; the state keeps only the rows it opened and its corrected reads. -/
  | fault (code : Nat) (s : State)
  /-- It waits on the Seam (05 R141). -/
  | stall
  /-- It is done after its clocks; execution goes on in order. -/
  | next (s : State) (clocks : Nat)
  /-- As `next`, as though the instruction at `pc` had been the one executed. -/
  | skip (s : State) (clocks : Nat) (pc : Nat)
  /-- A taken branch. -/
  | jump (s : State) (clocks : Nat) (pc : Nat)
  /-- HALT. -/
  | halted (s : State)

/-- The first fault of a list in R181's order. -/
def judged (l : List (Bool × Nat)) (s : State) (k : TOut) : TOut :=
  match l.find? (fun p => p.1) with
  | some p => .fault p.2 s
  | none => k

/-- A reserved bit is 1: fields as (low bit, length). -/
def rsvSet (w : Nat) (l : List (Nat × Nat)) : Bool := l.any (fun f => decide (bits w f.1 f.2 ≠ 0))

/-- A level of the loops holds an index of the Tilth store (R176). -/
def inBody (l : GLoop) (p : Nat) : Bool := decide ((p + 2048 - l.first) % 2048 ≤ l.len)

/-- After the instruction at p, in order (R176, R177): its levels, the inner one first. -/
def nextInOrder (x : Grain) (p : Nat) : Grain :=
  let atEnd (l : GLoop) : Bool := decide ((p + 2048 - l.first) % 2048 = l.len)
  let step0 (y : Grain) : Grain :=
    match y.loop0 with
    | some l =>
      if atEnd l then
        if l.index + 1 < l.count then { y with loop0 := some { l with index := l.index + 1 }, pc := l.first }
        else { y with loop0 := none, pc := (p + 1) % 2048 }
      else { y with pc := (p + 1) % 2048 }
    | none => { y with pc := (p + 1) % 2048 }
  match x.loop1 with
  | some l =>
    if atEnd l then
      if l.index + 1 < l.count then { x with loop1 := some { l with index := l.index + 1 }, pc := l.first }
      else step0 { x with loop1 := none }
    else { x with pc := (p + 1) % 2048 }
  | none => step0 x

/-- A taken branch: a level whose body it leaves ends (R176, R177). -/
def branchTo (x : Grain) (t : Nat) : Grain :=
  if x.loop0.any (fun l => !inBody l t) then { x with loop0 := none, loop1 := none, pc := t }
  else if x.loop1.any (fun l => !inBody l t) then { x with loop1 := none, pc := t }
  else { x with pc := t }

/-- run_clocks counts up from 0 while a run lasts, and stands at a fault without the faulting instruction's clocks; a read of
the CRA during the run gives the count so far (DESIGN CHOICE, log entry 99: Table 5.4 says only the last run's count). -/
def addClocks (n : Nat) (x : Grain) : Grain := { x with runClocks := BitVec.ofNat 32 (satNat 32 (x.runClocks.toNat + n)) }

/-- The instruction is done: a Spread ends, its rows left as they are in lockstep mode (R180; 07 R202, R203); a run goes
on with the next instruction. -/
def finishInsn (g clocks : Nat) (move : Grain → Grain) (s : State) : State :=
  let x := addClocks clocks (grain s g)
  if x.insn.isSome then
    let s1 := stopGrain g .idle 0 0 (setGrain g x s)
    if x.own = .blind then s1 else closeRows g s1
  else fetchCheck g (setGrain g (move x) s)

/-- A bank's deferred refreshes are run at an instruction boundary once there are four (07 R205). -/
def boundary (g : Nat) (s : State) : State :=
  let k := grainCoord g
  let d := die s (dieNo k.1 k.2.1 k.2.2.1)
  if 4 ≤ tget 0 d.deferred (2 * k.2.2.2) ∨ 4 ≤ tget 0 d.deferred (2 * k.2.2.2 + 1) then
    serveDeferred g 4 (setGrain g { (grain s g) with unclocked := true } s)
  else s

/-- The shared step: the running grain executes the word it fetches next, if that has this major opcode. An instruction is one
step; a halt inside it is haltCommand's. A fault adds none of the
instruction's clocks (log entry 99). -/
def tilthStep (op : Nat) (sem : Nat → Nat → State → TOut) (g : Nat) (s : State) : State :=
  let x := grain s g
  let w := currentWord x
  if x.state ≠ .running ∨ majorOf w ≠ op then s
  else
    match sem w g (boundary g s) with
    | .fault code s1 => faultGrain g code s1
    | .stall => s
    | .next s1 n => finishInsn g n (fun y => nextInOrder y y.pc) s1
    | .skip s1 n p => finishInsn g n (fun y => nextInOrder y p) s1
    | .jump s1 n t => finishInsn g n (fun y => branchTo y t) s1
    | .halted s1 => closeRows g (stopGrain g .idle 0 0 (setGrain g (addClocks 8 (grain s1 g)) s1))

/-- An instruction that changes only the grain. -/
def pureInsn (faults : Grain → Nat → List (Bool × Nat)) (clocks : Grain → Nat → Nat) (act : Grain → Nat → Grain)
    (w g : Nat) (s : State) : TOut :=
  let x := grain s g
  judged (faults x w) s (.next (setGrain g (act x w) s) (clocks x w))

/-- The wait for an accumulator that a MAC-class instruction wrote (R164). -/
def accWait (x : Grain) (i : Nat) : Nat := tget 0 x.accReady i - x.runClocks.toNat

/-! ### Memory operands (R166 to R169) -/

/-- The address of a mem instruction and the value s_a takes (R166). -/
def memAddr (x : Grain) (w size : Nat) : Nat × U32 :=
  let a := sreg x (bits w 18 4)
  let off : U32 := ((BitVec.ofNat 13 (bits w 4 13)).signExtend 32) * BitVec.ofNat 32 size
  if bitAt w 17 then (a.toNat, a + off) else ((a + off).toNat, a)

/-- s_a after the instruction. -/
def postAddr (w : Nat) (v : U32) (x : Grain) : Grain := if bitAt w 17 then x.setS (bits w 18 4) v else x

def scratchBad (a size : Nat) : Bool := decide (a % size ≠ 0 ∨ 0x1000 < a + size)

def readScratch (x : Grain) (a n : Nat) : Nat := leNat ((List.range n).map (fun i => tget 0#8 x.scratch (a + i)))

def Grain.writeScratch (x : Grain) (a n v : Nat) : Grain :=
  { x with scratch := (List.range n).foldl (fun t i => tset 0#8 t (a + i) (BitVec.ofNat 8 (v / 2 ^ (8 * i)))) x.scratch }

/-- An address outside the grain's pages (R167, 05 R151). -/
def pageBad (x : Grain) (a : Nat) : Bool :=
  decide (2 ^ 28 ≤ a ∨ a / 65536 < x.pageLo.toNat ∨ x.pageHi.toNat < a / 65536)

/-- The two column words of a column pair of a grain (05 Table 5.1). -/
def pairWords (g row col : Nat) : List Nat :=
  let k := grainCoord g
  [0, 1].map (fun side => locWord { c := k.1, r := k.2.1, d := k.2.2.1, bank := 2 * k.2.2.2 + side, row := row, col := col })

/-- Row-opening clocks: tRCD alone where both banks were precharged, else tRP with it (R168, 07 R202). -/
def openClocks (s : State) (g row : Nat) : Nat :=
  let a := rowOf s g 0
  let b := rowOf s g 1
  if a = some row ∧ b = some row then 0
  else
    let k := grainCoord g
    let turn := a.isSome || b.isSome
    match (die s (dieNo k.1 k.2.1 k.2.2.1)).speed.toNat with
    | 0 => if turn then 18 else 10
    | 1 => if turn then 11 else 6
    | _ => if turn then 8 else 4

/-- The grain opens a row pair for a column access, running the deferred refreshes where it precharges (R168, 07 R205). -/
def openFor (g row : Nat) (s : State) : State :=
  if rowOf s g 0 = some row ∧ rowOf s g 1 = some row then s
  else
    let s1 := if deferredOf s g = 0 then s else serveDeferred g 1 (setGrain g { (grain s g) with unclocked := true } s)
    openPair g row s1

/-- The outcome of reading column words (05 R147): how many were corrected, and the first that was uncorrectable. -/
def readCheck (s : State) (ws : List Nat) : Nat × Option Nat :=
  ((ws.filter (fun w => decide (chkOf s w = 1))).length, ws.find? (fun w => decide (2 ≤ chkOf s w)))

def addCorrected (g n : Nat) (s : State) : State :=
  let x := grain s g
  setGrain g { x with eccCorrected := BitVec.ofNat 16 (satNat 16 (x.eccCorrected.toNat + n)) } s

/-- A grain meets a column word that it cannot read: the column goes to its bank controller (05 R147), where one with two
flipped bits fails the rank (08 R239). -/
def reportBad (g w : Nat) (s : State) : State :=
  let l := wordLoc w
  let a := locDpa (amo s) (logicalLoc s { l with d := 0 })
  { s with ctl := { s.ctl with reported := tput s.ctl.reported g w,
                               bad := if chkOf s w = 2 then tput s.ctl.bad (4 * l.c + l.r) a else s.ctl.bad } }

/-- ECC_UE at a column word, with what stands of the state (R182); the run ends at a time the model leaves out. -/
def eccFault (g w : Nat) (s : State) : TOut :=
  .fault 0x06 (reportBad g w (setGrain g { (grain s g) with unclocked := true } s))

def pairData (s : State) (ws : List Nat) : Line :=
  BitVec.ofNat 512 (leNat (ws.flatMap (fun w => leBytes 32 (Memory.col s.bank.mem w).toNat)))

/-- Read column words of one row for an instruction: ECC_UE at the first that is bad, or `k` on the data of the pairs, by
number (05 R147). -/
def withColumns (g row : Nat) (cols : List Nat) (s : State) (k : State → List Line → TOut) : TOut :=
  let s1 := openFor g row s
  let ps := cols.map (pairWords g row)
  let c := readCheck s1 ps.flatten
  match c.2 with
  | some w => eccFault g w s1
  | none => k (addCorrected g c.1 s1) (ps.map (pairData s1))

/-- The page of a column word that a grain writes counts among those its run wrote (05 R159). -/
def noteWritten (w : Nat) (s : State) : State :=
  let l := wordLoc w
  let g := grainAt l.c l.r l.d (l.bank / 2)
  match (p1At s l.c l.r).find? (fun k => k.2.issued && decide (g ∈ p1Grains s k.1 k.2)) with
  | some k => match k.2.place with
    | some p => noteSpan p (pageSpan s w) s
    | none => s
  | none => s

/-- Write one column word of a grain whole, with fresh check bits (05 R145). -/
def grainWrite (w : Nat) (d : ColData) (s : State) : State := noteWritten w (setColAt w d false s)

/-- Clocks of a column instruction: the accumulator wait overlaps the row opening (R164). -/
def colClocks (s : State) (g row wait n : Nat) : Nat := max wait (openClocks s g row) + n

/-! ### Control -/

def insHalt (w g : Nat) (s : State) : TOut :=
  judged [((grain s g).insn.isSome, 0x01), (rsvSet w [(0, 26)], 0x02)] s (.halted s)

def insNop : Nat → Nat → State → TOut := pureInsn (fun _ w => [(rsvSet w [(0, 26)], 0x02)]) (fun _ _ => 1) (fun x _ => x)

/-- LOOPI and LOOPR (R176). -/
def insLoop (count : Grain → Nat → Nat) (rsv : List (Nat × Nat)) (w g : Nat) (s : State) : TOut :=
  let x := grain s g
  let len := bits w 18 8
  let n := count x w
  let first := (x.pc + 1) % 2048
  let undef := x.insn.isSome || x.loop1.isSome
    || x.loop0.any (fun l => decide (l.len < (x.pc + 1 + 2048 - l.first) % 2048 + len))
  let l : GLoop := { first := first, len := len, count := n, index := 0 }
  judged [(undef, 0x01), (rsvSet w rsv, 0x02)] s
    (if n = 0 then .skip s 1 ((first + len) % 2048)
     else .next (setGrain g (if x.loop0.isSome then { x with loop1 := some l } else { x with loop0 := some l }) s) 1)

def insBr (w g : Nat) (s : State) : TOut :=
  let x := grain s g
  match brTaken (bits w 22 4) (sreg x (bits w 18 4)) (sreg x (bits w 14 4)), x.insn with
  | some taken, none =>
    let disp := (BitVec.ofNat 14 (bits w 0 14)).signExtend 32
    let t := ((BitVec.ofNat 32 (x.pc + 1) + disp).toNat) % 2048
    if taken then .jump s 2 t else .next s 1
  | _, _ => .fault 0x01 s

/-! ### Scalars -/

/-- The index of a loop level, 0 where it is inactive (R172). -/
def loopIndex (l : Option GLoop) : Nat := (l.map (fun x => x.index)).getD 0

def saluValue (x : Grain) (w : Nat) : Option U32 :=
  match bits w 8 6 with
  | 0x10 => some (BitVec.ofNat 32 (loopIndex x.loop0))
  | 0x11 => some (BitVec.ofNat 32 (loopIndex x.loop1))
  | fn => salu fn (sreg x (bits w 18 4)) (sreg x (bits w 14 4))

def insSalu : Nat → Nat → State → TOut :=
  pureInsn (fun x w => [((saluValue x w).isNone, 0x01), (rsvSet w [(0, 8)], 0x02)]) (fun _ _ => 1)
    (fun x w => x.setS (bits w 22 4) ((saluValue x w).getD 0#32))

def insAddi : Nat → Nat → State → TOut :=
  pureInsn (fun _ _ => []) (fun _ _ => 1)
    (fun x w => x.setS (bits w 22 4) (sreg x (bits w 18 4) + (BitVec.ofNat 18 (bits w 0 18)).signExtend 32))

def insOri : Nat → Nat → State → TOut :=
  pureInsn (fun _ _ => []) (fun _ _ => 1)
    (fun x w => x.setS (bits w 22 4) (sreg x (bits w 18 4) ||| BitVec.ofNat 32 (bits w 0 18)))

def insLui : Nat → Nat → State → TOut :=
  pureInsn (fun _ _ => []) (fun _ _ => 1) (fun x w => x.setS (bits w 22 4) (BitVec.ofNat 32 (bits w 0 22 * 1024)))

def insShi : Nat → Nat → State → TOut :=
  pureInsn (fun _ w => [(decide (bits w 16 2 = 3), 0x01), (rsvSet w [(5, 11)], 0x02)]) (fun _ _ => 1)
    (fun x w =>
      let a := sreg x (bits w 18 4)
      let k := bits w 0 5
      x.setS (bits w 22 4) (match bits w 16 2 with
        | 0 => a <<< k
        | 1 => a >>> k
        | _ => a.sshiftRight k))

def insSgetv : Nat → Nat → State → TOut :=
  pureInsn (fun _ w => [(rsvSet w [(0, 14)], 0x02)]) (fun _ _ => 1)
    (fun x w => x.setS (bits w 22 4) ((vreg x (bits w 18 4)).extractLsb' (32 * bits w 14 4) 32))

def insVsets : Nat → Nat → State → TOut :=
  pureInsn (fun _ w => [(rsvSet w [(0, 14)], 0x02)]) (fun _ _ => 1)
    (fun x w => x.setV (bits w 22 4)
      (ofWLanes ((wLanes (vreg x (bits w 22 4))).set (bits w 14 4) (sreg x (bits w 18 4)))))

/-! ### Scratch and CRA -/

/-- A load from scratch of n bytes (R166). Where r and a name one register and post is 1, the advance of s_a is the write that
stands (DESIGN CHOICE, log entry 100). -/
def insLoadScratch (n clocks : Nat) (rsv : List (Nat × Nat)) (act : Grain → Nat → Nat → Grain) : Nat → Nat → State → TOut :=
  pureInsn (fun x w => [(rsvSet w rsv, 0x02), (scratchBad (memAddr x w n).1 n, 0x04)]) (fun _ _ => clocks)
    (fun x w => postAddr w (memAddr x w n).2 (act x w (readScratch x (memAddr x w n).1 n)))

/-- A store to scratch of n bytes; `acc` tells an accumulator source, whose wait counts (R164). -/
def insStoreScratch (n clocks : Nat) (rsv : List (Nat × Nat)) (acc : Bool) (val : Grain → Nat → Nat) :
    Nat → Nat → State → TOut :=
  pureInsn (fun x w => [(rsvSet w rsv, 0x02), (scratchBad (memAddr x w n).1 n, 0x04)])
    (fun x w => clocks + if acc then accWait x (bits w 22 2) else 0)
    (fun x w => postAddr w (memAddr x w n).2 (x.writeScratch (memAddr x w n).1 n (val x w)))

def insVlds := insLoadScratch 64 1 [(0, 1)] (fun x w v => x.setV (bits w 22 4) (BitVec.ofNat 512 v))
def insVsts := insStoreScratch 64 1 [(0, 1)] false (fun x w => (vreg x (bits w 22 4)).toNat)
def insSlds := insLoadScratch 4 1 [(0, 1)] (fun x w v => x.setS (bits w 22 4) (BitVec.ofNat 32 v))
def insSsts := insStoreScratch 4 1 [(0, 1)] false (fun x w => (sreg x (bits w 22 4)).toNat)
def insAlds := insLoadScratch 128 2 [(0, 1), (24, 2)] (fun x w v => x.setA (bits w 22 2) (BitVec.ofNat 1024 v) 0)
def insAsts := insStoreScratch 128 2 [(0, 1), (24, 2)] true (fun x w => (areg x (bits w 22 2)).toNat)

def insSldr : Nat → Nat → State → TOut :=
  pureInsn (fun _ w => [(rsvSet w [(0, 16)], 0x02)]) (fun _ _ => 1)
    (fun x w => x.setS (bits w 22 4) (BitVec.ofNat 32 (craNat x (4 * bits w 16 6) 4)))

/-- SSTR (05 R138): words 56 to 63 fault. -/
def insSstr : Nat → Nat → State → TOut :=
  pureInsn (fun _ w => [(rsvSet w [(0, 16)], 0x02), (decide (56 ≤ bits w 16 6), 0x08)]) (fun _ _ => 1)
    (fun x w =>
      let v := (sreg x (bits w 22 4)).toNat
      { x with cra := (List.range 4).foldl (fun t i => tset 0#8 t (4 * bits w 16 6 + i) (BitVec.ofNat 8 (v / 2 ^ (8 * i)))) x.cra })

/-! ### Columns -/

/-- The row and the column of an address (05 Table 5.1). -/
def addrRow (a : Nat) : Nat := a / 4096 % 65536
def addrCol (a : Nat) : Nat := a / 64 % 64

def insVldc (w g : Nat) (s : State) : TOut :=
  let x := grain s g
  let a := memAddr x w 64
  judged [(rsvSet w [(0, 1)], 0x02), (pageBad x a.1, 0x03)] s
    (withColumns g (addrRow a.1) [addrCol a.1] s (fun s1 ds =>
      .next (setGrain g (postAddr w a.2 ((grain s1 g).setV (bits w 22 4) (ds.getD 0 0#512))) s1)
        (colClocks s g (addrRow a.1) 0 1)))

/-- One bank's part of a VSTC under its 32 mask bits: whole, none, or read-modify-write (R169, 05 R146). Once a read was
uncorrectable its word is kept, and later parts are not written. -/
def storePart (d : Line) (mask : Nat) (ws : List Nat) (g : Nat) (a : State × Option Nat) (side : Nat) : State × Option Nat :=
  let m := mask / 2 ^ (32 * side) % 2 ^ 32
  let w := ws.getD side 0
  let new := d.toNat / 2 ^ (256 * side) % 2 ^ 256
  if a.2.isSome ∨ m = 0 then a
  else if m = 2 ^ 32 - 1 then (grainWrite w (BitVec.ofNat 256 new) a.1, none)
  else if 2 ≤ chkOf a.1 w then (a.1, some w)
  else
    let s1 := addCorrected g (if chkOf a.1 w = 1 then 1 else 0) a.1
    (grainWrite w (BitVec.ofNat 256 (mergeBytes 32 (Memory.col s1.bank.mem w).toNat new m)) s1, none)

/-- The byte mask of a VSTC. -/
def vstcMask (x : Grain) (w : Nat) : Nat := if bitAt w 3 then (kreg x (bits w 1 2)).toNat else 2 ^ 64 - 1

/-- The banks that a VSTC writes whole, and those that it reads and writes. -/
def vstcParts (x : Grain) (w : Nat) : List Nat × List Nat :=
  let half (i : Nat) : Nat := vstcMask x w / 2 ^ (32 * i) % 2 ^ 32
  ([0, 1].filter (fun i => decide (half i = 2 ^ 32 - 1)), [0, 1].filter (fun i => decide (half i ≠ 2 ^ 32 - 1 ∧ half i ≠ 0)))

/-- VSTC: a bank written whole goes in the first slot, then each read-modify-write (R169); where one faults, the grain's
count of corrected reads stands too (R182). -/
def insVstc (w g : Nat) (s : State) : TOut :=
  let x := grain s g
  let a := memAddr x w 64
  let whole := (vstcParts x w).1
  let rmw := (vstcParts x w).2
  let slots := if rmw.isEmpty then 1 else 2 * rmw.length
  judged [(rsvSet w [(0, 1)], 0x02), (pageBad x a.1, 0x03)] s
    (let s1 := openFor g (addrRow a.1) s
     let r := (whole ++ rmw).foldl
       (storePart (vreg x (bits w 22 4)) (vstcMask x w) (pairWords g (addrRow a.1) (addrCol a.1)) g) (s1, none)
     match r.2 with
     | some bad => eccFault g bad (setGrain g { (grain r.1 g) with eccCorrected := x.eccCorrected } r.1)
     | none => .next (setGrain g (postAddr w a.2 (grain r.1 g)) r.1) (colClocks s g (addrRow a.1) 0 slots))

/-- The two columns of an accumulator access (R167). -/
def accCols (a : Nat) : List Nat := [addrCol a / 2 * 2, addrCol a / 2 * 2 + 1]

def insAldc (w g : Nat) (s : State) : TOut :=
  let x := grain s g
  let a := memAddr x w 128
  judged [(rsvSet w [(0, 1), (24, 2)], 0x02), (pageBad x a.1, 0x03)] s
    (withColumns g (addrRow a.1) (accCols a.1) s (fun s1 ds =>
      let v := (ds.getD 0 0#512).toNat + 2 ^ 512 * (ds.getD 1 0#512).toNat
      .next (setGrain g (postAddr w a.2 ((grain s1 g).setA (bits w 22 2) (BitVec.ofNat 1024 v) 0)) s1)
        (colClocks s g (addrRow a.1) 0 2)))

def insAstc (w g : Nat) (s : State) : TOut :=
  let x := grain s g
  let a := memAddr x w 128
  let v := (areg x (bits w 22 2)).toNat
  judged [(rsvSet w [(0, 1), (24, 2)], 0x02), (pageBad x a.1, 0x03)] s
    (let s1 := openFor g (addrRow a.1) s
     let ws := (accCols a.1).flatMap (pairWords g (addrRow a.1))
     let s2 := (List.range 4).foldl
       (fun s' i => grainWrite (ws.getD i 0) (BitVec.ofNat 256 (v / 2 ^ (256 * i))) s') s1
     .next (setGrain g (postAddr w a.2 (grain s2 g)) s2) (colClocks s g (addrRow a.1) (accWait x (bits w 22 2)) 2))

/-! ### Halt commands -/

/-- The column words that the grain's next instruction stores, one list for each of its slots that writes, in order. -/
def storeSlots (x : Grain) (g : Nat) : List (List Nat) :=
  let w := currentWord x
  match majorOf w with
  | 0x11 =>
    let a := (memAddr x w 64).1
    let ws := pairWords g (addrRow a) (addrCol a)
    let p := vstcParts x w
    (p.1.map (fun i => ws.getD i 0) :: p.2.map (fun i => [ws.getD i 0])).filter (fun l => decide (l ≠ []))
  | 0x1B => let a := (memAddr x w 128).1
            (accCols a).map (pairWords g (addrRow a))
  | _ => []

/-- A halt command at a grain. It stops the grain at an instruction boundary, or inside an instruction of several slots at a
slot's boundary: then the instruction is abandoned, but what its earlier slots stored stays written (05 R159, 06 R182). How many
those are is free (log entry 39). -/
def haltCommand (g : Nat) (s : State) : State :=
  let x := grain s g
  let slots := storeSlots x g
  let full := if majorOf (currentWord x) = 0x11 then insVstc (currentWord x) g s else insAstc (currentWord x) g s
  match full with
  | .next t _ =>
    if x.state = .running ∧ 1 < slots.length then
      let done := (slots.take (Config.haltSlot s.freeCtr % slots.length)).flatten
      haltGrain g (takeFree (done.foldl (fun s' w => grainWrite w (Memory.col t.bank.mem w) s') s))
    else haltGrain g s
  | _ => haltGrain g s

/-! ### Vectors -/

/-- One lane of a VOP: ty 0 bf16, 1 int8, 2 fp32 (R165, R170, R171). -/
def vopLane (ty fn a b : Nat) : Nat :=
  match fn with
  | 5 => a
  | 6 => a &&& b
  | 7 => a ||| b
  | 8 => a ^^^ b
  | _ =>
    match ty with
    | 0 =>
      let x := BitVec.ofNat 16 a
      let y := BitVec.ofNat 16 b
      (match fn with
       | 0 => Fp.round16 false (Fp.addV (Fp.val16 x) (Fp.val16 y))
       | 1 => Fp.round16 false (Fp.addV (Fp.val16 x) (Fp.negV (Fp.val16 y)))
       | 2 => Fp.round16 false (Fp.mulV (Fp.val16 x) (Fp.val16 y))
       | 3 => Fp.toBf16 (Fp.max32 (Fp.ofBf16 x) (Fp.ofBf16 y))
       | _ => Fp.toBf16 (Fp.min32 (Fp.ofBf16 x) (Fp.ofBf16 y))).toNat
    | 1 =>
      let x := BitVec.ofNat 8 a
      let y := BitVec.ofNat 8 b
      (match fn with
       | 0 => x + y
       | 1 => x - y
       | 2 => x * y
       | 3 => if x.slt y then y else x
       | _ => if x.slt y then x else y).toNat
    | _ =>
      let x := BitVec.ofNat 32 a
      let y := BitVec.ofNat 32 b
      (match fn with
       | 0 => Fp.add x y
       | 1 => Fp.sub x y
       | 2 => Fp.mul x y
       | 3 => Fp.max32 x y
       | _ => Fp.min32 x y).toNat

/-- Lane width and the mask bits a lane owns, by ty: bits 2i of bf16 lane i, i of int8, 4i of fp32 (R165). -/
def laneWidth (ty : Nat) : Nat := match ty with | 0 => 16 | 1 => 8 | _ => 32
def laneStep (ty : Nat) : Nat := laneWidth ty / 8
def laneCount (ty : Nat) : Nat := 512 / laneWidth ty

/-- Whether lane i is governed on: m = 0, or its mask bit is 1. -/
def laneOn (x : Grain) (w ty i : Nat) : Bool := !bitAt w 11 || (kreg x (bits w 9 2)).getLsbD (laneStep ty * i)

def insVop : Nat → Nat → State → TOut :=
  pureInsn (fun _ w => [(decide (bits w 12 2 = 3 ∨ 8 < bits w 3 6), 0x01), (rsvSet w [(0, 3)], 0x02)]) (fun _ _ => 1)
    (fun x w =>
      let ty := bits w 12 2
      let n := laneCount ty
      let lw := laneWidth ty
      let a := lanes n lw (vreg x (bits w 18 4)).toNat
      let b := lanes n lw (vreg x (bits w 14 4)).toNat
      let d := lanes n lw (vreg x (bits w 22 4)).toNat
      let r := (List.range n).map (fun i =>
        if laneOn x w ty i then vopLane ty (bits w 3 6) (a.getD i 0) (b.getD i 0) else d.getD i 0)
      x.setV (bits w 22 4) (BitVec.ofNat 512 (unlanes lw r)))

def insVsplat : Nat → Nat → State → TOut :=
  pureInsn (fun _ w => [(decide (bits w 12 2 = 3), 0x01), (rsvSet w [(0, 12), (14, 4)], 0x02)]) (fun _ _ => 1)
    (fun x w =>
      let ty := bits w 12 2
      x.setV (bits w 22 4)
        (BitVec.ofNat 512 (unlanes (laneWidth ty) (List.replicate (laneCount ty) (sreg x (bits w 18 4)).toNat))))

/-- A VCMP lane (R165, R170). -/
def vcmpLane (ty fn a b : Nat) : Bool :=
  let cmp (lt eq : Bool) : Bool := match fn with | 0 => eq | 1 => lt | _ => lt || eq
  match ty with
  | 0 =>
    let x := Fp.ofBf16 (BitVec.ofNat 16 a)
    let y := Fp.ofBf16 (BitVec.ofNat 16 b)
    cmp (Fp.lt x y) (Fp.eq x y)
  | 1 => cmp ((BitVec.ofNat 8 a).slt (BitVec.ofNat 8 b)) (decide (a = b))
  | _ => cmp (Fp.lt (BitVec.ofNat 32 a) (BitVec.ofNat 32 b)) (Fp.eq (BitVec.ofNat 32 a) (BitVec.ofNat 32 b))

def insVcmp : Nat → Nat → State → TOut :=
  pureInsn (fun _ w => [(decide (bits w 12 2 = 3 ∨ 2 < bits w 3 6), 0x01), (rsvSet w [(0, 3), (9, 3), (24, 2)], 0x02)])
    (fun _ _ => 1)
    (fun x w =>
      let ty := bits w 12 2
      let n := laneCount ty
      let st := laneStep ty
      let a := lanes n (laneWidth ty) (vreg x (bits w 18 4)).toNat
      let b := lanes n (laneWidth ty) (vreg x (bits w 14 4)).toNat
      let k := (List.range n).map (fun i => if vcmpLane ty (bits w 3 6) (a.getD i 0) (b.getD i 0) then 2 ^ st - 1 else 0)
      x.setK (bits w 22 2) (BitVec.ofNat 64 (unlanes st k)))

/-! ### Accumulators -/

/-- The clock from which an accumulator written now may be read, for an instruction of n clocks (R164). -/
def macReady (x : Grain) (n : Nat) : Nat := x.runClocks.toNat + n + 6

/-- One lane of a MAC (R170, R171). -/
def macLane (x : Grain) (w l : Nat) (a : U32) : U32 :=
  let va := vreg x (bits w 18 4)
  let vb := vreg x (bits w 14 4)
  if bits w 12 2 = 0 then
    if laneOn x w 0 l then Fp.macc16 a (va.extractLsb' (16 * l) 16) (vb.extractLsb' (16 * l) 16) else a
  else
    let term (i : Nat) : U32 :=
      if laneOn x w 1 i then ((va.extractLsb' (8 * i) 8).signExtend 32) * ((vb.extractLsb' (8 * i) 8).signExtend 32) else 0#32
    a + term (2 * l) + term (2 * l + 1)

/-- Map the lanes of an accumulator by number. -/
def mapLanes (v : Wide) (fn : Nat → U32 → U32) : Wide :=
  ofALanes ((List.range 32).map (fun l => fn l ((aLanes v).getD l 0#32)))

def insMac : Nat → Nat → State → TOut :=
  pureInsn (fun _ w => [(decide (2 ≤ bits w 12 2), 0x01), (rsvSet w [(0, 9), (24, 2)], 0x02)]) (fun _ _ => 1)
    (fun x w => x.setA (bits w 22 2) (mapLanes (areg x (bits w 22 2)) (macLane x w)) (macReady x 1))

/-- Element n of the broadcast group at vq (R172). -/
def groupElem (x : Grain) (vq n : Nat) : U16 := (vreg x ((vq + n % 512 / 32) % 16)).extractLsb' (16 * (n % 32)) 16

/-- One column of a MACC (R172). -/
def maccCol (x : Grain) (w c : Nat) (col : Line) (a : Wide) : Wide :=
  let vq := bits w 20 4
  let e := bits w 7 7
  let base := match bits w 14 2 with
    | 1 => e
    | 2 => loopIndex x.loop0 + e
    | 3 => loopIndex x.loop1 + e
    | _ => 0
  mapLanes a (fun l v =>
    let m := if bits w 14 2 = 0 then (vreg x vq).extractLsb' (16 * l) 16 else groupElem x vq (base + c)
    Fp.macc16 v (col.extractLsb' (16 * l) 16) m)

/-- MACC (R172): the row form uses the row pair already open, if there is one, and else the one s_sa names (R168); its
page is held to the page range all the same. -/
def insMacc (w g : Nat) (s : State) : TOut :=
  let x := grain s g
  let sa := sreg x (bits w 16 4)
  let rowForm := bitAt w 6
  let opened := match rowOf s g 0, rowOf s g 1 with
    | some a, some b => if a = b then some a else none
    | _, _ => none
  let addr := match rowForm, opened with
    | true, some r => r * 4096
    | _, _ => sa.toNat
  let row := addrRow addr
  let cols := if rowForm then List.range 64 else [addrCol sa.toNat]
  let n := cols.length
  judged [(rsvSet w [(0, 5)], 0x02), (pageBad x addr, 0x03)] s
    (withColumns g row cols s (fun s1 ds =>
      let y := grain s1 g
      let a := (List.range n).foldl (fun v c => maccCol y w c (ds.getD c 0#512) v) (areg y (bits w 24 2))
      let clocks := colClocks s g row 0 n
      let y1 := y.setA (bits w 24 2) a (macReady y clocks)
      let y2 := if bitAt w 5 then y1.setS (bits w 16 4) (sa + (if rowForm then 4096#32 else 64#32)) else y1
      .next (setGrain g y2 s1) clocks))

/-- BPMAC (R175). -/
def insBpmac (w g : Nat) (s : State) : TOut :=
  let x := grain s g
  let sa := sreg x (bits w 16 4)
  let row := addrRow sa.toNat
  judged [(rsvSet w [(0, 10)], 0x02), (pageBad x sa.toNat, 0x03)] s
    (withColumns g row [addrCol sa.toNat] s (fun s1 ds =>
      let y := grain s1 g
      let p := ds.getD 0 0#512
      let xs := (List.range 16).map (fun j =>
        Fp.ofBf16 ((vreg y (bits w 20 4)).extractLsb' (16 * (16 * bits w 10 1 + j)) 16))
      let lane (l : Nat) (v : U32) : U32 :=
        let t := (List.range 16).foldl (fun t j => if p.getLsbD (16 * l + j) then Fp.add t (xs.getD j 0#32) else t) 0#32
        Fp.add v (Fp.round32 (Fp.scaleV (bitAt w 12) (bits w 13 3) (Fp.val32 t)))
      let clocks := colClocks s g row 0 2
      let y1 := y.setA (bits w 24 2) (mapLanes (areg y (bits w 24 2)) lane) (macReady y clocks)
      .next (setGrain g (if bitAt w 11 then y1.setS (bits w 16 4) (sa + 64#32) else y1) s1) clocks))

/-- The accumulators an AOP reads, for its wait (R164). -/
def aopReads (w : Nat) : List Nat :=
  match bits w 8 6 with
  | 0 => []
  | 1 => [bits w 24 2, bits w 22 2]
  | 8 => []
  | 11 => [bits w 24 2]
  | 12 => [bits w 24 2]
  | _ => [bits w 22 2]

/-- AOP (Table 6.3). -/
def aopAct (x : Grain) (w : Nat) : Grain :=
  let ad := bits w 24 2
  let a := areg x (bits w 22 2)
  let vi := bits w 18 4
  let v := vreg x vi
  let sv := sreg x (bits w 14 4)
  let put (fn : Nat → U32 → U32) : Grain := x.setA ad (mapLanes a fn) 0
  let h (l : Nat) : U32 := Fp.ofBf16 (v.extractLsb' (16 * l) 16)
  match bits w 8 6 with
  | 0 => x.setA ad 0#1024 0
  | 1 => put (fun l y => Fp.add ((aLanes (areg x ad)).getD l 0#32) y)
  | 2 => put (fun _ y => Fp.mul y sv)
  | 3 => put (fun _ y => Fp.exp (Fp.sub y sv))
  | 4 => put (fun _ y => Fp.add y sv)
  | 5 => put (fun l y => Fp.mul y (h l))
  | 6 => x.setA ad a 0
  | 7 => x.setV vi (ofHLanes ((aLanes a).map Fp.toBf16))
  | 8 => put (fun l _ => h l)
  | 9 => x.setV vi (a.extractLsb' 0 512)
  | 10 => x.setV vi (a.extractLsb' 512 512)
  | 11 => x.setA ad ((areg x ad).extractLsb' 512 512 ++ v) 0
  | _ => x.setA ad (v ++ (areg x ad).extractLsb' 0 512) 0

def insAop : Nat → Nat → State → TOut :=
  pureInsn (fun _ w => [(decide (12 < bits w 8 6), 0x01), (rsvSet w [(0, 8)], 0x02)])
    (fun x w => (if bits w 8 6 = 3 then 4 else 1) + (aopReads w).foldl (fun n i => max n (accWait x i)) 0) aopAct

/-- One level of the tree of R173. -/
def pairUp (fn : U32 → U32 → U32) (l : List U32) : List U32 :=
  (List.range (l.length / 2)).map (fun j => fn (l.getD (2 * j) 0#32) (l.getD (2 * j + 1) 0#32))

def insAhred : Nat → Nat → State → TOut :=
  pureInsn (fun _ w => [(decide (1 < bits w 18 2), 0x01), (rsvSet w [(0, 18)], 0x02)])
    (fun x w => 6 + accWait x (bits w 20 2))
    (fun x w =>
      let fn := if bits w 18 2 = 0 then Fp.add else Fp.max32
      let up := pairUp fn
      x.setS (bits w 22 4) ((up (up (up (up (up (aLanes (areg x (bits w 20 2)))))))).getD 0 0#32))

/-! ### The Seam (R178, R179; 05 R140 to R143) -/

/-- Vectors of a buffer and on the way to it: at most four (05 R141, R185). -/
def seamLoad (x : Grain) (down : Bool) : Nat :=
  if down then x.recvDown.length + x.inflightDown.length else x.recvUp.length + x.inflightUp.length

def insSend (w g : Nat) (s : State) : TOut :=
  let down := bitAt w 25
  let x := grain s g
  let target := nearest s g down
  judged [(rsvSet w [(0, 18), (22, 3)], 0x02), (target.isNone, 0x05)] s
    (match target with
     | none => .stall
     | some h =>
       let y := grain s h
       if 4 ≤ seamLoad y down then .stall
       else
         let v := vreg x (bits w 18 4)
         let y1 := if down then { y with inflightDown := y.inflightDown ++ [v] } else { y with inflightUp := y.inflightUp ++ [v] }
         let s1 := setGrain h y1 s
         .next (setGrain g { (grain s1 g) with unclocked := true } s1) 1)

/-- The oldest vector from below (dir 0) or from above (dir 1). -/
def takeSeam (x : Grain) (above : Bool) : Option (Line × Grain) :=
  match above, x.recvUp, x.recvDown with
  | false, v :: rest, _ => some (v, { x with recvUp := rest, unclocked := true })
  | true, _, v :: rest => some (v, { x with recvDown := rest, unclocked := true })
  | _, _, _ => none

def insRecv (w g : Nat) (s : State) : TOut :=
  judged [(rsvSet w [(0, 18), (22, 3)], 0x02)] s
    (match takeSeam (grain s g) (bitAt w 25) with
     | none => .stall
     | some (v, y) => .next (setGrain g (y.setV (bits w 18 4) v) s) 1)

def insRadd (w g : Nat) (s : State) : TOut :=
  let ty := bits w 23 2
  judged [(decide (ty = 1 ∨ ty = 3), 0x01), (rsvSet w [(0, 14), (22, 1)], 0x02)] s
    (match takeSeam (grain s g) (bitAt w 25) with
     | none => .stall
     | some (v, y) =>
       let n := laneCount ty
       let lw := laneWidth ty
       let a := lanes n lw v.toNat
       let b := lanes n lw (vreg y (bits w 14 4)).toNat
       let r := (List.range n).map (fun i => vopLane ty 0 (a.getD i 0) (b.getD i 0))
       .next (setGrain g (y.setV (bits w 18 4) (BitVec.ofNat 512 (unlanes lw r))) s) 2)

/-! ### The commands -/

def execHalt (g : GrainNo) (s : State) : Host.Outcome State Fault Refusal := ok (tilthStep 0x01 insHalt g.val s)
def execTilthNop (g : GrainNo) (s : State) : Host.Outcome State Fault Refusal := ok (tilthStep 0x02 insNop g.val s)
def execLoopi (g : GrainNo) (s : State) : Host.Outcome State Fault Refusal :=
  ok (tilthStep 0x03 (insLoop (fun _ w => bits w 0 18) []) g.val s)
def execLoopr (g : GrainNo) (s : State) : Host.Outcome State Fault Refusal :=
  ok (tilthStep 0x04 (insLoop (fun x w => (sreg x (bits w 14 4)).toNat) [(0, 14)]) g.val s)
def execBr (g : GrainNo) (s : State) : Host.Outcome State Fault Refusal := ok (tilthStep 0x05 insBr g.val s)
def execSalu (g : GrainNo) (s : State) : Host.Outcome State Fault Refusal := ok (tilthStep 0x08 insSalu g.val s)
def execAddi (g : GrainNo) (s : State) : Host.Outcome State Fault Refusal := ok (tilthStep 0x09 insAddi g.val s)
def execOri (g : GrainNo) (s : State) : Host.Outcome State Fault Refusal := ok (tilthStep 0x0A insOri g.val s)
def execLui (g : GrainNo) (s : State) : Host.Outcome State Fault Refusal := ok (tilthStep 0x0B insLui g.val s)
def execShi (g : GrainNo) (s : State) : Host.Outcome State Fault Refusal := ok (tilthStep 0x0C insShi g.val s)
def execSgetv (g : GrainNo) (s : State) : Host.Outcome State Fault Refusal := ok (tilthStep 0x0D insSgetv g.val s)
def execVsets (g : GrainNo) (s : State) : Host.Outcome State Fault Refusal := ok (tilthStep 0x0E insVsets g.val s)
def execVldc (g : GrainNo) (s : State) : Host.Outcome State Fault Refusal := ok (tilthStep 0x10 insVldc g.val s)
def execVstc (g : GrainNo) (s : State) : Host.Outcome State Fault Refusal := ok (tilthStep 0x11 insVstc g.val s)
def execVlds (g : GrainNo) (s : State) : Host.Outcome State Fault Refusal := ok (tilthStep 0x12 insVlds g.val s)
def execVsts (g : GrainNo) (s : State) : Host.Outcome State Fault Refusal := ok (tilthStep 0x13 insVsts g.val s)
def execSlds (g : GrainNo) (s : State) : Host.Outcome State Fault Refusal := ok (tilthStep 0x14 insSlds g.val s)
def execSsts (g : GrainNo) (s : State) : Host.Outcome State Fault Refusal := ok (tilthStep 0x15 insSsts g.val s)
def execSldr (g : GrainNo) (s : State) : Host.Outcome State Fault Refusal := ok (tilthStep 0x16 insSldr g.val s)
def execSstr (g : GrainNo) (s : State) : Host.Outcome State Fault Refusal := ok (tilthStep 0x17 insSstr g.val s)
def execAlds (g : GrainNo) (s : State) : Host.Outcome State Fault Refusal := ok (tilthStep 0x18 insAlds g.val s)
def execAsts (g : GrainNo) (s : State) : Host.Outcome State Fault Refusal := ok (tilthStep 0x19 insAsts g.val s)
def execAldc (g : GrainNo) (s : State) : Host.Outcome State Fault Refusal := ok (tilthStep 0x1A insAldc g.val s)
def execAstc (g : GrainNo) (s : State) : Host.Outcome State Fault Refusal := ok (tilthStep 0x1B insAstc g.val s)
def execVop (g : GrainNo) (s : State) : Host.Outcome State Fault Refusal := ok (tilthStep 0x20 insVop g.val s)
def execVsplat (g : GrainNo) (s : State) : Host.Outcome State Fault Refusal := ok (tilthStep 0x21 insVsplat g.val s)
def execVcmp (g : GrainNo) (s : State) : Host.Outcome State Fault Refusal := ok (tilthStep 0x22 insVcmp g.val s)
def execMac (g : GrainNo) (s : State) : Host.Outcome State Fault Refusal := ok (tilthStep 0x28 insMac g.val s)
def execMacc (g : GrainNo) (s : State) : Host.Outcome State Fault Refusal := ok (tilthStep 0x29 insMacc g.val s)
def execBpmac (g : GrainNo) (s : State) : Host.Outcome State Fault Refusal := ok (tilthStep 0x2A insBpmac g.val s)
def execAop (g : GrainNo) (s : State) : Host.Outcome State Fault Refusal := ok (tilthStep 0x2B insAop g.val s)
def execAhred (g : GrainNo) (s : State) : Host.Outcome State Fault Refusal := ok (tilthStep 0x2C insAhred g.val s)
def execSend (g : GrainNo) (s : State) : Host.Outcome State Fault Refusal := ok (tilthStep 0x30 insSend g.val s)
def execRecv (g : GrainNo) (s : State) : Host.Outcome State Fault Refusal := ok (tilthStep 0x31 insRecv g.val s)
def execRadd (g : GrainNo) (s : State) : Host.Outcome State Fault Refusal := ok (tilthStep 0x32 insRadd g.val s)

/-- A Seam vector arrives in a grain's receive buffer, from above when `down` (05 R140). -/
def execSeamVectorArrive (g : GrainNo) (down : Bool) (s : State) : Host.Outcome State Fault Refusal :=
  let x := grain s g.val
  ok (match down, x.inflightUp, x.inflightDown with
    | false, v :: rest, _ => setGrain g.val { x with inflightUp := rest, recvUp := x.recvUp ++ [v] } s
    | true, _, v :: rest => setGrain g.val { x with inflightDown := rest, recvDown := x.recvDown ++ [v] } s
    | _, _, _ => s)

end Sys2Proof.Machine
end

