-- ==== Sys2Proof/Machine/Dies.lean ====
section
/-! DEFINITION. The commands of the CA bus at the dies of a rank (07 R186 to R210), and what the dies do by themselves:
the end of a lockstep Spread, a grain's stop, the effect of a mode change. A die in reset hears nothing, one in
self-refresh only SRX. -/

namespace Sys2Proof.Machine

/-! ### Bursts -/

/-- The four dies of a rank answer a read with their data and CHK codes; a die that does not drive the lines leaves them
at values the spec does not give (log entry 40). -/
def burst (c : Chan) (r : Rank) (parts : List (Option (ColData × Nat))) (s : State) : State :=
  if parts.all (fun p => p.isNone) then s
  else
    let part (d : Nat) : ColData × Nat := match parts.getD d none with
      | some p => p
      | none =>
        let v := Config.undriven (s.freeCtr + d)
        (v.extractLsb' 0 256, (v.extractLsb' 256 2).toNat)
    let data := (List.range 4).foldl (fun n d => n + (part d).1.toNat * 2 ^ (256 * d)) 0
    let chk := (List.range 4).foldl (fun n d => n + (part d).2 % 4 * 4 ^ d) 0
    let s1 := emit (.caData c r (BitVec.ofNat 1024 data) (BitVec.ofNat 8 chk)) s
    if parts.any (fun p => p.isNone) then { s1 with freeCtr := s1.freeCtr + 4 } else s1

/-- The dies of a rank that hear commands, with what each answers. -/
def answers (s : State) (c r : Nat) (f : Nat → Option (ColData × Nat)) : List (Option (ColData × Nat)) :=
  (List.range 4).map (fun d => if rankExists c r && dieHears (die s (dieNo c r d)) then f d else none)

/-! ### Bank access (R195, R196, R206) -/

/-- A bank of a die belongs to a grain (R201). -/
def bankOwned (s : State) (c r d bank : Nat) : Bool := decide (bankOwn s c r d bank ≠ .controller)

/-- An access to a bank at one die: ignored with BANK_OWNED where a grain owns the bank (R206). -/
def bankAccess (c r bank d : Nat) (act : State → State) (s : State) : State :=
  if bankOwned s c r d bank then setCause c r d 2 s else act s

def setOpen (c r d bank : Nat) (row : Option Nat) (s : State) : State :=
  let x := die s (dieNo c r d)
  let t := terase x.openRows bank
  setDie (dieNo c r d) { x with openRows := match row with
    | some n => tput t bank n
    | none => t } s

def openRow (s : State) (c r d bank : Nat) : Option Nat := tfind (die s (dieNo c r d)).openRows bank

/-- The column word that a RD or WR names at a die, where its bank has a row open and is not grain-owned. -/
def openWord (s : State) (c r d bank col : Nat) : Option Nat :=
  if bankOwned s c r d bank then none
  else (openRow s c r d bank).map (fun row => locWord { c := c, r := r, d := d, bank := bank, row := row, col := col })

/-- ACT (Table 7.2). -/
def execAct (c : Chan) (r : Rank) (bank : BankNo) (row : RowNo) (s : State) : Host.Outcome State Fault Refusal :=
  ok (onRank c r (fun d s' => bankAccess c r bank d (setOpen c r d bank (some row.val)) s') (countEv 0x20 c none 1 s))

/-- The words that the dies of a rank which hear commands read at an open column. -/
def rdWords (s : State) (c r bank col : Nat) : List Nat :=
  (List.range 4).filterMap (fun d =>
    if rankExists c r && dieHears (die s (dieNo c r d)) then openWord s c r d bank col else none)

/-- RD (R195, R196): the word with its CHK code, by the flipped bits the read finds, then the precharge if `ap`. -/
def execRd (c : Chan) (r : Rank) (bank : BankNo) (col : ColNo) (ap : Bool) (flips : Flips) (s : State) :
    Host.Outcome State Fault Refusal :=
  let ws := rdWords s c r bank col
  let s0 := takeFlips ws flips s
  let get (d : Nat) : Option (ColData × Nat) :=
    (openWord s0 c r d bank col).map (fun w => (Memory.col s0.bank.mem w, chkOf s0 w))
  let row := ((ws.head?).map (fun w => (wordLoc w).row)).getD 0
  let s1 := burst c r (answers s0 c r get) (noteRead c r bank row col ws s0)
  ok (onRank c r (fun d s' => bankAccess c r bank d (fun t => if ap then setOpen c r d bank none t else t) s') s1)

/-- WR (R195): each die stores its 32 bytes, poisoned or clearing poison. -/
def execWr (c : Chan) (r : Rank) (bank : BankNo) (col : ColNo) (ap poison : Bool) (data : Wide) (s : State) :
    Host.Outcome State Fault Refusal :=
  let put (d : Nat) (t : State) : State := match openWord t c r d bank col with
    | some w => setColAt w (data.extractLsb' (256 * d) 256) poison t
    | none => t
  ok (onRank c r (fun d s' => bankAccess c r bank d
    (fun t => if ap then setOpen c r d bank none (put d t) else put d t) s') s)

/-- PRE of one bank, or of all (Table 7.2). -/
def execPre (c : Chan) (r : Rank) (bank : BankNo) (all : Bool) (s : State) : Host.Outcome State Fault Refusal :=
  let banks := if all then List.range 32 else [bank.val]
  ok (onRank c r (fun d s' => banks.foldl (fun t b => bankAccess c r b d (setOpen c r d b none) t) s') s)

/-- REF at one bank of a die (R205, R206): deferred on a bank that a run owns, at most four; ignored in a lockstep
Spread. -/
def refBank (c r d b : Nat) (s : State) : State :=
  match bankOwn s c r d b with
  | .controller => s
  | .blind => setCause c r d 2 s
  | .polled =>
    let x := die s (dieNo c r d)
    let n := tget 0 x.deferred b
    if 4 ≤ n then setCause c r d 3 s else setDie (dieNo c r d) { x with deferred := tset 0 x.deferred b (n + 1) } s

def execRef (c : Chan) (r : Rank) (bank : BankNo) (all : Bool) (s : State) : Host.Outcome State Fault Refusal :=
  let banks := if all then List.range 32 else [bank.val]
  ok (onRank c r (fun d s' => banks.foldl (fun t b => refBank c r d b t) s') (countEv 0x21 c none 1 s))

/-! ### The REFs that a bank controller owes (08 R221) -/

/-- How many REFs a bank of a rank owes; below 0, how many went ahead of what is owed. -/
def owedOf (s : State) (c r b : Nat) : Int := tget 0 (bc s c).debt (r * 32 + b)
def setOwed (c r b : Nat) (v : Int) (s : State) : State :=
  let x := bc s c
  setBc c { x with debt := tset 0 x.debt (r * 32 + b) v } s

/-- Whose a bank of a rank is: a run's on some die, else a lockstep Spread's on some die, else the controller's. -/
def rankBankOwn (s : State) (c r b : Nat) : Own :=
  if (List.range 4).any (fun d => decide (bankOwn s c r d b = .polled)) then .polled
  else if (List.range 4).any (fun d => decide (bankOwn s c r d b = .blind)) then .blind
  else .controller

/-- A bank takes a RD or WR of its bank controller: no frequency change holds the channel and no grain owns it (07 R201, 08
R237). -/
def bankTakes (s : State) (l : Loc) : Bool :=
  !(bc s l.c).changing && decide (rankBankOwn s l.c l.r l.bank = .controller)

/-- n REFs to one bank, the owed count going down by as many. -/
def sendRefs (c r b n : Nat) (s : State) : State :=
  let s1 := (List.range n).foldl (fun s' _ => onRank c r (fun d t => refBank c r d b t) (countEv 0x21 c none 1 s')) s
  setOwed c r b (owedOf s1 c r b - (n : Int)) s1

/-- The banks of a rank that owe 8 are refreshed ahead of every port, where no grain owns them (08 R221, R232). -/
def forceRefs (c r : Nat) (s : State) : State :=
  (List.range 32).foldl (fun s' b =>
    if 8 ≤ owedOf s' c r b ∧ rankBankOwn s' c r b = .controller then sendRefs c r b (owedOf s' c r b).toNat s' else s') s

/-! ### Mode registers, self-refresh, reset -/

/-- Change each die of a mask. -/
def onDies (c r : Nat) (dies : BitVec 4) (f : DieSt → DieSt) (s : State) : State :=
  onRank c r (fun d s' => if dies.getLsbD d then setDie (dieNo c r d) (f (die s' (dieNo c r d))) s' else s') s

/-- MRW (R197). -/
def execMrw (c : Chan) (r : Rank) (addr : Byte) (data : Byte) (dies : BitVec 4) (s : State) :
    Host.Outcome State Fault Refusal :=
  ok (onDies c r dies (mrWrite addr.toNat data) s)

/-- What a die returns to an MRR (R197): the register and its complement. The pattern is returned in every byte
(DEDUCED, log entry 42: byte i is pattern register i mod 4). -/
def mrrWord (x : DieSt) (a : Nat) : ColData :=
  if a = 0x10 then BitVec.ofNat 256 (leNat ((List.range 32).map (fun i => mrStored x (0x10 + i % 4))))
  else
    let v := mrRead x a
    BitVec.ofNat 256 (v.toNat + 256 * (~~~v).toNat)

def execMrr (c : Chan) (r : Rank) (addr : Byte) (s : State) : Host.Outcome State Fault Refusal :=
  ok (burst c r (answers s c r (fun d => some (mrrWord (die s (dieNo c r d)) addr.toNat, 0))) s)

/-- st_start is written 1 (R210). -/
def execGrainSelfTestStart (c : Chan) (r : Rank) (dies : BitVec 4) (s : State) : Host.Outcome State Fault Refusal :=
  ok (onDies c r dies startSelfTest s)

/-- Causes are written clear (R208). -/
def execAlertCauseClear (c : Chan) (r : Rank) (dies : BitVec 4) (causes : Byte) (s : State) :
    Host.Outcome State Fault Refusal :=
  ok (onDies c r dies (clearCauses causes) s)

/-- No grain of a die is running. -/
def dieQuiet (s : State) (c r d : Nat) : Bool :=
  (List.range 16).all (fun g => decide ((grain s (grainAt c r d g)).state ≠ .running))

/-- A written mode takes effect once no grain of the die is running (R204). -/
def execModeChangeEffect (c : Chan) (r : Rank) (d : Die) (s : State) : Host.Outcome State Fault Refusal :=
  if rankExists c r && dieQuiet s c r d then
    let x := die s (dieNo c r d)
    ok (setDie (dieNo c r d) { x with ready := (mrStored x 0x03).getLsbD 0 } s)
  else ok s

/-- A grain of a rank is running or has deferred refreshes. -/
def rankBusy (s : State) (c r : Nat) : Bool :=
  (List.range 4).any (fun d => !dieQuiet s c r d || decide ((die s (dieNo c r d)).deferred ≠ []))

/-- SRE (R207): ignored with SR_BUSY, at every die of the rank, while a grain of the rank is busy. -/
def execSre (c : Chan) (r : Rank) (s : State) : Host.Outcome State Fault Refusal :=
  let busy := rankBusy s c r
  ok (onRank c r (fun d s' =>
    if busy then setCause c r d 6 s'
    else setDie (dieNo c r d) { (die s' (dieNo c r d)) with selfRefresh := true } s') s)

/-- SRX: the rank leaves self-refresh, at the speed point last written (Table 7.5). -/
def execSrx (c : Chan) (r : Rank) (s : State) : Host.Outcome State Fault Refusal :=
  ok (if rankExists c r then
    (List.range 4).foldl (fun s' d =>
      let x := die s' (dieNo c r d)
      if x.inReset || !x.selfRefresh then s'
      else setDie (dieNo c r d) { x with selfRefresh := false, speed := nextSpeed x } s') s
  else s)

/-- ZQ: the dies calibrate their drivers; nothing of the state changes (Table 7.6). -/
def execZq (_c : Chan) (_r : Rank) (s : State) : Host.Outcome State Fault Refusal := ok s

/-- A die leaves reset with the settings of R210, its grains as Table 5.2 has them. -/
def releaseDie (c r d : Nat) (s : State) : State :=
  let x := die s (dieNo c r d)
  if x.inReset then
    (List.range 16).foldl (fun s' g => setGrain (grainAt c r d g) (grain s' (grainAt c r d g)).cleared s')
      (setDie (dieNo c r d) { DieSt.reset with inReset := false } s)
  else s

/-- A rank out of service stays in reset (08 R240, R244). -/
def rankRetired (s : State) (c r : Nat) : Bool :=
  let q := quadMap s (c / 4)
  if r = 2 then q.spareBad
  else isFenced s c r || (q.spareIn && decide (q.spareFor.map (fun k => k.val) = some (quadRank c r)))

/-- RESET_n of a rank is released (R210), by the BC that the PMU has released or is releasing (01 R29). -/
def execResetNRelease (c : Chan) (r : Rank) (s : State) : Host.Outcome State Fault Refusal :=
  let driven := s.boot.relBc.getLsbD c.val || decide (s.boot.phase = 0x05#8 ∨ s.boot.phase = 0x0A#8)
  ok (if driven && rankExists c r && !rankRetired s c r then (List.range 4).foldl (fun s' d => releaseDie c r d s') s else s)

/-- The cycles that follow a CS_n low of a rank, each CA[13:0] with PAR above: one that fails parity sets CA_PAR, an
undefined encoding CA_UNDEF with its code (R188, R190). Cycles that spell a command do nothing here: it is a command of its
own (log entry 1). -/
def execUndefinedCaCommand (c : Chan) (r : Rank) (cycles : List (BitVec 15)) (s : State) : Host.Outcome State Fault Refusal :=
  let v := (caTaken cycles).map (fun x => x.toNat % 2 ^ 14)
  let code : BitVec 5 := BitVec.ofNat 5 (v.headD 0)
  ok (if cycles.isEmpty then s
  else if !(caTaken cycles).all evenParity then onRank c r (fun d s' => setCause c r d 0 s') s
  else if (caDecode c r v 0#1024).isSome then s
  else onRank c r (fun d s' =>
    let x := die s' (dieNo c r d)
    setCause c r d 1 (if x.cause.getLsbD 1 then s' else setDie (dieNo c r d) { x with undefCode := code } s')) s)

/-! ### Grain commands (Table 7.3) -/

/-- Whether a die carries out a command of R192 on its selected grains. -/
def dieAccepts (s : State) (c r d : Nat) : Bool :=
  let x := die s (dieNo c r d)
  let gs := selected s c r d
  x.stDone && !x.selfTest && !gs.isEmpty
    && gs.all (fun g => decide ((grain s (grainAt c r d g)).state ≠ .running ∧ (grain s (grainAt c r d g)).own = .controller))

/-- A command of R192 on the selected grains of each die: ignored as a whole with BANK_OWNED where a selected grain is
running, in self-test or owns its banks, and before st_done (R210); no effect on a die with no selected grain. -/
def grainCmd (c r : Nat) (act : Nat → Nat → State → State) (s : State) : State :=
  onRank c r (fun d s' =>
    let x := die s' (dieNo c r d)
    if x.stDone && !x.selfTest && (selected s' c r d).isEmpty then s'
    else if dieAccepts s' c r d then (selected s' c r d).foldl (fun t g => act d (grainAt c r d g) t) s'
    else setCause c r d 2 s') s

/-- SEL (R191). -/
def execSel (c : Chan) (r : Rank) (sel : GrainSel) (s : State) : Host.Outcome State Fault Refusal :=
  ok (onRank c r (fun d s' =>
    let x := die s' (dieNo c r d)
    let out := (mrStored x 0x22).toNat + 256 * (mrStored x 0x23).toNat
    let v := if sel.dies.getLsbD d then sel.grains &&& ~~~(BitVec.ofNat 16 out) else 0#16
    setDie (dieNo c r d) { x with sel := v } s') s)

/-- Throttling holds an activation of a row by a port (08 R226); P7 is exempt (R222a). -/
def throttled (s : State) (c r b row port_ : Nat) : Bool :=
  decide (port_ ≠ 7) && (portCfg s port_).mode && (bc s c).tracker.any (fun k =>
    decide (k.port = port_ ∧ k.rank = r ∧ k.bank = b ∧ k.row = row ∧ (now s - k.at_).toNat < s.dev.thrNs.toNat))

/-- An activation of a row by a port is tracked, or the neighbour refresh that the draw schedules waits at the head of P7,
as the port's row-disturb mode says (08 R222a, R225, R226). -/
def noteActivation (c row port_ r b : Nat) (s : State) : State :=
  let x := bc s c
  if port_ = 7 then s
  else if (portCfg s port_).mode then
    let same (k : Track) : Bool := decide (k.port = port_ ∧ k.rank = r ∧ k.bank = b ∧ k.row = row)
    let mine := (x.tracker.filter (fun k => decide (k.port = port_) && !same k))
      ++ [{ port := port_, rank := r, bank := b, row := row, at_ := now s }]
    setBc c { x with tracker := x.tracker.filter (fun k => decide (k.port ≠ port_)) ++ mine.drop (mine.length - 64) } s
  else
    let draw := (Config.lfsrDraw s.freeCtr).toNat % s.dev.pnrDiv.toNat
    takeFree (if draw = 0 then setBc c { x with nbr := x.nbr ++ [(r, b, row)] } s else s)

/-- A grain command that P1 still waits to send, whose row an ACTG opens at a rank. -/
def actgWanted (s : State) (c r row : Nat) : Bool :=
  (p1At s c r).any (fun k => !k.2.issued && selMatches s c r k.2.sel && p1Turn s k && (match k.2.kind with
    | .spread _ n true _ => decide (n = row)
    | _ => false))

/-- The banks an ACTG counts in: both of each selected grain, on every die of the rank (08 R222a). -/
def actgBanks (s : State) (c r : Nat) : List Nat :=
  ((List.range 16).filter (fun g => (List.range 4).any (fun d => decide (g ∈ selected s c r d)))).flatMap
    (fun g => [2 * g, 2 * g + 1])

/-- ACTG: one row in both banks of each selected grain. One that a command of P1 waits for is an activation of P1, held
or drawn for as its row-disturb mode says (08 R222a); one that throttling holds does not go out (log entry 101). -/
def execActg (c : Chan) (r : Rank) (row : RowNo) (s : State) : Host.Outcome State Fault Refusal :=
  let banks := if actgWanted s c r row then actgBanks s c r else []
  if banks.any (fun b => throttled s c r b row 1) then ok (countEv 0x23 c none 1 s)
  else
    ok (grainCmd c r (fun _ g t => openPair g row.val t)
      (countEv 0x20 c none 1 (banks.foldl (fun t b => noteActivation c row 1 r b t) s)))

/-- PREG: both banks of each selected grain. -/
def execPreg (c : Chan) (r : Rank) (s : State) : Host.Outcome State Fault Refusal :=
  ok (grainCmd c r (fun _ g t => closeRows g t) s)

/-- BIND (05 R151, R152). -/
def execBind (c : Chan) (r : Rank) (lo hi : BitVec 12) (f : Func) (s : State) : Host.Outcome State Fault Refusal :=
  let fb := BitVec.ofNat 8 f.val
  ok (grainCmd c r (fun _ g t =>
    let x := grain t g
    let y := if x.lastFn = fb then x else x.clearFor fb
    setGrain g { y with pageLo := lo, pageHi := hi } t) s)

/-- The grains of a P1 command are bound to its function and to its page range in force (05 R151), with the row open
that its act bit asks for. -/
def p1Bound (s : State) (k : Nat × P1) : Bool :=
  let g := (grnPartOf s k.2.func.val).inForce
  (p1Grains s k.1 k.2).all (fun i =>
    let x := grain s i
    decide (x.lastFn = BitVec.ofNat 8 k.2.func.val ∧ x.pageLo = g.lo ∧ x.pageHi = g.hi) &&
      (match k.2.kind with
       | .spread _ row true _ => decide (rowOf s i 0 = some row ∧ rowOf s i 1 = some row)
       | _ => true))

/-- Every die of a rank with a selected grain hears the command and carries it out. -/
def allAccept (s : State) (c r : Nat) : Bool :=
  rankExists c r && (List.range 4).all (fun d =>
    dieHears (die s (dieNo c r d)) && ((selected s c r d).isEmpty || dieAccepts s c r d))

/-- The start of the present 4 µs window (08 R234). -/
def window (s : State) : Nat := (now s).toNat / 4000 * 4000

/-- The lockstep Spreads of a rank that have not reached E, with when each was issued. -/
def lockstepOn (s : State) (c r : Nat) : List Nat :=
  ((p1At s c r).filter (fun k => k.2.issued && (match k.2.kind with
    | .spread _ _ _ _ => (p1Grains s k.1 k.2).any (fun g => decide ((grain s g).own = .blind))
    | _ => false))).map (fun k => k.2.since.toNat)

/-- How long lockstep Spreads have owned banks of a rank in the present window (08 R234): those that reached E in it, and the
part that lies in it of the one under way. -/
def ownedNs (s : State) (c r : Nat) : Nat :=
  let b := bc s c
  (if b.spreadFrom.toNat = window s then tget 0 b.spreadNs r else 0)
    + (lockstepOn s c r).foldl (fun n t => max n ((now s).toNat - max t (window s))) 0

/-- A request of another port than P1 waits for a rank (08 R234). -/
def rankAsked (s : State) (c r : Nat) : Bool :=
  (bc s c).writes.any (fun u => decide (u.rank = r)) || (List.range 4).any (fun i =>
    let c1 := 4 * (c / 4) + i
    (bc s c1).heldAct.any (fun q => decide (physRank s c1 q.req.rank = (c, r))))

/-- The BC holds further lockstep Spreads to a rank while another request waits for it and its banks have been owned for
BC_GCAP/64 of the 4 µs window (08 R234); ready-mode Spreads and runs are not held. -/
def launchHeld (s : State) (c r : Nat) (insn : Option U32) : Bool :=
  let lockstep := (List.range 4).all (fun d => !(die s (dieNo c r d)).ready)
  insn.isSome && lockstep && rankAsked s c r && decide (s.dev.gcap.toNat * 4000 ≤ 64 * ownedNs s c r)

/-- The time a lockstep Spread owned banks is counted in the present window, as far as it lies in it (08 R234). -/
def noteOwned (c r : Nat) (since : Nat) (s : State) : State :=
  let b := bc s c
  let t := if b.spreadFrom.toNat = window s then b.spreadNs else []
  let ns := (now s).toNat - max since (window s)
  setBc c { b with spreadFrom := BitVec.ofNat 64 (window s), spreadNs := tset 0 t r (tget 0 t r + ns) } s

/-- A fill of a STEP is queued for the banks of a grain that one of its grain runs names: step_driver holds the run until the
fill is served (13 R355). -/
def fillsFirst (s : State) (k : Nat × P1) : Bool :=
  let gs := p1Grains s k.1 k.2
  let ofStep (p : Place) : Bool := decide (k.2.place = some p) && (desc s p).any (fun d => decide (opcodeOf d.words = 0x11))
  s.seq.queues.any (fun q => q.2.any (fun j => ofStep j.place && (match j.push.cmd with
    | .fill _ line loc lines _ => (List.range lines).any (fun i => (lineWords s loc (line + i)).any (fun w =>
        decide (grainAt (wordLoc w).c (wordLoc w).r (wordLoc w).d ((wordLoc w).bank / 2) ∈ gs)))
    | _ => false)))

/-- The BC sends a command of P1 now: every grain it names that is not mapped out has stopped and its banks are back (05
R137), bound to its function, no refresh is forced, and no cap, frequency change, migration or queued fill holds it (05 R157; 08
R232, R234, R237, R242; 13 R355). -/
def launchReady (s : State) (c r : Nat) (k : Nat × P1) (insn : Option U32) : Bool :=
  allAccept s c r && p1Bound s k && !launchHeld s c r insn && !(bc s c).changing && !rankMigrating s k.1 k.2.rank && !fillsFirst s k

/-- A grain that stops at the window boundary that latches a SPRD or GRUN: the stop applies first, and its banks are back
(Table 7.8). -/
def latchStops (c r : Nat) (s : State) : State :=
  onRank c r (fun d s' => (selected s' c r d).foldl (fun t g =>
    let x := grain t (grainAt c r d g)
    if x.own = .polled ∧ x.state ≠ .running ∧ x.craMtb = now t ∧ deferredOf t (grainAt c r d g) = 0 then
      setGrain (grainAt c r d g) { x with own := .controller } t
    else t) s') s

/-- HALTG: each selected running grain stops (05 R159). -/
def execHaltg (c : Chan) (r : Rank) (s : State) : Host.Outcome State Fault Refusal :=
  ok (onRank c r (fun d s' =>
    if (die s' (dieNo c r d)).stDone then (selected s' c r d).foldl (fun t g => haltCommand (grainAt c r d g) t) s'
    else setCause c r d 2 s') s)

/-- CRAW: 32 bytes into a slot of each selected grain. -/
def execCraw (c : Chan) (r : Rank) (slot : Fin 7) (data : Wide) (s : State) : Host.Outcome State Fault Refusal :=
  let part (d : Nat) : ColData := data.extractLsb' (256 * d) 256
  let s1 := grainCmd c r (fun d g t => writeCra g (32 * slot.val) (leBytes 32 (part d).toNat) t) s
  let k? := (p1At s c r).find? (fun k => !k.2.issued && selMatches s c r k.2.sel && p1Turn s k && (match k.2.kind with
    | .craw n v => decide (n = slot.val) && (List.range 4).all (fun d => !k.2.sel.dies.getLsbD d || decide (part d = v))
    | _ => false))
  ok (match k? with
    | some k => if allAccept s c r then completeP1 k.1 k.2 none s1 else s1
    | none => s1)

/-- CRAR: each die returns a grain's slot (R193); a context's read of a word of slot 6 is served by it (09 R258). -/
def execCrar (c : Chan) (r : Rank) (slot : Fin 8) (grain_ : Fin 16) (s : State) : Host.Outcome State Fault Refusal :=
  let word (d : Nat) : ColData := BitVec.ofNat 256 (craNat (grain s (grainAt c r d grain_)) (32 * slot.val) 32)
  let s1 := burst c r (answers s c r (fun d => some (word d, 0))) s
  let up := rankExists c r && (List.range 4).all (fun d => dieHears (die s (dieNo c r d)))
  let served := (p1At s c r).filter (fun k => match k.2.kind with
    | .craRead _ g _ => decide (g = grain_.val ∧ slot.val = 6) && p1Turn s k
    | _ => false)
  ok (if up then
    served.foldl (fun t k => match k.2.kind with
      | .craRead d _ w => completeP1 k.1 k.2 (some ((word d).extractLsb' (32 * w) 32)) t
      | _ => t) s1
  else s1)

/-- TLW: up to eight words of each selected grain's Tilth store. -/
def execTlw (c : Chan) (r : Rank) (index words : Byte) (data : Wide) (s : State) : Host.Outcome State Fault Refusal :=
  ok (grainCmd c r (fun d g t =>
    let x := grain t g
    let st := (List.range 8).foldl
      (fun m i => if words.getLsbD i then tset 0#32 m (index.toNat * 8 + i) (data.extractLsb' (256 * d + 32 * i) 32) else m)
      x.store
    setGrain g { x with store := st } t) s)

/-- TLR: eight words of one grain's Tilth store (R193). -/
def execTlr (c : Chan) (r : Rank) (index : Byte) (grain_ : Fin 16) (s : State) : Host.Outcome State Fault Refusal :=
  let word (d : Nat) : ColData := BitVec.ofNat 256 (unlanes 32 ((List.range 8).map (fun i =>
    (tget 0#32 (grain s (grainAt c r d grain_)).store (index.toNat * 8 + i)).toNat)))
  ok (burst c r (answers s c r (fun d => some (word d, 0))) s)

/-- The state that STAT reports for a grain: 1 until its deferred refreshes are complete (Table 7.4, R203). -/
def statCode (s : State) (g : Nat) : Nat :=
  let x := grain s g
  if x.own = .polled ∧ deferredOf s g ≠ 0 then 1 else gstateCode x.state

/-- The status burst of a die (Table 7.4). -/
def statWord (s : State) (c r d : Nat) : ColData :=
  let x := die s (dieNo c r d)
  let st := (List.range 16).foldl (fun n g => n + statCode s (grainAt c r d g) * 4 ^ g) 0
  let pend := (List.range 16).any (fun g =>
    decide ((grain s (grainAt c r d g)).own ≠ .controller ∧ deferredOf s (grainAt c r d g) ≠ 0))
  let held := x.clipped || (tfind s.pwr.clk (islGrain c r d)).isSome
  let lo := st + x.changed.toNat * 2 ^ 32 + bitIf (x.ready && held) 48 + bitIf pend 49 + x.temp.toNat * 2 ^ 56
  BitVec.ofNat 256 (lo + (2 ^ 128 - 1 - lo) * 2 ^ 128)

/-- What the latch of a STAT does at a die (R194, R203): the changes are cleared, and the banks return of each grain it
shows stopped. -/
def statDie (c r d : Nat) (s : State) : State :=
  let back (t : State) (g : Nat) : State :=
    let x := grain t g
    if x.own = .polled ∧ x.state ≠ .running ∧ deferredOf t g = 0 then setGrain g { x with own := .controller } t else t
  let s1 := (List.range 16).foldl (fun t g => back t (grainAt c r d g)) s
  let x := die s1 (dieNo c r d)
  setDie (dieNo c r d) { x with changed := 0#16, clipped := false } s1

/-- STAT of a rank: the burst, the banks that return, and the commands that are done with it. -/
def statRank (c : Chan) (r : Rank) (s : State) : State :=
  let s1 := burst c r (answers s c r (fun d => some (statWord s c r d, 0))) s
  reapP1 c r (onRank c r (fun d t => statDie c r d t) s1)

def execStat (c : Chan) (r : Rank) (s : State) : Host.Outcome State Fault Refusal := ok (statRank c r s)

/-! ### The ends of Spreads and runs -/

/-- E of a lockstep Spread (R202): the banks of its grains, by die and grain, return, and the commands are done. A grain still
waiting on the Seam goes on waiting. -/
def execSpreadEnd (c : Chan) (r : Rank) (grains : BitVec 64) (s : State) : Host.Outcome State Fault Refusal :=
  let back (t : State) (g : Nat) : State :=
    let x := grain t g
    if x.own = .blind ∧ (x.state ≠ .running ∨ majorOf (currentWord x) ∈ [0x30, 0x31, 0x32]) then
      setGrain g { x with own := .controller } t
    else t
  let mine := (List.range 64).filter (fun i => grains.getLsbD i)
  let t := mine.foldl (fun t i => back t (grainAt c r (i / 16) (i % 16))) s
  let over_ := (lockstepOn s c r).filter (fun n => !decide (n ∈ lockstepOn t c r))
  ok (if rankExists c r then reapP1 c r (over_.foldl (fun u n => noteOwned c r n u) t) else s)

/-- The grain stopped at this window boundary with UNDEF_ENC: a parity error of the same word is the code it records (06
R181). -/
def undefNow (s : State) (g : Nat) : Bool :=
  decide ((grain s g).state = .faulted ∧ (grain s g).fault = 1#8 ∧ (grain s g).craMtb = now s)

/-- HW_PARITY stops a grain (05 R155): the second within 24 hours maps it out. -/
def parityFault (g : Nat) (s : State) : State :=
  let s1 := if undefNow s g then setGrain g { (grain s g) with fault := 7#8 } s else faultGrain g 0x07 s
  let again := s.bank.parityOnce.any (fun p => decide (p.1 = g ∧ (now s - p.2).toNat ≤ 86400000000000))
  let rest := s1.bank.parityOnce.filter (fun p => decide (p.1 ≠ g))
  let s2 := { s1 with bank := { s1.bank with parityOnce := rest ++ [(g, now s)] } }
  if again then mapOut g 1 s2 else s2

/-- GRAIN_STOP: a parity error stops a running grain; a stopped grain's deferred refreshes are run, and its banks are
ready to return at the next STAT (R203, R205). -/
def execGrainStop (g : GrainNo) (parity : Bool) (s : State) : Host.Outcome State Fault Refusal :=
  let s1 := if parity ∧ ((grain s g).state = .running ∨ undefNow s g) then parityFault g s else s
  ok (if (grain s1 g).state = .running then s1 else serveDeferred g 1 s1)

end Sys2Proof.Machine
end

