-- ==== Sys2Proof/Machine/BankCtl.lean ====
section
/-! DEFINITION. The bank controllers (08): refresh (R221 to R224), the temperature loop (R222), row disturbance (R225,
R226), port requests (R228 to R231), polling (R236), rank failure, migration and fencing (R239 to R244), patrol scrub,
release and training (R213 to R216, R246), the end of a frequency change (R237, R238). -/

namespace Sys2Proof.Machine

/-! ### Protective loops -/

/-- Loop i of Table 16.3 changes state: its record, and its entry in the event log (16 R424, 19 Table 19.9). -/
def setLoop (i : Nat) (loc : U16) (active over_ : Bool) (setting : Nat) (s : State) : State :=
  let r := loopRec s i
  let v := BitVec.ofNat 32 setting
  if r.active = active ∧ r.setting = v ∧ (over_ = false ∨ r.overruled = true) then s
  else
    let r1 := { r with active := active, overruled := r.overruled || over_, setting := v, changed := now s }
    logDev 0x07 i loc (bitIf active 0 + bitIf over_ 1 + v.toNat * 2 ^ 32) r.heldNs.toNat
      { s with pwr := { s.pwr with loops := tset LoopRec.reset s.pwr.loops i r1 } }

/-! ### Refresh -/

/-- A physical rank in service, or under migration to it (R221, R224, R240). -/
def rankUp (s : State) (c r : Nat) : Bool :=
  let q := quadMap s (c / 4)
  rankExists c r && !rankRetired s c r && (decide (r < 2) || q.spareIn || q.mig.isSome)

/-- The physical place of a request. -/
def reqLoc (s : State) (c : Nat) (q : BcReq) : Loc :=
  physLoc s { c := c, r := q.rank.val, d := 0, bank := q.bank.val, row := q.row.val, col := q.col.val }

/-- A request waits for a bank of a rank: a queued write, or a request that its channel, or for a spare another of its quad,
holds. -/
def bankAsked (s : State) (c r b : Nat) : Bool :=
  (bc s c).writes.any (fun u => decide (u.rank = r ∧ u.bank = b)) || (List.range 4).any (fun i =>
    let c1 := 4 * (c / 4) + i
    (bc s c1).heldAct.any (fun q => let l := reqLoc s c1 q.req; decide (l.c = c ∧ l.r = r ∧ l.bank = b)))

/-- REFs that go out to a bank of the controller that owes `due`: those it owes and, as the BC may choose, more, until 8 are
ahead of what is owed (R221). How many go ahead is a free value (log entry 103). -/
def refsNow (s : State) (due : Int) : Nat := min (due.toNat + (Config.refAhead s.freeCtr).toNat) (due + 8).toNat

/-- REFRESH_DUE: a bank owes one REF more, up to 8, and the BC issues what it may: none during a lockstep Spread, at
most four unserved to a bank that a run owns, none before a request that waits for the bank unless it owes 8 (R221, R223). -/
def execRefreshDue (c : Chan) (r : Rank) (bank : BankNo) (s : State) : Host.Outcome State Fault Refusal :=
  if !s.boot.relBc.getLsbD c.val || !rankUp s c r then ok s
  else
    let due := min 8 (owedOf s c r bank + 1)
    let s1 := setOwed c r bank due s
    ok (match rankBankOwn s c r bank with
      | .blind => s1
      | .polled =>
        let sent := tget 0 (bc s c).sent (r.val * 32 + bank.val)
        let n := min due.toNat (4 - sent)
        let s2 := sendRefs c r bank n s1
        let x := bc s2 c
        setBc c { x with sent := tset 0 x.sent (r.val * 32 + bank.val) (sent + n) } s2
      | .controller => if bankAsked s c r bank ∧ due < 8 then s1 else takeFree (sendRefs c r bank (refsNow s due) s1))

/-- A bank under a run owes 8: its grains are halted, and the run ends with WATCHDOG (R223, 19 Table 19.9). -/
def execRefreshGuard (c : Chan) (r : Rank) (bank : BankNo) (s : State) : Host.Outcome State Fault Refusal :=
  if rankBankOwn s c r bank ≠ .polled ∨ owedOf s c r bank < 8 then ok s
  else
    let gs := ((List.range 4).map (fun d => grainAt c r d (bank / 2))).filter (fun g => decide ((grain s g).own = .polled))
    let ks := (p1At s c r).filter (fun k => k.2.issued && (p1Grains s k.1 k.2).any (fun g => decide (g ∈ gs)))
    let s1 := ks.foldl (fun s' k =>
      let hsn := ((k.2.place.bind (desc s')).map (fun d => d.hsn.toNat)).getD 0
      let s2 := logFn 0x04 0x03 (locOf 2 (4 * c + r)) k.2.func 0 hsn s'
      match k.2.place with
      | some p => addCond p .watchdog s2
      | none => s2) s
    ok (gs.foldl (fun s' g => haltGrain g s') s1)

/-! ### Temperature (R222, 16 Table 16.3) -/

/-- A temperature as a signed byte. -/
def tempByte (t : Int) : Byte := BitVec.ofInt 8 t

/-- Every die temperature last read, of the dies that exist. -/
def allTemps (s : State) : List Int :=
  (List.range 192).filterMap (fun i =>
    if i / 4 % 3 < 2 ∨ i / 12 % 4 = 3 then some (die s (dieNo (i / 12) (i / 4 % 3) (i % 4))).temp.toInt else none)

/-- Since when a die has been at 92 °C or more, and since when all have been at 85 °C or less. -/
def noteHeat (s : State) : State :=
  let ts := allTemps s
  let hot := ts.any (fun t => decide (92 ≤ t))
  let cool := ts.all (fun t => decide (t ≤ 85))
  let keep (on : Bool) (o : Option U64) : Option U64 := if on then some (o.getD (now s)) else none
  { s with pwr := { s.pwr with hotSince := keep hot s.pwr.hotSince, coolSince := keep cool s.pwr.coolSince } }

/-- TEMPERATURE_READ: TEMP is raised where a die reaches its limit (07 R208); tREFI is halved at 83 °C, restored when
every die reads 80 °C or less. The refresh loop's setting is 1 while a rank of the channel is halved (log entry 43). -/
def execTemperatureRead (c : Chan) (r : Rank) (temps : List Int) (s : State) : Host.Outcome State Fault Refusal :=
  if !s.boot.relBc.getLsbD c.val || !rankUp s c r || decide (temps.length ≠ 4) then ok s
  else
    let s1 := (List.range 4).foldl (fun s' d =>
      let x := die s' (dieNo c r d)
      let t := temps.getD d 0
      let hot := decide ((mrStored x 0x07).toInt ≤ t)
      setDie (dieNo c r d) { x with temp := tempByte t, cause := if hot then x.cause ||| 0x20#8 else x.cause } s') s
    let b := bc s1 c
    let bit : BitVec 3 := 1#3 <<< r.val
    let h := if temps.any (fun t => decide (83 ≤ t)) then b.halved ||| bit
      else if temps.all (fun t => decide (t ≤ 80)) then b.halved &&& ~~~bit else b.halved
    let s2 := noteHeat (setBc c { b with halved := h } s1)
    let any_ := (List.range 16).any (fun k => decide ((bc s2 k).halved ≠ 0#3))
    ok (if h = b.halved then s2 else setLoop 2 (locOf 3 (islBc c)) any_ false (if h = 0#3 then 0 else 1) s2)

/-! ### Row disturbance (R222a, R225 to R227) -/

/-- The rows next to a row (R225). -/
def nearRows (row : Nat) : List Nat :=
  (if 2 ≤ row then [row - 2] else []) ++ (if 1 ≤ row then [row - 1] else []) ++ (if row + 1 < 65536 then [row + 1] else [])
    ++ (if row + 2 < 65536 then [row + 2] else [])

/-- NEIGHBOUR_REFRESH: the scheduled one at the head of P7, once its bank is not grain-owned. -/
def execNeighbourRefresh (c : Chan) (s : State) : Host.Outcome State Fault Refusal :=
  match (bc s c).nbr with
  | [] => ok s
  | (r, b, row) :: rest =>
    if rankBankOwn s c r b ≠ .controller then ok s
    else
      let x := bc s c
      let s1 := setBc c { x with nbr := rest } s
      let s2 := countEv 0x22 c none 1 (countEv 0x20 c none (nearRows row).length s1)
      ok (onRank c r (fun d t => setOpen c r d b none t) s2)

/-- The activation of a row for a port (R222a): none while throttling holds it. -/
def activate (c r b row port_ : Nat) (s : State) : Option State :=
  if (List.range 4).all (fun d => decide (openRow s c r d b = some row)) then some s
  else if throttled s c r b row port_ then none
  else some (onRank c r (fun d u => setOpen c r d b (some row) u) (countEv 0x20 c none 1 (noteActivation c row port_ r b s)))

/-! ### The write queue (R228, R231) -/

/-- A waiting request or write has reached its port's latency target (08, before R232). -/
def urgentAt (s : State) (port : Nat) (since : U64) : Bool := decide ((portCfg s port).target.toNat ≤ (now s - since).toNat)

/-- Serve one queued write, where its bank takes it and throttling does not hold its row. -/
def serveWrite (c : Nat) (u : WUnit) (s : State) : State :=
  let b := bc s c
  let l : Loc := { c := c, r := u.rank, d := 0, bank := u.bank, row := u.row, col := u.col }
  if u ∉ b.writes || !bankTakes s l then s
  else
    match activate c u.rank u.bank u.row u.port s with
    | none => s
    | some s1 =>
      writeUnit c u.rank u.bank u.row u.col u.data u.mask u.poison
        (setBc c { (bc s1 c) with writes := (bc s1 c).writes.erase u } s1)

/-- The channel stays turned to writes: more than 16 units are queued, or a write is urgent (R231). -/
def moreWrites (s : State) (c : Nat) : Bool :=
  let w := (bc s c).writes
  decide (16 < w.length) || w.any (fun u => urgentAt s u.port u.since)

/-- The BC turns the channel to writes once 48 units are queued or one is urgent, and serves those it may, oldest first,
until 16 remain and none is urgent (R231). -/
def turnWrites (c : Nat) (s : State) : State :=
  let b := bc s c
  if b.toWrites || decide (48 ≤ b.writes.length) || b.writes.any (fun u => urgentAt s u.port u.since) then
    let s1 := b.writes.foldl (fun s' u => if moreWrites s' c then serveWrite c u s' else s') s
    setBc c { (bc s1 c) with toWrites := moreWrites s1 c } s1
  else s

/-! ### Port requests (R228 to R233) -/

/-- Serve a request: a write is queued; a read of a unit that a queued write covers returns it with no bank access, other
reads go to the bank, with the writes queued for the unit over its bytes, and the flipped bits they find. None where the
request has to wait. A fenced rank's reads give poison and its writes are dropped (R243). -/
def serveReq (c : Chan) (q : BcReq) (s : State) : Option State :=
  let l := reqLoc s c q
  if (bc s l.c).changing || (bc s c).changing then none
  else if isFenced s c q.rank then
    if q.write then some s
    else some (takeFree (emit (.bcData c q.port (Config.poisonedLine s.freeCtr ++ Config.poisonedLine s.freeCtr) true) s))
  else if q.write then
    let b := bc s l.c
    if 64 ≤ b.writes.length then none
    else
      let u : WUnit := { port := q.port.val, rank := l.r, bank := l.bank, row := l.row, col := l.col, data := q.data,
                         mask := q.mask, poison := q.poison, since := now s }
      some (turnWrites l.c (setBc l.c { b with writes := b.writes ++ [u] } s))
  else if unitQueued s l then some (emit (.bcData c q.port (unitView s l).1 (unitView s l).2) s)
  else if !bankTakes s l then none
  else
    match activate l.c l.r l.bank l.row q.port s with
    | none => none
    | some s1 =>
      let ws := unitWords l.c l.r l.bank l.row l.col
      let s2 := takeFlips ws q.flips s1
      some (emit (.bcData c q.port (unitView s2 l).1 (unitView s2 l).2) (noteRead l.c l.r l.bank l.row l.col ws s2))

/-- Two requests of a channel name one unit. -/
def sameReq (p q : BcReq) : Bool := decide (p.rank = q.rank ∧ p.bank = q.bank ∧ p.row = q.row ∧ p.col = q.col)

/-- The requests that the BC could serve now: none behind an earlier one to its unit (R228). -/
def servable (s : State) (c : Chan) : List Waiting :=
  let h := (bc s c).heldAct
  ((List.range h.length).filterMap (fun i => h[i]?.bind (fun q =>
    if (h.take i).any (fun p => sameReq p.req q.req) || (serveReq c q.req s).isNone then none else some q)))

/-- A port of a channel is in panic (Table 8.1): P3 while a rank's pass-lane lines are at their limit, P4 as the staging of a
home port says. P5's staging is read and written within the one step of a Silt Save or a restore (log entry 104). -/
def inPanic (s : State) (c port_ : Nat) : Bool :=
  if port_ = 3 then [0, 1].any (fun r => decide (dirtyLimit s ≤ passBytes s c r))
  else if port_ = 4 then s.lnk.ports.any (fun p => decide (p.1 % 4 = c / 4) && p.2.panic)
  else false

/-- How far behind the port served last a port's turn comes, among ports that tie (01 R21). -/
def portTurn (s : State) (c port_ : Nat) : Nat := (port_ + 7 - (bc s c).lastPort) % 8

/-- The request of a list with the least key; of those that tie, the port whose turn comes first, then the earliest. -/
def leastBy (s : State) (c : Nat) (key : Waiting → Int) (l : List Waiting) : Option Waiting :=
  l.foldl (fun a q => match a with
    | none => some q
    | some p =>
      if key q < key p ∨ (key q = key p ∧ portTurn s c q.req.port.val < portTurn s c p.req.port.val) then some q else a) none

/-- The row of a request is open in its bank on every die of the rank. -/
def rowHit (s : State) (c : Chan) (q : BcReq) : Bool :=
  let l := reqLoc s c q
  !q.write && (List.range 4).all (fun d => decide (openRow s l.c l.r d l.bank = some l.row))

/-- The urgent request with the largest age over its target, of some ports. -/
def mostUrgent (s : State) (c : Chan) (l : List Waiting) : Option Waiting :=
  leastBy s c (fun q => (portCfg s q.req.port.val).target.toNat - ((now s - q.since).toNat : Int))
    (l.filter (fun q => urgentAt s q.req.port.val q.since))

def oldestReq (s : State) (c : Chan) (l : List Waiting) : Option Waiting := leastBy s c (fun q => (q.since.toNat : Int)) l

/-- A panic stretch has lasted 512 ns (R233). -/
def stretched (s : State) (c : Nat) : Bool := (bc s c).panicFrom.any (fun t => decide (512 ≤ (now s - t).toNat))

/-- The request that panic or urgency chooses (R232, R233): a port in panic, oldest first, but one urgent request of another
port once panic has been served for 512 ns; else the most urgent. -/
def pressing (s : State) (c : Chan) (l : List Waiting) : Option Waiting :=
  let hot := l.filter (fun q => inPanic s c q.req.port.val)
  let other := mostUrgent s c (l.filter (fun q => !inPanic s c q.req.port.val))
  match oldestReq s c hot, other with
  | none, o => o
  | some p, none => some p
  | some p, some o => if stretched s c then some o else some p

/-- A grain command of P1 could go out on a channel now (R232). -/
def p1Ready (s : State) (c : Nat) : Bool :=
  (List.range 3).any (fun r => (p1At s c r).any (fun k =>
    let insn : Option U32 := match k.2.kind with
      | .spread i _ _ _ => some i
      | _ => none
    let starts := match k.2.kind with
      | .spread _ _ _ _ => true
      | .grun _ => true
      | _ => false
    starts && !k.2.issued && selMatches s c r k.2.sel && (dirtyFor s k.2).isEmpty && launchReady s c r k insn))

/-- The next request by R232: what is pressing; then, unless a P1 command goes first, a row hit of the port served last while
its streak is below 16 column commands and another port waits; else the oldest. -/
def chosenReq (s : State) (c : Chan) (l : List Waiting) : Option Waiting :=
  match pressing s c l with
  | some q => some q
  | none =>
    if p1Ready s c then none
    else
      let b := bc s c
      let others := l.any (fun q => decide (q.req.port.val ≠ b.lastPort))
      let hits := l.filter (fun q => decide (q.req.port.val = b.lastPort) && rowHit s c q.req)
      if others && decide (b.streak < 16) && !hits.isEmpty then oldestReq s c hits else oldestReq s c l

/-- A request of a port has been served: the streak, and the stretch of panic service (R232, R233). -/
def noteServed (c : Nat) (port_ : Nat) (panic : Bool) (s : State) : State :=
  let b := bc s c
  let from_ := if panic then some (if stretched s c then now s else b.panicFrom.getD (now s)) else none
  setBc c { b with lastPort := port_, streak := if port_ = b.lastPort then b.streak + 1 else 1, panicFrom := from_ } s

/-- Serve a waiting request, which leaves the requests that wait. -/
def serveWaiting (c : Chan) (q : Waiting) (s : State) : State :=
  let b := bc s c
  let s1 := setBc c { b with heldAct := b.heldAct.erase q } s
  match serveReq c q.req s1 with
  | some s2 => noteServed c q.req.port.val (inPanic s c q.req.port.val) s2
  | none => s

/-- A read waits for its row alone: throttling holds its activation (R226). -/
def heldByRow (s : State) (c : Chan) (q : BcReq) : Bool :=
  let l := reqLoc s c q
  !q.write && !unitQueued s l && bankTakes s l && !(bc s c).changing && !isFenced s c q.rank
    && (activate l.c l.r l.bank l.row q.port s).isNone

/-- BC_REQUEST_LATCH: served at once where no other request that the BC could serve waits; a request that throttling, a
grain-owned bank, a full queue or a frequency change holds waits too. -/
def execBcRequestLatch (c : Chan) (req : BcReq) (s : State) : Host.Outcome State Fault Refusal :=
  if !s.boot.relBc.getLsbD c.val then ok s
  else
    let q : Waiting := { req := req, since := now s }
    let b := bc s c
    let s1 := setBc c { b with heldAct := b.heldAct ++ [q] } s
    if (servable s c).isEmpty && decide (q ∈ servable s1 c) then ok (serveWaiting c q s1)
    else ok (if heldByRow s c req then countEv 0x23 c none 1 s1 else s1)

/-- THROTTLE_RELEASE: the writes that are due are served, and of the requests that wait the one that R232 chooses. -/
def execThrottleRelease (c : Chan) (s : State) : Host.Outcome State Fault Refusal :=
  let s1 := turnWrites c s
  match chosenReq s1 c (servable s1 c) with
  | none => ok s1
  | some q => ok (serveWaiting c q s1)

/-! ### Grain commands of P1 (07 R201 to R203) -/

/-- SPRD and GRUN: the selected grains start, and the P1 command it carries out is issued. One of P1 that the BC may not send
yet is held, as behind a request that presses (R232): nothing happens. -/
def launch (c : Chan) (r : Rank) (src : Nat) (kind : P1Kind → Bool) (insn : Option U32) (entry : Nat) (s : State) : State :=
  let s0 := reapP1 c r (latchStops c r s)
  let go (t : State) : State := grainCmd c r (fun _ g u => startGrain g insn entry u) t
  match matchP1 s0 c r kind with
  | some k =>
    let s1 := forceRefs c r s0
    if launchReady s1 c r k insn && (pressing s1 c (servable s1 c)).isNone then go (markIssued src k.1 k.2 s1) else s0
  | none => countEv src c none 1 (go s0)

/-- SPRD (R201, R202; 06 R180). -/
def execSprd (c : Chan) (r : Rank) (insn : U32) (s : State) : Host.Outcome State Fault Refusal :=
  let kind (k : P1Kind) : Bool := match k with
    | .spread i _ _ _ => decide (i = insn)
    | _ => false
  ok (launch c r 0x30 kind (some insn) 0 s)

/-- GRUN (R201, R203). -/
def execGrun (c : Chan) (r : Rank) (entry : Fin 2048) (s : State) : Host.Outcome State Fault Refusal :=
  let kind (k : P1Kind) : Bool := match k with
    | .grun e => decide (e = entry.val)
    | _ => false
  ok (launch c r 0x31 kind none entry.val s)

/-! ### Polling (R236) -/

/-- A rank with grains at work: some bank is owned until a STAT. -/
def rankWorking (s : State) (c r : Nat) : Bool :=
  (List.range 64).any (fun i => decide ((grain s (grainAt c r (i / 16) (i % 16))).own = .polled))

/-- A STAT that shows no refresh pending frees the count of unserved REFs (R223). -/
def pollRank (c : Chan) (r : Rank) (s : State) : State :=
  let pend := (List.range 4).any (fun d => decide ((die s (dieNo c r d)).deferred ≠ []))
  let s1 := statRank c r s
  let b := bc s1 c
  if pend then s1 else setBc c { b with sent := b.sent.filter (fun e => decide (e.1 / 32 ≠ r.val)) } s1

def execStatPoll (c : Chan) (r : Rank) (s : State) : Host.Outcome State Fault Refusal :=
  ok (if rankWorking s c r then pollRank c r s else s)

/-- ALERT_n is low while a cause bit of a die of the channel is 1 (07 R208): a STAT to each rank. -/
def execAlertNLow (c : Chan) (s : State) : Host.Outcome State Fault Refusal :=
  let low := (List.range 12).any (fun i => decide ((die s (c.val * 12 + i)).cause ≠ 0#8))
  let rs : List Rank := if c.val % 4 = 3 then [0, 1, 2] else [0, 1]
  ok (if low then rs.foldl (fun s' r => pollRank c r s') s else s)

/-! ### Rank failure (R239, R243) -/

/-- A shipment that reads pages of a rank, its flag not yet sent, ends FENCED (14 R389). -/
def fenceShips (c r : Nat) (s : State) : State :=
  (s.serve.shipsOut.filter (fun x => !x.2.flagSent && x.2.pairs.any (fun q =>
    decide (q.1 / 4096 / 128 = c ∧ q.1 / 4096 / 64 % 2 = r)))).foldl
    (fun s' x => if h : x.1 < 1024 then abortShip ⟨x.1, h⟩ .fenced s' else s') s

/-- A condition of the descriptor of a P1 command, where it has one. -/
def condP1 (st : Status) (k : P1) (s : State) : State :=
  match k.place with
  | some p => addCond p st s
  | none => s

/-- A logical rank is fenced, with the cause of Table 19.10: the descriptors with P1 commands to it and the shipments from it
end FENCED (R243). A command that has not gone out is done with, one that has ends with its grains. -/
def fenceRank (c r cause : Nat) (s : State) : State :=
  let q := quadMap s (c / 4)
  let k := quadRank c r
  let s1 := setQuad (c / 4) { q with fenced := q.fenced ||| (1#8 <<< k) } s
  let s2 := plogAdd (locOf 2 (4 * c + r)) cause (logDev 0x03 0x2B (locOf 2 (4 * c + r)) cause 0 s1)
  ((bc s2 c).p1.filter (fun j => decide (j.rank = r))).foldl
    (fun s' j => if j.issued then condP1 .fenced j s' else completeP1 c j none (condP1 .fenced j s')) (fenceShips c r s2)

/-- The lines that a P1 command's descriptor wrote on a physical rank. -/
def wroteOn (s : State) (c r : Nat) (k : P1) : List Nat :=
  (((k.place.bind (desc s)).map (fun d => d.prog.wrote.flatMap (spanWords s))).getD []).filter
    (fun w => decide ((wordLoc w).c = c ∧ (wordLoc w).r = r))

/-- Grain work in flight on a rank at a command/address error completes with POISONED, and its output pages on the rank
are undefined (R241). -/
def poisonWork (c r : Nat) (s : State) : State :=
  ((p1At s c r).filter (fun k => k.2.issued)).foldl
    (fun s0 k =>
      let s' := scribble (wroteOn s0 c r k.2) s0
      let s1 := (p1Grains s' k.1 k.2).foldl (fun t g =>
        let u := haltGrain g t
        setGrain g { (grain u g) with own := .controller } u) s'
      completeP1 k.1 k.2 none (condP1 .poisoned k.2 s1)) s

/-- What the trigger of a failure asks of the state (R239): a read with CHK code 2, or the corrected reads of this hour. A
command/address error is CA_PAR or CA_UNDEF of a die or one of the faults under Failures of 07, which the state does not
show: the command says so. -/
def triggerHolds (s : State) (c r : Nat) (cause : RankCause) : Bool :=
  match cause with
  | .chk2 => (tfind s.ctl.bad (4 * c + r)).isSome
  | .corrected =>
    let n := tget (0, 0#64) s.ctl.corrected (4 * c + r)
    decide (s.dev.ceThr ≠ 0#16 ∧ s.dev.ceThr.toNat < n.1 ∧ (now s - n.2).toNat < 3600000000000)
  | .ca => true

def rankCauseCode (cause : RankCause) : Nat :=
  match cause with
  | .chk2 => 0 | .ca => 1 | .corrected => 2

/-- The logical rank of a quad by its number. -/
def quadLogical (q k : Nat) : Nat × Nat := (4 * q + k / 2, k % 2)

/-- The writes to a rank of the last 100 ns, which a command/address error has applied again to the spare (R241). -/
def recentOf (s : State) (c r : Nat) : List WUnit :=
  (bc s c).recent.filter (fun u => decide (u.rank = r ∧ (now s - u.since).toNat ≤ 100))

/-- RANK_FAILURE of a physical rank, logged with the DPA of the unit that read with CHK code 2, or 0 (19 Table 19.10): migration
waits to start where the quad's spare is free, else the rank is fenced; a spare that fails takes the rank it serves with it
(R239, R240, R243; Table 8.6). A rank that has failed already does not fail again. -/
def execRankFailure (c : Chan) (r : Rank) (cause : RankCause) (dpa : Nat) (s : State) : Host.Outcome State Fault Refusal :=
  if !rankUp s c r || !s.boot.relBc.getLsbD c.val || !triggerHolds s c r cause then ok s
  else
    let qn := c.val / 4
    let q := quadMap s qn
    let a := if cause = .chk2 then (tfind s.ctl.bad (4 * c + r)).getD dpa else 0
    let s0 := { s with ctl := { s.ctl with bad := terase s.ctl.bad (4 * c + r) } }
    let s1 := logDev 0x03 0x28 (locOf 2 (4 * c + r)) (rankCauseCode cause) a s0
    let s2 := if cause = .ca then poisonWork c r s1 else s1
    if r.val = 2 then
      match q.spareFor with
      | none => ok s2
      | some k =>
        let l := quadLogical qn k
        let s3 := setQuad qn { q with spareBad := true, mig := none, failed := none, again := [] } s2
        ok (fenceRank l.1 l.2 (if q.mig.isSome then 1 else 0) s3)
    else
      let k : Fin 8 := Fin.ofNat 8 (quadRank c r)
      if q.failed = some k ∨ q.spareFor = some k then ok (if cause = .ca then poisonWork c r s0 else s0)
      else if q.failed = none ∧ q.spareFor = none ∧ q.spareBad = false then
        let again := if cause = .ca then recentOf s c r else []
        ok (plogAdd (locOf 2 (4 * c + r)) (rankCauseCode cause) (setQuad qn { q with failed := some k, again := again } s2))
      else ok (fenceRank c r 0 s2)

/-! ### Migration (R240 to R242, 05 R157) -/

/-- The failed rank's channel and rank, and the quad's spare. -/
def spareChan (q : Nat) : Nat := 4 * q + 3

/-- MIGRATION_START: the spare leaves reset or self-refresh. -/
def execMigrationStart (q : Quad) (s : State) : Host.Outcome State Fault Refusal :=
  let m := quadMap s q
  match m.failed with
  | none => ok s
  | some k =>
    if m.spareBad || m.mig.isSome || decide (s.boot.phase = 0x05#8) then ok s
    else
      let l := quadLogical q k
      let c := spareChan q
      let paused := (List.range 4).any (fun i => (bc s (4 * q.val + i)).changing)
      let s1 := setQuad q { m with failed := none, spareFor := some k, mig := some { row := 0, bank := 0, paused := paused } } s
      let s2 := (List.range 4).foldl (fun s' d =>
        let sp := if (bc s' c).setB then s.dev.runB else s.dev.runA
        setDie (dieNo c 2 d) { atSpeed sp (die s' (dieNo c 2 d)) with selfRefresh := false, inReset := false } s') s1
      ok (logDev 0x03 0x29 (locOf 2 (4 * l.1 + l.2)) (4 * c + 2) 0 s2)

/-- Copy the row of one bank of the four dies, 8 KiB: corrected, and a unit with CHK code 2 or 3 poisoned (R240). -/
def copyRow (c r c2 bank row : Nat) (s : State) : State :=
  let base (c' r' d : Nat) : Nat := locWord { c := c', r := r', d := d, bank := bank, row := row, col := 0 }
  let die_ (t : State) (d : Nat) : State :=
    let src := base c r d
    let dst := base c2 2 d
    let kept := t.bank.mem.filter (fun p => !decide (dst * 32 ≤ p.1 ∧ p.1 < (dst + 64) * 32))
    let mem := (s.bank.mem.filter (fun p => decide (src * 32 ≤ p.1 ∧ p.1 < (src + 64) * 32))).foldl
      (fun m p => Memory.setByte m (p.1 - src * 32 + dst * 32) p.2) kept
    let marks := (List.range 64).foldl (fun k col =>
      tset Mark.clean k (dst + col) { poison := unitBad s (unitWords c r bank row col), flips := 0 }) t.bank.marks
    { t with bank := { t.bank with mem := mem, marks := marks } }
  (List.range 4).foldl die_ s

/-- A place in a row of a rank, moved to the spare. -/
def movedLoc (c r c2 bank row : Nat) (l : Loc) : Loc :=
  if l.c = c ∧ l.r = r ∧ l.bank = bank ∧ l.row = row then { l with c := c2, r := 2 } else l
def movedWord (c r c2 bank row w : Nat) : Nat := locWord (movedLoc c r c2 bank row (wordLoc w))

/-- What names the words of a row by their place follows them to the spare: the Marl's copies (02 R41, R45), the lines that
FENCEs and grain commands wait for, and the queued writes (R241). -/
def moveNames (c r c2 bank row : Nat) (s : State) : State :=
  let f : Nat → Nat := movedWord c r c2 bank row
  let copies := s.marl.copies.foldl (fun t p => if f p.1 = p.1 then t else tput (terase t p.1) (f p.1) p.2) s.marl.copies
  let s1 := { s with
    marl := { s.marl with copies := copies },
    places := s.places.map (fun p => (p.1, { p.2 with prog := { p.2.prog with words := p.2.prog.words.map f } })),
    ctl := { s.ctl with bcs := s.ctl.bcs.map (fun b => (b.1, { b.2 with p1 := b.2.p1.map (fun k =>
      { k with dirty := k.dirty.map f }) })) } }
  let b := bc s1 c
  let mine (u : WUnit) : Bool := decide (u.rank = r ∧ u.bank = bank ∧ u.row = row)
  let s2 := setBc c { b with writes := b.writes.filter (fun u => !mine u) } s1
  let d := bc s2 c2
  setBc c2 { d with writes := d.writes ++ (b.writes.filter mine).map (fun u => { u with rank := 2 }) } s2

/-- The writes of a row that a command/address error had in doubt are applied again to the spare (R241). -/
def writeAgain (qn c2 bank row : Nat) (s : State) : State :=
  let q := quadMap s qn
  let mine (u : WUnit) : Bool := decide (u.bank = bank ∧ u.row = row)
  (q.again.filter mine).foldl (fun s' u => writeUnit c2 2 u.bank u.row u.col u.data u.mask u.poison s')
    (setQuad qn { q with again := q.again.filter (fun u => !mine u) } s)

/-- The reads of a row's units as P7 copies them (R239, R240). -/
def noteRowRead (c r bank row : Nat) (s : State) : State :=
  (List.range 64).foldl (fun s' col => noteRead c r bank row col (unitWords c r bank row col) s') s

/-- MIGRATION_ROW_COPY: the next row, bank 0 to 31 within row 0 to 65,535; none while a frequency change pauses it (Table
8.6), nor while a grain owns the bank (07 R201). Requests to the row that wait go on at the spare (R241). -/
def execMigrationRowCopy (q : Quad) (s : State) : Host.Outcome State Fault Refusal :=
  let m := quadMap s q
  match m.mig, m.spareFor with
  | some g, some k =>
    let l := quadLogical q k
    let c2 := spareChan q
    if g.paused || decide (65536 ≤ g.row) || decide (rankBankOwn s l.1 l.2 g.bank ≠ .controller) then ok s
    else
      let s1 := writeAgain q c2 g.bank g.row
        (moveNames l.1 l.2 c2 g.bank g.row (copyRow l.1 l.2 c2 g.bank g.row (noteRowRead l.1 l.2 g.bank g.row s)))
      let g1 := if g.bank = 31 then { g with row := g.row + 1, bank := 0 } else { g with bank := g.bank + 1 }
      ok (setQuad q { (quadMap s1 q) with mig := some g1 } s1)
  | _, _ => ok s

/-- The spare's grain takes the place of a grain: its Tilth store and its CRA slots 0 to 5; where the spare's grain is
mapped out, the grain is mapped out with the migration (05 R157). -/
def moveGrain (c r c2 i : Nat) (s : State) : State :=
  let a := grainAt c r (i / 16) (i % 16)
  let b := grainAt c2 2 (i / 16) (i % 16)
  let x := grain s a
  let s1 := setGrain a Grain.reset s
  if b ∈ s.bank.mappedOut then mapOut a 2 s1
  else setGrain b { (grain s1 b) with store := x.store, cra := x.cra.filter (fun p => decide (p.1 < 0xC0)) } s1

/-- MIGRATION_COMPLETE: after the last row, the grains, then the rank map; the failed rank is held in reset. -/
def execMigrationComplete (q : Quad) (s : State) : Host.Outcome State Fault Refusal :=
  let m := quadMap s q
  match m.mig, m.spareFor with
  | some g, some k =>
    if g.row < 65536 then ok s
    else
      let l := quadLogical q k
      let c := spareChan q
      let s1 := (List.range 64).foldl (fun s' i => moveGrain l.1 l.2 c i s') s
      let s2 := setQuad q { m with mig := none, spareIn := true, again := [] }
        { s1 with ctl := { s1.ctl with bad := terase s1.ctl.bad (4 * l.1 + l.2) } }
      let s3 := (List.range 4).foldl (fun s' d => setDie (dieNo l.1 l.2 d) DieSt.reset s') s2
      ok (plogAdd (locOf 2 (4 * c + 2)) k.val (logDev 0x03 0x2A (locOf 2 (4 * l.1 + l.2)) (4 * c + 2) 0 s3))
  | _, _ => ok s

/-! ### Patrol scrub (R239) -/

/-- BANK_PATROL_SCRUB reads one unit, with the flipped bits it finds: a unit with CHK code 1 is written back corrected, where
no write is queued for it. A bank that a grain owns, or that a frequency change holds, is not read. -/
def execBankPatrolScrub (c : Chan) (r : Rank) (bank : BankNo) (row : RowNo) (col : ColNo) (flips : Flips) (s : State) :
    Host.Outcome State Fault Refusal :=
  let ws := unitWords c r bank row col
  let l : Loc := { c := c, r := r, d := 0, bank := bank, row := row, col := col }
  if !s.boot.relBc.getLsbD c.val || !rankUp s c r || !bankTakes s l then ok s
  else
    let s0 := takeFlips ws flips s
    let s1 := noteRead c r bank row col ws s0
    let fix := ws.any (fun w => decide (chkOf s0 w = 1)) && !unitBad s0 ws && decide (unitQueue s0 l = [])
    ok (if fix then ws.foldl (fun s' w => setColAt w (Memory.col s'.bank.mem w) false s') s1 else s1)

/-! ### Release and training (R213 to R216, R246; 20 R506) -/

/-- The longest run of passing steps of a sweep, the first of those that tie: its left edge and how many steps it has
(R213). -/
def longestRun (pass : Nat → Bool) (n : Nat) : Nat × Nat :=
  let step (a : (Nat × Nat) × (Nat × Nat)) (i : Nat) : (Nat × Nat) × (Nat × Nat) :=
    if pass i then
      let cur := if a.2.2 = 0 then (i, 1) else (a.2.1, a.2.2 + 1)
      (if a.1.2 < cur.2 then cur else a.1, cur)
    else (a.1, (0, 0))
  ((List.range n).foldl step ((0, 0), (0, 0))).1

/-- The run a sweep takes: of its 128 delays, or of the references 40 to 88 (R213). -/
def sweepRun (t : TrainResult) : Nat × Nat :=
  let ref := decide (t.step.val = 1 ∨ t.step.val = 4)
  longestRun (fun i => t.passed.getLsbD i && (!ref || decide (40 ≤ i ∧ i ≤ 88))) 128

/-- A sweep's margin, its pass (R213, R214), its edges and its setting, the centre rounded down. -/
def marginOf (t : TrainResult) : Nat := (sweepRun t).2
def trainPass (t : TrainResult) : Bool := decide (24 ≤ marginOf t)
def sweepLeft (t : TrainResult) : Nat := (sweepRun t).1
def sweepRight (t : TrainResult) : Nat := (sweepRun t).1 + marginOf t - 1
def sweepCentre (t : TrainResult) : Nat := (sweepLeft t + sweepRight t) / 2

/-- BC_TRN_RES of a lane, keyed as BC_TRN_SEL selects it (20 Table 20.6), after one of its sweeps: the delay sweeps of the
lane give its edges and its centre, the DQ reference its write reference (log entry 105). -/
def recordTrn (c : Nat) (s : State) (t : TrainResult) : State :=
  let key := c + 16 * t.rank.val + 64 * t.lane.val + bitIf t.setB 9
  let o := trnOf s key
  let n (v : Nat) : BitVec 7 := BitVec.ofNat 7 v
  let v : Trn := match t.step.val with
    | 2 => { o with left := n (sweepLeft t), right := n (sweepRight t), centre := n (sweepCentre t), rvref := t.rvref,
                    pass := trainPass t }
    | 3 => { o with left := n (sweepLeft t), right := n (sweepRight t), centre := n (sweepCentre t), pass := o.pass && trainPass t }
    | 4 => { o with wvref := n (sweepCentre t), pass := o.pass && trainPass t }
    | _ => o
  { s with dev := { s.dev with trn := tset Trn.reset s.dev.trn key v } }

/-- The references that training at set A, the set in force at its end, chooses stand in the dies' mode registers: vref_ca of
every die of the rank, vref_dq of the lane's die (R213). -/
def setVref (c : Nat) (s : State) (t : TrainResult) : State :=
  if t.setB then s
  else
    match t.step.val with
    | 1 => onRank c t.rank (fun d s' =>
        setDie (dieNo c t.rank d) (mrWrite 0x0D (BitVec.ofNat 8 (sweepCentre t)) (die s' (dieNo c t.rank d))) s') s
    | 4 =>
      let i := dieNo c t.rank (t.lane.val / 2)
      if dieHears (die s i) then setDie i (mrWrite 0x0C (BitVec.ofNat 8 (sweepCentre t)) (die s i)) s else s
    | _ => s

/-- The dies of a rank are held in reset. -/
def holdReset (c r : Nat) (s : State) : State :=
  (List.range 4).foldl (fun s' d => setDie (dieNo c r d) DieSt.reset s') s

/-- A rank fails training (R215): its dies are back in reset; a failing spare is unavailable, and the rank it serves is
fenced (R243); a data rank waits for the quad's spare, or is fenced. -/
def trainFail (c : Nat) (s : State) (t : TrainResult) : State :=
  let q := quadMap s (c / 4)
  let r := t.rank.val
  let gone := if r = 2 then q.spareBad else rankRetired s c r || decide (q.failed.map (fun k => k.val) = some (quadRank c r))
  if trainPass t || gone || !rankExists c r then s
  else
    let s1 := logDev 0x03 0x27 (locOf 2 (4 * c + r))
      (marginOf t % 128 + t.lane.val * 2 ^ 7 + bitIf t.setB 10 + (t.step.val + 1) * 2 ^ 11) 0 s
    if r = 2 then
      let s2 := holdReset c r (plogAdd (locOf 2 (4 * c + r)) 2 (setQuad (c / 4) { q with spareBad := true, mig := none } s1))
      match q.spareFor with
      | some k => fenceRank (quadLogical (c / 4) k).1 (quadLogical (c / 4) k).2 2 s2
      | none => s2
    else if q.failed = none ∧ q.spareFor = none then
      let s2 := plogAdd (locOf 2 (4 * c + r)) 2 (setQuad (c / 4) { q with failed := some (Fin.ofNat 8 (quadRank c r)) } s1)
      if s.boot.phase = 0x05#8 then holdReset c r s2 else s2
    else fenceRank c r 2 (if s.boot.phase = 0x05#8 then holdReset c r s1 else s1)

/-- Once a quad's four channels are released at a cold start, a rank that failed training has the spare in its place
without a copy, or is fenced (R215). -/
def settleQuad (qn : Nat) (s : State) : State :=
  let q := quadMap s qn
  if !(List.range 4).all (fun i => s.boot.relBc.getLsbD (4 * qn + i)) then s
  else
    match q.failed with
    | none => s
    | some k =>
      let l := quadLogical qn k
      if q.spareBad then fenceRank l.1 l.2 2 (setQuad qn { q with failed := none } s)
      else
        plogAdd (locOf 2 (4 * spareChan qn + 2)) k.val
          (setQuad qn { q with failed := none, spareFor := some k, spareIn := true } s)

/-- A rank's dies leave reset for training (R210). -/
def wakeRank (c r : Nat) (s : State) : State :=
  if !rankExists c r || rankRetired s c r then s else (List.range 4).foldl (fun s' d => releaseDie c r d s') s

/-- A rank's dies after training at a cold start: at set A, mapped_out and st_start written (R246). -/
def bringUp (c r : Nat) (s : State) : State :=
  if !rankExists c r || rankRetired s c r || decide ((quadMap s (c / 4)).failed.map (fun k => k.val) = some (quadRank c r)) then s
  else
    (List.range 4).foldl (fun s' d =>
      let byte (k : Nat) : Byte := BitVec.ofNat 8 ((List.range 8).foldl (fun n g =>
        if grainAt c r d (8 * k + g) ∈ s.bank.mappedOut then n + 2 ^ g else n) 0)
      let y := mrPut 0x22 (byte 0) (mrPut 0x23 (byte 1) (die s' (dieNo c r d)))
      setDie (dieNo c r d) (startSelfTest (atSpeed s.dev.runA y)) s') s

/-- A full training keeps the training row of a rank that holds data: every unit is read, and written back whole, poisoned
where it read CHK code 2 or 3 (R216). -/
def keepTrainingRow (c r : Nat) (s : State) : State :=
  (List.range 64).foldl (fun s' col =>
    let ws := unitWords c r 31 65535 col
    let bad := unitBad s' ws
    ws.foldl (fun t w => setColAt w (Memory.col t.bank.mem w) bad t) (noteRead c r 31 65535 col ws s')) s

/-- BC_RELEASE: at a cold start with the sweeps of training, after a warm reset with none where the check of step 9
passed and with those of a full training where it failed (R246). -/
def execBcRelease (c : Chan) (results : List TrainResult) (s : State) : Host.Outcome State Fault Refusal :=
  if s.boot.relBc.getLsbD c.val then ok s
  else
    let train (t : State) : State := results.foldl (fun s' r => trainFail c (setVref c (recordTrn c s' r) r) r) t
    let done (t : State) : State := setBc c Bc.reset { t with boot := { t.boot with relBc := t.boot.relBc ||| (1#16 <<< c.val) } }
    if s.boot.phase = 0x05#8 then
      let s1 := train ([0, 1, 2].foldl (fun s' r => wakeRank c r s') s)
      ok (releaseHeld (settleQuad (c / 4) (done ([0, 1, 2].foldl (fun s' r => bringUp c r s') s1))))
    else if s.boot.phase = 0x0A#8 then
      let s1 := if results.isEmpty then s
        else train ([0, 1, 2].foldl (fun s' r => if rankUp s c r then keepTrainingRow c r s' else s') s)
      ok (releaseHeld (done s1))
    else ok s

/-! ### The end of a frequency change (R237, R238) -/

/-- No grain of a channel works or owns banks (Table 8.5, step 2). -/
def chanQuiet (s : State) (c : Nat) : Bool :=
  (List.range 192).all (fun i =>
    let x := grain s (grainAt c (i / 64) (i / 16 % 4) (i % 16))
    (decide (i / 64 = 2) && !rankExists c 2) || decide (x.state ≠ .running ∧ x.own = .controller))

/-- A migration that the change paused goes on (Table 8.6). -/
def resumeMig (qn : Nat) (s : State) : State :=
  let q := quadMap s qn
  if (List.range 4).any (fun i => (bc s (4 * qn + i)).changing) then s
  else setQuad qn { q with mig := q.mig.map (fun m => { m with paused := false }) } s

/-- Steps 3 to 8 of Table 8.5 at a rank: every bank precharged, n REFs to all banks, the speed point written and put in
force. -/
def moveRank (c r n : Nat) (sp : BitVec 2) (s : State) : State :=
  let s1 := (List.range 4).foldl (fun t d => setDie (dieNo c r d) { atSpeed sp (die t (dieNo c r d)) with openRows := [] } t)
    (countEv 0x21 c none n s)
  (List.range 32).foldl (fun t b => setOwed c r b (owedOf t c r b - (n : Int)) t) s1

/-- FREQUENCY_CHANGE_DONE: every bank precharged and refreshed, the dies at the new set's speed point; a failed check goes
through the steps again back to the previous set, marks the new one invalid and is logged. -/
def execFrequencyChangeDone (c : Chan) (good : Bool) (s : State) : Host.Outcome State Fault Refusal :=
  let b := bc s c
  if !b.changing || !chanQuiet s c then ok s
  else
    let toB := s.dev.freq
    let setB := if good then toB else b.setB
    let sp := if setB then s.dev.runB else s.dev.runA
    let s1 := [0, 1, 2].foldl (fun s' r => if rankUp s' c r then moveRank c r (if good then 1 else 2) sp s' else s')
      (setBc c { b with changing := false, setB := setB } s)
    let s2 := if good then s1
      else
        let d := s1.dev
        logDev 0x03 0x2C (locOf 3 (islBc c)) (bitIf toB 0) 0
          { s1 with dev := { d with aInvalid := d.aInvalid || !toB, bInvalid := d.bInvalid || toB } }
    ok (resumeMig (c / 4) s2)

end Sys2Proof.Machine
end

