-- ==== Sys2Proof/Machine/Marl.lean ====
section
/-! DEFINITION. The Marl (02): commits and reads at the owning slice (R40 to R42), errors of its words (R53 to R55),
write-back (R45 to R47), the release of regions (R50), and the staging partition (R37). -/

namespace Sys2Proof.Machine

/-! ### Commits and reads -/

/-- A line of a target: quadrant space ends at 45 MiB (R32), the banks at 2^33 lines. -/
def targetOk (t : MarlTarget) : Bool :=
  match t with
  | .quadLine _ l => decide (l < 737280)
  | .dpaLine l => decide (l < 2 ^ 33)
  | .localLine l => decide (l < 2 ^ 33)

/-- The column words of a target's bank line. -/
def targetWords (s : State) (t : MarlTarget) : List Nat :=
  match t with
  | .quadLine _ _ => []
  | .dpaLine l => lineWords s false l
  | .localLine l => lineWords s true l

def sramLine (s : State) (q : Quad) (l : Nat) : SramLine := tget SramLine.zero s.marl.sram (sramKey q l)

/-- The region that holds a line of quadrant space, and the line's byte in it. -/
def regionAt (s : State) (q : Quad) (l : Nat) : Option (Nat × Nat) :=
  (s.marl.regions.find? (fun r => decide (r.2.quad = q ∧ r.2.first ≤ l / 1024 ∧ l / 1024 < r.2.first + r.2.blocks))).map
    (fun r => (r.1, 64 * (l - 1024 * r.2.first)))

/-- Put a line of quadrant space; a bank line bound to it is dirty. -/
def setSramLine (q : Quad) (l : Nat) (v : SramLine) (s : State) : State :=
  let s1 := { s with marl := { s.marl with sram := tset SramLine.zero s.marl.sram (sramKey q l) v } }
  match regionAt s q l with
  | some r => touchBound r.1 r.2 s1
  | none => s1

/-- Commit the masked bytes of one line; a write of the whole line gives the write's poison, a part leaves the line
poisoned (R31, R54). -/
def commitSram (q : Quad) (l : Nat) (d : Line) (mask : BitVec 64) (poison : Bool) (s : State) : State :=
  let o := sramLine s q l
  let whole := decide (mask = BitVec.allOnes 64)
  let v : SramLine := { data := BitVec.ofNat 512 (mergeBytes 64 o.data.toNat d.toNat mask.toNat),
                        poison := if whole then poison else o.poison || (poison && decide (mask ≠ 0#64)) }
  setSramLine q l v s

/-- Commit a write at the slice that owns its line (R40, R42). -/
def commitTarget (t : MarlTarget) (d : Line) (mask : BitVec 64) (poison : Bool) (s : State) : State :=
  match t with
  | .quadLine q l => commitSram q l d mask poison s
  | .dpaLine l => commitLine (lineWords s false l) d mask poison s
  | .localLine l => commitLine (lineWords s true l) d mask poison s

/-- MARL_WRITE_COMMIT: one line of a client's write is committed (R40). -/
def execMarlWriteCommit (t : MarlTarget) (data : Line) (mask : BitVec 64) (poison : Bool) (s : State) :
    Host.Outcome State Fault Refusal :=
  if s.boot.relMarl && targetOk t then ok (commitTarget t data mask poison s) else ok s

/-- The latest committed data of a target (R41): its copy in the Marl, over the banks' bytes where it has none. -/
def readTarget (s : State) (t : MarlTarget) : Line × Bool :=
  match t with
  | .quadLine q l => ((sramLine s q l).data, (sramLine s q l).poison)
  | .dpaLine l => marlLine s (lineWords s false l)
  | .localLine l => marlLine s (lineWords s true l)

/-! ### Errors of Marl words (R53 to R55) -/

/-- The slice row that holds a pass-lane line: free, and none that is retired (02 R55; log entry 44). -/
def passRowOf (s : State) (slice w : Nat) : Nat :=
  let r := (Config.passRow w).toNat % 12288
  ((List.range (s.marl.retired.length + 1)).map (fun k => (r + k) % 12288)).find? (fun x => !decide ((slice, x) ∈ s.marl.retired))
    |>.getD r

/-- The slice and the slice row that hold a target's line; none for a bank line with no copy. -/
def targetSlice (s : State) (t : MarlTarget) : Option (Nat × Nat) :=
  match t with
  | .quadLine q l => some (16 * q.val + l / 4 % 15, l / 4 / 15)
  | _ =>
    (targetWords s t).findSome? (fun w =>
      match bindingOf s w with
      | some b => let l := regionLine s b.1.region b.2
                  some (16 * l.1.val + l.2 / 4 % 15, l.2 / 4 / 15)
      | none => (copyOf s w).map (fun _ => (copySlice s w, passRowOf s (copySlice s w) w)))

/-- The line is poisoned; its data are free (R54, log entry 18). -/
def poisonTarget (t : MarlTarget) (s : State) : State :=
  let d := Config.poisonedLine s.freeCtr
  let put (q : Quad) (l : Nat) (u : State) : State :=
    { u with marl := { u.marl with sram := tset SramLine.zero u.marl.sram (sramKey q l) { data := d, poison := true } } }
  match t with
  | .quadLine q l => takeFree (put q l s)
  | _ =>
    let ws := targetWords s t
    let hit (i : Nat) (u : State) : State :=
      let w := ws.getD i 0
      match bindingOf u w, copyOf u w with
      | some b, _ => let l := regionLine u b.1.region b.2
                     put l.1 l.2 u
      | none, some y => setCopy w { y with data := d.extractLsb' (256 * i) 256, poison := true } u
      | none, none => u
    takeFree (hit 1 (hit 0 s))

/-- A second uncorrectable error of a segment row within 24 hours retires it, and its block with it (R55). -/
def noteRow (slice row : Nat) (s : State) : State :=
  let day := 86400000000000
  let again := s.marl.ueSeen.any (fun e => decide (e.1 = slice ∧ e.2.1 = row ∧ (now s - e.2.2).toNat ≤ day))
  let kept := s.marl.ueSeen.filter (fun e => decide (e.1 ≠ slice ∨ e.2.1 ≠ row))
  let s1 := { s with marl := { s.marl with ueSeen := kept ++ [(slice, row, now s)] } }
  if again && !decide ((slice, row) ∈ s.marl.retired) then
    let pool := decide (slice % 16 < 15 ∧ poolStart s.hub.marlPart.inForce (slice / 16) ≤ rowBlock slice row)
    logDev 0x03 0x22 (locOf 7 slice) (row % 65536 + bitIf pool 16) 0
      { s1 with marl := { s1.marl with retired := s1.marl.retired ++ [(slice, row)] } }
  else s1

/-- What the check bits of a word gave on a read (R53, R54). -/
def eccAct (t : MarlTarget) (e : Ecc) (s : State) : State :=
  match e, targetSlice s t with
  | .clean, _ => s
  | _, none => s
  | .corrected, some (slice, row) =>
    logDev 0x03 0x20 (locOf 7 slice) (row % 65536) 0 (countEv 0x10 (slice / 16) none 1 s)
  | .uncorrectable, some (slice, row) =>
    noteRow slice row (logDev 0x03 0x21 (locOf 7 slice) (row % 65536) 0
      (countEv 0x11 (slice / 16) none 1 (poisonTarget t s)))

/-- MARL_READ: a client's read of one line, with what its check bits gave (R41, R53). -/
def execMarlRead (t : MarlTarget) (ecc : Ecc) (s : State) : Host.Outcome State Fault Refusal :=
  if s.boot.relMarl && targetOk t then
    let s1 := eccAct t ecc s
    let v := readTarget s1 t
    ok (emit (.marlData t v.1 v.2) s1)
  else ok s

/-- MARL_PATROL_SCRUB: the scrub reads one line (R53). -/
def execMarlPatrolScrub (t : MarlTarget) (ecc : Ecc) (s : State) : Host.Outcome State Fault Refusal :=
  if s.boot.relMarl && targetOk t then ok (eccAct t ecc s) else ok s

/-! ### Write-back (R45 to R47) -/

/-- The column words of the Marl line that a column word belongs to, those with a copy first to last. -/
def copyLine (s : State) (w : Nat) : List Nat :=
  let l := logicalLoc s (wordLoc w)
  let local_ := (bindingOf s w).any (fun b => b.1.loc)
  let ws := if local_ then lineWords s true (((locLocal l).1 * 2 ^ 28 + (locLocal l).2) / 64)
    else lineWords s false (locDpa (amo s) l / 64)
  ws.filter (fun v => (copyOf s v).isSome)

/-- Since when a line waits: the first commit that made it dirty. -/
def lineSince (s : State) (w : Nat) : Nat :=
  ((copyLine s w).filterMap (fun v => (copyOf s v).map (fun y => y.since.toNat))).foldl min (2 ^ 64)

/-- The pass-lane words of the channel units of a line that are dirty: a unit is written back once for its two lines (08
Table 8.2; DEDUCED, log entry 102). -/
def dirtyUnits (s : State) (w : Nat) : List Nat :=
  ((copyLine s w).flatMap (fun v =>
    let l := wordLoc v
    v :: (unitWords l.c l.r l.bank l.row l.col).filter (fun u => (copyOf s u).any (fun y => decide (y.region = none))))).dedup

/-- Write one line back with its latest committed value; lines of the pass lane are counted (19 Table 19.4). -/
def writeBackLine (w : Nat) (s : State) : State :=
  let pass := (copyOf s w).any (fun y => decide (y.region = none))
  let ws := if pass then dirtyUnits s w else copyLine s w
  let q := (logicalLoc s (wordLoc w)).c / 4
  let lines := (ws.map (fun v => locDpa (amo s) (logicalLoc s (wordLoc v)) / 64)).dedup.length
  let s1 := writeBackAll ws s
  if pass then countEv 0x12 q none lines s1 else s1

/-- The banks of a dirty word's line take its write-back. -/
def lineTakes (s : State) (w : Nat) : Bool := (dirtyUnits s w).all (fun v => bankTakes s (wordLoc v))

/-- Write back the lines of a list of words whose banks take them. -/
def writeBackReady (ws : List Nat) (s : State) : State :=
  ws.foldl (fun s' w => if (copyOf s' w).isSome && lineTakes s' w then writeBackLine w s' else s') s

/-- Whether a dirty line is due: the oldest of a rank with a trigger, of a region that is released, or waited for by a
P1 command or a FENCE (R46, R47, R49, R50). -/
def lineDue (s : State) (w : Nat) : Bool :=
  match copyOf s w with
  | none => false
  | some y =>
    let l := logicalLoc s (wordLoc w)
    let oldest := (passOfRank s l.c l.r).all (fun p => decide (lineSince s w ≤ lineSince s p.1))
    let trig := decide (y.region = none) && passTrigger s l.c l.r && oldest
    let leaving := (y.region.bind (tfind s.marl.regions)).any (fun r => r.releasing)
    let before := s.ctl.bcs.any (fun b => b.2.p1.any (fun k => !k.issued && decide (w ∈ dirtyFor s k)))
    let fenced := s.places.any (fun p => decide (opcodeOf p.2.words = 0x02 ∧ p.2.stage = .running)
      && decide (w ∈ p.2.prog.words))
    trig || leaving || before || fenced

/-- WRITE_BACK of the line that holds a column word (R45, R46). -/
def execWriteBack (word : Nat) (s : State) : Host.Outcome State Fault Refusal :=
  if s.boot.relMarl && lineDue s word && lineTakes s word then ok (writeBackLine word s) else ok s

/-- Insert a word into a list that is in the order of its lines' waits. -/
def oldestFirst (s : State) (l : List Nat) (w : Nat) : List Nat :=
  l.filter (fun v => decide (lineSince s v ≤ lineSince s w)) ++ w :: l.filter (fun v => decide (lineSince s w < lineSince s v))

/-- PASS_LANE_AGE_EXPIRY: the lines of a rank that have waited 10 µs are written back, oldest first (R46). -/
def execPassLaneAgeExpiry (c : Chan) (r : Fin 2) (s : State) : Host.Outcome State Fault Refusal :=
  let old := ((passOfRank s c r).map (fun p => p.1)).filter (fun w => decide (lineSince s w + 10000 ≤ (now s).toNat))
  ok (if s.boot.relMarl then writeBackReady (old.foldl (oldestFirst s) []) s else s)

/-- REGION_RELEASE: the dirty lines of a region that goes away are written back; once it has none, its binding and its
blocks are free (R50). -/
def execRegionRelease (id : Nat) (s : State) : Host.Outcome State Fault Refusal :=
  if ((tfind s.marl.regions id).any (fun r => r.releasing)) && s.boot.relMarl then
    ok (releaseRegion id (writeBackReady (dirtyOfRegion s id) s))
  else ok s

/-- PRE_COMMAND_WRITE_BACK: the oldest grain command of a channel that has not gone out has its rank's dirty lines
written back (R47). -/
def execPreCommandWriteBack (c : Chan) (s : State) : Host.Outcome State Fault Refusal :=
  match (bc s c).p1.find? (fun k => !k.issued) with
  | none => ok s
  | some k => ok (writeBackReady (dirtyFor s k) s)

/-- MARL_PART_TAKE_EFFECT: a pending commit takes effect once no staging or scoreboarded region exists (R37). -/
def execMarlPartTakeEffect (s : State) : Host.Outcome State Fault Refusal :=
  if noRegions s then ok { s with hub := { s.hub with marlPart := s.hub.marlPart.take } } else ok s

end Sys2Proof.Machine
end

