-- ==== Sys2Proof/Machine/CxlHost.lean ====
section
/-! DEFINITION. The host's side (03): FLR of a VF (R78), the HDM decoders (R67, R68), and CXL.mem reads and writes (R43,
R69 to R72; 02 R46, R526; 08 R219, R243). -/

namespace Sys2Proof.Machine

/-! ### FLR of a VF (03 R78) -/

/-- A function's work in flight is cancelled, and every one of its done records discarded. -/
def flrCancel (f : Func) (s : State) : State :=
  let mine := placesOf (flying s f)
  let s1 := mine.foldl (fun s' p => (cancelDesc p s').1) s
  let s2 := mine.foldl (fun s' p => match desc s' p with
    | some d => setDesc p { d with discard := true } s'
    | none => s') s1
  let built := placesOf (s2.places.filter (fun q => decide (q.2.func = f ∧ q.2.stage = .built)))
  built.foldl (fun s' p => freePlace p { s' with serve := { s'.serve with steps := terase s'.serve.steps p.val } }) s2

/-- A function's pages end being granted and wait for their clear. -/
def flrPages (f : Func) (s : State) : State :=
  let mine := (s.serve.pages.filter (fun p => decide (p.2 = f.val + 1))).map (fun p => p.1)
  let s1 := mine.foldl (fun s' pg => setPageOwner pg 0 s') s
  { s1 with serve := { s1.serve with clearing := s1.serve.clearing ++ mine.map (fun pg => (pg, 1025 + f.val)),
                                     shipsIn := s1.serve.shipsIn.filter (fun x => !(x.accepted && decide (x.func = f))) } }

/-- A function's flags, its wires, its kept images and its counters (12 Table 12.3; 09 R273; 19 R496). -/
def flrSync (f : Func) (s : State) : State :=
  let b := flagBlock s f
  let s1 := if (tfind s.hub.grnPart f.val).isSome then wipeFlags .shared ((List.range b.2).map (fun i => b.1 + i)) s else s
  let ws := s1.seq.wires.filter (fun w => decide (w.2.func ≠ some f))
  let ks := (s1.seq.kept.map (fun k => (k.1, k.2.filter (fun y => decide (y.func ≠ f))))).filter (fun k => decide (k.2 ≠ []))
  { s1 with seq := { s1.seq with wires := ws, kept := ks },
            cnt := { s1.cnt with perFunc := s1.cnt.perFunc.filter (fun e => decide (e.1 / 8 ≠ f.val)) } }

/-- FLR_VF. During a warm reset it completes with it (18 Table 18.8). -/
def execFlrVf (f : Func) (s : State) : Host.Outcome State Fault Refusal :=
  let noted (t : State) : State := { t with cxl := { t.cxl with flrs := tput t.cxl.flrs f.val (now t) } }
  if f.val = 0 then ok s
  else if s.boot.phase = 0x0A#8 then ok (noted s)
  else if !hostUp s then ok s
  else
    let s1 := needResync f (disableRing f s)
    let s2 := flrCancel f s1
    let r := ring s2 f
    let s3 := setRing f { r with built := [], lastBuilt := r.lastDsn } s2
    ok (noteOrder (pfOrder (.ring f) .flr 0#32) (endFlr f (noted (flrSync f (flrPages f s3)))))

/-! ### HDM decoders -/

def hdmWays (v : HdmSetting) : Nat := 2 ^ v.ways.toNat
def hdmGran (v : HdmSetting) : Nat := 256 * 2 ^ v.gran.toNat
def hdmSpan (v : HdmSetting) : Nat := v.size.toNat / hdmWays v

/-- A setting the device accepts (R67, Table 3.1), decoder 0 beside a committed decoder 1 too; codes 0 to 3 are 1 to 8 ways,
codes 0 to 6 are 256 bytes to 16 KiB. -/
def hdmOk (s : State) (dec : Fin 2) (v : HdmSetting) : Bool :=
  decide (v.base.toNat % 2 ^ 28 = 0 ∧ v.size.toNat % 2 ^ 28 = 0 ∧ v.skip.toNat % 2 ^ 28 = 0)
    && decide (v.ways.toNat ≤ 3 ∧ v.gran.toNat ≤ 6) && decide (hdmSpan v + v.skip.toNat ≤ 2 ^ 39)
    && (if dec.val = 0 then !s.cxl.hdm1.committed || decide (v.skip.toNat + hdmSpan v ≤ s.cxl.hdm1.set.skip.toNat)
        else s.cxl.hdm0.committed && decide (s.cxl.hdm0.set.skip.toNat + hdmSpan s.cxl.hdm0.set ≤ v.skip.toNat))

/-- HDM_DECODER_COMMIT: Committed, or Error Not Committed; a locked one ignores it (R68). Decoder 1 is committed only while
decoder 0 is (R67): with decoder 0 it becomes uncommitted (DEDUCED, log entry 91). -/
def execHdmDecoderCommit (dec : Fin 2) (v : HdmSetting) (s : State) : Host.Outcome State Fault Refusal :=
  let old := if dec.val = 0 then s.cxl.hdm0 else s.cxl.hdm1
  if !hostUp s || (old.committed && old.set.lock) then ok s
  else
    let good := hdmOk s dec v
    let h : Hdm := { set := v, committed := good, error := !good }
    let one : Hdm := { s.cxl.hdm1 with committed := s.cxl.hdm1.committed && good }
    ok { s with cxl := if dec.val = 0 then { s.cxl with hdm0 := h, hdm1 := one } else { s.cxl with hdm1 := h } }

/-- The DPA a decoder gives a host address (03, Four modules behind one socket). -/
def hdmMap (h : Hdm) (a : Nat) : Option Nat :=
  let o := a - h.set.base.toNat
  let g := hdmGran h.set
  let w := hdmWays h.set
  if h.committed ∧ h.set.base.toNat ≤ a ∧ o < h.set.size.toNat ∧ o / g % w = h.set.pos then
    some (h.set.skip.toNat + o / (g * w) * g + o % g)
  else none

/-- The DPA of a host address under the two decoders. -/
def hpaMap (s : State) (hpa : U64) : Option Nat :=
  match hdmMap s.cxl.hdm0 hpa.toNat with
  | some a => some a
  | none => hdmMap s.cxl.hdm1 hpa.toNat

/-! ### CXL.mem -/

/-- CXL.mem is served: Media Ready, no hub fault, no failed IDE stream (R69; 18 R478, Table 18.7). -/
def memServed (s : State) : Bool :=
  s.boot.mediaReady && !s.boot.hubFault && !s.cxl.ideIo.failed && !s.cxl.ideMem.failed

/-- Answer a read with poison; its data are free (log entry 18). -/
def poisonAnswer (hpa : U64) (s : State) : State :=
  takeFree (emit (.memData hpa (Config.poisonedLine s.freeCtr) true) s)

/-- Answer a read of a host address that no committed decoder maps: the spec states no answer, so the data and the poison
indication are free (DESIGN CHOICE, log entry 26). -/
def strayAnswer (hpa : U64) (s : State) : State :=
  takeFree (emit (.memData hpa (Config.poisonedLine s.freeCtr) (Config.strayPoison s.freeCtr)) s)

/-- The banks of a line's words are read, where the Marl holds no copy that serves them; a corrected read counts, an
uncorrectable one fails its rank (08 R239). -/
def noteLineRead (ws : List Nat) (s : State) : State :=
  match ws.find? (needsBank s) with
  | some w => let l := wordLoc w
              noteRead l.c l.r l.bank l.row l.col (unitWords l.c l.r l.bank l.row l.col) s
  | none => s

/-- A read of a line waits: its channel is in a frequency change, or a grain owns a bank it needs (07 R201, 08 R237,
R238). -/
def readWaits (s : State) (ws : List Nat) : Bool :=
  ws.any (fun w => (bc s (wordLoc w).c).changing || (needsBank s w && !bankTakes s (wordLoc w)))

/-- CXL_MEM_READ of a 64-byte line: the copy in the Marl over the banks' bytes; poison before Media Ready, after a hub
fault or an IDE failure, of a fenced rank and of a rank out of DPA; a free answer where no decoder maps the address. A read
that waits has no effect yet: its credit is withheld, and the host sends it again (log entry 106). -/
def execCxlMemRead (hpa : U64) (s : State) : Host.Outcome State Fault Refusal :=
  if !s.cxl.up then ok s
  else if !memServed s then ok (poisonAnswer hpa s)
  else
    match hpaMap s hpa with
    | none => ok (strayAnswer hpa s)
    | some a =>
      let k := lineRank s false (a / 64)
      if isUnpop s k.1 k.2 || isFenced s k.1 k.2 then ok (poisonAnswer hpa s)
      else
        let ws := lineWords s false (a / 64)
        let v := marlLine s ws
        if readWaits s ws then ok s
        else ok (emit (.memData hpa v.1 v.2) (noteLineRead ws s))

/-- A store to a line that would take its rank past its dirty limit is held until a line of the rank has been written back:
its credit is withheld (02 R46). -/
def storeHeld (s : State) (c r : Nat) (ws : List Nat) : Bool :=
  ws.all (fun w => decide (copyOf s w = none ∧ boundRegion s w = none)) && decide (dirtyLimit s < passBytes s c r + 64)

/-- Commit a line of a client other than the host, which no credit holds: in its bank itself where the pass lane has no room
for it (02 R46; DEDUCED, log entry 106). -/
def commitThrough (ws : List Nat) (d : Line) (mask : BitVec 64) (poison : Bool) (c r : Nat) (s : State) : State :=
  if storeHeld s c r ws then writeWords (lineWrites ws d mask poison) s else commitLine ws d mask poison s

/-- CXL_MEM_WRITE: committed at its owning slice before its completion is returned (R72, 02 R43, R526); completed and not
applied where R69, R70, 08 R219 or R243 says so, and where no decoder maps the address (log entry 26). Which counter counts the
writes after an IDE failure is not said (log entry 45). One that is held, or whose channel is in a frequency change (08 R238),
has no effect yet (log entry 106). -/
def execCxlMemWrite (hpa : U64) (data : Line) (mask : BitVec 64) (s : State) : Host.Outcome State Fault Refusal :=
  let done (t : State) : Host.Outcome State Fault Refusal := ok (emit (.memDone hpa) t)
  if !s.cxl.up then ok s
  else if !memServed s then done s
  else
    match hpaMap s hpa with
    | none => done s
    | some a =>
      let k := lineRank s false (a / 64)
      if inKeep s a then done (bump 2 s)
      else if isUnpop s k.1 k.2 then done (bump 4 s)
      else if isFenced s k.1 k.2 then done (bump 5 s)
      else
        let ws := lineWords s false (a / 64)
        if storeHeld s k.1 k.2 ws || ws.any (fun w => (bc s (wordLoc w).c).changing) then ok s
        else done (commitLine ws data mask false s)

end Sys2Proof.Machine
end

