-- ==== Sys2Proof/Machine/Mailbox.lean ====
section
/-! DEFINITION. The mailbox commands (03 R81 to R89, 17 R453), from the PF's mailbox and over the sideband. Of an answer
whose layout is CXL 3.1's, the model gives the fields that the spec names, and free bytes after them (log entry 23). -/

namespace Sys2Proof.Machine

/-! ### Which commands answer -/

/-- The commands that a module halted for both firmware slots accepts (18 R473), and those that answer after a hub fault
(R478). -/
inductive MbClass where
  | firmware | health | other
  deriving DecidableEq, Repr

/-- The path carries commands: the PF's mailbox once the link is up, the sideband once PMU firmware, or the boot ROM of
a halted module, runs (03 R81, 18 R473). -/
def mbUp (path : MbPath) (s : State) : Bool :=
  s.boot.powered && !s.pwr.lost && (match path with
    | .pf => s.cxl.up
    | .sideband => decide (s.boot.phase ≠ 0x01#8))

/-- Unsupported in this state of the module. -/
def mbRefused (k : MbClass) (s : State) : Bool :=
  (decide (s.boot.phase = 0x0E#8 ∧ s.boot.code = 0x01#8) && decide (k = .other)) || (s.boot.hubFault && decide (k ≠ .health))

/-- A command's answer; at the PF's mailbox its registers hold it, and its completion signals vector 2 (03 R64, R77). -/
def mbReply (path : MbPath) (code : MbCode) (ext : Nat) (payload : List Byte) (s : State) : State :=
  let s1 := emit (.mailbox path code (BitVec.ofNat 16 ext) payload) s
  match path with
  | .pf => msix 0 2 { s1 with cxl := { s1.cxl with mbox := (code, BitVec.ofNat 16 ext, payload) } }
  | .sideband => s1

/-- A command of a class: Busy while PMU firmware restarts (18 R479), Unsupported where R473 or R478 shuts it out. -/
def mbRun (path : MbPath) (k : MbClass) (act : State → State) (s : State) : Host.Outcome State Fault Refusal :=
  if !mbUp path s then ok s
  else if s.boot.fwRestarting then ok (mbReply path .busy 0 [] s)
  else if mbRefused k s then ok (mbReply path .unsupported 0 [] s)
  else ok (act s)

def mbInvalid (path : MbPath) (s : State) : State := mbReply path .invalidInput 0 [] s

/-- Free bytes: what an answer holds beside the fields that the spec names. -/
def mbFree (path : MbPath) (named : List Byte) (s : State) : State :=
  takeFree (mbReply path .success 0 (named ++ Config.mailboxAnswer s.freeCtr) s)

/-! ### Event records (19 R491) -/

def evLogOf (e : LogEntry) : EvLog :=
  if e.cls = 0x03#8 then (if 0x10 ≤ e.code.toNat ∧ e.code.toNat ≤ 0x13 then .fatal else .failure) else .informational

/-- The 32 bytes of an entry (19 Table 19.6). -/
def entryBytes (e : LogEntry) : List Byte :=
  leBytes 8 e.mtb.toNat ++ [e.cls, e.code] ++ leBytes 2 e.loc.toNat ++ [e.func, e.master] ++ leBytes 2 e.seq.toNat
    ++ leBytes 8 e.data0.toNat ++ leBytes 8 e.data1.toNat

/-- The oldest entries of a log, at most n. -/
def oldestEntries (s : State) (log : EvLog) (n : Nat) : List LogEntry :=
  (s.log.events.filter (fun e => decide (evLogOf e = log))).take n

/-- Get Event Records: the vendor data of each record is its entry; at most 31 records of 128 bytes fit a payload of
4 KiB. -/
def execGetEventRecords (path : MbPath) (log : EvLog) (count : Nat) (s : State) : Host.Outcome State Fault Refusal :=
  mbRun path .health
    (fun s =>
      let es := oldestEntries s log (min 31 count)
      let evs := s.log.events.map (fun e => if e ∈ es then { e with seen := true } else e)
      mbReply path .success 0 (es.flatMap entryBytes) { s with log := { s.log with events := evs } }) s

/-- Clear Event Records: the entries whose handles it names. -/
def execClearEventRecords (path : MbPath) (log : EvLog) (handles : List U16) (s : State) : Host.Outcome State Fault Refusal :=
  mbRun path .health
    (fun s =>
      let evs := s.log.events.filter (fun e => !(decide (evLogOf e = log) && decide (e.seq ∈ handles)))
      mbReply path .success 0 [] { s with log := { s.log with events := evs } }) s

/-! ### Firmware (R83) -/

/-- Get FW Info: 2 slots, the slot in use, the slot to come, no online activation; the rest is free. -/
def execGetFwInfo (path : MbPath) (s : State) : Host.Outcome State Fault Refusal :=
  mbRun path .firmware
    (fun s =>
      let staged := if s.fw.nextSlot = s.fw.active then 0 else 1 + bitIf s.fw.nextSlot 0
      mbFree path [2#8, BitVec.ofNat 8 (1 + bitIf s.boot.fwSlot 0 + 8 * staged), 0#8] s) s

/-- Transfer FW: the signature is checked before the slot is written. -/
def execTransferFw (path : MbPath) (slot : Fin 2) (image : List Byte) (s : State) : Host.Outcome State Fault Refusal :=
  mbRun path .firmware
    (fun s =>
      if Config.fwSignatureOk image then
        let f := if slot.val = 0 then { s.fw with image0 := image, valid0 := true }
          else { s.fw with image1 := image, valid1 := true }
        mbReply path .success 0 [] { s with fw := f }
      else mbInvalid path s) s

/-- Activate FW: offline only, at the next cold reset. -/
def execActivateFw (path : MbPath) (slot : Fin 2) (online : Bool) (s : State) : Host.Outcome State Fault Refusal :=
  mbRun path .firmware
    (fun s =>
      if online then mbReply path .unsupported 0 [] s
      else mbReply path .success 0 [] { s with fw := { s.fw with nextSlot := decide (slot.val = 1) } }) s

/-! ### Time, logs, identity, health, poison -/

/-- Get Timestamp (R82). -/
def execGetTimestamp (path : MbPath) (s : State) : Host.Outcome State Fault Refusal :=
  mbRun path .other (fun s => mbReply path .success 0 (leBytes 8 (now s + s.clk.tsOffset).toNat) s) s

/-- Set Timestamp: the offset by which the MTB reads the time set (R82). -/
def execSetTimestamp (path : MbPath) (v : U64) (s : State) : Host.Outcome State Fault Refusal :=
  mbRun path .other (fun s => mbReply path .success 0 [] { s with clk := { s.clk with tsOffset := v - now s } }) s

/-- Get Supported Logs: the vendor log that holds the persistent fault log (18 R481). -/
def execGetSupportedLogs (path : MbPath) (s : State) : Host.Outcome State Fault Refusal :=
  mbRun path .health (fun s => mbFree path [] s) s

/-- An entry of the persistent fault log; the order of its fields is the model's (log entry 8). -/
def plogBytes (e : PLogEntry) : List Byte :=
  leBytes 8 e.mtb.toNat ++ leBytes 4 e.powerOn.toNat ++ [e.code, 0#8] ++ leBytes 2 e.loc.toNat ++ leBytes 8 e.info.toNat

/-- Get Log of the persistent fault log from an entry on: 170 entries of 24 bytes fit a payload of 4 KiB. -/
def execGetLog (path : MbPath) (index : Nat) (s : State) : Host.Outcome State Fault Refusal :=
  mbRun path .health
    (fun s =>
      if s.log.plog.length < index then mbInvalid path s
      else mbReply path .success 0 (((s.log.plog.drop index).take 170).flatMap plogBytes) s) s

/-- Identify Memory Device: total, volatile and persistent capacity in 256 MiB. -/
def execIdentifyMemoryDevice (path : MbPath) (s : State) : Host.Outcome State Fault Refusal :=
  mbRun path .other (fun s => mbFree path (leBytes 8 2048 ++ leBytes 8 2048 ++ leBytes 8 0) s) s

/-- Get Health Info. -/
def execGetHealthInfo (path : MbPath) (s : State) : Host.Outcome State Fault Refusal :=
  mbRun path .health (fun s => mbFree path [] s) s

/-- Get Poison List: the overflow flag while a rank is fenced, then each poisoned unit's DPA and its two lines (02 R54,
08 R230, R243); at most 254 records fit. -/
def execGetPoisonList (path : MbPath) (s : State) : Host.Outcome State Fault Refusal :=
  mbRun path .other
    (fun s =>
      let us := (poisonUnits s).dedup.take 254
      let over_ := (List.range 4).any (fun q => decide ((quadMap s q).fenced ≠ 0#8))
      mbReply path .success 0 (BitVec.ofNat 8 (bitIf over_ 1) :: leBytes 2 us.length
        ++ us.flatMap (fun a => leBytes 8 a ++ leBytes 4 2)) s) s

/-! ### Vendor opcodes (R85 to R89) -/

/-- keep_state as it is reported (R86). -/
def keepStateNow (s : State) : Nat := if s.boot.phase = 0x07#8 ∧ s.boot.keepRestored = false then 1 else s.pwr.keepState.toNat

/-- KEEP_GET_INFO. -/
def execKeepGetInfo (path : MbPath) (payload : List Byte) (s : State) : Host.Outcome State Fault Refusal :=
  mbRun path .other
    (fun s =>
      if payload.length ≠ 0 then mbInvalid path s
      else
        mbReply path .success 0 (leBytes 8 (keepBytes s) ++ leBytes 8 (s.dev.keep.inForce.rsv.toNat * 2 ^ 30)
          ++ leBytes 8 (dirtyBytes s) ++ leBytes 8 (satNat 32 s.pwr.holdup + 15 * 2 ^ 32 + keepStateNow s * 2 ^ 48)) s) s

/-- The master of a path (19 Table 19.6). -/
def pathMaster (path : MbPath) : Nat := match path with
  | .pf => 1
  | .sideband => 0

/-- The order a mailbox command is: the PF's, or the GRC's over the sideband (R81). -/
def mbOrder (path : MbPath) (o : Obj) (k : Req) : Order :=
  { obj := o, req := k, master := pathMaster path, func := (match path with
      | .pf => 0#8
      | .sideband => 0xFF#8), hsn := 0#32 }

/-- A command that orders an object of the PMU's: the PF's loses to the GRC's of the same boundary and returns Retry
Required with the extended status PREEMPTED (R84, 04 R123); one that a standing order of the GRC forbids is invalid
(17 R453, Table 17.6); every other applies. -/
def mbContest (path : MbPath) (o : Obj) (k : Req) (forbidden : Bool) (act : State → State) (s : State) : State :=
  let go : State := if forbidden then mbInvalid path s else contend [k] (mbOrder path o k) (act s)
  match path, rival s o [k] with
  | .pf, some a =>
    if a.master = 0 then mbReply .pf .retryRequired 0x40 [] (logPreempted a none (logCollision a (mbOrder path o k) true s))
    else go
  | _, _ => go

/-- KEEP_SET_SIZE: the pair is staged and committed as one action (R87). -/
def execKeepSetSize (path : MbPath) (payload : List Byte) (s : State) : Host.Outcome State Fault Refusal :=
  mbRun path .other
    (fun s =>
      let size := leAt payload 0 8
      let rsv := leAt payload 8 8
      if payload.length ≠ 16 ∨ size % 2 ^ 28 ≠ 0 ∨ 2 ^ 33 < size ∨ rsv % 2 ^ 30 ≠ 0 ∨ 48 * 2 ^ 30 < rsv then mbInvalid path s
      else
        let k : KeepSz := { size := BitVec.ofNat 6 (size / 2 ^ 28), rsv := BitVec.ofNat 6 (rsv / 2 ^ 30) }
        let bad := keepBad k
        let busy := keepBusy s
        let s1 := { s with dev := { s.dev with keep := { s.dev.keep with staged := k }.judge bad busy true } }
        let refused (code : Nat) (t : State) : State := logAs 0x08 code (locOf 3 islPmu) 0xFF#8 (pathMaster path) 7 0 t
        if bad then mbReply path .invalidInput 0x23 [] (refused 0x23 s1)
        else if busy then mbReply path .busy 0 [] (refused 0x80 s1)
        else mbContest path .keep .keepSize false (fun s =>
          mbReply path .success 0 [] (resizeKeep k { s with dev := { s.dev with keep := { s.dev.keep with staged := k }.judge bad busy true } })) s) s

/-- A plan as PLAN_LOAD carries it (R88). -/
def planOf (b : List Byte) (t : U64) : Plan :=
  let e (p : Nat) : PlanPort :=
    let w := leAt b (0x10 + 8 * p) 8
    { enabled := bitAt w 0, far := BitVec.ofNat 8 (bits w 1 8), farPort := BitVec.ofNat 3 (bits w 9 3), lanes := bits w 12 4 }
  { bytes := b, gen := BitVec.ofNat 32 (leAt b 0 4), rackId := BitVec.ofNat 32 (leAt b 4 4),
    own := BitVec.ofNat 8 (leAt b 8 1), ports := (List.range 6).map e, since := t }

/-- The fields of a plan lie in their ranges, and no enabled entry names the module itself. -/
def planOk (b : List Byte) : Bool :=
  let p := planOf b 0#64
  decide (b.length = 64 ∧ p.gen ≠ 0#32 ∧ leAt b 8 8 < 256)
    && (List.range 6).all (fun i => decide (leAt b (0x10 + 8 * i) 8 < 2 ^ 16))
    && p.ports.all (fun e => decide (e.farPort.toNat ≤ 5 ∧ e.lanes ∈ [2, 4, 8]) && !(e.enabled && decide (e.far = p.own)))

/-- Every port judges its last IDENT against the plan in force (15 R404), and the tree is formed anew (R412). -/
def judgeAll (s : State) : State :=
  checkShips (chooseParent ((List.range 6).foldl (fun s' p => judgePort (Fin.ofNat 6 p) s') s))

/-- PLAN_LOAD (R88); from the PF it is refused once a sideband RAMP_SET has been accepted (17 R453). The 10 s of fabric ready
begin anew (18 R470). -/
def execPlanLoad (path : MbPath) (payload : List Byte) (s : State) : Host.Outcome State Fault Refusal :=
  mbRun path .other
    (fun s =>
      if !planOk payload then mbInvalid path s
      else mbContest path .plan .planLoad (decide (path = .pf) && s.pwr.grcRamp.isSome) (fun s =>
        mbReply path .success 0 [] (judgeAll { s with
          boot := { s.boot with portWaived := 0#6 }, lnk := { s.lnk with plan := some (planOf payload (now s)) } })) s) s

/-- PLAN_GET: the plan in force; all zero where there is none (15 Table 15.5, plan_gen 0). -/
def execPlanGet (path : MbPath) (payload : List Byte) (s : State) : Host.Outcome State Fault Refusal :=
  mbRun path .other
    (fun s =>
      if payload.length ≠ 0 then mbInvalid path s
      else mbReply path .success 0 ((s.lnk.plan.map (fun p => p.bytes)).getD (List.replicate 64 0#8)) s) s

def rampOf (b : List Byte) : Ramp :=
  { up := BitVec.ofNat 16 (leAt b 0 2), down := BitVec.ofNat 16 (leAt b 2 2), cap := BitVec.ofNat 16 (leAt b 4 2),
    gen := BitVec.ofNat 32 (leAt b 8 4) }

/-- The fields of a budget lie in their ranges (R89). -/
def rampOk (b : List Byte) : Bool :=
  let r := rampOf b
  decide (b.length = 16 ∧ leAt b 6 2 = 0 ∧ leAt b 12 4 = 0)
    && decide (1 ≤ r.up.toNat ∧ r.up.toNat ≤ 4800 ∧ 1 ≤ r.down.toNat ∧ r.down.toNat ≤ 4800 ∧ 38 ≤ r.cap.toNat ∧ r.cap.toNat ≤ 480)

/-- RAMP_SET: applied at the next interval boundary (R89); the PF may not exceed the sideband's budget (17 R453). -/
def execRampSet (path : MbPath) (payload : List Byte) (s : State) : Host.Outcome State Fault Refusal :=
  mbRun path .other
    (fun s =>
      let r := rampOf payload
      let loose := s.pwr.grcRamp.any (fun g => decide (g.up < r.up ∨ g.down < r.down ∨ g.cap < r.cap))
      if !rampOk payload then mbInvalid path s
      else mbContest path .ramp .rampSet (decide (path = .pf) && loose) (fun s =>
        mbReply path .success 0 []
          { s with pwr := { s.pwr with rampNext := some r,
                                       grcRamp := if path = .sideband then some r else s.pwr.grcRamp } }) s) s

/-- RAMP_GET: the budget in force, the draw, the ms held back. -/
def execRampGet (path : MbPath) (payload : List Byte) (s : State) : Host.Outcome State Fault Refusal :=
  mbRun path .other
    (fun s =>
      let r := s.pwr.ramp
      if payload.length ≠ 0 then mbInvalid path s
      else
        mbReply path .success 0 (leBytes 2 r.up.toNat ++ leBytes 2 r.down.toNat ++ leBytes 2 r.cap.toNat ++ leBytes 2 0
          ++ leBytes 4 r.gen.toNat ++ leBytes 4 0 ++ leBytes 2 (satNat 16 (s.pwr.draw / 10))
          ++ leBytes 4 (satNat 32 (s.pwr.heldMs.foldl (fun a b => a + b) 0)) ++ leBytes 2 0) s) s

/-- The opcodes of Tables 3.8 and 3.9. -/
def mbOpcodes : List U16 :=
  [0x0100#16, 0x0101#16, 0x0200#16, 0x0201#16, 0x0202#16, 0x0300#16, 0x0301#16, 0x0400#16, 0x0401#16, 0x4000#16,
   0x4200#16, 0x4300#16, 0xC000#16, 0xC001#16, 0xC010#16, 0xC011#16, 0xC020#16, 0xC021#16]

/-- A command outside Table 3.8 (R61); its own command carries one that is in it. -/
def execUnsupportedMailboxCommand (path : MbPath) (opcode : U16) (s : State) : Host.Outcome State Fault Refusal :=
  if opcode ∈ mbOpcodes then ok s else mbRun path .health (fun s => mbReply path .unsupported 0 [] s) s

end Sys2Proof.Machine
end

