-- ==== Sys2Proof/Machine/Spdm.lean ====
section
/-! DEFINITION. SPDM over DOE, IDE key management and CDAT (03 R63, R79, R80). What an answer's fields hold beside what the
spec names is free (log entry 9); the order of the requests and the error codes are SPDM 1.2's (PRESUMED, log entry 9). -/

namespace Sys2Proof.Machine

/-- An answer over DOE: its named words, then bytes. -/
def doe (ws : List Nat) (bs : List Byte) (s : State) : State := emit (.doe (ws.map (fun w => BitVec.ofNat 64 w)) bs) s

/-- An answer whose bytes are free. -/
def doeFree (ws : List Nat) (s : State) : State := takeFree (doe ws (Config.spdmAnswer s.freeCtr) s)

/-- An ERROR response: 0x01 a bad request, 0x04 a request out of order. -/
def doeError (code : Nat) (s : State) : State := doe [0x7F, code] [] s

/-- A request that is answered once the link is up (03, Start-up), and only after `before`. -/
def spdmRun (before : Bool) (act : State → State) (s : State) : Host.Outcome State Fault Refusal :=
  if !s.cxl.up then ok s else if before then ok (act s) else ok (doeError 0x04 s)

/-- GET_VERSION starts the connection anew: version 1.2. -/
def execGetVersion (s : State) : Host.Outcome State Fault Refusal :=
  spdmRun true (fun s => doe [0x04, 0x12] [] { s with spdm := { Spdm.reset with version := true } }) s

def execGetCapabilities (_flags : U32) (s : State) : Host.Outcome State Fault Refusal :=
  spdmRun s.spdm.version (fun s => doeFree [0x61] { s with spdm := { s.spdm with caps := true } }) s

/-- NEGOTIATE_ALGORITHMS: ECDSA P-384 (bit 7) and SHA-384 (bit 1), where the requester offers them. -/
def execNegotiateAlgorithms (asym hash : U32) (s : State) : Host.Outcome State Fault Refusal :=
  spdmRun s.spdm.caps
    (fun s =>
      let a := asym.getLsbD 7
      let h := hash.getLsbD 1
      doe [0x63, bitIf a 7, bitIf h 1] [] { s with spdm := { s.spdm with algs := a && h } }) s

def execGetDigests (s : State) : Host.Outcome State Fault Refusal := spdmRun s.spdm.algs (fun s => doeFree [0x01, 1] s) s

/-- GET_CERTIFICATE of the chain in slot 0. -/
def execGetCertificate (slot off len : Nat) (s : State) : Host.Outcome State Fault Refusal :=
  spdmRun s.spdm.algs (fun s => if slot = 0 then doeFree [0x02, slot, off, len] s else doeError 0x01 s) s

def execChallenge (slot : Nat) (nonce : BitVec 256) (s : State) : Host.Outcome State Fault Refusal :=
  spdmRun s.spdm.algs
    (fun s => if slot = 0 then takeFree (doe [0x03, slot] (leBytes 32 nonce.toNat ++ Config.spdmAnswer s.freeCtr) s)
      else doeError 0x01 s) s

/-- The 48 bytes of measurement i (Table 3.7). -/
def measured (s : State) (i : Nat) : List Byte := leBytes 48 (Config.measurement i s.freeCtr).toNat

/-- GET_MEASUREMENTS: index 0 the count, 1 to 5 one of Table 3.7, 0xFF all. -/
def execGetMeasurements (index : Nat) (s : State) : Host.Outcome State Fault Refusal :=
  spdmRun s.spdm.algs
    (fun s =>
      if index = 0 then doe [0x60, 5] [] s
      else if index ≤ 5 then takeFree (doe [0x60, 1] (measured s index) s)
      else if index = 0xFF then takeFree (doe [0x60, 5] ([1, 2, 3, 4, 5].flatMap (measured s)) s)
      else doeError 0x01 s) s

def execKeyExchange (data : List Byte) (s : State) : Host.Outcome State Fault Refusal :=
  spdmRun s.spdm.algs (fun s => doeFree [0x64, data.length] { s with spdm := { s.spdm with exchanged := true } }) s

/-- FINISH: the session opens where the handshake verifies. -/
def execFinish (verify : List Byte) (s : State) : Host.Outcome State Fault Refusal :=
  spdmRun s.spdm.exchanged
    (fun s =>
      if Config.spdmFinishOk s.freeCtr verify then
        takeFree (doe [0x65] [] { s with spdm := { s.spdm with session := true, exchanged := false } })
      else takeFree (doeError 0x06 { s with spdm := { s.spdm with exchanged := false } })) s

def execEndSession (s : State) : Host.Outcome State Fault Refusal :=
  spdmRun s.spdm.session (fun s => doe [0x6C] [] { s with spdm := { s.spdm with session := false } }) s

/-- IDE_KM over a secured session: a stream is keyed, CXL.mem's (`mem`) in skid or containment mode, or CXL.io's; a new
stream takes a failed one's place (R79, 18 Table 18.7). -/
def execIdeKm (mem skid : Bool) (key : BitVec 256) (s : State) : Host.Outcome State Fault Refusal :=
  let v : Ide := { key := some key, skid := mem && skid, failed := false }
  spdmRun s.spdm.session
    (fun s => doe [0x66, bitIf mem 0] [] { s with cxl := if mem then { s.cxl with ideMem := v } else { s.cxl with ideIo := v } }) s

/-- Read and write bandwidth in MB/s (Table 3.3). -/
def cdatBandwidth (c : Cxl) : Nat × Nat :=
  let f := match c.rate, c.flit256 with
    | 64, _ => (104000, 98000)
    | 32, true => (52000, 49000)
    | 32, false => (50000, 46000)
    | _, true => (26000, 24000)
    | _, false => (25000, 23000)
  if c.lanes = 16 then f else (f.1 / 2, f.2 / 2)

/-- CDAT_READ: one range, its latencies in ps, its bandwidths (R63). -/
def execCdatRead (s : State) : Host.Outcome State Fault Refusal :=
  let b := cdatBandwidth s.cxl
  if s.cxl.up then ok (doe [0, 0x7FFFFFFFFF, 120000, 80000, b.1, b.2] [] s) else ok s

end Sys2Proof.Machine
end

