-- ==== Sys2Proof/Machine/EngineOps.lean ====
section
/-! DEFINITION. The shared operations of the engines: the operands of a queued command in regions, stream slots and
engine resources (09 R258, R259; 10 R285), the waits of a queue's head (10 R286), taint (10 R300), and what a completed
command does (09 R261, R263; 12 R324). -/

namespace Sys2Proof.Machine

/-! ### Operands of a queued command -/

/-- Where an operand lies: bytes of a region, with how many of them the command may use; a bank; a tile register; a
32-bit pattern. -/
inductive Src where
  | mem (key off lim : Nat)
  | bank (b : Nat)
  | tile (t : Nat)
  | imm (v : U32)
  deriving DecidableEq, Repr

/-- Slot n of a stream of a context (09 R259). -/
def slotSrc (s : State) (x : CtxNo) (k n : Nat) : Src :=
  match (ctx s x.val).bind (fun c => (tfind c.streams k).map (fun t => (c, t))) with
  | none => .imm 0#32
  | some (c, t) =>
    match regionOf c t.region with
    | none => .imm 0#32
    | some key => .mem key (n % (regionLen s key / 2 ^ t.slotLog) * 2 ^ t.slotLog) (2 ^ t.slotLog)

/-- The next operand of a command, with the region offsets and stream slots that are left to give. -/
def nextSrc (s : State) (k : QCmd) (a : List (Nat × Nat) × List (Fin 16 × Nat) × List Src) (o : Operand × Bool) :
    List (Nat × Nat) × List (Fin 16 × Nat) × List Src :=
  let x := k.ctx.getD 0
  match o.1 with
  | .gen _ size =>
    match a.1 with
    | r :: rest => (rest, a.2.1, a.2.2 ++ [.mem r.1 r.2 size])
    | [] => (a.1, a.2.1, a.2.2 ++ [.imm 0#32])
  | .stream _ =>
    if o.2 then
      (a.1, a.2.1, a.2.2 ++ [match k.slot with
        | some (j, n) => slotSrc s x j.val n
        | none => .imm 0#32])
    else
      match a.2.1 with
      | (j, n) :: rest => (a.1, rest, a.2.2 ++ [slotSrc s x j.val n])
      | [] => (a.1, a.2.1, a.2.2 ++ [.imm 0#32])
  | .bank b => (a.1, a.2.1, a.2.2 ++ [.bank b.val])
  | .tile t => (a.1, a.2.1, a.2.2 ++ [.tile t.val])
  | .imm v => (a.1, a.2.1, a.2.2 ++ [.imm v])
  | .reg _ => (a.1, a.2.1, a.2.2 ++ [.imm 0#32])

/-- The operands of a command that is not a layout command, in the order of `operandsOf`. -/
def engOperands (k : EngCmd) : List (Operand × Bool) :=
  match k with
  | .weightLoad _ _ src => [(src, false)]
  | .product a _ _ _ _ => [(a, false)]
  | .slip v => [(v.in1, false)] ++ (v.in2.toList.map (fun o => (o, false)))
      ++ (v.bcast0.toList.map (fun o => (o.1, false))) ++ (v.bcast1.toList.map (fun o => (o.1, false))) ++ [(v.out, true)]
  | .regionWord src _ => [(src, false)]
  | .fill dst _ _ _ _ => [(dst, true)]
  | .drain src _ _ _ => [(src, false)]
  | _ => []

def cmdSrcs (s : State) (k : QCmd) : List Src :=
  ((engOperands k.push.cmd).foldl (nextSrc s k) (k.offs, k.pops, [])).2.2

/-! ### Elements -/


/-- A pattern cut to a format's width. -/
def fmtCut (f : Fmt) (v : U32) : U32 := BitVec.ofNat 32 (v.toNat % 2 ^ (8 * fmtBytes f))

/-- Byte o of a region. -/
def regByte (s : State) (key o : Nat) : Byte := (readRegion s key (o / 64 * 64)).data.extractLsb' (8 * (o % 64)) 8

/-- Element i of w bytes at a region operand, little-endian; past the bytes the command may use it is free (log
entry 46). -/
def memElem (s : State) (key off lim w i : Nat) : U32 :=
  if w * (i + 1) ≤ lim then
    BitVec.ofNat 32 (leNat ((List.range w).map (fun b => regByte s key (off + w * i + b))))
  else Config.engineBits s.freeCtr i

/-- The word of an engine resource at row i, column j of its tile: banks and tile registers (10 Table 10.3). -/
def resWord (t : Tab U32) (n i j : Nat) : U32 := tget 0#32 t (n * 16384 + i % 128 * 128 + j % 128)

/-- The raw element of a format at row i, column j of an operand whose rows hold `cols` elements. -/
def srcElem (s : State) (m : Mx) (f : Fmt) (cols : Nat) (a : Src) (i j : Nat) : U32 :=
  match a with
  | .mem key off lim => fmtCut f (memElem s key off lim (fmtBytes f) (i * cols + j))
  | .bank b => fmtCut f (resWord m.acc b i j)
  | .tile t => fmtCut f (resWord m.tiles t i j)
  | .imm v => fmtCut f v

/-- Whether the first n bytes of an operand meet a poisoned line, or a tainted resource (02 R54, 10 R300). -/
def srcPoison (s : State) (m : Mx) (a : Src) (n : Nat) : Bool :=
  match a with
  | .mem key off lim => (List.range ((min n lim + 63) / 64)).any (fun i => (readRegion s key (off + 64 * i)).poison)
  | .bank b => decide (b ∈ m.taint)
  | .tile t => decide (6 + t ∈ m.taint)
  | .imm _ => false

/-- An uncorrectable error in the engine words that a command uses (10 R300, 11 R317). -/
def eccBad (e : Ecc) : Bool := decide (e = .uncorrectable)

/-- A loop holds back the Marl quad of an operand (16 R424). -/
def srcClip (s : State) (a : Src) : Bool :=
  match a with
  | .mem key off _ => islClip s (islMarl (regionLine s key off).1.val)
  | _ => false

/-- Words n * 16,384 to n * 16,384 + 16,383 of a table of words are those of `f`. -/
def replaceRes {β : Type} [DecidableEq β] (d : β) (t : Tab β) (n : Nat) (f : Nat → β) : Tab β :=
  t.filter (fun e => decide (e.1 < n * 16384))
    ++ (((List.range 16384).map (fun i => (n * 16384 + i, f i))).filter (fun e => decide (e.2 ≠ d)))
    ++ t.filter (fun e => decide ((n + 1) * 16384 ≤ e.1))

/-- A resource's taint from now on; a resource that was not tainted is logged (10 R300, 19 Table 19.10). Banks are
resources 0 to 3, weight buffers 4 and 5, tile registers 6 to 9, mask tiles 10 to 13. -/
def setTaint (n res : Nat) (yes : Bool) (p : Place) (s : State) : State :=
  let m := mx s n
  let was := decide (res ∈ m.taint)
  let rest := m.taint.filter (fun r => decide (r ≠ res))
  let s1 := setMx n { m with taint := if yes then rest ++ [res] else rest } s
  if yes && !was then
    let kind := if res < 4 then (0, res) else if res < 6 then (1, res - 4) else if res < 10 then (2, res - 6) else (3, res - 10)
    match desc s p with
    | some d => logFn 0x03 0x2D (locOf 3 (islMx n)) d.func (kind.1 + 4 * kind.2) d.hsn.toNat s1
    | none => logDev 0x03 0x2D (locOf 3 (islMx n)) (kind.1 + 4 * kind.2) 0 s1
  else s1

/-! ### The head of a queue -/

/-- The slots a command needs are filled, or free again (09 R259). -/
def slotsReady (s : State) (k : QCmd) : Bool :=
  match k.ctx.bind (fun x => ctx s x.val) with
  | none => true
  | some c =>
    k.pops.all (fun p => (tfind c.streams p.1.val).any (fun t => decide (p.2 ∈ t.filled)))
      && (match k.slot with
        | none => true
        | some (j, n) =>
          (tfind c.streams j.val).any (fun t =>
            let depth := ((regionOf c t.region).map (fun key => regionLen s key / 2 ^ t.slotLog)).getD 0
            decide (n < t.done + depth)))

/-- An earlier-numbered command of the island's other queue holds a resource that this one needs (10 R286). -/
def resWaits (s : State) (q : Nat) (k : QCmd) : Bool :=
  let other := if q < 4 then q + 4 else q - 4
  (queue s other).any (fun e => decide (e.pushNo < k.pushNo)
    && (cmdRes e.push.cmd).any (fun a => (cmdRes k.push.cmd).any (fun b => decide (a.1 = b.1) && (a.2 || b.2))))

/-- The head of an MX island's queue, where it may start. -/
def mxHead (s : State) (q : Nat) : Option QCmd :=
  match (queue s q).head? with
  | some k => if !k.started && s.boot.relMx.getLsbD (q % 4) && slotsReady s k && !resWaits s q k then some k else none
  | none => none

/-- Replace the head of a queue. -/
def putHead (q : Nat) (k : QCmd) (s : State) : State := setQueue q (k :: (queue s q).tail) s

/-- The head of a queue has done its work. -/
def headDone (q : Nat) (k : QCmd) (result : Option U32) (s : State) : State :=
  putHead q { k with started := true, fin := true, since := now s, result := result } s

/-- The function a queued command works for. -/
def cmdFunc (s : State) (k : QCmd) : Option Func := (desc s k.place).map (fun d => d.func)

/-- A command of an MX island works: its descriptor is marked where a loop holds back the island, its operands' quads,
or the module (16 R424). -/
def clipEngine (n : Nat) (k : QCmd) (srcs : List Src) (s : State) : State :=
  clipDesc k.place (islClip s (islMx n) || s.pwr.holding || srcs.any (srcClip s)) s

/-! ### Completion (09 R259 to R263, 12 R324, R330) -/

/-- A command's completion flag is set (12 R323, R324); outside what its context may set it faults the context. -/
def completeFlag (x : CtxNo) (p : Push) (s : State) : State :=
  match p.flag, ctx s x.val with
  | some (shared, n), some c =>
    let sp := if shared then FlagSpace.shared else FlagSpace.loc
    match ctxFlag s x c.func sp n false with
    | none => faultCtx x 0x18 s
    | some i => if wordFaulted s sp i then faultCtx x 0x19 s else countSet sp c.func (setFlag sp i 1 s)
  | _, _ => s

/-- The stream slots of a command are filled and freed; its value register is written (09 R259, R263). A result the
spec does not state is free (log entry 46). -/
def completeCtx (k : QCmd) (c : Ctx) (n : Nat) : Ctx :=
  let popped (ts : Tab Stream) (p : Fin 16 × Nat) : Tab Stream :=
    match tfind ts p.1.val with
    | some t => tput ts p.1.val { t with filled := t.filled.filter (fun i => decide (i ≠ p.2)), done := t.done + 1 }
    | none => ts
  let ts := k.pops.foldl popped c.streams
  let ts1 := match k.slot with
    | some (j, i) =>
      match tfind ts j.val with
      | some t => tput ts j.val { t with filled := t.filled ++ [i] }
      | none => ts
    | none => ts
  match k.push.value with
  | some r => { c with streams := ts1, vals := tset 0#32 c.vals r.val (k.result.getD (Config.engineBits n 0)),
                       pendVals := c.pendVals.erase r.val }
  | none => { c with streams := ts1 }

/-- A command leaves its queue complete; where it was the head, the next stands at the head from now on. -/
def completeCmd (q : Nat) (k : QCmd) (s : State) : State :=
  let l := queue s q
  let s1 := setQueue q (match l.erase k with
    | e :: more => (if l.head? = some k then { e with since := now s } else e) :: more
    | [] => []) s
  match k.ctx with
  | none => s1
  | some x =>
    match ctx s1 x.val with
    | none => s1
    | some c =>
      let s2 := setCtx x.val (completeCtx k c s.freeCtr) s1
      let s3 := if k.push.value.isSome && k.result.isNone then takeFree s2 else s2
      let s4 := completeFlag x k.push s3
      let s5 := match k.push.wire with
        | some w => arriveWire w s4
        | none => s4
      settleCtx x s5

end Sys2Proof.Machine
end

