-- ==== Sys2Proof/Machine/Mx.lean ====
section
/-! DEFINITION. The matrix engines (10 R279 to R281, R300): weight loads and product passes. -/

namespace Sys2Proof.Machine

/-- A head command that has read its sources: done, counted, its descriptor marked and, where a source was poisoned or
tainted, POISONED (10 R300, 02 R54). -/
def mxDone (q n : Nat) (k : QCmd) (srcs : List Src) (p : Bool) (result : Option U32) (s : State) : State :=
  let s1 := headDone q k result (clipEngine n k srcs s)
  if p then addCond k.place .poisoned s1 else s1

/-- A weight load fills a buffer with a 128 × 128 tile (R279); an uncorrectable error taints it (R300). -/
def loadWeights (n : Nat) (k : QCmd) (buf : Nat) (fmt : Fmt) (ecc : Ecc) (s : State) : State :=
  let srcs := cmdSrcs s k
  let a := srcs.getD 0 (.imm 0#32)
  let m := mx s n
  let p := srcPoison s m a (16384 * fmtBytes fmt) || eccBad ecc
  let m1 := { m with wts := replaceRes 0#32 m.wts buf (fun i => srcElem s m fmt 128 a (i / 128) (i % 128)),
                     wtFmt := tput m.wtFmt buf fmt }
  mxDone n n k srcs p none (setTaint n (4 + buf) p k.place (takeFree (setMx n m1 s)))

/-- WEIGHT_LOAD: the head of MXn's queue (R279). -/
def execWeightLoad (n : MxNo) (ecc : Ecc) (s : State) : Host.Outcome State Fault Refusal :=
  match mxHead s n.val with
  | none => ok s
  | some k =>
    match k.push.cmd with
    | .weightLoad buf fmt _ => ok (loadWeights n.val k buf.val fmt ecc s)
    | _ => ok s

/-- An fp8 pattern's value. -/
def val8 (f : Fmt) (v : U32) : Fp.Val :=
  if f = .e4m3 then Fp.valE4m3 (v.setWidth 8) else Fp.valE5m2 (v.setWidth 8)

/-- One product added to an accumulator: the product exact, one rounding; int8 wraps (R281). None for a pairing of
formats that Table 10.1 does not list. -/
def passMac (fa fb : Fmt) : Option (U32 → U32 → U32 → U32) :=
  let fp8 (f : Fmt) : Bool := decide (f = .e4m3 ∨ f = .e5m2)
  if fa = .bf16 ∧ fb = .bf16 then some (fun acc a b => Fp.macc16 acc (a.setWidth 16) (b.setWidth 16))
  else if fp8 fa && fp8 fb then
    some (fun acc a b => Fp.round32 (Fp.addV (Fp.val32 acc) (Fp.mulV (val8 fa a) (val8 fb b))))
  else if fa = .int8 ∧ fb = .int8 then
    some (fun acc a b => acc + (a.setWidth 8).signExtend 32 * (b.setWidth 8).signExtend 32)
  else none

/-- One element of a product pass, in ascending depth order (R281). -/
def passElem (mac : U32 → U32 → U32 → U32) (a b : Nat → Nat → U32) (start : U32) (i j : Nat) : U32 :=
  (List.range 128).foldl (fun acc d => mac acc (a i d) (b d j)) start

/-- The format of a weight buffer; one that nothing has loaded holds +0 in A's format. -/
def bufFmt (m : Mx) (buf : Nat) (fa : Fmt) : Fmt := (tfind m.wtFmt buf).getD fa

/-- What a product pass writes at row i, column j of its bank. -/
def passResult (s : State) (m : Mx) (a : Src) (fa : Fmt) (buf bank : Nat) (start : Bool) (i j : Nat) : U32 :=
  match passMac fa (bufFmt m buf fa) with
  | some mac => passElem mac (srcElem s m fa 128 a) (resWord m.wts buf) (if start then 0#32 else resWord m.acc bank i j) i j
  | none => Config.engineBits s.freeCtr (i * 128 + j)

/-- A product pass into an accumulator bank (R279, R281). -/
def runPass (n : Nat) (k : QCmd) (fa : Fmt) (buf bank : Nat) (start : Bool) (ecc : Ecc) (s : State) : State :=
  let srcs := cmdSrcs s k
  let a := srcs.getD 0 (.imm 0#32)
  let m := mx s n
  let fresh := srcPoison s m a (16384 * fmtBytes fa) || decide (4 + buf ∈ m.taint) || eccBad ecc
  let p := fresh || (!start && decide (bank ∈ m.taint))
  let m1 := { m with acc := replaceRes 0#32 m.acc bank (fun i => passResult s m a fa buf bank start (i / 128) (i % 128)) }
  let s1 := setTaint n bank p k.place (takeFree (setMx n m1 s))
  mxDone n n k srcs p none (countEv 0x40 n (cmdFunc s k) 1 s1)

/-- PRODUCT_PASS: the head of MXn's queue (R279, R281). -/
def execProductPass (n : MxNo) (ecc : Ecc) (s : State) : Host.Outcome State Fault Refusal :=
  match mxHead s n.val with
  | none => ok s
  | some k =>
    match k.push.cmd with
    | .product _ fa buf bank start => ok (runPass n.val k fa buf.val bank.val start ecc s)
    | _ => ok s

end Sys2Proof.Machine
end

