-- ==== Sys2Proof/Machine/Slip.lean ====
section
/-! DEFINITION. The Slip (10 R282 to R296): its stages on one element, its tile stages, and what a command writes. Every
value in a chain is a 32-bit pattern, which each stage reads in the type it names. -/

namespace Sys2Proof.Machine

/-! ### Conversions (R282, R283) -/

/-- An element as it enters a chain: fp32 for the floating-point formats, int32 for the integer ones (R288). -/
def slipIn (f : Fmt) (v : U32) : U32 :=
  match f with
  | .fp32 => Fp.flush32 v
  | .bf16 => Fp.ofBf16 (v.setWidth 16)
  | .e4m3 => Fp.round32 (Fp.valE4m3 (v.setWidth 8))
  | .e5m2 => Fp.round32 (Fp.valE5m2 (v.setWidth 8))
  | .int8 => (v.setWidth 8).signExtend 32
  | .int32 => v

/-- Whether a format is an integer one. -/
def fmtInt (f : Fmt) : Bool := decide (f = .int8 ∨ f = .int32)

/-- The pattern of a value in a format (Table 10.2); none for a pair that the table does not list. -/
def narrow (fromInt : Bool) (f : Fmt) (sat : Bool) (v : U32) : Option U32 :=
  match fromInt, f with
  | false, .fp32 => some (Fp.flush32 v)
  | false, .bf16 => some ((Fp.round16 sat (Fp.val32 v)).setWidth 32)
  | false, .e4m3 => some ((Fp.toE4m3 sat v).setWidth 32)
  | false, .e5m2 => some ((Fp.toE5m2 sat v).setWidth 32)
  | false, .int8 => some (BitVec.ofInt 32 (Fp.toInt 8 v) &&& 0xFF#32)
  | false, .int32 => some (BitVec.ofInt 32 (Fp.toInt 32 v))
  | true, .fp32 => some (Fp.ofInt v.toInt)
  | true, .int8 => some (BitVec.ofInt 32 (Fp.satInt 8 v.toInt) &&& 0xFF#32)
  | true, .int32 => some v
  | true, .bf16 => none
  | true, .e4m3 => none
  | true, .e5m2 => none

/-! ### Element stages (R288, Table 10.4) -/

/-- The inputs of one element. -/
structure SlipEl where
  x : U32
  y : U32
  b0 : U32
  b1 : U32
  i0 : U32
  i1 : U32
  row : Nat
  col : Nat
  open_ : U32
  rms : U32
  deriving DecidableEq, Repr

def slipArg (e : SlipEl) (a : SlipArg) : U32 :=
  match a with
  | .input2 => e.y
  | .bcast0 => e.b0
  | .bcast1 => e.b1
  | .imm0 => e.i0
  | .imm1 => e.i1

def intMax (a b : U32) : U32 := if a.slt b then b else a
def intMin (a b : U32) : U32 := if a.slt b then a else b

/-- gelu, a fixed sequence that the spec does not give (log entry 21). -/
def geluOf (x : U32) : U32 := if Fp.isNan x then Fp.nan32 else Config.geluBits x

/-- A stage's result, and the mask bit after it; `other` is the partner's value for rotate_pair, none where the partner
is not in the tensor. What the spec leaves unstated is the element's free value (log entry 46). -/
def slipStage (op : SlipOp) (e : SlipEl) (x : U32) (bit : Bool) (other : Option U32) : U32 × Bool :=
  let g (a : SlipArg) : U32 := slipArg e a
  match op with
  | .add a => (Fp.add x (g a), bit)
  | .sub a => (Fp.sub x (g a), bit)
  | .mul a => (Fp.mul x (g a), bit)
  | .max a => (Fp.max32 x (g a), bit)
  | .min a => (Fp.min32 x (g a), bit)
  | .iadd a => (x + g a, bit)
  | .isub a => (x - g a, bit)
  | .imul a => (x * g a, bit)
  | .imax a => (intMax x (g a), bit)
  | .imin a => (intMin x (g a), bit)
  | .fma a b => (Fp.fma x (g a) (g b), bit)
  | .land a => (x &&& g a, bit)
  | .lor a => (x ||| g a, bit)
  | .abs => (if Fp.isNan x then Fp.nan32 else Fp.flush32 x &&& 0x7FFFFFFF#32, bit)
  | .neg => (Fp.round32 (Fp.negV (Fp.val32 x)), bit)
  | .clamp => (if Fp.lt e.i1 e.i0 then e.open_ else Fp.min32 (Fp.max32 x e.i0) e.i1, bit)
  | .iabs => (if x = 0x80000000#32 then e.open_ else if x.slt 0#32 then -x else x, bit)
  | .ineg => (if x = 0x80000000#32 then e.open_ else -x, bit)
  | .iclamp => (if e.i1.slt e.i0 then e.open_ else intMin (intMax x e.i0) e.i1, bit)
  | .cast src dst sat =>
    ((if src = .fp32 ∨ src = .int32 then (narrow (fmtInt src) dst sat x).map (slipIn dst) else none).getD e.open_, bit)
  | .cmpEq a => (x, Fp.eq x (g a))
  | .cmpLt a => (x, Fp.lt x (g a))
  | .cmpLe a => (x, Fp.le x (g a))
  | .icmpEq a => (x, decide (x = g a))
  | .icmpLt a => (x, x.slt (g a))
  | .icmpLe a => (x, !(g a).slt x)
  | .select a b => (if bit then g a else g b, bit)
  | .idxRow => (BitVec.ofNat 32 e.row, bit)
  | .idxCol => (BitVec.ofNat 32 e.col, bit)
  | .rotatePair c s =>
    (match other with
      | none => e.open_
      | some o =>
        let t (u v : U32) : Fp.Val := Fp.mulV (Fp.val32 u) (Fp.val32 v)
        if e.col % 2 = 0 then Fp.round32 (Fp.addV (t x (g c)) (Fp.negV (t o (g s))))
        else Fp.round32 (Fp.addV (t o (g s)) (t x (g c))), bit)
  | .exp => (Fp.exp x, bit)
  | .log => (Fp.log x, bit)
  | .rsqrt => (Fp.rsqrt x, bit)
  | .recip => (Fp.recip x, bit)
  | .tanh => (Fp.tanh x, bit)
  | .sigmoid => (Fp.sigmoid x, bit)
  | .silu => (Fp.silu x, bit)
  | .gelu => (geluOf x, bit)
  | .rowRms => (Fp.mul x e.rms, bit)
  | .rotaryOf dim _ => (if e.col < dim then e.open_ else x, bit)
  | .routineOf _ => (e.open_, bit)

/-- Whether the value is an int32 after a stage. -/
def stageInt (op : SlipOp) (was : Bool) : Bool :=
  match op with
  | .cast _ dst _ => fmtInt dst
  | .cmpEq _ | .cmpLt _ | .cmpLe _ | .icmpEq _ | .icmpLt _ | .icmpLe _ | .select _ _ => was
  | .iadd _ | .isub _ | .imul _ | .imax _ | .imin _ | .land _ | .lor _ | .iabs | .ineg | .iclamp | .idxRow | .idxCol => true
  | .add _ | .sub _ | .mul _ | .max _ | .min _ | .fma _ _ | .abs | .neg | .clamp | .rotatePair _ _ | .exp | .log | .rsqrt
  | .recip | .tanh | .sigmoid | .silu | .gelu | .rowRms | .rotaryOf _ _ | .routineOf _ => false

/-- The value and the mask bit of column j after a chain, given last stage first; a mask bit that no stage has set is
free. `live` says which columns are in the tensor. -/
def chainAt (el : Nat → SlipEl) (live : Nat → Bool) (stages : List SlipOp) (j : Nat) : U32 × Bool :=
  match stages with
  | [] => ((el j).x, (el j).open_.getLsbD 0)
  | op :: before =>
    let v := chainAt el live before j
    let o := j - j % 2 + (1 - j % 2)
    let other := match op with
      | .rotatePair _ _ => if live o then some (chainAt el live before o).1 else none
      | _ => none
    slipStage op (el j) v.1 v.2 other

/-! ### Tile stages (R290 to R295) -/

/-- A combination, rounded (R292); `and` is bitwise. -/
def comb (op : CombOp) (fp : Bool) (a b : U32) : U32 :=
  match op, fp with
  | .sum, true => Fp.add a b
  | .sum, false => a + b
  | .max, true => Fp.max32 a b
  | .max, false => intMax a b
  | .min, true => Fp.min32 a b
  | .min, false => intMin a b
  | .mul, true => Fp.mul a b
  | .mul, false => a * b
  | .land, _ => a &&& b

/-- What a tail element contributes (R290); the int32 of least and of greatest value stand for −∞ and +∞ (DEDUCED, log
entry 46). -/
def combId (op : CombOp) (fp : Bool) : U32 :=
  match op, fp with
  | .sum, _ => 0#32
  | .max, true => 0xFF800000#32
  | .max, false => 0x80000000#32
  | .min, true => 0x7F800000#32
  | .min, false => 0x7FFFFFFF#32
  | .mul, true => 0x3F800000#32
  | .mul, false => 1#32
  | .land, _ => 1#32

/-- One level of the tree: neighbours are combined (R292). -/
def treeLevel (f : U32 → U32 → U32) (l : List U32) : List U32 :=
  match l with
  | a :: b :: rest => f a b :: treeLevel f rest
  | other => other

/-- The 7 levels over 128 lanes. -/
def tree (f : U32 → U32 → U32) (l : List U32) : U32 :=
  ((List.range 7).foldl (fun v _ => treeLevel f v) l).headD 0#32

/-- Combine a list in ascending order. -/
def combAll (f : U32 → U32 → U32) (l : List U32) : Option U32 :=
  match l with
  | [] => none
  | a :: rest => some (rest.foldl f a)

/-- A row reduction: the tree in each column tile, the tiles ascending (R292). -/
def rowReduce (op : CombOp) (fp : Bool) (v : Nat → U32) (cols : Nat) : U32 :=
  let f := comb op fp
  let tiles := (List.range ((cols + 127) / 128)).map (fun t => tree f ((List.range 128).map (fun l => v (128 * t + l))))
  (combAll f tiles).getD (combId op fp)

/-- One step of a scan along a row over the lanes and their segment starts (R294, R295). -/
def scanStep (f : U32 → U32 → U32) (a : List (U32 × Bool)) (n : Nat) : List (U32 × Bool) :=
  (a.zip (List.replicate n none ++ a.map some)).map (fun p => match p.2 with
    | none => p.1
    | some o => (if p.1.2 then p.1.1 else f o.1 p.1.1, p.1.2 || o.2))

/-- A scan of one column tile, with what is carried into it; a carry reaches the lanes before the first start. -/
def scanTile (f : U32 → U32 → U32) (carry : Option U32) (lanes : List (U32 × Bool)) : List U32 :=
  let y := ([1, 2, 4, 8, 16, 32, 64].foldl (scanStep f) lanes).map (fun p => p.1)
  match carry with
  | none => y
  | some c =>
    let before := (List.range 128).takeWhile (fun j => !((lanes.getD j (0#32, false)).2))
    (y.zip (List.range 128)).map (fun p => if p.2 < before.length then f c p.1 else p.1)

/-- A scan along a row (R294, R295): `v` and `start` of a column. -/
def rowScan (f : U32 → U32 → U32) (v : Nat → U32) (start : Nat → Bool) (cols : Nat) : List U32 :=
  ((List.range ((cols + 127) / 128)).foldl
    (fun (a : List U32 × Option U32) t =>
      let y := scanTile f a.2 ((List.range 128).map (fun l => (v (128 * t + l), start (128 * t + l))))
      (a.1 ++ y, y.getLast?)) ([], none)).1

/-- A scan down a column: `v` and `start` of a row (R294, R295). -/
def colScan (f : U32 → U32 → U32) (v : Nat → U32) (start : Nat → Bool) (rows : Nat) : List U32 :=
  ((List.range rows).foldl
    (fun (a : List U32) i => a ++ [match a.getLast? with
      | some y => if start i then v i else f y (v i)
      | none => v i]) [])

/-- a comes before b in descending order: NaN above +∞, −0 below +0 (Table 10.4). -/
def above (fp : Bool) (a b : U32) : Bool :=
  if fp then (Fp.isNan a && !Fp.isNan b) || (!Fp.isNan a && !Fp.isNan b && Fp.ltTotal b a) else b.slt a

/-- Insert a value and its column into a descending list; ties go to the lower column. -/
def topInsert (fp : Bool) (l : List (U32 × Nat)) (p : U32 × Nat) : List (U32 × Nat) :=
  match l with
  | [] => [p]
  | q :: rest => if above fp p.1 q.1 then p :: q :: rest else q :: topInsert fp rest p

/-- The live values of a row in descending order, each with its column. -/
def descend (fp : Bool) (v : Nat → U32) (live : Nat → Bool) (cols : Nat) : List (U32 × Nat) :=
  ((List.range cols).filter live).foldl (fun l j => topInsert fp l (v j, j)) []

/-! ### A command -/

/-- The inputs of a command: its sources, in order. -/
structure SlipSrcs where
  in1 : Src
  in2 : Src
  b0 : Src
  b1 : Src
  out : Src
  deriving DecidableEq, Repr

def slipSrcs (s : State) (k : QCmd) (c : SlipCmd) : SlipSrcs :=
  let l := cmdSrcs s k
  let z := Src.imm 0#32
  let n2 := if c.in2.isSome then 1 else 0
  let n3 := if c.bcast0.isSome then 1 else 0
  let n4 := if c.bcast1.isSome then 1 else 0
  { in1 := l.getD 0 z, in2 := if n2 = 1 then l.getD 1 z else z, b0 := if n3 = 1 then l.getD (1 + n2) z else z,
    b1 := if n4 = 1 then l.getD (1 + n2 + n3) z else z, out := l.getD (1 + n2 + n3 + n4) z }

/-- A broadcast operand at row i, column j: a column vector has one value per row (R296). -/
def bcastAt (s : State) (m : Mx) (f : Fmt) (a : Src) (column : Bool) (i j : Nat) : U32 :=
  match a with
  | .mem _ _ _ => srcElem s m f 1 a (if column then i else j) 0
  | _ => if column then srcElem s m f 1 a i 0 else srcElem s m f 1 a 0 j

/-- A bit of a mask tile (R291). -/
def maskBit (m : Mx) (k : Fin 4) (i j : Nat) : Bool := tget false m.masks (k.val * 16384 + i % 128 * 128 + j % 128)

/-- An element that is no tail element (R290, R291). -/
def slipLive (m : Mx) (c : SlipCmd) (i j : Nat) : Bool :=
  decide (i < c.rows ∧ j < c.cols) && (match c.laneMask with
    | some k => maskBit m k i j
    | none => true)

/-- The factor by which rmsnorm multiplies a row (10, the worked example of the prefill chunk): the sum of the squares by
R292, its mean, ε, and the reciprocal root, each rounded. -/
def rowFactor (m : Mx) (c : SlipCmd) (x : Nat → U32) (i : Nat) : U32 :=
  let sum := rowReduce .sum true (fun j => if slipLive m c i j then Fp.mul (x j) (x j) else 0#32) c.cols
  Fp.rsqrt (Fp.add (Fp.mul sum (Fp.div 0x3F800000#32 (Fp.ofInt c.cols))) c.i0)

/-- The inputs of element (i, j). -/
def slipEl (s : State) (m : Mx) (c : SlipCmd) (a : SlipSrcs) (i j : Nat) : SlipEl :=
  { x := slipIn c.in1Fmt (srcElem s m c.in1Fmt c.cols a.in1 i j),
    y := slipIn c.in2Fmt (srcElem s m c.in2Fmt c.cols a.in2 i j),
    b0 := slipIn c.in2Fmt (bcastAt s m c.in2Fmt a.b0 ((c.bcast0.map (fun b => b.2)).getD false) i j),
    b1 := slipIn c.in2Fmt (bcastAt s m c.in2Fmt a.b1 ((c.bcast1.map (fun b => b.2)).getD false) i j),
    i0 := c.i0, i1 := c.i1, row := i, col := j, open_ := Config.engineBits s.freeCtr (2 ^ 32 + i * c.cols + j),
    rms := rowFactor m c (fun l => slipIn c.in1Fmt (srcElem s m c.in1Fmt c.cols a.in1 i l)) i }

/-- The value and the mask bit of element (i, j) after the chain. -/
def slipAt (s : State) (m : Mx) (c : SlipCmd) (a : SlipSrcs) (i j : Nat) : U32 × Bool :=
  chainAt (slipEl s m c a i) (slipLive m c i) c.stages.reverse j

/-- Whether the chain's value is an int32. -/
def chainInt (c : SlipCmd) : Bool := c.stages.foldl (fun b op => stageInt op b) (fmtInt c.in1Fmt)

/-- An element of the output: its row and column there, its value, and whether that is an int32. -/
structure SlipOut where
  row : Nat
  col : Nat
  val : U32
  isInt : Bool
  deriving DecidableEq, Repr

/-- Element (i, j) of a tensor's scan is a segment's first (R295). -/
def segStart (m : Mx) (down : Bool) (seg : Option (Fin 4)) (i j : Nat) : Bool :=
  match seg with
  | none => false
  | some k => decide ((if down then i else j) = 0) || maskBit m k i j

/-- The live elements of a tensor, row by row. -/
def liveCells (m : Mx) (c : SlipCmd) : List (Nat × Nat) :=
  (List.range c.rows).flatMap (fun i => ((List.range c.cols).filter (slipLive m c i)).map (fun j => (i, j)))

/-- What a command gives, and how many columns its output has. Reductions and argmax_row give one column or one row;
topk_row gives k values and then their k columns (log entry 46). -/
def slipResults (s : State) (m : Mx) (c : SlipCmd) (a : SlipSrcs) : List SlipOut × Nat :=
  let v (i j : Nat) : U32 := (slipAt s m c a i j).1
  let orId (op : CombOp) (fp : Bool) (i j : Nat) : U32 := if slipLive m c i j then v i j else combId op fp
  let free (i j : Nat) : U32 := Config.engineBits s.freeCtr (2 ^ 33 + i * 128 + j)
  match c.tile with
  | none => ((liveCells m c).map (fun p => ⟨p.1, p.2, v p.1 p.2, chainInt c⟩), c.cols)
  | some (.reduce op fp false) =>
    ((List.range c.rows).map (fun i => ⟨i, 0, rowReduce op fp (orId op fp i) c.cols, !fp⟩), 1)
  | some (.reduce op fp true) =>
    ((List.range c.cols).map (fun j =>
      ⟨0, j, (combAll (comb op fp) ((List.range c.rows).map (fun i => orId op fp i j))).getD (combId op fp), !fp⟩), c.cols)
  | some (.scan op fp false seg) =>
    let rows := (List.range c.rows).map (fun i => rowScan (comb op fp) (orId op fp i) (segStart m false seg i) c.cols)
    ((liveCells m c).map (fun p => ⟨p.1, p.2, (rows.getD p.1 []).getD p.2 0#32, !fp⟩), c.cols)
  | some (.scan op fp true seg) =>
    let cols := (List.range c.cols).map (fun j =>
      colScan (comb op fp) (fun i => orId op fp i j) (fun i => segStart m true seg i j) c.rows)
    ((liveCells m c).map (fun p => ⟨p.1, p.2, (cols.getD p.2 []).getD p.1 0#32, !fp⟩), c.cols)
  | some (.argmaxRow fp) =>
    ((List.range c.rows).map (fun i =>
      ⟨i, 0, match (descend fp (v i) (slipLive m c i) c.cols).head? with
        | some p => BitVec.ofNat 32 p.2
        | none => free i 0, true⟩), 1)
  | some (.topkRow n) =>
    let k := max 1 (min 64 n)
    ((List.range c.rows).flatMap (fun i =>
      let l := descend true (v i) (slipLive m c i) c.cols
      (List.range k).map (fun t => ⟨i, t, match l[t]? with
        | some p => p.1
        | none => free i t, false⟩)
      ++ (List.range k).map (fun t => ⟨i, k + t, match l[t]? with
        | some p => BitVec.ofNat 32 p.2
        | none => free i (64 + t), true⟩)), 2 * k)

/-- The bytes that elements write to a region operand, by line: the data and the byte mask so far. Bytes past what the
command may use are not written (log entry 46). -/
def outLines (off lim w cols : Nat) (l : List (SlipOut × U32)) : Tab (Nat × Nat) :=
  l.foldl
    (fun t p =>
      let b := w * (p.1.row * cols + p.1.col)
      if b + w ≤ lim then
        let line := (off + b) / 64
        let sh := (off + b) % 64
        let old := tget (0, 0) t line
        tput t line (old.1 + p.2.toNat % 2 ^ (8 * w) * 2 ^ (8 * sh), old.2 + (2 ^ w - 1) * 2 ^ sh)
      else t) []

/-- Commit lines to a region (02 R40; 10 R291, R300). -/
def commitLines (key : Nat) (p : Bool) (l : Tab (Nat × Nat)) (s : State) : State :=
  l.foldl
    (fun s' e =>
      let at_ := regionLine s' key (e.1 * 64)
      commitSram at_.1 at_.2 (BitVec.ofNat 512 e.2.1) (BitVec.ofNat 64 e.2.2) p s') s

/-- Write elements into a table of words of a bank or tile register. -/
def outWords (n : Nat) (t : Tab U32) (l : List (SlipOut × U32)) : Tab U32 :=
  l.foldl (fun u p => tset 0#32 u (n * 16384 + p.1.row % 128 * 128 + p.1.col % 128) p.2) t

/-- The pattern of an output element; a pair of types that Table 10.2 does not list, and a format of fewer than 32 bits
in a bank or a tile register, is free (log entry 46). -/
def outCode (s : State) (c : SlipCmd) (word : Bool) (e : SlipOut) : U32 :=
  let free := Config.engineBits s.freeCtr (2 ^ 34 + e.row * 65536 + e.col)
  if word && !decide (c.outFmt = .fp32 ∨ c.outFmt = .int32) then free
  else (narrow e.isInt c.outFmt c.sat e.val).getD free

/-- Whether a command writes a whole bank or tile register, with no element masked (R300). -/
def wholeOut (c : SlipCmd) : Bool :=
  decide (128 ≤ c.rows ∧ 128 ≤ c.cols) && c.laneMask.isNone && (match c.tile with
    | none => true
    | some (.scan _ _ _ _) => true
    | _ => false)

/-- The resource named as an output is written, with its taint (R300). -/
def writeOut (n : Nat) (c : SlipCmd) (place : Place) (out : Src) (r : List SlipOut × Nat) (p : Bool) (s0 s : State) : State :=
  let m := mx s n
  let coded (word : Bool) : List (SlipOut × U32) := r.1.map (fun e => (e, outCode s0 c word e))
  let old (res : Nat) : Bool := !wholeOut c && decide (res ∈ m.taint)
  match out with
  | .mem key off lim => commitLines key p (outLines off lim (fmtBytes c.outFmt) r.2 (coded false)) s
  | .bank b => setTaint n b (p || old b) place (setMx n { m with acc := outWords b m.acc (coded true) } s)
  | .tile t => setTaint n (6 + t) (p || old (6 + t)) place (setMx n { m with tiles := outWords t m.tiles (coded true) } s)
  | .imm _ => s

/-- The mask tile a command writes: the compare's bit of every element that is no tail element (R291). -/
def writeMask (n : Nat) (c : SlipCmd) (place : Place) (bits_ : List ((Nat × Nat) × Bool)) (p : Bool) (s : State) : State :=
  match c.maskOut with
  | none => s
  | some k =>
    let m := mx s n
    let t := bits_.foldl (fun u e => tset false u (k.val * 16384 + e.1.1 % 128 * 128 + e.1.2 % 128) e.2) m.masks
    let whole := decide (128 ≤ c.rows ∧ 128 ≤ c.cols) && c.laneMask.isNone
    setTaint n (10 + k.val) (p || (!whole && decide (10 + k.val ∈ m.taint))) place (setMx n { m with masks := t } s)

/-- The value-register result: a reduction of a single row or a single column, or the element of a 1 × 1 tensor (R263,
R293); otherwise none is stated. -/
def slipValue (c : SlipCmd) (r : List SlipOut × Nat) : Option U32 :=
  match c.tile with
  | some (.reduce _ _ down) => if (if down then c.cols else c.rows) = 1 then r.1.head?.map (fun e => e.val) else none
  | _ => if r.1.length = 1 then r.1.head?.map (fun e => e.val) else none

/-- Whether an input of a command is poisoned or tainted. -/
def slipPoison (s : State) (m : Mx) (c : SlipCmd) (a : SlipSrcs) : Bool :=
  let n := c.rows * c.cols
  let seg := match c.tile with
    | some (.scan _ _ _ (some k)) => decide (10 + k.val ∈ m.taint)
    | _ => false
  srcPoison s m a.in1 (n * fmtBytes c.in1Fmt) || srcPoison s m a.in2 (n * fmtBytes c.in2Fmt)
    || srcPoison s m a.b0 ((if (c.bcast0.map (fun b => b.2)).getD false then c.rows else c.cols) * fmtBytes c.in2Fmt)
    || srcPoison s m a.b1 ((if (c.bcast1.map (fun b => b.2)).getD false then c.rows else c.cols) * fmtBytes c.in2Fmt)
    || c.laneMask.any (fun k => decide (10 + k.val ∈ m.taint)) || seg

/-- A Slip command runs over its rows. -/
def runSlip (n : Nat) (k : QCmd) (c : SlipCmd) (ecc : Ecc) (s : State) : State :=
  let a := slipSrcs s k c
  let m := mx s n
  let p := slipPoison s m c a || eccBad ecc
  let r := slipResults s m c a
  let bits_ := (liveCells m c).map (fun x => (x, (slipAt s m c a x.1 x.2).2))
  let s1 := writeMask n c k.place bits_ p (writeOut n c k.place a.out r p s (takeFree s))
  let s2 := countEv 0x41 n (cmdFunc s k) (c.rows * ((c.cols + 127) / 128)) s1
  mxDone (4 + n) n k (cmdSrcs s k) p (slipValue c r) s2

/-- The read of a 32-bit word of a region, for the command's value register (09 R263). -/
def runWord (n : Nat) (k : QCmd) (word : Nat) (s : State) : State :=
  let a := (cmdSrcs s k).getD 0 (.imm 0#32)
  let p := match a with
    | .mem key off _ => (readRegion s key ((off + 4 * word) / 64 * 64)).poison
    | _ => false
  mxDone (4 + n) n k [a] p (some (srcElem s (mx s n) .int32 16384 a 0 word)) (takeFree s)

/-- SLIP_COMMAND: the head of SLn's queue (R288). -/
def execSlipCommand (n : MxNo) (ecc : Ecc) (s : State) : Host.Outcome State Fault Refusal :=
  match mxHead s (4 + n.val) with
  | none => ok s
  | some k =>
    match k.push.cmd with
    | .slip c => ok (runSlip n.val k c ecc s)
    | .regionWord _ w => ok (runWord n.val k w.val s)
    | _ => ok s

end Sys2Proof.Machine
end

