-- ==== Sys2Proof/Machine/Layout.lean ====
section
/-! DEFINITION. The layout engines (11): the layout descriptor and its formats (R305 to R308), the map (R309), the steps
(R310, R311), and COPY (R303, R304, R313, R316, R317). -/

namespace Sys2Proof.Machine

/-! ### The descriptor (Table 11.1) -/

/-- Dimension i of the iteration shape, the source shape and the destination shape: count fields plus 1. -/
def lyN (ws : List U64) (i : Nat) : Nat := bits (wordAt ws 3) (16 * i) 16 + 1
def lyM (ws : List U64) (i : Nat) : Nat := bits (wordAt ws 4) (16 * i) 16 + 1
def lyQ (ws : List U64) (i : Nat) : Nat := bits (wordAt ws 5) (16 * i) 16 + 1
def lyFill (ws : List U64) : Nat := bits (wordAt ws 3) 48 16
def lyWrap (ws : List U64) : Bool := bitAt (wordAt ws 5) 54

/-- The map of x_i: sel and step. -/
def lyMap (ws : List U64) (i : Nat) : Nat × Nat :=
  let v := match i with
    | 0 => bits (wordAt ws 4) 48 6
    | 1 => bits (wordAt ws 4) 54 6
    | _ => bits (wordAt ws 5) 48 6
  (v % 4, v / 4)

/-- A signed 16-bit field. -/
def int16 (n : Nat) : Int := (BitVec.ofNat 16 n).toInt

/-- The source and the destination offset of dimension j; dimension 2 has none. -/
def lySo (ws : List U64) (j : Nat) : Int := if j < 2 then int16 (bits (wordAt ws 6) (16 * j) 16) else 0
def lyDo (ws : List U64) (j : Nat) : Int := if j < 2 then int16 (bits (wordAt ws 6) (32 + 16 * j) 16) else 0

/-- A format word (Table 11.2): bit planes of w bits, else elements of e bytes; the tile and the tile of tiles. -/
structure LyFmt where
  planes : Bool
  w : Nat
  e : Nat
  tr : Nat
  tc : Nat
  sr : Nat
  sc : Nat
  cols : Bool
  deriving DecidableEq, Repr

def lyFmt (v : Nat) : LyFmt :=
  let planes := decide (v % 4 = 3)
  { planes := planes, w := [2, 3, 4, 6].getD (bits v 2 2) 2, e := if planes then 1 else 2 ^ (v % 4),
    tr := 2 ^ (if planes then 5 else bits v 2 3), tc := 2 ^ (if planes then 4 else bits v 5 3), sr := 2 ^ bits v 8 2,
    sc := 2 ^ bits v 10 2, cols := bitAt v 12 }

def lySrcFmt (ws : List U64) : LyFmt := lyFmt (bits (wordAt ws 1) 40 14)
def lyDstFmt (ws : List U64) : LyFmt := lyFmt (bits (wordAt ws 2) 40 14)

/-- The tile of element (c, r, z) of a tensor of q0 columns and q1 rows (R307). -/
def lyTile (f : LyFmt) (q0 q1 c r z : Nat) : Nat :=
  let g0 := (q0 + f.tc * f.sc - 1) / (f.tc * f.sc)
  let g1 := (q1 + f.tr * f.sr - 1) / (f.tr * f.sr)
  let gc := c / (f.tc * f.sc)
  let gr := r / (f.tr * f.sr)
  let tcl := c / f.tc % f.sc
  let trl := r / f.tr % f.sr
  let outer := if f.cols then gc * g1 + gr else gr * g0 + gc
  let inner := if f.cols then tcl * f.sr + trl else trl * f.sc + tcl
  (z * g0 * g1 + outer) * (f.sr * f.sc) + inner

/-- The first byte of an element from the tensor's address (R307). -/
def lyByte (f : LyFmt) (q0 q1 c r z : Nat) : Nat :=
  (lyTile f q0 q1 c r z * (f.tr * f.tc) + r % f.tr * f.tc + c % f.tc) * f.e

/-- The byte that holds bit b of a bit-plane element, and its bit there (R308). -/
def lyPlane (f : LyFmt) (q0 q1 c r z b : Nat) : Nat × Nat :=
  let n := 16 * (r % 32) + c % 16
  (64 * f.w * lyTile f q0 q1 c r z + 64 * b + n / 8, n % 8)

/-- The bits of an element, low to high, each as a byte and a bit of it. -/
def lyBits (f : LyFmt) (q0 q1 c r z : Nat) : List (Nat × Nat) :=
  if f.planes then (List.range f.w).map (lyPlane f q0 q1 c r z)
  else (List.range (8 * f.e)).map (fun i => (lyByte f q0 q1 c r z + i / 8, i % 8))

/-! ### The map (R309) -/

/-- What becomes of an iteration point: its destination element, and its source element or the fill. -/
structure LyMove where
  dst : Nat × Nat × Nat
  src : Option (Nat × Nat × Nat)
  deriving DecidableEq, Repr

/-- The source coordinate y_j of a point. -/
def lyY (ws : List U64) (x : Nat × Nat × Nat) (j : Nat) : Int :=
  let term (i v : Nat) : Int := if (lyMap ws i).1 = j then (((lyMap ws i).2 * v : Nat) : Int) else 0
  lySo ws j + term 0 x.1 + term 1 x.2.1 + term 2 x.2.2

/-- The move of a point; none where its write is dropped. -/
def lyMove (ws : List U64) (x : Nat × Nat × Nat) : Option LyMove :=
  let d0 := (x.1 : Int) + lyDo ws 0
  let d1 := (x.2.1 : Int) + lyDo ws 1
  let inside (v : Int) (n : Nat) : Bool := decide (0 ≤ v ∧ v < (n : Int))
  let y := lyY ws x
  if inside d0 (lyQ ws 0) && inside d1 (lyQ ws 1) && decide (x.2.2 < lyQ ws 2) then
    let d := (d0.toNat, d1.toNat, x.2.2)
    if inside (y 0) (lyM ws 0) && inside (y 1) (lyM ws 1) && inside (y 2) (lyM ws 2) then
      some { dst := d, src := some ((y 0).toNat, (y 1).toNat, (y 2).toNat) }
    else if lyWrap ws then
      some { dst := d, src := some (((y 0) % (lyM ws 0 : Int)).toNat, ((y 1) % (lyM ws 1 : Int)).toNat,
                                    ((y 2) % (lyM ws 2 : Int)).toNat) }
    else some { dst := d, src := none }
  else none

/-- A source value converted to the destination's size; a bit-plane source is sign-extended (R309). -/
def lyConvert (a b : LyFmt) (v : Nat) : Nat :=
  let wide := if a.planes ∧ 2 ^ (a.w - 1) ≤ v then v + (2 ^ 64 - 2 ^ a.w) else v
  wide % 2 ^ (if b.planes then b.w else 8 * b.e)

/-- The fill of a destination element (R309). -/
def lyFillOf (b : LyFmt) (fill : Nat) : Nat :=
  if b.planes then fill % 2 ^ b.w
  else if b.e = 4 then fill * 2 ^ 16
  else fill % 2 ^ (8 * b.e)

/-! ### Steps (R310) -/

/-- Columns and rows of a step's block. -/
def lyBlock (ws : List U64) : Nat × Nat :=
  let f := lyDstFmt ws
  if f.planes then (64, 32) else if (lyMap ws 0).1 = 1 then (64 / f.e, 64) else (256 / f.e, 16)

def lyBlocks0 (ws : List U64) : Nat := (lyN ws 0 + (lyBlock ws).1 - 1) / (lyBlock ws).1
def lyBlocks1 (ws : List U64) : Nat := (lyN ws 1 + (lyBlock ws).2 - 1) / (lyBlock ws).2

/-- How many steps a command takes. -/
def lySteps (ws : List U64) : Nat := lyBlocks0 ws * lyBlocks1 ws * lyN ws 2

/-- The points of step k: x0 blocks fastest, then x1 blocks, then x2. -/
def lyPoints (ws : List U64) (k : Nat) : List (Nat × Nat × Nat) :=
  let b := lyBlock ws
  let a0 := k % lyBlocks0 ws * b.1
  let a1 := k / lyBlocks0 ws % lyBlocks1 ws * b.2
  let a2 := k / (lyBlocks0 ws * lyBlocks1 ws)
  (List.range (min b.2 (lyN ws 1 - a1))).flatMap (fun j =>
    (List.range (min b.1 (lyN ws 0 - a0))).map (fun i => (a0 + i, a1 + j, a2)))

def lyMoves (ws : List U64) (k : Nat) : List LyMove := (lyPoints ws k).filterMap (lyMove ws)

/-! ### Memory of a command -/

/-- Where a tensor lies: in a region from an offset, or at an address in DPA or in bank-local space (R303). -/
inductive LyAt where
  | region (key off : Nat)
  | bank (loc : Bool) (addr : Nat)
  deriving DecidableEq, Repr

/-- The byte of a tensor's space where the tensor begins. -/
def LyAt.base (a : LyAt) : Nat :=
  match a with
  | .region _ off => off
  | .bank _ addr => addr

/-- A line the banks do not give: of a fenced rank, or of one out of DPA (08 R219, R243). -/
def lyDead (s : State) (loc : Bool) (line : Nat) : Bool :=
  let k := lineRank s loc line
  isFenced s k.1 k.2 || (!loc && isUnpop s k.1 k.2)

/-- Whether a line of a tensor lies on a fenced rank (R317, 08 R243). -/
def lyFenced (s : State) (a : LyAt) (line : Nat) : Bool :=
  match a with
  | .region _ _ => false
  | .bank loc _ => isFenced s (lineRank s loc line).1 (lineRank s loc line).2

/-- A line whose Marl quadrant or bank controller is clipped, or whose rank runs at halved tREFI (16 R424). -/
def lySlow (s : State) (a : LyAt) (line : Nat) : Bool :=
  match a with
  | .region _ _ => false
  | .bank loc _ =>
    let k := lineRank s loc line
    islClip s (islMarl (k.1 / 4)) || islClip s (islBc k.1) || (bc s k.1).halved.getLsbD k.2

/-- A line as the engine reads it, and its poison (R304, R311). -/
def lyRead (s : State) (a : LyAt) (line : Nat) : Line × Bool :=
  match a with
  | .region key _ => ((readRegion s key (64 * line)).data, (readRegion s key (64 * line)).poison)
  | .bank loc _ => if lyDead s loc line then (Config.poisonedLine s.freeCtr, true) else marlLine s (lineWords s loc line)

/-- Commit the masked bytes of a line (R304), in the banks themselves where the pass lane has no room for it (02 R46); a line
of a rank that takes no writes is not written. -/
def lyWrite (a : LyAt) (line : Nat) (d : Line) (mask : BitVec 64) (p : Bool) (s : State) : State :=
  match a with
  | .region key _ =>
    let l := regionLine s key (64 * line)
    commitSram l.1 l.2 d mask p s
  | .bank loc _ =>
    if lyDead s loc line then s
    else
      let ws := lineWords s loc line
      let k := lineRank s loc line
      commitThrough ws d mask p k.1 k.2 s

/-- The source and the destination of the head of a layout queue. -/
def lyEnds (k : QCmd) : LyAt × LyAt :=
  match k.ctx with
  | some _ =>
    let g (i : Nat) : LyAt := .region (k.offs.getD i (0, 0)).1 (k.offs.getD i (0, 0)).2
    (g 1, g 2)
  | none =>
    let g (i : Nat) : LyAt := .bank (bitAt (wordAt k.words i) 39) (bits (wordAt k.words i) 0 39)
    (g 1, g 2)

/-- The lines that hold the bits of some elements. -/
def linesOf (base : Nat) (l : List (Nat × Nat)) : List Nat := (l.map (fun b => (base + b.1) / 64)).dedup

/-- The value of an element from the lines read. -/
def lyValue (t : Tab (Line × Bool)) (base : Nat) (l : List (Nat × Nat)) : Nat :=
  l.foldr (fun b n =>
    let o := base + b.1
    let line := (tget (0#512, false) t (o / 64)).1
    2 * n + (if line.getLsbD (o % 64 * 8 + b.2) then 1 else 0)) 0

/-- The bits a step writes, by line: their values and which they are. -/
def lyPut (t : Tab (Nat × Nat)) (base : Nat) (l : List (Nat × Nat)) (v : Nat) : Tab (Nat × Nat) :=
  (l.zip (List.range l.length)).foldl
    (fun u b =>
      let o := base + b.1.1
      let at_ := o % 64 * 8 + b.1.2
      let old := tget (0, 0) u (o / 64)
      tput u (o / 64) (old.1 + bitIf (bitAt v b.2) at_, old.2 + 2 ^ at_)) t

/-- The bytes of a line of which some bit is written. -/
def lyByteMask (m : Nat) : BitVec 64 :=
  BitVec.ofNat 64 ((List.range 64).foldl (fun n i => n + bitIf (decide (bits m (8 * i) 8 ≠ 0)) i) 0)

/-- The lines of the column pairs of which a step does not write every bit: `pairs` holds, by pair from the tensor's
base, the bits written (R308, R311). -/
def lyKeptLines (base : Nat) (pairs : Tab (Nat × Nat)) : List Nat :=
  ((pairs.filter (fun e => decide (e.2.2 ≠ 2 ^ 512 - 1))).flatMap
    (fun e => [base / 64 + e.1, (base + 63) / 64 + e.1])).dedup

/-- Read lines once each; what a line that is not given holds is free value k of the step or a later one. -/
def lyFetch (s : State) (k : Nat) (a : LyAt) (lines : List Nat) : Tab (Line × Bool) :=
  (lines.zip (List.range lines.length)).foldl (fun t l => tput t l.1 (lyRead { s with freeCtr := s.freeCtr + k + l.2 } a l.1)) []

/-- The corrected reads of the bank lines of a step are counted (08 R239). -/
def lyNote (a : LyAt) (lines : List Nat) (s : State) : State :=
  match a with
  | .region _ _ => s
  | .bank loc _ => lines.foldl (fun s' l => if lyDead s' loc l then s' else noteLineRead (lineWords s' loc l) s') s

/-- Lines that a step would read or write wait for a bank: it is in a frequency change or grain-owned (07 R201, 08 R237). -/
def lyWaits (s : State) (a : LyAt) (write : Bool) (lines : List Nat) : Bool :=
  match a with
  | .region _ _ => false
  | .bank loc _ => lines.any (fun l =>
      let ws := lineWords s loc l
      let k := lineRank s loc l
      !lyDead s loc l && (if write then storeHeld s k.1 k.2 ws && ws.any (fun w => !bankTakes s (wordLoc w)) else readWaits s ws))

/-- A step of a command waits for the banks of its lines. -/
def lyHeld (s : State) (k : QCmd) (step : Nat) : Bool :=
  let ws := k.words
  let ends := lyEnds k
  let moves := lyMoves ws step
  let src := linesOf ends.1.base (moves.flatMap (fun m =>
    (m.src.map (fun x => lyBits (lySrcFmt ws) (lyM ws 0) (lyM ws 1) x.1 x.2.1 x.2.2)).getD []))
  let dst := linesOf ends.2.base (moves.flatMap (fun m => lyBits (lyDstFmt ws) (lyQ ws 0) (lyQ ws 1) m.dst.1 m.dst.2.1 m.dst.2.2))
  lyWaits s ends.1 false src || lyWaits s ends.2 true dst || ((lyDstFmt ws).planes && lyWaits s ends.2 false dst)

/-- What one step of a command comes to: every read before any write (R311); a poisoned read, and an uncorrectable error in a
tile buffer, poison every line the step writes (R317). -/
def lyStep (k : QCmd) (step : Nat) (ecc : Ecc) (s : State) : State :=
  let ws := k.words
  let fs := lySrcFmt ws
  let fd := lyDstFmt ws
  let ends := lyEnds k
  let moves := lyMoves ws step
  let srcOf (x : Nat × Nat × Nat) : List (Nat × Nat) := lyBits fs (lyM ws 0) (lyM ws 1) x.1 x.2.1 x.2.2
  let srcLines := linesOf ends.1.base (moves.flatMap (fun m => (m.src.map srcOf).getD []))
  let t := lyFetch s 0 ends.1 srcLines
  let val (m : LyMove) : Nat := match m.src with
    | some x => lyConvert fs fd (lyValue t ends.1.base (srcOf x))
    | none => lyFillOf fd (lyFill ws)
  let put (base : Nat) (u : Tab (Nat × Nat)) (m : LyMove) : Tab (Nat × Nat) :=
    lyPut u base (lyBits fd (lyQ ws 0) (lyQ ws 1) m.dst.1 m.dst.2.1 m.dst.2.2) (val m)
  let out := moves.foldl (put ends.2.base) []
  let partial_ := if fd.planes then lyKeptLines ends.2.base (moves.foldl (put 0) []) else []
  let old := lyFetch s srcLines.length ends.2 partial_
  let p := t.any (fun e => e.2.2) || old.any (fun e => e.2.2) || eccBad ecc
  let fenced := srcLines.any (lyFenced s ends.1) || out.any (fun e => lyFenced s ends.2 e.1)
  let slow := srcLines.any (lySlow s ends.1) || out.any (fun e => lySlow s ends.2 e.1)
  let s1 := lyNote ends.1 srcLines (lyNote ends.2 partial_ { s with freeCtr := s.freeCtr + srcLines.length + partial_.length })
  let s2 := out.foldl (fun s' e =>
    let d := mergeBits ((tget (0#512, false) old e.1).1.toNat) e.2.1 e.2.2
    lyWrite ends.2 e.1 (BitVec.ofNat 512 d) (lyByteMask e.2.2) p s') s1
  let s3 := if p then addCond k.place .poisoned s2 else s2
  clipDesc k.place slow (if fenced then addCond k.place .fenced s3 else s3)
where
  /-- The bits of `new` that `m` names, over those of `old`. -/
  mergeBits (old new m : Nat) : Nat := old - (old &&& m) + new

/-! ### The commands -/

/-- The head of LYn's queue. -/
def lyHead (s : State) (n : LyNo) : Option QCmd := (queue s (8 + n.val)).head?

/-- A COPY that has started may leave its destination undefined (R316, 04 R120). -/
def noteCopy (k : QCmd) (s : State) : State :=
  match (lyEnds k).2 with
  | .bank loc base =>
    noteSpan k.place { loc := loc, line := base / 64, lines := (base + dstExtent k.words + 63) / 64 - base / 64 } s
  | .region _ _ => s

/-- LAYOUT_COMMAND: the head of LYn's queue starts (R303). -/
def execLayoutCommand (n : LyNo) (s : State) : Host.Outcome State Fault Refusal :=
  match lyHead s n with
  | none => ok s
  | some k =>
    if k.started || !s.boot.relLay then ok s
    else
      let j : LyJob := { words := k.words, place := k.place, step := 0, started := true, poisoned := false }
      let s1 := noteCopy k (putHead (8 + n.val) { k with started := true, since := now s } s)
      ok { s1 with eng := { s1.eng with lys := tput s1.eng.lys n.val j } }

/-- HOST latches the report of a COPY's first step: its commit point (R316). -/
def copyCommitted (p : Place) (s : State) : State :=
  match desc s p with
  | some d => setDesc p { d with committed := true } s
  | none => s

/-- LAYOUT_STEP: LYn reads and then writes the next block of its command (R310, R311), once the banks it needs are free. -/
def execLayoutStep (n : LyNo) (ecc : Ecc) (s : State) : Host.Outcome State Fault Refusal :=
  match lyHead s n, tfind s.eng.lys n.val with
  | some k, some j =>
    if k.started && !k.fin && decide (j.step < lySteps k.words) && !lyHeld s k j.step then
      let s0 := if k.ctx.isNone && decide (j.step = 0) then copyCommitted k.place s else s
      let quads := match lyEnds k with
        | (.region a _, .region b _) => islClip s (islMarl (regionLine s a 0).1.val) || islClip s (islMarl (regionLine s b 0).1.val)
        | _ => false
      let s1 := clipDesc k.place (islClip s islLay || s.pwr.holding || quads) (lyStep k j.step ecc s0)
      let s2 := countEv 0x50 n.val (cmdFunc s k) 1 s1
      let last := decide (j.step + 1 = lySteps k.words)
      let s3 := putHead (8 + n.val) { k with fin := last, since := now s } s2
      ok { s3 with eng := { s3.eng with lys := if last then terase s3.eng.lys n.val
                                              else tput s3.eng.lys n.val { j with step := j.step + 1 } } }
    else ok s
  | _, _ => ok s

/-! ### COPY (R303, R304, R313) -/

/-- The layout queue that holds fewer commands, LY0 on a tie (R303). -/
def copyQueue (s : State) : QueueNo := if (queue s 9).length < (queue s 8).length then 9 else 8

/-- HOST enters a COPY into a layout queue. -/
def enterCopy (p : Place) (d : Desc) (q : QueueNo) (s : State) : State :=
  let n := tget 0 s.seq.pushNo q.val
  let k : QCmd :=
    { ctx := none, place := p, push := { queue := q, cmd := .layout 0 0 0, flag := none, wire := none, value := none },
      words := d.words, offs := [], reads := [], writes := [], slot := none, pops := [], pushNo := n, started := false,
      fin := false, since := now s, result := none }
  let s1 := setQueue q.val (queue s q.val ++ [k]) s
  setDesc p { d with stage := .running } { s1 with seq := { s1.seq with pushNo := tset 0 s1.seq.pushNo q.val (n + 1) } }

/-- COPY: its staging block, its entry into a queue; it waits for a pool block and for a queue entry. Its extents were
checked at its admission (04 R113). -/
def execCopy (p : Place) (s : State) : Host.Outcome State Fault Refusal :=
  match startable s p 0x20 with
  | none => ok s
  | some d =>
    if marlQuotaOf s d.func.val < blocksHeld s d.func + 1 then ok (endDesc p .quota 0 s)
    else
      match placeRegion s s.marl.regions .staging none (some p) d.func 1 none with
      | none => ok s
      | some (rs, _) =>
        if 64 ≤ (queue s (copyQueue s).val).length then ok s
        else ok (enterCopy p d (copyQueue s) { s with marl := { s.marl with regions := rs } })

end Sys2Proof.Machine
end

