-- ==== Sys2Proof/Machine/EngineEnd.lean ====
section
/-! DEFINITION. How engine commands end: completion (09 R261, R263), fills and drains (09 Table 9.3), the engine watchdog
(12 R336, 10 R301, 11 R317), and what an FLR ends after 50 ms (03 R78). -/

namespace Sys2Proof.Machine

/-! ### Fills and drains -/

/-- A fill reads bank lines into its operand, line by line (09 Table 9.3); a line past what the operand may use is not
written (log entry 46). -/
def fillLine (k : QCmd) (dst : Src) (loc : Bool) (line i : Nat) (s : State) : State :=
  match dst with
  | .mem key off lim =>
    let a : LyAt := .bank loc 0
    let v := lyRead s a (line + i)
    let s1 := takeFree (lyNote a [line + i] s)
    let s2 := if 64 * (i + 1) ≤ lim then writeRegion key (off + 64 * i) { data := v.1, poison := v.2 } s1 else s1
    let s3 := if v.2 then addCond k.place .poisoned s2 else s2
    if lyFenced s a (line + i) then addCond k.place .fenced s3 else s3
  | _ => s

/-- A line of a drain's operand; one past what the operand may use is free (log entry 46). -/
def drainData (s : State) (key off lim i : Nat) : SramLine :=
  if 64 * (i + 1) ≤ lim then readRegion s key (off + 64 * i) else { data := Config.poisonedLine (s.freeCtr + i), poison := false }

/-- What a drained line does beside its write to the bank: its poison and its fence are conditions, its lines may be left
undefined, and a line with a copy in the Marl is written there (02 R42). -/
def drainLine (k : QCmd) (key off lim : Nat) (loc : Bool) (line i : Nat) (s0 s : State) : State :=
  let v := drainData s0 key off lim i
  let ws := lineWords s0 loc (line + i)
  let s1 := noteSpan k.place { loc := loc, line := line + i, lines := 1 } (if v.poison then addCond k.place .poisoned s else s)
  if lyFenced s0 (.bank loc 0) (line + i) then addCond k.place .fenced s1
  else if lyDead s0 loc (line + i) then s1
  else if ws.any (fun w => (copyOf s0 w).isSome) then commitLine ws v.data (BitVec.allOnes 64) v.poison s1
  else s1

/-- The writes to the banks of a drain: of the lines that no copy in the Marl holds, and that the banks take. -/
def drainWrites (s : State) (key off lim : Nat) (loc : Bool) (line lines : Nat) : List WordWrite :=
  (List.range lines).flatMap (fun i =>
    let ws := lineWords s loc (line + i)
    if lyDead s loc (line + i) || ws.any (fun w => (copyOf s w).isSome) then []
    else lineWrites ws (drainData s key off lim i).data (BitVec.allOnes 64) (drainData s key off lim i).poison)

/-- A drain writes lines of its operand to bank lines, those of one channel unit together (08 R229). -/
def drainAll (k : QCmd) (src : Src) (loc : Bool) (line lines : Nat) (s : State) : State :=
  match src with
  | .mem key off lim =>
    let s1 := (List.range lines).foldl (fun s' i => drainLine k key off lim loc line i s s') s
    let s2 := writeWords (drainWrites s key off lim loc line lines) s1
    { s2 with freeCtr := s2.freeCtr + lines }
  | _ => s

/-- Bind the lines of a region that a fill has just filled to their bank lines (02 R35, R42; log entry 95): what the pass
lane holds of them dirty now belongs to the region. -/
def bindFill (dst : Src) (loc : Bool) (line lines : Nat) (s : State) : State :=
  match dst with
  | .mem key off lim =>
    let n := min lines (lim / 64)
    let own (c : Copy) : Copy := { c with region := some key, data := 0#256, mask := BitVec.allOnes 32, poison := false }
    let s1 := ((List.range n).flatMap (fun i => lineWords s loc (line + i))).foldl
      (fun s' w => match copyOf s' w with
        | some c => setCopy w (own c) s'
        | none => s') s
    { s1 with marl := { s1.marl with binds := s1.marl.binds ++ [{ region := key, off := off, line := line, loc := loc, lines := n }] } }
  | _ => s

/-- A binding over these lines would overlap one in force, or find the 512 bindings taken: the fill waits (02 R35, R42). -/
def bindWaits (s : State) (loc : Bool) (line lines : Nat) : Bool :=
  decide (512 ≤ s.marl.binds.length) || ((List.range lines).flatMap (fun i => lineWords s loc (line + i))).any (fun w =>
    (bindingOf s w).isSome)

/-- A fill or a drain waits: for a free entry of the region table and staging of its bank controller (02 R34, R36, R51), for
the banks of its lines (07 R201, 08 R237), or for its binding. -/
def transferWaits (s : State) (c : Nat) (cmd : EngCmd) : Bool :=
  let held (loc : Bool) (line lines : Nat) (write : Bool) : Bool := (List.range lines).any (fun i =>
    let ws := lineWords s loc (line + i)
    !lyDead s loc (line + i) && (if write then ws.any (fun w => (copyOf s w).isNone && !bankTakes s (wordLoc w)) else readWaits s ws))
  let full := !entryFree s s.marl.regions || decide (bcStageBlocks s c = 0)
  match cmd with
  | .fill _ line loc lines bind => full || held loc line lines false || (bind && bindWaits s loc line lines)
  | .drain _ line loc lines => full || held loc line lines true
  | _ => false

/-- The head of a bank controller's queue, a fill or a drain, does its work as it completes. -/
def bcTransfer (k : QCmd) (s : State) : State :=
  let a := (cmdSrcs s k).getD 0 (.imm 0#32)
  match k.push.cmd with
  | .fill _ line loc lines bind =>
    let s1 := (List.range lines).foldl (fun s' i => fillLine k a loc line i s') s
    if bind then bindFill a loc line lines s1 else s1
  | .drain _ line loc lines => drainAll k a loc line lines s
  | _ => s

/-- Whether a command is a fill or a drain. -/
def isTransfer (k : EngCmd) : Bool :=
  match k with
  | .fill .. => true
  | .drain .. => true
  | _ => false

/-! ### ENGINE_COMMAND_COMPLETE -/

/-- The head of a queue completes: a COPY ends its descriptor with a detail word of 0 (11 R304). -/
def finishHead (q : QueueNo) (k : QCmd) (s : State) : State :=
  let s1 := completeCmd q.val k s
  if k.ctx.isNone then endDesc k.place .done 0 s1 else s1

/-- The command of a queue that completes next: the first that is done; else the first that has not been started, behind
grain commands that run (09 R257). -/
def nextDone (s : State) (q : Nat) : Option QCmd :=
  match (queue s q).find? (fun k => k.fin) with
  | some k => some k
  | none => (queue s q).find? (fun k => !k.started)

/-- ENGINE_COMMAND_COMPLETE (09 R261, R263; 12 R324); a fill or a drain that still waits does not complete. -/
def execEngineCommandComplete (q : QueueNo) (s : State) : Host.Outcome State Fault Refusal :=
  match nextDone s q.val with
  | none => ok s
  | some k =>
    if k.fin then ok (finishHead q k s)
    else if isTransfer k.push.cmd && s.boot.relBc.getLsbD (q.val - 10) && slotsReady s k
        && !transferWaits s (q.val - 10) k.push.cmd then ok (finishHead q k (bcTransfer k s))
    else ok s

/-! ### The engine watchdog -/

/-- The watchdog's period in ns. -/
def wdEngNs (s : State) : Nat := s.hub.wdEng.toNat * 1000000

/-- A queue's head that makes no progress: started and not done, or waiting on a stream slot (R336, 09 R259). -/
def stuck (s : State) (k : QCmd) : Bool := !k.fin && (k.started || !slotsReady s k)

/-- Its head has stood without progress for the period. -/
def expired (s : State) (q : Nat) : Bool :=
  ((queue s q).head?).any (fun k => stuck s k && decide (k.since.toNat + wdEngNs s ≤ (now s).toNat))

/-- The stream end a stuck head waits on: its stream and slot. -/
def stuckSlot (s : State) (k : QCmd) : Option (Nat × Nat) :=
  match k.ctx.bind (fun x => ctx s x.val) with
  | none => none
  | some c =>
    match k.pops.find? (fun p => !(tfind c.streams p.1.val).any (fun t => decide (p.2 ∈ t.filled))) with
    | some p => some (p.1.val, p.2)
    | none => if slotsReady s k then none else k.slot.map (fun p => (p.1.val, p.2))

/-- Log a firing at an engine's island (R337, 19 Table 19.9). -/
def logEngine (isl : Nat) (k : QCmd) (s : State) : State :=
  let st := ((k.ctx.bind (fun x => ctx s x.val)).map (fun c => cstateCode c.st)).getD 0
  let o := match stuckSlot s k with
    | some (j, n) => 6 * 2 ^ 8 + j * 2 ^ 16 + n % 65536 * 2 ^ 32
    | none => 0
  match desc s k.place with
  | some d => logFn 0x04 0x02 (locOf 3 isl) d.func (st + o) d.hsn.toNat s
  | none => s

/-- A command that the reset of its engine ends: a started one completes its flag and its wire (R336, DEDUCED, log entry
47); its context ends with WATCHDOG, a COPY at once. -/
def endAffected (k : QCmd) (s : State) : State :=
  match k.ctx with
  | none => endDesc k.place .watchdog 0 s
  | some x =>
    let s1 := if stuck s k then
        (match k.push.wire with
          | some w => arriveWire w (completeFlag x k.push s)
          | none => completeFlag x k.push s)
      else s
    stopCtx x (addCond k.place .watchdog s1)

/-- The reset of an MX island (10 R301). -/
def resetMx (n : Nat) (s : State) : State :=
  let ks := queue s n ++ queue s (4 + n)
  let s1 := setQueue (4 + n) [] (setQueue n [] s)
  let s2 := setMx n Mx.reset { s1 with seq := { s1.seq with claims := s1.seq.claims.filter (fun c => decide (c.mx ≠ n)) } }
  ks.foldl (fun s' k => endAffected k s') s2

/-- The reset of a layout engine (R336, 11 R317). -/
def resetLy (n : Nat) (s : State) : State :=
  let ks := queue s (8 + n)
  let s1 := setQueue (8 + n) [] s
  let s2 := { s1 with eng := { s1.eng with lys := terase s1.eng.lys n } }
  ks.foldl (fun s' k => endAffected k s') s2

/-- Grain work that runs at a rank: issued, and a run or a ready-mode Spread (R336). -/
def runningP1 (s : State) (c r : Nat) : List (Nat × P1) :=
  (p1At s c r).filter (fun k => k.2.issued && (match k.2.kind with
    | .grun _ => true
    | .spread _ _ _ _ => (die s (dieNo c r 0)).ready
    | _ => false))

/-- HALTG to the grains of a P1 command, which ends with WATCHDOG (R336, 05 R159). -/
def haltP1 (c : Nat) (k : P1) (s : State) : State :=
  let s1 := (p1Grains s c k).foldl (fun s' g => haltGrain g s') s
  match k.place with
  | some p => addCond p .watchdog s1
  | none => s1

/-- The firing for grain work: logged at its rank's first die island (log entry 47). -/
def fireGrains (c r : Nat) (k : Nat × P1) (s : State) : State :=
  let hsn := ((k.2.place.bind (desc s)).map (fun d => d.hsn.toNat)).getD 0
  haltP1 k.1 k.2 (logFn 0x04 0x02 (locOf 3 (islGrain c r 0)) k.2.func 0 hsn s)

/-- ENGINE_WATCHDOG_EXPIRY (R336). -/
def execEngineWatchdogExpiry (e : WdEngine) (s : State) : Host.Outcome State Fault Refusal :=
  match e with
  | .mx n =>
    let q := if expired s n.val then n.val else 4 + n.val
    if expired s n.val || expired s (4 + n.val) then
      match (queue s q).head? with
      | some k => ok (resetMx n.val (logEngine (islMx n.val) k s))
      | none => ok s
    else ok s
  | .ly n =>
    match (queue s (8 + n.val)).head? with
    | some k => if expired s (8 + n.val) then ok (resetLy n.val (logEngine islLay k s)) else ok s
    | none => ok s
  | .grains c r =>
    let ks := (runningP1 s c.val r.val).filter (fun k => decide (k.2.since.toNat + wdEngNs s ≤ (now s).toNat))
    ok (ks.foldl (fun s' k => fireGrains c.val r.val k s') s)

/-! ### FLR_WORK_TIMEOUT (03 R78) -/

/-- A queue's head that has not stopped works for a function. -/
def holdsWork (s : State) (f : Func) (q : Nat) : Bool :=
  ((queue s q).head?).any (fun k => stuck s k && decide (cmdFunc s k = some f))

/-- End a hub-handled descriptor that still runs: its grain commands that have not gone out are removed; a PAGE_RETURN
keeps its clear (14 R375). -/
def endRunning (p : Place) (s : State) : State :=
  match desc s p with
  | some d =>
    if d.stage = .running ∧ d.ctx.isNone ∧ opcodeOf d.words ≠ 0x51 then
      let s1 := dropP1 p { s with serve := { s.serve with shipsOut := terase s.serve.shipsOut p.val } }
      let left := d.prog.ranks.filter (fun n => (bc s1 (n / 4)).p1.any (fun k => decide (k.place = some p ∧ k.rank = n % 4)))
      let s2 := setDesc p { d with prog := { d.prog with ranks := left }, conds := addStatus .watchdog d.conds } s1
      if left = [] then endDesc p .watchdog 0 s2 else s2
    else s
  | none => s

/-- FLR_WORK_TIMEOUT: 50 ms after its FLR write, a VF's work that has not stopped is ended as the engine watchdog ends
work. -/
def execFlrWorkTimeout (f : Func) (s : State) : Host.Outcome State Fault Refusal :=
  match tfind s.cxl.flrs f.val with
  | none => ok s
  | some t =>
    if (now s).toNat < t.toNat + 50000000 then ok s
    else
      let s1 := (List.range 4).foldl (fun s' n =>
        if holdsWork s' f n || holdsWork s' f (4 + n) then resetMx n s' else s') s
      let s2 := (List.range 2).foldl (fun s' n => if holdsWork s' f (8 + n) then resetLy n s' else s') s1
      let s3 := (List.range 16).foldl (fun s' c =>
        ((bc s' c).p1.filter (fun k => k.issued && decide (k.func = f))).foldl (fun s'' k => haltP1 c k s'') s') s2
      let mine := placesOf (s3.places.filter (fun q => decide (q.2.func = f) && q.2.discard))
      ok (mine.foldl (fun s' p => endRunning p s') s3)

end Sys2Proof.Machine
end

