-- ==== Sys2Proof/Machine/Layers.lean ====
section
/-! DEFINITION. What a STEP computes (13 R349 to R361): the manifest and the batch rows, weight products in the order of
R354, weight tiles (R355), attention partials combined, adapter deltas (R358, R359), and the K, V and logits that come of
them. Where the weights of a tile lie, the norms, the rotation of K and the grains' attention partials are private to the
resident routines (R342): free functions of what R350 lets a row depend on (log entries 19, 112). -/

namespace Sys2Proof.Machine

/-! ### Reads of DPA -/

/-- The 64-byte line that holds a DPA byte, and its poison. -/
def dpaLine (s : State) (a : Nat) : Line × Bool := marlLine s (lineWords s false (a / 64))

/-- The little-endian number of n bytes at a DPA, inside one line. -/
def dpaNat (s : State) (a n : Nat) : Nat := (dpaLine s a).1.toNat / 2 ^ (8 * (a % 64)) % 2 ^ (8 * n)

/-! ### The manifest header (13 Table 13.1) -/

/-- The DPA of a slot's manifest, and its header. -/
def manAddr (s : State) (f k : Nat) : Nat := (modelOf s f k).inForce.toNat
def manLayers (h : List U64) : Nat := bits (wordAt h 0) 48 16
def manHidden (h : List U64) : Nat := bits (wordAt h 1) 0 16
def manQHeads (h : List U64) : Nat := bits (wordAt h 1) 16 8
def manKvHeads (h : List U64) : Nat := bits (wordAt h 1) 24 8
def manHeadDim (h : List U64) : Nat := 64 * 2 ^ bits (wordAt h 1) 32 2
def manFf (h : List U64) : Nat := bits (wordAt h 2) 0 32
def manVocab (h : List U64) : Nat := bits (wordAt h 2) 32 32
def manSpan (h : List U64) : Nat := bits (wordAt h 4) 32 16
def manWeights (h : List U64) : Nat × Nat := (bits (wordAt h 4) 0 12, bits (wordAt h 4) 16 12)
def manWork (h : List U64) : Nat × Nat := (bits (wordAt h 5) 0 12, bits (wordAt h 5) 16 12)
def manAdapters (h : List U64) : Nat := wordAt h 6
def manAdapterCount (h : List U64) : Nat := bits (wordAt h 7) 0 16

/-- Every field of the header lies in its range. -/
def manRanges (h : List U64) : Bool :=
  let len := bits (wordAt h 0) 32 16
  decide (1 ≤ len ∧ len ≤ 4096 ∧ 1 ≤ manLayers h ∧ manLayers h ≤ 256)
    && decide (manHidden h % 128 = 0 ∧ 128 ≤ manHidden h ∧ manHidden h ≤ 16384)
    && decide (1 ≤ manQHeads h ∧ 1 ≤ manKvHeads h ∧ manQHeads h % manKvHeads h = 0 ∧ bits (wordAt h 1) 32 2 ≠ 3)
    && decide (manFf h % 128 = 0 ∧ 2 ≤ manVocab h ∧ manVocab h ≤ 2 ^ 24 ∧ bits (wordAt h 3) 0 3 ≤ 4)
    && decide (manAdapters h % 64 = 0 ∧ manAdapterCount h ≤ 4095)

/-! ### Batch-table rows (13 Table 13.3) -/

def rowKind (r : List U64) : Nat := bits (wordAt r 0) 0 2
def rowLast (r : List U64) : Bool := bitAt (wordAt r 0) 2
def rowTopK (r : List U64) : Nat := bits (wordAt r 0) 8 7
def rowAdapter (r : List U64) : Nat := bits (wordAt r 0) 16 16
def rowKvLen (r : List U64) : Nat := bits (wordAt r 1) 0 32
def rowCount (r : List U64) : Nat := bits (wordAt r 1) 32 13
def rowTemp (r : List U64) : Nat := bits (wordAt r 1) 48 16
def rowSeed (r : List U64) : U32 := BitVec.ofNat 32 (bits (wordAt r 3) 0 32)
def rowDeadline (r : List U64) : Nat := bits (wordAt r 3) 32 32
def rowPrefill (r : List U64) : Bool := decide (rowKind r = 2)

/-- Token j of a decode or verify row. -/
def rowToken (r : List U64) (j : Nat) : Nat := bits (wordAt r (4 + j / 2)) (32 * (j % 2)) 32

/-- The spans of a row: how many, and their page identifiers (13 R352). -/
def spanCount (r : List U64) : Nat := (rowKvLen r + rowCount r + 511) / 512
def spanIds (s : State) (r : List U64) : List Nat :=
  (List.range (spanCount r)).map (fun i => dpaNat s (bits (wordAt r 2) 0 39 + 4 * i) 4)

/-- Every page of every span of a row. -/
def rowPages (s : State) (h r : List U64) : List Nat :=
  (spanIds s r).flatMap (fun p => (List.range (manSpan h)).map (fun i => p + i))

/-- The token array of a prefill row. -/
def prefillTokens (s : State) (r : List U64) : List Nat :=
  (List.range (rowCount r)).map (fun i => dpaNat s (bits (wordAt r 4) 0 39 + 4 * i) 4)

/-! ### What a row depends on (R350) -/

/-- The lines of a manifest: its header and the placement tables, which are private (R342). -/
def manLines (s : State) (a : Nat) (h : List U64) : List Line :=
  (List.range (64 * bits (wordAt h 0) 32 16)).map (fun i => (dpaLine s (a + 64 * i)).1)

/-- A row being served: its model's manifest, its own words, and memory as it stands. -/
structure RowIn where
  s : State
  man : List Line
  h : List U64
  row : List U64

/-- A bank-local line: of the model's weight pages, and of the row's spans (R350). -/
def localLine (s : State) (line : Nat) : Line := (marlLine s (lineWords s true line)).1
def RowIn.weights (x : RowIn) (line : Nat) : Line :=
  let w := manWeights x.h
  if w.1 ≤ line / 1024 % 4096 ∧ line / 1024 % 4096 ≤ w.2 then localLine x.s line else 0#512
def RowIn.span (x : RowIn) (i line : Nat) : Line :=
  localLine x.s ((spanIds x.s x.row).getD i 0 * 1024 + line)

/-- Lane l of a line of 32 bf16 lanes. -/
def laneOf (d : Line) (l : Nat) : U16 := d.extractLsb' (16 * l) 16

/-! ### Weight products (R354, R355) -/

/-- The matrices of a layer, numbered as an adapter's targets are (Table 13.6), and the output head: their inputs and their
outputs. -/
def matIn (h : List U64) (t : Nat) : Nat :=
  match t with
  | 3 => manQHeads h * manHeadDim h
  | 6 => manFf h
  | _ => manHidden h
def matOut (h : List U64) (t : Nat) : Nat :=
  match t with
  | 0 => manQHeads h * manHeadDim h
  | 1 => manKvHeads h * manHeadDim h
  | 2 => manKvHeads h * manHeadDim h
  | 4 => manFf h
  | 5 => manFf h
  | 7 => manVocab h
  | _ => manHidden h

/-- Weights are bf16 (Table 13.1 wfmt). -/
def manBf16 (h : List U64) : Bool := decide (bits (wordAt h 3) 0 3 = 0)

/-- The tiles of 32 outputs by 128 inputs of an output row group, in ascending order of their inputs, each with the grain
that holds it (private, R342). -/
def groupTiles (x : RowIn) (layer t group : Nat) : List (Nat × Nat) :=
  (List.range ((matIn x.h t + 127) / 128)).map (fun k => (Config.tileGrain x.man layer t group k % 2048, k))

/-- The weight of output o and input i: column pair i of the tile's slot of 8 KiB holds the 32 outputs of its input i, as MACC
reads it (06 R172; DEDUCED, log entry 112). -/
def weightAt (x : RowIn) (layer t o i : Nat) : U16 :=
  let g := Config.tileGrain x.man layer t (o / 32) (i / 128) % 2048
  let slot := Config.tileSlot x.man layer t (o / 32) (i / 128)
  laneOf (x.weights ((g * 4096 + (manWeights x.h).1) * 1024 + slot * 128 + i % 128)) (o % 32)

/-- What a grain forms of its tiles of a row group, for output o: from +0 in ascending order of the inputs (06 R172); of bit
planes it is free (log entry 112). -/
def grainPartial (x : RowIn) (layer t : Nat) (v : Nat → U16) (o : Nat) (tiles : List Nat) : U32 :=
  if manBf16 x.h then
    tiles.foldl (fun a k => (List.range 128).foldl
      (fun b j => if 128 * k + j < matIn x.h t then Fp.macc16 b (weightAt x layer t o (128 * k + j)) (v (128 * k + j)) else b) a) 0#32
  else Config.planePartial x.man x.weights layer t o tiles v

/-- Members of a list, each once, where it first stands. -/
def firsts (l : List Nat) : List Nat := l.foldl (fun a d => if d ∈ a then a else a ++ [d]) []

/-- The sum of a row group's partials (R354): in each run, the tiles on one die, along the Seam in ascending grain order; then
the runs in ascending order of their lowest input. -/
def groupSum (part : List Nat → U32) (tiles : List (Nat × Nat)) : U32 :=
  let run (die : Nat) : U32 :=
    let gs := (List.range 16).map (fun i => die * 16 + i)
    let ks (g : Nat) : List Nat := (tiles.filter (fun p => decide (p.1 = g))).map (fun p => p.2)
    (combAll Fp.add ((gs.filter (fun g => decide (ks g ≠ []))).map (fun g => part (ks g)))).getD 0#32
  (combAll Fp.add ((firsts (tiles.map (fun p => p.1 / 16))).map run)).getD 0#32

/-- Element (i, j) of the weight tile that a weight-stream slot holds, input tile kt by output tile nt, assembled from the four
grain tiles of its row groups (R355). -/
def weightTile (x : RowIn) (layer t kt nt i j : Nat) : U16 :=
  if 128 * kt + i < matIn x.h t ∧ 128 * nt + j < matOut x.h t then weightAt x layer t (128 * nt + j) (128 * kt + i) else 0#16

/-- A matrix engine's product: passes over the input tiles, in ascending order, each in ascending depth (10 R281). -/
def enginePass (a : Nat → U16) (b : Nat → Nat → U16) (tiles : Nat) : U32 :=
  (List.range tiles).foldl (fun acc kt => (List.range 128).foldl (fun n i => Fp.macc16 n (a (128 * kt + i)) (b kt i)) acc) 0#32

/-- An output element of a weight product, before any adapter: a decode or verify row's on the grains, a prefill row's on the
matrix engines (Table 13.4, R350). -/
def baseOut (x : RowIn) (layer t : Nat) (v : Nat → U16) (o : Nat) : U32 :=
  if rowPrefill x.row then
    if manBf16 x.h then
      enginePass (fun i => if i < matIn x.h t then v i else 0#16) (fun kt i => weightTile x layer t kt (o / 128) i (o % 128))
        ((matIn x.h t + 127) / 128)
    else Config.planePartial x.man x.weights layer t o [] v
  else groupSum (fun tiles => grainPartial x layer t v o tiles) (groupTiles x layer t (o / 32))

/-! ### Adapters (R357 to R359) -/

/-- A row's adapter record: its DPA, and a word of it. -/
def adapterAddr (h r : List U64) : Nat := manAdapters h + 64 * (rowAdapter r - 1)
def adapterWord (x : RowIn) (i : Nat) : Nat := dpaNat x.s (adapterAddr x.h x.row + 8 * i) 8

/-- Whether the adapter has a target; layers in ascending order hold their targets in ascending bit order (R358). -/
def hasTarget (x : RowIn) (t : Nat) : Bool := decide (t < 7) && bitAt (adapterWord x 0) (8 + t)

/-- Bytes of the two matrices of a target: A, in × 128, then B, 128 × out, in tiles of 128 × 128 bf16 (R358). -/
def adapterA (h : List U64) (t : Nat) : Nat := (matIn h t + 127) / 128 * 32768
def adapterB (h : List U64) (t : Nat) : Nat := (matOut h t + 127) / 128 * 32768

/-- The DPA of a target's A. -/
def targetAddr (x : RowIn) (layer t : Nat) : Nat :=
  let size (l : List Nat) : Nat := l.foldl (fun n u => if hasTarget x u then n + adapterA x.h u + adapterB x.h u else n) 0
  adapterWord x 1 + layer * size (List.range 7) + size (List.range t)

/-- A bf16 element at row r and column c of a matrix of q0 columns and q1 rows in such tiles (11 R307 with tr = tc = 7). -/
def tiledElem (s : State) (a q0 q1 r c : Nat) : U16 :=
  let f : LyFmt := { planes := false, w := 2, e := 2, tr := 128, tc := 128, sr := 1, sc := 1, cols := false }
  BitVec.ofNat 16 (dpaNat s (a + lyByte f q0 q1 c r 0) 2)

/-- δ := (X · A) · B of a target at output o, on the matrix engines; X · A enters the second product as bf16 (DEDUCED, log entry
112). -/
def adapterDelta (x : RowIn) (layer t : Nat) (v : Nat → U16) (o : Nat) : U32 :=
  let a := targetAddr x layer t
  let n := matIn x.h t
  let xa (c : Nat) : U16 := Fp.toBf16 (enginePass (fun i => if i < n then v i else 0#16)
    (fun kt i => tiledElem x.s a 128 n (128 * kt + i) c) ((n + 127) / 128))
  enginePass xa (fun _ i => tiledElem x.s (a + adapterA x.h t) (matOut x.h t) 128 i o) 1

/-- An output element of a target: y := round(y_base + round(scale × δ)); a row with adapter 0 receives no delta (R359). -/
def matElem (x : RowIn) (layer t : Nat) (v : Nat → U16) (o : Nat) : U32 :=
  let base := baseOut x layer t v o
  if rowAdapter x.row ≠ 0 ∧ hasTarget x t = true then
    Fp.add base (Fp.mul (BitVec.ofNat 32 (bits (adapterWord x 0) 32 32)) (adapterDelta x layer t v o))
  else base

/-! ### Attention (R353, R354) -/

/-- A span's partial: its maximum, its sum of exponentials, an element of its weighted values. -/
structure AttnPart where
  m : U32
  l : U32
  o : U32
  deriving DecidableEq, Repr

/-- One step of attn_combine, each operation rounded (R354). -/
def attnJoin (a b : AttnPart) : AttnPart :=
  let m := Fp.max32 a.m b.m
  let ea := Fp.exp (Fp.sub a.m m)
  let eb := Fp.exp (Fp.sub b.m m)
  { m := m, l := Fp.add (Fp.mul a.l ea) (Fp.mul b.l eb), o := Fp.add (Fp.mul a.o ea) (Fp.mul b.o eb) }

/-- attn_combine: the partials of the spans, in ascending order, then o / l. -/
def attnCombine (l : List AttnPart) : U32 :=
  match l with
  | [] => 0#32
  | a :: rest => Fp.div (rest.foldl attnJoin a).o (rest.foldl attnJoin a).l

/-- The attention output of query head `head`, element d, for position j: a partial for each span from its K and V and from
those that the row appends (Table 13.4, R351); the partial is private. -/
def attnOut (x : RowIn) (layer : Nat) (q : Nat → U32) (newK newV : Nat → Nat → U16) (head d j : Nat) : U32 :=
  let part (i : Nat) : AttnPart :=
    let z (n : Nat) : U32 := Config.attnPart (x.man, layer, head, d, rowPrefill x.row, 512 * i, rowKvLen x.row + j) (x.span i)
      newK newV q n
    { m := z 0, l := z 1, o := z 2 }
  attnCombine ((List.range ((rowKvLen x.row + j) / 512 + 1)).map part)

/-! ### Layers -/

/-- The token at position j of a row. -/
def tokenAt (x : RowIn) (j : Nat) : Nat := if rowPrefill x.row then (prefillTokens x.s x.row).getD j 0 else rowToken x.row j

/-- K and V of a layer, at position j, output o, from the layer's hidden states (R351). -/
def keyElem (x : RowIn) (layer : Nat) (hs : Nat → Nat → U16) (j o : Nat) : U16 :=
  Config.rotated x.man (rowKvLen x.row + j) o (matElem x layer 1 (Config.normed x.man x.weights (2 * layer) (hs j)))
def valueElem (x : RowIn) (layer : Nat) (hs : Nat → Nat → U16) (j o : Nat) : U16 :=
  Fp.toBf16 (matElem x layer 2 (Config.normed x.man x.weights (2 * layer) (hs j)) o)

/-- A residual is added after an output's delta (R354). -/
def addResidual (y : U32) (r : U16) : U16 := Fp.toBf16 (Fp.add y (Fp.ofBf16 r))

/-- The hidden states after a layer, from those before it, by position and index. -/
def layerStep (x : RowIn) (layer : Nat) (hs : Nat → Nat → U16) : Nat → Nat → U16 :=
  let a (j : Nat) : Nat → U16 := Config.normed x.man x.weights (2 * layer) (hs j)
  let d := manHeadDim x.h
  let att (j i : Nat) : U16 := Fp.toBf16 (attnOut x layer (matElem x layer 0 (a j))
    (fun j' o => keyElem x layer hs j' (i / d * manKvHeads x.h / manQHeads x.h * d + o))
    (fun j' o => valueElem x layer hs j' (i / d * manKvHeads x.h / manQHeads x.h * d + o)) (i / d) (i % d) j)
  let mid (j i : Nat) : U16 := addResidual (matElem x layer 3 (att j) i) (hs j i)
  let b (j : Nat) : Nat → U16 := Config.normed x.man x.weights (2 * layer + 1) (mid j)
  let act (j i : Nat) : U16 := Config.activated (bitAt (wordAt x.h 3) 8) (matElem x layer 4 (b j) i) (matElem x layer 5 (b j) i)
  fun j i => addResidual (matElem x layer 6 (act j) i) (mid j i)

/-- The hidden states before layer n. -/
def hiddenAt (x : RowIn) (n : Nat) : Nat → Nat → U16 :=
  match n with
  | 0 => fun j i => Config.embedded x.man x.weights (tokenAt x j) i
  | k + 1 => layerStep x k (hiddenAt x k)

/-- The logit of a vocabulary column at position j (R356). -/
def logitAt (x : RowIn) (j col : Nat) : U32 :=
  matElem x (manLayers x.h) 7 (Config.normed x.man x.weights (2 * manLayers x.h) (hiddenAt x (manLayers x.h) j)) col

end Sys2Proof.Machine
end

