-- ==== Sys2Proof/Machine/Serving.lean ====
section
/-! DEFINITION. Serving steps (13, 14): the manifest, the batch table and its checks, the admission gate, the load of a
STEP, work units, the choice of tokens, commits, and the output table. -/

namespace Sys2Proof.Machine

/-! ### The manifest (13 R343) -/

/-- The SEQ_FAULT code that LOAD gives a manifest, if any (13 R343). -/
def manFault (s : State) (f a : Nat) (h : List U64) : Option Nat :=
  let w := manWeights h
  let k := manWork h
  let inRange (r : Nat × Nat) : Bool := decide (r.1 ≤ r.2) && pageInRange s f r.1 && pageInRange s f r.2
  if bits (wordAt h 0) 0 32 ≠ 0x334C444D then some 0x01
  else if !manRanges h then some 0x04
  else if manSpan h ≠ 4 * manLayers h * manKvHeads h + 1 then some 0x04
  else if !inRange w || !inRange k || decide (w.1 ≤ k.2 ∧ k.1 ≤ w.2) then some 0x04
  else if !inWindow s f a (4096 * bits (wordAt h 0) 32 16) then some 0x04
  else if manAdapters h ≠ 0 ∧ inWindow s f (manAdapters h) (64 * manAdapterCount h) = false then some 0x04
  else none

/-! ### Checks of batch-table rows (13 R347) -/

/-- A temperature that is positive and finite. -/
def tempOk (t : Nat) : Bool :=
  match Fp.val16 (BitVec.ofNat 16 t) with
  | .fin neg m _ => !neg && decide (0 < m)
  | _ => false

/-- An adapter record with a reserved bit, or a rank out of range (13 R357). -/
def adapterBad (s : State) (h : List U64) (n : Nat) : Bool :=
  let a := manAdapters h + 64 * (n - 1)
  let w (i : Nat) : Nat := dpaNat s (a + 8 * i) 8
  let rank := bits (w 0) 0 7
  decide (rank < 1 ∨ 64 < rank) || bitAt (w 0) 7 || decide (bits (w 0) 15 17 ≠ 0)
    || [2, 3, 4, 5, 6, 7].any (fun i => decide (w i ≠ 0))

/-- Reserved bits of a row. -/
def rowRsvBits (r : List U64) : Bool :=
  let n := rowCount r
  let tail := if rowPrefill r then [5, 6, 7].any (fun i => decide (wordAt r i ≠ 0))
    else (List.range 8).any (fun j => decide (n ≤ j ∧ rowToken r j ≠ 0))
  decide (bits (wordAt r 0) 3 5 ≠ 0) || bitAt (wordAt r 0) 15 || decide (bits (wordAt r 1) 45 3 ≠ 0)
    || (rowLast r && !rowPrefill r) || tail

/-- Fields of a row that lie outside their ranges (13 Table 13.3, R347). -/
def rowRangeBad (s : State) (h r : List U64) : Bool :=
  let n := rowCount r
  let countOk := match rowKind r with
    | 0 => decide (n = 1)
    | 1 => decide (2 ≤ n ∧ n ≤ 8)
    | 2 => decide (1 ≤ n ∧ n ≤ 4096)
    | _ => false
  let a := rowAdapter r
  !countOk || decide (64 < rowTopK r) || decide (rowTopK r ≠ 0 ∧ tempOk (rowTemp r) = false)
    || decide (wordAt r 2 % 64 ≠ 0) || (rowPrefill r && decide (wordAt r 4 % 64 ≠ 0))
    || decide (524288 < rowKvLen r + n)
    || decide (a ≠ 0 ∧ (manAdapters h = 0 ∨ manAdapterCount h < a)) || (decide (a ≠ 0) && adapterBad s h a)

/-- A token id of vocab or more; a prefill row's array is read where the function owns it. -/
def rowTokensBad (s : State) (f : Nat) (h r : List U64) : Bool :=
  let n := rowCount r
  if rowPrefill r then
    inWindow s f (wordAt r 4) (4 * n) && (prefillTokens s r).any (fun t => decide (manVocab h ≤ t))
  else (List.range (min n 8)).any (fun j => decide (manVocab h ≤ rowToken r j))

/-- A row with RSV_NONZERO (13 R347): `before` is the adapter of the row before it. -/
def rowRsv (s : State) (f before : Nat) (h r : List U64) : Bool :=
  rowRsvBits r || rowRangeBad s h r || decide (rowAdapter r < before) || rowTokensBad s f h r

/-- A row that names what its function does not own (13 R347, R352): a row of too many positions is not read. -/
def rowAlien (s : State) (f : Nat) (h r : List U64) : Bool :=
  let lists := !inWindow s f (wordAt r 2) (4 * spanCount r)
    || (rowPrefill r && !inWindow s f (wordAt r 4) (4 * rowCount r))
  let span (p : Nat) : Bool :=
    decide (p / 4096 = (p + manSpan h - 1) / 4096)
      && (List.range (manSpan h)).all (fun i => decide (pageOwner s (p + i) = f + 1))
  if 524288 < rowKvLen r + rowCount r then lists else lists || !(spanIds s r).all span

/-! ### Structural checks and the footprint (13 R345, R348) -/

def sumCounts (l : List (List U64)) : Nat := (l.map rowCount).foldl (fun a b => a + b) 0

/-- Maximal runs of rows with one nonzero adapter. -/
def adapterSegments (l : List (List U64)) : Nat :=
  (l.foldl (fun (a : Nat × Nat) r =>
    (if rowAdapter r ≠ 0 ∧ rowAdapter r ≠ a.2 then a.1 + 1 else a.1, rowAdapter r)) (0, 0)).1

/-- A STEP that breaks R348. -/
def batchBad (l : List (List U64)) : Bool :=
  let pf := l.filter rowPrefill
  decide (2048 < sumCounts (l.filter (fun r => decide (rowKind r ≤ 1))) ∨ 4096 < sumCounts pf ∨ 16 < pf.length
    ∨ 256 < adapterSegments l)

/-- The regions of Table 13.2 as footprint codes (09 R270): any quadrant is bit 18. -/
def stepFp (h : List U64) (l : List (List U64)) : List Nat :=
  let p := sumCounts (l.filter (fun r => decide (rowKind r ≤ 1)))
  let t := (sumCounts (l.filter rowPrefill) + 127) / 128 * 128
  let k := manKvHeads h * manHeadDim h
  let w := if 0 < t then 8388608 else 0
  let sizes : List (Nat × Nat) :=
    [(p * manHidden h * 2, 2 ^ 18), (p * manHidden h * 4, 2 ^ 18), (p * 2048 * 8, 2 ^ 18),
     (4 * t * manHidden h * 2, 2 ^ 18), (2 * t * k * 2, 2 ^ 18), (t * manFf h * 2, 2 ^ 18),
     (w, 0), (w, 2 ^ 16), (w, 2 * 2 ^ 16), (w, 3 * 2 ^ 16)]
  ((sizes.zip (List.range 10)).filter (fun z => decide (z.1.1 ≠ 0))).map (fun z =>
    z.2 * 2 ^ 32 + satNat 16 ((z.1.1 + 65535) / 65536) + z.1.2)

/-! ### The admission gate (14 R368 to R372) -/

/-- What the gate has added up over a STEP's admitted rows: decode and verify positions, position-spans, prefill tokens;
and the admitted rows' deadlines in ns. -/
structure Gate where
  rows : List RowRun
  p : Nat
  ps : Nat
  t : Nat
  deadlines : List Nat
  deriving DecidableEq, Repr

/-- Positions in flight of a function, of all kinds of row (R369). -/
def posInFlight (s : State) (f : Func) : Nat :=
  (s.serve.steps.filter (fun t => decide (t.2.func = f))).foldl
    (fun n t => n + sumCounts ((t.2.rows.filter (fun r => r.admitted && !r.ended)).map (fun r => r.words))) 0

/-- Work slots of a model slot that are held (R370). -/
def workHeld (s : State) (f : Func) (k : Nat) : Nat :=
  (s.serve.steps.filter (fun t => decide (t.2.func = f ∧ t.2.slot = k))).foldl
    (fun n t => n + sumCounts ((t.2.rows.filter (fun r => r.admitted && !r.ended && !rowPrefill r.words)).map (fun r => r.words))) 0

/-- Mapped grains in service in a grain set. -/
def grainsServing (s : State) (w : Nat) : Nat :=
  ((setList w).filter (fun g => !isOut s g && !isFenced s (g / 128) (g / 64 % 2))).length

/-- The predicted remaining time in ns of a migration on a channel of a grain set (R372): 8 KiB for each bank's row that
is left, at BC_MIG_RATE. -/
def migrationNs (s : State) (w : Nat) : Nat :=
  ((List.range 4).map (fun q =>
    let m := quadMap s q
    let chans := (m.spareFor.map (fun k => [4 * q + k.val / 2, 4 * q + 3])).getD []
    match m.mig with
    | some g =>
      if chans.any (fun c => bitAt (setChans w) c) then
        (65536 * 32 - (g.row * 32 + g.bank)) * 8192 / max 1 s.dev.migRate.toNat
      else 0
    | none => 0)).foldl max 0

/-- What remains of the function's earlier STEPs, and of a migration. -/
def backlogNs (s : State) (f : Func) : Nat :=
  let far := (s.serve.steps.filter (fun t => decide (t.2.func = f))).foldl (fun n t => max n t.2.finish) 0
  (far - (now s).toNat) + migrationNs s (grainsOf s f.val)

/-- Every cost of a function is 0, in all of its model slots: nothing is predicted (R371). -/
def freeOfCost (s : State) (f : Func) : Bool := (List.range 16).all (fun k => decide (costOf s f.val k = Cost.reset))

/-- The predicted finish in ns from now (R371, R372). -/
def predict (s : State) (f : Func) (k p ps t : Nat) : Nat :=
  let c := costOf s f.val k
  let g := grainsServing s (grainsOf s f.val)
  let grain := bits c.pos.toNat 0 32 * p + bits c.att.toNat 0 32 * ((ps + g - 1) / g)
  if freeOfCost s f then 0
  else backlogNs s f + 1000 * bits c.fix.toNat 0 16 + max grain (bits c.pf.toNat 0 32 * t)

/-- A page of a row's spans, or a weight page of the model, lies on a fenced rank. -/
def rowFenced (s : State) (f : Func) (pages : List Nat) : Bool :=
  pages.any (fun pg => isFenced s (pg / 4096 / 128) (pg / 4096 / 64 % 2)) || setFenced s (grainsOf s f.val)

/-- A row as the gate leaves it. -/
def gateRow (s : State) (words : List U64) (pages : List Nat) (conds : List Status) (cancel : Bool) : RowRun :=
  { words := words, pages := pages, conds := conds, admitted := conds.isEmpty, ended := !conds.isEmpty, committed := false,
    cancel := cancel, tokens := [], accepted := 0, mtb := now s }

/-- Judge one row on every condition of Table 14.1, after R347. -/
def judgeRow (s : State) (f : Func) (k : Nat) (h : List U64) (before : Nat) (cancel : Bool) (a : Gate) (r : List U64) : Gate :=
  let rsv := rowRsv s f.val before h r
  let alien := rowAlien s f.val h r
  let n := rowCount r
  let pages := if rsv || alien then [] else rowPages s h r
  let c0 := if rsv then addStatus .rsvNonzero [] else []
  let c1 := if alien then addStatus .badTenant c0 else c0
  if c1 ≠ [] then { a with rows := a.rows ++ [gateRow s r pages c1 cancel] }
  else
    let pf := rowPrefill r
    let p1 := if pf then a.p else a.p + n
    let ps1 := if pf then a.ps else a.ps + n * spanCount r
    let t1 := if pf then a.t + n else a.t
    let ds := if rowDeadline r = 0 then a.deadlines else a.deadlines ++ [rowDeadline r * 1000]
    let quota := posQuotaOf s f.val
    let w := 32 * ((manWork h).2 - (manWork h).1 + 1)
    let d0 := if quota ≠ 0 ∧ quota < posInFlight s f + a.p + a.t + n then addStatus .quota [] else []
    let d1 := if pf = false ∧ w < workHeld s f k + a.p + n then addStatus .admitMem d0 else d0
    let d2 := if ds.any (fun d => decide (d < predict s f k p1 ps1 t1)) then addStatus .admitTime d1 else d1
    let d3 := if rowFenced s f pages then addStatus .fenced d2 else d2
    let x := gateRow s r pages d3 cancel
    if d3 = [] then { rows := a.rows ++ [x], p := p1, ps := ps1, t := t1, deadlines := ds }
    else { a with rows := a.rows ++ [x] }

/-- Judge a batch in row order. -/
def judgeBatch (s : State) (f : Func) (k : Nat) (h : List U64) (cancels : List Nat) (l : List (List U64)) : Gate :=
  (List.range l.length).foldl
    (fun a i =>
      let before := if i = 0 then 0 else rowAdapter (l.getD (i - 1) [])
      judgeRow s f k h before (decide (i ∈ cancels)) a (l.getD i []))
    { rows := [], p := 0, ps := 0, t := 0, deadlines := [] }

/-- The rows of a batch that pass R347. -/
def soundRows (s : State) (f : Nat) (h : List U64) (l : List (List U64)) : List (List U64) :=
  ((List.range l.length).filter (fun i =>
    let before := if i = 0 then 0 else rowAdapter (l.getD (i - 1) [])
    !rowRsv s f before h (l.getD i []) && !rowAlien s f h (l.getD i []))).map (fun i => l.getD i [])

/-- Bytes of a quadrant's ring shadow that the batch and output tables of STEPs in flight hold, 128 a row: ring pair k uses
quadrant k mod 4 (02 Table 2.3, 13 R344). -/
def tablesHeld (s : State) (q : Nat) : Nat :=
  (s.serve.steps.filter (fun t => decide (t.2.func.val % 4 = q))).foldl (fun n t => n + 128 * t.2.rows.length) 0

/-- A STEP of n rows waits for table space of the ring shadow (02 Table 2.4). -/
def tablesWait (s : State) (f : Func) (n : Nat) : Bool := decide (tableSpace s (f.val % 4) < tablesHeld s (f.val % 4) + 128 * n)

/-- STEP at admission (13 R344, R348; 14 R368): an empty slot, a broken batch and an ungrantable footprint end it; else
its rows are judged and it waits for a context. -/
def execServeStep (p : Place) (batch : List (List U64)) (s : State) : Host.Outcome State Fault Refusal :=
  match startable s p 0x11 with
  | none => ok s
  | some d =>
    let k := bits (wordAt d.words 2) 16 4
    let l := (List.range (bits (wordAt d.words 2) 0 11)).map (fun i => batch.getD i [])
    match manifest s d.func.val k with
    | none => ok (endDesc p .rsvNonzero (0x10 + 256 * 16) s)
    | some h =>
      let fp := stepFp h (soundRows s d.func.val h l)
      if tablesWait s d.func l.length then ok s
      else if batchBad l then ok (endDesc p .rsvNonzero 0x08 s)
      else if fpDenied s d.func fp then ok (endDesc p .quota 0 s)
      else
        let g := judgeBatch s d.func k h d.cancelRows l
        let run : StepRun :=
          { func := d.func, slot := k, rows := g.rows, finish := (now s).toNat + predict s d.func k g.p g.ps g.t,
            posQuads := g.ps, modelPages := [manWeights h, manWork h], sent := false }
        let s1 := { s with serve := { s.serve with steps := tput s.serve.steps p.val run } }
        ok (bumpFuncBy d.func 7 g.p (setDesc p { d with stage := .ctxWait, prog := { d.prog with words := fp } } s1))

/-! ### LOAD (13 R343, R353, R366) -/

/-- Write bytes of one bank-local line at the banks, or at the line's copy in the Marl (02 R42); a fenced rank takes
none (08 R243). -/
def bankPut (line : Nat) (d : Nat) (mask : Nat) (s : State) : State :=
  let ws := lineWords s true line
  let data : Line := BitVec.ofNat 512 d
  let m : BitVec 64 := BitVec.ofNat 64 mask
  if lyDead s true line then s
  else if ws.any (fun w => (copyOf s w).isSome) then commitLine ws data m false s
  else writeWords (lineWrites ws data m false) s

/-- The 32 bias blocks' halves of query position j of span i: 16 fp32 lanes a line, 0 for a key below the bound and −∞
above it (R353, 06). -/
def biasLine (bound first : Nat) : Nat :=
  leNat ((List.range 16).flatMap (fun l => leBytes 4 (if first + l ≤ bound then 0 else 0xFF800000)))

/-- Write the bias page of span i of a row: row pair j holds 16 blocks of 32 keys (R351, R353). -/
def writeBias (r : List U64) (span i page : Nat) (s : State) : State :=
  let line := (page + span - 1) * 1024
  (List.range (rowCount r)).foldl
    (fun s' j => (List.range 32).foldl
      (fun s'' b => bankPut (line + 64 * j + b) (biasLine (rowKvLen r + j) (512 * i + 16 * b)) (2 ^ 64 - 1) s'') s') s

/-- The bias pages of a decode or verify row. -/
def rowBias (h r : List U64) (s : State) : State :=
  if rowPrefill r then s
  else
    let ids := spanIds s r
    (List.range ids.length).foldl (fun s' i => writeBias r (manSpan h) i (ids.getD i 0) s') s

/-- A row as its step starts: a span, or weights, on a mapped-out grain give GRAIN_FAULT, and a poisoned manifest or
adapter record POISONED (R366). -/
def startRow (s : State) (f : Func) (a : Nat) (h : List U64) (r : RowRun) : RowRun :=
  let out := r.pages.any (fun pg => isOut s (pg / 4096))
    || (setList (grainsOf s f.val)).any (fun g => isOut s g && Config.weightsOn a g)
  let n := rowAdapter r.words
  let bad := (dpaLine s a).2 || (decide (n ≠ 0) && (dpaLine s (manAdapters h + 64 * (n - 1))).2)
  if !r.admitted || r.ended then r
  else
    let c1 := if out then addStatus .grainFault r.conds else r.conds
    let c2 := if bad then addStatus .poisoned c1 else c1
    { r with conds := c2, ended := !c2.isEmpty }

/-- step_driver begins: the manifest is checked, the bias pages of the rows that go on are written, and the context runs
routine 0x00. -/
def loadStep (x : CtxNo) (c : Ctx) (s : State) : State :=
  match tfind s.serve.steps c.place.val with
  | none => s
  | some t =>
    let a := manAddr s t.func.val t.slot
    let h := (manifest s t.func.val t.slot).getD []
    let fault := if (dpaLine s a).2 then none else manFault s t.func.val a h
    match fault with
    | some code => faultCtx x code s
    | none =>
      let rows := t.rows.map (startRow s t.func a h)
      let s1 := { s with serve := { s.serve with steps := tput s.serve.steps c.place.val { t with rows := rows } } }
      let s2 := (rows.filter (fun r => r.admitted && !r.ended)).foldl (fun s' r => rowBias h r.words s') s1
      moveCtx x.val { c with pos := Config.routineEntry (routineNo s 0) } .run s2

/-- IMAGE_LOAD_COMPLETE: a context's fetch is complete (09 R272, 13 R343). -/
def execImageLoadComplete (x : CtxNo) (image args : List Byte) (s : State) : Host.Outcome State Fault Refusal :=
  match ctx s x.val with
  | none => ok s
  | some c =>
    match desc s c.place with
    | none => ok s
    | some d =>
      if c.st ≠ .load then ok s
      else if opcodeOf d.words = 0x11 then ok (loadStep x c s)
      else ok (loadRun x c d image args s)

/-! ### The choice of a token (13 R356) -/

/-- The generator of R356: u for a seed and a position. -/
def drawU (seed : U32) (pos : Nat) : U32 :=
  let h0 := seed ^^^ BitVec.ofNat 32 (pos * 0x9E3779B9)
  let h1 := (h0 ^^^ (h0 >>> 16)) * 0x85EBCA6B#32
  let h2 := (h1 ^^^ (h1 >>> 13)) * 0xC2B2AE35#32
  let h3 := h2 ^^^ (h2 >>> 16)
  Fp.round32 (.fin false (h3 >>> 8).toNat (-24))

/-- The running sums s_i of the weights of the k largest logits. -/
def runningSums (zs : List U32) (temp : U32) : List U32 :=
  let z1 := zs.headD 0#32
  ((zs.map (fun z => Fp.exp (Fp.div (Fp.sub z z1) temp))).foldl
    (fun (a : List U32) w => a ++ [match a.getLast? with
      | some y => Fp.add y w
      | none => w]) [])

/-- The token of a position with logits `z` over the vocabulary; where no sum exceeds the draw it is free (log entry
46). -/
def chooseToken (z : Nat → U32) (vocab topK : Nat) (temp : U16) (seed : U32) (pos : Nat) : U32 :=
  let l := descend true z (fun _ => true) vocab
  if topK = 0 then BitVec.ofNat 32 ((l.head?.map (fun p => p.2)).getD 0)
  else
    let top := l.take topK
    let sums := runningSums (top.map (fun p => p.1)) (Fp.ofBf16 temp)
    let bound := Fp.mul (drawU seed pos) (sums.getLastD 0#32)
    match sums.findIdx? (fun v => Fp.lt bound v) with
    | some i => BitVec.ofNat 32 ((top.getD i (0#32, 0)).2)
    | none => Config.noDraw (top.map (fun p => p.1)) seed pos

/-- The target's choice at position j of a row (R356). -/
def rowChoice (x : RowIn) (j : Nat) : U32 :=
  chooseToken (logitAt x j) (manVocab x.h) (rowTopK x.row) (BitVec.ofNat 16 (rowTemp x.row)) (rowSeed x.row) (rowKvLen x.row + j)

/-- The accepted count of a verify row (R360): the leading positions where the draft is the target's choice. -/
def acceptCount (r : List U64) (t : Nat → U32) : Nat :=
  ((List.range (rowCount r - 1)).takeWhile (fun j => decide (rowToken r (j + 1) = (t j).toNat))).length

/-- The tokens a row emits, and its accepted count (R349, R361). -/
def rowEmits (x : RowIn) : List U32 × Nat :=
  let t := rowChoice x
  match rowKind x.row with
  | 0 => ([t 0], 0)
  | 1 =>
    let a := acceptCount x.row t
    ((List.range a).map (fun j => BitVec.ofNat 32 (rowToken x.row (j + 1))) ++ [t a], a)
  | _ => (if rowLast x.row then [t (rowCount x.row - 1)] else [], 0)

/-! ### The K and V of a row (13 R351, R353) -/

/-- What K and V of in-span position y write, of layer-head n of a span, as lines with their data and byte masks: K in blocks of
32 keys, V key-major; a head of another size than 128 uses as much of each block (log entry 19). -/
def kvLines (page dim n y : Nat) (key val : Nat → U16) : List (Nat × Nat × Nat) :=
  let k := (page + 4 * n) * 1024
  let v := (page + 4 * n + 2) * 1024
  (List.range (min 128 dim)).map (fun d => (k + y / 32 * 128 + d, (key d).toNat * 2 ^ (16 * (y % 32)), 3 * 2 ^ (2 * (y % 32))))
    ++ (List.range (min 128 dim / 32)).map (fun b =>
      (v + 4 * y + b, leNat ((List.range 32).flatMap (fun l => leBytes 2 (val (32 * b + l)).toNat)), 2 ^ 64 - 1))

/-- A row's K and V are written at its positions. -/
def appendKv (x : RowIn) (s : State) : State :=
  let ids := spanIds s x.row
  let kv := manKvHeads x.h
  let dim := manHeadDim x.h
  (List.range (rowCount x.row)).foldl
    (fun s' j =>
      let y := rowKvLen x.row + j
      (List.range (manLayers x.h * kv)).foldl
        (fun s'' n =>
          let hs := hiddenAt x (n / kv)
          (kvLines (ids.getD (y / 512) 0) dim n (y % 512) (fun d => keyElem x (n / kv) hs j (n % kv * dim + d))
            (fun d => valueElem x (n / kv) hs j (n % kv * dim + d))).foldl (fun t l => bankPut l.1 l.2.1 l.2.2 t) s'') s') s

/-! ### Work units and commits (14 R379, R380) -/

/-- Statuses with which a row delivers nothing. -/
def failing (l : List Status) : List Status := l.filter (fun c => decide (c ≠ .doneClipped ∧ c ≠ .cancelLate))

/-- A row of a model whose manifest lies at a. -/
def rowIn (s : State) (a : Nat) (h : List U64) (r : RowRun) : RowIn := { s := s, man := manLines s a h, h := h, row := r.words }

/-- A row at the end of a work unit: a cancelled row and a failed one end with nothing; one whose last unit this was ends
with its tokens (R380). `clip` marks the rows the unit served (16 R424). -/
def endRow (s : State) (a : Nat) (h : List U64) (clip : Bool) (ended : List (Fin 1024)) (row : Nat) (r : RowRun) : RowRun :=
  let c := if clip then addStatus .doneClipped r.conds else r.conds
  if !r.admitted || r.ended then r
  else if r.cancel then { r with ended := true, conds := addStatus .cancelled (failing r.conds), mtb := now s }
  else if failing r.conds ≠ [] then { r with ended := true, conds := failing r.conds, mtb := now s }
  else if ended.any (fun e => decide (e.val = row)) then
    let e := rowEmits (rowIn s a h r)
    { r with ended := true, conds := c, tokens := e.1, accepted := e.2, mtb := now s }
  else { r with conds := c }

/-- WORK_UNIT_END on the context of a STEP (R380). -/
def execWorkUnitEnd (x : CtxNo) (ended : List (Fin 1024)) (s : State) : Host.Outcome State Fault Refusal :=
  match inRun s x with
  | none => ok s
  | some c =>
    match tfind s.serve.steps c.place.val, desc s c.place with
    | some t, some d =>
      let h := (manifest s t.func.val t.slot).getD []
      let a := manAddr s t.func.val t.slot
      let clip := d.clipped || islClip s islSeq || s.pwr.holding
      let rows := (t.rows.zip (List.range t.rows.length)).map (fun p => endRow s a h clip ended p.2 p.1)
      let over_ := (t.rows.zip rows).filter (fun p => !p.1.ended && p.2.ended)
      let s1 := { s with serve := { s.serve with steps := tput s.serve.steps c.place.val { t with rows := rows } } }
      let s2 := over_.foldl (fun s' p => appendKv (rowIn s a h p.1) s') s1
      ok (setDesc c.place { d with clipped := false } s2)
    | _, _ => ok s

/-- The commit of an ended row's entry: with its cancel bit set it is rewritten CANCELLED (R379). -/
def commitRow (t : U64) (r : RowRun) : RowRun :=
  if r.cancel then
    { r with committed := true, mtb := t, tokens := [], accepted := 0, conds := addStatus .cancelled (failing r.conds) }
  else { r with committed := true, mtb := t }

/-- ROW_COMMIT: SEQ latches the commit of a row's output-table entry, and samples its cancel bit (R379). -/
def execRowCommit (p : Place) (row : Fin 1024) (s : State) : Host.Outcome State Fault Refusal :=
  match tfind s.serve.steps p.val with
  | none => ok s
  | some t =>
    match t.rows[row.val]? with
    | none => ok s
    | some r =>
      if r.admitted && r.ended && !r.committed then
        let t1 := { t with rows := t.rows.set row.val (commitRow (now s) r) }
        ok { s with serve := { s.serve with steps := tput s.serve.steps p.val t1 } }
      else ok s

/-! ### The output table (13 R362 to R364) -/

/-- Statuses of a STEP that its uncommitted rows take (13 R364, R366). -/
def inherited (l : List Status) : List Status :=
  l.filter (fun c => decide (c ∈ [.cancelled, .orphaned, .seqFault, .watchdog, .poisoned, .fenced, .grainFault]))

/-- A row as the output table reports it. -/
def finalRow (s : State) (conds : List Status) (r : RowRun) : RowRun :=
  if r.admitted && !r.committed then
    { r with conds := (inherited conds).foldl (fun l c => addStatus c l) (failing r.conds), ended := true, committed := true,
             tokens := [], accepted := 0, mtb := now s }
  else r

/-- A row delivered its tokens. -/
def delivered (r : RowRun) : Bool := r.admitted && r.committed && decide (failing r.conds = [])

/-- An entry of the output table (Table 13.7). -/
def outEntry (r : RowRun) : List U64 :=
  let yes := delivered r
  let toks := if yes then r.tokens else []
  let kv := rowKvLen r.words + (if yes then (match rowKind r.words with
    | 1 => r.accepted + 1
    | _ => rowCount r.words) else 0)
  let tok (i : Nat) : Nat := (toks.getD i 0#32).toNat
  let w0 := statusCode (chosen r.conds) + toks.length % 16 * 2 ^ 8 + (if yes then r.accepted else 0) % 16 * 2 ^ 12
    + bitIf (multiOf r.conds) 16 + bits (wordAt r.words 0) 32 32 * 2 ^ 32
  [BitVec.ofNat 64 w0, BitVec.ofNat 64 (kv % 2 ^ 32), r.mtb, BitVec.ofNat 64 (tok 0 + tok 1 * 2 ^ 32),
   BitVec.ofNat 64 (tok 2 + tok 3 * 2 ^ 32), BitVec.ofNat 64 (tok 4 + tok 5 * 2 ^ 32),
   BitVec.ofNat 64 (tok 6 + tok 7 * 2 ^ 32), 0#64]

/-- One class 0x05 entry and the counts of a row that did not end DONE (00 R524, 19 Table 19.2, 16 R424). -/
def noteRowEnd (d : Desc) (s : State) (p : Nat × RowRun) : State :=
  let st := chosen p.2.conds
  let s1 := countEnding d.func st s
  let s2 := if st = .doneClipped then bump 11 s1 else s1
  if st = .done then s2
  else logFn 0x05 (statusCode st) (locOf 5 d.func.val) d.func (statusBytes p.2.conds) (d.hsn.toNat + p.1 * 2 ^ 32) s2

/-- The STEP's own statuses (R364). -/
def stepConds (conds : List Status) (rows : List RowRun) : List Status :=
  let own := conds.filter (fun c => decide (c ∉ [.poisoned, .fenced, .grainFault, .linkDown, .doneClipped]))
  if own = [] ∧ rows.any (fun r => decide (chosen r.conds = .doneClipped)) then [.doneClipped] else own

/-- Rows that started: admitted, or ended FENCED by the gate (14 R368). -/
def rowStarted (r : RowRun) : Bool := r.admitted || decide (chosen r.conds = .fenced)

/-- OUTPUT_TABLE_WRITE: after the last row has ended, HOST writes the whole table, and the STEP's status is settled
(R363, R364). -/
def execOutputTableWrite (p : Place) (s : State) : Host.Outcome State Fault Refusal :=
  match tfind s.serve.steps p.val, desc s p with
  | some t, some d =>
    let left := t.rows.any (fun r => r.admitted && !r.committed)
    if d.stage ≠ .ended ∨ t.sent ∨ hostUp s = false ∨ (left = true ∧ inherited d.conds = []) then ok s
    else
      let rows := t.rows.map (finalRow s d.conds)
      let started := (rows.filter rowStarted).length
      let toks := ((rows.filter delivered).map (fun r => r.tokens.length)).foldl (fun a b => a + b) 0
      let detail := satNat 11 started + satNat 11 (rows.length - started) * 2 ^ 16 + satNat 16 toks * 2 ^ 32
      let s1 := emit (.hostWrite (BitVec.ofNat 64 (wordAt d.words 3)) (rows.flatMap outEntry)) s
      let s2 := { s1 with serve := { s1.serve with steps := tput s1.serve.steps p.val { t with rows := rows, sent := true } } }
      let s3 := ((List.range rows.length).zip rows).foldl (noteRowEnd d) (bumpFuncBy d.func 6 toks s2)
      ok (setDesc p { d with conds := stepConds d.conds rows, detail := BitVec.ofNat 64 detail } s3)
  | _, _ => ok s

/-! ### Commits that waited (13 R341, 05 R150, 12 R321) -/

/-- HUB_MODEL_TAKE_EFFECT: a pending commit takes effect once no STEP that names the slot is in execution. -/
def execHubModelTakeEffect (f : Func) (slot : Fin 16) (s : State) : Host.Outcome State Fault Refusal :=
  if stepNames s f.val slot.val then ok s
  else
    let m := (modelOf s f.val slot.val).take
    ok { s with hub := { s.hub with model := tset (Pair.at_ 0#39) s.hub.model (f.val * 16 + slot.val) m } }

/-- GRN_PART_TAKE_EFFECT: pending GRN_PART and SYN_FLAGB values take effect once no grain work of the function is in
execution. -/
def execGrnPartTakeEffect (f : Func) (s : State) : Host.Outcome State Fault Refusal :=
  if grainWork s f.val then ok s
  else if (grnPartOf s f.val).waiting.isSome || (flagBaseOf s f.val).waiting.isSome then ok (takeGrnPart f.val s)
  else ok s

end Sys2Proof.Machine
end

