-- ==== Sys2Proof/Machine/Keep.lean ====
section
/-! DEFINITION. The Keep region's commands (16): KEEP_WRITE (R433, R434), KEEP_READ (R435), trickle cleaning and the
copies (R427 to R430), a NAND program failure (R443). -/

namespace Sys2Proof.Machine

/-! ### KEEP_WRITE -/

/-- What R433 decides of a store. -/
inductive KeepCheck where
  | full | short | pass
  deriving DecidableEq, Repr

/-- The bytes of the union of the dirty blocks and the blocks that a store touches (R433). -/
def unionBytes (s : State) (blocks : List Nat) : Nat :=
  dirtyBytes s + (blocks.filter (fun i => !(kblock s i).dirty)).length * 65536

/-- Some touched block has a retired slot that no spare can replace (R433 1). -/
def keepFull (s : State) (blocks : List Nat) : Bool := decide (sparesLeft s < (blocks.flatMap (badSlotsOf s)).length)

/-- The hold-up check of a store to some blocks (R433): its first outcome is the status, and the only one that counts
(DESIGN CHOICE, log entry 87). -/
def keepCheck (s : State) (blocks : List Nat) : KeepCheck :=
  if keepFull s blocks then .full
  else if s.pwr.keepState = 2#2 ∨ s.pwr.holdup < needMj (unionBytes s blocks) then .short
  else .pass

/-- A block is marked dirty; its copy, if one is in progress, is abandoned (R427, R430). -/
def markDirty (i : Nat) (s : State) : State :=
  let b := kblock s i
  setKblock i { b with dirty := true, copying := false, since := if b.dirty then b.since else now s } s

/-- Spares take the places of the retired slots of some blocks (R433, R443). -/
def replaceSlots (blocks : List Nat) (s : State) : State :=
  let n := (blocks.flatMap (badSlotsOf s)).length
  { s with keep := { s.keep with sparesUsed := s.keep.sparesUsed + n,
                                 badSlots := s.keep.badSlots.filter (fun k => !decide (k / 2 ∈ blocks)) } }

/-- Write one line of a store, committed at its owning slice; a fenced rank takes none (R434, 02 R42, 08 R243). -/
def storeLine (p : Place) (line : Nat) (d : Line) (poison : Bool) (s : State) : State :=
  let k := lineRank s false line
  if isFenced s k.1 k.2 then addCond p .fenced s
  else if isUnpop s k.1 k.2 then s
  else
    let ws := lineWords s false line
    let s1 := commitThrough ws d (BitVec.allOnes 64) poison k.1 k.2 s
    if poison then addCond p .poisoned s1 else s1

/-- The source lines of a store in DPA as they stood before it (R434), and whether each is poisoned; line i takes free
value number i where its rank gives nothing. -/
def keepSource (s : State) (line n : Nat) : List (Line × Bool) :=
  (List.range n).map (fun i => lyRead { s with freeCtr := s.freeCtr + i } (.bank false 0) (line + i))

/-- The reads of a store's DPA source: their counts, and FENCED where a rank is. -/
def noteSource (p : Place) (line n : Nat) (s : State) : State :=
  let s1 := lyNote (.bank false 0) ((List.range n).map (fun i => line + i)) { s with freeCtr := s.freeCtr + n }
  if (List.range n).any (fun i => lyFenced s (.bank false 0) (line + i)) then addCond p .fenced s1 else s1

/-- A store that passed its check: its blocks are dirty, its lines are written in ascending order. -/
def keepStore (p : Place) (d : Desc) (blocks : List Nat) (src : List Line) (s : State) : State :=
  let n := bits (wordAt d.words 3) 0 32 / 64
  let to_ := wordAt d.words 2 / 64
  let dpa := bitAt (wordAt d.words 3) 32
  let s1 := blocks.foldl (fun s' i => markDirty i s') (replaceSlots blocks s)
  let s2 := noteSpan p { loc := false, line := to_, lines := n } (setDesc p { d with committed := true } s1)
  let lines := if dpa then keepSource s2 (wordAt d.words 1 / 64) n else src.map (fun l => (l, false))
  let slow (l : Nat) : Bool := (List.range n).any (fun i => lySlow s (.bank false 0) (l + i))
  let s3 := clipDesc p (s.pwr.holding || slow to_ || (dpa && slow (wordAt d.words 1 / 64)))
    (if dpa then noteSource p (wordAt d.words 1 / 64) n s2 else s2)
  (lines.zip (List.range n)).foldl (fun s' e => storeLine p (to_ + e.2) e.1.1 e.1.2 s') s3

/-- The lines of a Keep store or read wait for their banks (07 R201, 08 R237). -/
def keepWaits (s : State) (from_ : Option Nat) (to_ : Option Nat) (n : Nat) : Bool :=
  let run (o : Option Nat) : List Nat := match o with
    | some l => (List.range n).map (fun i => l + i)
    | none => []
  lyWaits s (.bank false 0) false (run from_) || lyWaits s (.bank false 0) true (run to_)

/-- KEEP_WRITE: the PMU judges it, and what passes is stored; it loses to a size change of a higher master at the same boundary
(03 Table 3.10, 20 Table 20.14), and two checks at one boundary are logged as a collision (16 Table 16.5). `src` is what a host
source holds. The check waits while PMU firmware restarts (18 R479), and a store while a bank of its lines is not free. -/
def execKeepWrite (p : Place) (src : List Line) (s : State) : Host.Outcome State Fault Refusal :=
  match startable s p 0x30 with
  | none => ok s
  | some d =>
    let n := bits (wordAt d.words 3) 0 32
    let blocks := blocksTouched (wordAt d.words 2) n
    let used := satNat 32 s.pwr.holdup
    let me := ownOrder .keep .keepWrite d.func d.hsn
    if s.boot.fwRestarting ∨ (!bitAt (wordAt d.words 3) 32 ∧ src.length ≠ n / 64) then ok s
    else
      match (rival s .keep [.keepSize, .keepCommit]).filter (fun a => decide (a.master < me.master)) with
      | some a => ok (logPreempted a (some (d.func, d.hsn)) (logCollision a me true (endDesc p .preempted (preemptDetail a) s)))
      | none =>
      match keepCheck s blocks with
      | .full => ok (countEv 0x82 0 (some d.func) 1 (endDesc p .keepFull used s))
      | .short => ok (countEv 0x82 0 (some d.func) 1 (endDesc p .holdupShort used s))
      | .pass =>
        let from_ := if bitAt (wordAt d.words 3) 32 then some (wordAt d.words 1 / 64) else none
        if keepWaits s from_ (some (wordAt d.words 2 / 64)) (n / 64) then ok s
        else ok (endDesc p .done used (keepStore p d blocks src (contend [.keepWrite] me s)))

/-! ### KEEP_READ -/

/-- The eight words of a line. -/
def lineU64s (d : Line) : List U64 := (List.range 8).map (fun i => d.extractLsb' (64 * i) 64)

/-- One line of a KEEP_READ: read, and written to the destination. -/
def keepReadLine (p : Place) (d : Desc) (i : Nat) (s : State) : State :=
  let at_ := wordAt d.words 2 / 64 + i
  let v := lyRead s (.bank false 0) at_
  let s1 := clipDesc p (islClip s islSeq || s.pwr.holding || lySlow s (.bank false 0) at_)
    (takeFree (lyNote (.bank false 0) [at_] s))
  let s2 := if lyFenced s (.bank false 0) at_ then addCond p .fenced s1 else s1
  let s3 := if v.2 then addCond p .poisoned s2 else s2
  if bitAt (wordAt d.words 3) 32 then storeLine p (wordAt d.words 1 / 64 + i) v.1 v.2 s3
  else emit (.hostWrite (BitVec.ofNat 64 (wordAt d.words 1 + 64 * i)) (lineU64s v.1)) s3

/-- KEEP_READ runs on its context: keep_len bytes go to the destination, and the context ends (R435). -/
def execKeepRead (p : Place) (s : State) : Host.Outcome State Fault Refusal :=
  match runningOn s p 0x31 with
  | none => ok s
  | some (d, x) =>
    if (ctx s x.val).any (fun c => decide (c.st = .drain)) then ok s
    else
      let n := bits (wordAt d.words 3) 0 32 / 64
      let to_ := if bitAt (wordAt d.words 3) 32 then some (wordAt d.words 1 / 64) else none
      if keepWaits s (some (wordAt d.words 2 / 64)) to_ n then ok s
      else ok (settleCtx x (drainCtx x ((List.range n).foldl (fun s' i => keepReadLine p d i s') s)))

/-! ### Trickle cleaning -/

/-- No block is dirty any more: forced cleaning ends (R443). -/
def endForced (s : State) : State :=
  if dirtyBlocks s = [] then { s with pwr := { s.pwr with forced := false } } else s

/-- TRICKLE_CLEAN_TIMER: a block that has stayed dirty for KEEP_TRICKLE ms, or any while cleaning is forced, goes under
copy (R430, R443). -/
def execTrickleCleanTimer (block : Nat) (s : State) : Host.Outcome State Fault Refusal :=
  let b := kblock s block
  let due := s.pwr.forced || (decide (s.dev.trickle ≠ 0#16)
    && decide (s.dev.trickle.toNat * 1000000 ≤ (now s - b.since).toNat))
  if s.boot.mediaReady && b.dirty && !b.copying && due && copyable s block then
    ok (setKblock block { b with copying := true } s)
  else ok s

/-- KEEP_COPY_COMMIT: the slot header of a copy is programmed; the block is clean (R427, R428). -/
def execKeepCopyCommit (block : Nat) (s : State) : Host.Outcome State Fault Refusal :=
  ok (if (kblock s block).copying then endForced (commitCopy block s) else s)

/-- NAND_PROGRAM_FAILURE: the slot that a copy was to take is retired; with a spare the copy is made again, with none it
ends and the slot is lost (R443). -/
def execNandProgramFailure (block : Nat) (s : State) : Host.Outcome State Fault Refusal :=
  let b := kblock s block
  if !b.copying then ok s
  else
    let k := altSlot b block
    let s1 := logDev 0x03 0x35 (locOf 0 0) k 0 { s with keep := { s.keep with nand := terase s.keep.nand k } }
    if 0 < sparesLeft s then ok { s1 with keep := { s1.keep with sparesUsed := s1.keep.sparesUsed + 1 } }
    else ok (setKblock block { b with copying := false } { s1 with keep := { s1.keep with badSlots := s1.keep.badSlots ++ [k] } })

end Sys2Proof.Machine
end

