-- ==== Sys2Proof/Machine/Power.lean ====
section
/-! DEFINITION. The PMU's power commands (16): the power-loss latch and Silt Save (R417, R437), the ramp governor (R421),
the protective loops (R423, R424; 20 R508), the hold-up bank (R431, R443, R444), the thermal trip (R443). -/

namespace Sys2Proof.Machine

/-! ### Input power -/

/-- The number of an island in the event log (19 R528). -/
def islandNo (i : Island) : Nat :=
  match i with
  | .host => islHost
  | .marl q => islMarl q.val
  | .seq => islSeq
  | .mx n => islMx n.val
  | .lay => islLay
  | .bc c => islBc c.val
  | .lk p => islLk p.val
  | .pmu => islPmu
  | .grain c r d => islGrain c.val r.val d.val

/-- Input power is lost: logged with the input minimum, Silt Save, rails off (Table 16.4); `covers` blocks are copied
before the usable energy runs out (R438). -/
def loseInput (cause minMv covers : Nat) (s : State) : State :=
  if !s.boot.powered then s
  else
    let low := min minMv s.log.inputMin
    let s1 := logDev 0x03 0x33 (locOf 0 0) cause low { s with log := { s.log with inputMin := low } }
    let t := powerOff (saveKeep covers (deadWords s s.marl.deadSlices) s1)
    { t with pwr := { t.pwr with lost := true } }

/-- POWER_LOSS_LATCH: cause is the place in R417's list. -/
def execPowerLossLatch (cause : Fin 4) (minMv covers : Nat) (s : State) : Host.Outcome State Fault Refusal :=
  ok (loseInput cause.val minMv covers s)

/-! ### The ramp governor (R421) -/

def sumNat (l : List Nat) : Nat := l.foldl (fun a b => a + b) 0

/-- POWER_MEASURE: the draw of a millisecond, and the draw predicted for the next: above the ceiling work is held back,
below the floor ballast runs. -/
def execPowerMeasure (watts predicted : Nat) (s : State) : Host.Outcome State Fault Refusal :=
  if !s.boot.powered then ok s
  else
    let hold := decide (s.pwr.ceiling < 10 * predicted)
    let low := decide (10 * predicted < s.pwr.floor)
    let s1 := { s with pwr := { s.pwr with
      samples := lastN 10 (s.pwr.samples ++ [watts]), holding := hold, ballast := low,
      heldMs := lastN 1000 (s.pwr.heldMs ++ [bitIf hold 0]) } }
    ok (if (loopRec s 5).active = (hold || low) then s1
        else setLoop 5 (locOf 0 0) (hold || low) false (s.pwr.ceiling / 10) s1)

/-- RAMP_INTERVAL: a waiting budget is in force from this interval (03 R89, Table 16.5); the ceiling and the floor follow
from the mean draw of the interval that ended. While PMU firmware restarts the last ceiling and floor hold (18 R479). -/
def execRampInterval (s : State) : Host.Outcome State Fault Refusal :=
  if !s.boot.powered then ok s
  else
    let r := s.pwr.rampNext.getD s.pwr.ramp
    let d := if s.pwr.samples = [] then s.pwr.draw else 10 * sumNat s.pwr.samples / s.pwr.samples.length
    if s.boot.fwRestarting then ok { s with pwr := { s.pwr with draw := d, samples := [] } }
    else ok { s with pwr := { s.pwr with
      ramp := r, rampNext := none, draw := d, samples := [],
      ceiling := min (10 * r.cap.toNat) (d + r.up.toNat), floor := max 380 (d - r.down.toNat) } }

/-! ### The clock loops (Table 16.3) -/

/-- A clock the thermal loop acts on: its field's place and width in PWR_CLK_HOLD, its nominal MHz, its step, the least MHz of
its range (01 Table 1.2). A ready-mode grain island's nominal clock is its oscillator's target (07 R204). -/
def clkOf (s : State) (i : Island) : Option (Nat × Nat × Nat × Nat × Nat) :=
  match i with
  | .mx _ => some (0, 12, 1500, 50, 500)
  | .lay => some (12, 12, 1200, 50, 600)
  | .grain c r d =>
    let x := die s (dieNo c.val r.val d.val)
    if x.ready then some (24, 10, 10 * x.osc.toNat, 20, 300) else none
  | _ => none

/-- A die whose oscillator thermal control holds below its target says so in its next STAT (07 Table 7.4). -/
def noteClipped (i : Island) (below : Bool) (s : State) : State :=
  match i with
  | .grain c r d =>
    let n := dieNo c.val r.val d.val
    if below then setDie n { (die s n) with clipped := true } s else s
  | _ => s

/-- The thermal loop sets an island's clock; at its bound the island is held no longer. -/
def setClk (no v top : Nat) (s : State) : State :=
  { s with pwr := if v = top then { s.pwr with clk := terase s.pwr.clk no, clkAt := terase s.pwr.clkAt no }
                  else { s.pwr with clk := tput s.pwr.clk no v, clkAt := tput s.pwr.clkAt no (now s) } }

/-- THERMAL_SENSE: one step per 100 µs, down at 100 °C or more to the least clock of the island's range (01 R15), up below 95 °C
to the lower of the nominal clock and the policy ceiling; below the policy floor only at 100 °C or more, which is counted (20
R508). -/
def execThermalSense (isl : Island) (temp : Int) (s : State) : Host.Outcome State Fault Refusal :=
  match clkOf s isl with
  | none => ok s
  | some (lo, len, nominal, step, least) =>
    let no := islandNo isl
    let top := min nominal (bits s.dev.clkHold.toNat lo len)
    let floor := min top (bits s.dev.perfFloor.toNat lo len)
    let cur := min top (tget top s.pwr.clk no)
    let rested := (tfind s.pwr.clkAt no).all (fun t => decide (100000 ≤ (now s - t).toNat))
    let held := (tfind s.pwr.clk no).isSome
    let move (v : Nat) (past : Bool) : State :=
      let s1 := noteClipped isl (decide (v < nominal)) (setClk no v top (if past then bump 10 s else s))
      setLoop 0 (locOf 3 no) (decide (s1.pwr.clk ≠ [])) past v s1
    if !rested then ok s
    else if 100 ≤ temp then
      let v := min cur (max least (cur - step))
      ok (move v (decide (v < floor ∧ v < cur)))
    else if temp < 95 ∧ held = true then ok (move (min top (cur + step)) false)
    else ok s

/-- VOLTAGE_DROOP: the clock stretches for as long as the droop lasts; from 1 µs on the clip flag is set (R424). -/
def execVoltageDroop (isl : Island) (ns : Nat) (s : State) : Host.Outcome State Fault Refusal :=
  if isl = .pmu ∨ ns = 0 then ok s
  else if ns < 1000 then
    let r := loopRec s 1
    ok { s with pwr := { s.pwr with loops := tset LoopRec.reset s.pwr.loops 1 { r with heldNs := r.heldNs + BitVec.ofNat 64 ns } } }
  else
    let no := islandNo isl
    let s1 := { s with pwr := { s.pwr with clip := tput s.pwr.clip no (now s + BitVec.ofNat 64 ns) } }
    ok (setLoop 1 (locOf 3 no) true false 0 s1)

/-! ### The channel-frequency loop -/

/-- CHANNEL_FREQ_LOOP: to set B once a die has been at 92 °C or more for 100 ms; back to the PF's setting once every die
has read 85 °C or less for 10 s (Table 16.3, R423). -/
def execChannelFreqLoop (s : State) : Host.Outcome State Fault Refusal :=
  let for_ (o : Option U64) (ns : Nat) : Bool := o.any (fun t => decide (ns ≤ (now s - t).toNat))
  if !freqHeld s && for_ s.pwr.hotSince 100000000 && !s.dev.bInvalid then
    let past := !s.dev.policyFreq
    let s1 := setLoop 3 (locOf 3 islPmu) true past 1 (if past then bump 10 s else s)
    ok (startChange true s1)
  else if freqHeld s && for_ s.pwr.coolSince 10000000000 then
    ok (startChange s.dev.policyFreq (setLoop 3 (locOf 3 islPmu) false false (bitIf s.dev.policyFreq 0) s))
  else ok s

/-! ### The hold-up bank -/

/-- HOLDUP_VOLTAGE_MEASURE: V, and holdup_mj with the last C (R431, R444). -/
def execHoldupVoltageMeasure (mv : Nat) (s : State) : Host.Outcome State Fault Refusal :=
  ok (if s.boot.powered then
    { s with pwr := { s.pwr with bankMv := mv, holdup := holdupMj s.pwr.capUf mv } } else s)

/-- A measurement of the capacitance at full charge, and what R443 does about a weak bank; the fault stands in the persistent
fault log (18 R481). -/
def measureBank (uf mv : Nat) (cellFault : Bool) (s : State) : State :=
  let full := holdupMj uf mv
  let need := needMj (dirtyBytes s)
  let weak := cellFault || decide (full < 2000)
  let s1 := { s with pwr := { s.pwr with capUf := uf, bankMv := mv, holdup := full } }
  if weak || decide (full < need) then
    let s2 := { s1 with pwr := { s1.pwr with forced := decide (dirtyBlocks s ≠ []),
                                             keepState := if weak then 2#2 else s1.pwr.keepState } }
    emit (.sideband .holdupFault (BitVec.ofNat 64 full))
      (plogAdd (locOf 0 0) full (logDev 0x03 0x34 (locOf 0 0) (satNat 32 full + bitIf weak 32) need s2))
  else s1

/-- CAPACITANCE_MEASURE (R431, R443). -/
def execCapacitanceMeasure (uf mv : Nat) (cellFault : Bool) (s : State) : Host.Outcome State Fault Refusal :=
  ok (if s.boot.powered then measureBank uf mv cellFault s else s)

/-- HOLDUP_CHARGE_COMPLETE: the bank is full, and its capacitance is measured (R444). -/
def execHoldupChargeComplete (uf mv : Nat) (s : State) : Host.Outcome State Fault Refusal :=
  ok (if s.boot.powered then measureBank uf mv false s else s)

/-! ### Thermal trip -/

/-- THERMAL_TRIP: a hub junction at 115 °C; the save runs on main power, the rails go off, the TMC hears of it. -/
def execThermalTrip (isl : Island) (temp : Int) (s : State) : Host.Outcome State Fault Refusal :=
  let hub := match isl with
    | .grain _ _ _ => false
    | _ => true
  if !s.boot.powered || !hub || decide (temp < 115) then ok s
  else
    let loc := locOf 3 (islandNo isl)
    let s1 := plogAdd loc (temp.toNat % 256) (logDev 0x03 0x37 loc (temp.toNat % 256) 0 s)
    let t := powerOff (saveKeep 131072 (deadWords s s.marl.deadSlices) s1)
    ok (emit (.sideband .thermalTrip (BitVec.ofInt 64 temp)) { t with pwr := { t.pwr with trip := true } })

end Sys2Proof.Machine
end

