-- ==== Sys2Proof/Machine/Rack.lean ====
section
/-! DEFINITION. The torus of a rack and its wiring plan (17 R454, R455), the tray's slot eFuses (16 R418 to R420), the GRC's
orders, budgets and capacity report (17 R448 to R464), and the link rate loop (15 R408). -/

namespace Sys2Proof.Machine

/-! ### The torus (17 R454, Table 17.3) -/

/-- The number of the module in tray t, slot k: its index x + 8y + 64z with x = k, y = t mod 8 and z = t div 8, whose bits are its
position as a plan carries it (R454, 15 R412). -/
def moduleAt (t k : Nat) : Nat := k + 8 * (t % 8) + 64 * (t / 8)

/-- The module of this model: in the slot that its SLOT_ID pins name (21 R516). -/
def ownModule (s : State) : Nat := moduleAt s.tray.no s.boot.slotId.toNat

/-- A position with another coordinate in one dimension. -/
def withCoord (pos dim x : Nat) : Nat :=
  if dim = 2 then pos % 64 + 64 * x else pos - coordOf pos dim * 8 ^ dim + x * 8 ^ dim

/-- The far module of port p: one step on in its dimension, + on even ports and − on odd ones, around the ring. -/
def farModule (m p : Nat) : Nat :=
  let n := ringSize (p / 2)
  withCoord m (p / 2) ((coordOf m (p / 2) + if p % 2 = 0 then 1 else n - 1) % n)

/-- The far port: the other end of a + port is the − port of its dimension. -/
def farPort (p : Nat) : Nat := p + 1 - 2 * (p % 2)

/-- An entry of the rack's plan: enabled, with its far position, far port and 8 lanes (R455, 03 R88). -/
def planEntry (m p : Nat) : Nat := 1 + farModule m p * 2 + farPort p * 2 ^ 9 + 8 * 2 ^ 12

/-- The payload of PLAN_LOAD for module m of a rack (R455): Table 17.3, the rack's identifier, a generation of the whole rack. -/
def rackPlan (gen rackId : U32) (m : Nat) : List Byte :=
  leBytes 4 gen.toNat ++ leBytes 4 rackId.toNat ++ leBytes 8 m ++ (List.range 6).flatMap (fun p => leBytes 8 (planEntry m p))

/-! ### Slot eFuses -/

/-- What a slot's log entry gives: the cause, and the bus minimum in mV (R420). -/
def slotWord (cause : Nat) (s : State) : U64 := BitVec.ofNat 64 (cause + satNat 32 s.tray.busMin * 2 ^ 8)

/-- The module of this model stands in slot i. -/
def ownSlot (i : SlotNo) (s : State) : Bool := decide (i.val = s.boot.slotId.toNat)

/-- The output of slot i is gone: the input of the module in it is lost (R417). -/
def slotDead (i : SlotNo) (s : State) : State := if ownSlot i s then loseInput 0 0 131072 s else s

/-- A slot begins its ramp; it holds it at once while the bus is low (R418, R419). -/
def startRamp (i : SlotNo) (fails : List U64) (s : State) : State :=
  setSlot i.val { st := .inrush, outMv := 0, since := s.tray.ns, ramped := 0, held := s.tray.busLow, fails := fails } s

/-- The ns of ramping time a slot has used (R419). -/
def rampTime (x : Slot) (s : State) : Nat := if x.held then x.ramped else x.ramped + (s.tray.ns - x.since).toNat

/-- A slot fails: logged by the TMC; the fourth failure within 60 s of the first latches it off, which is reported
(R420). -/
def failSlot (i : SlotNo) (cause : Nat) (s : State) : State :=
  let x := slot s i.val
  let fresh := x.fails.head?.all (fun t => decide (60000000000 < (s.tray.ns - t).toNat))
  let fails := if fresh then [s.tray.ns] else x.fails ++ [s.tray.ns]
  let stay := decide (4 ≤ fails.length)
  let y : Slot := { st := if stay then .latched else .tripped, outMv := 0, since := s.tray.ns, ramped := 0, held := false, fails := fails }
  let s1 := emit (.sideband (.slotTrip i.val) (slotWord cause s)) (setSlot i.val y s)
  slotDead i (if stay then emit (.sideband (.slotLatch i.val) (slotWord cause s)) s1 else s1)

/-- SLOT_ENABLE: a slot that is off begins its inrush (R418). -/
def execSlotEnable (i : SlotNo) (s : State) : Host.Outcome State Fault Refusal :=
  ok (if (slot s i.val).st = .off then startRamp i [] s else s)

/-- A RAMP_SET to a module, with the generation it carries. -/
def orderRamp (m : Nat) (s : State) : State :=
  let x := rackMod s m
  emit (.sideband (.rampOrder m x.up x.down x.cap) (s.grc.budgetGen.setWidth 64)) s

/-- A PLAN_LOAD to a module: every load since the GRC took up its work carries the generation after the last one loaded before
(17 R455, R464; DESIGN CHOICE, log entry 113). -/
def orderPlan (m : Nat) (s : State) : State := emit (.planOrder m (rackPlan (s.grc.planGen + 1#32) s.grc.rackId m)) s

/-- INRUSH_COMPLETE: the output within 1 V of the bus and the current below 1 A; power good to the module (R418), which the GRC
then sends its budget and the rack's plan (17 R465, Table 17.8). -/
def execInrushComplete (i : SlotNo) (outMv busMv ma : Nat) (s : State) : Host.Outcome State Fault Refusal :=
  let x := slot s i.val
  if x.st = .inrush ∧ busMv ≤ outMv + 1000 ∧ outMv ≤ busMv + 1000 ∧ ma < 1000 then
    let s1 := setSlot i.val { x with st := .run, outMv := outMv, since := s.tray.ns, ramped := rampTime x s, held := false } s
    let s2 := if ownSlot i s && !s.boot.powered then powerUp s.boot.slotId (s.boot.powerOnCount + 1#32) s1 else s1
    let m := moduleAt s.tray.no i.val
    ok (orderPlan m (orderRamp m s2))
  else ok s

/-- EFUSE_FAST_TRIP: 24 A in run or in inrush (R418). -/
def execEfuseFastTrip (i : SlotNo) (ma : Nat) (s : State) : Host.Outcome State Fault Refusal :=
  let x := slot s i.val
  ok (if (x.st = .run ∨ x.st = .inrush) ∧ 24000 ≤ ma then failSlot i 0 s else s)

/-- EFUSE_LIMIT_TRIP: 1 ms at the 12 A limit in run (R418). -/
def execEfuseLimitTrip (i : SlotNo) (s : State) : Host.Outcome State Fault Refusal :=
  ok (if (slot s i.val).st = .run then failSlot i 1 s else s)

/-- INRUSH_BUDGET_EXPIRY: a slot has ramped for 40 ms, held time not counted (R419, R420). -/
def execInrushBudgetExpiry (i : SlotNo) (s : State) : Host.Outcome State Fault Refusal :=
  let x := slot s i.val
  ok (if x.st = .inrush ∧ x.held = false then failSlot i 2 s else s)

/-- A slot in inrush holds its ramp at the voltage it has reached, at 2 V/ms (R418, R419). -/
def holdSlot (t : State) (x : Slot) : Slot :=
  if x.st = .inrush ∧ x.held = false then
    { x with held := true, ramped := rampTime x t, outMv := x.outMv + (t.tray.ns - x.since).toNat / 500, since := t.tray.ns }
  else x

/-- BUS_LOW_HOLD: the tray bus is below 46 V (R419). -/
def execBusLowHold (mv : Nat) (s : State) : Host.Outcome State Fault Refusal :=
  if mv < 46000 then
    ok { s with tray := { s.tray with slots := s.tray.slots.map (fun p => (p.1, holdSlot s p.2)), busLow := true,
                                      busMin := min mv s.tray.busMin } }
  else ok s

/-- BUS_RECOVER: the bus has stayed above 50 V for 1 ms; held slots resume (R419). -/
def execBusRecover (mv : Nat) (s : State) : Host.Outcome State Fault Refusal :=
  let free (x : Slot) : Slot := if x.st = .inrush ∧ x.held = true then { x with held := false, since := s.tray.ns } else x
  if 50000 < mv then
    ok { s with tray := { s.tray with slots := s.tray.slots.map (fun p => (p.1, free p.2)), busLow := false } }
  else ok s

/-- SLOT_RETRY: 1 s after it failed, a slot that is not latched is tried again; the TMC logs it (R420). -/
def execSlotRetry (i : SlotNo) (s : State) : Host.Outcome State Fault Refusal :=
  let x := slot s i.val
  ok (if x.st = .tripped then emit (.sideband (.slotRetry i.val) (slotWord 0 s)) (startRamp i x.fails s) else s)

/-- SLOT_OFF: a GRC order; a power loss to the module (17 Table 17.4). A latch stands. -/
def execSlotOff (i : SlotNo) (s : State) : Host.Outcome State Fault Refusal :=
  let x := slot s i.val
  if x.st = .latched ∨ x.st = .off then ok s
  else ok (slotDead i (setSlot i.val { x with st := .off, outMv := 0, since := s.tray.ns, ramped := 0, held := false } s))

/-- CLEAR_LATCH: a GRC order ends the latch, and the slot is tried at once (17 Table 17.4); one of the TMC window in which the slot
latched is refused (Table 17.6). -/
def execClearLatch (i : SlotNo) (s : State) : Host.Outcome State Fault Refusal :=
  ok (if (slot s i.val).st = .latched ∧ (slot s i.val).since ≠ s.tray.ns then
    emit (.sideband (.slotRetry i.val) (slotWord 0 s)) (startRamp i [] s) else s)

/-- COLD_RESET_ORDER: the Keep region is saved on main power, then the module restarts (16 R441, 17 Table 17.4). -/
def execColdResetOrder (s : State) : Host.Outcome State Fault Refusal :=
  ok (if s.boot.powered then coldReset (saveKeep 131072 (deadWords s s.marl.deadSlices) s) else s)

/-! ### The GRC -/

/-- The healthy modules, by number, and how many (R457). -/
def healthyMods (s : State) : List Nat := (s.grc.mods.filter (fun m => m.2.healthy)).map (fun m => m.1)

/-- The capacity the GRC plans against, in W (17 Table 17.1). -/
def planned (g : Grc) : Nat := if g.facility then g.pFac else min g.shelves 7 * 25000

/-- The cap for n healthy modules (R448). -/
def capW (g : Grc) (n : Nat) : Nat := min 480 (975 * (planned g - 200 - 1211 * g.trays) / (1000 * n))

/-- Caps for every healthy module (R448). -/
def sendCaps (s : State) : State :=
  let ms := healthyMods s
  let cap := capW s.grc ms.length
  ms.foldl (fun s' m => orderRamp m (setRackMod m { rackMod s' m with cap := cap } s')) s

/-- A module's rate in units (R451): equal shares, or at least 10 units and a share of the rest by the ms it was
held, where the limit holds 10 units for each (log entry 50). -/
def rateOf (g : Grc) (n : Nat) (held : Tab Nat) (m : Nat) : Nat :=
  let l := g.rackRamp - g.hostAllow
  let sum := sumNat (held.map (fun p => p.2))
  if g.demand ∧ sum ≠ 0 ∧ 10 * n ≤ l then 10 + (l - 10 * n) * tget 0 held m / sum else l / n

/-- The rates of a module are set and sent. -/
def setRates (m rate : Nat) (s : State) : State := orderRamp m (setRackMod m { rackMod s m with up := rate, down := rate } s)

/-- The raises of a distribution are sent. -/
def sendRaises (s : State) : State :=
  s.grc.raises.foldl (fun s' r => setRates r.1 r.2 s') { s with grc := { s.grc with raises := [] } }

/-- A distribution of budgets (R451, R452): the generation is one greater, and every lowering goes out; the raises go at once
where nothing is lowered, else once the lowerings are acknowledged and 10 ms have passed. The acknowledgements are taken as come
by then (DEDUCED, log entry 50). -/
def distribute (held : List (Nat × Nat)) (s : State) : State :=
  let ms := healthyMods s
  let t : Tab Nat := (held.filter (fun p => decide (p.1 ∈ ms))).foldl (fun t p => tput t p.1 p.2) []
  let rate := rateOf s.grc ms.length t
  let lower (m : Nat) : Bool := decide (rate m < (rackMod s m).up ∨ rate m < (rackMod s m).down)
  let ups := (ms.filter (fun m => !lower m)).map (fun m => (m, rate m))
  let s1 := { s with grc := { s.grc with budgetGen := s.grc.budgetGen + 1#32, raises := ups, raiseAt := s.tray.ns + 10000000#64 } }
  let s2 := (ms.filter lower).foldl (fun s' m => setRates m (rate m) s') s1
  if ms.any lower then s2 else sendRaises s2

/-! ### The rack's capacity (R459, R461, R462) -/

/-- What the GRC knows of a module: of this model's module what it reports itself (05 R155, 08 R243, 15 Table 15.6), of another
what it last read. -/
def figures (s : State) (m : Nat) : RackMod :=
  let x := rackMod s m
  if m ≠ ownModule s then x
  else
    let fenced := (List.range 32).filter (fun k => isFenced s (k / 2) (k % 2))
    let live := (List.range 32).filter (fun k => !isFenced s (k / 2) (k % 2) && !rankMigrating s (k / 2) (k % 2))
    let grains := (live.map (fun k => ((List.range 64).filter (fun g => !isOut s (128 * (k / 2) + 64 * (k % 2) + g))).length))
    let mask (f : Nat → Bool) : BitVec 6 := BitVec.ofNat 6 ((List.range 6).foldl (fun n p => n + bitIf (f p) p) 0)
    { x with grains := grains.foldl (fun a b => a + b) 0, fencedRanks := fenced.length,
             upPorts := mask (fun p => decide ((port s p).st = .up)), carryPorts := mask (portUp s) }

/-- The figures of the healthy modules. -/
def healthyFigures (s : State) : Tab RackMod := (healthyMods s).map (fun m => (m, figures s m))

/-- A port of a healthy module and the far end of its link carry. -/
def linkCarries (t : Tab RackMod) (m p : Nat) : Bool :=
  (tfind t m).any (fun x => x.carryPorts.getLsbD p)
    && (tfind t (farModule m p)).any (fun y => y.carryPorts.getLsbD (farPort p))

/-- The hops of a packet from module m to dst, following R406 at each module; none where one drops it. -/
def hopsFrom (t : Tab RackMod) (fuel m dst : Nat) (detour wrongWay : Bool) (inPort hops : Nat) : Option Nat :=
  match fuel with
  | 0 => none
  | k + 1 =>
    if m = dst then some hops
    else match routeWith (linkCarries t m) m dst detour wrongWay inPort with
      | none => none
      | some (p, dt, ww) => hopsFrom t k (farModule m p) dst dt ww (farPort p) (hops + 1)

/-- The ordered pairs of healthy modules, with their hops (R462); no route is longer than 32. -/
def pairHops (t : Tab RackMod) : List ((Nat × Nat) × Option Nat) :=
  t.flatMap (fun a => (t.filter (fun b => decide (b.1 ≠ a.1))).map (fun b =>
    ((a.1, b.1), hopsFrom t 33 a.1 b.1 false false 0 0)))

/-- The rack mode (R459). -/
def modeOf (t : Tab RackMod) : RackMode :=
  if t.length = 256 ∧ t.all (fun x => decide (x.2.upPorts = 0x3F#6)) = true then .full
  else if 240 ≤ t.length then .degraded else .belowFloor

/-- The capacity report (Table 17.5). -/
def capacityOf (s : State) : Capacity :=
  let t := healthyFigures s
  let grains := sumNat (t.map (fun x => x.2.grains))
  let pairs := pairHops t
  { mode := modeOf t, healthy := t.length, grains := grains, nearBankGbs := 32 * grains,
    dpaGib := sumNat (t.map (fun x => 512 - 16 * x.2.fencedRanks)), matrixTenths := 1966 * t.length,
    unreachable := (pairs.filter (fun p => p.2.isNone)).map (fun p => p.1),
    maxHops := pairs.foldl (fun n p => max n (p.2.getD 0)) 0 }

/-- The GRC sets the rack mode and reports the capacity where it has changed (R459, R461). -/
def reportCapacity (s : State) : State :=
  let c := capacityOf s
  if s.grc.report = some c then s
  else emit (.capacity c) { s with grc := { s.grc with mode := c.mode, report := some c } }

/-- What the GRC newly reads of a module; a fenced one stays out (R457). -/
def seeModule (x : ModReport) (s : State) : State :=
  let y := rackMod s x.m.val
  setRackMod x.m.val { y with healthy := x.healthy && !y.fenced, grains := x.grains, fencedRanks := x.fencedRanks,
                              upPorts := x.upPorts, carryPorts := x.carryPorts } s

/-- CAPACITY_CHANGE: a change of the source, and what the GRC reads of the modules that changed: the caps, and the report (R448,
R461). A redistribution under way is abandoned, and a new one follows the caps (Table 17.6). -/
def execCapacityChange (shelves trays : Nat) (seen : List ModReport) (s : State) : Host.Outcome State Fault Refusal :=
  let s1 := seen.foldl (fun s' x => seeModule x s')
    { s with grc := { s.grc with shelves := shelves, trays := trays, raises := [] } }
  let s2 := sendCaps s1
  ok (reportCapacity (if s.grc.raises = [] then s2 else distribute [] s2))

/-- BUDGET_DISTRIBUTION: `held` are the ms each module was held back in the last second (R451). -/
def execBudgetDistribution (held : List (ModNo × Nat)) (s : State) : Host.Outcome State Fault Refusal :=
  ok (distribute (held.map (fun p => (p.1.val, p.2))) s)

/-- A fence that finds the module still answering is gentle (R458; which causes do, log entry 50). -/
def gentle (cause : FenceCause) : Bool :=
  match cause with
  | .planFailed => true
  | .ordered => true
  | _ => false

/-- MODULE_FENCE: a gentle one lowers the cap to 38 W first; slot off; budgets and caps for the modules left, and the report
(R458, R461). -/
def execModuleFence (m : ModNo) (cause : FenceCause) (s : State) : Host.Outcome State Fault Refusal :=
  let x := rackMod s m.val
  if x.fenced then ok s
  else
    let s1 := if gentle cause then orderRamp m.val (setRackMod m.val { x with cap := 38 } s) else s
    let s2 := setRackMod m.val { rackMod s1 m.val with healthy := false, fenced := true } s1
    ok (reportCapacity (sendCaps (distribute [] (emit (.sideband (.slotOffOrder m.val) 0#64) s2))))

/-- The highest of some generations, compared as plain numbers: a generation is no sequence value of 00 R6 (DESIGN CHOICE, log
entry 114). -/
def highest (l : List U32) : U32 := l.foldl (fun a b => if a < b then b else a) 0#32

/-- GRC_RESTART: the generations and the modules are read anew; one that is not read is not healthy (R464, R457). -/
def execGrcRestart (budgetGens planGens : List U32) (seen : List ModReport) (s : State) : Host.Outcome State Fault Refusal :=
  let lost := s.grc.mods.foldl (fun t p => tset RackMod.reset t p.1 { p.2 with healthy := false }) []
  let s1 := seen.foldl (fun s' x => seeModule x s')
    { s with grc := { s.grc with budgetGen := highest budgetGens, planGen := highest planGens, mods := lost, raises := [] } }
  ok (reportCapacity s1)

/-! ### The link rate loop (15 R408) -/

/-- Some port is held at the fallback rate by its loop. -/
def anyHeld (s : State) : Bool := (List.range 6).any (fun p => (port s p).loopHold)

/-- More than 1 corrected symbol in 10^5, or more than 1 uncorrectable codeword in 10^9 (R408). -/
def fecBad (corrected symbols uncorrectable codewords : Nat) : Bool :=
  decide (symbols < 100000 * corrected) || decide (codewords < 1000000000 * uncorrectable)

/-- RATE_LOOP_CHECK: what a port's FEC saw over 1 s, which the event counters take (19 Table 19.4); past the limits the
port falls back. A pin to the full rate is overruled, which is counted (R408, 16 R423). -/
def execRateLoopCheck (p : PortNo) (corrected symbols uncorrectable codewords : Nat) (s : State) :
    Host.Outcome State Fault Refusal :=
  let x := port s p.val
  let s0 := countEv 0x73 p.val none uncorrectable (countEv 0x72 p.val none corrected s)
  if !portUp s p.val then ok s
  else if !fecBad corrected symbols uncorrectable codewords || x.loopHold then ok s0
  else
    let past := decide (ratePinOf s p.val = 2)
    let s1 := setPort p.val { x with loopHold := true } (if past then bump 10 s0 else s0)
    ok (setRate p.val true (setLoop 4 (locOf 3 (islLk p.val)) true past 664 s1))

/-- RATE_RETRY_TIMER: 10 minutes later the full rate is tried again, where no pin holds the fallback rate (R408). -/
def execRateRetryTimer (p : PortNo) (s : State) : Host.Outcome State Fault Refusal :=
  let x := port s p.val
  if !x.loopHold then ok s
  else
    let s1 := setPort p.val { x with loopHold := false } s
    ok (setRate p.val (decide (ratePinOf s p.val = 1)) (setLoop 4 (locOf 3 (islLk p.val)) (anyHeld s1) false 1328 s1))

end Sys2Proof.Machine
end

