-- ==== Sys2Proof/Machine/Dispatch.lean ====
section
/-! DEFINITION. The effect of every command: one arm for each constructor of Instr. -/

namespace Sys2Proof.Machine

def exec (i : Instr) (s : State) : Host.Outcome State Fault Refusal :=
  match i with
  -- doorbells and rings (04)
  | .workDoorbell pfPage f v => Sys2Proof.Machine.execWorkDoorbell pfPage f v s
  | .cancelDoorbell pfPage f v => Sys2Proof.Machine.execCancelDoorbell pfPage f v s
  | .ringCfgWrite pfPage f h v => Sys2Proof.Machine.execRingCfgWrite pfPage f h v s
  | .ringBaseWrite pfPage f done h v => Sys2Proof.Machine.execRingBaseWrite pfPage f done h v s
  | .doorbellPageBadAccess pfPage f write off size => Sys2Proof.Machine.execDoorbellPageBadAccess pfPage f write off size s
  | .descriptorFetchIssue f n => Sys2Proof.Machine.execDescriptorFetchIssue f n s
  | .descriptorFetchLand f k slots bad => Sys2Proof.Machine.execDescriptorFetchLand f k slots bad s
  | .descriptorAccept f => Sys2Proof.Machine.execDescriptorAccept f s
  -- descriptors (04 Table 4.6)
  | .nop p => Sys2Proof.Machine.execNop p s
  | .fence p => Sys2Proof.Machine.execFence p s
  | .fenceWaitsEnd p => Sys2Proof.Machine.execFenceWaitsEnd p s
  | .resync p => Sys2Proof.Machine.execResync p s
  | .inspect p => Sys2Proof.Machine.execInspect p s
  | .run p image => Sys2Proof.Machine.execRun p image s
  | .serveStep p batch => Sys2Proof.Machine.execServeStep p batch s
  | .cancel p => Sys2Proof.Machine.execCancel p s
  | .copy p => Sys2Proof.Machine.execCopy p s
  | .spread p => Sys2Proof.Machine.execSpread p s
  | .grainRun p => Sys2Proof.Machine.execGrainRun p s
  | .tilthLoad p code => Sys2Proof.Machine.execTilthLoad p code s
  | .keepWrite p src => Sys2Proof.Machine.execKeepWrite p src s
  | .keepRead p => Sys2Proof.Machine.execKeepRead p s
  | .ship p list => Sys2Proof.Machine.execShip p list s
  | .signal p => Sys2Proof.Machine.execSignal p s
  | .pageGrant p => Sys2Proof.Machine.execPageGrant p s
  | .pageReturn p list => Sys2Proof.Machine.execPageReturn p list s
  | .pageClear p => Sys2Proof.Machine.execPageClear p s
  | .evcSnap p => Sys2Proof.Machine.execEvcSnap p s
  | .contextAssign p => Sys2Proof.Machine.execContextAssign p s
  | .descriptorCompletion p => Sys2Proof.Machine.execDescriptorCompletion p s
  | .doneRecordWrite f => Sys2Proof.Machine.execDoneRecordWrite f s
  -- the host side (03)
  | .flrVf f => Sys2Proof.Machine.execFlrVf f s
  | .hdmDecoderCommit dec v => Sys2Proof.Machine.execHdmDecoderCommit dec v s
  | .cxlMemRead hpa => Sys2Proof.Machine.execCxlMemRead hpa s
  | .cxlMemWrite hpa data mask => Sys2Proof.Machine.execCxlMemWrite hpa data mask s
  | .cxlLinkLoss => Sys2Proof.Machine.execCxlLinkLoss s
  | .ideIntegrityFailure mem => Sys2Proof.Machine.execIdeIntegrityFailure mem s
  | .conventionalReset => Sys2Proof.Machine.execConventionalReset s
  | .hubResetWrite v => Sys2Proof.Machine.execHubResetWrite v s
  -- mailbox (03 Table 3.8)
  | .getEventRecords path log count => Sys2Proof.Machine.execGetEventRecords path log count s
  | .clearEventRecords path log handles => Sys2Proof.Machine.execClearEventRecords path log handles s
  | .getFwInfo path => Sys2Proof.Machine.execGetFwInfo path s
  | .transferFw path slot image => Sys2Proof.Machine.execTransferFw path slot image s
  | .activateFw path slot online => Sys2Proof.Machine.execActivateFw path slot online s
  | .getTimestamp path => Sys2Proof.Machine.execGetTimestamp path s
  | .setTimestamp path v => Sys2Proof.Machine.execSetTimestamp path v s
  | .getSupportedLogs path => Sys2Proof.Machine.execGetSupportedLogs path s
  | .getLog path index => Sys2Proof.Machine.execGetLog path index s
  | .identifyMemoryDevice path => Sys2Proof.Machine.execIdentifyMemoryDevice path s
  | .getHealthInfo path => Sys2Proof.Machine.execGetHealthInfo path s
  | .getPoisonList path => Sys2Proof.Machine.execGetPoisonList path s
  | .keepGetInfo path payload => Sys2Proof.Machine.execKeepGetInfo path payload s
  | .keepSetSize path payload => Sys2Proof.Machine.execKeepSetSize path payload s
  | .planLoad path payload => Sys2Proof.Machine.execPlanLoad path payload s
  | .planGet path payload => Sys2Proof.Machine.execPlanGet path payload s
  | .rampSet path payload => Sys2Proof.Machine.execRampSet path payload s
  | .rampGet path payload => Sys2Proof.Machine.execRampGet path payload s
  | .unsupportedMailboxCommand path opcode => Sys2Proof.Machine.execUnsupportedMailboxCommand path opcode s
  -- SPDM, IDE, CDAT (03 R79, R80, R63)
  | .getVersion => Sys2Proof.Machine.execGetVersion s
  | .getCapabilities flags => Sys2Proof.Machine.execGetCapabilities flags s
  | .negotiateAlgorithms asym hash => Sys2Proof.Machine.execNegotiateAlgorithms asym hash s
  | .getDigests => Sys2Proof.Machine.execGetDigests s
  | .getCertificate slot off len => Sys2Proof.Machine.execGetCertificate slot off len s
  | .challenge slot nonce => Sys2Proof.Machine.execChallenge slot nonce s
  | .getMeasurements index => Sys2Proof.Machine.execGetMeasurements index s
  | .keyExchange data => Sys2Proof.Machine.execKeyExchange data s
  | .finish verify => Sys2Proof.Machine.execFinish verify s
  | .endSession => Sys2Proof.Machine.execEndSession s
  | .ideKm mem skid key => Sys2Proof.Machine.execIdeKm mem skid key s
  | .cdatRead => Sys2Proof.Machine.execCdatRead s
  -- the Marl (02)
  | .marlWriteCommit t data mask poison => Sys2Proof.Machine.execMarlWriteCommit t data mask poison s
  | .marlRead t ecc => Sys2Proof.Machine.execMarlRead t ecc s
  | .marlPatrolScrub t ecc => Sys2Proof.Machine.execMarlPatrolScrub t ecc s
  | .passLaneAgeExpiry c r => Sys2Proof.Machine.execPassLaneAgeExpiry c r s
  | .writeBack word => Sys2Proof.Machine.execWriteBack word s
  | .regionRelease id => Sys2Proof.Machine.execRegionRelease id s
  | .preCommandWriteBack c => Sys2Proof.Machine.execPreCommandWriteBack c s
  | .marlPartTakeEffect => Sys2Proof.Machine.execMarlPartTakeEffect s
  -- command/address bus and dies (07)
  | .act c r bank row => Sys2Proof.Machine.execAct c r bank row s
  | .rd c r bank col ap flips => Sys2Proof.Machine.execRd c r bank col ap flips s
  | .wr c r bank col ap poison data => Sys2Proof.Machine.execWr c r bank col ap poison data s
  | .pre c r bank all => Sys2Proof.Machine.execPre c r bank all s
  | .ref c r bank all => Sys2Proof.Machine.execRef c r bank all s
  | .mrw c r addr data dies => Sys2Proof.Machine.execMrw c r addr data dies s
  | .mrr c r addr => Sys2Proof.Machine.execMrr c r addr s
  | .grainSelfTestStart c r dies => Sys2Proof.Machine.execGrainSelfTestStart c r dies s
  | .alertCauseClear c r dies causes => Sys2Proof.Machine.execAlertCauseClear c r dies causes s
  | .modeChangeEffect c r d => Sys2Proof.Machine.execModeChangeEffect c r d s
  | .sre c r => Sys2Proof.Machine.execSre c r s
  | .srx c r => Sys2Proof.Machine.execSrx c r s
  | .zq c r => Sys2Proof.Machine.execZq c r s
  | .sel c r sel => Sys2Proof.Machine.execSel c r sel s
  | .actg c r row => Sys2Proof.Machine.execActg c r row s
  | .preg c r => Sys2Proof.Machine.execPreg c r s
  | .sprd c r insn => Sys2Proof.Machine.execSprd c r insn s
  | .grun c r entry => Sys2Proof.Machine.execGrun c r entry s
  | .haltg c r => Sys2Proof.Machine.execHaltg c r s
  | .stat c r => Sys2Proof.Machine.execStat c r s
  | .craw c r slot data => Sys2Proof.Machine.execCraw c r slot data s
  | .crar c r slot grain => Sys2Proof.Machine.execCrar c r slot grain s
  | .tlw c r index words data => Sys2Proof.Machine.execTlw c r index words data s
  | .tlr c r index grain => Sys2Proof.Machine.execTlr c r index grain s
  | .bind c r lo hi f => Sys2Proof.Machine.execBind c r lo hi f s
  | .undefinedCaCommand c r cycles => Sys2Proof.Machine.execUndefinedCaCommand c r cycles s
  | .resetNRelease c r => Sys2Proof.Machine.execResetNRelease c r s
  | .spreadEnd c r grains => Sys2Proof.Machine.execSpreadEnd c r grains s
  | .grainStop g parity => Sys2Proof.Machine.execGrainStop g parity s
  -- Tilth code (06)
  | .halt g => Sys2Proof.Machine.execHalt g s
  | .tilthNop g => Sys2Proof.Machine.execTilthNop g s
  | .loopi g => Sys2Proof.Machine.execLoopi g s
  | .loopr g => Sys2Proof.Machine.execLoopr g s
  | .br g => Sys2Proof.Machine.execBr g s
  | .salu g => Sys2Proof.Machine.execSalu g s
  | .addi g => Sys2Proof.Machine.execAddi g s
  | .ori g => Sys2Proof.Machine.execOri g s
  | .lui g => Sys2Proof.Machine.execLui g s
  | .shi g => Sys2Proof.Machine.execShi g s
  | .sgetv g => Sys2Proof.Machine.execSgetv g s
  | .vsets g => Sys2Proof.Machine.execVsets g s
  | .vldc g => Sys2Proof.Machine.execVldc g s
  | .vstc g => Sys2Proof.Machine.execVstc g s
  | .vlds g => Sys2Proof.Machine.execVlds g s
  | .vsts g => Sys2Proof.Machine.execVsts g s
  | .slds g => Sys2Proof.Machine.execSlds g s
  | .ssts g => Sys2Proof.Machine.execSsts g s
  | .sldr g => Sys2Proof.Machine.execSldr g s
  | .sstr g => Sys2Proof.Machine.execSstr g s
  | .alds g => Sys2Proof.Machine.execAlds g s
  | .asts g => Sys2Proof.Machine.execAsts g s
  | .aldc g => Sys2Proof.Machine.execAldc g s
  | .astc g => Sys2Proof.Machine.execAstc g s
  | .vop g => Sys2Proof.Machine.execVop g s
  | .vsplat g => Sys2Proof.Machine.execVsplat g s
  | .vcmp g => Sys2Proof.Machine.execVcmp g s
  | .mac g => Sys2Proof.Machine.execMac g s
  | .macc g => Sys2Proof.Machine.execMacc g s
  | .bpmac g => Sys2Proof.Machine.execBpmac g s
  | .aop g => Sys2Proof.Machine.execAop g s
  | .ahred g => Sys2Proof.Machine.execAhred g s
  | .send g => Sys2Proof.Machine.execSend g s
  | .recv g => Sys2Proof.Machine.execRecv g s
  | .radd g => Sys2Proof.Machine.execRadd g s
  | .seamVectorArrive g down => Sys2Proof.Machine.execSeamVectorArrive g down s
  -- bank controllers (08)
  | .refreshDue c r bank => Sys2Proof.Machine.execRefreshDue c r bank s
  | .temperatureRead c r temps => Sys2Proof.Machine.execTemperatureRead c r temps s
  | .neighbourRefresh c => Sys2Proof.Machine.execNeighbourRefresh c s
  | .throttleRelease c => Sys2Proof.Machine.execThrottleRelease c s
  | .bcRequestLatch c req => Sys2Proof.Machine.execBcRequestLatch c req s
  | .statPoll c r => Sys2Proof.Machine.execStatPoll c r s
  | .alertNLow c => Sys2Proof.Machine.execAlertNLow c s
  | .refreshGuard c r bank => Sys2Proof.Machine.execRefreshGuard c r bank s
  | .bcFreqWrite v => Sys2Proof.Machine.execBcFreqWrite v s
  | .rankFailure c r cause dpa => Sys2Proof.Machine.execRankFailure c r cause dpa s
  | .migrationStart q => Sys2Proof.Machine.execMigrationStart q s
  | .migrationRowCopy q => Sys2Proof.Machine.execMigrationRowCopy q s
  | .migrationComplete q => Sys2Proof.Machine.execMigrationComplete q s
  | .bankPatrolScrub c r bank row col flips => Sys2Proof.Machine.execBankPatrolScrub c r bank row col flips s
  | .bcRelease c results => Sys2Proof.Machine.execBcRelease c results s
  -- sequencers (09)
  | .imageLoadComplete x image args => Sys2Proof.Machine.execImageLoadComplete x image args s
  | .commandPush x cmd => Sys2Proof.Machine.execCommandPush x cmd s
  | .loopOpen x count body bodyEnd => Sys2Proof.Machine.execLoopOpen x count body bodyEnd s
  | .branch x cond a b target => Sys2Proof.Machine.execBranch x cond a b target s
  | .call x routine => Sys2Proof.Machine.execCall x routine s
  | .ret x => Sys2Proof.Machine.execRet x s
  | .valueOp x fn d a b => Sys2Proof.Machine.execValueOp x fn d a b s
  | .generatorSet x g fld v => Sys2Proof.Machine.execGeneratorSet x g fld v s
  | .contextEnd x => Sys2Proof.Machine.execContextEnd x s
  | .contextWake x => Sys2Proof.Machine.execContextWake x s
  | .engineCommandComplete q => Sys2Proof.Machine.execEngineCommandComplete q s
  | .contextWatchdogExpiry x => Sys2Proof.Machine.execContextWatchdogExpiry x s
  | .engineWatchdogExpiry e => Sys2Proof.Machine.execEngineWatchdogExpiry e s
  -- flags and wires (12)
  | .flagSet x sp n => Sys2Proof.Machine.execFlagSet x sp n s
  | .flagClear x sp n => Sys2Proof.Machine.execFlagClear x sp n s
  | .flagWait x sp n want => Sys2Proof.Machine.execFlagWait x sp n want s
  | .flagWaitConsume x sp n => Sys2Proof.Machine.execFlagWaitConsume x sp n s
  | .remoteSignal x n dst => Sys2Proof.Machine.execRemoteSignal x n dst s
  | .barrierClaim x w n moduleWide => Sys2Proof.Machine.execBarrierClaim x w n moduleWide s
  | .barrierArrive x w => Sys2Proof.Machine.execBarrierArrive x w s
  | .barrierArriveWait x w => Sys2Proof.Machine.execBarrierArriveWait x w s
  | .barrierWait x w => Sys2Proof.Machine.execBarrierWait x w s
  | .moduleWideWireRelease w => Sys2Proof.Machine.execModuleWideWireRelease w s
  | .realignRequest x k => Sys2Proof.Machine.execRealignRequest x k s
  -- engines (10, 11)
  | .weightLoad n ecc => Sys2Proof.Machine.execWeightLoad n ecc s
  | .productPass n ecc => Sys2Proof.Machine.execProductPass n ecc s
  | .slipCommand n ecc => Sys2Proof.Machine.execSlipCommand n ecc s
  | .layoutCommand n => Sys2Proof.Machine.execLayoutCommand n s
  | .layoutStep n ecc => Sys2Proof.Machine.execLayoutStep n ecc s
  -- serving (13, 14)
  | .workUnitEnd x ended => Sys2Proof.Machine.execWorkUnitEnd x ended s
  | .rowCommit p row => Sys2Proof.Machine.execRowCommit p row s
  | .outputTableWrite p => Sys2Proof.Machine.execOutputTableWrite p s
  | .hubModelTakeEffect f slot => Sys2Proof.Machine.execHubModelTakeEffect f slot s
  | .grnPartTakeEffect f => Sys2Proof.Machine.execGrnPartTakeEffect f s
  -- links (15)
  | .ident p h pl => Sys2Proof.Machine.execIdent p h pl s
  | .lack p h => Sys2Proof.Machine.execLack p h s
  | .tsync p h pl => Sys2Proof.Machine.execTsync p h pl s
  | .openShip p h flag part last pages => Sys2Proof.Machine.execOpenShip p h flag part last pages s
  | .openReply p h code => Sys2Proof.Machine.execOpenReply p h code s
  | .write p h page segment data poison => Sys2Proof.Machine.execWrite p h page segment data poison s
  | .writeAck p h entry => Sys2Proof.Machine.execWriteAck p h entry s
  | .flagSetPacket p h flag ship => Sys2Proof.Machine.execFlagSetPacket p h flag ship s
  | .flagReply p h code => Sys2Proof.Machine.execFlagReply p h code s
  | .abort p h => Sys2Proof.Machine.execAbort p h s
  | .noroute p h type => Sys2Proof.Machine.execNoroute p h type s
  | .unknownPacket p h type payload => Sys2Proof.Machine.execUnknownPacket p h type payload s
  | .packetForward p vc => Sys2Proof.Machine.execPacketForward p vc s
  | .replayTimerExpiry p => Sys2Proof.Machine.execReplayTimerExpiry p s
  | .codewordErrorLimit p => Sys2Proof.Machine.execCodewordErrorLimit p s
  | .signalDetect p polarity reversed => Sys2Proof.Machine.execSignalDetect p polarity reversed s
  | .lossOfSignal p => Sys2Proof.Machine.execLossOfSignal p s
  | .laneFailure p lane => Sys2Proof.Machine.execLaneFailure p lane s
  | .identSendTimer p => Sys2Proof.Machine.execIdentSendTimer p s
  | .tsyncSendTimer p => Sys2Proof.Machine.execTsyncSendTimer p s
  | .rateLoopCheck p corrected symbols uncorrectable codewords => Sys2Proof.Machine.execRateLoopCheck p corrected symbols uncorrectable codewords s
  | .rateRetryTimer p => Sys2Proof.Machine.execRateRetryTimer p s
  -- power and the Keep region (16)
  | .powerLossLatch cause minMv covers => Sys2Proof.Machine.execPowerLossLatch cause minMv covers s
  | .powerMeasure watts predicted => Sys2Proof.Machine.execPowerMeasure watts predicted s
  | .rampInterval => Sys2Proof.Machine.execRampInterval s
  | .thermalSense isl temp => Sys2Proof.Machine.execThermalSense isl temp s
  | .voltageDroop isl ns => Sys2Proof.Machine.execVoltageDroop isl ns s
  | .channelFreqLoop => Sys2Proof.Machine.execChannelFreqLoop s
  | .holdupVoltageMeasure mv => Sys2Proof.Machine.execHoldupVoltageMeasure mv s
  | .capacitanceMeasure uf mv cellFault => Sys2Proof.Machine.execCapacitanceMeasure uf mv cellFault s
  | .trickleCleanTimer block => Sys2Proof.Machine.execTrickleCleanTimer block s
  | .keepCopyCommit block => Sys2Proof.Machine.execKeepCopyCommit block s
  | .nandProgramFailure block => Sys2Proof.Machine.execNandProgramFailure block s
  | .thermalTrip isl temp => Sys2Proof.Machine.execThermalTrip isl temp s
  | .holdupChargeComplete uf mv => Sys2Proof.Machine.execHoldupChargeComplete uf mv s
  -- tray and rack (16 R418 to R420, 17)
  | .slotEnable i0 => Sys2Proof.Machine.execSlotEnable i0 s
  | .inrushComplete i0 outMv busMv ma => Sys2Proof.Machine.execInrushComplete i0 outMv busMv ma s
  | .efuseFastTrip i0 ma => Sys2Proof.Machine.execEfuseFastTrip i0 ma s
  | .efuseLimitTrip i0 => Sys2Proof.Machine.execEfuseLimitTrip i0 s
  | .inrushBudgetExpiry i0 => Sys2Proof.Machine.execInrushBudgetExpiry i0 s
  | .busLowHold mv => Sys2Proof.Machine.execBusLowHold mv s
  | .busRecover mv => Sys2Proof.Machine.execBusRecover mv s
  | .slotRetry i0 => Sys2Proof.Machine.execSlotRetry i0 s
  | .slotOff i0 => Sys2Proof.Machine.execSlotOff i0 s
  | .clearLatch i0 => Sys2Proof.Machine.execClearLatch i0 s
  | .coldResetOrder => Sys2Proof.Machine.execColdResetOrder s
  | .capacityChange shelves trays seen => Sys2Proof.Machine.execCapacityChange shelves trays seen s
  | .budgetDistribution held => Sys2Proof.Machine.execBudgetDistribution held s
  | .moduleFence m cause => Sys2Proof.Machine.execModuleFence m cause s
  | .grcRestart budgetGens planGens seen => Sys2Proof.Machine.execGrcRestart budgetGens planGens seen s
  -- start-up and faults (18)
  | .powerGood slotId => Sys2Proof.Machine.execPowerGood slotId s
  | .marlSelfTestDone ok => Sys2Proof.Machine.execMarlSelfTestDone ok s
  | .islandSelfTestDone which ok => Sys2Proof.Machine.execIslandSelfTestDone which ok s
  | .grainSelfTestDone failing => Sys2Proof.Machine.execGrainSelfTestDone failing s
  | .memoryInitDone => Sys2Proof.Machine.execMemoryInitDone s
  | .keepRestoreDone => Sys2Proof.Machine.execKeepRestoreDone s
  | .mediaReady => Sys2Proof.Machine.execMediaReady s
  | .fabricReady => Sys2Proof.Machine.execFabricReady s
  | .fabricWaitExpiry p => Sys2Proof.Machine.execFabricWaitExpiry p s
  | .pmuWatchdogExpiry => Sys2Proof.Machine.execPmuWatchdogExpiry s
  | .hubFault code location sliceRow deadSlices => Sys2Proof.Machine.execHubFault code location sliceRow deadSlices s
  | .paritySweep offsets => Sys2Proof.Machine.execParitySweep offsets s
  -- setup registers (20)
  | .registerWrite off size v => Sys2Proof.Machine.execRegisterWrite off size v s
  | .marlPartCommit v => Sys2Proof.Machine.execMarlPartCommit v s
  | .hubTenCommit v => Sys2Proof.Machine.execHubTenCommit v s
  | .hubModelCommit v => Sys2Proof.Machine.execHubModelCommit v s
  | .bcMapCommit v => Sys2Proof.Machine.execBcMapCommit v s
  | .grnPartCommit v => Sys2Proof.Machine.execGrnPartCommit v s
  | .synFlagbCommit v => Sys2Proof.Machine.execSynFlagbCommit v s
  | .lnkLaneCommit v => Sys2Proof.Machine.execLnkLaneCommit v s
  | .keepCommit v => Sys2Proof.Machine.execKeepCommit v s
  | .evcCfgWrite n h v => Sys2Proof.Machine.execEvcCfgWrite n h v s
  | .flrPf => Sys2Proof.Machine.execFlrPf s
  | .flrWorkTimeout f => Sys2Proof.Machine.execFlrWorkTimeout f s
  | .perstDeassert => Sys2Proof.Machine.execPerstDeassert s
  | .cxlLinkUp lanes rate flit256 => Sys2Proof.Machine.execCxlLinkUp lanes rate flit256 s
  | .packetDiscard p why h => Sys2Proof.Machine.execPacketDiscard p why h s
  | .hostWriteRejected f kind => Sys2Proof.Machine.execHostWriteRejected f kind s
  | .pmuFirmwareRestartDone => Sys2Proof.Machine.execPmuFirmwareRestartDone s
  | .frequencyChangeDone c ok => Sys2Proof.Machine.execFrequencyChangeDone c ok s

end Sys2Proof.Machine
end

