-- ==== Sys2Proof/Machine/Tick.lean ====
section
/-! DEFINITION. A nanosecond without a command (log entry 4): the timebase and its slew (00 R5, 15 R413), the level counters
(19 R487, Table 19.4), the held times of the protective loops (16 R424), and what the GRC does in time (17 R452, R461). -/

namespace Sys2Proof.Machine

/-- The timebase one nanosecond later: a step of the slew, one in 10,000 ns, makes it 2 or 0 (log entry 7). -/
def Clk.tick (c : Clk) : Clk :=
  let up := c.up + 1#64
  if c.slew = 0 ∨ c.slewWait ≠ 0 then { c with mtb := c.mtb + 1#64, slewWait := c.slewWait - 1, up := up }
  else if 0 < c.slew then { c with mtb := c.mtb + 2#64, slew := c.slew - 1, slewWait := 9999, up := up }
  else { c with slew := c.slew + 1, slewWait := 9999, up := up }

/-- A nanosecond of a level source, which holds at these instances and for these functions (19 R487). -/
def countLevel (src : Nat) (l : List (Nat × Option Func)) (s : State) : State :=
  let add (t : Tab U64) (i : Nat) : Tab U64 :=
    if l.any (fun e => evcCounts (evcCfg s i) src e.1 e.2) then tset 0#64 t i (satInc (tget 0#64 t i)) else t
  { s with cnt := { s.cnt with cnt := (List.range 16).foldl add s.cnt.cnt } }

/-- The ranks whose pass-lane dirty lines have reached their limit (02 R46): their channels. -/
def fullChans (s : State) : List Nat :=
  if s.marl.copies = [] then []
  else ((List.range 32).filter (fun k => decide (dirtyLimit s ≤ passBytes s (k / 2) (k % 2)))).map (fun k => k / 2)

/-- Grain commands that have gone out and not completed: their channels and functions (19 Table 19.4, 0x26). -/
def ownedChans (s : State) : List (Nat × Option Func) :=
  s.ctl.bcs.flatMap (fun b => (b.2.p1.filter (fun k => k.issued && (match k.kind with
    | .spread .. => true
    | .grun .. => true
    | _ => false))).map (fun k => (b.1, some k.func)))

/-- The channels with a port in panic (08 Table 8.1): P3 at a rank's limit, P4 by the staging of a home port. -/
def panicChans (s : State) : List Nat :=
  let hot := (s.lnk.ports.filter (fun p => p.2.panic)).map (fun p => p.1 % 4)
  fullChans s ++ (if hot = [] then [] else (List.range 16).filter (fun c => decide (c / 4 ∈ hot)))

/-- The level sources of Table 19.4. -/
def countLevels (s : State) : State :=
  let full := fullChans s
  let waits := (s.seq.ctxs.filter (fun x => decide (x.2.st = .waitQ))).map (fun x => (x.1 / 8, some x.2.func))
  let mxs := ((List.range 4).filter (fun n => islClip s (islMx n))).map (fun n => (n, Option.none))
  let one (b : Bool) : List (Nat × Option Func) := if b then [(0, none)] else []
  countLevel 0x13 (one (full ≠ [])) (countLevel 0x24 ((panicChans s).map (fun c => (c, none)))
    (countLevel 0x26 (ownedChans s) (countLevel 0x42 mxs (countLevel 0x61 waits
      (countLevel 0x80 (one s.pwr.holding) (countLevel 0x81 (one s.pwr.ballast) s))))))

/-- A nanosecond of every active loop's held time (19 Table 19.8). -/
def holdLoops (s : State) : State :=
  { s with pwr := { s.pwr with loops := s.pwr.loops.map (fun l =>
      (l.1, if l.2.active then { l.2 with heldNs := l.2.heldNs + 1#64 } else l.2)) } }

/-- Droops that are over (16 Table 16.3). -/
def endDroops (s : State) : State :=
  let live := s.pwr.clip.filter (fun p => decide ((now s).toNat < p.2.toNat))
  match s.pwr.clip with
  | [] => s
  | p :: _ =>
    let s1 := { s with pwr := { s.pwr with clip := live } }
    if live = [] then setLoop 1 (locOf 3 p.1) false false 0 s1 else s1

/-- The GRC's time: raises whose 10 ms are over go out (17 R452), and once a second the capacity is recomputed (17 R461). -/
def grcTick (s : State) : State :=
  let s1 := if s.grc.raises ≠ [] ∧ s.tray.ns = s.grc.raiseAt then sendRaises s else s
  if s1.grc.mods ≠ [] ∧ s1.tray.ns.toNat % 1000000000 = 0 then reportCapacity s1 else s1

/-- One nanosecond. An unpowered module keeps no time; its tray and the GRC do. -/
def tick (s : State) : State :=
  let s1 := grcTick { s with tray := { s.tray with ns := s.tray.ns + 1#64 } }
  if s.boot.powered then endDroops (holdLoops (countLevels { s1 with clk := s1.clk.tick })) else s1

end Sys2Proof.Machine
end

