-- ==== Sys2Proof/Safety.lean ====
section
/-! DEFINITION. What counts as a sound state and as a safe run. -/

namespace Sys2Proof.Machine

/-- The event log and the persistent fault log hold no more than the spec gives them (18 R481, R482). -/
def logsBounded (s : State) : Bool := decide (s.log.events.length ≤ 4096) && decide (s.log.plog.length ≤ 256)

/-- The bytes of the banks are in canonical form. -/
def banksCanonical (s : State) : Bool := Memory.wf s.bank.mem

/-- Every step keeps these. -/
def State.sound (s : State) : Prop := logsBounded s = true ∧ banksCanonical s = true

/-- A run of n steps from s meets no fault. -/
def safeFor (n : Nat) (s : State) : Prop :=
  match Sys2Proof.Machine.step s, n with
  | _, 0 => True
  | .next t, k + 1 => safeFor k t
  | _, _ => False

end Sys2Proof.Machine
end

