-- ==== Sys2Proof/WellFormed.lean ====
section
/-! DEFINITION. Which commands are well formed: the bounds that the types of their operands do not hold. -/

namespace Sys2Proof

/-- A region operand's access size is in whole lines of 64 bytes (09 R258, 02 R41). -/
def Operand.wf (o : Operand) : Bool :=
  match o with
  | .gen _ size => decide (0 < size ∧ size % 64 = 0)
  | _ => true

/-- An operand in a region. -/
def Operand.region (o : Operand) : Bool :=
  match o with
  | .gen _ _ => true
  | .stream _ => true
  | _ => false

/-- The slots of an element stage (10 Table 10.4). -/
def SlipOp.slots (o : SlipOp) : Nat :=
  match o with
  | .rotatePair _ _ => 2
  | .exp => 2
  | .log => 2
  | .rsqrt => 2
  | .recip => 2
  | .tanh => 2
  | .sigmoid => 2
  | .silu => 3
  | .gelu => 4
  | _ => 1

/-- A stage of 10 Table 10.4: not a step that only a resident routine takes. -/
def SlipOp.listed (o : SlipOp) : Bool :=
  match o with
  | .rowRms => false
  | .rotaryOf _ _ => false
  | .routineOf _ => false
  | _ => true

/-- A tile stage: top-k takes k of 1 to 64 (10 Table 10.4). -/
def TileStage.wf (t : TileStage) : Bool :=
  match t with
  | .topkRow k => decide (1 ≤ k ∧ k ≤ 64)
  | _ => true

/-- The stage slots a Slip command occupies (10 R288). -/
def SlipCmd.slots (c : SlipCmd) : Nat := (c.stages.map SlipOp.slots).foldl (fun a b => a + b) (if c.tile.isSome then 1 else 0)

/-- A Slip command: 1 to 8 stage slots, a row and a column at least (10 R288, R290, R297). -/
def SlipCmd.wf (c : SlipCmd) : Bool :=
  decide (1 ≤ c.slots ∧ c.slots ≤ 8) && decide (1 ≤ c.rows ∧ 1 ≤ c.cols) && c.tile.all TileStage.wf && c.stages.all SlipOp.listed
    && c.in1.wf && c.in2.all Operand.wf && c.bcast0.all (fun b => b.1.wf) && c.bcast1.all (fun b => b.1.wf) && c.out.wf

/-- The formats of a product and of weights (10 Table 10.1). -/
def Fmt.product (f : Fmt) : Bool := decide (f = .bf16 ∨ f = .e4m3 ∨ f = .e5m2 ∨ f = .int8)

/-- A command of a queue (09 Table 9.3). -/
def EngCmd.wf (k : EngCmd) : Bool :=
  match k with
  | .weightLoad _ f src => f.product && src.wf
  | .product a f _ _ _ => f.product && a.wf
  | .slip c => c.wf
  | .regionWord src _ => src.wf && src.region
  | .fill d _ _ n b => d.wf && decide (0 < n) && (!b || (match d with
      | .gen _ _ => true
      | _ => false))
  | .drain d _ _ n => d.wf && decide (0 < n)
  | _ => true

/-- Lists of as many 64-bit words as a descriptor or an entry of a batch has. -/
def wordsOf (n : Nat) (l : List (List U64)) : Bool := l.all (fun w => decide (w.length = n))

/-- What a module reports: at most 2,048 grains and 32 ranks, and a port that is UP carries (17 R461, 15 Table 15.6). -/
def ModReport.wf (x : ModReport) : Bool :=
  decide (x.grains ≤ 2048 ∧ x.fencedRanks ≤ 32 ∧ x.upPorts &&& x.carryPorts = x.upPorts)

/-- A well-formed command. -/
def Instr.wf (i : Instr) : Bool :=
  match i with
  | .descriptorFetchIssue _ n => decide (1 ≤ n)
  | .descriptorFetchLand _ _ slots _ => wordsOf 8 slots
  | .doorbellPageBadAccess _ _ _ off _ => decide (off < 4096)
  | .serveStep _ batch => decide (batch.length ≤ 1024) && wordsOf 8 batch
  | .ship _ list => decide (list.length ≤ 4096)
  | .pageReturn _ list => decide (list.length ≤ 4096)
  | .tilthLoad _ code => decide (code.length ≤ 2048)
  | .keepWrite _ src => decide (src.length ≤ 2 ^ 22)
  | .temperatureRead _ _ temps => decide (temps.length = 4) && temps.all (fun t => decide (-128 ≤ t ∧ t ≤ 127))
  | .commandPush _ p => p.cmd.wf && !p.lib
  | .registerWrite off size _ => decide (off < 2 ^ 16 ∧ 1 ≤ size)
  | .paritySweep offs => offs.all (fun o => decide (o < 0x10000 + 259))
  | .cxlLinkUp lanes rate _ => decide ((lanes = 8 ∨ lanes = 16) ∧ (rate = 16 ∨ rate = 32 ∨ rate = 64))
  | .undefinedCaCommand _ _ cycles => decide (1 ≤ cycles.length ∧ cycles.length ≤ 4)
  | .openShip _ _ _ _ _ pages => decide (pages.length ≤ 64)
  | .capacityChange shelves trays seen => decide (shelves ≤ 8 ∧ trays ≤ 32) && seen.all ModReport.wf
  | .grcRestart _ _ seen => seen.all ModReport.wf
  | .rankFailure _ _ _ dpa => decide (dpa < 2 ^ 39)
  | _ => true

end Sys2Proof
end

