-- ==== Sys2Proof/Certificates/Slice0/Obligations.lean ====
section
/-! DEFINITION. The statements for the provers. -/

namespace Sys2Proof.Machine

/-- The command completes: exec answers a next state, of which `post` holds. -/
def Yields (i : Instr) (s : State) (post : State → Prop) : Prop := ∃ t, exec i s = .next t ∧ post t

/-- Place p's descriptor, `d` before, has ended with a status added and a detail word; every other place is as it was. -/
def Ended (p : Place) (d : Desc) (st : Status) (detail : Nat) (s t : State) : Prop :=
  desc t p = some { d with stage := .ended, conds := addStatus st d.conds, detail := BitVec.ofNat 64 detail }
  ∧ ∀ q, q ≠ p → desc t q = desc s q

/-- The descriptor of place p goes on as `e`; every other place is as it was. -/
def Becomes (p : Place) (e : Desc) (s t : State) : Prop := desc t p = some e ∧ ∀ q, q ≠ p → desc t q = desc s q

/-- No request that this boundary latched before stands on an object (04 R123). -/
def Alone (o : Obj) (s : State) : Prop := ∀ a ∈ ordersNow s, a.obj ≠ o

/-- The log has no entry more: only the requests kept for the boundary may have changed. -/
def Noted (s t : State) : Prop := t.log = { s.log with orders := t.log.orders, ordersAt := t.log.ordersAt }

/-- An order that lost has been logged: a collision's two entries, then its own of class 0x02 (04 R124, 19 R490). -/
def Logged3 (s t : State) : Prop :=
  t.log.seq = s.log.seq + 3#16 ∧ ∃ e : LogEntry, t.log.events.getLast? = some e ∧ e.cls = 0x02#8 ∧ e.mtb = now s

/-- A collision has been logged: two entries of class 0x01 with equal stamps, the last of the log, each with the other's seq
(01 R22, 19 R490). -/
def Collided (s t : State) : Prop :=
  ∃ a b : LogEntry, t.log.events.reverse.take 2 = [b, a] ∧ a.cls = 0x01#8 ∧ b.cls = 0x01#8 ∧ a.mtb = now s ∧ b.mtb = now s
    ∧ a.seq = s.log.seq ∧ b.seq = s.log.seq + 1#16 ∧ a.data0 = BitVec.ofNat 64 b.seq.toNat
    ∧ b.data0 = BitVec.ofNat 64 a.seq.toNat

/-- The last entry of the event log: its class and its code. -/
def Logged (cls code : Nat) (s t : State) : Prop :=
  (∃ e : LogEntry, t.log.events.getLast? = some e ∧ e.cls = BitVec.ofNat 8 cls ∧ e.code = BitVec.ofNat 8 code
    ∧ e.mtb = now s ∧ e.seq = s.log.seq) ∧ t.log.seq = s.log.seq + 1#16

/-- Every other ring is as it was. -/
def OtherRings (f : Func) (s t : State) : Prop := ∀ g, g ≠ f → ring t g = ring s g

/-- The path takes commands of a class now: no restart of PMU firmware, and no refusal of 18 R473 or R478. -/
def mbAnswers (path : MbPath) (k : MbClass) (s : State) : Bool := mbUp path s && !s.boot.fwRestarting && !mbRefused k s

/-- The module answers a mailbox command; at the PF's mailbox its registers hold the answer, and vector 2 follows (03 R64,
R77). -/
def Replied (path : MbPath) (code : MbCode) (ext : Nat) (payload : List Byte) (s t : State) : Prop :=
  t.out = s.out ++ .mailbox path code (BitVec.ofNat 16 ext) payload :: (if path = .pf then [Out.msix 0 2] else [])
  ∧ t.cxl = if path = .pf then { s.cxl with mbox := (code, BitVec.ofNat 16 ext, payload) } else s.cxl

/-- What a warm reset of a ready module leaves (18 Tables 18.4, 18.5): phase 0x0A; every ring disabled with need_resync set,
vector 1 signalled where it was not, and its epoch kept; no descriptor, no context, no engine state, no dirty copy; counters 0;
the windows in force, the wiring plan, the granted pages and the Keep NAND kept. -/
def WarmReset (s t : State) : Prop :=
  t.boot.phase = 0x0A#8 ∧ t.boot.mediaReady = false ∧ t.boot.fabricReady = false ∧ t.boot.relHost = false
  ∧ (∀ f, (ring t f).enable = false ∧ (ring t f).needResync = true ∧ (ring t f).epoch = (ring s f).epoch
      ∧ (ring t f).lastHsn = (ring s f).lastHsn ∧ (ring t f).lastDsn = (ring s f).lastDsn ∧ (ring t f).built = []
      ∧ ((ring s f).needResync = false → Out.msix f 1 ∈ t.out))
  ∧ t.places = [] ∧ t.seq.ctxs = [] ∧ t.seq.queues = [] ∧ t.eng = Eng.reset ∧ t.marl.copies = [] ∧ t.marl.regions = []
  ∧ (∀ i, fixedCtr t i = 0#64) ∧ t.cxl.up = false ∧ t.hub.wdCtx = 50#10
  ∧ (∀ f, (tenOf t f).inForce = (tenOf s f).inForce ∧ (tenOf t f).staged = (tenOf t f).inForce)
  ∧ t.lnk.plan = s.lnk.plan ∧ t.serve.pages = s.serve.pages ∧ t.keep = s.keep ∧ t.fw = s.fw
  ∧ t.bank.mappedOut = s.bank.mappedOut

/-- The module is ready and may take a warm reset. -/
def warmable (s : State) : Bool :=
  mayWarm s && s.boot.relHost && s.boot.mediaReady && decide (s.boot.phase ≠ 0x0A#8) && trising s.hub.ten

/-- A commit was accepted and is in force: both staged values at once, nothing pending (20 R502, R504). -/
def InForce {α : Type} (p q : Pair α) : Prop :=
  q.inForce = p.staged ∧ q.staged = p.staged ∧ q.waiting = none ∧ q.mismatch = false ∧ q.preempted = false ∧ q.busy = false

/-- A commit was refused: mismatch set, the pending value (or the one in force) staged again, nothing in force changed. -/
def Refused {α : Type} (p q : Pair α) : Prop :=
  q.inForce = p.inForce ∧ q.waiting = p.waiting ∧ q.staged = p.waiting.getD p.inForce ∧ q.mismatch = true

end Sys2Proof.Machine

section
open Sys2Proof Sys2Proof.Machine

/-! ### Steps, reset, invariants -/

/-- A step runs the command at the front of the queue with the queue's rest. On an empty queue a nanosecond passes (the
model's choice, log entry 4). -/
def Obligations.StepRunsFrontCommand : Prop :=
  (∀ (c : Instr) (rest : List Instr) (s : State), step { s with pending := c :: rest } = exec c { s with pending := rest })
  ∧ ∀ s : State, step { s with pending := [] } = .next (tick { s with pending := [] })

/-- What the spec gives for reset: phase 0x01, no island released, no ring enabled, no descriptor, every counter 0, an
empty event log, the reset budget, KEEP_TRICKLE, the watchdogs, the whole DPA window for the PF and an empty one for
every VF; and the state is sound. -/
def Obligations.ResetLeaves : Prop :=
  let s := State.reset
  s.pending = [] ∧ s.boot.phase = 0x01#8 ∧ s.boot.mediaReady = false ∧ s.boot.relHost = false ∧ s.boot.relMarl = false
  ∧ s.boot.relBc = 0#16 ∧ s.boot.relSeq = false ∧ s.boot.relLay = false ∧ s.boot.relMx = 0#4 ∧ s.boot.relLk = false
  ∧ (∀ f : Func, (ring s f).enable = false ∧ (ring s f).fetchHead = 0 ∧ (ring s f).tail = 0)
  ∧ s.places = [] ∧ (∀ i, fixedCtr s i = 0#64) ∧ s.log.events = []
  ∧ s.pwr.ramp.up = 30#16 ∧ s.pwr.ramp.down = 30#16 ∧ s.pwr.ramp.cap = 480#16
  ∧ s.dev.trickle = 1000#16 ∧ s.hub.wdCtx = 50#10 ∧ s.hub.wdEng = 500#13
  ∧ (tenOf s 0).inForce.base = 0#12 ∧ (tenOf s 0).inForce.limit = 2048#12
  ∧ (∀ f, f ≠ 0 → (tenOf s f).inForce.base = (tenOf s f).inForce.limit)
  ∧ s.sound

/-- Every step keeps the logs within their sizes and the banks' bytes in canonical form. -/
def Obligations.EveryStepKeepsSound : Prop :=
  ∀ s t : State, s.sound → step s = .next t → t.sound

/-- A command acts on everything but the queue. -/
def Obligations.CommandsLeaveQueue : Prop :=
  ∀ (i : Instr) (s t : State), exec i s = .next t → t.pending = s.pending

/-- Ordinary data end no run: every command completes in every state. -/
def Obligations.EveryCommandCompletes : Prop := ∀ (i : Instr) (s : State), ∃ t, exec i s = .next t

/-! ### Doorbells and rings (03, 04) -/

/-- WORK_DOORBELL latches the tail and the done-consumer index of an enabled ring whose epoch it carries, and ends a
stall; through another function's page it is dropped and counted; one that its boundary latches with the PF's disable has
its tail recorded, and the collision is logged (03 Table 3.10). CANCEL_DOORBELL whose HSN is still to come waits among
the ring's pending cancels, 16 at most; one whose HSN is past and not in flight is counted as a miss. RING_CFG_WRITE
that keeps the sizes enables a disabled ring; RING_BASE_WRITE to a disabled ring stores the base, empties the ring and
sets its phase to 1; both leave every other ring. DOORBELL_PAGE_BAD_ACCESS: an aligned read returns the register's
bytes, a misaligned one 0; a misaligned write is dropped and counted. -/
def Obligations.DoorbellsAndRingRegistersAct : Prop :=
  (∀ (s : State) (pg : Bool) (f : Func) (v : U64),
    s.boot.relHost = true → foreignPage pg f = false → (ring s f).enable = true → Alone (.ring f) s →
    (ring s f).epoch.toNat = bits v.toNat 32 32 →
    bits v.toNat 0 16 < workSlots (ring s f) → bits v.toNat 16 16 < doneSlots (ring s f) →
    ((ring s f).tail + workSlots (ring s f) - (ring s f).fetchHead) % workSlots (ring s f)
      ≤ (bits v.toNat 0 16 + workSlots (ring s f) - (ring s f).fetchHead) % workSlots (ring s f) →
    Yields (.workDoorbell pg f v) s fun t =>
      (ring t f).tail = bits v.toNat 0 16 ∧ (ring t f).doneCons = bits v.toNat 16 16 ∧ (ring t f).stalled = false
      ∧ (ring t f).fetchHead = (ring s f).fetchHead ∧ (ring t f).built = (ring s f).built
      ∧ OtherRings f s t ∧ Noted s t ∧ t = { s with rings := t.rings, log := t.log })
  ∧ (∀ (s : State) (f : Func) (v : U64) (a : Order),
    s.boot.relHost = true → rival s (.ring f) [.flr] = none → rival s (.ring f) [.disable] = some a →
    rival s (.ring f) [.disable, .doorbell] = some a →
    (ring s f).epoch.toNat = bits v.toNat 32 32 →
    bits v.toNat 0 16 < workSlots (ring s f) → bits v.toNat 16 16 < doneSlots (ring s f) →
    ((ring s f).tail + workSlots (ring s f) - (ring s f).fetchHead) % workSlots (ring s f)
      ≤ (bits v.toNat 0 16 + workSlots (ring s f) - (ring s f).fetchHead) % workSlots (ring s f) →
    Yields (.workDoorbell false f v) s fun t =>
      (ring t f).tail = bits v.toNat 0 16 ∧ (ring t f).enable = (ring s f).enable ∧ Collided s t ∧ OtherRings f s t
      ∧ t = { s with rings := t.rings, log := t.log, out := t.out, cnt := t.cnt })
  ∧ (∀ (s : State) (pg : Bool) (f : Func) (v : U64),
    s.boot.relHost = true → (foreignPage pg f = true ∨ ((ring s f).enable = false ∧ Alone (.ring f) s)) →
    Yields (.workDoorbell pg f v) s fun t => fixedCtr t 0 = satInc (fixedCtr s 0) ∧ t = { s with cnt := t.cnt })
  ∧ (∀ (s : State) (pg : Bool) (f : Func) (v : U64),
    s.boot.relHost = true → foreignPage pg f = false → (ring s f).enable = true → Alone (.ring f) s →
    epochOk (ring s f) 16 (bits v.toNat 48 16) = true → bits v.toNat 32 16 = 0xFFFF →
    findHsn s f (v.extractLsb' 0 32) = none → later (v.extractLsb' 0 32) (ring s f).lastHsn = true →
    (ring s f).cancels.length < 16 →
    Yields (.cancelDoorbell pg f v) s fun t =>
      (ring t f).cancels = (ring s f).cancels ++ [(v.extractLsb' 0 32, 0xFFFF#16)]
      ∧ OtherRings f s t ∧ Noted s t ∧ t = { s with rings := t.rings, log := t.log })
  ∧ (∀ (s : State) (pg : Bool) (f : Func) (v : U64),
    s.boot.relHost = true → foreignPage pg f = false → (ring s f).enable = true → Alone (.ring f) s →
    epochOk (ring s f) 16 (bits v.toNat 48 16) = true → bits v.toNat 32 16 = 0xFFFF →
    findHsn s f (v.extractLsb' 0 32) = none → later (v.extractLsb' 0 32) (ring s f).lastHsn = false →
    Yields (.cancelDoorbell pg f v) s fun t => fixedCtr t 1 = satInc (fixedCtr s 1) ∧ t = { s with cnt := t.cnt })
  ∧ (∀ (s : State) (f : Func) (v : U64),
    s.boot.relHost = true → (ring s f).enable = false → (ring s f).needResync = false → Alone (.ring f) s →
    (ring s f).wsize.toNat ≤ 10 → (ring s f).dsize.toNat ≤ 10 →
    bits v.toNat 0 4 = (ring s f).wsize.toNat → bits v.toNat 4 4 = (ring s f).dsize.toNat → bitAt v.toNat 9 = true →
    Yields (.ringCfgWrite false f .whole v) s fun t =>
      (ring t f).enable = true ∧ (ring t f).msix = bitAt v.toNat 8 ∧ (ring t f).wbase = (ring s f).wbase
      ∧ (ring t f).tail = (ring s f).tail ∧ OtherRings f s t ∧ t = { s with rings := t.rings })
  ∧ (∀ (s : State) (f : Func) (done : Bool) (v : U64),
    s.boot.relHost = true → (ring s f).enable = false →
    baseAligned v (if done then 32 * doneSlots (ring s f) else 64 * workSlots (ring s f)) = true →
    Yields (.ringBaseWrite false f done .whole v) s fun t =>
      (if done then (ring t f).dbase else (ring t f).wbase) = v
      ∧ (if done then (ring t f).wbase else (ring t f).dbase) = (if done then (ring s f).wbase else (ring s f).dbase)
      ∧ (ring t f).tail = 0 ∧ (ring t f).fetchHead = 0 ∧ (ring t f).doneIdx = 0 ∧ (ring t f).phase = true
      ∧ OtherRings f s t ∧ t = { s with rings := t.rings })
  ∧ (∀ (s : State) (pg : Bool) (f : Func) (off : Nat), s.boot.relHost = true → off % 8 = 0 →
    Yields (.doorbellPageBadAccess pg f false off 8) s fun t =>
      t.out = s.out ++ [.regData off (BitVec.ofNat 64 (pageReg (ring s f) off))] ∧ t = { s with out := t.out })
  ∧ (∀ (s : State) (pg : Bool) (f : Func) (off : Nat), s.boot.relHost = true → off % 8 ≠ 0 →
    Yields (.doorbellPageBadAccess pg f false off 8) s fun t =>
      t.out = s.out ++ [.regData off 0#64] ∧ t = { s with out := t.out })
  ∧ (∀ (s : State) (pg : Bool) (f : Func) (off : Nat), s.boot.relHost = true → off % 8 ≠ 0 →
    Yields (.doorbellPageBadAccess pg f true off 8) s fun t =>
      fixedCtr t 0 = satInc (fixedCtr s 0) ∧ t = { s with cnt := t.cnt })

/-- DESCRIPTOR_FETCH_ISSUE puts one read of n slots from RING_WBASE + 64i on its way, each slot with a place;
DESCRIPTOR_FETCH_LAND fills the places with the slots' words; a slot that came with an error is refused once it stands at
the fetch head: the ring stalls with need_resync, and the slots from it on are dropped, with one entry of class 0x03 (its
code is the model's choice, log entry 30). DESCRIPTOR_ACCEPT moves the fetch head one slot on and notes the HSN; the
descriptor waits, or has ended where a check at acceptance found something. -/
def Obligations.DescriptorsAreFetchedAndAccepted : Prop :=
  (∀ (s : State) (f : Func) (n : Nat),
    mayFetch s = true → (ring s f).enable = true → (ring s f).stalled = false → 1 ≤ n → n ≤ 8 →
    (ring s f).fetches.length < 4 → n ≤ (freePlaces s f).length →
    fetched s f + n ≤ ((ring s f).tail + workSlots (ring s f) - (ring s f).fetchHead) % workSlots (ring s f) →
    ((ring s f).fetchHead + fetched s f) % workSlots (ring s f) + n ≤ workSlots (ring s f) →
    Yields (.descriptorFetchIssue f n) s fun t =>
      (∃ x : Fetch, (ring t f).fetches = (ring s f).fetches ++ [x] ∧ x.places = (freePlaces s f).take n
        ∧ x.slot = ((ring s f).fetchHead + fetched s f) % workSlots (ring s f) ∧ x.landed = false
        ∧ ∀ y ∈ (ring s f).fetches, y.id ≠ x.id)
      ∧ (∀ p ∈ (freePlaces s f).take n, ∃ d, tfind t.places p = some d ∧ d.func = f ∧ d.stage = .fetching)
      ∧ (∀ p, p ∉ (freePlaces s f).take n → tfind t.places p = tfind s.places p)
      ∧ t.out = s.out ++ [.hostRead ((ring s f).wbase + BitVec.ofNat 64
          (64 * (((ring s f).fetchHead + fetched s f) % workSlots (ring s f)))) (64 * n)]
      ∧ OtherRings f s t ∧ t = { s with rings := t.rings, places := t.places, out := t.out })
  ∧ (∀ (s : State) (f : Func) (k : Fin 4) (slots : List (List U64)) (bad : Option (Fin 8)) (x : Fetch),
    (ring s f).fetches.find? (fun y => decide (y.id = k)) = some x → x.places.Nodup →
    ((bad = none ∧ ∀ q ∈ s.places, q.2.func = f → q.2.failed = false)
      ∨ ∀ q ∈ s.places, q.2.func = f → q.2.slot ≠ (ring s f).fetchHead) →
    Yields (.descriptorFetchLand f k slots bad) s fun t =>
      (∀ i < x.places.length, ∀ d, tfind s.places (x.places.getD i 0) = some d →
        tfind t.places (x.places.getD i 0) = some { d with stage := .landed, words := slots.getD i [],
                                                           failed := decide (bad.map (fun b => b.val) = some i) })
      ∧ (∀ p, p ∉ x.places → tfind t.places p = tfind s.places p)
      ∧ (∀ y ∈ (ring t f).fetches, y.id ≠ k) ∧ OtherRings f s t ∧ t = { s with rings := t.rings, places := t.places })
  ∧ (∀ (s : State) (f : Func) (k : Fin 4) (slots : List (List U64)) (b : Fin 8) (x : Fetch) (p : Place) (d : Desc),
    (ring s f).fetches.find? (fun y => decide (y.id = k)) = some x → x.places.Nodup →
    x.places[b.val]? = some p.val → desc s p = some d → d.func = f → d.slot = (ring s f).fetchHead →
    (∀ q ∈ s.places, q.2.func = f → q.2.slot = (ring s f).fetchHead → q.1 = p.val) →
    Yields (.descriptorFetchLand f k slots (some b)) s fun t =>
      (ring t f).needResync = true ∧ (ring t f).stalled = true ∧ (ring t f).fetchHead = (ring s f).fetchHead
      ∧ (ring t f).fetches = [] ∧ (∀ q ∈ t.places, q.2.func = f → q.2.stage ≠ .fetching ∧ q.2.stage ≠ .landed)
      ∧ Logged 0x03 0x30 s t ∧ OtherRings f s t
      ∧ t = { s with rings := t.rings, places := t.places, log := t.log, out := t.out, cnt := t.cnt })
  ∧ (∀ (s : State) (f : Func) (p : Place) (d : Desc),
    headDesc s f = some (p, d) → (ring s f).needResync = false → d.failed = true →
    Yields (.descriptorAccept f) s fun t =>
      (ring t f).needResync = true ∧ (ring t f).stalled = true ∧ (ring t f).fetchHead = (ring s f).fetchHead
      ∧ (ring t f).lastHsn = (ring s f).lastHsn ∧ desc t p = none ∧ Logged 0x03 0x30 s t ∧ OtherRings f s t
      ∧ t = { s with rings := t.rings, places := t.places, log := t.log, out := t.out, cnt := t.cnt })
  ∧ (∀ (s : State) (f : Func) (p : Place) (d : Desc),
    headDesc s f = some (p, d) → (ring s f).needResync = false → waitsForCommit s f d = false → resyncDue s f = false →
    (∀ q ∈ s.places, q.2.func = f → q.2.failed = false) →
    Yields (.descriptorAccept f) s fun t =>
      (ring t f).lastHsn = hsnOf d.words ∧ (ring t f).fetchHead = ((ring s f).fetchHead + 1) % workSlots (ring s f)
      ∧ (ring t f).tail = (ring s f).tail ∧ t.acceptCtr = s.acceptCtr + 1
      ∧ (∃ e, desc t p = some e ∧ e.hsn = hsnOf d.words ∧ e.epoch = (ring s f).epoch ∧ e.acc = s.acceptCtr
          ∧ (e.conds = [] → e.stage = .accepted) ∧ (e.conds ≠ [] → e.stage = .ended))
      ∧ (∀ q, q ≠ p → desc t q = desc s q) ∧ OtherRings f s t
      ∧ t = { s with rings := t.rings, places := t.places, log := t.log, out := t.out, cnt := t.cnt,
                     acceptCtr := t.acceptCtr })

/-- DESCRIPTOR_COMPLETION builds the record of an ended descriptor with the next DSN, and leaves the banks and the Marl's
copies alone unless the ending leaves the work undefined; DONE_RECORD_WRITE writes the
oldest built record to its slot with the ring's phase, toggles the phase past the last slot, and signals vector 0 where
asked. HOST_WRITE_REJECTED is logged in class 0x03; no DSN is given back (the code is the model's choice, log entry 30).
-/
def Obligations.DoneRecordsAreWritten : Prop :=
  (∀ (s : State) (p : Place) (d : Desc),
    desc s p = some d → d.stage = .ended → d.discard = false → recordTurn s p d = true → tfind s.serve.steps p.val = none →
    (∀ q ∈ s.places, opcodeOf q.2.words = 0x12 → ∀ e ∈ q.2.prog.pages, e / 65536 ≠ d.acc) →
    Yields (.descriptorCompletion p) s fun t =>
      (∃ r : DoneRec, (ring t d.func).built = (ring s d.func).built ++ [r] ∧ r.place = p ∧ r.w2 = now s
        ∧ r.w0.toNat / 2 ^ 32 = ((ring s d.func).lastBuilt + 1#32).toNat
        ∧ r.w1.toNat = d.hsn.toNat + d.epoch.toNat * 2 ^ 32 ∧ bits r.w0.toNat 8 8 = bits (opcodeOf d.words) 0 8)
      ∧ (ring t d.func).lastBuilt = (ring s d.func).lastBuilt + 1#32
      ∧ (∃ e, desc t p = some e ∧ e.stage = .built) ∧ (∀ q, q ≠ p → desc t q = desc s q) ∧ OtherRings d.func s t
      ∧ (endsUndefined d = false → t.bank = s.bank ∧ t.marl.copies = s.marl.copies))
  ∧ (∀ (s : State) (f : Func) (x : DoneRec) (rest : List DoneRec),
    s.boot.relHost = true → (ring s f).built = x :: rest →
    ((ring s f).doneIdx + 1) % doneSlots (ring s f) ≠ (ring s f).doneCons → tfind s.serve.steps x.place.val = none →
    Yields (.doneRecordWrite f) s fun t =>
      t.out = s.out ++ .hostWrite ((ring s f).dbase + BitVec.ofNat 64 (32 * (ring s f).doneIdx))
          [BitVec.ofNat 64 (x.w0.toNat + if (ring s f).phase then 2 ^ 16 else 0), x.w1, x.w2, x.w3]
        :: (if (ring s f).msix = true ∧ x.quiet = false then [.msix f 0] else [])
      ∧ (ring t f).built = rest ∧ (ring t f).doneIdx = ((ring s f).doneIdx + 1) % doneSlots (ring s f)
      ∧ ((ring t f).phase = (ring s f).phase ↔ ((ring s f).doneIdx + 1) % doneSlots (ring s f) ≠ 0)
      ∧ desc t x.place = none ∧ (∀ q, q ≠ x.place → desc t q = desc s q) ∧ OtherRings f s t)
  ∧ (∀ (s : State) (f : Func) (k : HostWriteKind),
    Yields (.hostWriteRejected f k) s fun t =>
      (∃ e : LogEntry, t.log.events.getLast? = some e ∧ e.cls = 0x03#8 ∧ e.func = BitVec.ofNat 8 f.val
        ∧ e.mtb = now s ∧ e.seq = s.log.seq)
      ∧ t.log.seq = s.log.seq + 1#16 ∧ (∀ g, ring t g = ring s g)
      ∧ t = { s with log := t.log, out := t.out, cnt := t.cnt })

/-! ### Descriptors (04, 02 R49, 14, 19) -/

/-- NOP completes with no effect; FENCE with no scope completes at once, with a scope it waits; FENCE_WAITS_END completes it.
RESYNC moves the ring's epoch to the later of the descriptor's epoch and the next one, clears need_resync, the pending cancels
and the gaps, and ends; the epoch it replaces stays valid. CANCEL of a descriptor of a defined opcode that waits, accepted, on
the named ring, with no other request on it at this boundary: the target ends CANCELLED, and the CANCEL itself completes with a
count of 1 cancelled and 0 late. INSPECT of the ring writes its header and one record of 64 bytes and completes; EVC_SNAP writes
the 64 words of the snapshot and, with clear, sets the counters it reported to 0. -/
def Obligations.HubDescriptorsEnd : Prop :=
  (∀ (s : State) (p : Place) (d : Desc), startable s p 0x01 = some d →
    Yields (.nop p) s fun t => Ended p d .done 0 s t ∧ t = { s with places := t.places })
  ∧ (∀ (s : State) (p : Place) (d : Desc), startable s p 0x02 = some d → bits (wordAt d.words 1) 0 3 = 0 →
    Yields (.fence p) s fun t => Ended p d .done 0 s t ∧ t = { s with places := t.places })
  ∧ (∀ (s : State) (p : Place) (d : Desc), startable s p 0x02 = some d → bits (wordAt d.words 1) 0 3 ≠ 0 →
    Yields (.fence p) s fun t =>
      (∃ e, desc t p = some e ∧ e.stage = .running ∧ e.conds = d.conds
        ∧ e.prog.words = (if bitAt (wordAt d.words 1) 2 then dirtyWords s else []))
      ∧ (∀ q, q ≠ p → desc t q = desc s q) ∧ t = { s with places := t.places })
  ∧ (∀ (s : State) (p : Place) (d : Desc),
    desc s p = some d → d.stage = .running → opcodeOf d.words = 0x02 → fenceOver s d = true →
    Yields (.fenceWaitsEnd p) s fun t => Ended p d .done 0 s t ∧ t = { s with places := t.places })
  ∧ (∀ (s : State) (p : Place) (d : Desc), desc s p = some d → d.stage = .accepted → opcodeOf d.words = 0x03 →
    Yields (.resync p) s fun t =>
      (ring t d.func).epoch = (if later (BitVec.ofNat 32 (bits (wordAt d.words 1) 0 32)) (ring s d.func).epoch
          then BitVec.ofNat 32 (bits (wordAt d.words 1) 0 32) else (ring s d.func).epoch + 1#32)
      ∧ (ring t d.func).replaced = some (ring s d.func).epoch ∧ (ring t d.func).needResync = false
      ∧ (ring t d.func).cancels = [] ∧ (ring t d.func).gaps = 0 ∧ (ring t d.func).firstMissing = none
      ∧ (∃ e, desc t p = some e ∧ e.stage = .ended ∧ e.epoch = (ring t d.func).epoch) ∧ OtherRings d.func s t)
  ∧ (∀ (s : State) (p q : Place) (d e : Desc),
    startable s p 0x12 = some d → bits (wordAt d.words 2) 0 11 = 1 →
    bits (wordAt d.words 1) 32 16 = 0xFFFF → p ≠ q →
    findHsn s (if d.func.val = 0 then Fin.ofNat 256 (bits (wordAt d.words 1) 48 8) else d.func)
      (BitVec.ofNat 32 (bits (wordAt d.words 1) 0 32)) = some q → desc s q = some e →
    e.acc ≠ d.acc → e.stage = .accepted → opcodeOf e.words ≠ 0x03 → knownOpcode (opcodeOf e.words) = true →
    Alone (.desc (if d.func.val = 0 then Fin.ofNat 256 (bits (wordAt d.words 1) 48 8) else d.func)
      (BitVec.ofNat 32 (bits (wordAt d.words 1) 0 32))) s →
    Yields (.cancel p) s fun t =>
      (∃ x, desc t q = some x ∧ x.stage = .ended ∧ x.conds = addStatus .cancelled e.conds)
      ∧ (∃ x, desc t p = some x ∧ x.stage = .ended ∧ x.detail = 0#64 ∧ x.prog.pages = [e.acc * 65536 + 0xFFFF])
      ∧ (∀ g, ring t g = ring s g) ∧ Noted s t ∧ t = { s with places := t.places, log := t.log })
  ∧ (∀ (s : State) (p : Place) (d : Desc),
    startable s p 0x04 = some d → bits (wordAt d.words 1) 0 8 = 0x01 → 128 ≤ bits (wordAt d.words 3) 0 32 →
    Yields (.inspect p) s fun t =>
      t.out = s.out ++ [.hostWrite (BitVec.ofNat 64 (wordAt d.words 2))
        ([w64 (0x01 + 64 * 2 ^ 16 + 2 ^ 32), now s, w64 1, 0#64, 0#64, 0#64, 0#64, 0#64]
          ++ ringRecord s (if d.func.val = 0 then Fin.ofNat 256 (bits (wordAt d.words 1) 8 8) else d.func))]
      ∧ Ended p d .done 128 s t ∧ t = { s with places := t.places, out := t.out })
  ∧ (∀ (s : State) (p : Place) (d : Desc), startable s p 0x60 = some d →
    Yields (.evcSnap p) s fun t =>
      t.out = s.out ++ [.hostWrite (BitVec.ofNat 64 (wordAt d.words 1)) (snapshot s d.func)]
      ∧ Ended p d .done 512 s t
      ∧ (bitAt (wordAt d.words 2) 0 = false → t.cnt = s.cnt)
      ∧ (bitAt (wordAt d.words 2) 0 = true → d.func.val = 0 → ∀ i, fixedCtr t i = 0#64)
      ∧ (d.func.val ≠ 0 → t.cnt.fixed = s.cnt.fixed) ∧ t.cnt.cfg = s.cnt.cfg
      ∧ t = { s with places := t.places, out := t.out, cnt := t.cnt })

/-- SPREAD latches one Spread command at the bank controller of each named rank, none of whose queues is full (01 Table
1.1); GRAIN_RUN one run command, and its
context drains. Neither runs while a named rank is fenced or migrates (05 R137, 08 R240, R243). TILTH_LOAD of one grain
writes `count` words into its store from `dst` on and leaves every other index and every other grain. -/
def Obligations.GrainDescriptorsReachTheRanks : Prop :=
  (∀ (s : State) (p : Place) (d : Desc),
    startable s p 0x21 = some d → setFenced s (wordAt d.words 1) = false → setMigrating s (wordAt d.words 1) = false →
    setFull s (wordAt d.words 1) = false →
    setSkipped s (wordAt d.words 1) < setSize (wordAt d.words 1) →
    Yields (.spread p) s fun t =>
      (∃ e, desc t p = some e ∧ e.stage = .running ∧ e.committed = true ∧ e.prog.ranks = setRankList (wordAt d.words 1)
        ∧ e.prog.run = setSize (wordAt d.words 1) - setSkipped s (wordAt d.words 1)
        ∧ e.prog.skipped = setSkipped s (wordAt d.words 1))
      ∧ (∀ q, q ≠ p → desc t q = desc s q)
      ∧ (∀ k ∈ setRankList (wordAt d.words 1), ∃ c ∈ (bc t (k / 4)).p1, c.rank = k % 4 ∧ c.place = some p
          ∧ c.issued = false ∧ c.kind = .spread (BitVec.ofNat 32 (wordAt d.words 2)) (bits (wordAt d.words 3) 0 16)
              (bitAt (wordAt d.words 3) 16) (bitAt (wordAt d.words 3) 17))
      ∧ t = { s with places := t.places, ctl := t.ctl, seq := t.seq })
  ∧ (∀ (s : State) (p : Place) (d : Desc),
    startable s p 0x21 = some d → setFenced s (wordAt d.words 1) = true →
    Yields (.spread p) s fun t => Ended p d .fenced 0 s t ∧ t = { s with places := t.places })
  ∧ (∀ (s : State) (p : Place) (d : Desc) (x : CtxNo),
    runningOn s p 0x22 = some (d, x) → (ctx s x.val).all (fun c => decide (c.st ≠ .drain)) = true →
    setFenced s (wordAt d.words 1) = false → setMigrating s (wordAt d.words 1) = false →
    (∀ g ∈ setLive s (wordAt d.words 1), (grain s g).state ≠ .running) →
    setSkipped s (wordAt d.words 1) < setSize (wordAt d.words 1) →
    Yields (.grainRun p) s fun t =>
      (∃ e, desc t p = some e ∧ e.stage = d.stage ∧ e.prog.ranks = setRankList (wordAt d.words 1))
      ∧ (∀ q, q ≠ p → desc t q = desc s q)
      ∧ (∀ k ∈ setRankList (wordAt d.words 1), ∃ c ∈ (bc t (k / 4)).p1, c.rank = k % 4 ∧ c.place = some p
          ∧ c.ctx = some x ∧ c.kind = .grun (bits (wordAt d.words 2) 0 11))
      ∧ (ctx t x.val).all (fun c => decide (c.st = .drain)) = true
      ∧ t = { s with places := t.places, ctl := t.ctl, seq := t.seq, bank := t.bank })
  ∧ (∀ (s : State) (p : Place) (d : Desc) (x : CtxNo) (code : List U32) (g : Nat),
    runningOn s p 0x23 = some (d, x) → (ctx s x.val).all (fun c => decide (c.st ≠ .drain)) = true →
    setFenced s (wordAt d.words 1) = false → setMigrating s (wordAt d.words 1) = false →
    setLive s (wordAt d.words 1) = [g] → (grain s g).state ≠ .running → code.length = bits (wordAt d.words 3) 0 12 →
    Yields (.tilthLoad p code) s fun t =>
      (∀ i < code.length, tget 0#32 (grain t g).store (bits (wordAt d.words 3) 16 11 + i) = code.getD i 0#32)
      ∧ (∀ k, (k < bits (wordAt d.words 3) 16 11 ∨ bits (wordAt d.words 3) 16 11 + code.length ≤ k) →
          tget 0#32 (grain t g).store k = tget 0#32 (grain s g).store k)
      ∧ (∀ h, h ≠ g → grain t h = grain s h) ∧ t.bank.mem = s.bank.mem
      ∧ t = { s with places := t.places, seq := t.seq, bank := t.bank })

/-- PAGE_GRANT makes the lowest run of grantable pages the function's and writes their identifiers; over the quota it ends
QUOTA and grants none. PAGE_RETURN of pages the function holds ends its ownership; PAGE_CLEAR of one page in service
zeroes it, puts it back into the pool and completes; a page of another function is BAD_TENANT (14 R374, R375). -/
def Obligations.PagesAreGrantedAndReturned : Prop :=
  (∀ (s : State) (p : Place) (d : Desc) (g b : Nat),
    startable s p 0x50 = some d →
    pagesHeld s (namedFn d) + bits (wordAt d.words 1) 0 13 ≤ pageQuotaOf s (namedFn d) →
    ((setList (wordAt d.words 2)).filter (setHolds (grainsOf s (namedFn d)))).findSome?
      (fun k => (grantRun s (namedFn d) k (bits (wordAt d.words 1) 0 13)).map (fun n => (k, n))) = some (g, b) →
    Yields (.pageGrant p) s fun t =>
      (∀ i < bits (wordAt d.words 1) 0 13, pageOwner t (g * 4096 + b + i) = namedFn d + 1)
      ∧ (∀ q, (q < g * 4096 + b ∨ g * 4096 + b + bits (wordAt d.words 1) 0 13 ≤ q) → pageOwner t q = pageOwner s q)
      ∧ t.out = s.out ++ [.hostIds (BitVec.ofNat 64 (wordAt d.words 3))
          ((List.range (bits (wordAt d.words 1) 0 13)).map (fun i => BitVec.ofNat 32 (g * 4096 + b + i)))]
      ∧ Ended p d .done (bits (wordAt d.words 1) 0 13) s t
      ∧ Noted s t ∧ t = { s with places := t.places, out := t.out, serve := t.serve, log := t.log })
  ∧ (∀ (s : State) (p : Place) (d : Desc),
    startable s p 0x50 = some d →
    pageQuotaOf s (namedFn d) < pagesHeld s (namedFn d) + bits (wordAt d.words 1) 0 13 →
    Yields (.pageGrant p) s fun t => Ended p d .quota 0 s t ∧ t = { s with places := t.places })
  ∧ (∀ (s : State) (p : Place) (d : Desc) (l : List U32),
    startable s p 0x51 = some d → l.length = bits (wordAt d.words 1) 0 13 →
    (∀ v ∈ l, v.toNat < 2 ^ 23 ∧ pageOwner s v.toNat = namedFn d + 1 ∧ Alone (.page v.toNat) s) →
    Yields (.pageReturn p l) s fun t =>
      (∀ v ∈ l, pageOwner t v.toNat = 0) ∧ (∀ q, (∀ v ∈ l, v.toNat ≠ q) → pageOwner t q = pageOwner s q)
      ∧ (∃ e, desc t p = some e ∧ e.stage = .running ∧ e.prog.pages = l.map (fun v => v.toNat)
          ∧ e.prog.words = stepsUsing s (l.map (fun v => v.toNat)))
      ∧ (∀ q, q ≠ p → desc t q = desc s q) ∧ Noted s t ∧ t = { s with places := t.places, serve := t.serve, log := t.log })
  ∧ (∀ (s : State) (p : Place) (d : Desc) (v : U32),
    startable s p 0x51 = some d → bits (wordAt d.words 1) 0 13 = 1 → v.toNat < 2 ^ 23 → pageOwner s v.toNat ≠ namedFn d + 1 →
    Alone (.page v.toNat) s →
    Yields (.pageReturn p [v]) s fun t => Ended p d .badTenant 0x18 s t ∧ t = { s with places := t.places })
  ∧ (∀ (s : State) (p : Place) (d : Desc) (v : U32) (a : Order),
    startable s p 0x51 = some d → bits (wordAt d.words 1) 0 13 = 1 → rival s (.page v.toNat) [.pages] = some a →
    a.master < masterOf d.func →
    Yields (.pageReturn p [v]) s fun t =>
      Ended p d .preempted (preemptDetail a) s t ∧ (∀ q, pageOwner t q = pageOwner s q) ∧ Logged3 s t
      ∧ t = { s with places := t.places, log := t.log, out := t.out, cnt := t.cnt })
  ∧ (∀ (s : State) (p : Place) (d : Desc) (g : Nat),
    desc s p = some d → d.stage = .running → opcodeOf d.words = 0x51 → d.prog.pages = [g] → returnWaits s d = false →
    isFenced s (g / 4096 / 128) (g / 4096 / 64 % 2) = false →
    Yields (.pageClear p) s fun t =>
      (∀ r ∈ pageRuns s g, ∀ a, r * 32 ≤ a → a < (r + 1024) * 32 → Memory.byte t.bank.mem a = 0#8)
      ∧ (∀ a, (∀ r ∈ pageRuns s g, a / 32 < r ∨ r + 1024 ≤ a / 32) → Memory.byte t.bank.mem a = Memory.byte s.bank.mem a)
      ∧ (∀ c ∈ t.serve.clearing, c.2 ≠ p.val + 1) ∧ Ended p d .done d.prog.count s t
      ∧ t = { s with places := t.places, serve := t.serve, bank := t.bank, marl := t.marl })

/-- KEEP_WRITE that the hold-up bank cannot cover ends HOLDUP_SHORT and writes nothing; one that passes marks its blocks dirty
and ends with the hold-up energy as its detail, once the banks of its lines are free (07 R201, 08 R237). One that a size change
of a higher master meets at its boundary ends PREEMPTED and writes nothing (03 Table 3.10). KEEP_READ of one line to the host
writes that line (16 R433 to R435). -/
def Obligations.KeepStoresAreJudged : Prop :=
  (∀ (s : State) (p : Place) (d : Desc) (src : List Line),
    startable s p 0x30 = some d → s.boot.fwRestarting = false → Alone .keep s →
    (bitAt (wordAt d.words 3) 32 = true ∨ src.length = bits (wordAt d.words 3) 0 32 / 64) →
    keepCheck s (blocksTouched (wordAt d.words 2) (bits (wordAt d.words 3) 0 32)) = .short →
    Yields (.keepWrite p src) s fun t =>
      Ended p d .holdupShort (satNat 32 s.pwr.holdup) s t ∧ t = { s with places := t.places, cnt := t.cnt })
  ∧ (∀ (s : State) (p : Place) (d : Desc) (src : List Line),
    startable s p 0x30 = some d → s.boot.fwRestarting = false → bitAt (wordAt d.words 3) 32 = false → Alone .keep s →
    src.length = bits (wordAt d.words 3) 0 32 / 64 →
    keepWaits s none (some (wordAt d.words 2 / 64)) (bits (wordAt d.words 3) 0 32 / 64) = false →
    keepCheck s (blocksTouched (wordAt d.words 2) (bits (wordAt d.words 3) 0 32)) = .pass →
    Yields (.keepWrite p src) s fun t =>
      (∀ i ∈ blocksTouched (wordAt d.words 2) (bits (wordAt d.words 3) 0 32),
        (kblock t i).dirty = true ∧ (kblock t i).copying = false)
      ∧ (∀ i, i ∉ blocksTouched (wordAt d.words 2) (bits (wordAt d.words 3) 0 32) → kblock t i = kblock s i)
      ∧ (∃ e, desc t p = some e ∧ e.stage = .ended ∧ e.detail = BitVec.ofNat 64 (satNat 32 s.pwr.holdup))
      ∧ (∀ q, q ≠ p → desc t q = desc s q) ∧ (∀ g, ring t g = ring s g))
  ∧ (∀ (s : State) (p : Place) (d : Desc) (src : List Line) (a : Order),
    startable s p 0x30 = some d → s.boot.fwRestarting = false → src.length = bits (wordAt d.words 3) 0 32 / 64 →
    rival s .keep [.keepSize, .keepCommit] = some a → a.master < masterOf d.func →
    Yields (.keepWrite p src) s fun t =>
      Ended p d .preempted (preemptDetail a) s t ∧ Logged3 s t
      ∧ t = { s with places := t.places, log := t.log, out := t.out, cnt := t.cnt })
  ∧ (∀ (s : State) (p : Place) (d : Desc) (x : CtxNo),
    runningOn s p 0x31 = some (d, x) → (ctx s x.val).all (fun c => decide (c.st ≠ .drain)) = true →
    bits (wordAt d.words 3) 0 32 = 64 → bitAt (wordAt d.words 3) 32 = false →
    keepWaits s (some (wordAt d.words 2 / 64)) none 1 = false →
    Yields (.keepRead p) s fun t =>
      t.out = s.out ++ [.hostWrite (BitVec.ofNat 64 (wordAt d.words 1)) (lineU64s (lyRead s (.bank false 0) (wordAt d.words 2 / 64)).1)]
      ∧ (ctx t x.val).all (fun c => decide (c.st = .drain)) = true ∧ t.bank.mem = s.bank.mem ∧ (∀ g, ring t g = ring s g))

/-- RUN whose entry its image has, within the quota, waits for a context with its footprint; one without that entry ends
RSV_NONZERO. STEP on an empty model slot ends RSV_NONZERO; one whose batch passes gets its rows judged and waits.
CONTEXT_ASSIGN gives the oldest waiting descriptor its context, in LOAD for a RUN or a STEP (09 R248, 13 R344). -/
def Obligations.WorkWaitsForAContext : Prop :=
  (∀ (s : State) (p : Place) (d : Desc) (im : List Byte),
    startable s p 0x10 = some d → bits (wordAt d.words 2) 24 8 < leAt im 0x1A 2 →
    fpDenied s d.func (imageFp im (bits (wordAt d.words 2) 24 8)) = false →
    Yields (.run p im) s fun t =>
      (∃ e, desc t p = some e ∧ e.stage = .ctxWait ∧ e.prog.words = imageFp im (bits (wordAt d.words 2) 24 8))
      ∧ (∀ q, q ≠ p → desc t q = desc s q) ∧ t = { s with places := t.places })
  ∧ (∀ (s : State) (p : Place) (d : Desc) (im : List Byte),
    startable s p 0x10 = some d → leAt im 0x1A 2 ≤ bits (wordAt d.words 2) 24 8 →
    Yields (.run p im) s fun t => Ended p d .rsvNonzero (0x10 + 24 * 2 ^ 8) s t ∧ t = { s with places := t.places })
  ∧ (∀ (s : State) (p : Place) (d : Desc) (b : List (List U64)),
    startable s p 0x11 = some d → (modelOf s d.func.val (bits (wordAt d.words 2) 16 4)).inForce = 0#39 →
    Yields (.serveStep p b) s fun t => Ended p d .rsvNonzero (0x10 + 16 * 2 ^ 8) s t ∧ t = { s with places := t.places })
  ∧ (∀ (s : State) (p : Place) (d : Desc) (b : List (List U64)) (h : List U64),
    startable s p 0x11 = some d → manifest s d.func.val (bits (wordAt d.words 2) 16 4) = some h →
    b.length = bits (wordAt d.words 2) 0 11 → tablesWait s d.func b.length = false → batchBad b = false →
    fpDenied s d.func (stepFp h (soundRows s d.func.val h b)) = false →
    Yields (.serveStep p b) s fun t =>
      (∃ run, tfind t.serve.steps p.val = some run ∧ run.func = d.func ∧ run.rows.length = b.length ∧ run.sent = false)
      ∧ (∃ e, desc t p = some e ∧ e.stage = .ctxWait) ∧ (∀ q, q ≠ p → desc t q = desc s q)
      ∧ t = { s with places := t.places, serve := t.serve, cnt := t.cnt })
  ∧ (∀ (s : State) (p : Place) (d : Desc) (x : Nat) (rs : Tab Region) (ks : List (Nat × Nat)),
    desc s p = some d → waitsForCtx s d = true →
    s.places.all (fun q => !(decide (q.2.acc < d.acc) && waitsForCtx s q.2)) = true →
    grantFor s d = some (x, rs, ks) →
    Yields (.contextAssign p) s fun t =>
      (∃ c, ctx t x = some c ∧ c.place = p ∧ c.func = d.func ∧ c.regions = ks ∧ c.vals = [] ∧ c.loops = []
        ∧ c.st = (if opcodeOf d.words = 0x10 ∨ opcodeOf d.words = 0x11 then CState.load else CState.run))
      ∧ (∀ y, y ≠ x → ctx t y = ctx s y) ∧ t.marl = { s.marl with regions := rs }
      ∧ (∃ e, desc t p = some e ∧ e.stage = .running ∧ e.ctx = some (Fin.ofNat 32 x))
      ∧ (∀ q, q ≠ p → desc t q = desc s q)
      ∧ t = { s with places := t.places, marl := t.marl, seq := t.seq })

/-- COPY with an extent that its function may not name ends BAD_TENANT as it is accepted (04 R104, R113); one over its
function's quota of blocks ends QUOTA; one that passes takes a staging block, enters the layout queue with the fewer commands
and runs (11 R303, R304). -/
def Obligations.CopiesEnterALayoutQueue : Prop :=
  (∀ (s : State) (f : Func) (p : Place) (d : Desc),
    headDesc s f = some (p, d) → (ring s f).needResync = false → waitsForCommit s f d = false → resyncDue s f = false →
    (∀ q ∈ s.places, q.2.func = f → q.2.failed = false) → opcodeOf d.words = 0x20 →
    extentOk s f.val (wordAt d.words 1) (srcExtent d.words) = false →
    Yields (.descriptorAccept f) s fun t =>
      ∃ e, desc t p = some e ∧ e.stage = .ended ∧ chosen e.conds = .badTenant ∧ e.detail = 0x08#64)
  ∧ (∀ (s : State) (p : Place) (d : Desc),
    startable s p 0x20 = some d → marlQuotaOf s d.func.val < blocksHeld s d.func + 1 →
    Yields (.copy p) s fun t => Ended p d .quota 0 s t ∧ t = { s with places := t.places })
  ∧ (∀ (s : State) (p : Place) (d : Desc) (rs : Tab Region) (key : Nat),
    startable s p 0x20 = some d → blocksHeld s d.func + 1 ≤ marlQuotaOf s d.func.val →
    placeRegion s s.marl.regions .staging none (some p) d.func 1 none = some (rs, key) →
    (queue s (copyQueue s).val).length < 64 →
    Yields (.copy p) s fun t =>
      (∃ k : QCmd, queue t (copyQueue s).val = queue s (copyQueue s).val ++ [k] ∧ k.ctx = none ∧ k.place = p
        ∧ k.words = d.words ∧ k.started = false)
      ∧ (∀ q, q ≠ (copyQueue s).val → queue t q = queue s q)
      ∧ t.marl = { s.marl with regions := rs } ∧ Becomes p { d with stage := .running } s t
      ∧ t = { s with places := t.places, marl := t.marl, seq := t.seq })

/-- SHIP with no path to its destination ends LINK_DOWN; one that passes goes on with every entry unacknowledged. The
replies drive it: acceptance commits it, an acknowledged entry is struck off, the last one sends the flag set, and the
flag's reply completes it with its page count and the ports it used (14 R382 to R385). -/
def Obligations.ShipmentsLeave : Prop :=
  (∀ (s : State) (p : Place) (d : Desc) (l : List U64),
    startable s p 0x40 = some d → bits (wordAt d.words 3) 0 13 = l.length →
    (∀ v ∈ l, bits v.toNat 0 32 < 2 ^ 23 ∧ bits v.toNat 32 32 < 2 ^ 23 ∧ pageOwner s (bits v.toNat 0 32) = d.func.val + 1
      ∧ isFenced s (bits v.toNat 0 32 / 4096 / 128) (bits v.toNat 0 32 / 4096 / 64 % 2) = false) →
    ownPos s ≠ some (BitVec.ofNat 8 (bits (wordAt d.words 1) 0 8)) →
    pathFor s (BitVec.ofNat 8 (bits (wordAt d.words 1) 0 8)) (BitVec.ofNat 6 (bits (wordAt d.words 1) 24 6)) = false →
    Yields (.ship p l) s fun t =>
      Becomes p { d with stage := .ended, conds := [.linkDown], detail := 0#64 } s t ∧ t = { s with places := t.places })
  ∧ (∀ (s : State) (p : Place) (d : Desc) (l : List U64),
    startable s p 0x40 = some d → bits (wordAt d.words 3) 0 13 = l.length →
    (∀ v ∈ l, bits v.toNat 0 32 < 2 ^ 23 ∧ bits v.toNat 32 32 < 2 ^ 23 ∧ pageOwner s (bits v.toNat 0 32) = d.func.val + 1
      ∧ isFenced s (bits v.toNat 0 32 / 4096 / 128) (bits v.toNat 0 32 / 4096 / 64 % 2) = false) →
    ownPos s ≠ some (BitVec.ofNat 8 (bits (wordAt d.words 1) 0 8)) →
    pathFor s (BitVec.ofNat 8 (bits (wordAt d.words 1) 0 8)) (BitVec.ofNat 6 (bits (wordAt d.words 1) 24 6)) = true →
    Yields (.ship p l) s fun t =>
      (∃ x, tfind t.serve.shipsOut p.val = some x ∧ x.unacked = List.range l.length ∧ x.opened = false ∧ x.flagSent = false
        ∧ x.pairs = l.map (fun v => (bits v.toNat 0 32, bits v.toNat 32 32)))
      ∧ (∃ e, desc t p = some e ∧ e.stage = .running) ∧ t.bank = s.bank ∧ (∀ g, ring t g = ring s g))
  ∧ (∀ (s : State) (p : PortNo) (h : PktHdr) (x : ShipOut) (d : Desc),
    portUp s p.val = true → h.seq = (port s p.val).rxNext → ownPos s = some h.dst →
    tfind s.serve.shipsOut h.tag.val = some x → x.opened = false → desc s h.tag = some d → d.stage = .running →
    Yields (.openReply p h 0#2) s fun t =>
      (∃ y, tfind t.serve.shipsOut h.tag.val = some y ∧ y.opened = true ∧ y.unacked = x.unacked)
      ∧ (∃ e, desc t h.tag = some e ∧ e.committed = true ∧ e.stage = .running)
      ∧ (port t p.val).rxNext = (port s p.val).rxNext + 1#32)
  ∧ (∀ (s : State) (p : PortNo) (h : PktHdr) (x : ShipOut) (e : BitVec 12),
    portUp s p.val = true → h.seq = (port s p.val).rxNext → ownPos s = some h.dst →
    tfind s.serve.shipsOut h.tag.val = some x →
    Yields (.writeAck p h e) s fun t =>
      (∃ y, tfind t.serve.shipsOut h.tag.val = some y ∧ y.unacked = x.unacked.filter (fun i => decide (i ≠ e.toNat))
        ∧ y.flagSent = (x.flagSent || decide (y.unacked = [])))
      ∧ (port t p.val).rxNext = (port s p.val).rxNext + 1#32)
  ∧ (∀ (s : State) (p : PortNo) (h : PktHdr) (x : ShipOut) (d : Desc),
    portUp s p.val = true → h.seq = (port s p.val).rxNext → ownPos s = some h.dst →
    tfind s.serve.shipsOut h.tag.val = some x → x.poisoned = false → desc s h.tag = some d → d.stage = .running →
    opcodeOf d.words = 0x40 → d.ctx = none →
    Yields (.flagReply p h 0#2) s fun t =>
      Ended h.tag d .done (satNat 13 (x.pairs.length - x.unacked.length) + x.used.toNat * 2 ^ 16) s t
      ∧ (port t p.val).rxNext = (port s p.val).rxNext + 1#32)
  ∧ (∀ (s : State) (p : PortNo) (h : PktHdr) (x : ShipOut) (d : Desc),
    portUp s p.val = true → h.seq = (port s p.val).rxNext → ownPos s = some h.dst →
    tfind s.serve.shipsOut h.tag.val = some x → x.ports = 0#6 → pathFor s x.dest 0#6 = false →
    desc s h.tag = some d →
    Yields (.noroute p h 0x0A#6) s fun t =>
      Ended h.tag d .linkDown (satNat 13 (x.pairs.length - x.unacked.length) + x.used.toNat * 2 ^ 16) s t
      ∧ tfind t.serve.shipsOut h.tag.val = none
      ∧ (port t p.val).rxNext = (port s p.val).rxNext + 1#32)

/-- At a shipment's destination: an OPEN whose pages all belong to the flag's function is accepted; a WRITE to one of its
pages commits its 256 bytes at their slices; ABORT ends it; a remote set sets its flag with last_setter 4 and a count, and
loses to the function's own operation on the flag at the same boundary (14 R383 to R385, 15 R409, R410; 04 R123). -/
def Obligations.ShipmentsArrive : Prop :=
  (∀ (s : State) (p : PortNo) (h : PktHdr) (flag : BitVec 14) (pages : List U32) (f : Nat),
    portUp s p.val = true → h.seq = (port s p.val).rxNext → ownPos s = some h.dst →
    openWaits s h.src h.tag 0 = false → flagOwner s flag.toNat = some f → f < 256 → inFlagRange s f flag.toNat = true →
    (∀ v ∈ pages, v ≠ 0xFFFFFFFF#32 ∧ pageOwner s v.toNat = f + 1) →
    Yields (.openShip p h flag 0#6 true pages) s fun t =>
      (∃ x ∈ t.serve.shipsIn, x.src = h.src ∧ x.tag = h.tag ∧ x.flag = flag ∧ x.func.val = f ∧ x.accepted = true
        ∧ x.pages = pages.map (fun v => v.toNat))
      ∧ (port t p.val).rxNext = (port s p.val).rxNext + 1#32
      ∧ t.bank = s.bank ∧ t.marl = s.marl)
  ∧ (∀ (s : State) (p : PortNo) (h : PktHdr) (pg : BitVec 23) (seg : Byte) (data : BitVec 2048) (po : Bool) (x : ShipIn),
    portUp s p.val = true → h.seq = (port s p.val).rxNext → ownPos s = some h.dst →
    shipFor s h pg.toNat = some x →
    (∀ w ∈ (List.range 4).flatMap (fun i => lineWords s true (pg.toNat * 1024 + seg.toNat * 4 + i)), bindingOf s w = none) →
    ((List.range 4).flatMap (fun i => lineWords s true (pg.toNat * 1024 + seg.toNat * 4 + i))).Nodup →
    Yields (.write p h pg seg data po) s fun t =>
      (∀ i < 4, ∀ k < 2, ∃ c,
        copyOf t ((lineWords s true (pg.toNat * 1024 + seg.toNat * 4 + i)).getD k 0) = some c
        ∧ c.data = data.extractLsb' (512 * i + 256 * k) 256 ∧ c.mask = BitVec.allOnes 32 ∧ c.poison = po)
      ∧ (∀ w, w ∉ (List.range 4).flatMap (fun i => lineWords s true (pg.toNat * 1024 + seg.toNat * 4 + i)) →
          copyOf t w = copyOf s w)
      ∧ t.bank = s.bank ∧ (port t p.val).rxNext = (port s p.val).rxNext + 1#32)
  ∧ (∀ (s : State) (p : PortNo) (h : PktHdr),
    portUp s p.val = true → h.seq = (port s p.val).rxNext → ownPos s = some h.dst →
    Yields (.abort p h) s fun t =>
      t.serve.shipsIn = s.serve.shipsIn.filter (fun x => decide (¬(x.src = h.src ∧ x.tag = h.tag)))
      ∧ (port t p.val).rxNext = (port s p.val).rxNext + 1#32
      ∧ ((findShip s h.src h.tag).all (fun x => x.got.isEmpty) = true → t.bank = s.bank ∧ t.marl = s.marl)
      ∧ t.bank.grains = s.bank.grains ∧ t.bank.dies = s.bank.dies
      ∧ (s.marl.binds = [] → ∀ w, (findShip s h.src h.tag).all (fun x => x.pages.all (fun g =>
            decide (w ∉ spanWords s { loc := true, line := g * 1024, lines := 1024 }))) = true → copyOf t w = copyOf s w))
  ∧ (∀ (s : State) (p : PortNo) (h : PktHdr) (flag : BitVec 14) (f : Nat),
    portUp s p.val = true → h.seq = (port s p.val).rxNext → ownPos s = some h.dst →
    flagOwner s flag.toNat = some f → inFlagRange s f flag.toNat = true → wordFaulted s .shared flag.toNat = false →
    Alone (.flag flag.toNat) s →
    Yields (.flagSetPacket p h flag false) s fun t =>
      (sharedFlag t flag.toNat).setter = 4 ∧ (sharedFlag t flag.toNat).setMtb = now s
      ∧ (sharedFlag t flag.toNat).sets = sat16 (sharedFlag s flag.toNat).sets
      ∧ ((∀ x ∈ s.seq.waits, waitsOn s x .shared flag.toNat true true = false) → (sharedFlag t flag.toNat).value = true)
      ∧ (∀ n, n ≠ flag.toNat → sharedFlag t n = sharedFlag s n)
      ∧ (port t p.val).rxNext = (port s p.val).rxNext + 1#32 ∧ t.bank = s.bank)
  ∧ (∀ (s : State) (p : PortNo) (h : PktHdr) (flag : BitVec 14) (f : Nat) (a : Order),
    portUp s p.val = true → h.seq = (port s p.val).rxNext → h.nack = false → ownPos s = some h.dst →
    flagOwner s flag.toNat = some f → inFlagRange s f flag.toNat = true → wordFaulted s .shared flag.toNat = false →
    rival s (.flag flag.toNat) [.flagOp] = some a →
    Yields (.flagSetPacket p h flag false) s fun t =>
      (∀ n, sharedFlag t n = sharedFlag s n) ∧ Collided s t
      ∧ (port t p.val).rxNext = (port s p.val).rxNext + 1#32 ∧ t.bank = s.bank)

/-- SIGNAL on its context sets or clears a shared flag of its function's range, or a local flag of a context of the same
function, with last_setter 2, and its context drains; outside the range it is BAD_TENANT and sets nothing. A set of another
module's flag goes out over a path, and its context drains with one reply outstanding; with no path it takes LINK_DOWN; one of
the own module's sets the flag here with last_setter 4. Of a faulted word it ends SEQ_FAULT with HW_PARITY (12 R324, R325,
R339, 14 R387). No other request on the flag stands at the boundary. -/
def Obligations.SignalsSetFlags : Prop :=
  (∀ (s : State) (p : Place) (d : Desc) (x : CtxNo),
    runningOn s p 0x41 = some (d, x) → (ctx s x.val).all (fun c => decide (c.st ≠ .drain)) = true →
    bits (wordAt d.words 1) 16 2 = 1 → bits (wordAt d.words 1) 18 2 = 0 → Alone (.flag (bits (wordAt d.words 1) 0 14)) s →
    wordFaulted s .shared (bits (wordAt d.words 1) 0 14) = false →
    inFlagRange s d.func.val (bits (wordAt d.words 1) 0 14) = true →
    Yields (.signal p) s fun t =>
      (sharedFlag t (bits (wordAt d.words 1) 0 14)).setter = 2
      ∧ (sharedFlag t (bits (wordAt d.words 1) 0 14)).sets = sat16 (sharedFlag s (bits (wordAt d.words 1) 0 14)).sets
      ∧ (∀ n, n ≠ bits (wordAt d.words 1) 0 14 → sharedFlag t n = sharedFlag s n)
      ∧ (∀ n, localFlag t n = localFlag s n)
      ∧ (ctx t x.val).all (fun c => decide (c.st = .drain)) = true
      ∧ Noted s t ∧ t = { s with seq := t.seq, places := t.places, cnt := t.cnt, log := t.log })
  ∧ (∀ (s : State) (p : Place) (d : Desc) (x : CtxNo),
    runningOn s p 0x41 = some (d, x) → (ctx s x.val).all (fun c => decide (c.st ≠ .drain)) = true →
    bits (wordAt d.words 1) 16 2 = 1 → bits (wordAt d.words 1) 18 2 ≠ 0 → Alone (.flag (bits (wordAt d.words 1) 0 14)) s →
    wordFaulted s .shared (bits (wordAt d.words 1) 0 14) = false →
    inFlagRange s d.func.val (bits (wordAt d.words 1) 0 14) = true →
    Yields (.signal p) s fun t =>
      (sharedFlag t (bits (wordAt d.words 1) 0 14)).value = false
      ∧ (sharedFlag t (bits (wordAt d.words 1) 0 14)).clears = sat16 (sharedFlag s (bits (wordAt d.words 1) 0 14)).clears
      ∧ (∀ n, n ≠ bits (wordAt d.words 1) 0 14 → sharedFlag t n = sharedFlag s n)
      ∧ (ctx t x.val).all (fun c => decide (c.st = .drain)) = true
      ∧ Noted s t ∧ t = { s with seq := t.seq, places := t.places, log := t.log })
  ∧ (∀ (s : State) (p : Place) (d : Desc) (x : CtxNo) (i : Nat),
    runningOn s p 0x41 = some (d, x) → (ctx s x.val).all (fun c => decide (c.st ≠ .drain)) = true →
    bits (wordAt d.words 1) 16 2 = 0 → i = 48 * bits (wordAt d.words 1) 20 2 + bits (wordAt d.words 1) 0 14 →
    wordFaulted s .loc i = false →
    (ctx s (8 * bits (wordAt d.words 1) 20 2 + bits (wordAt d.words 1) 0 14 / 6)).any (fun c => decide (c.func = d.func)) = true →
    Yields (.signal p) s fun t =>
      (bits (wordAt d.words 1) 18 2 = 0 → (localFlag t i).setter = 2 ∧ (localFlag t i).sets = sat16 (localFlag s i).sets)
      ∧ (bits (wordAt d.words 1) 18 2 ≠ 0 → (localFlag t i).value = false
          ∧ (localFlag t i).clears = sat16 (localFlag s i).clears)
      ∧ (∀ n, n ≠ i → localFlag t n = localFlag s n) ∧ (∀ n, sharedFlag t n = sharedFlag s n)
      ∧ (ctx t x.val).all (fun c => decide (c.st = .drain)) = true
      ∧ t = { s with seq := t.seq, places := t.places })
  ∧ (∀ (s : State) (p : Place) (d : Desc) (x : CtxNo),
    runningOn s p 0x41 = some (d, x) → (ctx s x.val).all (fun c => decide (c.st ≠ .drain)) = true →
    ((bits (wordAt d.words 1) 16 2 = 1 ∧ wordFaulted s .shared (bits (wordAt d.words 1) 0 14) = false
        ∧ inFlagRange s d.func.val (bits (wordAt d.words 1) 0 14) = false)
      ∨ (bits (wordAt d.words 1) 16 2 = 0
        ∧ wordFaulted s .loc (48 * bits (wordAt d.words 1) 20 2 + bits (wordAt d.words 1) 0 14) = false
        ∧ (ctx s (8 * bits (wordAt d.words 1) 20 2 + bits (wordAt d.words 1) 0 14 / 6)).any
            (fun c => decide (c.func = d.func)) = false)) →
    Yields (.signal p) s fun t =>
      (∀ n, sharedFlag t n = sharedFlag s n) ∧ (∀ n, localFlag t n = localFlag s n)
      ∧ (∃ e, desc t p = some e ∧ Status.badTenant ∈ e.conds ∧ e.detail = 0x08#64)
      ∧ (ctx t x.val).all (fun c => decide (c.st = .drain)) = true
      ∧ t = { s with seq := t.seq, places := t.places })
  ∧ (∀ (s : State) (p : Place) (d : Desc) (x : CtxNo) (c : Ctx) (own : Byte),
    runningOn s p 0x41 = some (d, x) → ctx s x.val = some c → c.st ≠ .drain → 2 ≤ bits (wordAt d.words 1) 16 2 →
    ownPos s = some own → own ≠ BitVec.ofNat 8 (bits (wordAt d.words 2) 0 8) →
    pathFor s (BitVec.ofNat 8 (bits (wordAt d.words 2) 0 8)) 0#6 = true →
    Yields (.signal p) s fun t =>
      (∃ y, ctx t x.val = some y ∧ y.st = .drain ∧ y.sets = 1)
      ∧ (∃ e, desc t p = some e ∧ e.stage = .running ∧ e.conds = d.conds)
      ∧ (∀ n, sharedFlag t n = sharedFlag s n) ∧ (∀ n, localFlag t n = localFlag s n) ∧ t.bank = s.bank
      ∧ t.marl = s.marl ∧ (∀ g, ring t g = ring s g))
  ∧ (∀ (s : State) (p : Place) (d : Desc) (x : CtxNo),
    runningOn s p 0x41 = some (d, x) → (ctx s x.val).all (fun c => decide (c.st ≠ .drain)) = true →
    2 ≤ bits (wordAt d.words 1) 16 2 → ownPos s ≠ some (BitVec.ofNat 8 (bits (wordAt d.words 2) 0 8)) →
    pathFor s (BitVec.ofNat 8 (bits (wordAt d.words 2) 0 8)) 0#6 = false →
    Yields (.signal p) s fun t =>
      (∃ e, desc t p = some e ∧ Status.linkDown ∈ e.conds) ∧ (∀ n, sharedFlag t n = sharedFlag s n)
      ∧ (ctx t x.val).all (fun c => decide (c.st = .drain)) = true
      ∧ t = { s with seq := t.seq, places := t.places })
  ∧ (∀ (s : State) (p : Place) (d : Desc) (x : CtxNo) (f : Nat),
    runningOn s p 0x41 = some (d, x) → (ctx s x.val).all (fun c => decide (c.st ≠ .drain)) = true →
    2 ≤ bits (wordAt d.words 1) 16 2 → ownPos s = some (BitVec.ofNat 8 (bits (wordAt d.words 2) 0 8)) →
    flagOwner s (bits (wordAt d.words 1) 0 14) = some f → inFlagRange s f (bits (wordAt d.words 1) 0 14) = true →
    wordFaulted s .shared (bits (wordAt d.words 1) 0 14) = false →
    Yields (.signal p) s fun t =>
      (sharedFlag t (bits (wordAt d.words 1) 0 14)).setter = 4
      ∧ (sharedFlag t (bits (wordAt d.words 1) 0 14)).sets = sat16 (sharedFlag s (bits (wordAt d.words 1) 0 14)).sets
      ∧ (∀ n, n ≠ bits (wordAt d.words 1) 0 14 → sharedFlag t n = sharedFlag s n)
      ∧ (ctx t x.val).all (fun c => decide (c.st = .drain)) = true
      ∧ t = { s with seq := t.seq, places := t.places, cnt := t.cnt })
  ∧ (∀ (s : State) (p : Place) (d : Desc) (x : CtxNo) (c : Ctx),
    runningOn s p 0x41 = some (d, x) → ctx s x.val = some c → c.st ≠ .drain → c.place = p →
    ((bits (wordAt d.words 1) 16 2 = 1 ∧ wordFaulted s .shared (bits (wordAt d.words 1) 0 14) = true)
      ∨ (bits (wordAt d.words 1) 16 2 = 0
        ∧ wordFaulted s .loc (48 * bits (wordAt d.words 1) 20 2 + bits (wordAt d.words 1) 0 14) = true)) →
    Yields (.signal p) s fun t =>
      (∃ e, desc t p = some e ∧ Status.seqFault ∈ e.conds)
      ∧ (∃ y, ctx t x.val = some y ∧ y.st = .drain ∧ y.seqFault = some 0x19#8)
      ∧ (∀ n, sharedFlag t n = sharedFlag s n) ∧ (∀ n, localFlag t n = localFlag s n))

/-! ### Module Links (15) -/

/-- Ports train on signal, on a failed lane and on a codeword error limit, and are DOWN without signal; the timers send
an IDENT or a TSYNC (R393 to R405, R412). IDENT: a port that hears its own module is LOOPED, one without a wiring plan
stays in QUARANTINE, and one that meets its plan's partner on a lane group carries (R395, R403, R404). -/
def Obligations.PortsTrain : Prop :=
  (∀ (s : State) (p : PortNo) (pol rev : Bool), s.boot.relLk = true → (port s p.val).st = .down →
    Yields (.signalDetect p pol rev) s fun t =>
      (port t p.val).st = .train ∧ (port t p.val).ident = none ∧ (port t p.val).good = 0xFF#8
      ∧ (port t p.val).polarity = pol ∧ (port t p.val).reversed = rev
      ∧ (∀ q, q ≠ p.val → port t q = port s q)
      ∧ t = { s with lnk := t.lnk, dev := t.dev, log := t.log, out := t.out, cnt := t.cnt })
  ∧ (∀ (s : State) (p : PortNo), s.serve.shipsOut = [] →
    Yields (.lossOfSignal p) s fun t =>
      (port t p.val).st = .down ∧ (∀ q, q ≠ p.val → port t q = port s q)
      ∧ (portUp s p.val = true → (port t p.val).held = [] ∧ (port t p.val).queue = []
          ∧ (port t p.val).restaged = (port s p.val).restaged ++ (port s p.val).held ++ (port s p.val).queue
          ∧ (port t p.val).staged = (port s p.val).staged)
      ∧ t = { s with lnk := t.lnk, log := t.log, out := t.out, cnt := t.cnt })
  ∧ (∀ (s : State) (p : PortNo) (k : Fin 8), portUp s p.val = true →
    Yields (.laneFailure p k) s fun t =>
      (port t p.val).st = .train ∧ (port t p.val).good = (port s p.val).good &&& ~~~(1#8 <<< k.val)
      ∧ (port t p.val).held = (port s p.val).held ∧ (∀ q, q ≠ p.val → port t q = port s q)
      ∧ t = { s with lnk := t.lnk, dev := t.dev, log := t.log, out := t.out, cnt := t.cnt })
  ∧ (∀ (s : State) (p : PortNo), portUp s p.val = true →
    Yields (.codewordErrorLimit p) s fun t =>
      (port t p.val).st = .train ∧ (port t p.val).held = (port s p.val).held ∧ (∀ q, q ≠ p.val → port t q = port s q)
      ∧ t = { s with lnk := t.lnk, dev := t.dev, log := t.log, out := t.out, cnt := t.cnt })
  ∧ (∀ (s : State) (p : PortNo), ((port s p.val).st = .train ∨ (port s p.val).st = .quarantine ∨ (port s p.val).st = .looped) →
    Yields (.identSendTimer p) s fun t =>
      t.out = s.out ++ [.packet p localHdr (.ident (ownIdent s p))] ∧ t = { s with out := t.out })
  ∧ (∀ (s : State) (p : PortNo), portUp s p.val = true →
    Yields (.tsyncSendTimer p) s fun t =>
      (∃ pl : TsyncPl, t.out = s.out ++ [.packet p localHdr (.tsync pl)] ∧ pl.tx = now s ∧ pl.root = s.lnk.root
        ∧ pl.dist = s.lnk.dist)
      ∧ t = { s with out := t.out })
  ∧ (∀ (s : State) (p : PortNo) (h : PktHdr) (pl : IdentPl),
    (port s p.val).st ≠ .down → pl.serial = Config.serial → s.serve.shipsOut = [] →
    Yields (.ident p h pl) s fun t =>
      (port t p.val).st = .looped ∧ (port t p.val).ident = some pl ∧ (∀ q, q ≠ p.val → port t q = port s q)
      ∧ t = { s with lnk := t.lnk, log := t.log, out := t.out, cnt := t.cnt,
                     boot := { s.boot with portWaived := t.boot.portWaived } })
  ∧ (∀ (s : State) (p : PortNo) (h : PktHdr) (pl : IdentPl),
    (port s p.val).st ≠ .down → pl.serial ≠ Config.serial → s.lnk.plan = none → s.serve.shipsOut = [] →
    Yields (.ident p h pl) s fun t =>
      (port t p.val).st = .quarantine ∧ (port t p.val).ident = some pl ∧ (∀ q, q ≠ p.val → port t q = port s q)
      ∧ t = { s with lnk := t.lnk, log := t.log, out := t.out, cnt := t.cnt,
                     boot := { s.boot with portWaived := t.boot.portWaived } })
  ∧ (∀ (s : State) (p : PortNo) (h : PktHdr) (pl : IdentPl) (plan : Plan) (e : PlanPort) (g : Nat × Nat),
    (port s p.val).st = .train → s.serve.shipsOut = [] → pl.serial ≠ Config.serial → s.lnk.plan = some plan → planPort s p.val = some e →
    e.enabled = true → pl.rackId = plan.rackId → pl.pos = e.far → pl.port = e.farPort →
    pickGroup (port s p.val).good pl.laneOk (min (lnkLaneOf s p.val).inForce.lanes.toNat e.lanes) = some g →
    Yields (.ident p h pl) s fun t =>
      (port t p.val).st = (if g.1 < e.lanes then .degraded else .up) ∧ (port t p.val).lanes = g.1
      ∧ (port t p.val).first = g.2 ∧ (∀ q, q ≠ p.val → port t q = port s q)
      ∧ (∃ x, Out.packet p localHdr (.ident x) ∈ t.out) ∧ t.boot.portWaived.getLsbD p.val = false
      ∧ t = { s with lnk := t.lnk, log := t.log, out := t.out, cnt := t.cnt,
                     boot := { s.boot with portWaived := t.boot.portWaived } })

/-- LACK takes its acknowledgement; TSYNC is stored with the offset; a replay timer sends what is held again; a discarded
packet draws one nack; an unknown type is sequenced, dropped and counted; PACKET_FORWARD sends a staged packet on, or
counts it where no port leads on (R397 to R400, R407, R411 to R413). -/
def Obligations.LinkPacketsAreHandled : Prop :=
  (∀ (s : State) (p : PortNo) (h : PktHdr), portUp s p.val = true → (h.nack = false ∨ (port s p.val).stalls < 8) →
    Yields (.lack p h) s fun t =>
      (∃ new, (port t p.val).held = (port s p.val).held.filter (fun o => later o.h.seq h.ack) ++ new)
      ∧ (port t p.val).rxNext = (port s p.val).rxNext ∧ (∀ q, q ≠ p.val → port t q = port s q)
      ∧ t = { s with lnk := t.lnk, out := t.out, cnt := t.cnt })
  ∧ (∀ (s : State) (p : PortNo) (h : PktHdr) (pl : TsyncPl), (portUp s p.val = true ∨ (port s p.val).st = .quarantine) →
    Yields (.tsync p h pl) s fun t =>
      (port t p.val).lastTsync = some (pl, now s) ∧ (port t p.val).offset = tsyncOffset pl (now s)
      ∧ (t.lnk.parent = some p → s.boot.fabricReady = true → t.clk.slew = tsyncOffset pl (now s))
      ∧ (t.lnk.parent ≠ some p → t.clk = s.clk)
      ∧ (∀ q, q ≠ p.val → port t q = port s q)
      ∧ t = { s with lnk := t.lnk, clk := t.clk, log := t.log, out := t.out, cnt := t.cnt })
  ∧ (∀ (s : State) (p : PortNo), portUp s p.val = true → (port s p.val).held ≠ [] → (port s p.val).stalls < 8 →
    Yields (.replayTimerExpiry p) s fun t =>
      t.out = s.out ++ (port s p.val).held.map (fun o => Out.packet p o.h o.k)
      ∧ (port t p.val).stalls = (port s p.val).stalls + 1 ∧ (port t p.val).replays = (port s p.val).replays + 1#32
      ∧ (port t p.val).held = (port s p.val).held ∧ t = { s with lnk := t.lnk, out := t.out, cnt := t.cnt })
  ∧ (∀ (s : State) (p : PortNo) (why : Discard) (h : PktHdr),
    why ≠ .linkLocalCrc → portUp s p.val = true → (port s p.val).nackSent = false →
    Yields (.packetDiscard p why h) s fun t =>
      (∃ k : PktHdr, t.out = s.out ++ [.packet p k .lack] ∧ k.nack = true ∧ k.ack = (port s p.val).rxNext - 1#32)
      ∧ (port t p.val).nackSent = true ∧ (port t p.val).rxNext = (port s p.val).rxNext ∧ t = { s with lnk := t.lnk, out := t.out })
  ∧ (∀ (s : State) (p : PortNo) (h : PktHdr) (ty : BitVec 6) (pay : Bool), portUp s p.val = true →
    h.seq = (port s p.val).rxNext → (h.nack = false ∨ (port s p.val).stalls < 8) →
    Yields (.unknownPacket p h ty pay) s fun t =>
      (port t p.val).rxNext = (port s p.val).rxNext + 1#32 ∧ fixedCtr t 7 = satInc (fixedCtr s 7)
      ∧ t = { s with lnk := t.lnk, out := t.out, cnt := t.cnt })
  ∧ (∀ (s : State) (p q : PortNo) (vc : Bool) (o : PktOut) (own : Byte) (dt ww : Bool), (port s p.val).restaged = [] →
    (port s p.val).staged.find? (fun x => decide (x.h.vc = vc) && forwardable s own x) = some o → ownPos s = some own → o.h.dst ≠ own →
    routeOf s own.toNat o.h.dst.toNat o.h.detour o.h.wrongWay p.val = some (q.val, dt, ww) → (port s q.val).queue = [] →
    mayGo s q { o with h := { o.h with vc := vcOf own.toNat q.val (some p.val) vc } } = true →
    Yields (.packetForward p vc) s fun t =>
      (∃ k : PktHdr, t.out = s.out ++ [.packet q k o.k] ∧ k.dst = o.h.dst ∧ k.src = o.h.src ∧ k.tag = o.h.tag
        ∧ k.detour = dt ∧ k.wrongWay = ww ∧ k.seq = (port s q.val).txSeq)
      ∧ (port t p.val).staged = (port s p.val).staged.erase o ∧ t = { s with lnk := t.lnk, out := t.out, cnt := t.cnt })
  ∧ (∀ (s : State) (p : PortNo) (vc : Bool) (o : PktOut) (own : Byte), (port s p.val).restaged = [] →
    (port s p.val).staged.find? (fun x => decide (x.h.vc = vc) && forwardable s own x) = some o → ownPos s = some own → o.h.dst ≠ own → o.h.src ≠ own →
    routeOf s own.toNat o.h.dst.toNat o.h.detour o.h.wrongWay p.val = none →
    Yields (.packetForward p vc) s fun t => fixedCtr t 8 = satInc (fixedCtr s 8) ∧ t.bank = s.bank)

/-! ### The host side (03, 18) -/

/-- FLR_VF disables the VF's ring with need_resync set, drops its built records and ends its ownership of pages, and no
other function's (03 R78); FLR_WORK_TIMEOUT ends with WATCHDOG a discarded descriptor of hub-handled work that still
runs 50 ms after. A conventional reset, an FLR of the PF, a write of HUB_RESET, a lost link and an IDE integrity failure
each take a ready module into a warm reset; a lost link is logged as 0x31 and an IDE failure as 0x32 (18 R474, R475; 03
R79, R91). -/
def Obligations.ResetsEndWork : Prop :=
  (∀ (s : State) (f : Func), f.val ≠ 0 → s.boot.phase ≠ 0x0A#8 → s.boot.relHost = true →
    trising s.serve.pages = true →
    Yields (.flrVf f) s fun t =>
      (ring t f).enable = false ∧ (ring t f).needResync = true ∧ (ring t f).built = [] ∧ OtherRings f s t
      ∧ (∀ g, pageOwner s g = f.val + 1 → pageOwner t g = 0)
      ∧ (∀ g, pageOwner s g ≠ f.val + 1 → pageOwner t g = pageOwner s g))
  ∧ (∀ (s : State) (f : Func) (w : U64) (p : Place) (d : Desc),
    tfind s.cxl.flrs f.val = some w → w.toNat + 50000000 ≤ (now s).toNat →
    s.places = [(p.val, d)] → s.seq.queues = [] → s.ctl.bcs = [] → d.func = f → d.discard = true → d.stage = .running →
    d.ctx = none → opcodeOf d.words ≠ 0x51 →
    Yields (.flrWorkTimeout f) s fun t =>
      (∃ e, desc t p = some e ∧ e.stage = .ended ∧ e.conds = addStatus .watchdog d.conds) ∧ t.bank = s.bank)
  ∧ (∀ s : State, warmable s = true → Yields .conventionalReset s (WarmReset s))
  ∧ (∀ s : State, warmable s = true → Yields .flrPf s (WarmReset s))
  ∧ (∀ (s : State) (v : U64), warmable s = true → bitAt v.toNat 0 = true →
    Yields (.hubResetWrite v) s (WarmReset s))
  ∧ (∀ s : State, warmable s = true → s.cxl.up = true →
    Yields .cxlLinkLoss s fun t => WarmReset s t ∧ Logged 0x03 0x31 s t)
  ∧ (∀ (s : State) (mem : Bool), warmable s = true → (if mem then s.cxl.ideMem else s.cxl.ideIo).key.isSome = true →
    Yields (.ideIntegrityFailure mem) s fun t =>
      WarmReset s t ∧ Logged 0x03 0x32 s t ∧ (if mem then t.cxl.ideMem else t.cxl.ideIo) = { Ide.reset with failed := true }
      ∧ (if mem then t.cxl.ideIo else t.cxl.ideMem).failed = (if mem then s.cxl.ideIo else s.cxl.ideMem).failed
      ∧ t.cxl.ideIo.key = none ∧ t.cxl.ideMem.key = none)

/-- HDM_DECODER_COMMIT: a setting the device accepts is Committed, any other Error Not Committed; a committed decoder with Lock
On Commit keeps its setting (03 R67, R68). CXL_MEM_READ returns the line as the Marl and the banks hold it, and poison where the
module is not ready (03 R43, R69); it waits for a channel in a frequency change and for a bank that a grain owns, and what it
reads where no decoder maps the address is free (log entries 26, 106). CXL_MEM_WRITE is completed: applied to the line's copy,
but neither in the Keep region, where it is counted, nor while the module is not ready (03 R69, R70, R72; 02 R526).
PERST_DEASSERT and CXL_LINK_UP: the link trains at a supported width and rate; 64 GT/s without 256-byte flits is not offered and
gives 32 GT/s (03 R60, Table 3.2); CDAT_READ answers with the bandwidths of the link as trained (R63). -/
def Obligations.HostReachesMemory : Prop :=
  (∀ (s : State) (k : Fin 2) (v : HdmSetting), s.boot.relHost = true →
    (if k.val = 0 then s.cxl.hdm0 else s.cxl.hdm1).committed = false →
    Yields (.hdmDecoderCommit k v) s fun t =>
      (let h := if k.val = 0 then t.cxl.hdm0 else t.cxl.hdm1
       h.set = v ∧ h.committed = hdmOk s k v ∧ h.error = !(hdmOk s k v))
      ∧ (if k.val = 0 then t.cxl.hdm1 = { s.cxl.hdm1 with committed := s.cxl.hdm1.committed && hdmOk s k v }
        else t.cxl.hdm0 = s.cxl.hdm0)
      ∧ t = { s with cxl := t.cxl })
  ∧ (∀ (s : State) (k : Fin 2) (v : HdmSetting),
    (if k.val = 0 then s.cxl.hdm0 else s.cxl.hdm1).committed = true →
    (if k.val = 0 then s.cxl.hdm0 else s.cxl.hdm1).set.lock = true →
    exec (.hdmDecoderCommit k v) s = .next s)
  ∧ (∀ (s : State) (h : U64) (a : Nat),
    s.cxl.up = true → hpaMap s h = some a → memServed s = true →
    isUnpop s (lineRank s false (a / 64)).1 (lineRank s false (a / 64)).2 = false →
    isFenced s (lineRank s false (a / 64)).1 (lineRank s false (a / 64)).2 = false →
    readWaits s (lineWords s false (a / 64)) = false →
    Yields (.cxlMemRead h) s fun t =>
      t.out = s.out ++ [.memData h (marlLine s (lineWords s false (a / 64))).1 (marlLine s (lineWords s false (a / 64))).2]
      ∧ t.bank = s.bank ∧ t.marl = s.marl ∧ t = { s with out := t.out, cnt := t.cnt, ctl := t.ctl })
  ∧ (∀ (s : State) (h : U64) (a : Nat),
    s.cxl.up = true → hpaMap s h = some a → memServed s = true →
    isUnpop s (lineRank s false (a / 64)).1 (lineRank s false (a / 64)).2 = false →
    isFenced s (lineRank s false (a / 64)).1 (lineRank s false (a / 64)).2 = false →
    readWaits s (lineWords s false (a / 64)) = true → exec (.cxlMemRead h) s = .next s)
  ∧ (∀ (s : State) (h : U64), s.cxl.up = true → memServed s = false →
    Yields (.cxlMemRead h) s fun t =>
      (∃ d, t.out = s.out ++ [.memData h d true]) ∧ t = { s with out := t.out, freeCtr := t.freeCtr })
  ∧ (∀ (s : State) (h : U64), s.cxl.up = true → memServed s = true → hpaMap s h = none →
    (Yields (.cxlMemRead h) s fun t =>
      (∃ d po, t.out = s.out ++ [.memData h d po]) ∧ t = { s with out := t.out, freeCtr := t.freeCtr })
    ∧ ∀ (d : Line) (m : BitVec 64), Yields (.cxlMemWrite h d m) s fun t =>
        t.out = s.out ++ [.memDone h] ∧ t = { s with out := t.out })
  ∧ (∀ (s : State) (h : U64) (a : Nat) (data : Line) (mask : BitVec 64),
    s.cxl.up = true → hpaMap s h = some a → memServed s = true → inKeep s a = false →
    isUnpop s (lineRank s false (a / 64)).1 (lineRank s false (a / 64)).2 = false →
    isFenced s (lineRank s false (a / 64)).1 (lineRank s false (a / 64)).2 = false →
    (lineWords s false (a / 64)).Nodup → (∀ w ∈ lineWords s false (a / 64), bindingOf s w = none) →
    storeHeld s (lineRank s false (a / 64)).1 (lineRank s false (a / 64)).2 (lineWords s false (a / 64)) = false →
    (lineWords s false (a / 64)).any (fun w => (bc s (wordLoc w).c).changing) = false →
    Yields (.cxlMemWrite h data mask) s fun t =>
      (∀ k < 2, ∀ b < 32, mask.getLsbD (32 * k + b) = true →
        ∃ c, copyOf t ((lineWords s false (a / 64)).getD k 0) = some c ∧ c.mask.getLsbD b = true
          ∧ c.data.extractLsb' (8 * b) 8 = data.extractLsb' (256 * k + 8 * b) 8)
      ∧ (∀ w, w ∉ lineWords s false (a / 64) → copyOf t w = copyOf s w) ∧ t.out = s.out ++ [.memDone h]
      ∧ t = { s with marl := { s.marl with copies := t.marl.copies }, out := t.out })
  ∧ (∀ (s : State) (h : U64) (a : Nat) (data : Line) (mask : BitVec 64),
    s.cxl.up = true → hpaMap s h = some a → memServed s = true → inKeep s a = true →
    Yields (.cxlMemWrite h data mask) s fun t =>
      t.out = s.out ++ [.memDone h] ∧ fixedCtr t 2 = satInc (fixedCtr s 2) ∧ t = { s with out := t.out, cnt := t.cnt })
  ∧ (∀ (s : State) (h : U64) (data : Line) (mask : BitVec 64), s.cxl.up = true → memServed s = false →
    Yields (.cxlMemWrite h data mask) s fun t => t.out = s.out ++ [.memDone h] ∧ t = { s with out := t.out })
  ∧ (∀ s : State, Yields .perstDeassert s fun t => t = { s with cxl := { s.cxl with perst := false } })
  ∧ (∀ (s : State) (n r : Nat) (fl : Bool),
    s.boot.relHost = true → s.cxl.perst = false → (n = 16 ∨ n = 8) → (r = 64 ∨ r = 32 ∨ r = 16) →
    Yields (.cxlLinkUp n r fl) s fun t =>
      t.cxl.up = true ∧ t.cxl.lanes = n ∧ t.cxl.flit256 = fl ∧ t.cxl.rate = (if r = 64 ∧ fl = false then 32 else r)
      ∧ t = { s with cxl := { s.cxl with up := true, lanes := n, rate := t.cxl.rate, flit256 := fl } })
  ∧ (∀ s : State, s.cxl.up = true →
    Yields .cdatRead s fun t =>
      t.out = s.out ++ [.doe (([0, 0x7FFFFFFFFF, 120000, 80000, (cdatBandwidth s.cxl).1, (cdatBandwidth s.cxl).2] : List Nat).map
        (fun w => BitVec.ofNat 64 w)) []] ∧ t = { s with out := t.out })

/-! ### The mailbox (03 R81 to R89) -/

/-- The event records: Get Event Records returns the oldest entries of a log, Clear Event Records removes those it names,
Get Log returns entries of the persistent fault log, Get Supported Logs and Get Health Info answer with success, and Get
Poison List gives each poisoned unit (19 R491, 18 R481, 08 R230). -/
def Obligations.MailboxReportsTheLogs : Prop :=
  (∀ (s : State) (path : MbPath) (log : EvLog) (n : Nat), mbAnswers path .health s = true →
    Yields (.getEventRecords path log n) s fun t =>
      Replied path .success 0 ((oldestEntries s log (min 31 n)).flatMap entryBytes) s t
      ∧ t.log.events.map (fun e => { e with seen := true }) = s.log.events.map (fun e => { e with seen := true })
      ∧ t.log.seq = s.log.seq ∧ t.log.plog = s.log.plog ∧ t = { s with out := t.out, cxl := t.cxl, log := t.log })
  ∧ (∀ (s : State) (path : MbPath) (log : EvLog) (hs : List U16), mbAnswers path .health s = true →
    Yields (.clearEventRecords path log hs) s fun t =>
      Replied path .success 0 [] s t
      ∧ (∀ e, e ∈ t.log.events ↔ e ∈ s.log.events ∧ ¬(evLogOf e = log ∧ e.seq ∈ hs))
      ∧ t.log.seq = s.log.seq ∧ t.log.plog = s.log.plog ∧ t = { s with out := t.out, cxl := t.cxl, log := t.log })
  ∧ (∀ (s : State) (path : MbPath) (i : Nat), mbAnswers path .health s = true → i ≤ s.log.plog.length →
    Yields (.getLog path i) s fun t =>
      Replied path .success 0 (((s.log.plog.drop i).take 170).flatMap plogBytes) s t ∧ t = { s with out := t.out, cxl := t.cxl })
  ∧ (∀ (s : State) (path : MbPath), mbAnswers path .health s = true →
    Yields (.getSupportedLogs path) s fun t =>
      (∃ b, Replied path .success 0 b s t) ∧ t = { s with out := t.out, cxl := t.cxl, freeCtr := s.freeCtr + 1 })
  ∧ (∀ (s : State) (path : MbPath), mbAnswers path .health s = true →
    Yields (.getHealthInfo path) s fun t =>
      (∃ b, Replied path .success 0 b s t) ∧ t = { s with out := t.out, cxl := t.cxl, freeCtr := s.freeCtr + 1 })
  ∧ (∀ (s : State) (path : MbPath), mbAnswers path .other s = true →
    Yields (.getPoisonList path) s fun t =>
      (∃ b, Replied path .success 0 (b :: leBytes 2 (min 254 (poisonUnits s).dedup.length)
        ++ ((poisonUnits s).dedup.take 254).flatMap (fun a => leBytes 8 a ++ leBytes 4 2)) s t)
      ∧ t = { s with out := t.out, cxl := t.cxl })

/-- Firmware: Transfer FW writes a slot only with an image whose signature verifies, Activate FW names the slot of the
next cold reset and knows no online activation, Get FW Info gives two slots (03 R83). Time and identity: Get Timestamp
returns the MTB plus the offset that Set Timestamp stores, and the MTB itself does not move; Identify Memory Device
gives 512 GiB, all of it volatile; a command outside Table 3.8 is Unsupported (03 R61, R82). -/
def Obligations.FirmwareAndTimeAreSet : Prop :=
  (∀ (s : State) (path : MbPath) (k : Fin 2) (im : List Byte), mbAnswers path .firmware s = true →
    Yields (.transferFw path k im) s fun t =>
      (if Config.fwSignatureOk im = true then
        Replied path .success 0 [] s t
        ∧ (if k.val = 0 then t.fw = { s.fw with image0 := im, valid0 := true } else t.fw = { s.fw with image1 := im, valid1 := true })
      else Replied path .invalidInput 0 [] s t ∧ t.fw = s.fw)
      ∧ t = { s with out := t.out, cxl := t.cxl, fw := t.fw })
  ∧ (∀ (s : State) (path : MbPath) (k : Fin 2), mbAnswers path .firmware s = true →
    Yields (.activateFw path k false) s fun t =>
      Replied path .success 0 [] s t ∧ t.fw = { s.fw with nextSlot := decide (k.val = 1) } ∧ t = { s with out := t.out, cxl := t.cxl, fw := t.fw })
  ∧ (∀ (s : State) (path : MbPath) (k : Fin 2), mbAnswers path .firmware s = true →
    Yields (.activateFw path k true) s fun t => Replied path .unsupported 0 [] s t ∧ t = { s with out := t.out, cxl := t.cxl })
  ∧ (∀ (s : State) (path : MbPath), mbAnswers path .firmware s = true →
    Yields (.getFwInfo path) s fun t =>
      (∃ b c, Replied path .success 0 (2#8 :: b :: 0#8 :: c) s t) ∧ t = { s with out := t.out, cxl := t.cxl, freeCtr := s.freeCtr + 1 })
  ∧ (∀ (s : State) (path : MbPath), mbAnswers path .other s = true →
    Yields (.getTimestamp path) s fun t =>
      Replied path .success 0 (leBytes 8 (now s + s.clk.tsOffset).toNat) s t ∧ t = { s with out := t.out, cxl := t.cxl })
  ∧ (∀ (s : State) (path : MbPath) (v : U64), mbAnswers path .other s = true →
    Yields (.setTimestamp path v) s fun t =>
      Replied path .success 0 [] s t ∧ t.clk.mtb = s.clk.mtb ∧ t.clk.mtb + t.clk.tsOffset = v
      ∧ t = { s with out := t.out, cxl := t.cxl, clk := t.clk })
  ∧ (∀ (s : State) (path : MbPath), mbAnswers path .other s = true →
    Yields (.identifyMemoryDevice path) s fun t =>
      (∃ b, Replied path .success 0 (leBytes 8 2048 ++ leBytes 8 2048 ++ leBytes 8 0 ++ b) s t)
      ∧ t = { s with out := t.out, cxl := t.cxl, freeCtr := s.freeCtr + 1 })
  ∧ (∀ (s : State) (path : MbPath) (op : U16), mbAnswers path .health s = true → op ∉ mbOpcodes →
    Yields (.unsupportedMailboxCommand path op) s fun t => Replied path .unsupported 0 [] s t ∧ t = { s with out := t.out, cxl := t.cxl })

/-- The vendor commands: KEEP_SET_SIZE commits its pair, PLAN_LOAD puts a valid plan in force and PLAN_GET returns its
bytes, RAMP_SET takes a valid budget for the next interval and RAMP_GET returns the one in force; each refuses, with no effect, a
payload of another length, with a nonzero reserved field or with a field outside its range (03 R85 to R89). One of the PF
that loses to the GRC's of the same boundary answers Retry Required with the extended status PREEMPTED (R84). -/
def Obligations.VendorCommandsAreCarriedOut : Prop :=
  (∀ (s : State) (path : MbPath), mbAnswers path .other s = true →
    Yields (.keepGetInfo path []) s fun t =>
      Replied path .success 0 (leBytes 8 (keepBytes s) ++ leBytes 8 (s.dev.keep.inForce.rsv.toNat * 2 ^ 30)
        ++ leBytes 8 (dirtyBytes s) ++ leBytes 8 (satNat 32 s.pwr.holdup + 15 * 2 ^ 32 + keepStateNow s * 2 ^ 48)) s t
      ∧ t = { s with out := t.out, cxl := t.cxl })
  ∧ (∀ (s : State) (path : MbPath) (b : List Byte) (k : KeepSz),
    mbAnswers path .other s = true → b.length = 16 → leAt b 0 8 = k.size.toNat * 2 ^ 28 → leAt b 8 8 = k.rsv.toNat * 2 ^ 30 →
    keepBad k = false → keepBusy s = false → Alone .keep s →
    Yields (.keepSetSize path b) s fun t =>
      Replied path .success 0 [] s t ∧ t.dev.keep.inForce = k ∧ t.dev.keep.staged = k ∧ t.dev.keep.mismatch = false
      ∧ Noted s t ∧ t = { s with out := t.out, cxl := t.cxl, dev := t.dev, keep := t.keep, log := t.log })
  ∧ (∀ (s : State) (path : MbPath) (b : List Byte),
    mbAnswers path .other s = true → planOk b = true → (path = .pf → s.pwr.grcRamp = none) → Alone .plan s →
    Yields (.planLoad path b) s fun t =>
      t.lnk.plan = some (planOf b (now s)) ∧ t.bank = s.bank ∧ t.pwr = s.pwr ∧ (∃ mid, t.out = s.out ++ mid ++ .mailbox path .success 0#16 []
        :: (if path = .pf then [Out.msix 0 2] else [])))
  ∧ (∀ (s : State) (path : MbPath) (b : List Byte), mbAnswers path .other s = true → planOk b = false →
    Yields (.planLoad path b) s fun t => Replied path .invalidInput 0 [] s t ∧ t = { s with out := t.out, cxl := t.cxl })
  ∧ (∀ (s : State) (path : MbPath), mbAnswers path .other s = true →
    Yields (.planGet path []) s fun t =>
      Replied path .success 0 ((s.lnk.plan.map (fun p => p.bytes)).getD (List.replicate 64 0#8)) s t ∧ t = { s with out := t.out, cxl := t.cxl })
  ∧ (∀ (s : State) (path : MbPath) (b : List Byte), mbAnswers path .other s = true → rampOk b = true → Alone .ramp s →
    (path = .pf → s.pwr.grcRamp.all (fun g => decide ((rampOf b).up ≤ g.up ∧ (rampOf b).down ≤ g.down ∧ (rampOf b).cap ≤ g.cap)) = true) →
    Yields (.rampSet path b) s fun t =>
      Replied path .success 0 [] s t ∧ t.pwr.rampNext = some (rampOf b) ∧ t.pwr.ramp = s.pwr.ramp
      ∧ t.pwr.grcRamp = (if path = .sideband then some (rampOf b) else s.pwr.grcRamp)
      ∧ Noted s t ∧ t = { s with out := t.out, cxl := t.cxl, pwr := t.pwr, log := t.log })
  ∧ (∀ (s : State) (i : Instr) (b : List Byte) (a : Order), mbAnswers .pf .other s = true → a.master = 0 →
    ((i = .rampSet .pf b ∧ rampOk b = true ∧ rival s .ramp [.rampSet] = some a)
      ∨ (i = .planLoad .pf b ∧ planOk b = true ∧ rival s .plan [.planLoad] = some a)) →
    Yields i s fun t =>
      (∃ mid, t.out = s.out ++ mid ++ [.mailbox .pf .retryRequired 0x40#16 [], .msix 0 2])
      ∧ t.cxl.mbox = (.retryRequired, 0x40#16, []) ∧ Logged3 s t
      ∧ t = { s with out := t.out, cxl := { s.cxl with mbox := t.cxl.mbox }, log := t.log, cnt := t.cnt })
  ∧ (∀ (s : State) (path : MbPath), mbAnswers path .other s = true →
    Yields (.rampGet path []) s fun t =>
      (∃ b, Replied path .success 0 (leBytes 2 s.pwr.ramp.up.toNat ++ leBytes 2 s.pwr.ramp.down.toNat
        ++ leBytes 2 s.pwr.ramp.cap.toNat ++ leBytes 2 0 ++ leBytes 4 s.pwr.ramp.gen.toNat ++ b) s t) ∧ t = { s with out := t.out, cxl := t.cxl })
  ∧ (∀ (s : State) (path : MbPath) (b : List Byte), mbAnswers path .other s = true → b.length ≠ 0 →
    Yields (.keepGetInfo path b) s fun t => Replied path .invalidInput 0 [] s t ∧ t = { s with out := t.out, cxl := t.cxl })
  ∧ (∀ (s : State) (path : MbPath) (b : List Byte), mbAnswers path .other s = true → b.length ≠ 0 →
    Yields (.planGet path b) s fun t => Replied path .invalidInput 0 [] s t ∧ t = { s with out := t.out, cxl := t.cxl })
  ∧ (∀ (s : State) (path : MbPath) (b : List Byte), mbAnswers path .other s = true → b.length ≠ 0 →
    Yields (.rampGet path b) s fun t => Replied path .invalidInput 0 [] s t ∧ t = { s with out := t.out, cxl := t.cxl })
  ∧ (∀ (s : State) (path : MbPath) (b : List Byte), mbAnswers path .other s = true →
    (b.length ≠ 16 ∨ leAt b 0 8 % 2 ^ 28 ≠ 0 ∨ 2 ^ 33 < leAt b 0 8 ∨ leAt b 8 8 % 2 ^ 30 ≠ 0 ∨ 48 * 2 ^ 30 < leAt b 8 8) →
    Yields (.keepSetSize path b) s fun t => Replied path .invalidInput 0 [] s t ∧ t = { s with out := t.out, cxl := t.cxl })
  ∧ (∀ (s : State) (path : MbPath) (b : List Byte), mbAnswers path .other s = true →
    (b.length ≠ 16 ∨ leAt b 6 2 ≠ 0 ∨ leAt b 12 4 ≠ 0 ∨ leAt b 0 2 = 0 ∨ 4800 < leAt b 0 2 ∨ leAt b 2 2 = 0
      ∨ 4800 < leAt b 2 2 ∨ leAt b 4 2 < 38 ∨ 480 < leAt b 4 2) →
    Yields (.rampSet path b) s fun t => Replied path .invalidInput 0 [] s t ∧ t = { s with out := t.out, cxl := t.cxl })

/-! ### SPDM and IDE (03 R79, R80) -/

/-- SPDM opens a session step by step: the version, the capabilities, the algorithms ECDSA P-384 and SHA-384, then
digests, certificates, the challenge and the measurements are answered; a request out of order draws an error. What the
answers hold beside is free (log entry 9). KEY_EXCHANGE and FINISH open a secured session where the handshake verifies,
END_SESSION closes it, and IDE_KM in a session keys a stream anew. -/
def Obligations.SpdmSessionsKeyTheLink : Prop :=
  (∀ s : State, s.cxl.up = true →
    Yields .getVersion s fun t =>
      t.spdm = { Spdm.reset with version := true } ∧ t.out = s.out ++ [.doe [0x04#64, 0x12#64] []] ∧ t = { s with out := t.out, spdm := t.spdm })
  ∧ (∀ (s : State) (fl : U32), s.cxl.up = true → s.spdm.version = true →
    Yields (.getCapabilities fl) s fun t =>
      t.spdm = { s.spdm with caps := true } ∧ (∃ b, t.out = s.out ++ [.doe [0x61#64] b])
      ∧ t = { s with out := t.out, spdm := t.spdm, freeCtr := s.freeCtr + 1 })
  ∧ (∀ (s : State) (fl : U32), s.cxl.up = true → s.spdm.version = false →
    Yields (.getCapabilities fl) s fun t => t.out = s.out ++ [.doe [0x7F#64, 0x04#64] []] ∧ t = { s with out := t.out })
  ∧ (∀ (s : State) (a h : U32), s.cxl.up = true → s.spdm.caps = true →
    Yields (.negotiateAlgorithms a h) s fun t =>
      t.spdm = { s.spdm with algs := a.getLsbD 7 && h.getLsbD 1 } ∧ (∃ w, t.out = s.out ++ [.doe (0x63#64 :: w) []])
      ∧ t = { s with out := t.out, spdm := t.spdm })
  ∧ (∀ s : State, s.cxl.up = true → s.spdm.algs = true →
    Yields .getDigests s fun t => (∃ b, t.out = s.out ++ [.doe [0x01#64, 1#64] b]) ∧ t = { s with out := t.out, freeCtr := s.freeCtr + 1 })
  ∧ (∀ (s : State) (o n : Nat), s.cxl.up = true → s.spdm.algs = true →
    Yields (.getCertificate 0 o n) s fun t =>
      (∃ w b, t.out = s.out ++ [.doe (0x02#64 :: w) b]) ∧ t = { s with out := t.out, freeCtr := s.freeCtr + 1 })
  ∧ (∀ (s : State) (nonce : BitVec 256), s.cxl.up = true → s.spdm.algs = true →
    Yields (.challenge 0 nonce) s fun t =>
      (∃ w b, t.out = s.out ++ [.doe (0x03#64 :: w) (leBytes 32 nonce.toNat ++ b)])
      ∧ t = { s with out := t.out, freeCtr := s.freeCtr + 1 })
  ∧ (∀ (s : State) (i : Nat), s.cxl.up = true → s.spdm.algs = true → 1 ≤ i → i ≤ 5 →
    Yields (.getMeasurements i) s fun t =>
      t.out = s.out ++ [.doe [0x60#64, 1#64] (measured s i)] ∧ t = { s with out := t.out, freeCtr := s.freeCtr + 1 })
  ∧ (∀ (s : State) (b : List Byte), s.cxl.up = true → s.spdm.algs = true →
    Yields (.keyExchange b) s fun t =>
      t.spdm = { s.spdm with exchanged := true } ∧ (∃ w c, t.out = s.out ++ [.doe (0x64#64 :: w) c])
      ∧ t = { s with out := t.out, spdm := t.spdm, freeCtr := s.freeCtr + 1 })
  ∧ (∀ (s : State) (b : List Byte), s.cxl.up = true → s.spdm.exchanged = true →
    Yields (.finish b) s fun t =>
      t.spdm = { s.spdm with exchanged := false, session := Config.spdmFinishOk s.freeCtr b || s.spdm.session }
      ∧ t = { s with out := t.out, spdm := t.spdm, freeCtr := s.freeCtr + 1 })
  ∧ (∀ s : State, s.cxl.up = true → s.spdm.session = true →
    Yields .endSession s fun t =>
      t.spdm = { s.spdm with session := false } ∧ t.out = s.out ++ [.doe [0x6C#64] []] ∧ t = { s with out := t.out, spdm := t.spdm })
  ∧ (∀ (s : State) (mem skid : Bool) (key : BitVec 256), s.cxl.up = true → s.spdm.session = true →
    Yields (.ideKm mem skid key) s fun t =>
      t.cxl = (if mem then { s.cxl with ideMem := { key := some key, skid := skid, failed := false } }
        else { s.cxl with ideIo := { key := some key, skid := false, failed := false } })
      ∧ t = { s with out := t.out, cxl := t.cxl })

/-! ### The Marl (02) -/

/-- MARL_WRITE_COMMIT commits the masked bytes of a line of quadrant space and leaves every other line; a whole line
takes the write's poison. To a bank line it commits to the line's copies, or in the region that the line is bound to (02 R40,
R42, R43, R54). MARL_READ returns the
latest committed data; an uncorrectable word poisons its line and is logged as 0x21, a corrected one as 0x20.
MARL_PATROL_SCRUB finds the same and returns nothing (02 R41, R53, R54). -/
def Obligations.MarlAccessesCommitAndRead : Prop :=
  (∀ (s : State) (q : Quad) (l : Nat) (data : Line) (mask : BitVec 64) (po : Bool),
    s.boot.relMarl = true → l < 737280 →
    Yields (.marlWriteCommit (.quadLine q l) data mask po) s fun t =>
      (∀ b < 64, (sramLine t q l).data.extractLsb' (8 * b) 8
        = if mask.getLsbD b then data.extractLsb' (8 * b) 8 else (sramLine s q l).data.extractLsb' (8 * b) 8)
      ∧ (mask = BitVec.allOnes 64 → (sramLine t q l).poison = po)
      ∧ (mask ≠ BitVec.allOnes 64 → (sramLine s q l).poison = true → (sramLine t q l).poison = true)
      ∧ (∀ q' l', l' < 737280 → (q' ≠ q ∨ l' ≠ l) → sramLine t q' l' = sramLine s q' l')
      ∧ (s.marl.binds = [] → t.marl.copies = s.marl.copies)
      ∧ t = { s with marl := { s.marl with sram := t.marl.sram, copies := t.marl.copies } })
  ∧ (∀ (s : State) (l : Nat) (data : Line) (po : Bool) (b : Bind) (r : Region),
    s.boot.relMarl = true → l < 2 ^ 33 → s.marl.binds = [b] → b.loc = false → b.line ≤ l → l < b.line + b.lines →
    b.off % 64 = 0 → tfind s.marl.regions b.region = some r →
    (∀ k < 2, wordAddr s false ((lineWords s false l).getD k 0) = 64 * l + 32 * k) →
    Yields (.marlWriteCommit (.dpaLine l) data (BitVec.allOnes 64) po) s fun t =>
      readTarget t (.dpaLine l) = (data, po) ∧ readRegion t b.region (b.off + 64 * (l - b.line)) = { data := data, poison := po }
      ∧ t = { s with marl := { s.marl with sram := t.marl.sram, copies := t.marl.copies } })
  ∧ (∀ (s : State) (l : Nat) (data : Line) (po : Bool),
    s.boot.relMarl = true → l < 2 ^ 33 → (lineWords s false l).Nodup → (∀ w ∈ lineWords s false l, bindingOf s w = none) →
    Yields (.marlWriteCommit (.dpaLine l) data (BitVec.allOnes 64) po) s fun t =>
      (∀ k < 2, ∃ c, copyOf t ((lineWords s false l).getD k 0) = some c ∧ c.data = data.extractLsb' (256 * k) 256
        ∧ c.mask = BitVec.allOnes 32 ∧ c.poison = po)
      ∧ (∀ w, w ∉ lineWords s false l → copyOf t w = copyOf s w) ∧ t = { s with marl := { s.marl with copies := t.marl.copies } })
  ∧ (∀ (s : State) (x : MarlTarget), s.boot.relMarl = true → targetOk x = true →
    Yields (.marlRead x .clean) s fun t =>
      t.out = s.out ++ [.marlData x (readTarget s x).1 (readTarget s x).2] ∧ t = { s with out := t.out })
  ∧ (∀ (s : State) (q : Quad) (l : Nat), s.boot.relMarl = true → l < 737280 →
    Yields (.marlRead (.quadLine q l) .uncorrectable) s fun t =>
      (sramLine t q l).poison = true ∧ (∃ d, t.out.getLast? = some (.marlData (.quadLine q l) d true))
      ∧ (∃ e ∈ t.log.events, e.cls = 0x03#8 ∧ e.code = 0x21#8) ∧ t.bank = s.bank)
  ∧ (∀ (s : State) (q : Quad) (l : Nat), s.boot.relMarl = true → l < 737280 →
    Yields (.marlPatrolScrub (.quadLine q l) .corrected) s fun t =>
      Logged 0x03 0x20 s t ∧ t.marl = s.marl ∧ t.bank = s.bank)

/-- WRITE_BACK of a due line, PASS_LANE_AGE_EXPIRY, REGION_RELEASE and PRE_COMMAND_WRITE_BACK of dirty lines: the column word
leaves the Marl, and a later read gives the bytes that a read gave before; a region without dirty lines frees its blocks (02 R45
to R47, R50). -/
def Obligations.DirtyLinesReachTheBanks : Prop :=
  (∀ (s : State) (w : Nat) (c : Copy),
    s.boot.relMarl = true → copyOf s w = some c → lineDue s w = true → lineTakes s w = true → w ∈ copyLine s w →
    Yields (.writeBack w) s fun t =>
      copyOf t w = none ∧ (∀ v, v ∉ dirtyUnits s w → copyOf t v = copyOf s v)
      ∧ (isFenced s (logicalLoc s (wordLoc w)).c (logicalLoc s (wordLoc w)).r = false → (marlCol t w).1 = (marlCol s w).1)
      ∧ t.marl.sram = s.marl.sram
      ∧ t.marl.regions = s.marl.regions ∧ t.out = s.out ∧ (∀ g, ring t g = ring s g))
  ∧ (∀ (s : State) (ch : Chan) (r : Fin 2) (w : Nat) (c : Copy),
    s.boot.relMarl = true → s.marl.copies = [(w, c)] → c.region = none → lineTakes s w = true → w ∈ copyLine s w →
    (logicalLoc s (wordLoc w)).c = ch.val → (logicalLoc s (wordLoc w)).r = r.val →
    lineSince s w + 10000 ≤ (now s).toNat →
    Yields (.passLaneAgeExpiry ch r) s fun t => t.marl.copies = [] ∧ t.out = s.out)
  ∧ (∀ (s : State) (id : Nat) (r : Region),
    s.boot.relMarl = true → tfind s.marl.regions id = some r → r.releasing = true → dirtyOfRegion s id = [] →
    Yields (.regionRelease id) s fun t =>
      tfind t.marl.regions id = none ∧ (∀ k, k ≠ id → tfind t.marl.regions k = tfind s.marl.regions k)
      ∧ (∀ b ∈ t.marl.binds, b.region ≠ id) ∧ t = { s with marl := t.marl })
  ∧ (∀ (s : State) (ch : Chan) (k : P1) (w : Nat),
    (bc s ch.val).p1.find? (fun x => !x.issued) = some k → dirtyFor s k = [w] → (copyOf s w).isSome = true →
    lineTakes s w = true → w ∈ copyLine s w →
    Yields (.preCommandWriteBack ch) s fun t => copyOf t w = none ∧ (bc t ch.val).p1 = (bc s ch.val).p1)

/-- MARL_PART_TAKE_EFFECT, HUB_MODEL_TAKE_EFFECT and GRN_PART_TAKE_EFFECT put a pending commit in force once what it waits for
has ended (02 R37, 13 R341, 05 R150, 12 R321). -/
def Obligations.PendingCommitsTakeEffect : Prop :=
  (∀ (s : State) (v : MarlPart), s.marl.regions = [] → s.hub.marlPart.waiting = some v →
    Yields .marlPartTakeEffect s fun t =>
      t.hub.marlPart.inForce = v ∧ t.hub.marlPart.waiting = none ∧ t = { s with hub := { s.hub with marlPart := t.hub.marlPart } })
  ∧ (∀ (s : State) (f : Func) (k : Fin 16) (v : BitVec 39),
    stepNames s f.val k.val = false → (modelOf s f.val k.val).waiting = some v →
    Yields (.hubModelTakeEffect f k) s fun t =>
      (modelOf t f.val k.val).inForce = v ∧ (modelOf t f.val k.val).waiting = none
      ∧ (∀ g j, j < 16 → (g ≠ f.val ∨ j ≠ k.val) → modelOf t g j = modelOf s g j)
      ∧ t = { s with hub := { s.hub with model := t.hub.model } })
  ∧ (∀ (s : State) (f : Func) (v : GrnPart),
    grainWork s f.val = false → (grnPartOf s f.val).waiting = some v →
    Yields (.grnPartTakeEffect f) s fun t =>
      (grnPartOf t f.val).inForce = v ∧ (grnPartOf t f.val).waiting = none
      ∧ (∀ g, g ≠ f.val → grnPartOf t g = grnPartOf s g)
      ∧ (flagBaseOf t f.val).inForce = ((flagBaseOf s f.val).waiting.getD (flagBaseOf s f.val).inForce)
      ∧ t = { s with hub := t.hub, seq := t.seq })

/-! ### Setup registers (20) -/

/-- REGISTER_WRITE: an RW field takes the written value, clamped where its table clamps; a half write keeps the other
half; an RWC field is staged and not in force; a read-only register ignores the write; a reserved offset or a bad
alignment drops it and counts it (20 R497 to R500). EVC_CFG_WRITE stores the configuration and clears its counter;
BC_FREQ_WRITE begins the change to set B on every channel that runs set A; PARITY_SWEEP reloads a register and logs it
as 0x38, and marks a counter (19 R486, R495; 08 R237; 20 R510). -/
def Obligations.RegistersAreWritten : Prop :=
  (∀ (s : State) (v : U64), s.boot.relHost = true → s.boot.relSeq = true →
    Yields (.registerWrite 0x4018 8 v) s fun t =>
      t.hub.wdCtx.toNat = clampN 1 1000 (bits v.toNat 0 10) ∧ t = { s with hub := { s.hub with wdCtx := t.hub.wdCtx } })
  ∧ (∀ (s : State) (v : U64), s.boot.relHost = true →
    Yields (.registerWrite 0x0048 4 v) s fun t =>
      (tenOf t s.hub.tenSel.toNat).staged.base.toNat = bits v.toNat 0 12
      ∧ (tenOf t s.hub.tenSel.toNat).inForce = (tenOf s s.hub.tenSel.toNat).inForce
      ∧ (∀ f, f ≠ s.hub.tenSel.toNat → tenOf t f = tenOf s f) ∧ t = { s with hub := { s.hub with ten := t.hub.ten } })
  ∧ (∀ (s : State) (v : U64), s.boot.relHost = true →
    Yields (.registerWrite 0x7018 8 v) s fun t =>
      t.dev.trickle.toNat = bits v.toNat 0 16 ∧ t = { s with dev := { s.dev with trickle := t.dev.trickle } })
  ∧ (∀ (s : State) (v : U64), s.boot.relHost = true → Yields (.registerWrite 0x9000 8 v) s fun t => t = s)
  ∧ (∀ (s : State) (off n : Nat) (v : U64), s.boot.relHost = true →
    ((n ≠ 4 ∧ n ≠ 8) ∨ off % n ≠ 0 ∨ regStaged s (off - off % 8) = none) →
    Yields (.registerWrite off n v) s fun t => fixedCtr t 3 = satInc (fixedCtr s 3) ∧ t = { s with cnt := t.cnt })
  ∧ (∀ (s : State) (n : Fin 16) (v : U64), s.boot.relHost = true →
    Yields (.evcCfgWrite n .whole v) s fun t =>
      (evcCfg t n.val).source = BitVec.ofNat 8 v.toNat ∧ (evcCfg t n.val).enable = bitAt v.toNat 24
      ∧ (evcCfg t n.val).inst = BitVec.ofNat 8 (bits v.toNat 8 8) ∧ (evcCfg t n.val).func = BitVec.ofNat 8 (bits v.toNat 16 8)
      ∧ tget 0#64 t.cnt.cnt n.val = 0#64 ∧ (∀ m, m ≠ n.val → evcCfg t m = evcCfg s m ∧ tget 0#64 t.cnt.cnt m = tget 0#64 s.cnt.cnt m)
      ∧ t = { s with cnt := t.cnt })
  ∧ (∀ (s : State) (n : Fin 16) (h : Half) (v : U64), s.boot.relHost = true →
    Yields (.evcCfgWrite n h v) s fun t => tget 0#64 t.cnt.cnt n.val = 0#64 ∧ t = { s with cnt := t.cnt })
  ∧ (∀ (s : State) (v : U64), s.boot.relHost = true → s.boot.relBc = 0xFFFF#16 → bitAt v.toNat 0 = true → s.dev.bInvalid = false →
    Yields (.bcFreqWrite v) s fun t =>
      t.dev.freq = true ∧ t.dev.policyFreq = true
      ∧ (∀ c < 16, (bc t c).setB = (bc s c).setB ∧ ((bc s c).setB = false → (bc t c).changing = true))
      ∧ t = { s with dev := t.dev, ctl := t.ctl })
  ∧ (∀ s : State, s.boot.relHost = true →
    Yields (.paritySweep [0x4018]) s fun t =>
      t.hub.wdCtx = 50#10 ∧ Logged 0x03 0x38 s t
      ∧ t = { s with hub := { s.hub with wdCtx := 50#10 }, log := t.log, out := t.out, cnt := t.cnt })
  ∧ (∀ s : State, s.boot.relHost = true →
    Yields (.paritySweep [0x0100]) s fun t => ctrRead t 24 (fixedCtr t 0) = 0xFFFFFFFFFFFFFFFF#64 ∧ t = { s with cnt := t.cnt })

/-- A commit of MARL_PART, HUB_TEN, HUB_MODEL and BC_MAP with values that break no rule puts all of the group's staged
values in force at once; one that breaks a rule is refused, mismatch set, and logged in class 0x08 with code 0x23 (20
R502, R504; 02 R37, 03 R76, 08 R218, 13 R341). Commits of GRN_PART and SYN_FLAGB take effect at once where no grain work
of the function is in execution; LNK_LANE's waits for the port's next training; KEEP's resizes the Keep region, and
loses to the GRC's KEEP_SET_SIZE of the same boundary (05 R149, R150; 12 R321; 15 R393; 03 R87; 20 Table 20.14). -/
def Obligations.CommitsTakeEffect : Prop :=
  (∀ (s : State) (v : U64), s.boot.relHost = true → s.boot.relMarl = true → bitAt v.toNat 0 = true → noRegions s = true →
    4 ≤ s.hub.marlPart.staged.bc.toNat → s.hub.marlPart.staged.bc.toNat ≤ 16 →
    8 ≤ s.hub.marlPart.staged.lk.toNat → s.hub.marlPart.staged.lk.toNat ≤ 32 →
    Yields (.marlPartCommit v) s fun t =>
      InForce s.hub.marlPart t.hub.marlPart ∧ t = { s with hub := { s.hub with marlPart := t.hub.marlPart } })
  ∧ (∀ (s : State) (v : U64), s.boot.relHost = true → bitAt v.toNat 0 = true →
    (tenOf s s.hub.tenSel.toNat).staged.base ≤ (tenOf s s.hub.tenSel.toNat).staged.limit →
    (tenOf s s.hub.tenSel.toNat).staged.limit.toNat ≤ 2048 →
    Yields (.hubTenCommit v) s fun t =>
      InForce (tenOf s s.hub.tenSel.toNat) (tenOf t s.hub.tenSel.toNat)
      ∧ (∀ f, f ≠ s.hub.tenSel.toNat → tenOf t f = tenOf s f) ∧ t = { s with hub := { s.hub with ten := t.hub.ten } })
  ∧ (∀ (s : State) (v : U64), s.boot.relHost = true → bitAt v.toNat 0 = true →
    (tenOf s s.hub.tenSel.toNat).staged.limit < (tenOf s s.hub.tenSel.toNat).staged.base →
    Yields (.hubTenCommit v) s fun t =>
      Refused (tenOf s s.hub.tenSel.toNat) (tenOf t s.hub.tenSel.toNat) ∧ Logged 0x08 0x23 s t
      ∧ (∀ f, f ≠ s.hub.tenSel.toNat → tenOf t f = tenOf s f))
  ∧ (∀ (s : State) (v : U64), s.boot.relHost = true → bitAt v.toNat 0 = true →
    stepNames s s.hub.modelFn.toNat s.hub.modelSlot.toNat = false →
    ((modelOf s s.hub.modelFn.toNat s.hub.modelSlot.toNat).staged = 0#39
      ∨ ((modelOf s s.hub.modelFn.toNat s.hub.modelSlot.toNat).staged.toNat % 4096 = 0
        ∧ inWindow s s.hub.modelFn.toNat (modelOf s s.hub.modelFn.toNat s.hub.modelSlot.toNat).staged.toNat 1 = true)) →
    Yields (.hubModelCommit v) s fun t =>
      InForce (modelOf s s.hub.modelFn.toNat s.hub.modelSlot.toNat) (modelOf t s.hub.modelFn.toNat s.hub.modelSlot.toNat)
      ∧ t = { s with hub := { s.hub with model := t.hub.model } })
  ∧ (∀ (s : State) (v : U64), s.boot.relHost = true → s.boot.relBc = 0xFFFF#16 → bitAt v.toNat 0 = true →
    s.cxl.hdm0.committed = false → s.cxl.hdm1.committed = false →
    (s.dev.bcMap.staged.order = 3#2 ∨ s.dev.bcMap.staged.ranks = 0xFFFFFFFF#32) →
    Yields (.bcMapCommit v) s fun t =>
      InForce s.dev.bcMap t.dev.bcMap ∧ t = { s with dev := { s.dev with bcMap := t.dev.bcMap } })
  ∧ (∀ (s : State) (v : U64), s.boot.relHost = true → s.boot.relBc = 0xFFFF#16 → bitAt v.toNat 0 = true →
    (s.cxl.hdm0.committed = true ∨ s.cxl.hdm1.committed = true) →
    Yields (.bcMapCommit v) s fun t => Refused s.dev.bcMap t.dev.bcMap ∧ Logged 0x08 0x23 s t)
  ∧ (∀ (s : State) (v : U64) (f : Nat) (g : GrnPart), s.boot.relHost = true → bitAt v.toNat 0 = true →
    f = s.hub.grnSel.toNat → (grnPartOf s f).staged = g → grainWork s f = false → (g.lo ≤ g.hi ∨ setSize g.set.toNat = 0) →
    setShared s f g.set.toNat = false → (pairsOf g.set.toNat).length ≤ g.flagQ.toNat →
    blockBad s f ((flagBlock s f).1, g.flagQ.toNat) g.set.toNat = false →
    Yields (.grnPartCommit v) s fun t =>
      InForce (grnPartOf s f) (grnPartOf t f) ∧ (∀ k, k ≠ f → grnPartOf t k = grnPartOf s k)
      ∧ t = { s with hub := t.hub, seq := t.seq })
  ∧ (∀ (s : State) (v : U64) (f : Nat), s.boot.relHost = true → s.boot.relSeq = true → bitAt v.toNat 0 = true →
    f = s.hub.grnSel.toNat → grainWork s f = false →
    blockBad s f ((flagBaseOf s f).staged.toNat, (flagBlock s f).2) (grainsOf s f) = false →
    Yields (.synFlagbCommit v) s fun t =>
      InForce (flagBaseOf s f) (flagBaseOf t f) ∧ (∀ k, k ≠ f → flagBaseOf t k = flagBaseOf s k)
      ∧ t = { s with hub := t.hub, seq := t.seq })
  ∧ (∀ (s : State) (v : U64) (k : Nat), s.boot.relHost = true → s.boot.relLk = true → bitAt v.toNat 0 = true →
    k = s.dev.lnkSel.toNat → ((lnkLaneOf s k).staged.lanes = 2#4 ∨ (lnkLaneOf s k).staged.lanes = 4#4 ∨ (lnkLaneOf s k).staged.lanes = 8#4) →
    ((List.range (lnkLaneOf s k).staged.lanes.toNat).map (fun i => bits (lnkLaneOf s k).staged.map.toNat (3 * i) 3)).Nodup →
    Yields (.lnkLaneCommit v) s fun t =>
      (lnkLaneOf t k).waiting = some (lnkLaneOf s k).staged ∧ (lnkLaneOf t k).inForce = (lnkLaneOf s k).inForce
      ∧ (lnkLaneOf t k).mismatch = false ∧ t = { s with dev := { s.dev with lnkLane := t.dev.lnkLane } })
  ∧ (∀ (s : State) (v : U64), s.boot.relHost = true → bitAt v.toNat 0 = true →
    keepBad s.dev.keep.staged = false → keepBusy s = false → Alone .keep s →
    Yields (.keepCommit v) s fun t =>
      InForce s.dev.keep t.dev.keep ∧ (∀ e ∈ t.keep.blocks, e.1 < s.dev.keep.staged.size.toNat * 4096)
      ∧ Noted s t ∧ t = { s with dev := { s.dev with keep := t.dev.keep }, keep := t.keep, log := t.log })
  ∧ (∀ (s : State) (v : U64) (a : Order), s.boot.relHost = true → bitAt v.toNat 0 = true →
    rival s .keep [.keepSize] = some a → a.master = 0 →
    Yields (.keepCommit v) s fun t =>
      t.dev.keep.inForce = s.dev.keep.inForce ∧ t.dev.keep.waiting = s.dev.keep.waiting ∧ t.dev.keep.preempted = true
      ∧ t.dev.keep.mismatch = false ∧ t.dev.keep.staged = s.dev.keep.waiting.getD s.dev.keep.inForce
      ∧ t.log.seq = s.log.seq + 3#16
      ∧ t = { s with dev := { s.dev with keep := t.dev.keep }, log := t.log, out := t.out, cnt := t.cnt })

/-! ### Start-up and faults (18) -/

/-- POWER_GOOD runs the first three steps of a cold start: with a valid slot HOST and the links are released in phase 0x04,
with none the start halts in phase 0x0E with code 0x01 (18 R466, R473). -/
def Obligations.ColdStartBegins : Prop :=
  (∀ (s : State) (k : BitVec 3), s.boot.powered = false → slotValid s s.fw.active = true →
    Yields (.powerGood k) s fun t =>
      t.boot.phase = 0x04#8 ∧ t.boot.powered = true ∧ t.boot.slotId = k ∧ t.boot.relHost = true ∧ t.boot.relLk = true
      ∧ t.boot.fwSlot = s.fw.active ∧ t.boot.powerOnCount = s.boot.powerOnCount + 1#32
      ∧ t = { s with boot := t.boot, pwr := { s.pwr with lost := false, trip := false } })
  ∧ (∀ (s : State) (k : BitVec 3), s.boot.powered = false → slotValid s true = false → slotValid s false = false →
    Yields (.powerGood k) s fun t =>
      t.boot.phase = 0x0E#8 ∧ t.boot.code = 0x01#8 ∧ Logged 0x03 0x01 s t ∧ t.fw = s.fw ∧ t.bank = s.bank)

/-- The self-tests: the Marl's and each island's release it; a failing test runs once more, and its second failure halts the
start; the grains that fail twice are mapped out for good (18 R466, R467; 05 R155). -/
def Obligations.SelfTestsReleaseIslands : Prop :=
  (∀ s : State, s.boot.phase = 0x04#8 → s.cnt.held = [] →
    Yields (.marlSelfTestDone true) s fun t =>
      t.boot.phase = 0x05#8 ∧ t.boot.relMarl = true ∧ t = { s with boot := t.boot })
  ∧ (∀ s : State, s.boot.phase = 0x04#8 → tget 0 s.boot.testFails 0 = 0 →
    Yields (.marlSelfTestDone false) s fun t =>
      t.boot.phase = 0x04#8 ∧ tget 0 t.boot.testFails 0 = 1 ∧ t.boot.relMarl = s.boot.relMarl ∧ t = { s with boot := t.boot })
  ∧ (∀ s : State, s.boot.phase = 0x04#8 → tget 0 s.boot.testFails 0 ≠ 0 →
    Yields (.marlSelfTestDone false) s fun t => t.boot.phase = 0x0E#8 ∧ t.boot.code = 0x02#8 ∧ Logged 0x03 0x02 s t)
  ∧ (∀ (s : State) (n : MxNo), inStart s = true → s.boot.relMx.getLsbD n.val = false →
    Yields (.islandSelfTestDone (.mx n) true) s fun t =>
      t.boot.relMx = s.boot.relMx ||| (1#4 <<< n.val) ∧ t = { s with boot := { s.boot with relMx := t.boot.relMx } })
  ∧ (∀ s : State, inStart s = true → s.boot.relLay = false →
    Yields (.islandSelfTestDone .lay true) s fun t => t = { s with boot := { s.boot with relLay := true } })
  ∧ (∀ s : State, inStart s = true → s.boot.relSeq = false → s.cnt.held = [] →
    Yields (.islandSelfTestDone .rom true) s fun t => t.boot.relSeq = true ∧ t.bank = s.bank ∧ t.marl = s.marl)
  ∧ (∀ (s : State) (l : List GrainNo),
    s.boot.phase = 0x05#8 → s.boot.relBc = 0xFFFF#16 → s.boot.grainTested = false → s.boot.grainFails = [] → l ≠ [] →
    Yields (.grainSelfTestDone l) s fun t =>
      t.boot.grainFails = l.map (fun g => g.val) ∧ t.boot.phase = 0x05#8 ∧ t = { s with boot := t.boot })
  ∧ (∀ (s : State) (l : List GrainNo),
    s.boot.phase = 0x05#8 → s.boot.relBc = 0xFFFF#16 → s.boot.grainTested = false → s.boot.grainFails ≠ [] →
    Yields (.grainSelfTestDone l) s fun t =>
      t.boot.phase = 0x06#8 ∧ t.boot.grainTested = true
      ∧ (∀ g, g ∈ t.bank.mappedOut ↔ g ∈ s.bank.mappedOut ∨ (g ∈ l.map (fun k => k.val) ∧ g ∈ s.boot.grainFails)))

/-- MEMORY_INIT_DONE, KEEP_RESTORE_DONE, MEDIA_READY and FABRIC_READY follow in their order; Media Ready ends a warm reset
too, with every island released (18 R468 to R471, Table 18.4). -/
def Obligations.TheModuleBecomesReady : Prop :=
  (∀ s : State, s.boot.phase = 0x06#8 →
    Yields .memoryInitDone s fun t =>
      t.boot.phase = 0x07#8 ∧ t.boot.memInit = true
      ∧ (∀ a, wordWithin s 0 (keepBytes s) (a / 32) = false → Memory.byte t.bank.mem a = 0#8)
      ∧ (∀ a, wordWithin s 0 (keepBytes s) (a / 32) = true → Memory.byte t.bank.mem a = Memory.byte s.bank.mem a)
      ∧ t = { s with boot := t.boot, bank := { s.bank with mem := t.bank.mem, marks := t.bank.marks } })
  ∧ (∀ s : State, s.boot.phase = 0x07#8 → s.boot.keepRestored = false → s.keep.nand = [] → s.keep.record = none →
    Yields .keepRestoreDone s fun t =>
      t.boot.keepRestored = true ∧ t.dev.restoreStat = 1#64 ∧ t.keep.blocks = []
      ∧ (∀ a, wordWithin s 0 (keepBytes s) (a / 32) = true → Memory.byte t.bank.mem a = 0#8)
      ∧ (∀ a, wordWithin s 0 (keepBytes s) (a / 32) = false → Memory.byte t.bank.mem a = Memory.byte s.bank.mem a))
  ∧ (∀ s : State, s.boot.phase = 0x07#8 → s.boot.keepRestored = true → s.boot.relSeq = true → s.boot.relLay = true →
    s.boot.relMx = 0xF#4 →
    Yields .mediaReady s fun t =>
      t.boot.mediaReady = true ∧ t.boot.phase = 0x08#8 ∧ t.cxl = { s.cxl with flrs := [] }
      ∧ t = { s with boot := t.boot, cxl := t.cxl, out := t.out })
  ∧ (∀ s : State, s.boot.phase = 0x0A#8 → s.boot.relBc = 0xFFFF#16 →
    Yields .mediaReady s fun t =>
      t.boot.mediaReady = true ∧ t.boot.phase = 0x08#8 ∧ t.boot.relHost = true ∧ t.boot.relMarl = true ∧ t.boot.relSeq = true
      ∧ t.boot.relLay = true ∧ t.boot.relMx = 0xF#4 ∧ t.boot.relLk = true
      ∧ t = { s with boot := t.boot, cxl := t.cxl, out := t.out, lnk := { s.lnk with plan := t.lnk.plan } })
  ∧ (∀ (s : State) (pl : Plan), s.lnk.plan = some pl → s.boot.phase = 0x08#8 → s.clk.stepped = true →
    ((List.range 6).all (fun p => !((pl.ports[p]?).any (fun e => e.enabled)) || portSettled s p)) = true →
    Yields .fabricReady s fun t =>
      t.boot.fabricReady = true ∧ t.boot.phase = 0x09#8 ∧ t.out = s.out ++ [.sideband .fabricReady 1#64]
      ∧ t = { s with boot := t.boot, out := t.out })
  ∧ (∀ (s : State) (p : PortNo) (pl : Plan) (e : PlanPort),
    s.boot.relLk = true → s.lnk.plan = some pl → pl.ports[p.val]? = some e → e.enabled = true →
    ((port s p.val).st = .down ∨ (port s p.val).st = .train) →
    Yields (.fabricWaitExpiry p) s fun t =>
      t.boot.portWaived = s.boot.portWaived ||| (1#6 <<< p.val) ∧ t = { s with boot := { s.boot with portWaived := t.boot.portWaived } })

/-- PMU_WATCHDOG_EXPIRY is logged as 0x24; at Media Ready a first one restarts PMU firmware, a second within the hour is a
hub fault, and before Media Ready the start halts with code 0x06. A hub fault stops all work: phase 0x0F, every ring
disabled with need_resync set, no descriptor left (18 R478, R479). -/
def Obligations.FaultsStopTheModule : Prop :=
  (∀ s : State, s.boot.powered = true → s.boot.phase ≠ 0x0E#8 → s.boot.hubFault = false → s.boot.mediaReady = true →
    s.boot.wdLast = none →
    Yields .pmuWatchdogExpiry s fun t =>
      t.boot.fwRestarting = true ∧ t.boot.wdLast = some (now s) ∧ t.boot.phase = s.boot.phase ∧ Logged 0x03 0x24 s t
      ∧ t = { s with boot := t.boot, log := t.log, out := t.out, cnt := t.cnt })
  ∧ (∀ s : State, s.boot.powered = true → s.boot.phase ≠ 0x0E#8 → s.boot.phase ≠ 0x0A#8 → s.boot.hubFault = false →
    s.boot.mediaReady = false →
    Yields .pmuWatchdogExpiry s fun t => t.boot.phase = 0x0E#8 ∧ t.boot.code = 0x06#8)
  ∧ (∀ s : State, Yields .pmuFirmwareRestartDone s fun t => t = { s with boot := { s.boot with fwRestarting := false } })
  ∧ (∀ (s : State) (k : Fin 4) (loc : BitVec 12) (row : U16) (dead : List (Fin 64)),
    s.boot.powered = true → s.boot.hubFault = false → s.pwr.lost = false → s.pwr.trip = false →
    Yields (.hubFault k loc row dead) s fun t =>
      t.boot.hubFault = true ∧ t.boot.phase = 0x0F#8 ∧ t.boot.code = BitVec.ofNat 8 (0x10 + k.val)
      ∧ (∀ f, (ring t f).enable = false ∧ (ring t f).needResync = true) ∧ t.places = [] ∧ t.seq.ctxs = [] ∧ t.serve.steps = []
      ∧ t.serve.pages = s.serve.pages ∧ t.out.getLast? = some (.sideband .hubFault (BitVec.ofNat 64 (0x10 + k.val)))
      ∧ (∃ e ∈ t.log.events, e.cls = 0x03#8 ∧ e.code = BitVec.ofNat 8 (0x10 + k.val)))


/-! ### The CA bus and the dies (07) -/

namespace Sys2Proof.Machine

/-- Every die of a rank takes commands. -/
def rankHears (s : State) (c r : Nat) : Bool :=
  rankExists c r && (List.range 4).all (fun d => dieHears (die s (dieNo c r d)))

/-- Every die of a rank takes grain commands (07 R192, R210): it has passed self-test, and none of its selected grains is
running or owns its banks. -/
def grainsTake (s : State) (c r : Nat) : Bool :=
  rankHears s c r && (List.range 4).all (fun d =>
    let x := die s (dieNo c r d)
    x.stDone && !x.selfTest && (selected s c r d).all (fun g =>
      decide ((grain s (grainAt c r d g)).state ≠ .running ∧ (grain s (grainAt c r d g)).own = .controller)))

/-- No grain of a rank owns a bank. -/
def bankFree (s : State) (c r bank : Nat) : Bool := (List.range 4).all (fun d => !bankOwned s c r d bank)

/-- A command's cycles by Table 7.2, with its data burst, are read as that command. -/
def ReadBack (c : Chan) (r : Rank) (data : Wide) (i : Instr) : Prop :=
  ∃ v, caCycles i = some v ∧ (∀ x ∈ v, x < 2 ^ 14) ∧ caDecode c r v data = some i

/-- The cycles of every command of Table 7.2 are read as that command (07 R187 to R190). -/
def CaCommandsAreRead : Prop :=
  ∀ (c : Chan) (r : Rank) (bank : BankNo) (row : RowNo) (col : ColNo) (ap poison : Bool) (data : Wide) (a b : Byte)
    (dies : BitVec 4) (m : GrainSel) (insn : U32) (entry : Fin 2048) (w : Fin 7) (n : Fin 8) (g : Fin 16) (lo hi : BitVec 12)
    (f : Func),
    ReadBack c r data (.act c r bank row) ∧ ReadBack c r data (.rd c r bank col ap [])
    ∧ ReadBack c r data (.wr c r bank col ap poison data) ∧ ReadBack c r data (.pre c r bank ap)
    ∧ ReadBack c r data (.ref c r bank ap) ∧ ReadBack c r data (.mrw c r a b dies) ∧ ReadBack c r data (.mrr c r a)
    ∧ ReadBack c r data (.sre c r) ∧ ReadBack c r data (.srx c r) ∧ ReadBack c r data (.zq c r)
    ∧ ReadBack c r data (.sel c r m) ∧ ReadBack c r data (.actg c r row) ∧ ReadBack c r data (.preg c r)
    ∧ ReadBack c r data (.sprd c r insn) ∧ ReadBack c r data (.grun c r entry) ∧ ReadBack c r data (.haltg c r)
    ∧ ReadBack c r data (.stat c r) ∧ ReadBack c r data (.craw c r w data) ∧ ReadBack c r data (.crar c r n g)
    ∧ ReadBack c r data (.tlw c r a b data) ∧ ReadBack c r data (.tlr c r a g) ∧ ReadBack c r data (.bind c r lo hi f)

/-- The dies of every other rank are as they were. -/
def OtherDies (c r : Nat) (s t : State) : Prop := ∀ i, (∀ d < 4, i ≠ dieNo c r d) → die t i = die s i

/-- Only dies and programmable counters may have changed. -/
def DiesOnly (c r : Nat) (s t : State) : Prop :=
  OtherDies c r s t ∧ t = { s with bank := { s.bank with dies := t.bank.dies }, cnt := { s.cnt with cnt := t.cnt.cnt } }

/-- Only the selected grains of a rank and programmable counters may have changed. -/
def GrainsOnly (c r : Nat) (s t : State) : Prop :=
  (∀ g, (∀ d < 4, ∀ k ∈ selected s c r d, g ≠ grainAt c r d k) → grain t g = grain s g)
  ∧ t = { s with bank := { s.bank with grains := t.bank.grains }, cnt := { s.cnt with cnt := t.cnt.cnt } }

/-- The module puts one burst of a rank's four dies on the CA data lines: each die's data and check code. -/
def BurstOf (c : Chan) (r : Rank) (part : Nat → ColData) (chk : Nat → Nat) (s t : State) : Prop :=
  ∃ (v : Wide) (k : BitVec 8), t.out = s.out ++ [.caData c r v k]
    ∧ ∀ d < 4, v.extractLsb' (256 * d) 256 = part d ∧ (k.extractLsb' (2 * d) 2).toNat = chk d

end Sys2Proof.Machine

/-- ACT opens the row at every die of the rank and PRE closes the banks it names, where no grain owns them; on a bank that a
grain owns the die ignores the command and sets BANK_OWNED. RD puts the open rows' column words on the bus with their check
codes, one flipped bit corrected and two told, which the rank's failure then finds; WR replaces them with their poison, whole,
and no other column word; auto-precharge closes the bank. REF at a bank that a run owns is deferred, four at most, and is lost
with REF_OVERFLOW beyond them; at a bank that a lockstep Spread owns it is ignored with BANK_OWNED; rows stay as they are. -/
def Obligations.BanksTakeCommands : Prop :=
  (∀ (s : State) (c : Chan) (r : Rank) (bank : BankNo) (row : RowNo),
    rankHears s c r = true → bankFree s c r bank = true →
    Yields (.act c r bank row) s fun t =>
      (∀ d < 4, openRow t c r d bank = some row.val ∧ ∀ b, b ≠ bank.val → openRow t c r d b = openRow s c r d b)
      ∧ DiesOnly c r s t)
  ∧ (∀ (s : State) (c : Chan) (r : Rank) (bank : BankNo) (row : RowNo),
    rankHears s c r = true → (∀ d < 4, bankOwned s c r d bank = true) →
    Yields (.act c r bank row) s fun t =>
      (∀ d < 4, (die t (dieNo c r d)).openRows = (die s (dieNo c r d)).openRows
        ∧ (die t (dieNo c r d)).cause = (die s (dieNo c r d)).cause ||| 4#8)
      ∧ DiesOnly c r s t)
  ∧ (∀ (s : State) (c : Chan) (r : Rank) (bank : BankNo) (all : Bool),
    rankHears s c r = true → (∀ b < 32, (all = true ∨ b = bank.val) → bankFree s c r b = true) →
    Yields (.pre c r bank all) s fun t =>
      (∀ d < 4, ∀ b, openRow t c r d b = if b < 32 ∧ (all = true ∨ b = bank.val) then none else openRow s c r d b)
      ∧ DiesOnly c r s t)
  ∧ (∀ (s : State) (c : Chan) (r : Rank) (bank : BankNo) (col : ColNo) (ap : Bool) (row : Nat),
    rankHears s c r = true → bankFree s c r bank = true → (∀ d < 4, openRow s c r d bank = some row) →
    Yields (.rd c r bank col ap []) s fun t =>
      BurstOf c r
        (fun d => Memory.col s.bank.mem (locWord { c := c, r := r, d := d, bank := bank, row := row, col := col }))
        (fun d => chkOf s (locWord { c := c, r := r, d := d, bank := bank, row := row, col := col })) s t
      ∧ (∀ d < 4, openRow t c r d bank = if ap = true then none else some row)
      ∧ OtherDies c r s t
      ∧ t = { s with out := t.out, bank := { s.bank with dies := t.bank.dies }, cnt := { s.cnt with cnt := t.cnt.cnt },
                     ctl := { s.ctl with corrected := t.ctl.corrected, bad := t.ctl.bad } })
  ∧ (∀ (s : State) (c : Chan) (r : Rank) (bank : BankNo) (col : ColNo) (ap : Bool) (flips : Flips) (row : Nat),
    rankHears s c r = true → bankFree s c r bank = true → (∀ d < 4, openRow s c r d bank = some row) → row < 65536 →
    (∀ w ∈ unitWords c r bank row col, markOf s w = Mark.clean) →
    Yields (.rd c r bank col ap flips) s fun t =>
      (∃ (v : Wide) (k : BitVec 8), t.out = s.out ++ [.caData c r v k] ∧ ∀ d < 4,
        (k.extractLsb' (2 * d) 2).toNat = (flips.getD d 0).val ∧ ((flips.getD d 0).val < 2 →
          v.extractLsb' (256 * d) 256 =
            Memory.col s.bank.mem (locWord { c := c, r := r, d := d, bank := bank, row := row, col := col })))
      ∧ (∀ w, w ∉ unitWords c r bank row col →
          Memory.col t.bank.mem w = Memory.col s.bank.mem w ∧ markOf t w = markOf s w)
      ∧ ((∃ d < 4, flips.getD d 0 = 2) → (tfind t.ctl.bad (4 * c.val + r.val)).isSome = true))
  ∧ (∀ (s : State) (c : Chan) (r : Rank) (bank : BankNo) (col : ColNo) (ap poison : Bool) (data : Wide) (row : Nat),
    rankHears s c r = true → bankFree s c r bank = true → (∀ d < 4, openRow s c r d bank = some row) → row < 65536 →
    Yields (.wr c r bank col ap poison data) s fun t =>
      (∀ d < 4, let w := locWord { c := c, r := r, d := d, bank := bank, row := row, col := col }
        Memory.col t.bank.mem w = data.extractLsb' (256 * d) 256 ∧ markOf t w = { poison := poison, flips := 0 })
      ∧ (∀ w, w ∉ unitWords c r bank row col →
          Memory.col t.bank.mem w = Memory.col s.bank.mem w ∧ markOf t w = markOf s w)
      ∧ (∀ d < 4, openRow t c r d bank = if ap = true then none else some row)
      ∧ OtherDies c r s t ∧ t = { s with bank := t.bank })
  ∧ (∀ (s : State) (c : Chan) (r : Rank) (bank : BankNo) (all : Bool), rankHears s c r = true →
    Yields (.ref c r bank all) s fun t =>
      (∀ d < 4, ∀ b < 32, tget 0 (die t (dieNo c r d)).deferred b =
        tget 0 (die s (dieNo c r d)).deferred b
          + if (all = true ∨ b = bank.val) ∧ bankOwn s c r d b = .polled ∧ tget 0 (die s (dieNo c r d)).deferred b < 4
            then 1 else 0)
      ∧ (∀ d < 4, ∀ b < 32, (all = true ∨ b = bank.val) → bankOwn s c r d b = .blind →
          (die t (dieNo c r d)).cause.getLsbD 2 = true)
      ∧ (∀ d < 4, ∀ b < 32, (all = true ∨ b = bank.val) → bankOwn s c r d b = .polled →
          4 ≤ tget 0 (die s (dieNo c r d)).deferred b → (die t (dieNo c r d)).cause.getLsbD 3 = true)
      ∧ (∀ d < 4, (die t (dieNo c r d)).openRows = (die s (dieNo c r d)).openRows)
      ∧ DiesOnly c r s t)

/-- MRW stores a register's writable bits at the dies it names; 0x24 starts self-test; 0x08 and an alert cause clear clear
the causes written; MRR returns each die's register and its complement; a written mode takes effect once no grain of the
die runs; SRE and SRX take a rank into self-refresh and out of it; ZQ changes nothing; a released die has the settings of
reset, its grains as at reset; of the cycles that a die receives, those with odd parity set CA_PAR and an undefined encoding
sets CA_UNDEF and its code; the cycles of every command of Table 7.2 are read as that command. -/
def Obligations.ModeRegistersAreKept : Prop :=
  (∀ (s : State) (c : Chan) (r : Rank) (addr data : Byte) (dies : BitVec 4) (d : Nat),
    rankHears s c r = true → d < 4 → dies.getLsbD d = true → mrMask addr.toNat ≠ 0#8 →
    Yields (.mrw c r addr data dies) s fun t =>
      mrStored (die t (dieNo c r d)) addr.toNat = data &&& mrMask addr.toNat
      ∧ (die t (dieNo c r d)).ready = (die s (dieNo c r d)).ready
      ∧ (die t (dieNo c r d)).speed = (die s (dieNo c r d)).speed
      ∧ (∀ e < 4, dies.getLsbD e = false → die t (dieNo c r e) = die s (dieNo c r e)) ∧ DiesOnly c r s t)
  ∧ (∀ (s : State) (c : Chan) (r : Rank) (addr data : Byte) (dies : BitVec 4),
    rankHears s c r = true → mrMask addr.toNat = 0#8 → addr ≠ 0x08#8 → addr ≠ 0x24#8 →
    Yields (.mrw c r addr data dies) s fun t => (∀ i, die t i = die s i) ∧ DiesOnly c r s t)
  ∧ (∀ (s : State) (c : Chan) (r : Rank) (addr : Byte), rankHears s c r = true → addr ≠ 0x10#8 →
    Yields (.mrr c r addr) s fun t =>
      BurstOf c r (fun d =>
        let v := mrRead (die s (dieNo c r d)) addr.toNat
        BitVec.ofNat 256 (v.toNat + 256 * (~~~v).toNat)) (fun _ => 0) s t
      ∧ t = { s with out := t.out })
  ∧ (∀ (s : State) (c : Chan) (r : Rank) (dies : BitVec 4) (d : Nat),
    rankHears s c r = true → d < 4 → dies.getLsbD d = true →
    Yields (.grainSelfTestStart c r dies) s fun t =>
      (die t (dieNo c r d)).selfTest = true ∧ (die t (dieNo c r d)).stDone = false
      ∧ mrStored (die t (dieNo c r d)) 0x20 = 0#8 ∧ mrStored (die t (dieNo c r d)) 0x21 = 0#8
      ∧ (∀ e < 4, dies.getLsbD e = false → die t (dieNo c r e) = die s (dieNo c r e)) ∧ DiesOnly c r s t)
  ∧ (∀ (s : State) (c : Chan) (r : Rank) (dies : BitVec 4) (causes : Byte) (d : Nat),
    rankHears s c r = true → d < 4 → dies.getLsbD d = true →
    Yields (.alertCauseClear c r dies causes) s fun t =>
      die t (dieNo c r d) = { (die s (dieNo c r d)) with cause := (die s (dieNo c r d)).cause &&& ~~~causes }
      ∧ (∀ e < 4, dies.getLsbD e = false → die t (dieNo c r e) = die s (dieNo c r e)) ∧ DiesOnly c r s t)
  ∧ (∀ (s : State) (c : Chan) (r : Rank) (d : Die), rankExists c r = true → dieQuiet s c r d = true →
    Yields (.modeChangeEffect c r d) s fun t =>
      die t (dieNo c r d) = { (die s (dieNo c r d)) with ready := (mrStored (die s (dieNo c r d)) 0x03).getLsbD 0 }
      ∧ (∀ i, i ≠ dieNo c r d → die t i = die s i) ∧ t = { s with bank := { s.bank with dies := t.bank.dies } })
  ∧ (∀ (s : State) (c : Chan) (r : Rank), rankHears s c r = true → rankBusy s c r = false →
    Yields (.sre c r) s fun t =>
      (∀ d < 4, die t (dieNo c r d) = { (die s (dieNo c r d)) with selfRefresh := true }) ∧ DiesOnly c r s t)
  ∧ (∀ (s : State) (c : Chan) (r : Rank), rankHears s c r = true → rankBusy s c r = true →
    Yields (.sre c r) s fun t =>
      (∀ d < 4, (die t (dieNo c r d)).selfRefresh = false ∧ (die t (dieNo c r d)).cause.getLsbD 6 = true)
      ∧ DiesOnly c r s t)
  ∧ (∀ (s : State) (c : Chan) (r : Rank), rankExists c r = true →
    (∀ d < 4, (die s (dieNo c r d)).inReset = false ∧ (die s (dieNo c r d)).selfRefresh = true) →
    Yields (.srx c r) s fun t =>
      (∀ d < 4, (die t (dieNo c r d)).selfRefresh = false
        ∧ (die t (dieNo c r d)).speed = nextSpeed (die s (dieNo c r d))) ∧ DiesOnly c r s t)
  ∧ (∀ (s : State) (c : Chan) (r : Rank), Yields (.zq c r) s fun t => t = s)
  ∧ (∀ (s : State) (c : Chan) (r : Rank), rankExists c r = true → rankRetired s c r = false →
    (s.boot.relBc.getLsbD c.val = true ∨ s.boot.phase = 0x05#8) →
    Yields (.resetNRelease c r) s fun t =>
      (∀ d < 4, die t (dieNo c r d) = if (die s (dieNo c r d)).inReset = true
        then { DieSt.reset with inReset := false } else die s (dieNo c r d))
      ∧ (∀ d < 4, ∀ g < 16, grain t (grainAt c r d g) = if (die s (dieNo c r d)).inReset = true
        then { Grain.reset with eccCorrected := (grain s (grainAt c r d g)).eccCorrected } else grain s (grainAt c r d g))
      ∧ (∀ g, (∀ d < 4, ∀ k < 16, g ≠ grainAt c r d k) → grain t g = grain s g)
      ∧ OtherDies c r s t ∧ t = { s with bank := { s.bank with dies := t.bank.dies, grains := t.bank.grains } })
  ∧ (∀ (s : State) (c : Chan) (r : Rank) (cycles : List (BitVec 15)), rankHears s c r = true → cycles ≠ [] →
    (caTaken cycles).all evenParity = false →
    Yields (.undefinedCaCommand c r cycles) s fun t =>
      (∀ d < 4, let x := die s (dieNo c r d)
        die t (dieNo c r d) = { x with cause := x.cause ||| 1#8 }) ∧ DiesOnly c r s t)
  ∧ (∀ (s : State) (c : Chan) (r : Rank) (cycles : List (BitVec 15)), rankHears s c r = true → cycles ≠ [] →
    (caTaken cycles).all evenParity = true →
    caDecode c r ((caTaken cycles).map (fun x => x.toNat % 2 ^ 14)) 0#1024 = none →
    Yields (.undefinedCaCommand c r cycles) s fun t =>
      (∀ d < 4, let x := die s (dieNo c r d)
        die t (dieNo c r d) = { x with
          cause := x.cause ||| 2#8,
          undefCode := if x.cause.getLsbD 1 then x.undefCode else BitVec.ofNat 5 (cycles.headD 0#15).toNat })
      ∧ DiesOnly c r s t)
  ∧ (∀ (s : State) (c : Chan) (r : Rank) (cycles : List (BitVec 15)), (caTaken cycles).all evenParity = true →
    (caDecode c r ((caTaken cycles).map (fun x => x.toNat % 2 ^ 14)) 0#1024).isSome = true →
    Yields (.undefinedCaCommand c r cycles) s fun t => t = s)
  ∧ CaCommandsAreRead

/-- SEL selects grains at the dies it names and none at the others; ACTG opens a row in both banks of each selected
grain and PREG closes them; a grain that runs or owns its banks makes its die ignore the command, with BANK_OWNED. BIND
gives the selected grains a page range and a function, clearing what another function left; CRAW, CRAR, TLW and TLR
write and read the grains' CRA slots and Tilth stores. -/
def Obligations.GrainsAreSelectedAndLoaded : Prop :=
  (∀ (s : State) (c : Chan) (r : Rank) (m : GrainSel), rankHears s c r = true →
    Yields (.sel c r m) s fun t =>
      (∀ d < 4, ∀ g < 16, (die t (dieNo c r d)).sel.getLsbD g
        = (m.dies.getLsbD d && m.grains.getLsbD g && !mrOut (die s (dieNo c r d)) g))
      ∧ DiesOnly c r s t)
  ∧ (∀ i : Nat, i < 192 → (die State.reset i).sel = 0#16)
  ∧ (∀ (s : State) (c : Chan) (r : Rank) (row : RowNo), grainsTake s c r = true → actgWanted s c r row = false →
    Yields (.actg c r row) s fun t =>
      (∀ d < 4, ∀ g ∈ selected s c r d,
        openRow t c r d (2 * g) = some row.val ∧ openRow t c r d (2 * g + 1) = some row.val)
      ∧ (∀ d < 4, ∀ g < 16, g ∉ selected s c r d → openRow t c r d (2 * g) = openRow s c r d (2 * g)
          ∧ openRow t c r d (2 * g + 1) = openRow s c r d (2 * g + 1))
      ∧ DiesOnly c r s t)
  ∧ (∀ (s : State) (c : Chan) (r : Rank) (row : RowNo), grainsTake s c r = true → (portCfg s 1).mode = false →
    Yields (.actg c r row) s fun t =>
      (∀ d < 4, ∀ g ∈ selected s c r d,
        openRow t c r d (2 * g) = some row.val ∧ openRow t c r d (2 * g + 1) = some row.val)
      ∧ ∃ l : List (Nat × Nat × Nat), (bc t c).nbr = (bc s c).nbr ++ l ∧ (bc t c).tracker = (bc s c).tracker
        ∧ (actgWanted s c r row = false → l = [])
        ∧ ∀ e ∈ l, e.1 = r.val ∧ e.2.2 = row.val ∧ ∃ d < 4, e.2.1 / 2 ∈ selected s c r d)
  ∧ (∀ (s : State) (c : Chan) (r : Rank) (row : RowNo) (k : Track) (d : Die) (g : Fin 16),
    actgWanted s c r row = true → (portCfg s 1).mode = true → k ∈ (bc s c).tracker →
    k.port = 1 → k.rank = r.val → k.row = row.val → k.bank / 2 = g.val → g.val ∈ selected s c r d →
    (now s - k.at_).toNat < s.dev.thrNs.toNat →
    Yields (.actg c r row) s fun t => t = { s with cnt := { s.cnt with cnt := t.cnt.cnt } })
  ∧ (∀ (s : State) (c : Chan) (r : Rank), grainsTake s c r = true →
    Yields (.preg c r) s fun t =>
      (∀ d < 4, ∀ g ∈ selected s c r d, openRow t c r d (2 * g) = none ∧ openRow t c r d (2 * g + 1) = none)
      ∧ (∀ d < 4, ∀ g < 16, g ∉ selected s c r d → openRow t c r d (2 * g) = openRow s c r d (2 * g)
          ∧ openRow t c r d (2 * g + 1) = openRow s c r d (2 * g + 1))
      ∧ DiesOnly c r s t)
  ∧ (∀ (s : State) (c : Chan) (r : Rank) (row : RowNo), rankHears s c r = true →
    (∀ d < 4, selected s c r d ≠ [] ∧ dieAccepts s c r d = false) → actgWanted s c r row = false →
    Yields (.actg c r row) s fun t =>
      (∀ d < 4, (die t (dieNo c r d)).openRows = (die s (dieNo c r d)).openRows
        ∧ (die t (dieNo c r d)).cause = (die s (dieNo c r d)).cause ||| 4#8) ∧ DiesOnly c r s t)
  ∧ (∀ (s : State) (c : Chan) (r : Rank) (lo hi : BitVec 12) (f : Func), grainsTake s c r = true →
    Yields (.bind c r lo hi f) s fun t =>
      (∀ d < 4, ∀ g ∈ selected s c r d,
        let x := grain s (grainAt c r d g)
        grain t (grainAt c r d g) =
          { (if x.lastFn = BitVec.ofNat 8 f.val then x
             else { x with scal := [], vec := [], kmask := [], acc := [], scratch := [], recvUp := [], recvDown := [],
                           cra := x.cra.filter (fun p => decide (p.1 < 0xC0)), lastFn := BitVec.ofNat 8 f.val })
            with pageLo := lo, pageHi := hi })
      ∧ GrainsOnly c r s t)
  ∧ (∀ (s : State) (c : Chan) (r : Rank) (slot : Fin 7) (data : Wide), grainsTake s c r = true → p1At s c r = [] →
    Yields (.craw c r slot data) s fun t =>
      (∀ d < 4, ∀ g ∈ selected s c r d, ∀ i < 32,
        craByte (grain t (grainAt c r d g)) (32 * slot.val + i) = data.extractLsb' (256 * d + 8 * i) 8)
      ∧ (∀ d < 4, ∀ g ∈ selected s c r d, ∀ o, ¬ (32 * slot.val ≤ o ∧ o < 32 * slot.val + 32) →
          craByte (grain t (grainAt c r d g)) o = craByte (grain s (grainAt c r d g)) o)
      ∧ GrainsOnly c r s t)
  ∧ (∀ (s : State) (c : Chan) (r : Rank) (slot : Fin 8) (g : Fin 16), rankHears s c r = true → p1At s c r = [] →
    Yields (.crar c r slot g) s fun t =>
      BurstOf c r (fun d => BitVec.ofNat 256 (craNat (grain s (grainAt c r d g)) (32 * slot.val) 32)) (fun _ => 0) s t
      ∧ t = { s with out := t.out })
  ∧ (∀ (s : State) (c : Chan) (r : Rank) (index words : Byte) (data : Wide), grainsTake s c r = true →
    Yields (.tlw c r index words data) s fun t =>
      (∀ d < 4, ∀ g ∈ selected s c r d, ∀ i < 8,
        tget 0#32 (grain t (grainAt c r d g)).store (index.toNat * 8 + i) =
          if words.getLsbD i then data.extractLsb' (256 * d + 32 * i) 32
          else tget 0#32 (grain s (grainAt c r d g)).store (index.toNat * 8 + i))
      ∧ (∀ d < 4, ∀ g ∈ selected s c r d, ∀ n, n / 8 ≠ index.toNat →
          tget 0#32 (grain t (grainAt c r d g)).store n = tget 0#32 (grain s (grainAt c r d g)).store n)
      ∧ GrainsOnly c r s t)
  ∧ (∀ (s : State) (c : Chan) (r : Rank) (index : Byte) (g : Fin 16), rankHears s c r = true →
    Yields (.tlr c r index g) s fun t =>
      BurstOf c r (fun d => BitVec.ofNat 256 (unlanes 32 ((List.range 8).map (fun i =>
        (tget 0#32 (grain s (grainAt c r d g)).store (index.toNat * 8 + i)).toNat)))) (fun _ => 0) s t
      ∧ t = { s with out := t.out })

/-- SPRD and GRUN start the selected grains, those that stop at the same window boundary among them, the banks theirs until
the end of a lockstep Spread or until a STAT; HALTG stops running grains; STAT reports the states, clears the change bits and
returns the banks of stopped grains; the end of a Spread returns its banks, but of no grain that runs on; a parity error
stops a running grain with fault 7, the code it records too where the word is undefined. -/
def Obligations.GrainsRunAndStop : Prop :=
  (∀ (s : State) (c : Chan) (r : Rank) (insn : U32), grainsTake (latchStops c r s) c r = true → p1At s c r = [] →
    majorKnown (majorOf insn.toNat) = true → majorOf insn.toNat ∉ [0x01, 0x03, 0x04, 0x05] →
    Yields (.sprd c r insn) s fun t =>
      (∀ d < 4, ∀ g ∈ selected s c r d, let x := grain t (grainAt c r d g)
        x.state = .running ∧ x.insn = some insn ∧ x.runClocks = 0#32 ∧ x.craMtb = now s
        ∧ x.own = (if (die s (dieNo c r d)).ready then .polled else .blind)
        ∧ x.vec = (grain s (grainAt c r d g)).vec ∧ x.scal = (grain s (grainAt c r d g)).scal)
      ∧ (∀ d < 4, ∀ g ∈ selected s c r d, (die t (dieNo c r d)).changed.getLsbD g = true)
      ∧ OtherDies c r s t)
  ∧ (∀ (s : State) (c : Chan) (r : Rank) (insn : U32), grainsTake s c r = true → p1At s c r = [] →
    (majorKnown (majorOf insn.toNat) = false ∨ majorOf insn.toNat ∈ [0x01, 0x03, 0x04, 0x05]) →
    Yields (.sprd c r insn) s fun t =>
      (∀ d < 4, ∀ g ∈ selected s c r d, (grain t (grainAt c r d g)).state = .faulted
        ∧ (grain t (grainAt c r d g)).fault = 1#8 ∧ (die t (dieNo c r d)).cause.getLsbD 4 = true))
  ∧ (∀ (s : State) (c : Chan) (r : Rank) (entry : Fin 2048), grainsTake (latchStops c r s) c r = true → p1At s c r = [] →
    (∀ d < 4, ∀ g ∈ selected s c r d,
      majorKnown (majorOf (tget 0#32 (grain s (grainAt c r d g)).store entry).toNat) = true) →
    Yields (.grun c r entry) s fun t =>
      (∀ d < 4, ∀ g ∈ selected s c r d, let x := grain t (grainAt c r d g)
        x.state = .running ∧ x.insn = none ∧ x.pc = entry.val ∧ x.own = .polled ∧ x.runClocks = 0#32
        ∧ x.craMtb = now s ∧ x.loop0 = none ∧ x.loop1 = none ∧ x.vec = (grain s (grainAt c r d g)).vec)
      ∧ OtherDies c r s t)
  ∧ (∀ (s : State) (c : Chan) (r : Rank), rankHears s c r = true →
    (∀ d < 4, (die s (dieNo c r d)).stDone = true ∧ ∀ g ∈ selected s c r d, (grain s (grainAt c r d g)).state = .running) →
    Yields (.haltg c r) s fun t =>
      (∀ d < 4, ∀ g ∈ selected s c r d, (grain t (grainAt c r d g)).state = .stopped
        ∧ (grain t (grainAt c r d g)).fault = 0#8 ∧ (grain t (grainAt c r d g)).vec = (grain s (grainAt c r d g)).vec
        ∧ openRow t c r d (2 * g) = none ∧ openRow t c r d (2 * g + 1) = none)
      ∧ OtherDies c r s t)
  ∧ (∀ (s : State) (c : Chan) (r : Rank), rankHears s c r = true → p1At s c r = [] →
    Yields (.stat c r) s fun t =>
      (∀ d < 4, ∀ g < 16, (grain t (grainAt c r d g)).own =
        if (grain s (grainAt c r d g)).own = .polled ∧ (grain s (grainAt c r d g)).state ≠ .running
            ∧ deferredOf s (grainAt c r d g) = 0 then .controller else (grain s (grainAt c r d g)).own)
      ∧ (∀ d < 4, (die t (dieNo c r d)).changed = 0#16 ∧ (die t (dieNo c r d)).clipped = false)
      ∧ (∃ (v : Wide) (k : BitVec 8), t.out = s.out ++ [.caData c r v k]
          ∧ ∀ d < 4, ∀ g < 16, (v.extractLsb' (256 * d + 2 * g) 2).toNat = statCode s (grainAt c r d g)))
  ∧ (∀ (s : State) (c : Chan) (r : Rank) (grains : BitVec 64), rankExists c r = true → p1At s c r = [] →
    Yields (.spreadEnd c r grains) s fun t =>
      (∀ d < 4, ∀ g < 16, grain t (grainAt c r d g) =
        let x := grain s (grainAt c r d g)
        if grains.getLsbD (16 * d + g) = true ∧ x.own = .blind
            ∧ (x.state ≠ .running ∨ majorOf (currentWord x) ∈ [0x30, 0x31, 0x32]) then { x with own := .controller } else x)
      ∧ (∀ h, (∀ d < 4, ∀ g < 16, h ≠ grainAt c r d g) → grain t h = grain s h)
      ∧ t = { s with bank := { s.bank with grains := t.bank.grains } })
  ∧ (∀ (s : State) (g : GrainNo), (grain s g.val).state = .running →
    (∀ p ∈ s.bank.parityOnce, p.1 ≠ g.val) →
    Yields (.grainStop g true) s fun t =>
      (grain t g.val).state = .faulted ∧ (grain t g.val).fault = 7#8 ∧ (g.val, now s) ∈ t.bank.parityOnce
      ∧ t.bank.mappedOut = s.bank.mappedOut ∧ t.bank.mem = s.bank.mem)
  ∧ (∀ (s : State) (g : GrainNo), (grain s g.val).state = .running → (g.val, now s) ∈ s.bank.parityOnce →
    Yields (.grainStop g true) s fun t => (grain t g.val).state = .faulted ∧ g.val ∈ t.bank.mappedOut)
  ∧ (∀ (s : State) (g : GrainNo), (grain s g.val).state = .faulted → (grain s g.val).fault = 1#8 →
    (grain s g.val).craMtb = now s →
    Yields (.grainStop g true) s fun t => (grain t g.val).state = .faulted ∧ (grain t g.val).fault = 7#8)

/-! ### Tilth code (05, 06) -/

namespace Sys2Proof.Machine

/-- Grain g runs, the word it executes next is w with major opcode op, and no refresh of its banks has come due. -/
def atWord (op : Nat) (w g : Nat) (s : State) : Bool :=
  let x := grain s g
  let k := grainCoord g
  let q := (die s (dieNo k.1 k.2.1 k.2.2.1)).deferred
  decide (x.state = .running) && decide (currentWord x = w) && decide (majorOf w = op)
    && decide (tget 0 q (2 * k.2.2.2) < 4) && decide (tget 0 q (2 * k.2.2.2 + 1) < 4)

/-- What a grain runs next is code of 06 Table 6.2, or it runs a Spread, which ends. -/
def nextKnown (y : Grain) (p : Nat) : Bool :=
  y.insn.isSome || majorKnown (majorOf (tget 0#32 y.store (nextInOrder y p).pc).toNat)

/-- A grain's registers, its scratch, its CRA and its receive buffers, as one list of what an instruction may write. -/
def SameRegs (x y : Grain) : Prop :=
  x.scal = y.scal ∧ x.vec = y.vec ∧ x.kmask = y.kmask ∧ x.acc = y.acc ∧ x.scratch = y.scratch ∧ x.cra = y.cra
  ∧ x.recvUp = y.recvUp ∧ x.recvDown = y.recvDown ∧ x.store = y.store

/-- Grain g has done an instruction of n clocks that left its registers as those of y: a run goes on with the next
instruction in order, a Spread is over (06 R176, R180). The other grains, and memory, are as they were. -/
def Did (g n : Nat) (y : Grain) (s t : State) : Prop :=
  (if (grain s g).insn = none then grain t g = addClocks n (nextInOrder y (grain s g).pc)
   else (grain t g).state = .idle ∧ (grain t g).fault = 0#8 ∧ (grain t g).insn = none ∧ SameRegs (grain t g) y
     ∧ (grain t g).craMtb = now s)
  ∧ (∀ h, h ≠ g → grain t h = grain s h) ∧ t.bank.mem = s.bank.mem ∧ t.bank.marks = s.bank.marks
  ∧ t = { s with bank := t.bank, freeCtr := t.freeCtr }

/-- Grain g has faulted with a code at its present instruction (05 R154, 06 R181): its registers are as they were. -/
def Faults (g code : Nat) (s t : State) : Prop :=
  (grain t g).state = .faulted ∧ (grain t g).fault = BitVec.ofNat 8 code
  ∧ (grain t g).faultPc = (if (grain s g).insn = none then BitVec.ofNat 11 (grain s g).pc else 0#11)
  ∧ SameRegs (grain t g) (grain s g) ∧ t.bank.mem = s.bank.mem ∧ (∀ h, h ≠ g → grain t h = grain s h)

/-- A scalar register gets a value. -/
def withS (x : Grain) (i : Nat) (v : U32) : Grain := { x with scal := tset 0#32 x.scal i v }
/-- A vector register gets a value. -/
def withV (x : Grain) (i : Nat) (v : Line) : Grain := { x with vec := tset 0#512 x.vec i v }

/-- The row pair of an access is open and its columns read clean. -/
def openAndClean (s : State) (g row : Nat) (cols : List Nat) : Bool :=
  decide (rowOf s g 0 = some row) && decide (rowOf s g 1 = some row)
    && (cols.flatMap (pairWords g row)).all (fun w => decide (chkOf s w = 0))

/-- A column pair of a grain as one line. -/
def columnOf (s : State) (g row col : Nat) : Line :=
  BitVec.ofNat 512 (leNat ((pairWords g row col).flatMap (fun w => leBytes 32 (Memory.col s.bank.mem w).toNat)))

end Sys2Proof.Machine

/-- Control: HALT ends a run in IDLE and closes the grain's rows; NOP goes on; LOOPI and LOOPR open a level, or skip a
body counted 0; BR jumps to its target or goes on. A reserved bit faults with code 2; HALT, LOOPI, LOOPR and BR in a
Spread fault with code 1. -/
def Obligations.TilthControl : Prop :=
  (∀ (s : State) (g : GrainNo) (w : Nat), atWord 0x01 w g s = true → (grain s g).insn = none → bits w 0 26 = 0 →
    Yields (.halt g) s fun t =>
      (grain t g).state = .idle ∧ (grain t g).fault = 0#8 ∧ SameRegs (grain t g) (grain s g)
      ∧ rowOf t g 0 = none ∧ rowOf t g 1 = none ∧ t.bank.mem = s.bank.mem ∧ (∀ h, h ≠ g.val → grain t h = grain s h))
  ∧ (∀ (s : State) (g : GrainNo) (w : Nat), atWord 0x01 w g s = true → (grain s g).insn = none → bits w 0 26 ≠ 0 →
    Yields (.halt g) s (Faults g 0x02 s))
  ∧ (∀ (s : State) (g : GrainNo) (w : Nat), atWord 0x01 w g s = true → (grain s g).insn.isSome = true →
    Yields (.halt g) s (Faults g 0x01 s))
  ∧ (∀ (s : State) (g : GrainNo) (w : Nat), atWord 0x02 w g s = true → bits w 0 26 = 0 →
    nextKnown (grain s g) (grain s g).pc = true → Yields (.tilthNop g) s (Did g 1 (grain s g) s))
  ∧ (∀ (s : State) (g : GrainNo) (w : Nat), atWord 0x03 w g s = true → (grain s g).insn = none →
    (grain s g).loop0 = none → (grain s g).loop1 = none → bits w 0 18 ≠ 0 →
    majorKnown (majorOf (tget 0#32 (grain s g).store (((grain s g).pc + 1) % 2048)).toNat) = true →
    Yields (.loopi g) s fun t =>
      grain t g = addClocks 1 { (grain s g) with
        pc := ((grain s g).pc + 1) % 2048,
        loop0 := some { first := ((grain s g).pc + 1) % 2048, len := bits w 18 8, count := bits w 0 18, index := 0 } }
      ∧ (∀ h, h ≠ g.val → grain t h = grain s h) ∧ t = { s with bank := { s.bank with grains := t.bank.grains } })
  ∧ (∀ (s : State) (g : GrainNo) (w : Nat), atWord 0x03 w g s = true → (grain s g).insn = none →
    (grain s g).loop0 = none → (grain s g).loop1 = none → bits w 0 18 = 0 →
    majorKnown (majorOf (tget 0#32 (grain s g).store (((grain s g).pc + 2 + bits w 18 8) % 2048)).toNat) = true →
    Yields (.loopi g) s fun t =>
      grain t g = addClocks 1 { (grain s g) with pc := ((grain s g).pc + 2 + bits w 18 8) % 2048 }
      ∧ t = { s with bank := { s.bank with grains := t.bank.grains } })
  ∧ (∀ (s : State) (g : GrainNo) (w : Nat) (l : GLoop), atWord 0x04 w g s = true → (grain s g).insn = none →
    (grain s g).loop0 = some l → (grain s g).loop1 = none → bits w 0 14 = 0 →
    ((grain s g).pc + 1 + 2048 - l.first) % 2048 + bits w 18 8 ≤ l.len →
    sreg (grain s g) (bits w 14 4) ≠ 0#32 →
    majorKnown (majorOf (tget 0#32 (grain s g).store (((grain s g).pc + 1) % 2048)).toNat) = true →
    Yields (.loopr g) s fun t =>
      grain t g = addClocks 1 { (grain s g) with
        pc := ((grain s g).pc + 1) % 2048,
        loop1 := some { first := ((grain s g).pc + 1) % 2048, len := bits w 18 8,
                        count := (sreg (grain s g) (bits w 14 4)).toNat, index := 0 } }
      ∧ t = { s with bank := { s.bank with grains := t.bank.grains } })
  ∧ (∀ (s : State) (g : GrainNo) (w : Nat) (l : GLoop), atWord 0x02 w g s = true → (grain s g).insn = none →
    (grain s g).loop0 = some l → (grain s g).loop1 = none → bits w 0 26 = 0 →
    ((grain s g).pc + 2048 - l.first) % 2048 = l.len → l.index + 1 < l.count →
    majorKnown (majorOf (tget 0#32 (grain s g).store l.first).toNat) = true →
    Yields (.tilthNop g) s fun t =>
      grain t g = addClocks 1 { (grain s g) with pc := l.first, loop0 := some { l with index := l.index + 1 } })
  ∧ (∀ (s : State) (g : GrainNo) (w : Nat), atWord 0x05 w g s = true → (grain s g).insn = none →
    (grain s g).loop0 = none → (grain s g).loop1 = none →
    brTaken (bits w 22 4) (sreg (grain s g) (bits w 18 4)) (sreg (grain s g) (bits w 14 4)) = some true →
    majorKnown (majorOf (tget 0#32 (grain s g).store
      ((BitVec.ofNat 32 ((grain s g).pc + 1) + (BitVec.ofNat 14 (bits w 0 14)).signExtend 32).toNat % 2048)).toNat) = true →
    Yields (.br g) s fun t =>
      grain t g = addClocks 2 { (grain s g) with
        pc := (BitVec.ofNat 32 ((grain s g).pc + 1) + (BitVec.ofNat 14 (bits w 0 14)).signExtend 32).toNat % 2048 }
      ∧ t = { s with bank := { s.bank with grains := t.bank.grains } })
  ∧ (∀ (s : State) (g : GrainNo) (w : Nat), atWord 0x05 w g s = true → (grain s g).insn = none →
    brTaken (bits w 22 4) (sreg (grain s g) (bits w 18 4)) (sreg (grain s g) (bits w 14 4)) = some false →
    nextKnown (grain s g) (grain s g).pc = true → Yields (.br g) s (Did g 1 (grain s g) s))

/-- Scalar instructions write the one scalar register they name with the value of 06 Table 6.4, and VSETS one 32-bit lane
of a vector register; a Spread of one ends with it. -/
def Obligations.TilthScalars : Prop :=
  (∀ (s : State) (g : GrainNo) (w : Nat) (v : U32), atWord 0x08 w g s = true → bits w 0 8 = 0 → bits w 8 6 < 0x10 →
    salu (bits w 8 6) (sreg (grain s g) (bits w 18 4)) (sreg (grain s g) (bits w 14 4)) = some v →
    nextKnown (grain s g) (grain s g).pc = true →
    Yields (.salu g) s (Did g 1 (withS (grain s g) (bits w 22 4) v) s))
  ∧ (∀ (s : State) (g : GrainNo) (w : Nat) (l : GLoop), atWord 0x08 w g s = true → bits w 0 8 = 0 → bits w 8 6 = 0x10 →
    (grain s g).loop0 = some l → nextKnown (grain s g) (grain s g).pc = true →
    Yields (.salu g) s (Did g 1 (withS (grain s g) (bits w 22 4) (BitVec.ofNat 32 l.index)) s))
  ∧ (∀ (s : State) (g : GrainNo) (w : Nat), atWord 0x09 w g s = true → nextKnown (grain s g) (grain s g).pc = true →
    Yields (.addi g) s (Did g 1 (withS (grain s g) (bits w 22 4)
      (sreg (grain s g) (bits w 18 4) + (BitVec.ofNat 18 (bits w 0 18)).signExtend 32)) s))
  ∧ (∀ (s : State) (g : GrainNo) (w : Nat), atWord 0x0A w g s = true → nextKnown (grain s g) (grain s g).pc = true →
    Yields (.ori g) s (Did g 1 (withS (grain s g) (bits w 22 4)
      (sreg (grain s g) (bits w 18 4) ||| BitVec.ofNat 32 (bits w 0 18))) s))
  ∧ (∀ (s : State) (g : GrainNo) (w : Nat), atWord 0x0B w g s = true → nextKnown (grain s g) (grain s g).pc = true →
    Yields (.lui g) s (Did g 1 (withS (grain s g) (bits w 22 4) (BitVec.ofNat 32 (bits w 0 22) <<< 10)) s))
  ∧ (∀ (s : State) (g : GrainNo) (w : Nat), atWord 0x0C w g s = true → bits w 5 11 = 0 → bits w 16 2 ≠ 3 →
    nextKnown (grain s g) (grain s g).pc = true →
    Yields (.shi g) s (Did g 1 (withS (grain s g) (bits w 22 4)
      (if bits w 16 2 = 0 then sreg (grain s g) (bits w 18 4) <<< bits w 0 5
       else if bits w 16 2 = 1 then sreg (grain s g) (bits w 18 4) >>> bits w 0 5
       else (sreg (grain s g) (bits w 18 4)).sshiftRight (bits w 0 5))) s))
  ∧ (∀ (s : State) (g : GrainNo) (w : Nat), atWord 0x0C w g s = true → bits w 16 2 = 3 →
    Yields (.shi g) s (Faults g 0x01 s))
  ∧ (∀ (s : State) (g : GrainNo) (w : Nat), atWord 0x0D w g s = true → bits w 0 14 = 0 →
    nextKnown (grain s g) (grain s g).pc = true →
    Yields (.sgetv g) s (Did g 1 (withS (grain s g) (bits w 22 4)
      ((vreg (grain s g) (bits w 18 4)).extractLsb' (32 * bits w 14 4) 32)) s))
  ∧ (∀ (s : State) (g : GrainNo) (w : Nat), atWord 0x0E w g s = true → bits w 0 14 = 0 →
    nextKnown (grain s g) (grain s g).pc = true →
    Yields (.vsets g) s (fun t => ∃ v : Line,
      Did g 1 (withV (grain s g) (bits w 22 4) v) s t
      ∧ v.extractLsb' (32 * bits w 14 4) 32 = sreg (grain s g) (bits w 18 4)
      ∧ ∀ i < 16, i ≠ bits w 14 4 → v.extractLsb' (32 * i) 32 = (vreg (grain s g) (bits w 22 4)).extractLsb' (32 * i) 32))

/-- Scratch and CRA: a load takes the bytes at the address, a store puts them there and nowhere else, with the address
register updated where p is 1; an address that is misaligned or past 4 KiB faults with code 4; SSTR to words 56 to 63
faults with code 8. -/
def Obligations.TilthScratch : Prop :=
  (∀ (s : State) (g : GrainNo) (w : Nat), atWord 0x12 w g s = true → bits w 0 1 = 0 →
    scratchBad (memAddr (grain s g) w 64).1 64 = false → nextKnown (grain s g) (grain s g).pc = true →
    Yields (.vlds g) s (Did g 1 (postAddr w (memAddr (grain s g) w 64).2
      (withV (grain s g) (bits w 22 4) (BitVec.ofNat 512 (readScratch (grain s g) (memAddr (grain s g) w 64).1 64)))) s))
  ∧ (∀ (s : State) (g : GrainNo) (w : Nat), atWord 0x14 w g s = true → bits w 0 1 = 0 →
    scratchBad (memAddr (grain s g) w 4).1 4 = false → nextKnown (grain s g) (grain s g).pc = true →
    Yields (.slds g) s (Did g 1 (postAddr w (memAddr (grain s g) w 4).2
      (withS (grain s g) (bits w 22 4) (BitVec.ofNat 32 (readScratch (grain s g) (memAddr (grain s g) w 4).1 4)))) s))
  ∧ (∀ (s : State) (g : GrainNo) (w : Nat), atWord 0x18 w g s = true → bits w 0 1 = 0 → bits w 24 2 = 0 →
    scratchBad (memAddr (grain s g) w 128).1 128 = false → nextKnown (grain s g) (grain s g).pc = true →
    Yields (.alds g) s fun t => ∃ y : Grain, Did g 2 y s t
      ∧ areg y (bits w 22 2) = BitVec.ofNat 1024 (readScratch (grain s g) (memAddr (grain s g) w 128).1 128)
      ∧ (∀ i, i ≠ bits w 22 2 → areg y i = areg (grain s g) i) ∧ y.vec = (grain s g).vec
      ∧ y.scal = (postAddr w (memAddr (grain s g) w 128).2 (grain s g)).scal)
  ∧ (∀ (s : State) (g : GrainNo) (w : Nat), atWord 0x13 w g s = true → bits w 0 1 = 0 →
    scratchBad (memAddr (grain s g) w 64).1 64 = false → nextKnown (grain s g) (grain s g).pc = true →
    Yields (.vsts g) s fun t => ∃ y : Grain, Did g 1 (postAddr w (memAddr (grain s g) w 64).2 y) s t
      ∧ y = { (grain s g) with scratch := y.scratch }
      ∧ BitVec.ofNat 512 (readScratch y (memAddr (grain s g) w 64).1 64) = vreg (grain s g) (bits w 22 4)
      ∧ ∀ a, ¬ ((memAddr (grain s g) w 64).1 ≤ a ∧ a < (memAddr (grain s g) w 64).1 + 64) →
          tget 0#8 y.scratch a = tget 0#8 (grain s g).scratch a)
  ∧ (∀ (s : State) (g : GrainNo) (w : Nat), atWord 0x15 w g s = true → bits w 0 1 = 0 →
    scratchBad (memAddr (grain s g) w 4).1 4 = false → nextKnown (grain s g) (grain s g).pc = true →
    Yields (.ssts g) s fun t => ∃ y : Grain, Did g 1 (postAddr w (memAddr (grain s g) w 4).2 y) s t
      ∧ y = { (grain s g) with scratch := y.scratch }
      ∧ BitVec.ofNat 32 (readScratch y (memAddr (grain s g) w 4).1 4) = sreg (grain s g) (bits w 22 4)
      ∧ ∀ a, ¬ ((memAddr (grain s g) w 4).1 ≤ a ∧ a < (memAddr (grain s g) w 4).1 + 4) →
          tget 0#8 y.scratch a = tget 0#8 (grain s g).scratch a)
  ∧ (∀ (s : State) (g : GrainNo) (w : Nat), atWord 0x19 w g s = true → bits w 0 1 = 0 → bits w 24 2 = 0 →
    scratchBad (memAddr (grain s g) w 128).1 128 = false → nextKnown (grain s g) (grain s g).pc = true →
    Yields (.asts g) s fun t => ∃ y : Grain,
      Did g (2 + accWait (grain s g) (bits w 22 2)) (postAddr w (memAddr (grain s g) w 128).2 y) s t
      ∧ y = { (grain s g) with scratch := y.scratch }
      ∧ BitVec.ofNat 1024 (readScratch y (memAddr (grain s g) w 128).1 128) = areg (grain s g) (bits w 22 2)
      ∧ ∀ a, ¬ ((memAddr (grain s g) w 128).1 ≤ a ∧ a < (memAddr (grain s g) w 128).1 + 128) →
          tget 0#8 y.scratch a = tget 0#8 (grain s g).scratch a)
  ∧ (∀ (s : State) (g : GrainNo) (w : Nat), atWord 0x12 w g s = true → bits w 0 1 = 0 →
    scratchBad (memAddr (grain s g) w 64).1 64 = true → Yields (.vlds g) s (Faults g 0x04 s))
  ∧ (∀ (s : State) (g : GrainNo) (w : Nat), atWord 0x16 w g s = true → bits w 0 16 = 0 →
    nextKnown (grain s g) (grain s g).pc = true →
    Yields (.sldr g) s (Did g 1 (withS (grain s g) (bits w 22 4)
      (BitVec.ofNat 32 (craNat (grain s g) (4 * bits w 16 6) 4))) s))
  ∧ (∀ (s : State) (g : GrainNo) (w : Nat), atWord 0x17 w g s = true → bits w 0 16 = 0 → bits w 16 6 < 56 →
    nextKnown (grain s g) (grain s g).pc = true →
    Yields (.sstr g) s fun t => ∃ y : Grain, Did g 1 y s t ∧ y = { (grain s g) with cra := y.cra }
      ∧ BitVec.ofNat 32 (craNat y (4 * bits w 16 6) 4) = sreg (grain s g) (bits w 22 4)
      ∧ ∀ o, ¬ (4 * bits w 16 6 ≤ o ∧ o < 4 * bits w 16 6 + 4) → craByte y o = craByte (grain s g) o)
  ∧ (∀ (s : State) (g : GrainNo) (w : Nat), atWord 0x17 w g s = true → bits w 0 16 = 0 → 56 ≤ bits w 16 6 →
    Yields (.sstr g) s (Faults g 0x08 s))

/-- Columns: VLDC and ALDC load the column pairs at the address where they read clean, VLDC after tRCD or tRP with it where
its row is not open; VSTC (unmasked) and ASTC replace
them and no other column word, with no poison; an address outside the grain's pages faults with code 3, an uncorrectable
column with code 6. -/
def Obligations.TilthColumns : Prop :=
  (∀ (s : State) (g : GrainNo) (w : Nat), atWord 0x10 w g s = true → bits w 0 1 = 0 →
    pageBad (grain s g) (memAddr (grain s g) w 64).1 = false →
    openAndClean s g (addrRow (memAddr (grain s g) w 64).1) [addrCol (memAddr (grain s g) w 64).1] = true →
    nextKnown (grain s g) (grain s g).pc = true →
    Yields (.vldc g) s (Did g 1 (postAddr w (memAddr (grain s g) w 64).2 (withV (grain s g) (bits w 22 4)
      (columnOf s g (addrRow (memAddr (grain s g) w 64).1) (addrCol (memAddr (grain s g) w 64).1)))) s))
  ∧ (∀ (s : State) (g : GrainNo) (w : Nat), atWord 0x10 w g s = true → bits w 0 1 = 0 →
    pageBad (grain s g) (memAddr (grain s g) w 64).1 = false → deferredOf s g = 0 →
    rowOf s g 0 ≠ some (addrRow (memAddr (grain s g) w 64).1) →
    (pairWords g (addrRow (memAddr (grain s g) w 64).1) (addrCol (memAddr (grain s g) w 64).1)).all
      (fun c => decide (chkOf s c = 0)) = true →
    nextKnown (grain s g) (grain s g).pc = true →
    Yields (.vldc g) s (Did g (1 + (
        let open_ := (rowOf s g 0).isSome || (rowOf s g 1).isSome
        match (die s (dieNo (grainCoord g).1 (grainCoord g).2.1 (grainCoord g).2.2.1)).speed.toNat with
        | 0 => if open_ then 18 else 10
        | 1 => if open_ then 11 else 6
        | _ => if open_ then 8 else 4))
      (postAddr w (memAddr (grain s g) w 64).2 (withV (grain s g) (bits w 22 4)
        (columnOf s g (addrRow (memAddr (grain s g) w 64).1) (addrCol (memAddr (grain s g) w 64).1)))) s))
  ∧ (∀ (s : State) (g : GrainNo) (w : Nat), atWord 0x10 w g s = true → bits w 0 1 = 0 →
    pageBad (grain s g) (memAddr (grain s g) w 64).1 = true → Yields (.vldc g) s (Faults g 0x03 s))
  ∧ (∀ (s : State) (g : GrainNo) (w : Nat), atWord 0x10 w g s = true → bits w 0 1 = 0 →
    pageBad (grain s g) (memAddr (grain s g) w 64).1 = false →
    (pairWords g (addrRow (memAddr (grain s g) w 64).1) (addrCol (memAddr (grain s g) w 64).1)).any
      (fun c => decide (2 ≤ chkOf s c)) = true →
    Yields (.vldc g) s (Faults g 0x06 s))
  ∧ (∀ (s : State) (g : GrainNo) (w : Nat), atWord 0x1A w g s = true → bits w 0 1 = 0 → bits w 24 2 = 0 →
    pageBad (grain s g) (memAddr (grain s g) w 128).1 = false →
    openAndClean s g (addrRow (memAddr (grain s g) w 128).1) (accCols (memAddr (grain s g) w 128).1) = true →
    nextKnown (grain s g) (grain s g).pc = true →
    Yields (.aldc g) s fun t => ∃ y : Grain, Did g 2 y s t
      ∧ areg y (bits w 22 2) =
          columnOf s g (addrRow (memAddr (grain s g) w 128).1) (addrCol (memAddr (grain s g) w 128).1 / 2 * 2 + 1)
            ++ columnOf s g (addrRow (memAddr (grain s g) w 128).1) (addrCol (memAddr (grain s g) w 128).1 / 2 * 2)
      ∧ (∀ i, i ≠ bits w 22 2 → areg y i = areg (grain s g) i) ∧ y.vec = (grain s g).vec
      ∧ y.scal = (postAddr w (memAddr (grain s g) w 128).2 (grain s g)).scal)
  ∧ (∀ (s : State) (g : GrainNo) (w : Nat), atWord 0x11 w g s = true → bits w 0 1 = 0 → bitAt w 3 = false →
    pageBad (grain s g) (memAddr (grain s g) w 64).1 = false → nextKnown (grain s g) (grain s g).pc = true →
    Yields (.vstc g) s fun t =>
      columnOf t g (addrRow (memAddr (grain s g) w 64).1) (addrCol (memAddr (grain s g) w 64).1)
        = vreg (grain s g) (bits w 22 4)
      ∧ (∀ c ∈ pairWords g (addrRow (memAddr (grain s g) w 64).1) (addrCol (memAddr (grain s g) w 64).1),
          markOf t c = Mark.clean)
      ∧ (∀ c, c ∉ pairWords g (addrRow (memAddr (grain s g) w 64).1) (addrCol (memAddr (grain s g) w 64).1) →
          Memory.col t.bank.mem c = Memory.col s.bank.mem c ∧ markOf t c = markOf s c)
      ∧ (∀ h, h ≠ g.val → grain t h = grain s h) ∧ (grain t g).vec = (grain s g).vec
      ∧ (grain t g).scal = (postAddr w (memAddr (grain s g) w 64).2 (grain s g)).scal)
  ∧ (∀ (s : State) (g : GrainNo) (w : Nat), atWord 0x1B w g s = true → bits w 0 1 = 0 → bits w 24 2 = 0 →
    pageBad (grain s g) (memAddr (grain s g) w 128).1 = false → nextKnown (grain s g) (grain s g).pc = true →
    Yields (.astc g) s fun t =>
      columnOf t g (addrRow (memAddr (grain s g) w 128).1) (addrCol (memAddr (grain s g) w 128).1 / 2 * 2 + 1)
        ++ columnOf t g (addrRow (memAddr (grain s g) w 128).1) (addrCol (memAddr (grain s g) w 128).1 / 2 * 2)
        = areg (grain s g) (bits w 22 2)
      ∧ (∀ c, c ∉ (accCols (memAddr (grain s g) w 128).1).flatMap (pairWords g (addrRow (memAddr (grain s g) w 128).1)) →
          Memory.col t.bank.mem c = Memory.col s.bank.mem c ∧ markOf t c = markOf s c)
      ∧ (∀ h, h ≠ g.val → grain t h = grain s h) ∧ (grain t g).acc = (grain s g).acc)

/-- Vectors: VOP and VCMP act lane by lane, VOP under its mask; VSPLAT fills every lane; MAC, MACC, BPMAC, AOP and AHRED
write the one accumulator or register they name, each lane by 06's arithmetic; nothing else of the grain changes. -/
def Obligations.TilthVectors : Prop :=
  (∀ (s : State) (g : GrainNo) (w : Nat), atWord 0x20 w g s = true → bits w 12 2 ≠ 3 → bits w 3 6 ≤ 8 → bits w 0 3 = 0 →
    nextKnown (grain s g) (grain s g).pc = true →
    Yields (.vop g) s fun t => ∃ v : Line, Did g 1 (withV (grain s g) (bits w 22 4) v) s t
      ∧ ∀ i < laneCount (bits w 12 2),
          let lane (u : Line) : Nat := bits u.toNat (laneWidth (bits w 12 2) * i) (laneWidth (bits w 12 2))
          lane v = if laneOn (grain s g) w (bits w 12 2) i = true
            then vopLane (bits w 12 2) (bits w 3 6) (lane (vreg (grain s g) (bits w 18 4))) (lane (vreg (grain s g) (bits w 14 4)))
              % 2 ^ laneWidth (bits w 12 2)
            else lane (vreg (grain s g) (bits w 22 4)))
  ∧ (∀ (s : State) (g : GrainNo) (w : Nat), atWord 0x20 w g s = true → (bits w 12 2 = 3 ∨ 8 < bits w 3 6) →
    Yields (.vop g) s (Faults g 0x01 s))
  ∧ (∀ (s : State) (g : GrainNo) (w : Nat), atWord 0x21 w g s = true → bits w 12 2 ≠ 3 → bits w 0 12 = 0 → bits w 14 4 = 0 →
    nextKnown (grain s g) (grain s g).pc = true →
    Yields (.vsplat g) s fun t => ∃ v : Line, Did g 1 (withV (grain s g) (bits w 22 4) v) s t
      ∧ ∀ i < laneCount (bits w 12 2), bits v.toNat (laneWidth (bits w 12 2) * i) (laneWidth (bits w 12 2))
          = (sreg (grain s g) (bits w 18 4)).toNat % 2 ^ laneWidth (bits w 12 2))
  ∧ (∀ (s : State) (g : GrainNo) (w : Nat), atWord 0x22 w g s = true → bits w 12 2 ≠ 3 → bits w 3 6 ≤ 2 → bits w 0 3 = 0 →
    bits w 9 3 = 0 → bits w 24 2 = 0 → nextKnown (grain s g) (grain s g).pc = true →
    Yields (.vcmp g) s fun t => ∃ k : U64,
      Did g 1 { (grain s g) with kmask := tset 0#64 (grain s g).kmask (bits w 22 2) k } s t
      ∧ ∀ i < laneCount (bits w 12 2), ∀ j < laneStep (bits w 12 2),
          let lane (u : Line) : Nat := bits u.toNat (laneWidth (bits w 12 2) * i) (laneWidth (bits w 12 2))
          k.getLsbD (laneStep (bits w 12 2) * i + j) = vcmpLane (bits w 12 2) (bits w 3 6)
            (lane (vreg (grain s g) (bits w 18 4))) (lane (vreg (grain s g) (bits w 14 4))))
  ∧ (∀ (s : State) (g : GrainNo) (w : Nat), atWord 0x28 w g s = true → bits w 12 2 = 0 → bits w 0 9 = 0 → bits w 24 2 = 0 →
    bitAt w 11 = false → nextKnown (grain s g) (grain s g).pc = true →
    Yields (.mac g) s fun t => ∃ y : Grain, Did g 1 y s t
      ∧ (∀ l < 32, (areg y (bits w 22 2)).extractLsb' (32 * l) 32 = Fp.macc16
          ((areg (grain s g) (bits w 22 2)).extractLsb' (32 * l) 32)
          ((vreg (grain s g) (bits w 18 4)).extractLsb' (16 * l) 16) ((vreg (grain s g) (bits w 14 4)).extractLsb' (16 * l) 16))
      ∧ (∀ i, i ≠ bits w 22 2 → areg y i = areg (grain s g) i) ∧ y.vec = (grain s g).vec ∧ y.scal = (grain s g).scal)
  ∧ (∀ (s : State) (g : GrainNo) (w : Nat), atWord 0x28 w g s = true → bits w 12 2 = 1 → bits w 0 9 = 0 → bits w 24 2 = 0 →
    bitAt w 11 = false → nextKnown (grain s g) (grain s g).pc = true →
    Yields (.mac g) s fun t => ∃ y : Grain, Did g 1 y s t
      ∧ (∀ l < 32,
          let p (i : Nat) : U32 := ((vreg (grain s g) (bits w 18 4)).extractLsb' (8 * i) 8).signExtend 32
            * ((vreg (grain s g) (bits w 14 4)).extractLsb' (8 * i) 8).signExtend 32
          (areg y (bits w 22 2)).extractLsb' (32 * l) 32 =
            (areg (grain s g) (bits w 22 2)).extractLsb' (32 * l) 32 + p (2 * l) + p (2 * l + 1))
      ∧ (∀ i, i ≠ bits w 22 2 → areg y i = areg (grain s g) i) ∧ y.vec = (grain s g).vec ∧ y.scal = (grain s g).scal)
  ∧ (∀ (s : State) (g : GrainNo) (w : Nat), atWord 0x29 w g s = true → bitAt w 6 = false → bits w 0 5 = 0 → bits w 14 2 = 0 →
    pageBad (grain s g) (sreg (grain s g) (bits w 16 4)).toNat = false →
    openAndClean s g (addrRow (sreg (grain s g) (bits w 16 4)).toNat) [addrCol (sreg (grain s g) (bits w 16 4)).toNat] = true →
    nextKnown (grain s g) (grain s g).pc = true →
    Yields (.macc g) s fun t => ∃ y : Grain, Did g 1 y s t
      ∧ (∀ l < 32, (areg y (bits w 24 2)).extractLsb' (32 * l) 32 = Fp.macc16
          ((areg (grain s g) (bits w 24 2)).extractLsb' (32 * l) 32)
          ((columnOf s g (addrRow (sreg (grain s g) (bits w 16 4)).toNat) (addrCol (sreg (grain s g) (bits w 16 4)).toNat)).extractLsb' (16 * l) 16)
          ((vreg (grain s g) (bits w 20 4)).extractLsb' (16 * l) 16))
      ∧ (∀ i, i ≠ bits w 24 2 → areg y i = areg (grain s g) i) ∧ y.vec = (grain s g).vec
      ∧ sreg y (bits w 16 4) = sreg (grain s g) (bits w 16 4) + (if bitAt w 5 = true then 64#32 else 0#32))
  ∧ (∀ (s : State) (g : GrainNo) (w : Nat), atWord 0x2A w g s = true → bits w 0 10 = 0 →
    pageBad (grain s g) (sreg (grain s g) (bits w 16 4)).toNat = false →
    openAndClean s g (addrRow (sreg (grain s g) (bits w 16 4)).toNat) [addrCol (sreg (grain s g) (bits w 16 4)).toNat] = true →
    nextKnown (grain s g) (grain s g).pc = true →
    Yields (.bpmac g) s fun t => ∃ y : Grain, Did g 2 y s t
      ∧ (∀ i, i ≠ bits w 24 2 → areg y i = areg (grain s g) i) ∧ y.vec = (grain s g).vec
      ∧ (∀ l < 32, (areg y (bits w 24 2)).extractLsb' (32 * l) 32 = Fp.add ((areg (grain s g) (bits w 24 2)).extractLsb' (32 * l) 32)
          (Fp.round32 (Fp.scaleV (bitAt w 12) (bits w 13 3) (Fp.val32 ((List.range 16).foldl (fun z j =>
            if (columnOf s g (addrRow (sreg (grain s g) (bits w 16 4)).toNat) (addrCol (sreg (grain s g) (bits w 16 4)).toNat)).getLsbD (16 * l + j)
            then Fp.add z (Fp.ofBf16 ((vreg (grain s g) (bits w 20 4)).extractLsb' (16 * (16 * bits w 10 1 + j)) 16)) else z) 0#32)))))
      ∧ sreg y (bits w 16 4) = sreg (grain s g) (bits w 16 4) + (if bitAt w 11 = true then 64#32 else 0#32))
  ∧ (∀ (s : State) (g : GrainNo) (w : Nat), atWord 0x2B w g s = true → bits w 8 6 = 0 → bits w 0 8 = 0 →
    nextKnown (grain s g) (grain s g).pc = true →
    Yields (.aop g) s fun t => ∃ y : Grain, Did g 1 y s t
      ∧ areg y (bits w 24 2) = 0#1024 ∧ (∀ i, i ≠ bits w 24 2 → areg y i = areg (grain s g) i) ∧ y.vec = (grain s g).vec)
  ∧ (∀ (s : State) (g : GrainNo) (w : Nat), atWord 0x2B w g s = true → bits w 8 6 ∈ [1, 2, 3, 4, 5, 6, 8] → bits w 0 8 = 0 →
    nextKnown (grain s g) (grain s g).pc = true →
    Yields (.aop g) s fun t => ∃ (n : Nat) (y : Grain), Did g n y s t
      ∧ (∀ l < 32,
          let a := (areg (grain s g) (bits w 22 2)).extractLsb' (32 * l) 32
          let z := (areg (grain s g) (bits w 24 2)).extractLsb' (32 * l) 32
          let h := Fp.ofBf16 ((vreg (grain s g) (bits w 18 4)).extractLsb' (16 * l) 16)
          let c := sreg (grain s g) (bits w 14 4)
          (areg y (bits w 24 2)).extractLsb' (32 * l) 32 = match bits w 8 6 with
            | 1 => Fp.add z a | 2 => Fp.mul a c | 3 => Fp.exp (Fp.sub a c) | 4 => Fp.add a c | 5 => Fp.mul a h | 6 => a | _ => h)
      ∧ (∀ i, i ≠ bits w 24 2 → areg y i = areg (grain s g) i) ∧ y.vec = (grain s g).vec ∧ y.scal = (grain s g).scal)
  ∧ (∀ (s : State) (g : GrainNo) (w : Nat), atWord 0x2B w g s = true → (bits w 8 6 = 9 ∨ bits w 8 6 = 10) → bits w 0 8 = 0 →
    nextKnown (grain s g) (grain s g).pc = true →
    Yields (.aop g) s (Did g (1 + accWait (grain s g) (bits w 22 2)) (withV (grain s g) (bits w 18 4)
      ((areg (grain s g) (bits w 22 2)).extractLsb' (512 * (bits w 8 6 - 9)) 512)) s))
  ∧ (∀ (s : State) (g : GrainNo) (w : Nat), atWord 0x2B w g s = true → (bits w 8 6 = 11 ∨ bits w 8 6 = 12) → bits w 0 8 = 0 →
    nextKnown (grain s g) (grain s g).pc = true →
    Yields (.aop g) s fun t => ∃ y : Grain, Did g (1 + accWait (grain s g) (bits w 24 2)) y s t
      ∧ (areg y (bits w 24 2)).extractLsb' (512 * (bits w 8 6 - 11)) 512 = vreg (grain s g) (bits w 18 4)
      ∧ (areg y (bits w 24 2)).extractLsb' (512 * (12 - bits w 8 6)) 512
          = (areg (grain s g) (bits w 24 2)).extractLsb' (512 * (12 - bits w 8 6)) 512
      ∧ (∀ i, i ≠ bits w 24 2 → areg y i = areg (grain s g) i) ∧ y.vec = (grain s g).vec)
  ∧ (∀ (s : State) (g : GrainNo) (w : Nat), atWord 0x2B w g s = true → bits w 8 6 = 7 → bits w 0 8 = 0 →
    nextKnown (grain s g) (grain s g).pc = true →
    Yields (.aop g) s fun t => ∃ v : Line,
      Did g (1 + accWait (grain s g) (bits w 22 2)) (withV (grain s g) (bits w 18 4) v) s t
      ∧ ∀ l < 32, v.extractLsb' (16 * l) 16 = Fp.toBf16 ((areg (grain s g) (bits w 22 2)).extractLsb' (32 * l) 32))
  ∧ (∀ (s : State) (g : GrainNo) (w : Nat), atWord 0x2C w g s = true → bits w 18 2 ≤ 1 → bits w 0 18 = 0 →
    nextKnown (grain s g) (grain s g).pc = true →
    Yields (.ahred g) s (Did g (6 + accWait (grain s g) (bits w 20 2)) (withS (grain s g) (bits w 22 4)
      (((List.range 5).foldl (fun l _ => pairUp (if bits w 18 2 = 0 then Fp.add else Fp.max32) l)
        ((List.range 32).map (fun i => (areg (grain s g) (bits w 20 2)).extractLsb' (32 * i) 32))).getD 0 0#32)) s))

/-- The Seam: SEND puts a vector on its way to the nearest live grain while four are not there already, and faults with
code 5 where there is none; it arrives in that grain's receive buffer; RECV and RADD take the oldest, and wait for one. -/
def Obligations.SeamVectorsPass : Prop :=
  (∀ (s : State) (g : GrainNo) (w h : Nat), atWord 0x30 w g s = true → bits w 0 18 = 0 → bits w 22 3 = 0 →
    nearest s g (bitAt w 25) = some h → seamLoad (grain s h) (bitAt w 25) < 4 → h ≠ g.val →
    nextKnown (grain s g) (grain s g).pc = true →
    Yields (.send g) s fun t =>
      (if bitAt w 25 = true then (grain t h).inflightDown else (grain t h).inflightUp) =
        (if bitAt w 25 = true then (grain s h).inflightDown else (grain s h).inflightUp) ++ [vreg (grain s g) (bits w 18 4)]
      ∧ SameRegs (grain t g) (grain s g) ∧ (grain t h).vec = (grain s h).vec
      ∧ ((grain s g).insn = none → (grain t g).pc = (nextInOrder (grain s g) (grain s g).pc).pc)
      ∧ (∀ i, i ≠ g.val → i ≠ h → grain t i = grain s i) ∧ t.bank.mem = s.bank.mem)
  ∧ (∀ (s : State) (g : GrainNo) (w : Nat), atWord 0x30 w g s = true → bits w 0 18 = 0 → bits w 22 3 = 0 →
    nearest s g (bitAt w 25) = none → Yields (.send g) s (Faults g 0x05 s))
  ∧ (∀ (s : State) (g : GrainNo) (w : Nat), atWord 0x30 w g s = true → bits w 0 18 = 0 → bits w 22 3 = 0 →
    ((bitAt w 25 = false ∧ g.val % 16 = 15) ∨ (bitAt w 25 = true ∧ g.val % 16 = 0)) →
    Yields (.send g) s (Faults g 0x05 s))
  ∧ (∀ (s : State) (g : GrainNo) (w : Nat) (y : Grain) (v : Line), atWord 0x31 w g s = true → bits w 0 18 = 0 →
    bits w 22 3 = 0 → y = grain s g → (if bitAt w 25 then y.recvDown else y.recvUp).head? = some v →
    nextKnown (grain s g) (grain s g).pc = true →
    Yields (.recv g) s fun t => vreg (grain t g) (bits w 18 4) = v
      ∧ (if bitAt w 25 then (grain t g).recvDown else (grain t g).recvUp) = (if bitAt w 25 then y.recvDown else y.recvUp).tail
      ∧ (∀ i, i ≠ bits w 18 4 → vreg (grain t g) i = vreg y i) ∧ (grain t g).acc = y.acc ∧ t.bank.mem = s.bank.mem
      ∧ (∀ i, i ≠ g.val → grain t i = grain s i))
  ∧ (∀ (s : State) (g : GrainNo) (w : Nat), atWord 0x31 w g s = true → bits w 0 18 = 0 → bits w 22 3 = 0 →
    (if bitAt w 25 then (grain s g).recvDown else (grain s g).recvUp) = [] → Yields (.recv g) s fun t => t = s)
  ∧ (∀ (s : State) (g : GrainNo) (w : Nat) (y : Grain) (v : Line), atWord 0x32 w g s = true → bits w 0 14 = 0 →
    bits w 22 1 = 0 → bits w 23 2 = 0 → y = grain s g → (if bitAt w 25 then y.recvDown else y.recvUp).head? = some v →
    nextKnown (grain s g) (grain s g).pc = true →
    Yields (.radd g) s fun t =>
      (∀ l < 32, (vreg (grain t g) (bits w 18 4)).extractLsb' (16 * l) 16
        = Fp.round16 false (Fp.addV (Fp.val16 (v.extractLsb' (16 * l) 16)) (Fp.val16 ((vreg y (bits w 14 4)).extractLsb' (16 * l) 16))))
      ∧ (if bitAt w 25 then (grain t g).recvDown else (grain t g).recvUp) = (if bitAt w 25 then y.recvDown else y.recvUp).tail
      ∧ (∀ i, i ≠ g.val → grain t i = grain s i) ∧ t.bank.mem = s.bank.mem)
  ∧ (∀ (s : State) (g : GrainNo) (v : Line) (rest : List Line), (grain s g).inflightUp = v :: rest →
    Yields (.seamVectorArrive g false) s fun t =>
      grain t g = { (grain s g) with inflightUp := rest, recvUp := (grain s g).recvUp ++ [v] }
      ∧ (∀ h, h ≠ g.val → grain t h = grain s h) ∧ t = { s with bank := { s.bank with grains := t.bank.grains } })
  ∧ (∀ (s : State) (g : GrainNo) (v : Line) (rest : List Line), (grain s g).inflightDown = v :: rest →
    Yields (.seamVectorArrive g true) s fun t =>
      grain t g = { (grain s g) with inflightDown := rest, recvDown := (grain s g).recvDown ++ [v] }
      ∧ (∀ h, h ≠ g.val → grain t h = grain s h) ∧ t = { s with bank := { s.bank with grains := t.bank.grains } })

/-! ### Bank controllers (08) -/

namespace Sys2Proof.Machine

/-- A bank controller other than those of a channel is as it was. -/
def OtherBcs (c : Nat) (s t : State) : Prop := ∀ k, k ≠ c → bc t k = bc s k

/-- A bank's bytes and marks are as they were. -/
def SameArray (s t : State) : Prop := t.bank.mem = s.bank.mem ∧ t.bank.marks = s.bank.marks

/-- A request's unit has no queued write, no other request waits for the channel, and its bank belongs to the controller,
which is not changing frequency. -/
def unitFree (s : State) (c : Chan) (q : BcReq) : Bool :=
  let l := reqLoc s c q
  s.boot.relBc.getLsbD c.val && (bc s c).heldAct.isEmpty && !(bc s l.c).changing && !(bc s c).changing && !isFenced s c q.rank
    && !(bc s l.c).writes.any (fun u => wunitAt u l) && decide (rankBankOwn s l.c l.r l.bank = .controller)

/-- A channel is not turned to writes, and one more of a port does not turn it: fewer than 47 are queued and none is
urgent (08 R231). -/
def noTurn (s : State) (c : Nat) (port_ : BcPort) : Bool :=
  !(bc s c).toWrites && decide ((bc s c).writes.length + 1 < 48) && (bc s c).writes.all (fun u => !urgentAt s u.port u.since)
    && decide (0 < (portCfg s port_.val).target.toNat)

/-- Every bank of a die that takes commands reads one row open, and none is a grain's. -/
def allOpen (s : State) (c r b row : Nat) : Bool := (List.range 4).all (fun d => decide (openRow s c r d b = some row))

end Sys2Proof.Machine

/-- REFRESH_DUE adds one owed REF, at most 8, and the BC sends what it may: those owed and perhaps up to 8 ahead, none while a
request waits for the bank and fewer than 8 are owed, none during a lockstep Spread; a guard fires at 8 on a bank that a run
owns: its grains are halted and the run ends with WATCHDOG; a neighbour refresh leaves the queue, its bank closed.
TEMPERATURE_READ stores the four temperatures; a rank with one at 83 °C or more is refreshed twice as often until every
one is at 80 °C or less. -/
def Obligations.RefreshFollowsTemperature : Prop :=
  (∀ (s : State) (c : Chan) (r : Rank) (bank : BankNo),
    s.boot.relBc.getLsbD c.val = true → rankUp s c r = true → rankBankOwn s c r bank = .controller →
    bankAsked s c r bank = false →
    Yields (.refreshDue c r bank) s fun t =>
      owedOf t c r bank ≤ min 0 (owedOf s c r bank + 1) ∧ (-9 ≤ owedOf s c r bank → -8 ≤ owedOf t c r bank)
      ∧ (∀ b, b ≠ bank.val → b < 32 → owedOf t c r b = owedOf s c r b) ∧ SameArray s t)
  ∧ (∀ (s : State) (c : Chan) (r : Rank) (bank : BankNo),
    s.boot.relBc.getLsbD c.val = true → rankUp s c r = true → rankBankOwn s c r bank = .controller →
    bankAsked s c r bank = true → owedOf s c r bank < 7 →
    Yields (.refreshDue c r bank) s fun t =>
      owedOf t c r bank = owedOf s c r bank + 1 ∧ (∀ i, die t i = die s i) ∧ OtherBcs c s t
      ∧ t = { s with ctl := { s.ctl with bcs := t.ctl.bcs } })
  ∧ (∀ (s : State) (c : Chan) (r : Rank) (bank : BankNo), s.boot.relBc.getLsbD c.val = true → rankUp s c r = true →
    rankBankOwn s c r bank = .blind →
    Yields (.refreshDue c r bank) s fun t =>
      owedOf t c r bank = min 8 (owedOf s c r bank + 1) ∧ (∀ i, die t i = die s i) ∧ OtherBcs c s t
      ∧ t = { s with ctl := { s.ctl with bcs := t.ctl.bcs } })
  ∧ (∀ (s : State) (c : Chan) (r : Rank) (bank : BankNo), rankExists c r = true → rankBankOwn s c r bank = .polled →
    8 ≤ owedOf s c r bank →
    (∀ d < 4, (grain s (grainAt c r d (bank / 2))).own = .polled → (grain s (grainAt c r d (bank / 2))).state = .running) →
    Yields (.refreshGuard c r bank) s fun t =>
      (∀ d < 4, (grain s (grainAt c r d (bank / 2))).own = .polled →
        (grain t (grainAt c r d (bank / 2))).state = .stopped) ∧ SameArray s t
      ∧ ∀ k ∈ p1At s c r, k.2.issued = true → (∃ d < 4, grainAt c r d (bank / 2) ∈ p1Grains s k.1 k.2
          ∧ (grain s (grainAt c r d (bank / 2))).own = .polled) → ∀ p, k.2.place = some p →
        ∀ e, desc s p = some e → ∃ e', desc t p = some e' ∧ .watchdog ∈ e'.conds)
  ∧ (∀ (s : State) (c : Chan) (r b row : Nat) (rest : List (Nat × Nat × Nat)),
    (bc s c).nbr = (r, b, row) :: rest → rankBankOwn s c r b = .controller → rankHears s c r = true →
    Yields (.neighbourRefresh c) s fun t =>
      bc t c = { (bc s c) with nbr := rest } ∧ OtherBcs c s t ∧ (∀ d < 4, openRow t c r d b = none) ∧ SameArray s t)
  ∧ (∀ (s : State) (c : Chan) (r : Rank) (temps : List Int), s.boot.relBc.getLsbD c.val = true → rankUp s c r = true →
    temps.length = 4 →
    (∀ x ∈ temps, -128 ≤ x ∧ x ≤ 127) → temps.any (fun x => decide (83 ≤ x)) = true →
    Yields (.temperatureRead c r temps) s fun t =>
      (∀ d < 4, (die t (dieNo c r d)).temp.toInt = temps.getD d 0) ∧ (bc t c).halved.getLsbD r.val = true
      ∧ OtherDies c r s t ∧ OtherBcs c s t ∧ SameArray s t)
  ∧ (∀ (s : State) (c : Chan) (r : Rank) (temps : List Int), s.boot.relBc.getLsbD c.val = true → rankUp s c r = true →
    temps.length = 4 →
    temps.all (fun x => decide (x ≤ 80)) = true →
    Yields (.temperatureRead c r temps) s fun t =>
      (bc t c).halved.getLsbD r.val = false ∧ (∀ k, k ≠ r.val → (bc t c).halved.getLsbD k = (bc s c).halved.getLsbD k))

/-- BC_REQUEST_LATCH: a write is queued, below the mark that starts a write phase; a read of a unit with an open row and no
queued write answers the array's data, poisoned where a die reads uncorrectable; a request that cannot be served, or that others
wait before, waits; a waiting request that can be served then is, an urgent one before one that is not. STAT_POLL and a low
ALERT_n send STATs: the banks of stopped grains come back. -/
def Obligations.RequestsAndPollsAreServed : Prop :=
  (∀ (s : State) (c : Chan) (q : BcReq), unitFree s c q = true → q.write = true →
    noTurn s (reqLoc s c q).c q.port = true →
    Yields (.bcRequestLatch c q) s fun t =>
      (∃ u : WUnit, (bc t (reqLoc s c q).c).writes = (bc s (reqLoc s c q).c).writes ++ [u]
        ∧ wunitAt u (reqLoc s c q) = true ∧ u.data = q.data ∧ u.mask = q.mask ∧ u.poison = q.poison ∧ u.port = q.port.val)
      ∧ (∀ k, k ≠ c.val → k ≠ (reqLoc s c q).c → bc t k = bc s k) ∧ t = { s with ctl := { s.ctl with bcs := t.ctl.bcs } })
  ∧ (∀ (s : State) (c : Chan) (q : BcReq), unitFree s c q = true → q.write = false → q.flips = [] →
    allOpen s (reqLoc s c q).c (reqLoc s c q).r (reqLoc s c q).bank (reqLoc s c q).row = true →
    Yields (.bcRequestLatch c q) s fun t =>
      (∃ v : Wide, t.out = s.out ++ [.bcData c q.port v
          (unitBad s (unitWords (reqLoc s c q).c (reqLoc s c q).r (reqLoc s c q).bank (reqLoc s c q).row (reqLoc s c q).col))]
        ∧ ∀ d < 4, v.extractLsb' (256 * d) 256 = Memory.col s.bank.mem (locWord { (reqLoc s c q) with d := d }))
      ∧ SameArray s t ∧ OtherBcs c s t)
  ∧ (∀ (s : State) (c : Chan) (q : BcReq), s.boot.relBc.getLsbD c.val = true →
    (serveReq c q s = none ∨ servable s c ≠ []) →
    Yields (.bcRequestLatch c q) s fun t =>
      (bc t c).heldAct = (bc s c).heldAct ++ [{ req := q, since := now s }] ∧ (bc t c).writes = (bc s c).writes ∧ OtherBcs c s t
      ∧ t = { s with ctl := { s.ctl with bcs := t.ctl.bcs }, cnt := { s.cnt with cnt := t.cnt.cnt } })
  ∧ (∀ (s : State) (c : Chan) (w : Waiting), (bc s c).heldAct = [w] → (∀ r < 3, p1At s c r = []) →
    (serveReq c w.req s).isSome = true → (reqLoc s c w.req).c = c.val → w.req.write = true → isFenced s c w.req.rank = false →
    noTurn s c w.req.port = true →
    Yields (.throttleRelease c) s fun t =>
      (bc t c).heldAct = []
      ∧ (∃ u : WUnit, (bc t c).writes = (bc s c).writes ++ [u] ∧ u.data = w.req.data ∧ u.mask = w.req.mask)
      ∧ t = { s with ctl := { s.ctl with bcs := t.ctl.bcs } })
  ∧ (∀ (s : State) (c : Chan) (v w : Waiting), (bc s c).heldAct = [v, w] → servable s c = [v, w] →
    (bc s c).writes = [] → (bc s c).toWrites = false → (∀ p < 8, inPanic s c p = false) →
    urgentAt s v.req.port.val v.since = false → urgentAt s w.req.port.val w.since = true →
    Yields (.throttleRelease c) s fun t => (bc t c).heldAct = [v] ∧ (bc t c).lastPort = w.req.port.val)
  ∧ (∀ (s : State) (c : Chan) (r : Rank), rankHears s c r = true → rankWorking s c r = true → p1At s c r = [] →
    Yields (.statPoll c r) s fun t =>
      (∀ d < 4, ∀ g < 16, (grain t (grainAt c r d g)).own =
        if (grain s (grainAt c r d g)).own = .polled ∧ (grain s (grainAt c r d g)).state ≠ .running
            ∧ deferredOf s (grainAt c r d g) = 0 then .controller else (grain s (grainAt c r d g)).own)
      ∧ (∀ d < 4, (die t (dieNo c r d)).changed = 0#16) ∧ SameArray s t)
  ∧ (∀ (s : State) (c : Chan), rankHears s c 0 = true → rankHears s c 1 = true → c.val % 4 ≠ 3 →
    (∃ i < 12, (die s (c.val * 12 + i)).cause ≠ 0#8) → p1At s c 0 = [] → p1At s c 1 = [] →
    Yields (.alertNLow c) s fun t =>
      (∀ r < 2, ∀ d < 4, (die t (dieNo c r d)).changed = 0#16 ∧ (die t (dieNo c r d)).cause = (die s (dieNo c r d)).cause)
      ∧ SameArray s t)

/-- A rank that read uncorrectable: with the quad's spare free, the rank is noted to migrate; with none, it is fenced and
logged. Migration starts, copies a row of a bank at a time, the Marl's copies of it following, and completes with the spare
in the rank's place; a bank that a grain owns is not copied. -/
def Obligations.RanksAreReplaced : Prop :=
  (∀ (s : State) (c : Chan) (r : Rank) (dpa : Nat), rankUp s c r = true → s.boot.relBc.getLsbD c.val = true → r.val < 2 →
    (quadMap s (c / 4)).failed = none → (quadMap s (c / 4)).spareFor = none → (quadMap s (c / 4)).spareBad = false →
    (tfind s.ctl.bad (4 * c.val + r.val)).isSome = true →
    Yields (.rankFailure c r .chk2 dpa) s fun t =>
      ((quadMap t (c / 4)).failed.map (fun k => k.val)) = some (quadRank c r)
      ∧ (quadMap t (c / 4)).fenced = (quadMap s (c / 4)).fenced ∧ (∀ q, q ≠ c.val / 4 → quadMap t q = quadMap s q)
      ∧ Logged 3 0x28 s t ∧ t.bank = s.bank)
  ∧ (∀ (s : State) (c : Chan) (r : Rank) (dpa : Nat), rankUp s c r = true → s.boot.relBc.getLsbD c.val = true → r.val < 2 →
    (quadMap s (c / 4)).failed = none → (quadMap s (c / 4)).spareFor = none → (quadMap s (c / 4)).spareBad = true →
    (tfind s.ctl.bad (4 * c.val + r.val)).isSome = true →
    Yields (.rankFailure c r .chk2 dpa) s fun t => isFenced t c r = true ∧ (quadMap t (c / 4)).failed = none)
  ∧ (∀ (s : State) (q : Quad) (k : Fin 8), (quadMap s q).failed = some k → (quadMap s q).spareBad = false →
    (quadMap s q).mig = none → s.boot.phase ≠ 0x05#8 →
    Yields (.migrationStart q) s fun t =>
      (quadMap t q).failed = none ∧ (quadMap t q).spareFor = some k ∧ (quadMap t q).spareIn = (quadMap s q).spareIn
      ∧ (∃ m : Mig, (quadMap t q).mig = some m ∧ m.row = 0 ∧ m.bank = 0)
      ∧ (∀ d < 4, (die t (dieNo (4 * q.val + 3) 2 d)).inReset = false ∧ (die t (dieNo (4 * q.val + 3) 2 d)).selfRefresh = false)
      ∧ Logged 3 0x29 s t ∧ SameArray s t)
  ∧ (∀ (s : State) (q : Quad) (k : Fin 8) (m : Mig), (quadMap s q).mig = some m → (quadMap s q).spareFor = some k →
    m.paused = false → m.row < 65536 → m.bank < 32 → (quadMap s q).again = [] → trising s.bank.mem = true →
    rankBankOwn s (quadLogical q k).1 (quadLogical q k).2 m.bank = .controller → trising s.marl.copies = true →
    Yields (.migrationRowCopy q) s fun t =>
      (∀ d < 4, ∀ col < 64,
        Memory.col t.bank.mem (locWord { c := 4 * q.val + 3, r := 2, d := d, bank := m.bank, row := m.row, col := col })
          = Memory.col s.bank.mem (locWord { c := (quadLogical q k).1, r := (quadLogical q k).2, d := d, bank := m.bank, row := m.row, col := col })
        ∧ (markOf t (locWord { c := 4 * q.val + 3, r := 2, d := d, bank := m.bank, row := m.row, col := col })).poison
          = unitBad s (unitWords (quadLogical q k).1 (quadLogical q k).2 m.bank m.row col)
        ∧ ∀ y, copyOf s (locWord { c := (quadLogical q k).1, r := (quadLogical q k).2, d := d, bank := m.bank, row := m.row, col := col })
            = some y →
          copyOf t (locWord { c := 4 * q.val + 3, r := 2, d := d, bank := m.bank, row := m.row, col := col }) = some y)
      ∧ (quadMap t q).mig = some (if m.bank = 31 then { m with row := m.row + 1, bank := 0 } else { m with bank := m.bank + 1 }))
  ∧ (∀ (s : State) (q : Quad) (k : Fin 8) (m : Mig), (quadMap s q).mig = some m → (quadMap s q).spareFor = some k →
    rankBankOwn s (quadLogical q k).1 (quadLogical q k).2 m.bank ≠ .controller →
    Yields (.migrationRowCopy q) s fun t => t = s)
  ∧ (∀ (s : State) (q : Quad) (k : Fin 8) (m : Mig), (quadMap s q).mig = some m → (quadMap s q).spareFor = some k →
    65536 ≤ m.row →
    Yields (.migrationComplete q) s fun t =>
      (quadMap t q).spareIn = true ∧ (quadMap t q).mig = none ∧ (quadMap t q).spareFor = some k
      ∧ (∀ d < 4, (die t (dieNo (quadLogical q k).1 (quadLogical q k).2 d)).inReset = true) ∧ SameArray s t
      ∧ physRank t (quadLogical q k).1 (quadLogical q k).2 = (4 * q.val + 3, 2))

/-- A patrol scrub writes a unit with a single flipped bit back clean. A released controller's ranks begin self-test with
their mapped-out grains written; a sweep's record holds the longest run of passing steps, the first of those that tie, and its
centre. A frequency change that passes its check puts the new set in force with every bank
closed; one that fails keeps the old set and marks the new one invalid. -/
def Obligations.ControllersComeUp : Prop :=
  (∀ (s : State) (c : Chan) (r : Rank) (bank : BankNo) (row : RowNo) (col : ColNo) (flips : Flips),
    s.boot.relBc.getLsbD c.val = true → rankUp s c r = true → rankBankOwn s c r bank = .controller → (bc s c).changing = false →
    (bc s c).writes.any (fun u => wunitAt u { c := c, r := r, d := 0, bank := bank, row := row, col := col }) = false →
    (∀ d < 4, let k := markOf s (locWord { c := c, r := r, d := d, bank := bank, row := row, col := col })
      k.poison = false ∧ k.flips.val + (flips.getD d 0).val ≤ 1) →
    (∃ d < 4, (markOf s (locWord { c := c, r := r, d := d, bank := bank, row := row, col := col })).flips.val
      + (flips.getD d 0).val = 1) →
    Yields (.bankPatrolScrub c r bank row col flips) s fun t =>
      (∀ w ∈ unitWords c r bank row col, chkOf t w = 0 ∧ Memory.col t.bank.mem w = Memory.col s.bank.mem w)
      ∧ (∀ w, w ∉ unitWords c r bank row col → markOf t w = markOf s w))
  ∧ (∀ (s : State) (c : Chan) (r : Rank) (d : Die), s.boot.relBc.getLsbD c.val = false → s.boot.phase = 0x05#8 →
    rankExists c r = true → rankRetired s c r = false → (die s (dieNo c r d)).inReset = true →
    (quadMap s (c / 4)).failed = none → s.cnt.held = [] →
    Yields (.bcRelease c []) s fun t =>
      t.boot.relBc.getLsbD c.val = true ∧ bc t c = Bc.reset ∧ (die t (dieNo c r d)).inReset = false
      ∧ (die t (dieNo c r d)).selfTest = true ∧ (die t (dieNo c r d)).stDone = false
      ∧ (die t (dieNo c r d)).speed = s.dev.runA
      ∧ (∀ g < 16, mrOut (die t (dieNo c r d)) g = decide (grainAt c r d g ∈ s.bank.mappedOut)) ∧ SameArray s t)
  ∧ (∀ (s : State) (c : Chan) (x : TrainResult), s.boot.relBc.getLsbD c.val = false → s.boot.phase = 0x05#8 →
    s.cnt.held = [] → x.step = 2 → trainPass x = true →
    Yields (.bcRelease c [x]) s fun t =>
      trnOf t (c.val + 16 * x.rank.val + 64 * x.lane.val + bitIf x.setB 9) =
        { (trnOf s (c.val + 16 * x.rank.val + 64 * x.lane.val + bitIf x.setB 9)) with
          left := BitVec.ofNat 7 (sweepLeft x), right := BitVec.ofNat 7 (sweepRight x),
          centre := BitVec.ofNat 7 ((sweepLeft x + sweepRight x) / 2), rvref := x.rvref, pass := true })
  ∧ (∀ (pass : Nat → Bool) (n : Nat),
    (longestRun pass n).1 + (longestRun pass n).2 ≤ n
    ∧ (∀ i, (longestRun pass n).1 ≤ i → i < (longestRun pass n).1 + (longestRun pass n).2 → pass i = true)
    ∧ ∀ a m, a + m ≤ n → (∀ i, a ≤ i → i < a + m → pass i = true) →
        m < (longestRun pass n).2 ∨ (m = (longestRun pass n).2 ∧ (0 < m → (longestRun pass n).1 ≤ a)) )
  ∧ (∀ (s : State) (c : Chan) (r : Rank) (d : Die), (bc s c).changing = true → chanQuiet s c = true → rankUp s c r = true →
    Yields (.frequencyChangeDone c true) s fun t =>
      (bc t c).changing = false ∧ (bc t c).setB = s.dev.freq
      ∧ (die t (dieNo c r d)).openRows = [] ∧ (die t (dieNo c r d)).speed = (if s.dev.freq then s.dev.runB else s.dev.runA)
      ∧ mrRead (die t (dieNo c r d)) 0x02 = (if s.dev.freq then s.dev.runB else s.dev.runA).setWidth 8
      ∧ OtherBcs c s t ∧ SameArray s t ∧ t.dev = s.dev)
  ∧ (∀ (s : State) (c : Chan), (bc s c).changing = true → chanQuiet s c = true →
    Yields (.frequencyChangeDone c false) s fun t =>
      (bc t c).changing = false ∧ (bc t c).setB = (bc s c).setB
      ∧ (if s.dev.freq then t.dev.bInvalid = true else t.dev.aInvalid = true) ∧ Logged 3 0x2C s t ∧ SameArray s t)

/-! ### Sequencers (09), flags and wires (12) -/

namespace Sys2Proof.Machine

/-- Context x issued an operation and stands as c; every other context is as it was. -/
def Issued (x : CtxNo) (c : Ctx) (s t : State) : Prop :=
  ctx t x.val = some c ∧ (∀ y, y ≠ x.val → ctx t y = ctx s y)

/-- Only contexts, which of them their sequencers served last, a descriptor's clipped mark and programmable counters may have
changed. -/
def CtxOnly (s t : State) : Prop :=
  t = { s with seq := { s.seq with ctxs := t.seq.ctxs, served := t.seq.served }, places := t.places,
               cnt := { s.cnt with cnt := t.cnt.cnt } }

/-- Context x entered a wait and did nothing else (09 R251). -/
def Waits (x : CtxNo) (c : Ctx) (st : CState) (w : WaitFor) (s t : State) : Prop :=
  ctx t x.val = some { c with st := st, wait := w, since := now s } ∧ (∀ y, y ≠ x.val → ctx t y = ctx s y)
  ∧ (st = .waitFlag → x ∈ t.seq.waits)

/-- Context x has faulted with a SEQ_FAULT code: its operation had no effect, it drains, and its descriptor carries
SEQ_FAULT (09 R277). -/
def SeqFaults (x : CtxNo) (c : Ctx) (code : Nat) (s t : State) : Prop :=
  (∃ c', ctx t x.val = some c' ∧ c'.st = .drain ∧ c'.seqFault = some (BitVec.ofNat 8 code) ∧ c'.vals = c.vals
      ∧ c'.loops = c.loops ∧ c'.pos = c.pos)
  ∧ (∀ d, desc s c.place = some d → ∃ e, desc t c.place = some e ∧ .seqFault ∈ e.conds)
  ∧ (∀ y, y ≠ x.val → ctx t y = ctx s y)

/-- Nothing waits on a flag. -/
def unwatched (s : State) (sp : FlagSpace) (n : Nat) : Bool :=
  s.seq.waits.all (fun x => !waitsOn s x sp n true false && !waitsOn s x sp n false false && !waitsOn s x sp n true true)

/-- Every flag but one is as it was. -/
def OtherFlags (sp : FlagSpace) (n : Nat) (s t : State) : Prop :=
  ∀ q m, (q, m) ≠ (sp, n) → getFlag t q m = getFlag s q m

/-- Every wire but one is as it was. -/
def OtherWires (w : Fin 8) (s t : State) : Prop := ∀ v, v ≠ w.val → wire t v = wire s v

end Sys2Proof.Machine

/-- IMAGE_LOAD_COMPLETE runs a context whose image passes every load check, keeping the image, and faults one whose
image's magic is wrong with code 1; argument bytes reach a context. CONTEXT_END drains it. -/
def Obligations.ContextsLoadAndEnd : Prop :=
  (∀ (s : State) (x : CtxNo) (c : Ctx) (d : Desc) (image args : List Byte),
    ctx s x.val = some c → c.st = .load → desc s c.place = some d → opcodeOf d.words = 0x10 →
    loadFault s (x.val / 8)
      { id := BitVec.ofNat 64 (leAt image 0x10 8), len := bits (wordAt d.words 2) 0 24, func := d.func }
      image (bits (wordAt d.words 2) 24 8) (bits (wordAt d.words 4) 0 16) = none →
    Yields (.imageLoadComplete x image args) s fun t =>
      (∃ c', ctx t x.val = some c' ∧ c'.st = .run ∧ c'.args = args.take (64 * bits (wordAt d.words 4) 0 16)
        ∧ c'.pos = BitVec.ofNat 32 (bits (sqiRec image (leAt image 0x20 4) (bits (wordAt d.words 2) 24 8)).1 0 32)
        ∧ c'.regions = c.regions ∧ c'.vals = c.vals)
      ∧ (∀ y, y ≠ x.val → ctx t y = ctx s y)
      ∧ { id := BitVec.ofNat 64 (leAt image 0x10 8), len := bits (wordAt d.words 2) 0 24, func := d.func }
          ∈ tget [] t.seq.kept (x.val / 8)
      ∧ t = { s with seq := { s.seq with ctxs := t.seq.ctxs, kept := t.seq.kept } })
  ∧ (∀ (s : State) (x : CtxNo) (c : Ctx) (d : Desc) (image args : List Byte),
    ctx s x.val = some c → c.st = .load → desc s c.place = some d → opcodeOf d.words = 0x10 →
    leAt image 0x00 4 ≠ 0x31495153 →
    Yields (.imageLoadComplete x image args) s (SeqFaults x c 0x01 s))
  ∧ (∀ (s : State) (x : CtxNo) (c : Ctx), running s x = some c →
    Yields (.contextEnd x) s fun t =>
      ctx t x.val = some { c with st := .drain, since := now s } ∧ (∀ y, y ≠ x.val → ctx t y = ctx s y)
      ∧ (outstanding s x = 0 → ∀ d, desc s c.place = some d → d.stage ≠ .built →
          ∃ e, desc t c.place = some e ∧ e.stage = .ended))
  ∧ (∀ (s : State) (x : CtxNo) (c : Ctx), ctx s x.val = some c → c.st ≠ .run →
    ¬ now s < c.since + BitVec.ofNat 64 (s.hub.wdCtx.toNat * 1000000) →
    Yields (.contextWatchdogExpiry x) s fun t =>
      (∃ c', ctx t x.val = some c' ∧ c'.st = .drain ∧ c'.wait = .nothing) ∧ (∀ y, y ≠ x.val → ctx t y = ctx s y)
      ∧ ∀ d, desc s c.place = some d → ∃ e, desc t c.place = some e ∧ .watchdog ∈ e.conds)

/-- The operations of a running context, whose sequencer serves it next: loops, branches, calls, values and generators change
what they name and go on; a Slip routine with a count of 0 returns at once, any other comes to one Slip command on its rows and
columns (the model's choice of one command: log entry 111); a loop, call or return past the limit faults with 0x12, 0x13,
0x14, a routine outside the library with 0x15; an operand whose value is pending makes the context wait for it. -/
def Obligations.ContextsIssueOperations : Prop :=
  (∀ (s : State) (x : CtxNo) (c : Ctx) (n : BitVec 24) (body last : U32), running s x = some c → c.loops.length < 6 →
    n ≠ 0#24 →
    Yields (.loopOpen x (.imm n) body last) s fun t =>
      Issued x { c with loops := c.loops ++ [{ count := n.toNat, index := 0, body := body, last := last }],
                        pos := body } s t ∧ CtxOnly s t)
  ∧ (∀ (s : State) (x : CtxNo) (c : Ctx) (r : Fin 16) (body last : U32), running s x = some c → c.loops.length < 6 →
    r.val ∉ c.pendVals → valOf c r.val ≠ 0#32 →
    Yields (.loopOpen x (.reg r) body last) s fun t =>
      Issued x { c with loops := c.loops ++ [{ count := (valOf c r.val).toNat, index := 0, body := body, last := last }],
                        pos := body } s t ∧ CtxOnly s t)
  ∧ (∀ (s : State) (x : CtxNo) (c : Ctx) (body last : U32), running s x = some c → c.loops.length < 6 →
    Yields (.loopOpen x (.imm 0#24) body last) s fun t => Issued x (goTo last c) s t ∧ CtxOnly s t)
  ∧ (∀ (s : State) (x : CtxNo) (c : Ctx) (count : LoopCount) (body last : U32), running s x = some c → 6 ≤ c.loops.length →
    Yields (.loopOpen x count body last) s (SeqFaults x c 0x12 s))
  ∧ (∀ (s : State) (x : CtxNo) (c : Ctx) (cond : Fin 9) (a : Fin 16) (b : BranchArg) (target w : U32) (taken : Bool),
    running s x = some c → a.val ∉ c.pendVals →
    (match b with
     | .reg r => r.val ∉ c.pendVals ∧ w = valOf c r.val
     | .imm v => w = v.signExtend 32) → brTaken cond.val (valOf c a.val) w = some taken →
    Yields (.branch x cond a b target) s fun t =>
      Issued x (if taken = true then goTo target c else goTo (c.pos + 1#32) c) s t ∧ CtxOnly s t)
  ∧ (∀ (s : State) (x : CtxNo) (c : Ctx) (r : Byte), running s x = some c → c.stack.length < 4 →
    (r.toNat < 0x10 ∨ (0x20 ≤ r.toNat ∧ r.toNat < 0x40)) →
    Yields (.call x r) s fun t =>
      Issued x { c with stack := c.stack ++ [(c.pos + 1#32, c.loops.length)],
                        pos := Config.routineEntry (routineNo s r.toNat) } s t ∧ CtxOnly s t)
  ∧ (∀ (s : State) (x : CtxNo) (c : Ctx) (r : Byte), running s x = some c → c.stack.length < 4 →
    0x10 ≤ r.toNat → r.toNat < 0x20 → (∀ v < 8, v ∉ c.pendVals) → (valOf c 0 = 0#32 ∨ valOf c 1 = 0#32) →
    Yields (.call x r) s fun t => Issued x (goTo (c.pos + 1#32) c) s t ∧ CtxOnly s t)
  ∧ (∀ (s : State) (x : CtxNo) (c : Ctx) (r : Byte) (regs : List (Nat × Nat × Bool)), running s x = some c →
    c.stack.length < 4 → 0x10 ≤ r.toNat → r.toNat < 0x20 → (∀ v < 8, v ∉ c.pendVals) →
    valOf c 0 ≠ 0#32 → valOf c 1 ≠ 0#32 → (valOf c 0).toNat < 2 ^ 24 → (valOf c 1).toNat ≤ 65536 →
    judgePush s x c (routinePush s c r.toNat) = .enter regs →
    Yields (.call x r) s fun t =>
      ∃ (q : Fin 26) (k : QCmd) (v : SlipCmd), 4 ≤ q.val ∧ q.val < 8 ∧ queue t q.val = queue s q.val ++ [k]
        ∧ k.push.cmd = .slip v ∧ k.ctx = some x ∧ v.rows = (valOf c 0).toNat ∧ v.cols = (valOf c 1).toNat
        ∧ v.i0 = valOf c 4 ∧ v.i1 = valOf c 5 ∧ (∃ c', ctx t x.val = some c' ∧ c'.st = .run ∧ c'.stack = c.stack))
  ∧ (∀ (s : State) (x : CtxNo) (c : Ctx) (r : Byte), running s x = some c → 4 ≤ c.stack.length →
    Yields (.call x r) s (SeqFaults x c 0x13 s))
  ∧ (∀ (s : State) (x : CtxNo) (c : Ctx) (r : Byte), running s x = some c → c.stack.length < 4 → 0x40 ≤ r.toNat →
    Yields (.call x r) s (SeqFaults x c 0x15 s))
  ∧ (∀ (s : State) (x : CtxNo) (c : Ctx) (pos : U32) (depth : Nat), running s x = some c →
    c.stack.getLast? = some (pos, depth) →
    Yields (.ret x) s fun t =>
      Issued x (goTo pos { c with stack := c.stack.dropLast, loops := c.loops.take depth }) s t ∧ CtxOnly s t)
  ∧ (∀ (s : State) (x : CtxNo) (c : Ctx), running s x = some c → c.stack = [] → Yields (.ret x) s (SeqFaults x c 0x14 s))
  ∧ (∀ (s : State) (x : CtxNo) (c : Ctx) (fn d a b : Fin 16) (v : U32), running s x = some c →
    a.val ∉ c.pendVals → b.val ∉ c.pendVals → salu fn.val (valOf c a.val) (valOf c b.val) = some v →
    Yields (.valueOp x fn d a b) s fun t =>
      Issued x (goTo (c.pos + 1#32) { c with vals := tset 0#32 c.vals d.val v }) s t ∧ CtxOnly s t)
  ∧ (∀ (s : State) (x : CtxNo) (c : Ctx) (fn d a b : Fin 16), running s x = some c → a.val ∈ c.pendVals →
    Yields (.valueOp x fn d a b) s fun t => Waits x c .waitVal (.value a) s t ∧ (∀ i, desc t i = desc s i))
  ∧ (∀ (s : State) (x : CtxNo) (c : Ctx) (g : Fin 8) (v : ValSrc) (w : U32), running s x = some c → valSrc c v = .inl w →
    Yields (.generatorSet x g .base v) s fun t =>
      Issued x (goTo (c.pos + 1#32) { c with gens := tset Gen.reset c.gens g.val { (genOf c g.val) with base := w } }) s t
      ∧ CtxOnly s t)
  ∧ (∀ (s : State) (x : CtxNo) (c : Ctx) (g : Fin 8) (l : Fin 6) (v : ValSrc) (w : U32), running s x = some c →
    valSrc c v = .inl w →
    Yields (.generatorSet x g (.stride l) v) s fun t =>
      let o : Gen := { (genOf c g.val) with strides := tset 0#32 (genOf c g.val).strides l.val w }
      Issued x (goTo (c.pos + 1#32) { c with gens := tset Gen.reset c.gens g.val o }) s t ∧ CtxOnly s t)
  ∧ (∀ (s : State) (x : CtxNo) (c : Ctx) (g : Fin 8) (r : Fin 32) (v : ValSrc) (w : U32), running s x = some c →
    valSrc c v = .inl w →
    Yields (.generatorSet x g (.region r) v) s fun t =>
      Issued x (goTo (c.pos + 1#32) { c with gens := tset Gen.reset c.gens g.val { (genOf c g.val) with region := r.val } }) s t
      ∧ CtxOnly s t)

/-- COMMAND_PUSH enters a command that passes every check at the end of its queue, numbered next on its engine; one on a
queue that does not carry it faults with 0x10; a full queue makes the context wait, and a wake finds the room. The head
of a queue completes once its engine is done with it, and leaves the queue. -/
def Obligations.PushesEnterQueues : Prop :=
  (∀ (s : State) (x : CtxNo) (c : Ctx) (p : Push) (regs : List (Nat × Nat × Bool)), running s x = some c →
    judgePush s x c p = .enter regs → p1OfCmd p.cmd = none →
    Yields (.commandPush x p) s fun t =>
      (∃ k : QCmd, queue t p.queue.val = queue s p.queue.val ++ [k] ∧ k.ctx = some x ∧ k.place = c.place
        ∧ k.push = { p with cmd := fixCmd c p.cmd, lib := false } ∧ k.started = false ∧ k.fin = false
        ∧ k.pushNo = tget 0 s.seq.pushNo (pushKey p.queue.val)
        ∧ k.reads = (regs.filter (fun r => !r.2.2)).map (fun r => r.1)
        ∧ k.writes = (regs.filter (fun r => r.2.2)).map (fun r => r.1))
      ∧ (∀ q, q ≠ p.queue.val → queue t q = queue s q)
      ∧ (∃ c', ctx t x.val = some c' ∧ c'.st = .run ∧ c'.vals = c.vals
        ∧ ∀ r, p.value = some r → r.val ∈ c'.pendVals) ∧ (∀ y, y ≠ x.val → ctx t y = ctx s y))
  ∧ (∀ (s : State) (x : CtxNo) (c : Ctx) (p : Push) (regs : List (Nat × Nat × Bool)) (v : Nat × GrainSel × P1Kind),
    running s x = some c → judgePush s x c p = .enter regs → p1OfCmd p.cmd = some v →
    Yields (.commandPush x p) s fun t =>
      (∃ k : P1, (bc t (p.queue.val - 10)).p1 = (bc s (p.queue.val - 10)).p1 ++ [k] ∧ k.rank = v.1 ∧ k.sel = v.2.1
        ∧ k.kind = v.2.2 ∧ k.ctx = some x ∧ k.place = some c.place ∧ k.func = c.func ∧ k.issued = false
        ∧ k.dirty = dirtyOfRank s (p.queue.val - 10) v.1)
      ∧ (queue t p.queue.val).length = (queue s p.queue.val).length + 1)
  ∧ (∀ (s : State) (x : CtxNo) (c : Ctx) (p : Push), running s x = some c → queueCarries p.queue.val p.cmd = false →
    Yields (.commandPush x p) s (SeqFaults x c 0x10 s))
  ∧ (∀ (s : State) (x : CtxNo) (c : Ctx) (p : Push), running s x = some c → judgePush s x c p = .full →
    Yields (.commandPush x p) s fun t => Waits x c .waitQ (.push { p with lib := false }) s t ∧ (∀ q, queue t q = queue s q))
  ∧ (∀ (s : State) (x : CtxNo) (c : Ctx) (p : Push) (regs : List (Nat × Nat × Bool)), ctx s x.val = some c →
    c.st = .waitQ → c.wait = .push p → judgePush s x c p = .enter regs → p1OfCmd p.cmd = none →
    Yields (.contextWake x) s fun t =>
      (∃ c', ctx t x.val = some c' ∧ c'.st = .run ∧ c'.wait = .nothing)
      ∧ (∃ k : QCmd, queue t p.queue.val = queue s p.queue.val ++ [k] ∧ k.ctx = some x))
  ∧ (∀ (s : State) (x : CtxNo) (c : Ctx) (r : Fin 16), ctx s x.val = some c → c.st = .waitVal → c.wait = .value r →
    r.val ∉ c.pendVals →
    Yields (.contextWake x) s fun t =>
      ctx t x.val = some { c with st := .run, wait := .nothing, since := now s } ∧ (∀ y, y ≠ x.val → ctx t y = ctx s y)
      ∧ t = { s with seq := { s.seq with ctxs := t.seq.ctxs } })
  ∧ (∀ (s : State) (q : QueueNo) (k : QCmd) (rest : List QCmd) (x : CtxNo), queue s q.val = k :: rest → k.fin = true →
    k.ctx = some x → k.push.flag = none → k.push.wire = none →
    Yields (.engineCommandComplete q) s fun t =>
      (queue t q.val).length = rest.length ∧ (∀ e ∈ queue t q.val, ∃ e' ∈ rest, e' = { e with since := e'.since })
      ∧ (∀ r, r ≠ q.val → queue t r = queue s r)
      ∧ ∀ c, ctx s x.val = some c → ∃ c', ctx t x.val = some c' ∧ c'.st = c.st ∧ c'.pos = c.pos
          ∧ ∀ v r, k.push.value = some v → k.result = some r → tget 0#32 c'.vals v.val = r)

/-- Flags: a context sets or clears a flag it may name and goes on; a wait whose value the flag holds goes on, a consuming
one clearing it, any other waits; a set wakes the waiting context; naming any other flag faults with 0x18. A set of a
peer's flag leaves as one packet on the first link of a path. -/
def Obligations.FlagsAreOperated : Prop :=
  (∀ (s : State) (x : CtxNo) (c : Ctx) (sp : FlagSpace) (n i : Nat), running s x = some c →
    ctxFlag s x c.func sp n false = some i → wordFaulted s sp i = false → unwatched s sp i = true →
    Yields (.flagSet x sp n) s fun t =>
      (getFlag t sp i).value = true ∧ (getFlag t sp i).setter = 0 ∧ (getFlag t sp i).setMtb = now s
      ∧ (getFlag t sp i).sets = sat16 (getFlag s sp i).sets ∧ (getFlag t sp i).clears = (getFlag s sp i).clears
      ∧ OtherFlags sp i s t ∧ Issued x (goTo (c.pos + 1#32) c) s t)
  ∧ (∀ (s : State) (x : CtxNo) (c : Ctx) (sp : FlagSpace) (n i : Nat), running s x = some c →
    ctxFlag s x c.func sp n false = some i → wordFaulted s sp i = false → unwatched s sp i = true →
    Yields (.flagClear x sp n) s fun t =>
      (getFlag t sp i).value = false ∧ (getFlag t sp i).clearMtb = now s
      ∧ (getFlag t sp i).clears = sat16 (getFlag s sp i).clears ∧ (getFlag t sp i).sets = (getFlag s sp i).sets
      ∧ OtherFlags sp i s t ∧ Issued x (goTo (c.pos + 1#32) c) s t)
  ∧ (∀ (s : State) (x : CtxNo) (c : Ctx) (sp : FlagSpace) (n : Nat), running s x = some c →
    ctxFlag s x c.func sp n false = none → Yields (.flagSet x sp n) s (SeqFaults x c 0x18 s))
  ∧ (∀ (s : State) (x : CtxNo) (c : Ctx) (sp : FlagSpace) (n i : Nat) (want : Bool), running s x = some c →
    ctxFlag s x c.func sp n true = some i → wordFaulted s sp i = false → (getFlag s sp i).value = want →
    Yields (.flagWait x sp n want) s fun t => Issued x (goTo (c.pos + 1#32) c) s t ∧ CtxOnly s t)
  ∧ (∀ (s : State) (x : CtxNo) (c : Ctx) (sp : FlagSpace) (n i : Nat) (want : Bool), running s x = some c →
    ctxFlag s x c.func sp n true = some i → wordFaulted s sp i = false → (getFlag s sp i).value ≠ want →
    Yields (.flagWait x sp n want) s (Waits x c .waitFlag (.flagIs sp i want false) s))
  ∧ (∀ (s : State) (x : CtxNo) (c : Ctx) (sp : FlagSpace) (n i : Nat), running s x = some c →
    ctxFlag s x c.func sp n true = some i → wordFaulted s sp i = false → (getFlag s sp i).value = true →
    unwatched s sp i = true →
    Yields (.flagWaitConsume x sp n) s fun t =>
      (getFlag t sp i).value = false ∧ (getFlag t sp i).clears = sat16 (getFlag s sp i).clears ∧ OtherFlags sp i s t
      ∧ Issued x (goTo (c.pos + 1#32) c) s t)
  ∧ (∀ (s : State) (x y : CtxNo) (c e : Ctx) (n i : Nat), running s x = some c →
    ctxFlag s x c.func .shared n false = some i → wordFaulted s .shared i = false → y ≠ x → s.seq.waits = [y] →
    ctx s y.val = some e → e.st = .waitFlag → e.wait = .flagIs .shared i true true →
    Yields (.flagSet x .shared n) s fun t =>
      (getFlag t .shared i).value = false ∧ ctx t y.val = some { e with wait := .nothing } ∧ t.seq.waits = [])
  ∧ (∀ (s u : State) (x : CtxNo) (c : Ctx) (n : Nat) (dst : Byte), running s x = some c → ownPos s ≠ some dst →
    originate dst c.place (.flagSet (BitVec.ofNat 14 n) false) none (issue x (advance c) s) = some u →
    Yields (.remoteSignal x n dst) s fun t =>
      t.lnk = u.lnk ∧ (∀ c', ctx u x.val = some c' → ctx t x.val = some { c' with sets := c'.sets + 1 }))
  ∧ (∀ (s : State) (x : CtxNo) (c : Ctx) (n : Nat) (dst : Byte), running s x = some c → s.lnk.plan = none →
    Yields (.remoteSignal x n dst) s fun t =>
      Issued x (goTo (c.pos + 1#32) c) s t ∧ (∀ d, desc s c.place = some d → ∃ e, desc t c.place = some e ∧ .linkDown ∈ e.conds))

/-- Wires: a claim holds a free wire or joins a hold with the same terms; an arrival below N counts, and the Nth releases
the wire: its count 0, its generation one on, its waiting contexts awake; a wait lasts until the release; a module-wide
wire waits for the grain work pushed before; a realigned stream starts again at slot 0. -/
def Obligations.WiresReleaseAtTheCount : Prop :=
  (∀ (s : State) (x : CtxNo) (c : Ctx) (w : Fin 8) (n : BitVec 6) (mw : Bool), running s x = some c →
    (wire s w.val).func = none →
    Yields (.barrierClaim x w n mw) s fun t =>
      wire t w.val = { Wire.reset with func := some c.func, n := max 1 (min 32 n.toNat), moduleWide := mw, joined := [x] }
      ∧ OtherWires w s t ∧ Issued x (goTo (c.pos + 1#32) c) s t)
  ∧ (∀ (s : State) (x : CtxNo) (c : Ctx) (w : Fin 8), running s x = some c → x ∈ (wire s w.val).joined →
    (wire s w.val).count + 1 < (wire s w.val).n →
    Yields (.barrierArrive x w) s fun t =>
      wire t w.val = { (wire s w.val) with count := (wire s w.val).count + 1 } ∧ OtherWires w s t
      ∧ Issued x (goTo (c.pos + 1#32) c) s t)
  ∧ (∀ (s : State) (x : CtxNo) (c : Ctx) (w : Fin 8), running s x = some c → x ∈ (wire s w.val).joined →
    (wire s w.val).n ≤ (wire s w.val).count + 1 → (wire s w.val).moduleWide = false →
    Yields (.barrierArriveWait x w) s fun t =>
      wire t w.val = { (wire s w.val) with count := 0, due := none, gen := (wire s w.val).gen + 1 } ∧ OtherWires w s t
      ∧ ∃ c', ctx t x.val = some c' ∧ c'.st = .run)
  ∧ (∀ (s : State) (x : CtxNo) (c : Ctx) (w : Fin 8), running s x = some c → x ∈ (wire s w.val).joined →
    (wire s w.val).n ≤ (wire s w.val).count + 1 → (wire s w.val).moduleWide = false →
    Yields (.barrierArrive x w) s fun t =>
      wire t w.val = { (wire s w.val) with count := 0, due := none, gen := (wire s w.val).gen + 1 } ∧ OtherWires w s t
      ∧ (∀ y c', y ≠ x → y ∈ s.seq.waits → ctx s y.val = some c' → c'.st = .waitFlag → c'.wait = .wire w (wire s w.val).gen →
          ctx t y.val = some { c' with wait := .nothing } ∧ y ∉ t.seq.waits))
  ∧ (∀ (s : State) (x : CtxNo) (c : Ctx), ctx s x.val = some c → c.st = .waitFlag → c.wait = .nothing →
    Yields (.contextWake x) s fun t =>
      Issued x { (goTo (c.pos + 1#32) { c with st := .run }) with since := now s } s t)
  ∧ (∀ (s : State) (x : CtxNo) (c : Ctx) (w : Fin 8), running s x = some c → x ∈ (wire s w.val).joined →
    (wire s w.val).count + 1 < (wire s w.val).n →
    Yields (.barrierArriveWait x w) s fun t =>
      wire t w.val = { (wire s w.val) with count := (wire s w.val).count + 1 } ∧ OtherWires w s t
      ∧ Waits x c .waitFlag (.wire w (wire s w.val).gen) s t)
  ∧ (∀ (s : State) (x : CtxNo) (c : Ctx) (w : Fin 8), running s x = some c → x ∈ (wire s w.val).joined →
    Yields (.barrierWait x w) s fun t =>
      Waits x c .waitFlag (.wire w (wire s w.val).gen) s t ∧ ∀ v, wire t v = wire s v)
  ∧ (∀ (s : State) (x : CtxNo) (c : Ctx) (w : Fin 8), running s x = some c → x ∉ (wire s w.val).joined →
    Yields (.barrierArrive x w) s (SeqFaults x c 0x18 s))
  ∧ (∀ (s : State) (w : Fin 8) (n : Nat) (f : Func), (wire s w.val).due = some n → (wire s w.val).func = some f →
    p1Busy s f n = false →
    Yields (.moduleWideWireRelease w) s fun t =>
      wire t w.val = { (wire s w.val) with count := 0, due := none, gen := (wire s w.val).gen + 1 } ∧ OtherWires w s t)
  ∧ (∀ (s : State) (x : CtxNo) (c : Ctx) (k : Fin 16) (st : Stream), running s x = some c →
    tfind c.streams k.val = some st → st.push = st.pop → st.done = st.pop →
    Yields (.realignRequest x k) s fun t =>
      Issued x (goTo (c.pos + 1#32) { c with streams := tput c.streams k.val { st with push := 0, pop := 0, done := 0, filled := [] } }) s t
      ∧ CtxOnly s t)
  ∧ (∀ (s : State) (x : CtxNo) (c : Ctx) (k : Fin 16), running s x = some c → realigned c k.val = false →
    Yields (.realignRequest x k) s (Waits x c .waitFlag (.realign k none) s))

/-! ### Engines (10, 11) and serving (13, 14) -/

namespace Sys2Proof.Machine

/-- The head of a queue is done: it stays at the head, finished, its followers as they were. -/
def HeadDone (q : Nat) (k : QCmd) (s t : State) : Prop :=
  ∃ e : QCmd, queue t q = e :: (queue s q).tail ∧ e.fin = true ∧ e.push = k.push ∧ e.ctx = k.ctx ∧ e.place = k.place

/-- Engine islands other than MXn are as they were. -/
def OtherMxs (n : Nat) (s t : State) : Prop := (∀ m, m ≠ n → mx t m = mx s m) ∧ t.eng.lys = s.eng.lys

end Sys2Proof.Machine

/-- WEIGHT_LOAD fills one weight buffer with its source's tile; PRODUCT_PASS adds, in ascending depth, the products of a
row and a column to each word of one accumulator bank, from 0 with `start`; SLIP_COMMAND without a tile stage writes the
chain's value of each element to its output, and gives the word of a region that its command reads as the result. Each marks
its command done and leaves every other resource, whatever the check bits of the engine's words gave; an uncorrectable error
taints what it writes. -/
def Obligations.MatrixEnginesCompute : Prop :=
  (∀ (s : State) (n : MxNo) (ecc : Ecc) (k : QCmd) (buf : Fin 2) (fmt : Fmt) (src : Operand) (a : Src),
    mxHead s n = some k → k.push.cmd = .weightLoad buf fmt src → (cmdSrcs s k).head? = some a →
    Yields (.weightLoad n ecc) s fun t =>
      (∀ i < 128, ∀ j < 128, resWord (mx t n).wts buf i j = srcElem s (mx s n) fmt 128 a i j)
      ∧ (∀ b, b ≠ buf.val → ∀ i j, resWord (mx t n).wts b i j = resWord (mx s n).wts b i j)
      ∧ tfind (mx t n).wtFmt buf = some fmt ∧ (ecc = .uncorrectable → 4 + buf.val ∈ (mx t n).taint) ∧ (mx t n).acc = (mx s n).acc ∧ (mx t n).tiles = (mx s n).tiles
      ∧ (mx t n).masks = (mx s n).masks ∧ OtherMxs n s t ∧ HeadDone n k s t)
  ∧ (∀ (s : State) (n : MxNo) (ecc : Ecc) (k : QCmd) (x : Operand) (buf : Fin 2) (bank : Fin 4) (start : Bool) (a : Src),
    mxHead s n = some k → k.push.cmd = .product x .bf16 buf bank start → (cmdSrcs s k).head? = some a →
    bufFmt (mx s n) buf .bf16 = .bf16 →
    Yields (.productPass n ecc) s fun t =>
      (∀ i < 128, ∀ j < 128, resWord (mx t n).acc bank i j =
        (List.range 128).foldl (fun z d => Fp.macc16 z ((srcElem s (mx s n) .bf16 128 a i d).setWidth 16)
            ((resWord (mx s n).wts buf d j).setWidth 16))
          (if start = true then 0#32 else resWord (mx s n).acc bank i j))
      ∧ (∀ b, b ≠ bank.val → ∀ i j, resWord (mx t n).acc b i j = resWord (mx s n).acc b i j)
      ∧ (mx t n).wts = (mx s n).wts ∧ (mx t n).tiles = (mx s n).tiles ∧ OtherMxs n s t ∧ HeadDone n k s t)
  ∧ (∀ (s : State) (n : MxNo) (ecc : Ecc) (k : QCmd) (x : Operand) (buf : Fin 2) (bank : Fin 4) (start : Bool) (a : Src),
    mxHead s n = some k → k.push.cmd = .product x .int8 buf bank start → (cmdSrcs s k).head? = some a →
    bufFmt (mx s n) buf .int8 = .int8 →
    Yields (.productPass n ecc) s fun t =>
      ∀ i < 128, ∀ j < 128, resWord (mx t n).acc bank i j =
        (List.range 128).foldl (fun z d => z + ((srcElem s (mx s n) .int8 128 a i d).setWidth 8).signExtend 32
            * ((resWord (mx s n).wts buf d j).setWidth 8).signExtend 32)
          (if start = true then 0#32 else resWord (mx s n).acc bank i j))
  ∧ (∀ (s : State) (n : MxNo) (ecc : Ecc) (k : QCmd) (c : SlipCmd) (b : Fin 4), mxHead s (4 + n.val) = some k → k.push.cmd = .slip c →
    c.tile = none → c.out = .bank b → c.maskOut = none → c.rows ≤ 128 → c.cols ≤ 128 →
    (c.outFmt = .fp32 ∨ c.outFmt = .int32) →
    Yields (.slipCommand n ecc) s fun t =>
      (∀ i < c.rows, ∀ j < c.cols, slipLive (mx s n) c i j = true → ∀ v,
        narrow (chainInt c) c.outFmt c.sat (slipAt s (mx s n) c (slipSrcs s k c) i j).1 = some v →
        resWord (mx t n).acc b i j = v)
      ∧ (∀ i < 128, ∀ j < 128, slipLive (mx s n) c i j = false →
          resWord (mx t n).acc b i j = resWord (mx s n).acc b i j)
      ∧ (∀ d, d ≠ b.val → ∀ i j, resWord (mx t n).acc d i j = resWord (mx s n).acc d i j)
      ∧ (mx t n).tiles = (mx s n).tiles ∧ (mx t n).masks = (mx s n).masks ∧ OtherMxs n s t ∧ HeadDone (4 + n.val) k s t)
  ∧ (∀ (s : State) (n : MxNo) (ecc : Ecc) (k : QCmd) (c : SlipCmd) (b : Fin 4) (v : U32), mxHead s (4 + n.val) = some k →
    k.push.cmd = .slip c → c.tile = none → c.stages = [.add .imm0] → c.in1 = .imm v → c.in1Fmt = .fp32 → c.laneMask = none →
    c.in2 = none → c.bcast0 = none → c.bcast1 = none →
    c.out = .bank b → c.maskOut = none → c.rows ≤ 128 → c.cols ≤ 128 → c.outFmt = .fp32 →
    Yields (.slipCommand n ecc) s fun t =>
      ∀ i < c.rows, ∀ j < c.cols, resWord (mx t n).acc b i j = Fp.flush32 (Fp.add (Fp.flush32 v) c.i0))
  ∧ (∀ (s : State) (n : MxNo) (ecc : Ecc) (k : QCmd) (src : Operand) (w : Fin 16384) (key off lim : Nat), mxHead s (4 + n.val) = some k →
    k.push.cmd = .regionWord src w → cmdSrcs s k = [.mem key off lim] → 4 * (w.val + 1) ≤ lim → off % 64 = 0 →
    Yields (.slipCommand n ecc) s fun t =>
      HeadDone (4 + n.val) k s t
      ∧ (∀ e, (queue t (4 + n.val)).head? = some e → e.result = some ((readRegion s key (off + 4 * w.val / 64 * 64)).data.extractLsb'
          (32 * (w.val % 16)) 32))
      ∧ t.eng = s.eng ∧ t.bank = s.bank ∧ t.marl = s.marl)

/-- A layout command starts at the head of its queue; each step moves on by one, and the last one finishes the command;
the first step of a COPY is its commit point. The engine watchdog: an MX island or a layout engine whose head has stood
for the period is reset, its queues empty and the descriptors of their commands marked WATCHDOG; grain work that has run
for the period is halted and marked. -/
def Obligations.LayoutCommandsStepAndTimeOut : Prop :=
  (∀ (s : State) (n : LyNo) (k : QCmd) (rest : List QCmd), queue s (8 + n.val) = k :: rest → k.started = false →
    s.boot.relLay = true →
    Yields (.layoutCommand n) s fun t =>
      queue t (8 + n.val) = { k with started := true, since := now s } :: rest
      ∧ (∃ j : LyJob, tfind t.eng.lys n.val = some j ∧ j.step = 0 ∧ j.words = k.words ∧ j.place = k.place)
      ∧ (∀ q, q ≠ 8 + n.val → queue t q = queue s q) ∧ t.marl = s.marl ∧ t.bank = s.bank)
  ∧ (∀ (s : State) (n : LyNo) (ecc : Ecc) (k : QCmd) (rest : List QCmd) (j : LyJob), queue s (8 + n.val) = k :: rest →
    tfind s.eng.lys n.val = some j → k.started = true → k.fin = false → j.step < lySteps k.words → lyHeld s k j.step = false →
    Yields (.layoutStep n ecc) s fun t =>
      queue t (8 + n.val) = { k with fin := decide (j.step + 1 = lySteps k.words), since := now s } :: rest
      ∧ (tfind t.eng.lys n.val).map (fun i => i.step) =
          (if j.step + 1 = lySteps k.words then none else some (j.step + 1))
      ∧ (k.ctx = none → j.step = 0 → ∀ d, desc s k.place = some d → ∃ e, desc t k.place = some e ∧ e.committed = true)
      ∧ t.eng.mxs = s.eng.mxs ∧ (∀ q, q ≠ 8 + n.val → queue t q = queue s q))
  ∧ (∀ (s : State) (n : MxNo) (k : QCmd) (x : CtxNo) (c : Ctx), (queue s n).head? = some k → expired s n = true →
    k.ctx = some x → ctx s x.val = some c → c.place = k.place →
    Yields (.engineWatchdogExpiry (.mx n)) s fun t =>
      mx t n = Mx.reset ∧ queue t n = [] ∧ queue t (4 + n.val) = [] ∧ (∀ a ∈ t.seq.claims, a.mx ≠ n.val)
      ∧ (∀ m, m ≠ n.val → mx t m = mx s m)
      ∧ (∀ d, desc s k.place = some d → ∃ e, desc t k.place = some e ∧ .watchdog ∈ e.conds)
      ∧ ∃ c', ctx t x.val = some c' ∧ c'.st = .drain)
  ∧ (∀ (s : State) (n : LyNo) (k : QCmd) (d : Desc), (queue s (8 + n.val)).head? = some k → expired s (8 + n.val) = true →
    k.ctx = none → desc s k.place = some d →
    Yields (.engineWatchdogExpiry (.ly n)) s fun t =>
      queue t (8 + n.val) = [] ∧ tfind t.eng.lys n.val = none
      ∧ ∃ e, desc t k.place = some e ∧ e.stage = .ended ∧ .watchdog ∈ e.conds)
  ∧ (∀ (s : State) (c : Chan) (r : Rank) (k : Nat × P1) (p : Place) (d : Desc), k ∈ runningP1 s c r →
    k.2.since.toNat + wdEngNs s ≤ (now s).toNat → k.2.place = some p → desc s p = some d →
    Yields (.engineWatchdogExpiry (.grains c r)) s fun t =>
      (∀ g ∈ p1Grains s k.1 k.2, (grain t g).state ≠ .running)
      ∧ ∃ e, desc t p = some e ∧ .watchdog ∈ e.conds)

/-- Serving: at the end of a work unit a row whose last unit it was ends with its tokens, a cancelled one with none; an
ended row commits, or is cancelled at its commit; the output table is written once, after the last row, with one entry per
row and the STEP's detail. -/
def Obligations.RowsEndAndCommit : Prop :=
  (∀ (s : State) (x : CtxNo) (c : Ctx) (t : StepRun) (d : Desc) (row : Fin 1024) (r : RowRun),
    inRun s x = some c → tfind s.serve.steps c.place.val = some t → desc s c.place = some d → t.rows[row.val]? = some r →
    r.admitted = true → r.ended = false → r.cancel = false → failing r.conds = [] →
    Yields (.workUnitEnd x [row]) s fun u =>
      (∃ t' r', tfind u.serve.steps c.place.val = some t' ∧ t'.rows[row.val]? = some r' ∧ r'.ended = true
        ∧ r'.committed = r.committed ∧ r'.mtb = now s
        ∧ r'.tokens = (rowEmits (rowIn s (manAddr s t.func.val t.slot) ((manifest s t.func.val t.slot).getD []) r)).1
        ∧ t'.rows.length = t.rows.length)
      ∧ (∀ q, q ≠ c.place.val → tfind u.serve.steps q = tfind s.serve.steps q))
  ∧ (∀ (s : State) (x : CtxNo) (c : Ctx) (t : StepRun) (d : Desc) (row : Fin 1024) (r : RowRun),
    inRun s x = some c → tfind s.serve.steps c.place.val = some t → desc s c.place = some d → t.rows[row.val]? = some r →
    r.admitted = true → r.ended = false → r.cancel = true →
    Yields (.workUnitEnd x []) s fun u =>
      ∃ t' r', tfind u.serve.steps c.place.val = some t' ∧ t'.rows[row.val]? = some r' ∧ r'.ended = true
        ∧ .cancelled ∈ r'.conds ∧ r'.tokens = r.tokens)
  ∧ (∀ (s : State) (p : Place) (row : Fin 1024) (t : StepRun) (r : RowRun), tfind s.serve.steps p.val = some t →
    t.rows[row.val]? = some r → r.admitted = true → r.ended = true → r.committed = false → r.cancel = false →
    Yields (.rowCommit p row) s fun u =>
      (∃ t', tfind u.serve.steps p.val = some t' ∧ t'.rows[row.val]? = some { r with committed := true, mtb := now s }
        ∧ ∀ i, i ≠ row.val → t'.rows[i]? = t.rows[i]?)
      ∧ (∀ q, q ≠ p.val → tfind u.serve.steps q = tfind s.serve.steps q)
      ∧ u = { s with serve := { s.serve with steps := u.serve.steps } })
  ∧ (∀ (s : State) (p : Place) (row : Fin 1024) (t : StepRun) (r : RowRun), tfind s.serve.steps p.val = some t →
    t.rows[row.val]? = some r → r.admitted = true → r.ended = true → r.committed = false → r.cancel = true →
    failing r.conds = [] →
    Yields (.rowCommit p row) s fun u =>
      ∃ t' r', tfind u.serve.steps p.val = some t' ∧ t'.rows[row.val]? = some r' ∧ r'.committed = true
        ∧ r'.conds = [.cancelled] ∧ r'.tokens = [] ∧ r'.mtb = now s)
  ∧ (∀ (s : State) (p : Place) (t : StepRun) (d : Desc), tfind s.serve.steps p.val = some t → desc s p = some d →
    d.stage = .ended → t.sent = false → hostUp s = true → (∀ r ∈ t.rows, r.committed = true) →
    Yields (.outputTableWrite p) s fun u =>
      (∃ rest, u.out = s.out ++ .hostWrite (BitVec.ofNat 64 (wordAt d.words 3)) (t.rows.flatMap outEntry) :: rest)
      ∧ (tfind u.serve.steps p.val).map (fun x => (x.sent, x.rows)) = some (true, t.rows)
      ∧ (∃ e, desc u p = some e ∧ e.stage = .ended ∧ e.conds = stepConds d.conds t.rows)
      ∧ (∀ q, q ≠ p → desc u q = desc s q))

/-! ### Power, the Keep region, the tray and the rack (16, 17) -/

namespace Sys2Proof.Machine

/-- A protective loop has changed state: its record, and an event-log entry of class 7 (16 R424, 19 Table 19.9). -/
def LoopMoved (i : Nat) (active : Bool) (s t : State) : Prop :=
  (loopRec t i).active = active ∧ (loopRec t i).changed = now s
  ∧ ∃ e : LogEntry, t.log.events.getLast? = some e ∧ e.cls = 7#8 ∧ e.code = BitVec.ofNat 8 i

/-- Every slot but one is as it was. -/
def OtherSlots (i : SlotNo) (s t : State) : Prop := ∀ j, j ≠ i.val → slot t j = slot s j

end Sys2Proof.Machine

/-- The ramp governor holds work back above the ceiling and runs ballast below the floor, both set from each interval's mean
draw; the thermal loop steps a clock down at 100 °C, never below its range, and no other; a droop stretches a clock; the
channel-frequency loop goes to set B when a die has been hot, and back; a link with too many errors falls back to the lower
rate, and tries the full rate again. -/
def Obligations.PowerIsGoverned : Prop :=
  (∀ (s : State) (w predicted : Nat), s.boot.powered = true →
    Yields (.powerMeasure w predicted) s fun t =>
      t.pwr.holding = decide (s.pwr.ceiling < 10 * predicted) ∧ t.pwr.ballast = decide (10 * predicted < s.pwr.floor)
      ∧ t.pwr.samples = lastN 10 (s.pwr.samples ++ [w]) ∧ t.pwr.ceiling = s.pwr.ceiling ∧ t.pwr.ramp = s.pwr.ramp
      ∧ t.bank = s.bank ∧ t.places = s.places)
  ∧ (∀ s : State, s.boot.powered = true → s.boot.fwRestarting = false →
    Yields .rampInterval s fun t =>
      t.pwr.ramp = s.pwr.rampNext.getD s.pwr.ramp ∧ t.pwr.rampNext = none ∧ t.pwr.samples = []
      ∧ t.pwr.draw = (if s.pwr.samples = [] then s.pwr.draw else 10 * sumNat s.pwr.samples / s.pwr.samples.length)
      ∧ t.pwr.ceiling = min (10 * t.pwr.ramp.cap.toNat) (t.pwr.draw + t.pwr.ramp.up.toNat)
      ∧ t.pwr.floor = max 380 (t.pwr.draw - t.pwr.ramp.down.toNat) ∧ t = { s with pwr := t.pwr })
  ∧ (∀ (s : State) (n : MxNo) (temp : Int), 100 ≤ temp → tfind s.pwr.clk (islMx n) = none → tfind s.pwr.clkAt (islMx n) = none →
    500 < min 1500 (bits s.dev.clkHold.toNat 0 12) →
    Yields (.thermalSense (.mx n) temp) s fun t =>
      tfind t.pwr.clk (islMx n) = some (max 500 (min 1500 (bits s.dev.clkHold.toNat 0 12) - 50))
      ∧ (∀ i, i ≠ islMx n → tfind t.pwr.clk i = tfind s.pwr.clk i) ∧ t.bank = s.bank ∧ t.seq = s.seq)
  ∧ (∀ (s : State) (n : MxNo) (temp : Int) (v : Nat), temp < 95 → tfind s.pwr.clk (islMx n) = some v →
    tfind s.pwr.clkAt (islMx n) = none → v + 50 < min 1500 (bits s.dev.clkHold.toNat 0 12) →
    Yields (.thermalSense (.mx n) temp) s fun t =>
      tfind t.pwr.clk (islMx n) = some (v + 50) ∧ (∀ i, i ≠ islMx n → tfind t.pwr.clk i = tfind s.pwr.clk i))
  ∧ (∀ (s : State) (n : MxNo) (ns : Nat), 1000 ≤ ns →
    Yields (.voltageDroop (.mx n) ns) s fun t =>
      tfind t.pwr.clip (islMx n) = some (now s + BitVec.ofNat 64 ns)
      ∧ (∀ i, i ≠ islMx n → tfind t.pwr.clip i = tfind s.pwr.clip i) ∧ t.bank = s.bank ∧ t.seq = s.seq)
  ∧ (∀ (s : State) (h : U64) (c : Chan), freqHeld s = false → s.pwr.hotSince = some h → 100000000 ≤ (now s - h).toNat →
    s.dev.bInvalid = false → (bc s c).setB = false →
    Yields .channelFreqLoop s fun t =>
      t.dev.freq = true ∧ (bc t c).changing = true ∧ LoopMoved 3 true s t ∧ t.dev.policyFreq = s.dev.policyFreq)
  ∧ (∀ (s : State) (h : U64), freqHeld s = true → s.pwr.coolSince = some h → 10000000000 ≤ (now s - h).toNat →
    Yields .channelFreqLoop s fun t => t.dev.freq = s.dev.policyFreq ∧ LoopMoved 3 false s t)
  ∧ (∀ (s : State) (p : PortNo) (c n u m : Nat), portUp s p = true → (n < 100000 * c ∨ m < 1000000000 * u) → (port s p).loopHold = false →
    (loopRec s 4).active = false →
    Yields (.rateLoopCheck p c n u m) s fun t =>
      (port t p).loopHold = true ∧ (port t p).fallback = true
      ∧ ((port s p).fallback = false → (port t p).st = .train) ∧ (∀ q, q ≠ p.val → port t q = port s q)
      ∧ (loopRec t 4).active = true ∧ (loopRec t 4).changed = now s)
  ∧ (∀ (s : State) (p : PortNo), (port s p).loopHold = true → ratePinOf s p ≠ 1 →
    Yields (.rateRetryTimer p) s fun t =>
      (port t p).loopHold = false ∧ (port t p).fallback = false ∧ (∀ q, q ≠ p.val → port t q = port s q))

/-- A power loss, a thermal trip and a cold reset save the dirty Keep blocks and keep what the NAND, the firmware store and
the persistent log hold; everything else is as at reset. The hold-up bank's energy follows its measurements, a weak bank
raising HOLDUP_FAULT. A dirty block is copied to its alternate slot and is then clean; a failed program retires the slot. -/
def Obligations.KeepIsSaved : Prop :=
  (∀ (s : State) (cause : Fin 4) (mv covers : Nat), s.boot.powered = true →
    Yields (.powerLossLatch cause mv covers) s fun t =>
      t.boot.powered = false ∧ t.boot.mediaReady = false ∧ t.pwr.lost = true ∧ t.places = [] ∧ t.bank.mem = []
      ∧ t.log.events = [] ∧ t.fw.image0 = s.fw.image0 ∧ t.fw.image1 = s.fw.image1
      ∧ (s.boot.mediaReady = true → ∃ r, t.keep.record = some r ∧ r.blocks ≤ covers ∧ r.keep = s.dev.keep.inForce)
      ∧ t.bank.mappedOut = s.bank.mappedOut)
  ∧ (∀ (s : State) (n : MxNo) (temp : Int), s.boot.powered = true → 115 ≤ temp →
    Yields (.thermalTrip (.mx n) temp) s fun t =>
      t.boot.powered = false ∧ t.pwr.trip = true ∧ t.places = [] ∧ t.bank.mem = []
      ∧ t.out.getLast? = some (.sideband .thermalTrip (BitVec.ofInt 64 temp)))
  ∧ (∀ s : State, s.boot.powered = true →
    Yields .coldResetOrder s fun t =>
      t.boot.phase = 0x01#8 ∧ t.boot.powerOnCount = s.boot.powerOnCount + 1#32 ∧ t.boot.powered = true ∧ t.places = []
      ∧ t.bank.mem = [] ∧ t.log.events = [])
  ∧ (∀ (s : State) (mv : Nat), s.boot.powered = true →
    Yields (.holdupVoltageMeasure mv) s fun t =>
      t.pwr.bankMv = mv ∧ t.pwr.holdup = 437 * s.pwr.capUf * (mv * mv - 64000000) / 1000000000000 - 15000
      ∧ t = { s with pwr := t.pwr })
  ∧ (∀ (s : State) (uf mv : Nat) (cell : Bool), s.boot.powered = true → (cell = true ∨ holdupMj uf mv < 2000) →
    Yields (.capacitanceMeasure uf mv cell) s fun t =>
      t.pwr.capUf = uf ∧ t.pwr.bankMv = mv ∧ t.pwr.holdup = holdupMj uf mv ∧ t.pwr.keepState = 2#2
      ∧ t.out.getLast? = some (.sideband .holdupFault (BitVec.ofNat 64 (holdupMj uf mv))) ∧ Logged 3 0x34 s t)
  ∧ (∀ (s : State) (uf mv : Nat), s.boot.powered = true → 2000 ≤ holdupMj uf mv → needMj (dirtyBytes s) ≤ holdupMj uf mv →
    Yields (.holdupChargeComplete uf mv) s fun t =>
      t.pwr.capUf = uf ∧ t.pwr.bankMv = mv ∧ t.pwr.holdup = holdupMj uf mv ∧ t.pwr.keepState = s.pwr.keepState
      ∧ t = { s with pwr := t.pwr })
  ∧ (∀ (s : State) (i : Nat), s.boot.mediaReady = true → (kblock s i).dirty = true → (kblock s i).copying = false →
    (s.pwr.forced = true ∨ (s.dev.trickle ≠ 0#16 ∧ s.dev.trickle.toNat * 1000000 ≤ (now s - (kblock s i).since).toNat)) →
    copyable s i = true →
    Yields (.trickleCleanTimer i) s fun t =>
      kblock t i = { (kblock s i) with copying := true } ∧ (∀ j, j ≠ i → kblock t j = kblock s j)
      ∧ t = { s with keep := { s.keep with blocks := t.keep.blocks } })
  ∧ (∀ (s : State) (i : Nat), (kblock s i).copying = true →
    Yields (.keepCopyCommit i) s fun t =>
      kblock t i = { (kblock s i) with dirty := false, copying := false, gen := (kblock s i).gen + 1#64,
                                       slot := some (altSlot (kblock s i) i) }
      ∧ (∃ e : NandSlot, tfind t.keep.nand (altSlot (kblock s i) i) = some e ∧ e.block = i
          ∧ e.gen = (kblock s i).gen + 1#64 ∧ e.tagOk = true)
      ∧ (∀ j, j ≠ i → kblock t j = kblock s j)
      ∧ (∀ k, k ≠ altSlot (kblock s i) i → tfind t.keep.nand k = tfind s.keep.nand k) ∧ t.bank = s.bank)
  ∧ (∀ (s : State) (i : Nat), (kblock s i).copying = true → 0 < sparesLeft s →
    Yields (.nandProgramFailure i) s fun t =>
      kblock t i = kblock s i ∧ t.keep.sparesUsed = s.keep.sparesUsed + 1
      ∧ tfind t.keep.nand (altSlot (kblock s i) i) = none ∧ Logged 3 0x35 s t)
  ∧ (∀ (s : State) (i : Nat), (kblock s i).copying = true → sparesLeft s = 0 →
    Yields (.nandProgramFailure i) s fun t =>
      (kblock t i).copying = false ∧ (kblock t i).dirty = (kblock s i).dirty
      ∧ t.keep.badSlots = s.keep.badSlots ++ [altSlot (kblock s i) i] ∧ Logged 3 0x35 s t)

/-- Slot eFuses: an enabled slot ramps, runs once its output stands at the bus, trips at 24 A or after 1 ms at its limit or with
its ramp budget spent, and is retried; a slot that comes up has its module's budget and plan sent; the fourth failure within 60
s latches it until the latch is cleared, at a later window; a low bus holds every ramp. The module's own slot powers it up and
down. -/
def Obligations.SlotsAreProtected : Prop :=
  (∀ (s : State) (i : SlotNo), (slot s i).st = .off →
    Yields (.slotEnable i) s fun t =>
      (slot t i).st = .inrush ∧ (slot t i).held = s.tray.busLow ∧ (slot t i).outMv = 0 ∧ OtherSlots i s t
      ∧ t = { s with tray := { s.tray with slots := t.tray.slots } })
  ∧ (∀ (s : State) (i : SlotNo) (o b ma : Nat), (slot s i).st = .inrush → b ≤ o + 1000 → o ≤ b + 1000 → ma < 1000 →
    i.val ≠ s.boot.slotId.toNat →
    Yields (.inrushComplete i o b ma) s fun t =>
      (slot t i).st = .run ∧ (slot t i).outMv = o ∧ OtherSlots i s t
      ∧ t = { s with tray := { s.tray with slots := t.tray.slots }, out := s.out ++ [
          .sideband (.rampOrder (moduleAt s.tray.no i) (rackMod s (moduleAt s.tray.no i)).up
            (rackMod s (moduleAt s.tray.no i)).down (rackMod s (moduleAt s.tray.no i)).cap) (s.grc.budgetGen.setWidth 64),
          .planOrder (moduleAt s.tray.no i) (rackPlan (s.grc.planGen + 1#32) s.grc.rackId (moduleAt s.tray.no i))] })
  ∧ (∀ (s : State) (i : SlotNo) (o b ma : Nat), (slot s i).st = .inrush → b ≤ o + 1000 → o ≤ b + 1000 → ma < 1000 →
    i.val = s.boot.slotId.toNat → s.boot.powered = false →
    Yields (.inrushComplete i o b ma) s fun t =>
      (slot t i).st = .run ∧ t.boot.powered = true ∧ t.boot.powerOnCount = s.boot.powerOnCount + 1#32)
  ∧ (∀ (s : State) (i : SlotNo) (ma : Nat), (slot s i).st = .run → 24000 ≤ ma → i.val ≠ s.boot.slotId.toNat →
    (slot s i).fails.length < 3 →
    Yields (.efuseFastTrip i ma) s fun t =>
      (slot t i).st = .tripped ∧ (slot t i).outMv = 0 ∧ OtherSlots i s t
      ∧ t.out = s.out ++ [.sideband (.slotTrip i.val) (slotWord 0 s)]
      ∧ t = { s with tray := { s.tray with slots := t.tray.slots }, out := t.out })
  ∧ (∀ (s : State) (i : SlotNo) (f : U64), (slot s i).st = .run → i.val ≠ s.boot.slotId.toNat →
    (slot s i).fails.length = 3 → (slot s i).fails.head? = some f → (s.tray.ns - f).toNat ≤ 60000000000 →
    Yields (.efuseLimitTrip i) s fun t =>
      (slot t i).st = .latched ∧ OtherSlots i s t
      ∧ t.out = s.out ++ [.sideband (.slotTrip i.val) (slotWord 1 s), .sideband (.slotLatch i.val) (slotWord 1 s)])
  ∧ (∀ (s : State) (i : SlotNo), (slot s i).st = .inrush → (slot s i).held = false → i.val ≠ s.boot.slotId.toNat →
    (slot s i).fails.length < 3 →
    Yields (.inrushBudgetExpiry i) s fun t =>
      (slot t i).st = .tripped ∧ OtherSlots i s t ∧ t.out = s.out ++ [.sideband (.slotTrip i.val) (slotWord 2 s)])
  ∧ (∀ (s : State) (i : SlotNo), (slot s i).st = .tripped →
    Yields (.slotRetry i) s fun t =>
      (slot t i).st = .inrush ∧ (slot t i).fails = (slot s i).fails ∧ OtherSlots i s t
      ∧ t.out = s.out ++ [.sideband (.slotRetry i.val) (slotWord 0 s)])
  ∧ (∀ (s : State) (i : SlotNo), (slot s i).st ≠ .latched → (slot s i).st ≠ .off → i.val ≠ s.boot.slotId.toNat →
    Yields (.slotOff i) s fun t =>
      (slot t i).st = .off ∧ (slot t i).outMv = 0 ∧ OtherSlots i s t
      ∧ t = { s with tray := { s.tray with slots := t.tray.slots } })
  ∧ (∀ (s : State) (i : SlotNo), (slot s i).st = .latched → (slot s i).since ≠ s.tray.ns →
    Yields (.clearLatch i) s fun t =>
      (slot t i).st = .inrush ∧ (slot t i).fails = [] ∧ OtherSlots i s t
      ∧ t.out = s.out ++ [.sideband (.slotRetry i.val) (slotWord 0 s)])
  ∧ (∀ (s : State) (i : SlotNo), (slot s i).st = .latched → (slot s i).since = s.tray.ns →
    Yields (.clearLatch i) s fun t => t = s)
  ∧ (∀ (s : State) (mv : Nat), mv < 46000 →
    Yields (.busLowHold mv) s fun t =>
      t.tray.busLow = true ∧ t.tray.busMin = min mv s.tray.busMin
      ∧ (∀ i, (slot s i).st = .inrush → (slot t i).held = true ∧ (slot t i).st = .inrush)
      ∧ (∀ i, (slot s i).st ≠ .inrush → slot t i = slot s i) ∧ t = { s with tray := t.tray })
  ∧ (∀ (s : State) (mv : Nat), 50000 < mv →
    Yields (.busRecover mv) s fun t =>
      t.tray.busLow = false ∧ (∀ i, (slot s i).st = .inrush → (slot t i).held = false ∧ (slot t i).st = .inrush)
      ∧ (∀ i, (slot s i).st ≠ .inrush → slot t i = slot s i) ∧ t = { s with tray := t.tray })

/-- The GRC: a change of capacity gives every healthy module its cap; a distribution lowers rates at once under the next
generation, and the raises wait 10 ms where anything was lowered; a fence takes the module out with an order to its slot, a
gentle one lowering its cap to 38 W first; a restart reads the generations and the modules anew; the report holds the
capacity of the healthy modules. A link's far end leads back. -/
def Obligations.RackIsBudgeted : Prop :=
  (∀ (s : State) (sh tr m : Nat), m ∈ healthyMods s → (healthyMods s).Nodup → s.grc.raises = [] →
    Yields (.capacityChange sh tr []) s fun t =>
      t.grc.shelves = sh ∧ t.grc.trays = tr
      ∧ (rackMod t m).cap = min 480 (975 * (planned { s.grc with shelves := sh } - 200 - 1211 * tr) / (1000 * (healthyMods s).length))
      ∧ (rackMod t m).healthy = true ∧ (rackMod t m).up = (rackMod s m).up ∧ t.grc.budgetGen = s.grc.budgetGen
      ∧ t.grc.report = some (capacityOf t) ∧ t = { s with grc := t.grc, out := t.out })
  ∧ (∀ (s : State) (sh tr : Nat) (seen : List ModReport), s.grc.raises ≠ [] →
    Yields (.capacityChange sh tr seen) s fun t =>
      t.grc.budgetGen = s.grc.budgetGen + 1#32 ∧ t.grc.report = some (capacityOf t) ∧ t = { s with grc := t.grc, out := t.out })
  ∧ (∀ (s : State) (m : Nat), m ∈ healthyMods s → (healthyMods s).Nodup →
    Yields (.budgetDistribution []) s fun t =>
      let rate := (s.grc.rackRamp - s.grc.hostAllow) / (healthyMods s).length
      let lower (k : Nat) : Bool := decide (rate < (rackMod s k).up ∨ rate < (rackMod s k).down)
      t.grc.budgetGen = s.grc.budgetGen + 1#32 ∧ (rackMod t m).cap = (rackMod s m).cap
      ∧ (lower m = true ∨ (healthyMods s).any lower = false → (rackMod t m).up = rate ∧ (rackMod t m).down = rate)
      ∧ (lower m = false → (healthyMods s).any lower = true → rackMod t m = rackMod s m ∧ (m, rate) ∈ t.grc.raises
          ∧ t.grc.raiseAt = s.tray.ns + 10000000#64)
      ∧ t = { s with grc := t.grc, out := t.out })
  ∧ (∀ (s : State) (m : Nat) (rate : Nat), s.grc.raises = [(m, rate)] → s.tray.ns = s.grc.raiseAt →
    (rackMod (grcTick s) m).up = rate ∧ (rackMod (grcTick s) m).down = rate ∧ (grcTick s).grc.raises = [])
  ∧ (∀ (s : State) (m : ModNo) (cause : FenceCause), (rackMod s m).fenced = false → (healthyMods s).Nodup →
    Yields (.moduleFence m cause) s fun t =>
      (rackMod t m).fenced = true ∧ (rackMod t m).healthy = false ∧ (.sideband (.slotOffOrder m.val) 0#64) ∈ t.out
      ∧ (gentle cause = true → .sideband (.rampOrder m (rackMod s m).up (rackMod s m).down 38) (s.grc.budgetGen.setWidth 64) ∈ t.out)
      ∧ t.grc.budgetGen = s.grc.budgetGen + 1#32 ∧ t.grc.report = some (capacityOf t)
      ∧ t = { s with grc := t.grc, out := t.out })
  ∧ (∀ (s : State) (bg pg : List U32) (seen : List ModReport) (x : ModReport), x ∈ seen → (seen.map (fun y => y.m)).Nodup →
    trising s.grc.mods = true → (rackMod s x.m).fenced = false →
    Yields (.grcRestart bg pg seen) s fun t =>
      (∀ g ∈ bg, g ≤ t.grc.budgetGen) ∧ (∀ g ∈ pg, g ≤ t.grc.planGen) ∧ (rackMod t x.m).healthy = x.healthy
      ∧ (rackMod t x.m).grains = x.grains ∧ t.grc.report = some (capacityOf t)
      ∧ (s.grc.report ≠ t.grc.report → t.grc.mode = (capacityOf t).mode ∧ .capacity (capacityOf t) ∈ t.out)
      ∧ t = { s with grc := t.grc, out := t.out })
  ∧ (∀ s : State, (capacityOf s).healthy = (healthyMods s).length ∧ (capacityOf s).nearBankGbs = 32 * (capacityOf s).grains
    ∧ (capacityOf s).matrixTenths = 1966 * (capacityOf s).healthy
    ∧ ∀ p ∈ (capacityOf s).unreachable, p.1 ∈ healthyMods s ∧ p.2 ∈ healthyMods s ∧ p.1 ≠ p.2)
  ∧ (∀ (m : Fin 256) (p : Fin 6), farModule m p < 256 ∧ farPort p < 6 ∧ farModule (farModule m p) (farPort p) = m.val
    ∧ farPort (farPort p) = p.val ∧ farModule m p ≠ m.val)

end
end

