-- ==== Sys2Proof/Laws/Tab.lean ====
section
/-! SUPPORT. The laws of sparse tables and of the byte memory: read after write, and the canonical form, which every
memory operation keeps. -/

namespace Sys2Proof.Machine

variable {β : Type}

/-! ### Read after write -/

@[simp] theorem tfind_nil (k : Nat) : tfind ([] : Tab β) k = none := rfl

theorem tfind_cons (j : Nat) (v : β) (t : Tab β) (k : Nat) :
    tfind ((j, v) :: t) k = if j = k then some v else tfind t k := rfl

@[simp] theorem tfind_terase_self (t : Tab β) (k : Nat) : tfind (terase t k) k = none := by
  induction t with
  | nil => rfl
  | cons p t ih =>
    obtain ⟨j, v⟩ := p
    by_cases h : j = k
    · simp [terase, h, ih]
    · simp [terase, h, tfind_cons, ih]

theorem tfind_terase_ne (t : Tab β) (k j : Nat) (h : j ≠ k) : tfind (terase t k) j = tfind t j := by
  induction t with
  | nil => rfl
  | cons p t ih =>
    obtain ⟨i, v⟩ := p
    by_cases hi : i = k
    · have : i ≠ j := by omega
      simp [terase, hi, tfind_cons, ih, show k ≠ j by omega]
    · by_cases hj : i = j <;> simp [terase, hi, hj, tfind_cons, ih, h]

theorem tfind_tinsert_self (t : Tab β) (k : Nat) (v : β) (h : tfind t k = none) : tfind (tinsert t k v) k = some v := by
  induction t with
  | nil => simp [tinsert, tfind_cons]
  | cons p t ih =>
    obtain ⟨j, w⟩ := p
    have hj : j ≠ k := by
      intro e
      simp [tfind_cons, e] at h
    have ht : tfind t k = none := by simpa [tfind_cons, hj] using h
    by_cases hk : k < j
    · simp [tinsert, hk, tfind_cons]
    · simp [tinsert, hk, tfind_cons, hj, ih ht]

theorem tfind_tinsert_ne (t : Tab β) (k j : Nat) (v : β) (h : j ≠ k) : tfind (tinsert t k v) j = tfind t j := by
  induction t with
  | nil => simp [tinsert, tfind_cons, show k ≠ j by omega]
  | cons p t ih =>
    obtain ⟨i, w⟩ := p
    by_cases hk : k < i
    · simp [tinsert, hk, tfind_cons, show k ≠ j by omega]
    · rw [tinsert, if_neg hk, tfind_cons, tfind_cons, ih]

@[simp] theorem tfind_tput_self (t : Tab β) (k : Nat) (v : β) : tfind (tput t k v) k = some v :=
  tfind_tinsert_self _ _ _ (tfind_terase_self t k)

theorem tfind_tput_ne (t : Tab β) (k j : Nat) (v : β) (h : j ≠ k) : tfind (tput t k v) j = tfind t j := by
  rw [tput, tfind_tinsert_ne _ _ _ _ h, tfind_terase_ne _ _ _ h]

@[simp] theorem tget_tput_self (d : β) (t : Tab β) (k : Nat) (v : β) : tget d (tput t k v) k = v := by simp [tget]

theorem tget_tput_ne (d : β) (t : Tab β) (k j : Nat) (v : β) (h : j ≠ k) : tget d (tput t k v) j = tget d t j := by
  simp [tget, tfind_tput_ne _ _ _ _ h]

@[simp] theorem tget_tset_self [DecidableEq β] (d : β) (t : Tab β) (k : Nat) (v : β) : tget d (tset d t k v) k = v := by
  by_cases h : v = d <;> simp [tset, tget, h]

theorem tget_tset_ne [DecidableEq β] (d : β) (t : Tab β) (k j : Nat) (v : β) (h : j ≠ k) :
    tget d (tset d t k v) j = tget d t j := by
  by_cases hv : v = d <;> simp [tset, tget, hv, tfind_terase_ne _ _ _ h, tfind_tput_ne _ _ _ _ h]

/-! ### The canonical form -/

/-- Every key of a table is above k. -/
def tabove (k : Nat) (t : Tab β) : Prop := ∀ p ∈ t, k < p.1

theorem trising_cons (j : Nat) (v : β) (t : Tab β) : trising ((j, v) :: t) = true ↔ tabove j t ∧ trising t = true := by
  induction t generalizing j v with
  | nil => simp [trising, tabove]
  | cons p t ih =>
    obtain ⟨k, w⟩ := p
    have hk := ih k w
    constructor
    · intro h
      have h1 : j < k ∧ trising ((k, w) :: t) = true := by simpa [trising] using h
      refine ⟨?_, h1.2⟩
      intro q hq
      rcases List.mem_cons.mp hq with rfl | hq
      · exact h1.1
      · exact lt_trans h1.1 ((hk.mp h1.2).1 q hq)
    · rintro ⟨ha, hr⟩
      have : j < k := ha (k, w) (List.mem_cons_self)
      simp [trising, this, hr]

theorem mem_terase (t : Tab β) (k : Nat) (p : Nat × β) (h : p ∈ terase t k) : p ∈ t ∧ p.1 ≠ k := by
  induction t with
  | nil => simp [terase] at h
  | cons q t ih =>
    obtain ⟨j, v⟩ := q
    by_cases hj : j = k
    · have := ih (by simpa [terase, hj] using h)
      exact ⟨List.mem_cons_of_mem _ this.1, this.2⟩
    · rcases List.mem_cons.mp (by simpa [terase, hj] using h) with rfl | hm
      · exact ⟨List.mem_cons_self, hj⟩
      · exact ⟨List.mem_cons_of_mem _ (ih hm).1, (ih hm).2⟩

theorem mem_tinsert (t : Tab β) (k : Nat) (v : β) (p : Nat × β) (h : p ∈ tinsert t k v) : p = (k, v) ∨ p ∈ t := by
  induction t with
  | nil => simpa [tinsert] using h
  | cons q t ih =>
    obtain ⟨j, w⟩ := q
    by_cases hk : k < j
    · simpa [tinsert, hk] using h
    · rcases List.mem_cons.mp (by simpa [tinsert, hk] using h) with rfl | hm
      · exact .inr List.mem_cons_self
      · exact (ih hm).imp_right (List.mem_cons_of_mem _)

theorem terase_rising (t : Tab β) (k : Nat) (h : trising t = true) : trising (terase t k) = true := by
  induction t with
  | nil => rfl
  | cons p t ih =>
    obtain ⟨j, v⟩ := p
    have hc := (trising_cons j v t).mp h
    by_cases hj : j = k
    · simpa [terase, hj] using ih hc.2
    · have : trising ((j, v) :: terase t k) = true :=
        (trising_cons j v _).mpr ⟨fun q hq => hc.1 q (mem_terase t k q hq).1, ih hc.2⟩
      simpa [terase, hj] using this

theorem tinsert_rising (t : Tab β) (k : Nat) (v : β) (h : trising t = true) (hk : ∀ p ∈ t, p.1 ≠ k) :
    trising (tinsert t k v) = true := by
  induction t with
  | nil => rfl
  | cons p t ih =>
    obtain ⟨j, w⟩ := p
    have hc := (trising_cons j w t).mp h
    by_cases hlt : k < j
    · have : trising ((k, v) :: (j, w) :: t) = true := by
        refine (trising_cons k v _).mpr ⟨?_, h⟩
        intro q hq
        rcases List.mem_cons.mp hq with rfl | hq
        · exact hlt
        · exact lt_trans hlt (hc.1 q hq)
      simpa [tinsert, hlt] using this
    · have hj : j ≠ k := hk (j, w) List.mem_cons_self
      have : trising ((j, w) :: tinsert t k v) = true := by
        refine (trising_cons j w _).mpr ⟨?_, ih hc.2 (fun q hq => hk q (List.mem_cons_of_mem _ hq))⟩
        intro q hq
        rcases mem_tinsert t k v q hq with rfl | hq
        · change j < k
          omega
        · exact hc.1 q hq
      simpa [tinsert, hlt] using this

theorem tput_rising (t : Tab β) (k : Nat) (v : β) (h : trising t = true) : trising (tput t k v) = true :=
  tinsert_rising _ _ _ (terase_rising t k h) (fun p hp => (mem_terase t k p hp).2)

theorem tset_wf [DecidableEq β] (d : β) (t : Tab β) (k : Nat) (v : β) (h : twf d t = true) : twf d (tset d t k v) = true := by
  simp only [twf, Bool.and_eq_true, List.all_eq_true, decide_eq_true_eq] at h ⊢
  by_cases hv : v = d
  · simp only [tset, hv, if_true]
    exact ⟨terase_rising t k h.1, fun p hp => h.2 p (mem_terase t k p hp).1⟩
  · simp only [tset, hv, if_false]
    refine ⟨tput_rising t k v h.1, fun p hp => ?_⟩
    rcases mem_tinsert _ k v p hp with rfl | hp
    · exact hv
    · exact h.2 p (mem_terase t k p hp).1

theorem filter_rising (t : Tab β) (f : Nat × β → Bool) (h : trising t = true) : trising (t.filter f) = true := by
  induction t with
  | nil => rfl
  | cons p t ih =>
    obtain ⟨j, v⟩ := p
    have hc := (trising_cons j v t).mp h
    by_cases hf : f (j, v) = true
    · have : trising ((j, v) :: t.filter f) = true :=
        (trising_cons j v _).mpr ⟨fun q hq => hc.1 q (List.mem_filter.mp hq).1, ih hc.2⟩
      simpa [hf] using this
    · simpa [hf] using ih hc.2

theorem filter_twf [DecidableEq β] (d : β) (t : Tab β) (f : Nat × β → Bool) (h : twf d t = true) :
    twf d (t.filter f) = true := by
  simp only [twf, Bool.and_eq_true, List.all_eq_true, decide_eq_true_eq] at h ⊢
  exact ⟨filter_rising t f h.1, fun p hp => h.2 p (List.mem_filter.mp hp).1⟩

/-! ### Memory -/

@[simp] theorem byte_setByte_self (m : Memory) (a : Nat) (b : Byte) : Memory.byte (Memory.setByte m a b) a = b := by
  simp [Memory.byte, Memory.setByte]

theorem byte_setByte_ne (m : Memory) (a c : Nat) (b : Byte) (h : c ≠ a) :
    Memory.byte (Memory.setByte m a b) c = Memory.byte m c := tget_tset_ne _ _ _ _ _ h

theorem setByte_wf (m : Memory) (a : Nat) (b : Byte) (h : Memory.wf m = true) : Memory.wf (Memory.setByte m a b) = true :=
  tset_wf _ _ _ _ h

theorem setBytes_wf (m : Memory) (a : Nat) (bs : List Byte) (h : Memory.wf m = true) :
    Memory.wf (Memory.setBytes m a bs) = true := by
  induction bs generalizing m a with
  | nil => exact h
  | cons b bs ih => exact ih _ _ (setByte_wf m a b h)

theorem setCol_wf (m : Memory) (w : Nat) (d : ColData) (h : Memory.wf m = true) : Memory.wf (Memory.setCol m w d) = true :=
  setBytes_wf _ _ _ h

theorem filter_wf (m : Memory) (f : Nat × Byte → Bool) (h : Memory.wf m = true) : Memory.wf (m.filter f) = true :=
  filter_twf _ _ _ h

theorem byte_setBytes_outside (m : Memory) (a c : Nat) (bs : List Byte) (h : c < a ∨ a + bs.length ≤ c) :
    Memory.byte (Memory.setBytes m a bs) c = Memory.byte m c := by
  induction bs generalizing m a with
  | nil => rfl
  | cons b bs ih =>
    have h1 : c ≠ a := by
      intro e
      simp [e] at h
    have h2 : c < a + 1 ∨ a + 1 + bs.length ≤ c := by
      simp only [List.length_cons] at h
      omega
    rw [Memory.setBytes, ih _ _ h2, byte_setByte_ne _ _ _ _ h1]

end Sys2Proof.Machine
end

