-- ==== Sys2Proof/Laws/State.lean ====
section
/-! SUPPORT. What each small update of the state leaves as it was: one lemma for each field, true by rfl; and what a read
by number gives after an update by number. -/

namespace Sys2Proof.Machine

variable (s : State)

/-! ### emit -/

@[simp] theorem emit_pending (o : Out) : (emit o s).pending = s.pending := rfl
@[simp] theorem emit_freeCtr (o : Out) : (emit o s).freeCtr = s.freeCtr := rfl
@[simp] theorem emit_acceptCtr (o : Out) : (emit o s).acceptCtr = s.acceptCtr := rfl
@[simp] theorem emit_clk (o : Out) : (emit o s).clk = s.clk := rfl
@[simp] theorem emit_boot (o : Out) : (emit o s).boot = s.boot := rfl
@[simp] theorem emit_cxl (o : Out) : (emit o s).cxl = s.cxl := rfl
@[simp] theorem emit_fw (o : Out) : (emit o s).fw = s.fw := rfl
@[simp] theorem emit_spdm (o : Out) : (emit o s).spdm = s.spdm := rfl
@[simp] theorem emit_hub (o : Out) : (emit o s).hub = s.hub := rfl
@[simp] theorem emit_dev (o : Out) : (emit o s).dev = s.dev := rfl
@[simp] theorem emit_cnt (o : Out) : (emit o s).cnt = s.cnt := rfl
@[simp] theorem emit_log (o : Out) : (emit o s).log = s.log := rfl
@[simp] theorem emit_rings (o : Out) : (emit o s).rings = s.rings := rfl
@[simp] theorem emit_places (o : Out) : (emit o s).places = s.places := rfl
@[simp] theorem emit_marl (o : Out) : (emit o s).marl = s.marl := rfl
@[simp] theorem emit_bank (o : Out) : (emit o s).bank = s.bank := rfl
@[simp] theorem emit_ctl (o : Out) : (emit o s).ctl = s.ctl := rfl
@[simp] theorem emit_seq (o : Out) : (emit o s).seq = s.seq := rfl
@[simp] theorem emit_eng (o : Out) : (emit o s).eng = s.eng := rfl
@[simp] theorem emit_serve (o : Out) : (emit o s).serve = s.serve := rfl
@[simp] theorem emit_lnk (o : Out) : (emit o s).lnk = s.lnk := rfl
@[simp] theorem emit_pwr (o : Out) : (emit o s).pwr = s.pwr := rfl
@[simp] theorem emit_keep (o : Out) : (emit o s).keep = s.keep := rfl
@[simp] theorem emit_tray (o : Out) : (emit o s).tray = s.tray := rfl
@[simp] theorem emit_grc (o : Out) : (emit o s).grc = s.grc := rfl

/-! ### msix -/

@[simp] theorem msix_pending (f : Func) (v : Fin 8) : (msix f v s).pending = s.pending := rfl
@[simp] theorem msix_freeCtr (f : Func) (v : Fin 8) : (msix f v s).freeCtr = s.freeCtr := rfl
@[simp] theorem msix_acceptCtr (f : Func) (v : Fin 8) : (msix f v s).acceptCtr = s.acceptCtr := rfl
@[simp] theorem msix_clk (f : Func) (v : Fin 8) : (msix f v s).clk = s.clk := rfl
@[simp] theorem msix_boot (f : Func) (v : Fin 8) : (msix f v s).boot = s.boot := rfl
@[simp] theorem msix_cxl (f : Func) (v : Fin 8) : (msix f v s).cxl = s.cxl := rfl
@[simp] theorem msix_fw (f : Func) (v : Fin 8) : (msix f v s).fw = s.fw := rfl
@[simp] theorem msix_spdm (f : Func) (v : Fin 8) : (msix f v s).spdm = s.spdm := rfl
@[simp] theorem msix_hub (f : Func) (v : Fin 8) : (msix f v s).hub = s.hub := rfl
@[simp] theorem msix_dev (f : Func) (v : Fin 8) : (msix f v s).dev = s.dev := rfl
@[simp] theorem msix_cnt (f : Func) (v : Fin 8) : (msix f v s).cnt = s.cnt := rfl
@[simp] theorem msix_log (f : Func) (v : Fin 8) : (msix f v s).log = s.log := rfl
@[simp] theorem msix_rings (f : Func) (v : Fin 8) : (msix f v s).rings = s.rings := rfl
@[simp] theorem msix_places (f : Func) (v : Fin 8) : (msix f v s).places = s.places := rfl
@[simp] theorem msix_marl (f : Func) (v : Fin 8) : (msix f v s).marl = s.marl := rfl
@[simp] theorem msix_bank (f : Func) (v : Fin 8) : (msix f v s).bank = s.bank := rfl
@[simp] theorem msix_ctl (f : Func) (v : Fin 8) : (msix f v s).ctl = s.ctl := rfl
@[simp] theorem msix_seq (f : Func) (v : Fin 8) : (msix f v s).seq = s.seq := rfl
@[simp] theorem msix_eng (f : Func) (v : Fin 8) : (msix f v s).eng = s.eng := rfl
@[simp] theorem msix_serve (f : Func) (v : Fin 8) : (msix f v s).serve = s.serve := rfl
@[simp] theorem msix_lnk (f : Func) (v : Fin 8) : (msix f v s).lnk = s.lnk := rfl
@[simp] theorem msix_pwr (f : Func) (v : Fin 8) : (msix f v s).pwr = s.pwr := rfl
@[simp] theorem msix_keep (f : Func) (v : Fin 8) : (msix f v s).keep = s.keep := rfl
@[simp] theorem msix_tray (f : Func) (v : Fin 8) : (msix f v s).tray = s.tray := rfl
@[simp] theorem msix_grc (f : Func) (v : Fin 8) : (msix f v s).grc = s.grc := rfl

/-! ### takeFree -/

@[simp] theorem takeFree_pending : (takeFree s).pending = s.pending := rfl
@[simp] theorem takeFree_out : (takeFree s).out = s.out := rfl
@[simp] theorem takeFree_acceptCtr : (takeFree s).acceptCtr = s.acceptCtr := rfl
@[simp] theorem takeFree_clk : (takeFree s).clk = s.clk := rfl
@[simp] theorem takeFree_boot : (takeFree s).boot = s.boot := rfl
@[simp] theorem takeFree_cxl : (takeFree s).cxl = s.cxl := rfl
@[simp] theorem takeFree_fw : (takeFree s).fw = s.fw := rfl
@[simp] theorem takeFree_spdm : (takeFree s).spdm = s.spdm := rfl
@[simp] theorem takeFree_hub : (takeFree s).hub = s.hub := rfl
@[simp] theorem takeFree_dev : (takeFree s).dev = s.dev := rfl
@[simp] theorem takeFree_cnt : (takeFree s).cnt = s.cnt := rfl
@[simp] theorem takeFree_log : (takeFree s).log = s.log := rfl
@[simp] theorem takeFree_rings : (takeFree s).rings = s.rings := rfl
@[simp] theorem takeFree_places : (takeFree s).places = s.places := rfl
@[simp] theorem takeFree_marl : (takeFree s).marl = s.marl := rfl
@[simp] theorem takeFree_bank : (takeFree s).bank = s.bank := rfl
@[simp] theorem takeFree_ctl : (takeFree s).ctl = s.ctl := rfl
@[simp] theorem takeFree_seq : (takeFree s).seq = s.seq := rfl
@[simp] theorem takeFree_eng : (takeFree s).eng = s.eng := rfl
@[simp] theorem takeFree_serve : (takeFree s).serve = s.serve := rfl
@[simp] theorem takeFree_lnk : (takeFree s).lnk = s.lnk := rfl
@[simp] theorem takeFree_pwr : (takeFree s).pwr = s.pwr := rfl
@[simp] theorem takeFree_keep : (takeFree s).keep = s.keep := rfl
@[simp] theorem takeFree_tray : (takeFree s).tray = s.tray := rfl
@[simp] theorem takeFree_grc : (takeFree s).grc = s.grc := rfl

/-! ### bump -/

@[simp] theorem bump_pending (i : Nat) : (bump i s).pending = s.pending := rfl
@[simp] theorem bump_out (i : Nat) : (bump i s).out = s.out := rfl
@[simp] theorem bump_freeCtr (i : Nat) : (bump i s).freeCtr = s.freeCtr := rfl
@[simp] theorem bump_acceptCtr (i : Nat) : (bump i s).acceptCtr = s.acceptCtr := rfl
@[simp] theorem bump_clk (i : Nat) : (bump i s).clk = s.clk := rfl
@[simp] theorem bump_boot (i : Nat) : (bump i s).boot = s.boot := rfl
@[simp] theorem bump_cxl (i : Nat) : (bump i s).cxl = s.cxl := rfl
@[simp] theorem bump_fw (i : Nat) : (bump i s).fw = s.fw := rfl
@[simp] theorem bump_spdm (i : Nat) : (bump i s).spdm = s.spdm := rfl
@[simp] theorem bump_hub (i : Nat) : (bump i s).hub = s.hub := rfl
@[simp] theorem bump_dev (i : Nat) : (bump i s).dev = s.dev := rfl
@[simp] theorem bump_log (i : Nat) : (bump i s).log = s.log := rfl
@[simp] theorem bump_rings (i : Nat) : (bump i s).rings = s.rings := rfl
@[simp] theorem bump_places (i : Nat) : (bump i s).places = s.places := rfl
@[simp] theorem bump_marl (i : Nat) : (bump i s).marl = s.marl := rfl
@[simp] theorem bump_bank (i : Nat) : (bump i s).bank = s.bank := rfl
@[simp] theorem bump_ctl (i : Nat) : (bump i s).ctl = s.ctl := rfl
@[simp] theorem bump_seq (i : Nat) : (bump i s).seq = s.seq := rfl
@[simp] theorem bump_eng (i : Nat) : (bump i s).eng = s.eng := rfl
@[simp] theorem bump_serve (i : Nat) : (bump i s).serve = s.serve := rfl
@[simp] theorem bump_lnk (i : Nat) : (bump i s).lnk = s.lnk := rfl
@[simp] theorem bump_pwr (i : Nat) : (bump i s).pwr = s.pwr := rfl
@[simp] theorem bump_keep (i : Nat) : (bump i s).keep = s.keep := rfl
@[simp] theorem bump_tray (i : Nat) : (bump i s).tray = s.tray := rfl
@[simp] theorem bump_grc (i : Nat) : (bump i s).grc = s.grc := rfl

/-! ### bumpBy -/

@[simp] theorem bumpBy_pending (i n : Nat) : (bumpBy i n s).pending = s.pending := rfl
@[simp] theorem bumpBy_out (i n : Nat) : (bumpBy i n s).out = s.out := rfl
@[simp] theorem bumpBy_freeCtr (i n : Nat) : (bumpBy i n s).freeCtr = s.freeCtr := rfl
@[simp] theorem bumpBy_acceptCtr (i n : Nat) : (bumpBy i n s).acceptCtr = s.acceptCtr := rfl
@[simp] theorem bumpBy_clk (i n : Nat) : (bumpBy i n s).clk = s.clk := rfl
@[simp] theorem bumpBy_boot (i n : Nat) : (bumpBy i n s).boot = s.boot := rfl
@[simp] theorem bumpBy_cxl (i n : Nat) : (bumpBy i n s).cxl = s.cxl := rfl
@[simp] theorem bumpBy_fw (i n : Nat) : (bumpBy i n s).fw = s.fw := rfl
@[simp] theorem bumpBy_spdm (i n : Nat) : (bumpBy i n s).spdm = s.spdm := rfl
@[simp] theorem bumpBy_hub (i n : Nat) : (bumpBy i n s).hub = s.hub := rfl
@[simp] theorem bumpBy_dev (i n : Nat) : (bumpBy i n s).dev = s.dev := rfl
@[simp] theorem bumpBy_log (i n : Nat) : (bumpBy i n s).log = s.log := rfl
@[simp] theorem bumpBy_rings (i n : Nat) : (bumpBy i n s).rings = s.rings := rfl
@[simp] theorem bumpBy_places (i n : Nat) : (bumpBy i n s).places = s.places := rfl
@[simp] theorem bumpBy_marl (i n : Nat) : (bumpBy i n s).marl = s.marl := rfl
@[simp] theorem bumpBy_bank (i n : Nat) : (bumpBy i n s).bank = s.bank := rfl
@[simp] theorem bumpBy_ctl (i n : Nat) : (bumpBy i n s).ctl = s.ctl := rfl
@[simp] theorem bumpBy_seq (i n : Nat) : (bumpBy i n s).seq = s.seq := rfl
@[simp] theorem bumpBy_eng (i n : Nat) : (bumpBy i n s).eng = s.eng := rfl
@[simp] theorem bumpBy_serve (i n : Nat) : (bumpBy i n s).serve = s.serve := rfl
@[simp] theorem bumpBy_lnk (i n : Nat) : (bumpBy i n s).lnk = s.lnk := rfl
@[simp] theorem bumpBy_pwr (i n : Nat) : (bumpBy i n s).pwr = s.pwr := rfl
@[simp] theorem bumpBy_keep (i n : Nat) : (bumpBy i n s).keep = s.keep := rfl
@[simp] theorem bumpBy_tray (i n : Nat) : (bumpBy i n s).tray = s.tray := rfl
@[simp] theorem bumpBy_grc (i n : Nat) : (bumpBy i n s).grc = s.grc := rfl

/-! ### bumpFuncBy -/

@[simp] theorem bumpFuncBy_pending (f : Func) (i n : Nat) : (bumpFuncBy f i n s).pending = s.pending := rfl
@[simp] theorem bumpFuncBy_out (f : Func) (i n : Nat) : (bumpFuncBy f i n s).out = s.out := rfl
@[simp] theorem bumpFuncBy_freeCtr (f : Func) (i n : Nat) : (bumpFuncBy f i n s).freeCtr = s.freeCtr := rfl
@[simp] theorem bumpFuncBy_acceptCtr (f : Func) (i n : Nat) : (bumpFuncBy f i n s).acceptCtr = s.acceptCtr := rfl
@[simp] theorem bumpFuncBy_clk (f : Func) (i n : Nat) : (bumpFuncBy f i n s).clk = s.clk := rfl
@[simp] theorem bumpFuncBy_boot (f : Func) (i n : Nat) : (bumpFuncBy f i n s).boot = s.boot := rfl
@[simp] theorem bumpFuncBy_cxl (f : Func) (i n : Nat) : (bumpFuncBy f i n s).cxl = s.cxl := rfl
@[simp] theorem bumpFuncBy_fw (f : Func) (i n : Nat) : (bumpFuncBy f i n s).fw = s.fw := rfl
@[simp] theorem bumpFuncBy_spdm (f : Func) (i n : Nat) : (bumpFuncBy f i n s).spdm = s.spdm := rfl
@[simp] theorem bumpFuncBy_hub (f : Func) (i n : Nat) : (bumpFuncBy f i n s).hub = s.hub := rfl
@[simp] theorem bumpFuncBy_dev (f : Func) (i n : Nat) : (bumpFuncBy f i n s).dev = s.dev := rfl
@[simp] theorem bumpFuncBy_log (f : Func) (i n : Nat) : (bumpFuncBy f i n s).log = s.log := rfl
@[simp] theorem bumpFuncBy_rings (f : Func) (i n : Nat) : (bumpFuncBy f i n s).rings = s.rings := rfl
@[simp] theorem bumpFuncBy_places (f : Func) (i n : Nat) : (bumpFuncBy f i n s).places = s.places := rfl
@[simp] theorem bumpFuncBy_marl (f : Func) (i n : Nat) : (bumpFuncBy f i n s).marl = s.marl := rfl
@[simp] theorem bumpFuncBy_bank (f : Func) (i n : Nat) : (bumpFuncBy f i n s).bank = s.bank := rfl
@[simp] theorem bumpFuncBy_ctl (f : Func) (i n : Nat) : (bumpFuncBy f i n s).ctl = s.ctl := rfl
@[simp] theorem bumpFuncBy_seq (f : Func) (i n : Nat) : (bumpFuncBy f i n s).seq = s.seq := rfl
@[simp] theorem bumpFuncBy_eng (f : Func) (i n : Nat) : (bumpFuncBy f i n s).eng = s.eng := rfl
@[simp] theorem bumpFuncBy_serve (f : Func) (i n : Nat) : (bumpFuncBy f i n s).serve = s.serve := rfl
@[simp] theorem bumpFuncBy_lnk (f : Func) (i n : Nat) : (bumpFuncBy f i n s).lnk = s.lnk := rfl
@[simp] theorem bumpFuncBy_pwr (f : Func) (i n : Nat) : (bumpFuncBy f i n s).pwr = s.pwr := rfl
@[simp] theorem bumpFuncBy_keep (f : Func) (i n : Nat) : (bumpFuncBy f i n s).keep = s.keep := rfl
@[simp] theorem bumpFuncBy_tray (f : Func) (i n : Nat) : (bumpFuncBy f i n s).tray = s.tray := rfl
@[simp] theorem bumpFuncBy_grc (f : Func) (i n : Nat) : (bumpFuncBy f i n s).grc = s.grc := rfl

/-! ### countEv -/

@[simp] theorem countEv_pending (src inst : Nat) (f : Option Func) (n : Nat) : (countEv src inst f n s).pending = s.pending := rfl
@[simp] theorem countEv_out (src inst : Nat) (f : Option Func) (n : Nat) : (countEv src inst f n s).out = s.out := rfl
@[simp] theorem countEv_freeCtr (src inst : Nat) (f : Option Func) (n : Nat) : (countEv src inst f n s).freeCtr = s.freeCtr := rfl
@[simp] theorem countEv_acceptCtr (src inst : Nat) (f : Option Func) (n : Nat) : (countEv src inst f n s).acceptCtr = s.acceptCtr := rfl
@[simp] theorem countEv_clk (src inst : Nat) (f : Option Func) (n : Nat) : (countEv src inst f n s).clk = s.clk := rfl
@[simp] theorem countEv_boot (src inst : Nat) (f : Option Func) (n : Nat) : (countEv src inst f n s).boot = s.boot := rfl
@[simp] theorem countEv_cxl (src inst : Nat) (f : Option Func) (n : Nat) : (countEv src inst f n s).cxl = s.cxl := rfl
@[simp] theorem countEv_fw (src inst : Nat) (f : Option Func) (n : Nat) : (countEv src inst f n s).fw = s.fw := rfl
@[simp] theorem countEv_spdm (src inst : Nat) (f : Option Func) (n : Nat) : (countEv src inst f n s).spdm = s.spdm := rfl
@[simp] theorem countEv_hub (src inst : Nat) (f : Option Func) (n : Nat) : (countEv src inst f n s).hub = s.hub := rfl
@[simp] theorem countEv_dev (src inst : Nat) (f : Option Func) (n : Nat) : (countEv src inst f n s).dev = s.dev := rfl
@[simp] theorem countEv_log (src inst : Nat) (f : Option Func) (n : Nat) : (countEv src inst f n s).log = s.log := rfl
@[simp] theorem countEv_rings (src inst : Nat) (f : Option Func) (n : Nat) : (countEv src inst f n s).rings = s.rings := rfl
@[simp] theorem countEv_places (src inst : Nat) (f : Option Func) (n : Nat) : (countEv src inst f n s).places = s.places := rfl
@[simp] theorem countEv_marl (src inst : Nat) (f : Option Func) (n : Nat) : (countEv src inst f n s).marl = s.marl := rfl
@[simp] theorem countEv_bank (src inst : Nat) (f : Option Func) (n : Nat) : (countEv src inst f n s).bank = s.bank := rfl
@[simp] theorem countEv_ctl (src inst : Nat) (f : Option Func) (n : Nat) : (countEv src inst f n s).ctl = s.ctl := rfl
@[simp] theorem countEv_seq (src inst : Nat) (f : Option Func) (n : Nat) : (countEv src inst f n s).seq = s.seq := rfl
@[simp] theorem countEv_eng (src inst : Nat) (f : Option Func) (n : Nat) : (countEv src inst f n s).eng = s.eng := rfl
@[simp] theorem countEv_serve (src inst : Nat) (f : Option Func) (n : Nat) : (countEv src inst f n s).serve = s.serve := rfl
@[simp] theorem countEv_lnk (src inst : Nat) (f : Option Func) (n : Nat) : (countEv src inst f n s).lnk = s.lnk := rfl
@[simp] theorem countEv_pwr (src inst : Nat) (f : Option Func) (n : Nat) : (countEv src inst f n s).pwr = s.pwr := rfl
@[simp] theorem countEv_keep (src inst : Nat) (f : Option Func) (n : Nat) : (countEv src inst f n s).keep = s.keep := rfl
@[simp] theorem countEv_tray (src inst : Nat) (f : Option Func) (n : Nat) : (countEv src inst f n s).tray = s.tray := rfl
@[simp] theorem countEv_grc (src inst : Nat) (f : Option Func) (n : Nat) : (countEv src inst f n s).grc = s.grc := rfl

/-! ### plogAdd -/

@[simp] theorem plogAdd_pending (loc : U16) (info : Nat) : (plogAdd loc info s).pending = s.pending := by simp only [plogAdd]
@[simp] theorem plogAdd_out (loc : U16) (info : Nat) : (plogAdd loc info s).out = s.out := by simp only [plogAdd]
@[simp] theorem plogAdd_freeCtr (loc : U16) (info : Nat) : (plogAdd loc info s).freeCtr = s.freeCtr := by simp only [plogAdd]
@[simp] theorem plogAdd_acceptCtr (loc : U16) (info : Nat) : (plogAdd loc info s).acceptCtr = s.acceptCtr := by simp only [plogAdd]
@[simp] theorem plogAdd_clk (loc : U16) (info : Nat) : (plogAdd loc info s).clk = s.clk := by simp only [plogAdd]
@[simp] theorem plogAdd_boot (loc : U16) (info : Nat) : (plogAdd loc info s).boot = s.boot := by simp only [plogAdd]
@[simp] theorem plogAdd_cxl (loc : U16) (info : Nat) : (plogAdd loc info s).cxl = s.cxl := by simp only [plogAdd]
@[simp] theorem plogAdd_fw (loc : U16) (info : Nat) : (plogAdd loc info s).fw = s.fw := by simp only [plogAdd]
@[simp] theorem plogAdd_spdm (loc : U16) (info : Nat) : (plogAdd loc info s).spdm = s.spdm := by simp only [plogAdd]
@[simp] theorem plogAdd_hub (loc : U16) (info : Nat) : (plogAdd loc info s).hub = s.hub := by simp only [plogAdd]
@[simp] theorem plogAdd_dev (loc : U16) (info : Nat) : (plogAdd loc info s).dev = s.dev := by simp only [plogAdd]
@[simp] theorem plogAdd_cnt (loc : U16) (info : Nat) : (plogAdd loc info s).cnt = s.cnt := by simp only [plogAdd]
@[simp] theorem plogAdd_rings (loc : U16) (info : Nat) : (plogAdd loc info s).rings = s.rings := by simp only [plogAdd]
@[simp] theorem plogAdd_places (loc : U16) (info : Nat) : (plogAdd loc info s).places = s.places := by simp only [plogAdd]
@[simp] theorem plogAdd_marl (loc : U16) (info : Nat) : (plogAdd loc info s).marl = s.marl := by simp only [plogAdd]
@[simp] theorem plogAdd_bank (loc : U16) (info : Nat) : (plogAdd loc info s).bank = s.bank := by simp only [plogAdd]
@[simp] theorem plogAdd_ctl (loc : U16) (info : Nat) : (plogAdd loc info s).ctl = s.ctl := by simp only [plogAdd]
@[simp] theorem plogAdd_seq (loc : U16) (info : Nat) : (plogAdd loc info s).seq = s.seq := by simp only [plogAdd]
@[simp] theorem plogAdd_eng (loc : U16) (info : Nat) : (plogAdd loc info s).eng = s.eng := by simp only [plogAdd]
@[simp] theorem plogAdd_serve (loc : U16) (info : Nat) : (plogAdd loc info s).serve = s.serve := by simp only [plogAdd]
@[simp] theorem plogAdd_lnk (loc : U16) (info : Nat) : (plogAdd loc info s).lnk = s.lnk := by simp only [plogAdd]
@[simp] theorem plogAdd_pwr (loc : U16) (info : Nat) : (plogAdd loc info s).pwr = s.pwr := by simp only [plogAdd]
@[simp] theorem plogAdd_keep (loc : U16) (info : Nat) : (plogAdd loc info s).keep = s.keep := by simp only [plogAdd]
@[simp] theorem plogAdd_tray (loc : U16) (info : Nat) : (plogAdd loc info s).tray = s.tray := by simp only [plogAdd]
@[simp] theorem plogAdd_grc (loc : U16) (info : Nat) : (plogAdd loc info s).grc = s.grc := by simp only [plogAdd]

/-! ### setRing -/

@[simp] theorem setRing_pending (f : Func) (r : Ring) : (setRing f r s).pending = s.pending := rfl
@[simp] theorem setRing_out (f : Func) (r : Ring) : (setRing f r s).out = s.out := rfl
@[simp] theorem setRing_freeCtr (f : Func) (r : Ring) : (setRing f r s).freeCtr = s.freeCtr := rfl
@[simp] theorem setRing_acceptCtr (f : Func) (r : Ring) : (setRing f r s).acceptCtr = s.acceptCtr := rfl
@[simp] theorem setRing_clk (f : Func) (r : Ring) : (setRing f r s).clk = s.clk := rfl
@[simp] theorem setRing_boot (f : Func) (r : Ring) : (setRing f r s).boot = s.boot := rfl
@[simp] theorem setRing_cxl (f : Func) (r : Ring) : (setRing f r s).cxl = s.cxl := rfl
@[simp] theorem setRing_fw (f : Func) (r : Ring) : (setRing f r s).fw = s.fw := rfl
@[simp] theorem setRing_spdm (f : Func) (r : Ring) : (setRing f r s).spdm = s.spdm := rfl
@[simp] theorem setRing_hub (f : Func) (r : Ring) : (setRing f r s).hub = s.hub := rfl
@[simp] theorem setRing_dev (f : Func) (r : Ring) : (setRing f r s).dev = s.dev := rfl
@[simp] theorem setRing_cnt (f : Func) (r : Ring) : (setRing f r s).cnt = s.cnt := rfl
@[simp] theorem setRing_log (f : Func) (r : Ring) : (setRing f r s).log = s.log := rfl
@[simp] theorem setRing_places (f : Func) (r : Ring) : (setRing f r s).places = s.places := rfl
@[simp] theorem setRing_marl (f : Func) (r : Ring) : (setRing f r s).marl = s.marl := rfl
@[simp] theorem setRing_bank (f : Func) (r : Ring) : (setRing f r s).bank = s.bank := rfl
@[simp] theorem setRing_ctl (f : Func) (r : Ring) : (setRing f r s).ctl = s.ctl := rfl
@[simp] theorem setRing_seq (f : Func) (r : Ring) : (setRing f r s).seq = s.seq := rfl
@[simp] theorem setRing_eng (f : Func) (r : Ring) : (setRing f r s).eng = s.eng := rfl
@[simp] theorem setRing_serve (f : Func) (r : Ring) : (setRing f r s).serve = s.serve := rfl
@[simp] theorem setRing_lnk (f : Func) (r : Ring) : (setRing f r s).lnk = s.lnk := rfl
@[simp] theorem setRing_pwr (f : Func) (r : Ring) : (setRing f r s).pwr = s.pwr := rfl
@[simp] theorem setRing_keep (f : Func) (r : Ring) : (setRing f r s).keep = s.keep := rfl
@[simp] theorem setRing_tray (f : Func) (r : Ring) : (setRing f r s).tray = s.tray := rfl
@[simp] theorem setRing_grc (f : Func) (r : Ring) : (setRing f r s).grc = s.grc := rfl

/-! ### setDesc -/

@[simp] theorem setDesc_pending (p : Place) (d : Desc) : (setDesc p d s).pending = s.pending := rfl
@[simp] theorem setDesc_out (p : Place) (d : Desc) : (setDesc p d s).out = s.out := rfl
@[simp] theorem setDesc_freeCtr (p : Place) (d : Desc) : (setDesc p d s).freeCtr = s.freeCtr := rfl
@[simp] theorem setDesc_acceptCtr (p : Place) (d : Desc) : (setDesc p d s).acceptCtr = s.acceptCtr := rfl
@[simp] theorem setDesc_clk (p : Place) (d : Desc) : (setDesc p d s).clk = s.clk := rfl
@[simp] theorem setDesc_boot (p : Place) (d : Desc) : (setDesc p d s).boot = s.boot := rfl
@[simp] theorem setDesc_cxl (p : Place) (d : Desc) : (setDesc p d s).cxl = s.cxl := rfl
@[simp] theorem setDesc_fw (p : Place) (d : Desc) : (setDesc p d s).fw = s.fw := rfl
@[simp] theorem setDesc_spdm (p : Place) (d : Desc) : (setDesc p d s).spdm = s.spdm := rfl
@[simp] theorem setDesc_hub (p : Place) (d : Desc) : (setDesc p d s).hub = s.hub := rfl
@[simp] theorem setDesc_dev (p : Place) (d : Desc) : (setDesc p d s).dev = s.dev := rfl
@[simp] theorem setDesc_cnt (p : Place) (d : Desc) : (setDesc p d s).cnt = s.cnt := rfl
@[simp] theorem setDesc_log (p : Place) (d : Desc) : (setDesc p d s).log = s.log := rfl
@[simp] theorem setDesc_rings (p : Place) (d : Desc) : (setDesc p d s).rings = s.rings := rfl
@[simp] theorem setDesc_marl (p : Place) (d : Desc) : (setDesc p d s).marl = s.marl := rfl
@[simp] theorem setDesc_bank (p : Place) (d : Desc) : (setDesc p d s).bank = s.bank := rfl
@[simp] theorem setDesc_ctl (p : Place) (d : Desc) : (setDesc p d s).ctl = s.ctl := rfl
@[simp] theorem setDesc_seq (p : Place) (d : Desc) : (setDesc p d s).seq = s.seq := rfl
@[simp] theorem setDesc_eng (p : Place) (d : Desc) : (setDesc p d s).eng = s.eng := rfl
@[simp] theorem setDesc_serve (p : Place) (d : Desc) : (setDesc p d s).serve = s.serve := rfl
@[simp] theorem setDesc_lnk (p : Place) (d : Desc) : (setDesc p d s).lnk = s.lnk := rfl
@[simp] theorem setDesc_pwr (p : Place) (d : Desc) : (setDesc p d s).pwr = s.pwr := rfl
@[simp] theorem setDesc_keep (p : Place) (d : Desc) : (setDesc p d s).keep = s.keep := rfl
@[simp] theorem setDesc_tray (p : Place) (d : Desc) : (setDesc p d s).tray = s.tray := rfl
@[simp] theorem setDesc_grc (p : Place) (d : Desc) : (setDesc p d s).grc = s.grc := rfl

/-! ### freePlace -/

@[simp] theorem freePlace_pending (p : Place) : (freePlace p s).pending = s.pending := rfl
@[simp] theorem freePlace_out (p : Place) : (freePlace p s).out = s.out := rfl
@[simp] theorem freePlace_freeCtr (p : Place) : (freePlace p s).freeCtr = s.freeCtr := rfl
@[simp] theorem freePlace_acceptCtr (p : Place) : (freePlace p s).acceptCtr = s.acceptCtr := rfl
@[simp] theorem freePlace_clk (p : Place) : (freePlace p s).clk = s.clk := rfl
@[simp] theorem freePlace_boot (p : Place) : (freePlace p s).boot = s.boot := rfl
@[simp] theorem freePlace_cxl (p : Place) : (freePlace p s).cxl = s.cxl := rfl
@[simp] theorem freePlace_fw (p : Place) : (freePlace p s).fw = s.fw := rfl
@[simp] theorem freePlace_spdm (p : Place) : (freePlace p s).spdm = s.spdm := rfl
@[simp] theorem freePlace_hub (p : Place) : (freePlace p s).hub = s.hub := rfl
@[simp] theorem freePlace_dev (p : Place) : (freePlace p s).dev = s.dev := rfl
@[simp] theorem freePlace_cnt (p : Place) : (freePlace p s).cnt = s.cnt := rfl
@[simp] theorem freePlace_log (p : Place) : (freePlace p s).log = s.log := rfl
@[simp] theorem freePlace_rings (p : Place) : (freePlace p s).rings = s.rings := rfl
@[simp] theorem freePlace_marl (p : Place) : (freePlace p s).marl = s.marl := rfl
@[simp] theorem freePlace_bank (p : Place) : (freePlace p s).bank = s.bank := rfl
@[simp] theorem freePlace_ctl (p : Place) : (freePlace p s).ctl = s.ctl := rfl
@[simp] theorem freePlace_seq (p : Place) : (freePlace p s).seq = s.seq := rfl
@[simp] theorem freePlace_eng (p : Place) : (freePlace p s).eng = s.eng := rfl
@[simp] theorem freePlace_serve (p : Place) : (freePlace p s).serve = s.serve := rfl
@[simp] theorem freePlace_lnk (p : Place) : (freePlace p s).lnk = s.lnk := rfl
@[simp] theorem freePlace_pwr (p : Place) : (freePlace p s).pwr = s.pwr := rfl
@[simp] theorem freePlace_keep (p : Place) : (freePlace p s).keep = s.keep := rfl
@[simp] theorem freePlace_tray (p : Place) : (freePlace p s).tray = s.tray := rfl
@[simp] theorem freePlace_grc (p : Place) : (freePlace p s).grc = s.grc := rfl

/-! ### setGrain -/

@[simp] theorem setGrain_pending (g : Nat) (x : Grain) : (setGrain g x s).pending = s.pending := rfl
@[simp] theorem setGrain_out (g : Nat) (x : Grain) : (setGrain g x s).out = s.out := rfl
@[simp] theorem setGrain_freeCtr (g : Nat) (x : Grain) : (setGrain g x s).freeCtr = s.freeCtr := rfl
@[simp] theorem setGrain_acceptCtr (g : Nat) (x : Grain) : (setGrain g x s).acceptCtr = s.acceptCtr := rfl
@[simp] theorem setGrain_clk (g : Nat) (x : Grain) : (setGrain g x s).clk = s.clk := rfl
@[simp] theorem setGrain_boot (g : Nat) (x : Grain) : (setGrain g x s).boot = s.boot := rfl
@[simp] theorem setGrain_cxl (g : Nat) (x : Grain) : (setGrain g x s).cxl = s.cxl := rfl
@[simp] theorem setGrain_fw (g : Nat) (x : Grain) : (setGrain g x s).fw = s.fw := rfl
@[simp] theorem setGrain_spdm (g : Nat) (x : Grain) : (setGrain g x s).spdm = s.spdm := rfl
@[simp] theorem setGrain_hub (g : Nat) (x : Grain) : (setGrain g x s).hub = s.hub := rfl
@[simp] theorem setGrain_dev (g : Nat) (x : Grain) : (setGrain g x s).dev = s.dev := rfl
@[simp] theorem setGrain_cnt (g : Nat) (x : Grain) : (setGrain g x s).cnt = s.cnt := rfl
@[simp] theorem setGrain_log (g : Nat) (x : Grain) : (setGrain g x s).log = s.log := rfl
@[simp] theorem setGrain_rings (g : Nat) (x : Grain) : (setGrain g x s).rings = s.rings := rfl
@[simp] theorem setGrain_places (g : Nat) (x : Grain) : (setGrain g x s).places = s.places := rfl
@[simp] theorem setGrain_marl (g : Nat) (x : Grain) : (setGrain g x s).marl = s.marl := rfl
@[simp] theorem setGrain_ctl (g : Nat) (x : Grain) : (setGrain g x s).ctl = s.ctl := rfl
@[simp] theorem setGrain_seq (g : Nat) (x : Grain) : (setGrain g x s).seq = s.seq := rfl
@[simp] theorem setGrain_eng (g : Nat) (x : Grain) : (setGrain g x s).eng = s.eng := rfl
@[simp] theorem setGrain_serve (g : Nat) (x : Grain) : (setGrain g x s).serve = s.serve := rfl
@[simp] theorem setGrain_lnk (g : Nat) (x : Grain) : (setGrain g x s).lnk = s.lnk := rfl
@[simp] theorem setGrain_pwr (g : Nat) (x : Grain) : (setGrain g x s).pwr = s.pwr := rfl
@[simp] theorem setGrain_keep (g : Nat) (x : Grain) : (setGrain g x s).keep = s.keep := rfl
@[simp] theorem setGrain_tray (g : Nat) (x : Grain) : (setGrain g x s).tray = s.tray := rfl
@[simp] theorem setGrain_grc (g : Nat) (x : Grain) : (setGrain g x s).grc = s.grc := rfl

/-! ### setDie -/

@[simp] theorem setDie_pending (i : Nat) (x : DieSt) : (setDie i x s).pending = s.pending := rfl
@[simp] theorem setDie_out (i : Nat) (x : DieSt) : (setDie i x s).out = s.out := rfl
@[simp] theorem setDie_freeCtr (i : Nat) (x : DieSt) : (setDie i x s).freeCtr = s.freeCtr := rfl
@[simp] theorem setDie_acceptCtr (i : Nat) (x : DieSt) : (setDie i x s).acceptCtr = s.acceptCtr := rfl
@[simp] theorem setDie_clk (i : Nat) (x : DieSt) : (setDie i x s).clk = s.clk := rfl
@[simp] theorem setDie_boot (i : Nat) (x : DieSt) : (setDie i x s).boot = s.boot := rfl
@[simp] theorem setDie_cxl (i : Nat) (x : DieSt) : (setDie i x s).cxl = s.cxl := rfl
@[simp] theorem setDie_fw (i : Nat) (x : DieSt) : (setDie i x s).fw = s.fw := rfl
@[simp] theorem setDie_spdm (i : Nat) (x : DieSt) : (setDie i x s).spdm = s.spdm := rfl
@[simp] theorem setDie_hub (i : Nat) (x : DieSt) : (setDie i x s).hub = s.hub := rfl
@[simp] theorem setDie_dev (i : Nat) (x : DieSt) : (setDie i x s).dev = s.dev := rfl
@[simp] theorem setDie_cnt (i : Nat) (x : DieSt) : (setDie i x s).cnt = s.cnt := rfl
@[simp] theorem setDie_log (i : Nat) (x : DieSt) : (setDie i x s).log = s.log := rfl
@[simp] theorem setDie_rings (i : Nat) (x : DieSt) : (setDie i x s).rings = s.rings := rfl
@[simp] theorem setDie_places (i : Nat) (x : DieSt) : (setDie i x s).places = s.places := rfl
@[simp] theorem setDie_marl (i : Nat) (x : DieSt) : (setDie i x s).marl = s.marl := rfl
@[simp] theorem setDie_ctl (i : Nat) (x : DieSt) : (setDie i x s).ctl = s.ctl := rfl
@[simp] theorem setDie_seq (i : Nat) (x : DieSt) : (setDie i x s).seq = s.seq := rfl
@[simp] theorem setDie_eng (i : Nat) (x : DieSt) : (setDie i x s).eng = s.eng := rfl
@[simp] theorem setDie_serve (i : Nat) (x : DieSt) : (setDie i x s).serve = s.serve := rfl
@[simp] theorem setDie_lnk (i : Nat) (x : DieSt) : (setDie i x s).lnk = s.lnk := rfl
@[simp] theorem setDie_pwr (i : Nat) (x : DieSt) : (setDie i x s).pwr = s.pwr := rfl
@[simp] theorem setDie_keep (i : Nat) (x : DieSt) : (setDie i x s).keep = s.keep := rfl
@[simp] theorem setDie_tray (i : Nat) (x : DieSt) : (setDie i x s).tray = s.tray := rfl
@[simp] theorem setDie_grc (i : Nat) (x : DieSt) : (setDie i x s).grc = s.grc := rfl

/-! ### setBc -/

@[simp] theorem setBc_pending (c : Nat) (b : Bc) : (setBc c b s).pending = s.pending := rfl
@[simp] theorem setBc_out (c : Nat) (b : Bc) : (setBc c b s).out = s.out := rfl
@[simp] theorem setBc_freeCtr (c : Nat) (b : Bc) : (setBc c b s).freeCtr = s.freeCtr := rfl
@[simp] theorem setBc_acceptCtr (c : Nat) (b : Bc) : (setBc c b s).acceptCtr = s.acceptCtr := rfl
@[simp] theorem setBc_clk (c : Nat) (b : Bc) : (setBc c b s).clk = s.clk := rfl
@[simp] theorem setBc_boot (c : Nat) (b : Bc) : (setBc c b s).boot = s.boot := rfl
@[simp] theorem setBc_cxl (c : Nat) (b : Bc) : (setBc c b s).cxl = s.cxl := rfl
@[simp] theorem setBc_fw (c : Nat) (b : Bc) : (setBc c b s).fw = s.fw := rfl
@[simp] theorem setBc_spdm (c : Nat) (b : Bc) : (setBc c b s).spdm = s.spdm := rfl
@[simp] theorem setBc_hub (c : Nat) (b : Bc) : (setBc c b s).hub = s.hub := rfl
@[simp] theorem setBc_dev (c : Nat) (b : Bc) : (setBc c b s).dev = s.dev := rfl
@[simp] theorem setBc_cnt (c : Nat) (b : Bc) : (setBc c b s).cnt = s.cnt := rfl
@[simp] theorem setBc_log (c : Nat) (b : Bc) : (setBc c b s).log = s.log := rfl
@[simp] theorem setBc_rings (c : Nat) (b : Bc) : (setBc c b s).rings = s.rings := rfl
@[simp] theorem setBc_places (c : Nat) (b : Bc) : (setBc c b s).places = s.places := rfl
@[simp] theorem setBc_marl (c : Nat) (b : Bc) : (setBc c b s).marl = s.marl := rfl
@[simp] theorem setBc_bank (c : Nat) (b : Bc) : (setBc c b s).bank = s.bank := rfl
@[simp] theorem setBc_seq (c : Nat) (b : Bc) : (setBc c b s).seq = s.seq := rfl
@[simp] theorem setBc_eng (c : Nat) (b : Bc) : (setBc c b s).eng = s.eng := rfl
@[simp] theorem setBc_serve (c : Nat) (b : Bc) : (setBc c b s).serve = s.serve := rfl
@[simp] theorem setBc_lnk (c : Nat) (b : Bc) : (setBc c b s).lnk = s.lnk := rfl
@[simp] theorem setBc_pwr (c : Nat) (b : Bc) : (setBc c b s).pwr = s.pwr := rfl
@[simp] theorem setBc_keep (c : Nat) (b : Bc) : (setBc c b s).keep = s.keep := rfl
@[simp] theorem setBc_tray (c : Nat) (b : Bc) : (setBc c b s).tray = s.tray := rfl
@[simp] theorem setBc_grc (c : Nat) (b : Bc) : (setBc c b s).grc = s.grc := rfl

/-! ### setQuad -/

@[simp] theorem setQuad_pending (q : Nat) (m : QuadMap) : (setQuad q m s).pending = s.pending := rfl
@[simp] theorem setQuad_out (q : Nat) (m : QuadMap) : (setQuad q m s).out = s.out := rfl
@[simp] theorem setQuad_freeCtr (q : Nat) (m : QuadMap) : (setQuad q m s).freeCtr = s.freeCtr := rfl
@[simp] theorem setQuad_acceptCtr (q : Nat) (m : QuadMap) : (setQuad q m s).acceptCtr = s.acceptCtr := rfl
@[simp] theorem setQuad_clk (q : Nat) (m : QuadMap) : (setQuad q m s).clk = s.clk := rfl
@[simp] theorem setQuad_boot (q : Nat) (m : QuadMap) : (setQuad q m s).boot = s.boot := rfl
@[simp] theorem setQuad_cxl (q : Nat) (m : QuadMap) : (setQuad q m s).cxl = s.cxl := rfl
@[simp] theorem setQuad_fw (q : Nat) (m : QuadMap) : (setQuad q m s).fw = s.fw := rfl
@[simp] theorem setQuad_spdm (q : Nat) (m : QuadMap) : (setQuad q m s).spdm = s.spdm := rfl
@[simp] theorem setQuad_hub (q : Nat) (m : QuadMap) : (setQuad q m s).hub = s.hub := rfl
@[simp] theorem setQuad_dev (q : Nat) (m : QuadMap) : (setQuad q m s).dev = s.dev := rfl
@[simp] theorem setQuad_cnt (q : Nat) (m : QuadMap) : (setQuad q m s).cnt = s.cnt := rfl
@[simp] theorem setQuad_log (q : Nat) (m : QuadMap) : (setQuad q m s).log = s.log := rfl
@[simp] theorem setQuad_rings (q : Nat) (m : QuadMap) : (setQuad q m s).rings = s.rings := rfl
@[simp] theorem setQuad_places (q : Nat) (m : QuadMap) : (setQuad q m s).places = s.places := rfl
@[simp] theorem setQuad_marl (q : Nat) (m : QuadMap) : (setQuad q m s).marl = s.marl := rfl
@[simp] theorem setQuad_bank (q : Nat) (m : QuadMap) : (setQuad q m s).bank = s.bank := rfl
@[simp] theorem setQuad_seq (q : Nat) (m : QuadMap) : (setQuad q m s).seq = s.seq := rfl
@[simp] theorem setQuad_eng (q : Nat) (m : QuadMap) : (setQuad q m s).eng = s.eng := rfl
@[simp] theorem setQuad_serve (q : Nat) (m : QuadMap) : (setQuad q m s).serve = s.serve := rfl
@[simp] theorem setQuad_lnk (q : Nat) (m : QuadMap) : (setQuad q m s).lnk = s.lnk := rfl
@[simp] theorem setQuad_pwr (q : Nat) (m : QuadMap) : (setQuad q m s).pwr = s.pwr := rfl
@[simp] theorem setQuad_keep (q : Nat) (m : QuadMap) : (setQuad q m s).keep = s.keep := rfl
@[simp] theorem setQuad_tray (q : Nat) (m : QuadMap) : (setQuad q m s).tray = s.tray := rfl
@[simp] theorem setQuad_grc (q : Nat) (m : QuadMap) : (setQuad q m s).grc = s.grc := rfl

/-! ### setCtx -/

@[simp] theorem setCtx_pending (x : Nat) (c : Ctx) : (setCtx x c s).pending = s.pending := rfl
@[simp] theorem setCtx_out (x : Nat) (c : Ctx) : (setCtx x c s).out = s.out := rfl
@[simp] theorem setCtx_freeCtr (x : Nat) (c : Ctx) : (setCtx x c s).freeCtr = s.freeCtr := rfl
@[simp] theorem setCtx_acceptCtr (x : Nat) (c : Ctx) : (setCtx x c s).acceptCtr = s.acceptCtr := rfl
@[simp] theorem setCtx_clk (x : Nat) (c : Ctx) : (setCtx x c s).clk = s.clk := rfl
@[simp] theorem setCtx_boot (x : Nat) (c : Ctx) : (setCtx x c s).boot = s.boot := rfl
@[simp] theorem setCtx_cxl (x : Nat) (c : Ctx) : (setCtx x c s).cxl = s.cxl := rfl
@[simp] theorem setCtx_fw (x : Nat) (c : Ctx) : (setCtx x c s).fw = s.fw := rfl
@[simp] theorem setCtx_spdm (x : Nat) (c : Ctx) : (setCtx x c s).spdm = s.spdm := rfl
@[simp] theorem setCtx_hub (x : Nat) (c : Ctx) : (setCtx x c s).hub = s.hub := rfl
@[simp] theorem setCtx_dev (x : Nat) (c : Ctx) : (setCtx x c s).dev = s.dev := rfl
@[simp] theorem setCtx_cnt (x : Nat) (c : Ctx) : (setCtx x c s).cnt = s.cnt := rfl
@[simp] theorem setCtx_log (x : Nat) (c : Ctx) : (setCtx x c s).log = s.log := rfl
@[simp] theorem setCtx_rings (x : Nat) (c : Ctx) : (setCtx x c s).rings = s.rings := rfl
@[simp] theorem setCtx_places (x : Nat) (c : Ctx) : (setCtx x c s).places = s.places := rfl
@[simp] theorem setCtx_marl (x : Nat) (c : Ctx) : (setCtx x c s).marl = s.marl := rfl
@[simp] theorem setCtx_bank (x : Nat) (c : Ctx) : (setCtx x c s).bank = s.bank := rfl
@[simp] theorem setCtx_ctl (x : Nat) (c : Ctx) : (setCtx x c s).ctl = s.ctl := rfl
@[simp] theorem setCtx_eng (x : Nat) (c : Ctx) : (setCtx x c s).eng = s.eng := rfl
@[simp] theorem setCtx_serve (x : Nat) (c : Ctx) : (setCtx x c s).serve = s.serve := rfl
@[simp] theorem setCtx_lnk (x : Nat) (c : Ctx) : (setCtx x c s).lnk = s.lnk := rfl
@[simp] theorem setCtx_pwr (x : Nat) (c : Ctx) : (setCtx x c s).pwr = s.pwr := rfl
@[simp] theorem setCtx_keep (x : Nat) (c : Ctx) : (setCtx x c s).keep = s.keep := rfl
@[simp] theorem setCtx_tray (x : Nat) (c : Ctx) : (setCtx x c s).tray = s.tray := rfl
@[simp] theorem setCtx_grc (x : Nat) (c : Ctx) : (setCtx x c s).grc = s.grc := rfl

/-! ### eraseCtx -/

@[simp] theorem eraseCtx_pending (x : Nat) : (eraseCtx x s).pending = s.pending := rfl
@[simp] theorem eraseCtx_out (x : Nat) : (eraseCtx x s).out = s.out := rfl
@[simp] theorem eraseCtx_freeCtr (x : Nat) : (eraseCtx x s).freeCtr = s.freeCtr := rfl
@[simp] theorem eraseCtx_acceptCtr (x : Nat) : (eraseCtx x s).acceptCtr = s.acceptCtr := rfl
@[simp] theorem eraseCtx_clk (x : Nat) : (eraseCtx x s).clk = s.clk := rfl
@[simp] theorem eraseCtx_boot (x : Nat) : (eraseCtx x s).boot = s.boot := rfl
@[simp] theorem eraseCtx_cxl (x : Nat) : (eraseCtx x s).cxl = s.cxl := rfl
@[simp] theorem eraseCtx_fw (x : Nat) : (eraseCtx x s).fw = s.fw := rfl
@[simp] theorem eraseCtx_spdm (x : Nat) : (eraseCtx x s).spdm = s.spdm := rfl
@[simp] theorem eraseCtx_hub (x : Nat) : (eraseCtx x s).hub = s.hub := rfl
@[simp] theorem eraseCtx_dev (x : Nat) : (eraseCtx x s).dev = s.dev := rfl
@[simp] theorem eraseCtx_cnt (x : Nat) : (eraseCtx x s).cnt = s.cnt := rfl
@[simp] theorem eraseCtx_log (x : Nat) : (eraseCtx x s).log = s.log := rfl
@[simp] theorem eraseCtx_rings (x : Nat) : (eraseCtx x s).rings = s.rings := rfl
@[simp] theorem eraseCtx_places (x : Nat) : (eraseCtx x s).places = s.places := rfl
@[simp] theorem eraseCtx_marl (x : Nat) : (eraseCtx x s).marl = s.marl := rfl
@[simp] theorem eraseCtx_bank (x : Nat) : (eraseCtx x s).bank = s.bank := rfl
@[simp] theorem eraseCtx_ctl (x : Nat) : (eraseCtx x s).ctl = s.ctl := rfl
@[simp] theorem eraseCtx_eng (x : Nat) : (eraseCtx x s).eng = s.eng := rfl
@[simp] theorem eraseCtx_serve (x : Nat) : (eraseCtx x s).serve = s.serve := rfl
@[simp] theorem eraseCtx_lnk (x : Nat) : (eraseCtx x s).lnk = s.lnk := rfl
@[simp] theorem eraseCtx_pwr (x : Nat) : (eraseCtx x s).pwr = s.pwr := rfl
@[simp] theorem eraseCtx_keep (x : Nat) : (eraseCtx x s).keep = s.keep := rfl
@[simp] theorem eraseCtx_tray (x : Nat) : (eraseCtx x s).tray = s.tray := rfl
@[simp] theorem eraseCtx_grc (x : Nat) : (eraseCtx x s).grc = s.grc := rfl

/-! ### moveCtx -/

@[simp] theorem moveCtx_pending (x : Nat) (c : Ctx) (st : CState) : (moveCtx x c st s).pending = s.pending := rfl
@[simp] theorem moveCtx_out (x : Nat) (c : Ctx) (st : CState) : (moveCtx x c st s).out = s.out := rfl
@[simp] theorem moveCtx_freeCtr (x : Nat) (c : Ctx) (st : CState) : (moveCtx x c st s).freeCtr = s.freeCtr := rfl
@[simp] theorem moveCtx_acceptCtr (x : Nat) (c : Ctx) (st : CState) : (moveCtx x c st s).acceptCtr = s.acceptCtr := rfl
@[simp] theorem moveCtx_clk (x : Nat) (c : Ctx) (st : CState) : (moveCtx x c st s).clk = s.clk := rfl
@[simp] theorem moveCtx_boot (x : Nat) (c : Ctx) (st : CState) : (moveCtx x c st s).boot = s.boot := rfl
@[simp] theorem moveCtx_cxl (x : Nat) (c : Ctx) (st : CState) : (moveCtx x c st s).cxl = s.cxl := rfl
@[simp] theorem moveCtx_fw (x : Nat) (c : Ctx) (st : CState) : (moveCtx x c st s).fw = s.fw := rfl
@[simp] theorem moveCtx_spdm (x : Nat) (c : Ctx) (st : CState) : (moveCtx x c st s).spdm = s.spdm := rfl
@[simp] theorem moveCtx_hub (x : Nat) (c : Ctx) (st : CState) : (moveCtx x c st s).hub = s.hub := rfl
@[simp] theorem moveCtx_dev (x : Nat) (c : Ctx) (st : CState) : (moveCtx x c st s).dev = s.dev := rfl
@[simp] theorem moveCtx_cnt (x : Nat) (c : Ctx) (st : CState) : (moveCtx x c st s).cnt = s.cnt := rfl
@[simp] theorem moveCtx_log (x : Nat) (c : Ctx) (st : CState) : (moveCtx x c st s).log = s.log := rfl
@[simp] theorem moveCtx_rings (x : Nat) (c : Ctx) (st : CState) : (moveCtx x c st s).rings = s.rings := rfl
@[simp] theorem moveCtx_places (x : Nat) (c : Ctx) (st : CState) : (moveCtx x c st s).places = s.places := rfl
@[simp] theorem moveCtx_marl (x : Nat) (c : Ctx) (st : CState) : (moveCtx x c st s).marl = s.marl := rfl
@[simp] theorem moveCtx_bank (x : Nat) (c : Ctx) (st : CState) : (moveCtx x c st s).bank = s.bank := rfl
@[simp] theorem moveCtx_ctl (x : Nat) (c : Ctx) (st : CState) : (moveCtx x c st s).ctl = s.ctl := rfl
@[simp] theorem moveCtx_eng (x : Nat) (c : Ctx) (st : CState) : (moveCtx x c st s).eng = s.eng := rfl
@[simp] theorem moveCtx_serve (x : Nat) (c : Ctx) (st : CState) : (moveCtx x c st s).serve = s.serve := rfl
@[simp] theorem moveCtx_lnk (x : Nat) (c : Ctx) (st : CState) : (moveCtx x c st s).lnk = s.lnk := rfl
@[simp] theorem moveCtx_pwr (x : Nat) (c : Ctx) (st : CState) : (moveCtx x c st s).pwr = s.pwr := rfl
@[simp] theorem moveCtx_keep (x : Nat) (c : Ctx) (st : CState) : (moveCtx x c st s).keep = s.keep := rfl
@[simp] theorem moveCtx_tray (x : Nat) (c : Ctx) (st : CState) : (moveCtx x c st s).tray = s.tray := rfl
@[simp] theorem moveCtx_grc (x : Nat) (c : Ctx) (st : CState) : (moveCtx x c st s).grc = s.grc := rfl

/-! ### setQueue -/

@[simp] theorem setQueue_pending (q : Nat) (l : List QCmd) : (setQueue q l s).pending = s.pending := rfl
@[simp] theorem setQueue_out (q : Nat) (l : List QCmd) : (setQueue q l s).out = s.out := rfl
@[simp] theorem setQueue_freeCtr (q : Nat) (l : List QCmd) : (setQueue q l s).freeCtr = s.freeCtr := rfl
@[simp] theorem setQueue_acceptCtr (q : Nat) (l : List QCmd) : (setQueue q l s).acceptCtr = s.acceptCtr := rfl
@[simp] theorem setQueue_clk (q : Nat) (l : List QCmd) : (setQueue q l s).clk = s.clk := rfl
@[simp] theorem setQueue_boot (q : Nat) (l : List QCmd) : (setQueue q l s).boot = s.boot := rfl
@[simp] theorem setQueue_cxl (q : Nat) (l : List QCmd) : (setQueue q l s).cxl = s.cxl := rfl
@[simp] theorem setQueue_fw (q : Nat) (l : List QCmd) : (setQueue q l s).fw = s.fw := rfl
@[simp] theorem setQueue_spdm (q : Nat) (l : List QCmd) : (setQueue q l s).spdm = s.spdm := rfl
@[simp] theorem setQueue_hub (q : Nat) (l : List QCmd) : (setQueue q l s).hub = s.hub := rfl
@[simp] theorem setQueue_dev (q : Nat) (l : List QCmd) : (setQueue q l s).dev = s.dev := rfl
@[simp] theorem setQueue_cnt (q : Nat) (l : List QCmd) : (setQueue q l s).cnt = s.cnt := rfl
@[simp] theorem setQueue_log (q : Nat) (l : List QCmd) : (setQueue q l s).log = s.log := rfl
@[simp] theorem setQueue_rings (q : Nat) (l : List QCmd) : (setQueue q l s).rings = s.rings := rfl
@[simp] theorem setQueue_places (q : Nat) (l : List QCmd) : (setQueue q l s).places = s.places := rfl
@[simp] theorem setQueue_marl (q : Nat) (l : List QCmd) : (setQueue q l s).marl = s.marl := rfl
@[simp] theorem setQueue_bank (q : Nat) (l : List QCmd) : (setQueue q l s).bank = s.bank := rfl
@[simp] theorem setQueue_ctl (q : Nat) (l : List QCmd) : (setQueue q l s).ctl = s.ctl := rfl
@[simp] theorem setQueue_eng (q : Nat) (l : List QCmd) : (setQueue q l s).eng = s.eng := rfl
@[simp] theorem setQueue_serve (q : Nat) (l : List QCmd) : (setQueue q l s).serve = s.serve := rfl
@[simp] theorem setQueue_lnk (q : Nat) (l : List QCmd) : (setQueue q l s).lnk = s.lnk := rfl
@[simp] theorem setQueue_pwr (q : Nat) (l : List QCmd) : (setQueue q l s).pwr = s.pwr := rfl
@[simp] theorem setQueue_keep (q : Nat) (l : List QCmd) : (setQueue q l s).keep = s.keep := rfl
@[simp] theorem setQueue_tray (q : Nat) (l : List QCmd) : (setQueue q l s).tray = s.tray := rfl
@[simp] theorem setQueue_grc (q : Nat) (l : List QCmd) : (setQueue q l s).grc = s.grc := rfl

/-! ### setWire -/

@[simp] theorem setWire_pending (w : Nat) (x : Wire) : (setWire w x s).pending = s.pending := rfl
@[simp] theorem setWire_out (w : Nat) (x : Wire) : (setWire w x s).out = s.out := rfl
@[simp] theorem setWire_freeCtr (w : Nat) (x : Wire) : (setWire w x s).freeCtr = s.freeCtr := rfl
@[simp] theorem setWire_acceptCtr (w : Nat) (x : Wire) : (setWire w x s).acceptCtr = s.acceptCtr := rfl
@[simp] theorem setWire_clk (w : Nat) (x : Wire) : (setWire w x s).clk = s.clk := rfl
@[simp] theorem setWire_boot (w : Nat) (x : Wire) : (setWire w x s).boot = s.boot := rfl
@[simp] theorem setWire_cxl (w : Nat) (x : Wire) : (setWire w x s).cxl = s.cxl := rfl
@[simp] theorem setWire_fw (w : Nat) (x : Wire) : (setWire w x s).fw = s.fw := rfl
@[simp] theorem setWire_spdm (w : Nat) (x : Wire) : (setWire w x s).spdm = s.spdm := rfl
@[simp] theorem setWire_hub (w : Nat) (x : Wire) : (setWire w x s).hub = s.hub := rfl
@[simp] theorem setWire_dev (w : Nat) (x : Wire) : (setWire w x s).dev = s.dev := rfl
@[simp] theorem setWire_cnt (w : Nat) (x : Wire) : (setWire w x s).cnt = s.cnt := rfl
@[simp] theorem setWire_log (w : Nat) (x : Wire) : (setWire w x s).log = s.log := rfl
@[simp] theorem setWire_rings (w : Nat) (x : Wire) : (setWire w x s).rings = s.rings := rfl
@[simp] theorem setWire_places (w : Nat) (x : Wire) : (setWire w x s).places = s.places := rfl
@[simp] theorem setWire_marl (w : Nat) (x : Wire) : (setWire w x s).marl = s.marl := rfl
@[simp] theorem setWire_bank (w : Nat) (x : Wire) : (setWire w x s).bank = s.bank := rfl
@[simp] theorem setWire_ctl (w : Nat) (x : Wire) : (setWire w x s).ctl = s.ctl := rfl
@[simp] theorem setWire_eng (w : Nat) (x : Wire) : (setWire w x s).eng = s.eng := rfl
@[simp] theorem setWire_serve (w : Nat) (x : Wire) : (setWire w x s).serve = s.serve := rfl
@[simp] theorem setWire_lnk (w : Nat) (x : Wire) : (setWire w x s).lnk = s.lnk := rfl
@[simp] theorem setWire_pwr (w : Nat) (x : Wire) : (setWire w x s).pwr = s.pwr := rfl
@[simp] theorem setWire_keep (w : Nat) (x : Wire) : (setWire w x s).keep = s.keep := rfl
@[simp] theorem setWire_tray (w : Nat) (x : Wire) : (setWire w x s).tray = s.tray := rfl
@[simp] theorem setWire_grc (w : Nat) (x : Wire) : (setWire w x s).grc = s.grc := rfl

/-! ### setMx -/

@[simp] theorem setMx_pending (n : Nat) (m : Mx) : (setMx n m s).pending = s.pending := rfl
@[simp] theorem setMx_out (n : Nat) (m : Mx) : (setMx n m s).out = s.out := rfl
@[simp] theorem setMx_freeCtr (n : Nat) (m : Mx) : (setMx n m s).freeCtr = s.freeCtr := rfl
@[simp] theorem setMx_acceptCtr (n : Nat) (m : Mx) : (setMx n m s).acceptCtr = s.acceptCtr := rfl
@[simp] theorem setMx_clk (n : Nat) (m : Mx) : (setMx n m s).clk = s.clk := rfl
@[simp] theorem setMx_boot (n : Nat) (m : Mx) : (setMx n m s).boot = s.boot := rfl
@[simp] theorem setMx_cxl (n : Nat) (m : Mx) : (setMx n m s).cxl = s.cxl := rfl
@[simp] theorem setMx_fw (n : Nat) (m : Mx) : (setMx n m s).fw = s.fw := rfl
@[simp] theorem setMx_spdm (n : Nat) (m : Mx) : (setMx n m s).spdm = s.spdm := rfl
@[simp] theorem setMx_hub (n : Nat) (m : Mx) : (setMx n m s).hub = s.hub := rfl
@[simp] theorem setMx_dev (n : Nat) (m : Mx) : (setMx n m s).dev = s.dev := rfl
@[simp] theorem setMx_cnt (n : Nat) (m : Mx) : (setMx n m s).cnt = s.cnt := rfl
@[simp] theorem setMx_log (n : Nat) (m : Mx) : (setMx n m s).log = s.log := rfl
@[simp] theorem setMx_rings (n : Nat) (m : Mx) : (setMx n m s).rings = s.rings := rfl
@[simp] theorem setMx_places (n : Nat) (m : Mx) : (setMx n m s).places = s.places := rfl
@[simp] theorem setMx_marl (n : Nat) (m : Mx) : (setMx n m s).marl = s.marl := rfl
@[simp] theorem setMx_bank (n : Nat) (m : Mx) : (setMx n m s).bank = s.bank := rfl
@[simp] theorem setMx_ctl (n : Nat) (m : Mx) : (setMx n m s).ctl = s.ctl := rfl
@[simp] theorem setMx_seq (n : Nat) (m : Mx) : (setMx n m s).seq = s.seq := rfl
@[simp] theorem setMx_serve (n : Nat) (m : Mx) : (setMx n m s).serve = s.serve := rfl
@[simp] theorem setMx_lnk (n : Nat) (m : Mx) : (setMx n m s).lnk = s.lnk := rfl
@[simp] theorem setMx_pwr (n : Nat) (m : Mx) : (setMx n m s).pwr = s.pwr := rfl
@[simp] theorem setMx_keep (n : Nat) (m : Mx) : (setMx n m s).keep = s.keep := rfl
@[simp] theorem setMx_tray (n : Nat) (m : Mx) : (setMx n m s).tray = s.tray := rfl
@[simp] theorem setMx_grc (n : Nat) (m : Mx) : (setMx n m s).grc = s.grc := rfl

/-! ### setPort -/

@[simp] theorem setPort_pending (p : Nat) (x : Port) : (setPort p x s).pending = s.pending := rfl
@[simp] theorem setPort_out (p : Nat) (x : Port) : (setPort p x s).out = s.out := rfl
@[simp] theorem setPort_freeCtr (p : Nat) (x : Port) : (setPort p x s).freeCtr = s.freeCtr := rfl
@[simp] theorem setPort_acceptCtr (p : Nat) (x : Port) : (setPort p x s).acceptCtr = s.acceptCtr := rfl
@[simp] theorem setPort_clk (p : Nat) (x : Port) : (setPort p x s).clk = s.clk := rfl
@[simp] theorem setPort_boot (p : Nat) (x : Port) : (setPort p x s).boot = s.boot := rfl
@[simp] theorem setPort_cxl (p : Nat) (x : Port) : (setPort p x s).cxl = s.cxl := rfl
@[simp] theorem setPort_fw (p : Nat) (x : Port) : (setPort p x s).fw = s.fw := rfl
@[simp] theorem setPort_spdm (p : Nat) (x : Port) : (setPort p x s).spdm = s.spdm := rfl
@[simp] theorem setPort_hub (p : Nat) (x : Port) : (setPort p x s).hub = s.hub := rfl
@[simp] theorem setPort_dev (p : Nat) (x : Port) : (setPort p x s).dev = s.dev := rfl
@[simp] theorem setPort_cnt (p : Nat) (x : Port) : (setPort p x s).cnt = s.cnt := rfl
@[simp] theorem setPort_log (p : Nat) (x : Port) : (setPort p x s).log = s.log := rfl
@[simp] theorem setPort_rings (p : Nat) (x : Port) : (setPort p x s).rings = s.rings := rfl
@[simp] theorem setPort_places (p : Nat) (x : Port) : (setPort p x s).places = s.places := rfl
@[simp] theorem setPort_marl (p : Nat) (x : Port) : (setPort p x s).marl = s.marl := rfl
@[simp] theorem setPort_bank (p : Nat) (x : Port) : (setPort p x s).bank = s.bank := rfl
@[simp] theorem setPort_ctl (p : Nat) (x : Port) : (setPort p x s).ctl = s.ctl := rfl
@[simp] theorem setPort_seq (p : Nat) (x : Port) : (setPort p x s).seq = s.seq := rfl
@[simp] theorem setPort_eng (p : Nat) (x : Port) : (setPort p x s).eng = s.eng := rfl
@[simp] theorem setPort_serve (p : Nat) (x : Port) : (setPort p x s).serve = s.serve := rfl
@[simp] theorem setPort_pwr (p : Nat) (x : Port) : (setPort p x s).pwr = s.pwr := rfl
@[simp] theorem setPort_keep (p : Nat) (x : Port) : (setPort p x s).keep = s.keep := rfl
@[simp] theorem setPort_tray (p : Nat) (x : Port) : (setPort p x s).tray = s.tray := rfl
@[simp] theorem setPort_grc (p : Nat) (x : Port) : (setPort p x s).grc = s.grc := rfl

/-! ### setPageOwner -/

@[simp] theorem setPageOwner_pending (pg o : Nat) : (setPageOwner pg o s).pending = s.pending := rfl
@[simp] theorem setPageOwner_out (pg o : Nat) : (setPageOwner pg o s).out = s.out := rfl
@[simp] theorem setPageOwner_freeCtr (pg o : Nat) : (setPageOwner pg o s).freeCtr = s.freeCtr := rfl
@[simp] theorem setPageOwner_acceptCtr (pg o : Nat) : (setPageOwner pg o s).acceptCtr = s.acceptCtr := rfl
@[simp] theorem setPageOwner_clk (pg o : Nat) : (setPageOwner pg o s).clk = s.clk := rfl
@[simp] theorem setPageOwner_boot (pg o : Nat) : (setPageOwner pg o s).boot = s.boot := rfl
@[simp] theorem setPageOwner_cxl (pg o : Nat) : (setPageOwner pg o s).cxl = s.cxl := rfl
@[simp] theorem setPageOwner_fw (pg o : Nat) : (setPageOwner pg o s).fw = s.fw := rfl
@[simp] theorem setPageOwner_spdm (pg o : Nat) : (setPageOwner pg o s).spdm = s.spdm := rfl
@[simp] theorem setPageOwner_hub (pg o : Nat) : (setPageOwner pg o s).hub = s.hub := rfl
@[simp] theorem setPageOwner_dev (pg o : Nat) : (setPageOwner pg o s).dev = s.dev := rfl
@[simp] theorem setPageOwner_cnt (pg o : Nat) : (setPageOwner pg o s).cnt = s.cnt := rfl
@[simp] theorem setPageOwner_log (pg o : Nat) : (setPageOwner pg o s).log = s.log := rfl
@[simp] theorem setPageOwner_rings (pg o : Nat) : (setPageOwner pg o s).rings = s.rings := rfl
@[simp] theorem setPageOwner_places (pg o : Nat) : (setPageOwner pg o s).places = s.places := rfl
@[simp] theorem setPageOwner_marl (pg o : Nat) : (setPageOwner pg o s).marl = s.marl := rfl
@[simp] theorem setPageOwner_bank (pg o : Nat) : (setPageOwner pg o s).bank = s.bank := rfl
@[simp] theorem setPageOwner_ctl (pg o : Nat) : (setPageOwner pg o s).ctl = s.ctl := rfl
@[simp] theorem setPageOwner_seq (pg o : Nat) : (setPageOwner pg o s).seq = s.seq := rfl
@[simp] theorem setPageOwner_eng (pg o : Nat) : (setPageOwner pg o s).eng = s.eng := rfl
@[simp] theorem setPageOwner_lnk (pg o : Nat) : (setPageOwner pg o s).lnk = s.lnk := rfl
@[simp] theorem setPageOwner_pwr (pg o : Nat) : (setPageOwner pg o s).pwr = s.pwr := rfl
@[simp] theorem setPageOwner_keep (pg o : Nat) : (setPageOwner pg o s).keep = s.keep := rfl
@[simp] theorem setPageOwner_tray (pg o : Nat) : (setPageOwner pg o s).tray = s.tray := rfl
@[simp] theorem setPageOwner_grc (pg o : Nat) : (setPageOwner pg o s).grc = s.grc := rfl

/-! ### setKblock -/

@[simp] theorem setKblock_pending (i : Nat) (b : KBlock) : (setKblock i b s).pending = s.pending := rfl
@[simp] theorem setKblock_out (i : Nat) (b : KBlock) : (setKblock i b s).out = s.out := rfl
@[simp] theorem setKblock_freeCtr (i : Nat) (b : KBlock) : (setKblock i b s).freeCtr = s.freeCtr := rfl
@[simp] theorem setKblock_acceptCtr (i : Nat) (b : KBlock) : (setKblock i b s).acceptCtr = s.acceptCtr := rfl
@[simp] theorem setKblock_clk (i : Nat) (b : KBlock) : (setKblock i b s).clk = s.clk := rfl
@[simp] theorem setKblock_boot (i : Nat) (b : KBlock) : (setKblock i b s).boot = s.boot := rfl
@[simp] theorem setKblock_cxl (i : Nat) (b : KBlock) : (setKblock i b s).cxl = s.cxl := rfl
@[simp] theorem setKblock_fw (i : Nat) (b : KBlock) : (setKblock i b s).fw = s.fw := rfl
@[simp] theorem setKblock_spdm (i : Nat) (b : KBlock) : (setKblock i b s).spdm = s.spdm := rfl
@[simp] theorem setKblock_hub (i : Nat) (b : KBlock) : (setKblock i b s).hub = s.hub := rfl
@[simp] theorem setKblock_dev (i : Nat) (b : KBlock) : (setKblock i b s).dev = s.dev := rfl
@[simp] theorem setKblock_cnt (i : Nat) (b : KBlock) : (setKblock i b s).cnt = s.cnt := rfl
@[simp] theorem setKblock_log (i : Nat) (b : KBlock) : (setKblock i b s).log = s.log := rfl
@[simp] theorem setKblock_rings (i : Nat) (b : KBlock) : (setKblock i b s).rings = s.rings := rfl
@[simp] theorem setKblock_places (i : Nat) (b : KBlock) : (setKblock i b s).places = s.places := rfl
@[simp] theorem setKblock_marl (i : Nat) (b : KBlock) : (setKblock i b s).marl = s.marl := rfl
@[simp] theorem setKblock_bank (i : Nat) (b : KBlock) : (setKblock i b s).bank = s.bank := rfl
@[simp] theorem setKblock_ctl (i : Nat) (b : KBlock) : (setKblock i b s).ctl = s.ctl := rfl
@[simp] theorem setKblock_seq (i : Nat) (b : KBlock) : (setKblock i b s).seq = s.seq := rfl
@[simp] theorem setKblock_eng (i : Nat) (b : KBlock) : (setKblock i b s).eng = s.eng := rfl
@[simp] theorem setKblock_serve (i : Nat) (b : KBlock) : (setKblock i b s).serve = s.serve := rfl
@[simp] theorem setKblock_lnk (i : Nat) (b : KBlock) : (setKblock i b s).lnk = s.lnk := rfl
@[simp] theorem setKblock_pwr (i : Nat) (b : KBlock) : (setKblock i b s).pwr = s.pwr := rfl
@[simp] theorem setKblock_tray (i : Nat) (b : KBlock) : (setKblock i b s).tray = s.tray := rfl
@[simp] theorem setKblock_grc (i : Nat) (b : KBlock) : (setKblock i b s).grc = s.grc := rfl

/-! ### setSlot -/

@[simp] theorem setSlot_pending (i : Nat) (x : Slot) : (setSlot i x s).pending = s.pending := rfl
@[simp] theorem setSlot_out (i : Nat) (x : Slot) : (setSlot i x s).out = s.out := rfl
@[simp] theorem setSlot_freeCtr (i : Nat) (x : Slot) : (setSlot i x s).freeCtr = s.freeCtr := rfl
@[simp] theorem setSlot_acceptCtr (i : Nat) (x : Slot) : (setSlot i x s).acceptCtr = s.acceptCtr := rfl
@[simp] theorem setSlot_clk (i : Nat) (x : Slot) : (setSlot i x s).clk = s.clk := rfl
@[simp] theorem setSlot_boot (i : Nat) (x : Slot) : (setSlot i x s).boot = s.boot := rfl
@[simp] theorem setSlot_cxl (i : Nat) (x : Slot) : (setSlot i x s).cxl = s.cxl := rfl
@[simp] theorem setSlot_fw (i : Nat) (x : Slot) : (setSlot i x s).fw = s.fw := rfl
@[simp] theorem setSlot_spdm (i : Nat) (x : Slot) : (setSlot i x s).spdm = s.spdm := rfl
@[simp] theorem setSlot_hub (i : Nat) (x : Slot) : (setSlot i x s).hub = s.hub := rfl
@[simp] theorem setSlot_dev (i : Nat) (x : Slot) : (setSlot i x s).dev = s.dev := rfl
@[simp] theorem setSlot_cnt (i : Nat) (x : Slot) : (setSlot i x s).cnt = s.cnt := rfl
@[simp] theorem setSlot_log (i : Nat) (x : Slot) : (setSlot i x s).log = s.log := rfl
@[simp] theorem setSlot_rings (i : Nat) (x : Slot) : (setSlot i x s).rings = s.rings := rfl
@[simp] theorem setSlot_places (i : Nat) (x : Slot) : (setSlot i x s).places = s.places := rfl
@[simp] theorem setSlot_marl (i : Nat) (x : Slot) : (setSlot i x s).marl = s.marl := rfl
@[simp] theorem setSlot_bank (i : Nat) (x : Slot) : (setSlot i x s).bank = s.bank := rfl
@[simp] theorem setSlot_ctl (i : Nat) (x : Slot) : (setSlot i x s).ctl = s.ctl := rfl
@[simp] theorem setSlot_seq (i : Nat) (x : Slot) : (setSlot i x s).seq = s.seq := rfl
@[simp] theorem setSlot_eng (i : Nat) (x : Slot) : (setSlot i x s).eng = s.eng := rfl
@[simp] theorem setSlot_serve (i : Nat) (x : Slot) : (setSlot i x s).serve = s.serve := rfl
@[simp] theorem setSlot_lnk (i : Nat) (x : Slot) : (setSlot i x s).lnk = s.lnk := rfl
@[simp] theorem setSlot_pwr (i : Nat) (x : Slot) : (setSlot i x s).pwr = s.pwr := rfl
@[simp] theorem setSlot_keep (i : Nat) (x : Slot) : (setSlot i x s).keep = s.keep := rfl
@[simp] theorem setSlot_grc (i : Nat) (x : Slot) : (setSlot i x s).grc = s.grc := rfl

/-! ### setRackMod -/

@[simp] theorem setRackMod_pending (m : Nat) (x : RackMod) : (setRackMod m x s).pending = s.pending := rfl
@[simp] theorem setRackMod_out (m : Nat) (x : RackMod) : (setRackMod m x s).out = s.out := rfl
@[simp] theorem setRackMod_freeCtr (m : Nat) (x : RackMod) : (setRackMod m x s).freeCtr = s.freeCtr := rfl
@[simp] theorem setRackMod_acceptCtr (m : Nat) (x : RackMod) : (setRackMod m x s).acceptCtr = s.acceptCtr := rfl
@[simp] theorem setRackMod_clk (m : Nat) (x : RackMod) : (setRackMod m x s).clk = s.clk := rfl
@[simp] theorem setRackMod_boot (m : Nat) (x : RackMod) : (setRackMod m x s).boot = s.boot := rfl
@[simp] theorem setRackMod_cxl (m : Nat) (x : RackMod) : (setRackMod m x s).cxl = s.cxl := rfl
@[simp] theorem setRackMod_fw (m : Nat) (x : RackMod) : (setRackMod m x s).fw = s.fw := rfl
@[simp] theorem setRackMod_spdm (m : Nat) (x : RackMod) : (setRackMod m x s).spdm = s.spdm := rfl
@[simp] theorem setRackMod_hub (m : Nat) (x : RackMod) : (setRackMod m x s).hub = s.hub := rfl
@[simp] theorem setRackMod_dev (m : Nat) (x : RackMod) : (setRackMod m x s).dev = s.dev := rfl
@[simp] theorem setRackMod_cnt (m : Nat) (x : RackMod) : (setRackMod m x s).cnt = s.cnt := rfl
@[simp] theorem setRackMod_log (m : Nat) (x : RackMod) : (setRackMod m x s).log = s.log := rfl
@[simp] theorem setRackMod_rings (m : Nat) (x : RackMod) : (setRackMod m x s).rings = s.rings := rfl
@[simp] theorem setRackMod_places (m : Nat) (x : RackMod) : (setRackMod m x s).places = s.places := rfl
@[simp] theorem setRackMod_marl (m : Nat) (x : RackMod) : (setRackMod m x s).marl = s.marl := rfl
@[simp] theorem setRackMod_bank (m : Nat) (x : RackMod) : (setRackMod m x s).bank = s.bank := rfl
@[simp] theorem setRackMod_ctl (m : Nat) (x : RackMod) : (setRackMod m x s).ctl = s.ctl := rfl
@[simp] theorem setRackMod_seq (m : Nat) (x : RackMod) : (setRackMod m x s).seq = s.seq := rfl
@[simp] theorem setRackMod_eng (m : Nat) (x : RackMod) : (setRackMod m x s).eng = s.eng := rfl
@[simp] theorem setRackMod_serve (m : Nat) (x : RackMod) : (setRackMod m x s).serve = s.serve := rfl
@[simp] theorem setRackMod_lnk (m : Nat) (x : RackMod) : (setRackMod m x s).lnk = s.lnk := rfl
@[simp] theorem setRackMod_pwr (m : Nat) (x : RackMod) : (setRackMod m x s).pwr = s.pwr := rfl
@[simp] theorem setRackMod_keep (m : Nat) (x : RackMod) : (setRackMod m x s).keep = s.keep := rfl
@[simp] theorem setRackMod_tray (m : Nat) (x : RackMod) : (setRackMod m x s).tray = s.tray := rfl

/-! ### Read after write -/

@[simp] theorem ring_setRing_self (f : Func) (r : Ring) : ring (setRing f r s) f = r := by simp [ring, setRing]

theorem ring_setRing_ne (f g : Func) (r : Ring) (h : g ≠ f) : ring (setRing f r s) g = ring s g := by
  simp [ring, setRing, tget_tset_ne _ _ _ _ _ (fun e => h (Fin.ext e))]

@[simp] theorem desc_setDesc_self (p : Place) (d : Desc) : desc (setDesc p d s) p = some d := by simp [desc, setDesc]

theorem desc_setDesc_ne (p q : Place) (d : Desc) (h : q ≠ p) : desc (setDesc p d s) q = desc s q := by
  simp [desc, setDesc, tfind_tput_ne _ _ _ _ (fun e => h (Fin.ext e))]

@[simp] theorem desc_freePlace_self (p : Place) : desc (freePlace p s) p = none := by simp [desc, freePlace]

theorem desc_freePlace_ne (p q : Place) (h : q ≠ p) : desc (freePlace p s) q = desc s q := by
  simp [desc, freePlace, tfind_terase_ne _ _ _ (fun e => h (Fin.ext e))]

@[simp] theorem grain_setGrain_self (g : Nat) (x : Grain) : grain (setGrain g x s) g = x := by simp [grain, setGrain]

theorem grain_setGrain_ne (g k : Nat) (x : Grain) (h : k ≠ g) : grain (setGrain g x s) k = grain s k := by
  simp [grain, setGrain, tget_tset_ne _ _ _ _ _ h]

@[simp] theorem die_setDie_self (i : Nat) (x : DieSt) : die (setDie i x s) i = x := by simp [die, setDie]

theorem die_setDie_ne (i k : Nat) (x : DieSt) (h : k ≠ i) : die (setDie i x s) k = die s k := by
  simp [die, setDie, tget_tset_ne _ _ _ _ _ h]

@[simp] theorem grain_setDie (i g : Nat) (x : DieSt) : grain (setDie i x s) g = grain s g := rfl

@[simp] theorem die_setGrain (g i : Nat) (x : Grain) : die (setGrain g x s) i = die s i := rfl

@[simp] theorem bc_setBc_self (c : Nat) (b : Bc) : bc (setBc c b s) c = b := by simp [bc, setBc]

theorem bc_setBc_ne (c k : Nat) (b : Bc) (h : k ≠ c) : bc (setBc c b s) k = bc s k := by
  simp [bc, setBc, tget_tset_ne _ _ _ _ _ h]

@[simp] theorem ctx_setCtx_self (x : Nat) (c : Ctx) : ctx (setCtx x c s) x = some c := by simp [ctx, setCtx]

theorem ctx_setCtx_ne (x y : Nat) (c : Ctx) (h : y ≠ x) : ctx (setCtx x c s) y = ctx s y := by
  simp [ctx, setCtx, tfind_tput_ne _ _ _ _ h]

@[simp] theorem wire_setWire_self (w : Nat) (x : Wire) : wire (setWire w x s) w = x := by simp [wire, setWire]

@[simp] theorem queue_setQueue_self (q : Nat) (l : List QCmd) : queue (setQueue q l s) q = l := by simp [queue, setQueue]

@[simp] theorem port_setPort_self (p : Nat) (x : Port) : port (setPort p x s) p = x := by simp [port, setPort]

theorem port_setPort_ne (p q : Nat) (x : Port) (h : q ≠ p) : port (setPort p x s) q = port s q := by
  simp [port, setPort, tget_tset_ne _ _ _ _ _ h]

@[simp] theorem kblock_setKblock_self (i : Nat) (b : KBlock) : kblock (setKblock i b s) i = b := by simp [kblock, setKblock]

@[simp] theorem slot_setSlot_self (i : Nat) (x : Slot) : slot (setSlot i x s) i = x := by simp [slot, setSlot]

@[simp] theorem rackMod_setRackMod_self (m : Nat) (x : RackMod) : rackMod (setRackMod m x s) m = x := by
  simp [rackMod, setRackMod]

@[simp] theorem pageOwner_setPageOwner_self (pg o : Nat) : pageOwner (setPageOwner pg o s) pg = o := by
  simp [pageOwner, setPageOwner]

theorem pageOwner_setPageOwner_ne (pg k o : Nat) (h : k ≠ pg) : pageOwner (setPageOwner pg o s) k = pageOwner s k := by
  simp [pageOwner, setPageOwner, tget_tset_ne _ _ _ _ _ h]

/-! ### The logs -/

theorem length_lastN {α : Type} (n : Nat) (l : List α) : (lastN n l).length ≤ n := by
  rw [lastN, List.length_reverse, List.length_take]
  exact Nat.min_le_left _ _

/-- Logging appends one entry, and the latest 4,096 stay. -/
theorem logAs_events (cls code : Nat) (loc : U16) (func : Byte) (master d0 d1 : Nat) :
    ∃ e, (logAs cls code loc func master d0 d1 s).log.events = lastN 4096 (s.log.events ++ [e]) := by
  refine ⟨{ mtb := now s, cls := BitVec.ofNat 8 cls, code := BitVec.ofNat 8 code, loc := loc, func := func,
            master := BitVec.ofNat 8 master, seq := s.log.seq, data0 := BitVec.ofNat 64 d0,
            data1 := BitVec.ofNat 64 d1, seen := false }, ?_⟩
  simp only [logAs, msix, emit]
  split <;> simp only [bump]

theorem logAs_bounded (cls code : Nat) (loc : U16) (func : Byte) (master d0 d1 : Nat) :
    (logAs cls code loc func master d0 d1 s).log.events.length ≤ 4096 := by
  obtain ⟨e, h⟩ := logAs_events s cls code loc func master d0 d1
  rw [h]
  exact length_lastN 4096 _

/-- The persistent fault log takes one entry, and the latest 256 stay. -/
theorem plogAdd_plog (loc : U16) (info : Nat) : ∃ e, (plogAdd loc info s).log.plog = lastN 256 (s.log.plog ++ [e]) := by
  refine ⟨{ mtb := now s, powerOn := s.boot.powerOnCount, code := s.boot.code, loc := loc,
            info := BitVec.ofNat 64 info }, ?_⟩
  simp only [plogAdd]

theorem plogAdd_bounded (loc : U16) (info : Nat) : (plogAdd loc info s).log.plog.length ≤ 256 := by
  obtain ⟨e, h⟩ := plogAdd_plog s loc info
  rw [h]
  exact length_lastN 256 _

@[simp] theorem logAs_plog (cls code : Nat) (loc : U16) (func : Byte) (master d0 d1 : Nat) :
    (logAs cls code loc func master d0 d1 s).log.plog = s.log.plog := by
  simp only [logAs, msix_log]
  split <;> simp only [bump_log]

@[simp] theorem plogAdd_events (loc : U16) (info : Nat) : (plogAdd loc info s).log.events = s.log.events := by
  simp only [plogAdd]

@[simp] theorem logAs_pending (cls code : Nat) (loc : U16) (func : Byte) (master d0 d1 : Nat) :
    (logAs cls code loc func master d0 d1 s).pending = s.pending := by
  simp only [logAs, msix_pending]
  split <;> rfl

@[simp] theorem logAs_freeCtr (cls code : Nat) (loc : U16) (func : Byte) (master d0 d1 : Nat) :
    (logAs cls code loc func master d0 d1 s).freeCtr = s.freeCtr := by
  simp only [logAs, msix_freeCtr]
  split <;> rfl

@[simp] theorem logAs_acceptCtr (cls code : Nat) (loc : U16) (func : Byte) (master d0 d1 : Nat) :
    (logAs cls code loc func master d0 d1 s).acceptCtr = s.acceptCtr := by
  simp only [logAs, msix_acceptCtr]
  split <;> rfl

@[simp] theorem logAs_clk (cls code : Nat) (loc : U16) (func : Byte) (master d0 d1 : Nat) :
    (logAs cls code loc func master d0 d1 s).clk = s.clk := by
  simp only [logAs, msix_clk]
  split <;> rfl

@[simp] theorem logAs_boot (cls code : Nat) (loc : U16) (func : Byte) (master d0 d1 : Nat) :
    (logAs cls code loc func master d0 d1 s).boot = s.boot := by
  simp only [logAs, msix_boot]
  split <;> rfl

@[simp] theorem logAs_cxl (cls code : Nat) (loc : U16) (func : Byte) (master d0 d1 : Nat) :
    (logAs cls code loc func master d0 d1 s).cxl = s.cxl := by
  simp only [logAs, msix_cxl]
  split <;> rfl

@[simp] theorem logAs_fw (cls code : Nat) (loc : U16) (func : Byte) (master d0 d1 : Nat) :
    (logAs cls code loc func master d0 d1 s).fw = s.fw := by
  simp only [logAs, msix_fw]
  split <;> rfl

@[simp] theorem logAs_spdm (cls code : Nat) (loc : U16) (func : Byte) (master d0 d1 : Nat) :
    (logAs cls code loc func master d0 d1 s).spdm = s.spdm := by
  simp only [logAs, msix_spdm]
  split <;> rfl

@[simp] theorem logAs_hub (cls code : Nat) (loc : U16) (func : Byte) (master d0 d1 : Nat) :
    (logAs cls code loc func master d0 d1 s).hub = s.hub := by
  simp only [logAs, msix_hub]
  split <;> rfl

@[simp] theorem logAs_dev (cls code : Nat) (loc : U16) (func : Byte) (master d0 d1 : Nat) :
    (logAs cls code loc func master d0 d1 s).dev = s.dev := by
  simp only [logAs, msix_dev]
  split <;> rfl

@[simp] theorem logAs_rings (cls code : Nat) (loc : U16) (func : Byte) (master d0 d1 : Nat) :
    (logAs cls code loc func master d0 d1 s).rings = s.rings := by
  simp only [logAs, msix_rings]
  split <;> rfl

@[simp] theorem logAs_places (cls code : Nat) (loc : U16) (func : Byte) (master d0 d1 : Nat) :
    (logAs cls code loc func master d0 d1 s).places = s.places := by
  simp only [logAs, msix_places]
  split <;> rfl

@[simp] theorem logAs_marl (cls code : Nat) (loc : U16) (func : Byte) (master d0 d1 : Nat) :
    (logAs cls code loc func master d0 d1 s).marl = s.marl := by
  simp only [logAs, msix_marl]
  split <;> rfl

@[simp] theorem logAs_bank (cls code : Nat) (loc : U16) (func : Byte) (master d0 d1 : Nat) :
    (logAs cls code loc func master d0 d1 s).bank = s.bank := by
  simp only [logAs, msix_bank]
  split <;> rfl

@[simp] theorem logAs_ctl (cls code : Nat) (loc : U16) (func : Byte) (master d0 d1 : Nat) :
    (logAs cls code loc func master d0 d1 s).ctl = s.ctl := by
  simp only [logAs, msix_ctl]
  split <;> rfl

@[simp] theorem logAs_seq (cls code : Nat) (loc : U16) (func : Byte) (master d0 d1 : Nat) :
    (logAs cls code loc func master d0 d1 s).seq = s.seq := by
  simp only [logAs, msix_seq]
  split <;> rfl

@[simp] theorem logAs_eng (cls code : Nat) (loc : U16) (func : Byte) (master d0 d1 : Nat) :
    (logAs cls code loc func master d0 d1 s).eng = s.eng := by
  simp only [logAs, msix_eng]
  split <;> rfl

@[simp] theorem logAs_serve (cls code : Nat) (loc : U16) (func : Byte) (master d0 d1 : Nat) :
    (logAs cls code loc func master d0 d1 s).serve = s.serve := by
  simp only [logAs, msix_serve]
  split <;> rfl

@[simp] theorem logAs_lnk (cls code : Nat) (loc : U16) (func : Byte) (master d0 d1 : Nat) :
    (logAs cls code loc func master d0 d1 s).lnk = s.lnk := by
  simp only [logAs, msix_lnk]
  split <;> rfl

@[simp] theorem logAs_pwr (cls code : Nat) (loc : U16) (func : Byte) (master d0 d1 : Nat) :
    (logAs cls code loc func master d0 d1 s).pwr = s.pwr := by
  simp only [logAs, msix_pwr]
  split <;> rfl

@[simp] theorem logAs_keep (cls code : Nat) (loc : U16) (func : Byte) (master d0 d1 : Nat) :
    (logAs cls code loc func master d0 d1 s).keep = s.keep := by
  simp only [logAs, msix_keep]
  split <;> rfl

@[simp] theorem logAs_tray (cls code : Nat) (loc : U16) (func : Byte) (master d0 d1 : Nat) :
    (logAs cls code loc func master d0 d1 s).tray = s.tray := by
  simp only [logAs, msix_tray]
  split <;> rfl

@[simp] theorem logAs_grc (cls code : Nat) (loc : U16) (func : Byte) (master d0 d1 : Nat) :
    (logAs cls code loc func master d0 d1 s).grc = s.grc := by
  simp only [logAs, msix_grc]
  split <;> rfl

@[simp] theorem logDev_pending (cls code : Nat) (loc : U16) (d0 d1 : Nat) : (logDev cls code loc d0 d1 s).pending = s.pending := logAs_pending ..

@[simp] theorem logDev_freeCtr (cls code : Nat) (loc : U16) (d0 d1 : Nat) : (logDev cls code loc d0 d1 s).freeCtr = s.freeCtr := logAs_freeCtr ..

@[simp] theorem logDev_acceptCtr (cls code : Nat) (loc : U16) (d0 d1 : Nat) : (logDev cls code loc d0 d1 s).acceptCtr = s.acceptCtr := logAs_acceptCtr ..

@[simp] theorem logDev_clk (cls code : Nat) (loc : U16) (d0 d1 : Nat) : (logDev cls code loc d0 d1 s).clk = s.clk := logAs_clk ..

@[simp] theorem logDev_boot (cls code : Nat) (loc : U16) (d0 d1 : Nat) : (logDev cls code loc d0 d1 s).boot = s.boot := logAs_boot ..

@[simp] theorem logDev_cxl (cls code : Nat) (loc : U16) (d0 d1 : Nat) : (logDev cls code loc d0 d1 s).cxl = s.cxl := logAs_cxl ..

@[simp] theorem logDev_fw (cls code : Nat) (loc : U16) (d0 d1 : Nat) : (logDev cls code loc d0 d1 s).fw = s.fw := logAs_fw ..

@[simp] theorem logDev_spdm (cls code : Nat) (loc : U16) (d0 d1 : Nat) : (logDev cls code loc d0 d1 s).spdm = s.spdm := logAs_spdm ..

@[simp] theorem logDev_hub (cls code : Nat) (loc : U16) (d0 d1 : Nat) : (logDev cls code loc d0 d1 s).hub = s.hub := logAs_hub ..

@[simp] theorem logDev_dev (cls code : Nat) (loc : U16) (d0 d1 : Nat) : (logDev cls code loc d0 d1 s).dev = s.dev := logAs_dev ..

@[simp] theorem logDev_rings (cls code : Nat) (loc : U16) (d0 d1 : Nat) : (logDev cls code loc d0 d1 s).rings = s.rings := logAs_rings ..

@[simp] theorem logDev_places (cls code : Nat) (loc : U16) (d0 d1 : Nat) : (logDev cls code loc d0 d1 s).places = s.places := logAs_places ..

@[simp] theorem logDev_marl (cls code : Nat) (loc : U16) (d0 d1 : Nat) : (logDev cls code loc d0 d1 s).marl = s.marl := logAs_marl ..

@[simp] theorem logDev_bank (cls code : Nat) (loc : U16) (d0 d1 : Nat) : (logDev cls code loc d0 d1 s).bank = s.bank := logAs_bank ..

@[simp] theorem logDev_ctl (cls code : Nat) (loc : U16) (d0 d1 : Nat) : (logDev cls code loc d0 d1 s).ctl = s.ctl := logAs_ctl ..

@[simp] theorem logDev_seq (cls code : Nat) (loc : U16) (d0 d1 : Nat) : (logDev cls code loc d0 d1 s).seq = s.seq := logAs_seq ..

@[simp] theorem logDev_eng (cls code : Nat) (loc : U16) (d0 d1 : Nat) : (logDev cls code loc d0 d1 s).eng = s.eng := logAs_eng ..

@[simp] theorem logDev_serve (cls code : Nat) (loc : U16) (d0 d1 : Nat) : (logDev cls code loc d0 d1 s).serve = s.serve := logAs_serve ..

@[simp] theorem logDev_lnk (cls code : Nat) (loc : U16) (d0 d1 : Nat) : (logDev cls code loc d0 d1 s).lnk = s.lnk := logAs_lnk ..

@[simp] theorem logDev_pwr (cls code : Nat) (loc : U16) (d0 d1 : Nat) : (logDev cls code loc d0 d1 s).pwr = s.pwr := logAs_pwr ..

@[simp] theorem logDev_keep (cls code : Nat) (loc : U16) (d0 d1 : Nat) : (logDev cls code loc d0 d1 s).keep = s.keep := logAs_keep ..

@[simp] theorem logDev_tray (cls code : Nat) (loc : U16) (d0 d1 : Nat) : (logDev cls code loc d0 d1 s).tray = s.tray := logAs_tray ..

@[simp] theorem logDev_grc (cls code : Nat) (loc : U16) (d0 d1 : Nat) : (logDev cls code loc d0 d1 s).grc = s.grc := logAs_grc ..

@[simp] theorem logFn_pending (cls code : Nat) (loc : U16) (f : Func) (d0 d1 : Nat) : (logFn cls code loc f d0 d1 s).pending = s.pending := logAs_pending ..

@[simp] theorem logFn_freeCtr (cls code : Nat) (loc : U16) (f : Func) (d0 d1 : Nat) : (logFn cls code loc f d0 d1 s).freeCtr = s.freeCtr := logAs_freeCtr ..

@[simp] theorem logFn_acceptCtr (cls code : Nat) (loc : U16) (f : Func) (d0 d1 : Nat) : (logFn cls code loc f d0 d1 s).acceptCtr = s.acceptCtr := logAs_acceptCtr ..

@[simp] theorem logFn_clk (cls code : Nat) (loc : U16) (f : Func) (d0 d1 : Nat) : (logFn cls code loc f d0 d1 s).clk = s.clk := logAs_clk ..

@[simp] theorem logFn_boot (cls code : Nat) (loc : U16) (f : Func) (d0 d1 : Nat) : (logFn cls code loc f d0 d1 s).boot = s.boot := logAs_boot ..

@[simp] theorem logFn_cxl (cls code : Nat) (loc : U16) (f : Func) (d0 d1 : Nat) : (logFn cls code loc f d0 d1 s).cxl = s.cxl := logAs_cxl ..

@[simp] theorem logFn_fw (cls code : Nat) (loc : U16) (f : Func) (d0 d1 : Nat) : (logFn cls code loc f d0 d1 s).fw = s.fw := logAs_fw ..

@[simp] theorem logFn_spdm (cls code : Nat) (loc : U16) (f : Func) (d0 d1 : Nat) : (logFn cls code loc f d0 d1 s).spdm = s.spdm := logAs_spdm ..

@[simp] theorem logFn_hub (cls code : Nat) (loc : U16) (f : Func) (d0 d1 : Nat) : (logFn cls code loc f d0 d1 s).hub = s.hub := logAs_hub ..

@[simp] theorem logFn_dev (cls code : Nat) (loc : U16) (f : Func) (d0 d1 : Nat) : (logFn cls code loc f d0 d1 s).dev = s.dev := logAs_dev ..

@[simp] theorem logFn_rings (cls code : Nat) (loc : U16) (f : Func) (d0 d1 : Nat) : (logFn cls code loc f d0 d1 s).rings = s.rings := logAs_rings ..

@[simp] theorem logFn_places (cls code : Nat) (loc : U16) (f : Func) (d0 d1 : Nat) : (logFn cls code loc f d0 d1 s).places = s.places := logAs_places ..

@[simp] theorem logFn_marl (cls code : Nat) (loc : U16) (f : Func) (d0 d1 : Nat) : (logFn cls code loc f d0 d1 s).marl = s.marl := logAs_marl ..

@[simp] theorem logFn_bank (cls code : Nat) (loc : U16) (f : Func) (d0 d1 : Nat) : (logFn cls code loc f d0 d1 s).bank = s.bank := logAs_bank ..

@[simp] theorem logFn_ctl (cls code : Nat) (loc : U16) (f : Func) (d0 d1 : Nat) : (logFn cls code loc f d0 d1 s).ctl = s.ctl := logAs_ctl ..

@[simp] theorem logFn_seq (cls code : Nat) (loc : U16) (f : Func) (d0 d1 : Nat) : (logFn cls code loc f d0 d1 s).seq = s.seq := logAs_seq ..

@[simp] theorem logFn_eng (cls code : Nat) (loc : U16) (f : Func) (d0 d1 : Nat) : (logFn cls code loc f d0 d1 s).eng = s.eng := logAs_eng ..

@[simp] theorem logFn_serve (cls code : Nat) (loc : U16) (f : Func) (d0 d1 : Nat) : (logFn cls code loc f d0 d1 s).serve = s.serve := logAs_serve ..

@[simp] theorem logFn_lnk (cls code : Nat) (loc : U16) (f : Func) (d0 d1 : Nat) : (logFn cls code loc f d0 d1 s).lnk = s.lnk := logAs_lnk ..

@[simp] theorem logFn_pwr (cls code : Nat) (loc : U16) (f : Func) (d0 d1 : Nat) : (logFn cls code loc f d0 d1 s).pwr = s.pwr := logAs_pwr ..

@[simp] theorem logFn_keep (cls code : Nat) (loc : U16) (f : Func) (d0 d1 : Nat) : (logFn cls code loc f d0 d1 s).keep = s.keep := logAs_keep ..

@[simp] theorem logFn_tray (cls code : Nat) (loc : U16) (f : Func) (d0 d1 : Nat) : (logFn cls code loc f d0 d1 s).tray = s.tray := logAs_tray ..

@[simp] theorem logFn_grc (cls code : Nat) (loc : U16) (f : Func) (d0 d1 : Nat) : (logFn cls code loc f d0 d1 s).grc = s.grc := logAs_grc ..

end Sys2Proof.Machine
end

