-- ==== Sys2Proof/Laws/Ops.lean ====
section
/-! SUPPORT. What each shared operation leaves as it was, one lemma for each, said of the fields of State it never writes;
and that two states with the same fields are one. -/

namespace Sys2Proof.Machine

variable (s : State)

/-- Two states whose fields agree are equal: with the lemmas below, `t = { s with … }` comes field by field. -/
theorem State.ext_fields {s t : State} (h_pending : s.pending = t.pending)
    (h_freeCtr : s.freeCtr = t.freeCtr)
    (h_acceptCtr : s.acceptCtr = t.acceptCtr)
    (h_clk : s.clk = t.clk)
    (h_boot : s.boot = t.boot)
    (h_cxl : s.cxl = t.cxl)
    (h_fw : s.fw = t.fw)
    (h_spdm : s.spdm = t.spdm)
    (h_hub : s.hub = t.hub)
    (h_dev : s.dev = t.dev)
    (h_cnt : s.cnt = t.cnt)
    (h_log : s.log = t.log)
    (h_out : s.out = t.out)
    (h_rings : s.rings = t.rings)
    (h_places : s.places = t.places)
    (h_marl : s.marl = t.marl)
    (h_bank : s.bank = t.bank)
    (h_ctl : s.ctl = t.ctl)
    (h_seq : s.seq = t.seq)
    (h_eng : s.eng = t.eng)
    (h_serve : s.serve = t.serve)
    (h_lnk : s.lnk = t.lnk)
    (h_pwr : s.pwr = t.pwr)
    (h_keep : s.keep = t.keep)
    (h_tray : s.tray = t.tray)
    (h_grc : s.grc = t.grc) : s = t := by
  cases s; cases t; simp_all

/-- What no step of a fold changes, the fold does not change. -/
theorem foldl_keeps {α β : Type} (p : State → β) (g : State → α → State) (h : ∀ s a, p (g s a) = p s) (l : List α)
    (s : State) : p (l.foldl g s) = p s := by
  induction l generalizing s with
  | nil => rfl
  | cons a l ih => simp only [List.foldl_cons, ih, h]

/-! ### The log, the counters, the answers -/

@[simp] theorem logDev_keeps (cls code : Nat) (loc : U16) (d0 d1 : Nat) :
    (logDev cls code loc d0 d1 s).pending = s.pending ∧ (logDev cls code loc d0 d1 s).freeCtr = s.freeCtr
    ∧ (logDev cls code loc d0 d1 s).acceptCtr = s.acceptCtr ∧ (logDev cls code loc d0 d1 s).clk = s.clk
    ∧ (logDev cls code loc d0 d1 s).boot = s.boot ∧ (logDev cls code loc d0 d1 s).cxl = s.cxl
    ∧ (logDev cls code loc d0 d1 s).fw = s.fw ∧ (logDev cls code loc d0 d1 s).spdm = s.spdm
    ∧ (logDev cls code loc d0 d1 s).hub = s.hub ∧ (logDev cls code loc d0 d1 s).dev = s.dev
    ∧ (logDev cls code loc d0 d1 s).rings = s.rings ∧ (logDev cls code loc d0 d1 s).places = s.places
    ∧ (logDev cls code loc d0 d1 s).marl = s.marl ∧ (logDev cls code loc d0 d1 s).bank = s.bank
    ∧ (logDev cls code loc d0 d1 s).ctl = s.ctl ∧ (logDev cls code loc d0 d1 s).seq = s.seq
    ∧ (logDev cls code loc d0 d1 s).eng = s.eng ∧ (logDev cls code loc d0 d1 s).serve = s.serve
    ∧ (logDev cls code loc d0 d1 s).lnk = s.lnk ∧ (logDev cls code loc d0 d1 s).pwr = s.pwr
    ∧ (logDev cls code loc d0 d1 s).keep = s.keep ∧ (logDev cls code loc d0 d1 s).tray = s.tray
    ∧ (logDev cls code loc d0 d1 s).grc = s.grc := by
  simp [logDev]

@[simp] theorem logFn_keeps (cls code : Nat) (loc : U16) (f : Func) (d0 d1 : Nat) :
    (logFn cls code loc f d0 d1 s).pending = s.pending ∧ (logFn cls code loc f d0 d1 s).freeCtr = s.freeCtr
    ∧ (logFn cls code loc f d0 d1 s).acceptCtr = s.acceptCtr ∧ (logFn cls code loc f d0 d1 s).clk = s.clk
    ∧ (logFn cls code loc f d0 d1 s).boot = s.boot ∧ (logFn cls code loc f d0 d1 s).cxl = s.cxl
    ∧ (logFn cls code loc f d0 d1 s).fw = s.fw ∧ (logFn cls code loc f d0 d1 s).spdm = s.spdm
    ∧ (logFn cls code loc f d0 d1 s).hub = s.hub ∧ (logFn cls code loc f d0 d1 s).dev = s.dev
    ∧ (logFn cls code loc f d0 d1 s).rings = s.rings ∧ (logFn cls code loc f d0 d1 s).places = s.places
    ∧ (logFn cls code loc f d0 d1 s).marl = s.marl ∧ (logFn cls code loc f d0 d1 s).bank = s.bank
    ∧ (logFn cls code loc f d0 d1 s).ctl = s.ctl ∧ (logFn cls code loc f d0 d1 s).seq = s.seq
    ∧ (logFn cls code loc f d0 d1 s).eng = s.eng ∧ (logFn cls code loc f d0 d1 s).serve = s.serve
    ∧ (logFn cls code loc f d0 d1 s).lnk = s.lnk ∧ (logFn cls code loc f d0 d1 s).pwr = s.pwr
    ∧ (logFn cls code loc f d0 d1 s).keep = s.keep ∧ (logFn cls code loc f d0 d1 s).tray = s.tray
    ∧ (logFn cls code loc f d0 d1 s).grc = s.grc := by
  simp [logFn]

@[simp] theorem mbReply_keeps (path : MbPath) (code : MbCode) (ext : Nat) (payload : List Byte) :
    (mbReply path code ext payload s).pending = s.pending ∧ (mbReply path code ext payload s).freeCtr = s.freeCtr
    ∧ (mbReply path code ext payload s).acceptCtr = s.acceptCtr ∧ (mbReply path code ext payload s).clk = s.clk
    ∧ (mbReply path code ext payload s).boot = s.boot ∧ (mbReply path code ext payload s).fw = s.fw
    ∧ (mbReply path code ext payload s).spdm = s.spdm ∧ (mbReply path code ext payload s).hub = s.hub
    ∧ (mbReply path code ext payload s).dev = s.dev ∧ (mbReply path code ext payload s).cnt = s.cnt
    ∧ (mbReply path code ext payload s).log = s.log ∧ (mbReply path code ext payload s).rings = s.rings
    ∧ (mbReply path code ext payload s).places = s.places ∧ (mbReply path code ext payload s).marl = s.marl
    ∧ (mbReply path code ext payload s).bank = s.bank ∧ (mbReply path code ext payload s).ctl = s.ctl
    ∧ (mbReply path code ext payload s).seq = s.seq ∧ (mbReply path code ext payload s).eng = s.eng
    ∧ (mbReply path code ext payload s).serve = s.serve ∧ (mbReply path code ext payload s).lnk = s.lnk
    ∧ (mbReply path code ext payload s).pwr = s.pwr ∧ (mbReply path code ext payload s).keep = s.keep
    ∧ (mbReply path code ext payload s).tray = s.tray ∧ (mbReply path code ext payload s).grc = s.grc := by
  cases path <;> simp [mbReply]

@[simp] theorem doe_keeps (ws : List Nat) (bs : List Byte) :
    (doe ws bs s).pending = s.pending ∧ (doe ws bs s).freeCtr = s.freeCtr ∧ (doe ws bs s).acceptCtr = s.acceptCtr
    ∧ (doe ws bs s).clk = s.clk ∧ (doe ws bs s).boot = s.boot ∧ (doe ws bs s).cxl = s.cxl ∧ (doe ws bs s).fw = s.fw
    ∧ (doe ws bs s).spdm = s.spdm ∧ (doe ws bs s).hub = s.hub ∧ (doe ws bs s).dev = s.dev ∧ (doe ws bs s).cnt = s.cnt
    ∧ (doe ws bs s).log = s.log ∧ (doe ws bs s).rings = s.rings ∧ (doe ws bs s).places = s.places
    ∧ (doe ws bs s).marl = s.marl ∧ (doe ws bs s).bank = s.bank ∧ (doe ws bs s).ctl = s.ctl
    ∧ (doe ws bs s).seq = s.seq ∧ (doe ws bs s).eng = s.eng ∧ (doe ws bs s).serve = s.serve
    ∧ (doe ws bs s).lnk = s.lnk ∧ (doe ws bs s).pwr = s.pwr ∧ (doe ws bs s).keep = s.keep
    ∧ (doe ws bs s).tray = s.tray ∧ (doe ws bs s).grc = s.grc := by
  simp [doe]

@[simp] theorem doeError_keeps (code : Nat) :
    (doeError code s).pending = s.pending ∧ (doeError code s).freeCtr = s.freeCtr
    ∧ (doeError code s).acceptCtr = s.acceptCtr ∧ (doeError code s).clk = s.clk ∧ (doeError code s).boot = s.boot
    ∧ (doeError code s).cxl = s.cxl ∧ (doeError code s).fw = s.fw ∧ (doeError code s).spdm = s.spdm
    ∧ (doeError code s).hub = s.hub ∧ (doeError code s).dev = s.dev ∧ (doeError code s).cnt = s.cnt
    ∧ (doeError code s).log = s.log ∧ (doeError code s).rings = s.rings ∧ (doeError code s).places = s.places
    ∧ (doeError code s).marl = s.marl ∧ (doeError code s).bank = s.bank ∧ (doeError code s).ctl = s.ctl
    ∧ (doeError code s).seq = s.seq ∧ (doeError code s).eng = s.eng ∧ (doeError code s).serve = s.serve
    ∧ (doeError code s).lnk = s.lnk ∧ (doeError code s).pwr = s.pwr ∧ (doeError code s).keep = s.keep
    ∧ (doeError code s).tray = s.tray ∧ (doeError code s).grc = s.grc := by
  simp [doeError]

@[simp] theorem countEnding_keeps (f : Func) (st : Status) :
    (countEnding f st s).pending = s.pending ∧ (countEnding f st s).freeCtr = s.freeCtr
    ∧ (countEnding f st s).acceptCtr = s.acceptCtr ∧ (countEnding f st s).clk = s.clk
    ∧ (countEnding f st s).boot = s.boot ∧ (countEnding f st s).cxl = s.cxl ∧ (countEnding f st s).fw = s.fw
    ∧ (countEnding f st s).spdm = s.spdm ∧ (countEnding f st s).hub = s.hub ∧ (countEnding f st s).dev = s.dev
    ∧ (countEnding f st s).log = s.log ∧ (countEnding f st s).out = s.out ∧ (countEnding f st s).rings = s.rings
    ∧ (countEnding f st s).places = s.places ∧ (countEnding f st s).marl = s.marl ∧ (countEnding f st s).bank = s.bank
    ∧ (countEnding f st s).ctl = s.ctl ∧ (countEnding f st s).seq = s.seq ∧ (countEnding f st s).eng = s.eng
    ∧ (countEnding f st s).serve = s.serve ∧ (countEnding f st s).lnk = s.lnk ∧ (countEnding f st s).pwr = s.pwr
    ∧ (countEnding f st s).keep = s.keep ∧ (countEnding f st s).tray = s.tray ∧ (countEnding f st s).grc = s.grc := by
  unfold countEnding; (repeat' split) <;> simp

/-! ### Descriptors -/

@[simp] theorem addCond_keeps (p : Place) (st : Status) :
    (addCond p st s).pending = s.pending ∧ (addCond p st s).freeCtr = s.freeCtr
    ∧ (addCond p st s).acceptCtr = s.acceptCtr ∧ (addCond p st s).clk = s.clk ∧ (addCond p st s).boot = s.boot
    ∧ (addCond p st s).cxl = s.cxl ∧ (addCond p st s).fw = s.fw ∧ (addCond p st s).spdm = s.spdm
    ∧ (addCond p st s).hub = s.hub ∧ (addCond p st s).dev = s.dev ∧ (addCond p st s).cnt = s.cnt
    ∧ (addCond p st s).log = s.log ∧ (addCond p st s).out = s.out ∧ (addCond p st s).rings = s.rings
    ∧ (addCond p st s).marl = s.marl ∧ (addCond p st s).bank = s.bank ∧ (addCond p st s).ctl = s.ctl
    ∧ (addCond p st s).seq = s.seq ∧ (addCond p st s).eng = s.eng ∧ (addCond p st s).serve = s.serve
    ∧ (addCond p st s).lnk = s.lnk ∧ (addCond p st s).pwr = s.pwr ∧ (addCond p st s).keep = s.keep
    ∧ (addCond p st s).tray = s.tray ∧ (addCond p st s).grc = s.grc := by
  unfold addCond; split <;> simp

@[simp] theorem endDesc_keeps (p : Place) (st : Status) (detail : Nat) :
    (endDesc p st detail s).pending = s.pending ∧ (endDesc p st detail s).freeCtr = s.freeCtr
    ∧ (endDesc p st detail s).acceptCtr = s.acceptCtr ∧ (endDesc p st detail s).clk = s.clk
    ∧ (endDesc p st detail s).boot = s.boot ∧ (endDesc p st detail s).cxl = s.cxl ∧ (endDesc p st detail s).fw = s.fw
    ∧ (endDesc p st detail s).spdm = s.spdm ∧ (endDesc p st detail s).hub = s.hub
    ∧ (endDesc p st detail s).dev = s.dev ∧ (endDesc p st detail s).cnt = s.cnt ∧ (endDesc p st detail s).log = s.log
    ∧ (endDesc p st detail s).out = s.out ∧ (endDesc p st detail s).rings = s.rings
    ∧ (endDesc p st detail s).marl = s.marl ∧ (endDesc p st detail s).bank = s.bank
    ∧ (endDesc p st detail s).ctl = s.ctl ∧ (endDesc p st detail s).seq = s.seq ∧ (endDesc p st detail s).eng = s.eng
    ∧ (endDesc p st detail s).serve = s.serve ∧ (endDesc p st detail s).lnk = s.lnk
    ∧ (endDesc p st detail s).pwr = s.pwr ∧ (endDesc p st detail s).keep = s.keep
    ∧ (endDesc p st detail s).tray = s.tray ∧ (endDesc p st detail s).grc = s.grc := by
  unfold endDesc; split <;> simp

@[simp] theorem clipDesc_keeps (p : Place) (yes : Bool) :
    (clipDesc p yes s).pending = s.pending ∧ (clipDesc p yes s).freeCtr = s.freeCtr
    ∧ (clipDesc p yes s).acceptCtr = s.acceptCtr ∧ (clipDesc p yes s).clk = s.clk ∧ (clipDesc p yes s).boot = s.boot
    ∧ (clipDesc p yes s).cxl = s.cxl ∧ (clipDesc p yes s).fw = s.fw ∧ (clipDesc p yes s).spdm = s.spdm
    ∧ (clipDesc p yes s).hub = s.hub ∧ (clipDesc p yes s).dev = s.dev ∧ (clipDesc p yes s).cnt = s.cnt
    ∧ (clipDesc p yes s).log = s.log ∧ (clipDesc p yes s).out = s.out ∧ (clipDesc p yes s).rings = s.rings
    ∧ (clipDesc p yes s).marl = s.marl ∧ (clipDesc p yes s).bank = s.bank ∧ (clipDesc p yes s).ctl = s.ctl
    ∧ (clipDesc p yes s).seq = s.seq ∧ (clipDesc p yes s).eng = s.eng ∧ (clipDesc p yes s).serve = s.serve
    ∧ (clipDesc p yes s).lnk = s.lnk ∧ (clipDesc p yes s).pwr = s.pwr ∧ (clipDesc p yes s).keep = s.keep
    ∧ (clipDesc p yes s).tray = s.tray ∧ (clipDesc p yes s).grc = s.grc := by
  unfold clipDesc; (repeat' split) <;> simp

@[simp] theorem buildRecord_keeps (p : Place) (d : Desc) :
    (buildRecord p d s).pending = s.pending ∧ (buildRecord p d s).freeCtr = s.freeCtr
    ∧ (buildRecord p d s).acceptCtr = s.acceptCtr ∧ (buildRecord p d s).clk = s.clk
    ∧ (buildRecord p d s).boot = s.boot ∧ (buildRecord p d s).cxl = s.cxl ∧ (buildRecord p d s).fw = s.fw
    ∧ (buildRecord p d s).spdm = s.spdm ∧ (buildRecord p d s).hub = s.hub ∧ (buildRecord p d s).dev = s.dev
    ∧ (buildRecord p d s).marl = s.marl ∧ (buildRecord p d s).bank = s.bank ∧ (buildRecord p d s).ctl = s.ctl
    ∧ (buildRecord p d s).seq = s.seq ∧ (buildRecord p d s).eng = s.eng ∧ (buildRecord p d s).serve = s.serve
    ∧ (buildRecord p d s).lnk = s.lnk ∧ (buildRecord p d s).pwr = s.pwr ∧ (buildRecord p d s).keep = s.keep
    ∧ (buildRecord p d s).tray = s.tray ∧ (buildRecord p d s).grc = s.grc := by
  unfold buildRecord; simp only []; split <;> simp

@[simp] theorem copyCommitted_keeps (p : Place) :
    (copyCommitted p s).pending = s.pending ∧ (copyCommitted p s).freeCtr = s.freeCtr
    ∧ (copyCommitted p s).acceptCtr = s.acceptCtr ∧ (copyCommitted p s).clk = s.clk
    ∧ (copyCommitted p s).boot = s.boot ∧ (copyCommitted p s).cxl = s.cxl ∧ (copyCommitted p s).fw = s.fw
    ∧ (copyCommitted p s).spdm = s.spdm ∧ (copyCommitted p s).hub = s.hub ∧ (copyCommitted p s).dev = s.dev
    ∧ (copyCommitted p s).cnt = s.cnt ∧ (copyCommitted p s).log = s.log ∧ (copyCommitted p s).out = s.out
    ∧ (copyCommitted p s).rings = s.rings ∧ (copyCommitted p s).marl = s.marl ∧ (copyCommitted p s).bank = s.bank
    ∧ (copyCommitted p s).ctl = s.ctl ∧ (copyCommitted p s).seq = s.seq ∧ (copyCommitted p s).eng = s.eng
    ∧ (copyCommitted p s).serve = s.serve ∧ (copyCommitted p s).lnk = s.lnk ∧ (copyCommitted p s).pwr = s.pwr
    ∧ (copyCommitted p s).keep = s.keep ∧ (copyCommitted p s).tray = s.tray ∧ (copyCommitted p s).grc = s.grc := by
  unfold copyCommitted; split <;> simp

@[simp] theorem dropP1_keeps (p : Place) :
    (dropP1 p s).pending = s.pending ∧ (dropP1 p s).freeCtr = s.freeCtr ∧ (dropP1 p s).acceptCtr = s.acceptCtr
    ∧ (dropP1 p s).clk = s.clk ∧ (dropP1 p s).boot = s.boot ∧ (dropP1 p s).cxl = s.cxl ∧ (dropP1 p s).fw = s.fw
    ∧ (dropP1 p s).spdm = s.spdm ∧ (dropP1 p s).hub = s.hub ∧ (dropP1 p s).dev = s.dev ∧ (dropP1 p s).cnt = s.cnt
    ∧ (dropP1 p s).log = s.log ∧ (dropP1 p s).out = s.out ∧ (dropP1 p s).rings = s.rings ∧ (dropP1 p s).marl = s.marl
    ∧ (dropP1 p s).bank = s.bank ∧ (dropP1 p s).seq = s.seq ∧ (dropP1 p s).eng = s.eng ∧ (dropP1 p s).serve = s.serve
    ∧ (dropP1 p s).lnk = s.lnk ∧ (dropP1 p s).pwr = s.pwr ∧ (dropP1 p s).keep = s.keep ∧ (dropP1 p s).tray = s.tray
    ∧ (dropP1 p s).grc = s.grc := by
  unfold dropP1; simp only []; split <;> simp

@[simp] theorem dropCopyCmd_keeps (p : Place) :
    (dropCopyCmd p s).pending = s.pending ∧ (dropCopyCmd p s).freeCtr = s.freeCtr
    ∧ (dropCopyCmd p s).acceptCtr = s.acceptCtr ∧ (dropCopyCmd p s).clk = s.clk ∧ (dropCopyCmd p s).boot = s.boot
    ∧ (dropCopyCmd p s).cxl = s.cxl ∧ (dropCopyCmd p s).fw = s.fw ∧ (dropCopyCmd p s).spdm = s.spdm
    ∧ (dropCopyCmd p s).hub = s.hub ∧ (dropCopyCmd p s).dev = s.dev ∧ (dropCopyCmd p s).cnt = s.cnt
    ∧ (dropCopyCmd p s).log = s.log ∧ (dropCopyCmd p s).out = s.out ∧ (dropCopyCmd p s).rings = s.rings
    ∧ (dropCopyCmd p s).places = s.places ∧ (dropCopyCmd p s).marl = s.marl ∧ (dropCopyCmd p s).bank = s.bank
    ∧ (dropCopyCmd p s).ctl = s.ctl ∧ (dropCopyCmd p s).serve = s.serve ∧ (dropCopyCmd p s).lnk = s.lnk
    ∧ (dropCopyCmd p s).pwr = s.pwr ∧ (dropCopyCmd p s).keep = s.keep ∧ (dropCopyCmd p s).tray = s.tray
    ∧ (dropCopyCmd p s).grc = s.grc := by
  simp [dropCopyCmd]

@[simp] theorem clearPage_keeps (pg : Nat) :
    (clearPage pg s).pending = s.pending ∧ (clearPage pg s).freeCtr = s.freeCtr
    ∧ (clearPage pg s).acceptCtr = s.acceptCtr ∧ (clearPage pg s).clk = s.clk ∧ (clearPage pg s).boot = s.boot
    ∧ (clearPage pg s).cxl = s.cxl ∧ (clearPage pg s).fw = s.fw ∧ (clearPage pg s).spdm = s.spdm
    ∧ (clearPage pg s).hub = s.hub ∧ (clearPage pg s).dev = s.dev ∧ (clearPage pg s).cnt = s.cnt
    ∧ (clearPage pg s).log = s.log ∧ (clearPage pg s).out = s.out ∧ (clearPage pg s).rings = s.rings
    ∧ (clearPage pg s).places = s.places ∧ (clearPage pg s).ctl = s.ctl ∧ (clearPage pg s).seq = s.seq
    ∧ (clearPage pg s).eng = s.eng ∧ (clearPage pg s).serve = s.serve ∧ (clearPage pg s).lnk = s.lnk
    ∧ (clearPage pg s).pwr = s.pwr ∧ (clearPage pg s).keep = s.keep ∧ (clearPage pg s).tray = s.tray
    ∧ (clearPage pg s).grc = s.grc := by
  simp [clearPage]

/-! ### The banks and the Marl -/

@[simp] theorem setColAt_keeps (w : Nat) (d : ColData) (poison : Bool) :
    (setColAt w d poison s).pending = s.pending ∧ (setColAt w d poison s).freeCtr = s.freeCtr
    ∧ (setColAt w d poison s).acceptCtr = s.acceptCtr ∧ (setColAt w d poison s).clk = s.clk
    ∧ (setColAt w d poison s).boot = s.boot ∧ (setColAt w d poison s).cxl = s.cxl ∧ (setColAt w d poison s).fw = s.fw
    ∧ (setColAt w d poison s).spdm = s.spdm ∧ (setColAt w d poison s).hub = s.hub
    ∧ (setColAt w d poison s).dev = s.dev ∧ (setColAt w d poison s).cnt = s.cnt ∧ (setColAt w d poison s).log = s.log
    ∧ (setColAt w d poison s).out = s.out ∧ (setColAt w d poison s).rings = s.rings
    ∧ (setColAt w d poison s).places = s.places ∧ (setColAt w d poison s).marl = s.marl
    ∧ (setColAt w d poison s).ctl = s.ctl ∧ (setColAt w d poison s).seq = s.seq ∧ (setColAt w d poison s).eng = s.eng
    ∧ (setColAt w d poison s).serve = s.serve ∧ (setColAt w d poison s).lnk = s.lnk
    ∧ (setColAt w d poison s).pwr = s.pwr ∧ (setColAt w d poison s).keep = s.keep
    ∧ (setColAt w d poison s).tray = s.tray ∧ (setColAt w d poison s).grc = s.grc := by
  simp [setColAt]

@[simp] theorem noteCorrected_keeps (c r : Nat) :
    (noteCorrected c r s).pending = s.pending ∧ (noteCorrected c r s).freeCtr = s.freeCtr
    ∧ (noteCorrected c r s).acceptCtr = s.acceptCtr ∧ (noteCorrected c r s).clk = s.clk
    ∧ (noteCorrected c r s).boot = s.boot ∧ (noteCorrected c r s).cxl = s.cxl ∧ (noteCorrected c r s).fw = s.fw
    ∧ (noteCorrected c r s).spdm = s.spdm ∧ (noteCorrected c r s).hub = s.hub ∧ (noteCorrected c r s).dev = s.dev
    ∧ (noteCorrected c r s).log = s.log ∧ (noteCorrected c r s).out = s.out ∧ (noteCorrected c r s).rings = s.rings
    ∧ (noteCorrected c r s).places = s.places ∧ (noteCorrected c r s).marl = s.marl
    ∧ (noteCorrected c r s).bank = s.bank ∧ (noteCorrected c r s).seq = s.seq ∧ (noteCorrected c r s).eng = s.eng
    ∧ (noteCorrected c r s).serve = s.serve ∧ (noteCorrected c r s).lnk = s.lnk ∧ (noteCorrected c r s).pwr = s.pwr
    ∧ (noteCorrected c r s).keep = s.keep ∧ (noteCorrected c r s).tray = s.tray ∧ (noteCorrected c r s).grc = s.grc := by
  simp [noteCorrected]

@[simp] theorem noteRead_keeps (c r bank row col : Nat) (ws : List Nat) :
    (noteRead c r bank row col ws s).pending = s.pending ∧ (noteRead c r bank row col ws s).freeCtr = s.freeCtr
    ∧ (noteRead c r bank row col ws s).acceptCtr = s.acceptCtr ∧ (noteRead c r bank row col ws s).clk = s.clk
    ∧ (noteRead c r bank row col ws s).boot = s.boot ∧ (noteRead c r bank row col ws s).cxl = s.cxl
    ∧ (noteRead c r bank row col ws s).fw = s.fw ∧ (noteRead c r bank row col ws s).spdm = s.spdm
    ∧ (noteRead c r bank row col ws s).hub = s.hub ∧ (noteRead c r bank row col ws s).dev = s.dev
    ∧ (noteRead c r bank row col ws s).log = s.log ∧ (noteRead c r bank row col ws s).out = s.out
    ∧ (noteRead c r bank row col ws s).rings = s.rings ∧ (noteRead c r bank row col ws s).places = s.places
    ∧ (noteRead c r bank row col ws s).marl = s.marl ∧ (noteRead c r bank row col ws s).bank = s.bank
    ∧ (noteRead c r bank row col ws s).seq = s.seq ∧ (noteRead c r bank row col ws s).eng = s.eng
    ∧ (noteRead c r bank row col ws s).serve = s.serve ∧ (noteRead c r bank row col ws s).lnk = s.lnk
    ∧ (noteRead c r bank row col ws s).pwr = s.pwr ∧ (noteRead c r bank row col ws s).keep = s.keep
    ∧ (noteRead c r bank row col ws s).tray = s.tray ∧ (noteRead c r bank row col ws s).grc = s.grc := by
  unfold noteRead; simp only []; (repeat' split) <;> simp

@[simp] theorem noteIssued_keeps (c r bank row col : Nat) (data : Wide) (mask : BitVec 128) (poison : Bool) :
    (noteIssued c r bank row col data mask poison s).pending = s.pending
    ∧ (noteIssued c r bank row col data mask poison s).freeCtr = s.freeCtr
    ∧ (noteIssued c r bank row col data mask poison s).acceptCtr = s.acceptCtr
    ∧ (noteIssued c r bank row col data mask poison s).clk = s.clk
    ∧ (noteIssued c r bank row col data mask poison s).boot = s.boot
    ∧ (noteIssued c r bank row col data mask poison s).cxl = s.cxl
    ∧ (noteIssued c r bank row col data mask poison s).fw = s.fw
    ∧ (noteIssued c r bank row col data mask poison s).spdm = s.spdm
    ∧ (noteIssued c r bank row col data mask poison s).hub = s.hub
    ∧ (noteIssued c r bank row col data mask poison s).dev = s.dev
    ∧ (noteIssued c r bank row col data mask poison s).cnt = s.cnt
    ∧ (noteIssued c r bank row col data mask poison s).log = s.log
    ∧ (noteIssued c r bank row col data mask poison s).out = s.out
    ∧ (noteIssued c r bank row col data mask poison s).rings = s.rings
    ∧ (noteIssued c r bank row col data mask poison s).places = s.places
    ∧ (noteIssued c r bank row col data mask poison s).marl = s.marl
    ∧ (noteIssued c r bank row col data mask poison s).bank = s.bank
    ∧ (noteIssued c r bank row col data mask poison s).seq = s.seq
    ∧ (noteIssued c r bank row col data mask poison s).eng = s.eng
    ∧ (noteIssued c r bank row col data mask poison s).serve = s.serve
    ∧ (noteIssued c r bank row col data mask poison s).lnk = s.lnk
    ∧ (noteIssued c r bank row col data mask poison s).pwr = s.pwr
    ∧ (noteIssued c r bank row col data mask poison s).keep = s.keep
    ∧ (noteIssued c r bank row col data mask poison s).tray = s.tray
    ∧ (noteIssued c r bank row col data mask poison s).grc = s.grc := by
  simp [noteIssued]

@[simp] theorem storeUnit_keeps (ws : List Nat) (data : Wide) (mask : BitVec 128) (poison : Bool) :
    (storeUnit ws data mask poison s).pending = s.pending ∧ (storeUnit ws data mask poison s).freeCtr = s.freeCtr
    ∧ (storeUnit ws data mask poison s).acceptCtr = s.acceptCtr ∧ (storeUnit ws data mask poison s).clk = s.clk
    ∧ (storeUnit ws data mask poison s).boot = s.boot ∧ (storeUnit ws data mask poison s).cxl = s.cxl
    ∧ (storeUnit ws data mask poison s).fw = s.fw ∧ (storeUnit ws data mask poison s).spdm = s.spdm
    ∧ (storeUnit ws data mask poison s).hub = s.hub ∧ (storeUnit ws data mask poison s).dev = s.dev
    ∧ (storeUnit ws data mask poison s).cnt = s.cnt ∧ (storeUnit ws data mask poison s).log = s.log
    ∧ (storeUnit ws data mask poison s).out = s.out ∧ (storeUnit ws data mask poison s).rings = s.rings
    ∧ (storeUnit ws data mask poison s).places = s.places ∧ (storeUnit ws data mask poison s).marl = s.marl
    ∧ (storeUnit ws data mask poison s).ctl = s.ctl ∧ (storeUnit ws data mask poison s).seq = s.seq
    ∧ (storeUnit ws data mask poison s).eng = s.eng ∧ (storeUnit ws data mask poison s).serve = s.serve
    ∧ (storeUnit ws data mask poison s).lnk = s.lnk ∧ (storeUnit ws data mask poison s).pwr = s.pwr
    ∧ (storeUnit ws data mask poison s).keep = s.keep ∧ (storeUnit ws data mask poison s).tray = s.tray
    ∧ (storeUnit ws data mask poison s).grc = s.grc := by
  unfold storeUnit; refine ⟨?_, ?_, ?_, ?_, ?_, ?_, ?_, ?_, ?_, ?_, ?_, ?_, ?_, ?_, ?_, ?_, ?_, ?_, ?_, ?_, ?_, ?_, ?_, ?_, ?_⟩ <;> exact foldl_keeps _ _ (fun _ _ => by simp) _ _

@[simp] theorem writeUnit_keeps (c r bank row col : Nat) (data : Wide) (mask : BitVec 128) (poison : Bool) :
    (writeUnit c r bank row col data mask poison s).pending = s.pending
    ∧ (writeUnit c r bank row col data mask poison s).freeCtr = s.freeCtr
    ∧ (writeUnit c r bank row col data mask poison s).acceptCtr = s.acceptCtr
    ∧ (writeUnit c r bank row col data mask poison s).clk = s.clk
    ∧ (writeUnit c r bank row col data mask poison s).boot = s.boot
    ∧ (writeUnit c r bank row col data mask poison s).cxl = s.cxl
    ∧ (writeUnit c r bank row col data mask poison s).fw = s.fw
    ∧ (writeUnit c r bank row col data mask poison s).spdm = s.spdm
    ∧ (writeUnit c r bank row col data mask poison s).hub = s.hub
    ∧ (writeUnit c r bank row col data mask poison s).dev = s.dev
    ∧ (writeUnit c r bank row col data mask poison s).log = s.log
    ∧ (writeUnit c r bank row col data mask poison s).out = s.out
    ∧ (writeUnit c r bank row col data mask poison s).rings = s.rings
    ∧ (writeUnit c r bank row col data mask poison s).places = s.places
    ∧ (writeUnit c r bank row col data mask poison s).marl = s.marl
    ∧ (writeUnit c r bank row col data mask poison s).seq = s.seq
    ∧ (writeUnit c r bank row col data mask poison s).eng = s.eng
    ∧ (writeUnit c r bank row col data mask poison s).serve = s.serve
    ∧ (writeUnit c r bank row col data mask poison s).lnk = s.lnk
    ∧ (writeUnit c r bank row col data mask poison s).pwr = s.pwr
    ∧ (writeUnit c r bank row col data mask poison s).keep = s.keep
    ∧ (writeUnit c r bank row col data mask poison s).tray = s.tray
    ∧ (writeUnit c r bank row col data mask poison s).grc = s.grc := by
  unfold writeUnit; simp only [storeUnit_keeps, noteIssued_keeps]; split <;> simp

@[simp] theorem putUnit_keeps (l : Loc) (data : Wide) (mask : BitVec 128) (poison : Bool) :
    (putUnit l data mask poison s).pending = s.pending ∧ (putUnit l data mask poison s).freeCtr = s.freeCtr
    ∧ (putUnit l data mask poison s).acceptCtr = s.acceptCtr ∧ (putUnit l data mask poison s).clk = s.clk
    ∧ (putUnit l data mask poison s).boot = s.boot ∧ (putUnit l data mask poison s).cxl = s.cxl
    ∧ (putUnit l data mask poison s).fw = s.fw ∧ (putUnit l data mask poison s).spdm = s.spdm
    ∧ (putUnit l data mask poison s).hub = s.hub ∧ (putUnit l data mask poison s).dev = s.dev
    ∧ (putUnit l data mask poison s).log = s.log ∧ (putUnit l data mask poison s).out = s.out
    ∧ (putUnit l data mask poison s).rings = s.rings ∧ (putUnit l data mask poison s).places = s.places
    ∧ (putUnit l data mask poison s).marl = s.marl ∧ (putUnit l data mask poison s).seq = s.seq
    ∧ (putUnit l data mask poison s).eng = s.eng ∧ (putUnit l data mask poison s).serve = s.serve
    ∧ (putUnit l data mask poison s).lnk = s.lnk ∧ (putUnit l data mask poison s).pwr = s.pwr
    ∧ (putUnit l data mask poison s).keep = s.keep ∧ (putUnit l data mask poison s).tray = s.tray
    ∧ (putUnit l data mask poison s).grc = s.grc := by
  unfold putUnit; simp only []; split <;> simp

@[simp] theorem writeWords_keeps (xs : List WordWrite) :
    (writeWords xs s).pending = s.pending ∧ (writeWords xs s).freeCtr = s.freeCtr
    ∧ (writeWords xs s).acceptCtr = s.acceptCtr ∧ (writeWords xs s).clk = s.clk ∧ (writeWords xs s).boot = s.boot
    ∧ (writeWords xs s).cxl = s.cxl ∧ (writeWords xs s).fw = s.fw ∧ (writeWords xs s).spdm = s.spdm
    ∧ (writeWords xs s).hub = s.hub ∧ (writeWords xs s).dev = s.dev ∧ (writeWords xs s).log = s.log
    ∧ (writeWords xs s).out = s.out ∧ (writeWords xs s).rings = s.rings ∧ (writeWords xs s).places = s.places
    ∧ (writeWords xs s).marl = s.marl ∧ (writeWords xs s).seq = s.seq ∧ (writeWords xs s).eng = s.eng
    ∧ (writeWords xs s).serve = s.serve ∧ (writeWords xs s).lnk = s.lnk ∧ (writeWords xs s).pwr = s.pwr
    ∧ (writeWords xs s).keep = s.keep ∧ (writeWords xs s).tray = s.tray ∧ (writeWords xs s).grc = s.grc := by
  unfold writeWords; refine ⟨?_, ?_, ?_, ?_, ?_, ?_, ?_, ?_, ?_, ?_, ?_, ?_, ?_, ?_, ?_, ?_, ?_, ?_, ?_, ?_, ?_, ?_, ?_⟩ <;> refine foldl_keeps _ _ (fun _ _ => ?_) _ _ <;> (split <;> [rfl; (split <;> simp)])

@[simp] theorem setCopy_keeps (w : Nat) (c : Copy) :
    (setCopy w c s).pending = s.pending ∧ (setCopy w c s).freeCtr = s.freeCtr
    ∧ (setCopy w c s).acceptCtr = s.acceptCtr ∧ (setCopy w c s).clk = s.clk ∧ (setCopy w c s).boot = s.boot
    ∧ (setCopy w c s).cxl = s.cxl ∧ (setCopy w c s).fw = s.fw ∧ (setCopy w c s).spdm = s.spdm
    ∧ (setCopy w c s).hub = s.hub ∧ (setCopy w c s).dev = s.dev ∧ (setCopy w c s).cnt = s.cnt
    ∧ (setCopy w c s).log = s.log ∧ (setCopy w c s).out = s.out ∧ (setCopy w c s).rings = s.rings
    ∧ (setCopy w c s).places = s.places ∧ (setCopy w c s).bank = s.bank ∧ (setCopy w c s).ctl = s.ctl
    ∧ (setCopy w c s).seq = s.seq ∧ (setCopy w c s).eng = s.eng ∧ (setCopy w c s).serve = s.serve
    ∧ (setCopy w c s).lnk = s.lnk ∧ (setCopy w c s).pwr = s.pwr ∧ (setCopy w c s).keep = s.keep
    ∧ (setCopy w c s).tray = s.tray ∧ (setCopy w c s).grc = s.grc := by
  simp [setCopy]

@[simp] theorem dropCopy_keeps (w : Nat) :
    (dropCopy w s).pending = s.pending ∧ (dropCopy w s).freeCtr = s.freeCtr ∧ (dropCopy w s).acceptCtr = s.acceptCtr
    ∧ (dropCopy w s).clk = s.clk ∧ (dropCopy w s).boot = s.boot ∧ (dropCopy w s).cxl = s.cxl
    ∧ (dropCopy w s).fw = s.fw ∧ (dropCopy w s).spdm = s.spdm ∧ (dropCopy w s).hub = s.hub
    ∧ (dropCopy w s).dev = s.dev ∧ (dropCopy w s).cnt = s.cnt ∧ (dropCopy w s).log = s.log
    ∧ (dropCopy w s).out = s.out ∧ (dropCopy w s).rings = s.rings ∧ (dropCopy w s).places = s.places
    ∧ (dropCopy w s).bank = s.bank ∧ (dropCopy w s).ctl = s.ctl ∧ (dropCopy w s).seq = s.seq
    ∧ (dropCopy w s).eng = s.eng ∧ (dropCopy w s).serve = s.serve ∧ (dropCopy w s).lnk = s.lnk
    ∧ (dropCopy w s).pwr = s.pwr ∧ (dropCopy w s).keep = s.keep ∧ (dropCopy w s).tray = s.tray
    ∧ (dropCopy w s).grc = s.grc := by
  simp [dropCopy]

@[simp] theorem markBound_keeps (key w : Nat) :
    (markBound key w s).pending = s.pending ∧ (markBound key w s).freeCtr = s.freeCtr
    ∧ (markBound key w s).acceptCtr = s.acceptCtr ∧ (markBound key w s).clk = s.clk
    ∧ (markBound key w s).boot = s.boot ∧ (markBound key w s).cxl = s.cxl ∧ (markBound key w s).fw = s.fw
    ∧ (markBound key w s).spdm = s.spdm ∧ (markBound key w s).hub = s.hub ∧ (markBound key w s).dev = s.dev
    ∧ (markBound key w s).cnt = s.cnt ∧ (markBound key w s).log = s.log ∧ (markBound key w s).out = s.out
    ∧ (markBound key w s).rings = s.rings ∧ (markBound key w s).places = s.places ∧ (markBound key w s).bank = s.bank
    ∧ (markBound key w s).ctl = s.ctl ∧ (markBound key w s).seq = s.seq ∧ (markBound key w s).eng = s.eng
    ∧ (markBound key w s).serve = s.serve ∧ (markBound key w s).lnk = s.lnk ∧ (markBound key w s).pwr = s.pwr
    ∧ (markBound key w s).keep = s.keep ∧ (markBound key w s).tray = s.tray ∧ (markBound key w s).grc = s.grc := by
  unfold markBound; split <;> simp

@[simp] theorem touchBound_keeps (key off : Nat) :
    (touchBound key off s).pending = s.pending ∧ (touchBound key off s).freeCtr = s.freeCtr
    ∧ (touchBound key off s).acceptCtr = s.acceptCtr ∧ (touchBound key off s).clk = s.clk
    ∧ (touchBound key off s).boot = s.boot ∧ (touchBound key off s).cxl = s.cxl ∧ (touchBound key off s).fw = s.fw
    ∧ (touchBound key off s).spdm = s.spdm ∧ (touchBound key off s).hub = s.hub ∧ (touchBound key off s).dev = s.dev
    ∧ (touchBound key off s).cnt = s.cnt ∧ (touchBound key off s).log = s.log ∧ (touchBound key off s).out = s.out
    ∧ (touchBound key off s).rings = s.rings ∧ (touchBound key off s).places = s.places
    ∧ (touchBound key off s).bank = s.bank ∧ (touchBound key off s).ctl = s.ctl ∧ (touchBound key off s).seq = s.seq
    ∧ (touchBound key off s).eng = s.eng ∧ (touchBound key off s).serve = s.serve ∧ (touchBound key off s).lnk = s.lnk
    ∧ (touchBound key off s).pwr = s.pwr ∧ (touchBound key off s).keep = s.keep ∧ (touchBound key off s).tray = s.tray
    ∧ (touchBound key off s).grc = s.grc := by
  unfold touchBound; refine ⟨?_, ?_, ?_, ?_, ?_, ?_, ?_, ?_, ?_, ?_, ?_, ?_, ?_, ?_, ?_, ?_, ?_, ?_, ?_, ?_, ?_, ?_, ?_, ?_, ?_⟩ <;> refine foldl_keeps _ _ (fun _ _ => ?_) _ _ <;> (split <;> [exact foldl_keeps _ _ (fun _ _ => by simp) _ _; rfl])

@[simp] theorem writeRegion_keeps (key off : Nat) (v : SramLine) :
    (writeRegion key off v s).pending = s.pending ∧ (writeRegion key off v s).freeCtr = s.freeCtr
    ∧ (writeRegion key off v s).acceptCtr = s.acceptCtr ∧ (writeRegion key off v s).clk = s.clk
    ∧ (writeRegion key off v s).boot = s.boot ∧ (writeRegion key off v s).cxl = s.cxl
    ∧ (writeRegion key off v s).fw = s.fw ∧ (writeRegion key off v s).spdm = s.spdm
    ∧ (writeRegion key off v s).hub = s.hub ∧ (writeRegion key off v s).dev = s.dev
    ∧ (writeRegion key off v s).cnt = s.cnt ∧ (writeRegion key off v s).log = s.log
    ∧ (writeRegion key off v s).out = s.out ∧ (writeRegion key off v s).rings = s.rings
    ∧ (writeRegion key off v s).places = s.places ∧ (writeRegion key off v s).bank = s.bank
    ∧ (writeRegion key off v s).ctl = s.ctl ∧ (writeRegion key off v s).seq = s.seq
    ∧ (writeRegion key off v s).eng = s.eng ∧ (writeRegion key off v s).serve = s.serve
    ∧ (writeRegion key off v s).lnk = s.lnk ∧ (writeRegion key off v s).pwr = s.pwr
    ∧ (writeRegion key off v s).keep = s.keep ∧ (writeRegion key off v s).tray = s.tray
    ∧ (writeRegion key off v s).grc = s.grc := by
  simp [writeRegion]

@[simp] theorem setRegionCol_keeps (key off : Nat) (d : ColData) (mask : BitVec 32) (poison : Bool) :
    (setRegionCol key off d mask poison s).pending = s.pending
    ∧ (setRegionCol key off d mask poison s).freeCtr = s.freeCtr
    ∧ (setRegionCol key off d mask poison s).acceptCtr = s.acceptCtr
    ∧ (setRegionCol key off d mask poison s).clk = s.clk ∧ (setRegionCol key off d mask poison s).boot = s.boot
    ∧ (setRegionCol key off d mask poison s).cxl = s.cxl ∧ (setRegionCol key off d mask poison s).fw = s.fw
    ∧ (setRegionCol key off d mask poison s).spdm = s.spdm ∧ (setRegionCol key off d mask poison s).hub = s.hub
    ∧ (setRegionCol key off d mask poison s).dev = s.dev ∧ (setRegionCol key off d mask poison s).cnt = s.cnt
    ∧ (setRegionCol key off d mask poison s).log = s.log ∧ (setRegionCol key off d mask poison s).out = s.out
    ∧ (setRegionCol key off d mask poison s).rings = s.rings
    ∧ (setRegionCol key off d mask poison s).places = s.places ∧ (setRegionCol key off d mask poison s).bank = s.bank
    ∧ (setRegionCol key off d mask poison s).ctl = s.ctl ∧ (setRegionCol key off d mask poison s).seq = s.seq
    ∧ (setRegionCol key off d mask poison s).eng = s.eng ∧ (setRegionCol key off d mask poison s).serve = s.serve
    ∧ (setRegionCol key off d mask poison s).lnk = s.lnk ∧ (setRegionCol key off d mask poison s).pwr = s.pwr
    ∧ (setRegionCol key off d mask poison s).keep = s.keep ∧ (setRegionCol key off d mask poison s).tray = s.tray
    ∧ (setRegionCol key off d mask poison s).grc = s.grc := by
  simp [setRegionCol]

@[simp] theorem commitCol_keeps (w : Nat) (d : ColData) (mask : BitVec 32) (poison whole : Bool) :
    (commitCol w d mask poison whole s).pending = s.pending ∧ (commitCol w d mask poison whole s).freeCtr = s.freeCtr
    ∧ (commitCol w d mask poison whole s).acceptCtr = s.acceptCtr ∧ (commitCol w d mask poison whole s).clk = s.clk
    ∧ (commitCol w d mask poison whole s).boot = s.boot ∧ (commitCol w d mask poison whole s).cxl = s.cxl
    ∧ (commitCol w d mask poison whole s).fw = s.fw ∧ (commitCol w d mask poison whole s).spdm = s.spdm
    ∧ (commitCol w d mask poison whole s).hub = s.hub ∧ (commitCol w d mask poison whole s).dev = s.dev
    ∧ (commitCol w d mask poison whole s).cnt = s.cnt ∧ (commitCol w d mask poison whole s).log = s.log
    ∧ (commitCol w d mask poison whole s).out = s.out ∧ (commitCol w d mask poison whole s).rings = s.rings
    ∧ (commitCol w d mask poison whole s).places = s.places ∧ (commitCol w d mask poison whole s).bank = s.bank
    ∧ (commitCol w d mask poison whole s).ctl = s.ctl ∧ (commitCol w d mask poison whole s).seq = s.seq
    ∧ (commitCol w d mask poison whole s).eng = s.eng ∧ (commitCol w d mask poison whole s).serve = s.serve
    ∧ (commitCol w d mask poison whole s).lnk = s.lnk ∧ (commitCol w d mask poison whole s).pwr = s.pwr
    ∧ (commitCol w d mask poison whole s).keep = s.keep ∧ (commitCol w d mask poison whole s).tray = s.tray
    ∧ (commitCol w d mask poison whole s).grc = s.grc := by
  unfold commitCol; (repeat' split) <;> simp

@[simp] theorem commitLine_keeps (ws : List Nat) (d : Line) (mask : BitVec 64) (poison : Bool) :
    (commitLine ws d mask poison s).pending = s.pending ∧ (commitLine ws d mask poison s).freeCtr = s.freeCtr
    ∧ (commitLine ws d mask poison s).acceptCtr = s.acceptCtr ∧ (commitLine ws d mask poison s).clk = s.clk
    ∧ (commitLine ws d mask poison s).boot = s.boot ∧ (commitLine ws d mask poison s).cxl = s.cxl
    ∧ (commitLine ws d mask poison s).fw = s.fw ∧ (commitLine ws d mask poison s).spdm = s.spdm
    ∧ (commitLine ws d mask poison s).hub = s.hub ∧ (commitLine ws d mask poison s).dev = s.dev
    ∧ (commitLine ws d mask poison s).cnt = s.cnt ∧ (commitLine ws d mask poison s).log = s.log
    ∧ (commitLine ws d mask poison s).out = s.out ∧ (commitLine ws d mask poison s).rings = s.rings
    ∧ (commitLine ws d mask poison s).places = s.places ∧ (commitLine ws d mask poison s).bank = s.bank
    ∧ (commitLine ws d mask poison s).ctl = s.ctl ∧ (commitLine ws d mask poison s).seq = s.seq
    ∧ (commitLine ws d mask poison s).eng = s.eng ∧ (commitLine ws d mask poison s).serve = s.serve
    ∧ (commitLine ws d mask poison s).lnk = s.lnk ∧ (commitLine ws d mask poison s).pwr = s.pwr
    ∧ (commitLine ws d mask poison s).keep = s.keep ∧ (commitLine ws d mask poison s).tray = s.tray
    ∧ (commitLine ws d mask poison s).grc = s.grc := by
  simp [commitLine]

@[simp] theorem writeBackWords_keeps (ws : List Nat) :
    (writeBackWords ws s).pending = s.pending ∧ (writeBackWords ws s).freeCtr = s.freeCtr
    ∧ (writeBackWords ws s).acceptCtr = s.acceptCtr ∧ (writeBackWords ws s).clk = s.clk
    ∧ (writeBackWords ws s).boot = s.boot ∧ (writeBackWords ws s).cxl = s.cxl ∧ (writeBackWords ws s).fw = s.fw
    ∧ (writeBackWords ws s).spdm = s.spdm ∧ (writeBackWords ws s).hub = s.hub ∧ (writeBackWords ws s).dev = s.dev
    ∧ (writeBackWords ws s).log = s.log ∧ (writeBackWords ws s).out = s.out ∧ (writeBackWords ws s).rings = s.rings
    ∧ (writeBackWords ws s).places = s.places ∧ (writeBackWords ws s).seq = s.seq ∧ (writeBackWords ws s).eng = s.eng
    ∧ (writeBackWords ws s).serve = s.serve ∧ (writeBackWords ws s).lnk = s.lnk ∧ (writeBackWords ws s).pwr = s.pwr
    ∧ (writeBackWords ws s).keep = s.keep ∧ (writeBackWords ws s).tray = s.tray ∧ (writeBackWords ws s).grc = s.grc := by
  unfold writeBackWords; simp only [writeWords_keeps]; refine ⟨?_, ?_, ?_, ?_, ?_, ?_, ?_, ?_, ?_, ?_, ?_, ?_, ?_, ?_, ?_, ?_, ?_, ?_, ?_, ?_, ?_, ?_⟩ <;> exact foldl_keeps _ _ (fun _ _ => by simp) _ _

@[simp] theorem writeBackAll_keeps (ws : List Nat) :
    (writeBackAll ws s).pending = s.pending ∧ (writeBackAll ws s).freeCtr = s.freeCtr
    ∧ (writeBackAll ws s).acceptCtr = s.acceptCtr ∧ (writeBackAll ws s).clk = s.clk
    ∧ (writeBackAll ws s).boot = s.boot ∧ (writeBackAll ws s).cxl = s.cxl ∧ (writeBackAll ws s).fw = s.fw
    ∧ (writeBackAll ws s).spdm = s.spdm ∧ (writeBackAll ws s).hub = s.hub ∧ (writeBackAll ws s).dev = s.dev
    ∧ (writeBackAll ws s).log = s.log ∧ (writeBackAll ws s).out = s.out ∧ (writeBackAll ws s).rings = s.rings
    ∧ (writeBackAll ws s).places = s.places ∧ (writeBackAll ws s).seq = s.seq ∧ (writeBackAll ws s).eng = s.eng
    ∧ (writeBackAll ws s).serve = s.serve ∧ (writeBackAll ws s).lnk = s.lnk ∧ (writeBackAll ws s).pwr = s.pwr
    ∧ (writeBackAll ws s).keep = s.keep ∧ (writeBackAll ws s).tray = s.tray ∧ (writeBackAll ws s).grc = s.grc := by
  simp [writeBackAll]

/-! ### What some endings leave undefined -/

@[simp] theorem noteSpan_keeps (p : Place) (x : Span) :
    (noteSpan p x s).pending = s.pending ∧ (noteSpan p x s).freeCtr = s.freeCtr
    ∧ (noteSpan p x s).acceptCtr = s.acceptCtr ∧ (noteSpan p x s).clk = s.clk ∧ (noteSpan p x s).boot = s.boot
    ∧ (noteSpan p x s).cxl = s.cxl ∧ (noteSpan p x s).fw = s.fw ∧ (noteSpan p x s).spdm = s.spdm
    ∧ (noteSpan p x s).hub = s.hub ∧ (noteSpan p x s).dev = s.dev ∧ (noteSpan p x s).cnt = s.cnt
    ∧ (noteSpan p x s).log = s.log ∧ (noteSpan p x s).out = s.out ∧ (noteSpan p x s).rings = s.rings
    ∧ (noteSpan p x s).marl = s.marl ∧ (noteSpan p x s).bank = s.bank ∧ (noteSpan p x s).ctl = s.ctl
    ∧ (noteSpan p x s).seq = s.seq ∧ (noteSpan p x s).eng = s.eng ∧ (noteSpan p x s).serve = s.serve
    ∧ (noteSpan p x s).lnk = s.lnk ∧ (noteSpan p x s).pwr = s.pwr ∧ (noteSpan p x s).keep = s.keep
    ∧ (noteSpan p x s).tray = s.tray ∧ (noteSpan p x s).grc = s.grc := by
  unfold noteSpan; (repeat' split) <;> simp

@[simp] theorem scribbleCol_keeps (n w : Nat) :
    (scribbleCol n w s).pending = s.pending ∧ (scribbleCol n w s).freeCtr = s.freeCtr
    ∧ (scribbleCol n w s).acceptCtr = s.acceptCtr ∧ (scribbleCol n w s).clk = s.clk
    ∧ (scribbleCol n w s).boot = s.boot ∧ (scribbleCol n w s).cxl = s.cxl ∧ (scribbleCol n w s).fw = s.fw
    ∧ (scribbleCol n w s).spdm = s.spdm ∧ (scribbleCol n w s).hub = s.hub ∧ (scribbleCol n w s).dev = s.dev
    ∧ (scribbleCol n w s).cnt = s.cnt ∧ (scribbleCol n w s).log = s.log ∧ (scribbleCol n w s).out = s.out
    ∧ (scribbleCol n w s).rings = s.rings ∧ (scribbleCol n w s).places = s.places ∧ (scribbleCol n w s).seq = s.seq
    ∧ (scribbleCol n w s).eng = s.eng ∧ (scribbleCol n w s).serve = s.serve ∧ (scribbleCol n w s).lnk = s.lnk
    ∧ (scribbleCol n w s).pwr = s.pwr ∧ (scribbleCol n w s).keep = s.keep ∧ (scribbleCol n w s).tray = s.tray
    ∧ (scribbleCol n w s).grc = s.grc := by
  unfold scribbleCol; simp only []; (repeat' split) <;> simp

@[simp] theorem scribble_keeps (ws : List Nat) :
    (scribble ws s).pending = s.pending ∧ (scribble ws s).acceptCtr = s.acceptCtr ∧ (scribble ws s).clk = s.clk
    ∧ (scribble ws s).boot = s.boot ∧ (scribble ws s).cxl = s.cxl ∧ (scribble ws s).fw = s.fw
    ∧ (scribble ws s).spdm = s.spdm ∧ (scribble ws s).hub = s.hub ∧ (scribble ws s).dev = s.dev
    ∧ (scribble ws s).cnt = s.cnt ∧ (scribble ws s).log = s.log ∧ (scribble ws s).out = s.out
    ∧ (scribble ws s).rings = s.rings ∧ (scribble ws s).places = s.places ∧ (scribble ws s).seq = s.seq
    ∧ (scribble ws s).eng = s.eng ∧ (scribble ws s).serve = s.serve ∧ (scribble ws s).lnk = s.lnk
    ∧ (scribble ws s).pwr = s.pwr ∧ (scribble ws s).keep = s.keep ∧ (scribble ws s).tray = s.tray
    ∧ (scribble ws s).grc = s.grc := by
  unfold scribble; split
  · simp
  · simp only [takeFree_pending, takeFree_out, takeFree_acceptCtr, takeFree_clk, takeFree_boot, takeFree_cxl, takeFree_fw, takeFree_spdm, takeFree_hub, takeFree_dev, takeFree_cnt, takeFree_log, takeFree_rings, takeFree_places, takeFree_seq, takeFree_eng, takeFree_serve, takeFree_lnk, takeFree_pwr, takeFree_keep, takeFree_tray, takeFree_grc]
    refine ⟨?_, ?_, ?_, ?_, ?_, ?_, ?_, ?_, ?_, ?_, ?_, ?_, ?_, ?_, ?_, ?_, ?_, ?_, ?_, ?_, ?_, ?_⟩ <;> exact foldl_keeps _ _ (fun _ _ => by simp) _ _

@[simp] theorem scribbleRegions_keeps (keys : List Nat) :
    (scribbleRegions keys s).pending = s.pending ∧ (scribbleRegions keys s).acceptCtr = s.acceptCtr
    ∧ (scribbleRegions keys s).clk = s.clk ∧ (scribbleRegions keys s).boot = s.boot
    ∧ (scribbleRegions keys s).cxl = s.cxl ∧ (scribbleRegions keys s).fw = s.fw
    ∧ (scribbleRegions keys s).spdm = s.spdm ∧ (scribbleRegions keys s).hub = s.hub
    ∧ (scribbleRegions keys s).dev = s.dev ∧ (scribbleRegions keys s).cnt = s.cnt
    ∧ (scribbleRegions keys s).log = s.log ∧ (scribbleRegions keys s).out = s.out
    ∧ (scribbleRegions keys s).rings = s.rings ∧ (scribbleRegions keys s).places = s.places
    ∧ (scribbleRegions keys s).bank = s.bank ∧ (scribbleRegions keys s).ctl = s.ctl
    ∧ (scribbleRegions keys s).seq = s.seq ∧ (scribbleRegions keys s).eng = s.eng
    ∧ (scribbleRegions keys s).serve = s.serve ∧ (scribbleRegions keys s).lnk = s.lnk
    ∧ (scribbleRegions keys s).pwr = s.pwr ∧ (scribbleRegions keys s).keep = s.keep
    ∧ (scribbleRegions keys s).tray = s.tray ∧ (scribbleRegions keys s).grc = s.grc := by
  unfold scribbleRegions; simp only []; split <;> simp

@[simp] theorem undefineWork_keeps (d : Desc) :
    (undefineWork d s).pending = s.pending ∧ (undefineWork d s).acceptCtr = s.acceptCtr
    ∧ (undefineWork d s).clk = s.clk ∧ (undefineWork d s).boot = s.boot ∧ (undefineWork d s).cxl = s.cxl
    ∧ (undefineWork d s).fw = s.fw ∧ (undefineWork d s).spdm = s.spdm ∧ (undefineWork d s).hub = s.hub
    ∧ (undefineWork d s).dev = s.dev ∧ (undefineWork d s).cnt = s.cnt ∧ (undefineWork d s).log = s.log
    ∧ (undefineWork d s).out = s.out ∧ (undefineWork d s).rings = s.rings ∧ (undefineWork d s).places = s.places
    ∧ (undefineWork d s).seq = s.seq ∧ (undefineWork d s).eng = s.eng ∧ (undefineWork d s).serve = s.serve
    ∧ (undefineWork d s).lnk = s.lnk ∧ (undefineWork d s).pwr = s.pwr ∧ (undefineWork d s).keep = s.keep
    ∧ (undefineWork d s).tray = s.tray ∧ (undefineWork d s).grc = s.grc := by
  unfold undefineWork; split <;> simp

/-! ### Dies and grains -/

@[simp] theorem setCause_keeps (c r d bit : Nat) :
    (setCause c r d bit s).pending = s.pending ∧ (setCause c r d bit s).freeCtr = s.freeCtr
    ∧ (setCause c r d bit s).acceptCtr = s.acceptCtr ∧ (setCause c r d bit s).clk = s.clk
    ∧ (setCause c r d bit s).boot = s.boot ∧ (setCause c r d bit s).cxl = s.cxl ∧ (setCause c r d bit s).fw = s.fw
    ∧ (setCause c r d bit s).spdm = s.spdm ∧ (setCause c r d bit s).hub = s.hub ∧ (setCause c r d bit s).dev = s.dev
    ∧ (setCause c r d bit s).cnt = s.cnt ∧ (setCause c r d bit s).log = s.log ∧ (setCause c r d bit s).out = s.out
    ∧ (setCause c r d bit s).rings = s.rings ∧ (setCause c r d bit s).places = s.places
    ∧ (setCause c r d bit s).marl = s.marl ∧ (setCause c r d bit s).ctl = s.ctl ∧ (setCause c r d bit s).seq = s.seq
    ∧ (setCause c r d bit s).eng = s.eng ∧ (setCause c r d bit s).serve = s.serve ∧ (setCause c r d bit s).lnk = s.lnk
    ∧ (setCause c r d bit s).pwr = s.pwr ∧ (setCause c r d bit s).keep = s.keep ∧ (setCause c r d bit s).tray = s.tray
    ∧ (setCause c r d bit s).grc = s.grc := by
  simp [setCause]

@[simp] theorem openPair_keeps (g row : Nat) :
    (openPair g row s).pending = s.pending ∧ (openPair g row s).freeCtr = s.freeCtr
    ∧ (openPair g row s).acceptCtr = s.acceptCtr ∧ (openPair g row s).clk = s.clk ∧ (openPair g row s).boot = s.boot
    ∧ (openPair g row s).cxl = s.cxl ∧ (openPair g row s).fw = s.fw ∧ (openPair g row s).spdm = s.spdm
    ∧ (openPair g row s).hub = s.hub ∧ (openPair g row s).dev = s.dev ∧ (openPair g row s).cnt = s.cnt
    ∧ (openPair g row s).log = s.log ∧ (openPair g row s).out = s.out ∧ (openPair g row s).rings = s.rings
    ∧ (openPair g row s).places = s.places ∧ (openPair g row s).marl = s.marl ∧ (openPair g row s).ctl = s.ctl
    ∧ (openPair g row s).seq = s.seq ∧ (openPair g row s).eng = s.eng ∧ (openPair g row s).serve = s.serve
    ∧ (openPair g row s).lnk = s.lnk ∧ (openPair g row s).pwr = s.pwr ∧ (openPair g row s).keep = s.keep
    ∧ (openPair g row s).tray = s.tray ∧ (openPair g row s).grc = s.grc := by
  simp [openPair]

@[simp] theorem closeRows_keeps (g : Nat) :
    (closeRows g s).pending = s.pending ∧ (closeRows g s).freeCtr = s.freeCtr
    ∧ (closeRows g s).acceptCtr = s.acceptCtr ∧ (closeRows g s).clk = s.clk ∧ (closeRows g s).boot = s.boot
    ∧ (closeRows g s).cxl = s.cxl ∧ (closeRows g s).fw = s.fw ∧ (closeRows g s).spdm = s.spdm
    ∧ (closeRows g s).hub = s.hub ∧ (closeRows g s).dev = s.dev ∧ (closeRows g s).cnt = s.cnt
    ∧ (closeRows g s).log = s.log ∧ (closeRows g s).out = s.out ∧ (closeRows g s).rings = s.rings
    ∧ (closeRows g s).places = s.places ∧ (closeRows g s).marl = s.marl ∧ (closeRows g s).ctl = s.ctl
    ∧ (closeRows g s).seq = s.seq ∧ (closeRows g s).eng = s.eng ∧ (closeRows g s).serve = s.serve
    ∧ (closeRows g s).lnk = s.lnk ∧ (closeRows g s).pwr = s.pwr ∧ (closeRows g s).keep = s.keep
    ∧ (closeRows g s).tray = s.tray ∧ (closeRows g s).grc = s.grc := by
  simp [closeRows]

@[simp] theorem serveDeferred_keeps (g n : Nat) :
    (serveDeferred g n s).pending = s.pending ∧ (serveDeferred g n s).freeCtr = s.freeCtr
    ∧ (serveDeferred g n s).acceptCtr = s.acceptCtr ∧ (serveDeferred g n s).clk = s.clk
    ∧ (serveDeferred g n s).boot = s.boot ∧ (serveDeferred g n s).cxl = s.cxl ∧ (serveDeferred g n s).fw = s.fw
    ∧ (serveDeferred g n s).spdm = s.spdm ∧ (serveDeferred g n s).hub = s.hub ∧ (serveDeferred g n s).dev = s.dev
    ∧ (serveDeferred g n s).cnt = s.cnt ∧ (serveDeferred g n s).log = s.log ∧ (serveDeferred g n s).out = s.out
    ∧ (serveDeferred g n s).rings = s.rings ∧ (serveDeferred g n s).places = s.places
    ∧ (serveDeferred g n s).marl = s.marl ∧ (serveDeferred g n s).ctl = s.ctl ∧ (serveDeferred g n s).seq = s.seq
    ∧ (serveDeferred g n s).eng = s.eng ∧ (serveDeferred g n s).serve = s.serve ∧ (serveDeferred g n s).lnk = s.lnk
    ∧ (serveDeferred g n s).pwr = s.pwr ∧ (serveDeferred g n s).keep = s.keep ∧ (serveDeferred g n s).tray = s.tray
    ∧ (serveDeferred g n s).grc = s.grc := by
  simp [serveDeferred]

@[simp] theorem stopGrain_keeps (g : Nat) (st : GState) (fault pc : Nat) :
    (stopGrain g st fault pc s).pending = s.pending ∧ (stopGrain g st fault pc s).acceptCtr = s.acceptCtr
    ∧ (stopGrain g st fault pc s).clk = s.clk ∧ (stopGrain g st fault pc s).boot = s.boot
    ∧ (stopGrain g st fault pc s).cxl = s.cxl ∧ (stopGrain g st fault pc s).fw = s.fw
    ∧ (stopGrain g st fault pc s).spdm = s.spdm ∧ (stopGrain g st fault pc s).hub = s.hub
    ∧ (stopGrain g st fault pc s).dev = s.dev ∧ (stopGrain g st fault pc s).cnt = s.cnt
    ∧ (stopGrain g st fault pc s).log = s.log ∧ (stopGrain g st fault pc s).out = s.out
    ∧ (stopGrain g st fault pc s).rings = s.rings ∧ (stopGrain g st fault pc s).places = s.places
    ∧ (stopGrain g st fault pc s).marl = s.marl ∧ (stopGrain g st fault pc s).ctl = s.ctl
    ∧ (stopGrain g st fault pc s).seq = s.seq ∧ (stopGrain g st fault pc s).eng = s.eng
    ∧ (stopGrain g st fault pc s).serve = s.serve ∧ (stopGrain g st fault pc s).lnk = s.lnk
    ∧ (stopGrain g st fault pc s).pwr = s.pwr ∧ (stopGrain g st fault pc s).keep = s.keep
    ∧ (stopGrain g st fault pc s).tray = s.tray ∧ (stopGrain g st fault pc s).grc = s.grc := by
  unfold stopGrain; simp only []; split <;> simp

@[simp] theorem haltGrain_keeps (g : Nat) :
    (haltGrain g s).pending = s.pending ∧ (haltGrain g s).acceptCtr = s.acceptCtr ∧ (haltGrain g s).clk = s.clk
    ∧ (haltGrain g s).boot = s.boot ∧ (haltGrain g s).cxl = s.cxl ∧ (haltGrain g s).fw = s.fw
    ∧ (haltGrain g s).spdm = s.spdm ∧ (haltGrain g s).hub = s.hub ∧ (haltGrain g s).dev = s.dev
    ∧ (haltGrain g s).cnt = s.cnt ∧ (haltGrain g s).log = s.log ∧ (haltGrain g s).out = s.out
    ∧ (haltGrain g s).rings = s.rings ∧ (haltGrain g s).places = s.places ∧ (haltGrain g s).marl = s.marl
    ∧ (haltGrain g s).ctl = s.ctl ∧ (haltGrain g s).seq = s.seq ∧ (haltGrain g s).eng = s.eng
    ∧ (haltGrain g s).serve = s.serve ∧ (haltGrain g s).lnk = s.lnk ∧ (haltGrain g s).pwr = s.pwr
    ∧ (haltGrain g s).keep = s.keep ∧ (haltGrain g s).tray = s.tray ∧ (haltGrain g s).grc = s.grc := by
  unfold haltGrain; split <;> simp

@[simp] theorem faultGrain_keeps (g code : Nat) :
    (faultGrain g code s).pending = s.pending ∧ (faultGrain g code s).acceptCtr = s.acceptCtr
    ∧ (faultGrain g code s).clk = s.clk ∧ (faultGrain g code s).boot = s.boot ∧ (faultGrain g code s).cxl = s.cxl
    ∧ (faultGrain g code s).fw = s.fw ∧ (faultGrain g code s).spdm = s.spdm ∧ (faultGrain g code s).hub = s.hub
    ∧ (faultGrain g code s).dev = s.dev ∧ (faultGrain g code s).cnt = s.cnt ∧ (faultGrain g code s).log = s.log
    ∧ (faultGrain g code s).out = s.out ∧ (faultGrain g code s).rings = s.rings
    ∧ (faultGrain g code s).places = s.places ∧ (faultGrain g code s).marl = s.marl
    ∧ (faultGrain g code s).ctl = s.ctl ∧ (faultGrain g code s).seq = s.seq ∧ (faultGrain g code s).eng = s.eng
    ∧ (faultGrain g code s).serve = s.serve ∧ (faultGrain g code s).lnk = s.lnk ∧ (faultGrain g code s).pwr = s.pwr
    ∧ (faultGrain g code s).keep = s.keep ∧ (faultGrain g code s).tray = s.tray ∧ (faultGrain g code s).grc = s.grc := by
  unfold faultGrain; simp only []; split <;> simp

@[simp] theorem fetchCheck_keeps (g : Nat) :
    (fetchCheck g s).pending = s.pending ∧ (fetchCheck g s).acceptCtr = s.acceptCtr ∧ (fetchCheck g s).clk = s.clk
    ∧ (fetchCheck g s).boot = s.boot ∧ (fetchCheck g s).cxl = s.cxl ∧ (fetchCheck g s).fw = s.fw
    ∧ (fetchCheck g s).spdm = s.spdm ∧ (fetchCheck g s).hub = s.hub ∧ (fetchCheck g s).dev = s.dev
    ∧ (fetchCheck g s).cnt = s.cnt ∧ (fetchCheck g s).log = s.log ∧ (fetchCheck g s).out = s.out
    ∧ (fetchCheck g s).rings = s.rings ∧ (fetchCheck g s).places = s.places ∧ (fetchCheck g s).marl = s.marl
    ∧ (fetchCheck g s).ctl = s.ctl ∧ (fetchCheck g s).seq = s.seq ∧ (fetchCheck g s).eng = s.eng
    ∧ (fetchCheck g s).serve = s.serve ∧ (fetchCheck g s).lnk = s.lnk ∧ (fetchCheck g s).pwr = s.pwr
    ∧ (fetchCheck g s).keep = s.keep ∧ (fetchCheck g s).tray = s.tray ∧ (fetchCheck g s).grc = s.grc := by
  unfold fetchCheck; simp only []; split <;> simp

@[simp] theorem startGrain_keeps (g : Nat) (insn : Option U32) (entry : Nat) :
    (startGrain g insn entry s).pending = s.pending ∧ (startGrain g insn entry s).acceptCtr = s.acceptCtr
    ∧ (startGrain g insn entry s).clk = s.clk ∧ (startGrain g insn entry s).boot = s.boot
    ∧ (startGrain g insn entry s).cxl = s.cxl ∧ (startGrain g insn entry s).fw = s.fw
    ∧ (startGrain g insn entry s).spdm = s.spdm ∧ (startGrain g insn entry s).hub = s.hub
    ∧ (startGrain g insn entry s).dev = s.dev ∧ (startGrain g insn entry s).cnt = s.cnt
    ∧ (startGrain g insn entry s).log = s.log ∧ (startGrain g insn entry s).out = s.out
    ∧ (startGrain g insn entry s).rings = s.rings ∧ (startGrain g insn entry s).places = s.places
    ∧ (startGrain g insn entry s).marl = s.marl ∧ (startGrain g insn entry s).ctl = s.ctl
    ∧ (startGrain g insn entry s).seq = s.seq ∧ (startGrain g insn entry s).eng = s.eng
    ∧ (startGrain g insn entry s).serve = s.serve ∧ (startGrain g insn entry s).lnk = s.lnk
    ∧ (startGrain g insn entry s).pwr = s.pwr ∧ (startGrain g insn entry s).keep = s.keep
    ∧ (startGrain g insn entry s).tray = s.tray ∧ (startGrain g insn entry s).grc = s.grc := by
  simp [startGrain]

/-! ### Flags, wires, contexts -/

@[simp] theorem putFlag_keeps (sp : FlagSpace) (n : Nat) (x : Flag) :
    (putFlag sp n x s).pending = s.pending ∧ (putFlag sp n x s).freeCtr = s.freeCtr
    ∧ (putFlag sp n x s).acceptCtr = s.acceptCtr ∧ (putFlag sp n x s).clk = s.clk ∧ (putFlag sp n x s).boot = s.boot
    ∧ (putFlag sp n x s).cxl = s.cxl ∧ (putFlag sp n x s).fw = s.fw ∧ (putFlag sp n x s).spdm = s.spdm
    ∧ (putFlag sp n x s).hub = s.hub ∧ (putFlag sp n x s).dev = s.dev ∧ (putFlag sp n x s).cnt = s.cnt
    ∧ (putFlag sp n x s).log = s.log ∧ (putFlag sp n x s).out = s.out ∧ (putFlag sp n x s).rings = s.rings
    ∧ (putFlag sp n x s).places = s.places ∧ (putFlag sp n x s).marl = s.marl ∧ (putFlag sp n x s).bank = s.bank
    ∧ (putFlag sp n x s).ctl = s.ctl ∧ (putFlag sp n x s).eng = s.eng ∧ (putFlag sp n x s).serve = s.serve
    ∧ (putFlag sp n x s).lnk = s.lnk ∧ (putFlag sp n x s).pwr = s.pwr ∧ (putFlag sp n x s).keep = s.keep
    ∧ (putFlag sp n x s).tray = s.tray ∧ (putFlag sp n x s).grc = s.grc := by
  cases sp <;> simp [putFlag]

@[simp] theorem endWait_keeps (x : CtxNo) :
    (endWait x s).pending = s.pending ∧ (endWait x s).freeCtr = s.freeCtr ∧ (endWait x s).acceptCtr = s.acceptCtr
    ∧ (endWait x s).clk = s.clk ∧ (endWait x s).boot = s.boot ∧ (endWait x s).cxl = s.cxl ∧ (endWait x s).fw = s.fw
    ∧ (endWait x s).spdm = s.spdm ∧ (endWait x s).hub = s.hub ∧ (endWait x s).dev = s.dev ∧ (endWait x s).cnt = s.cnt
    ∧ (endWait x s).log = s.log ∧ (endWait x s).out = s.out ∧ (endWait x s).rings = s.rings
    ∧ (endWait x s).places = s.places ∧ (endWait x s).marl = s.marl ∧ (endWait x s).bank = s.bank
    ∧ (endWait x s).ctl = s.ctl ∧ (endWait x s).eng = s.eng ∧ (endWait x s).serve = s.serve
    ∧ (endWait x s).lnk = s.lnk ∧ (endWait x s).pwr = s.pwr ∧ (endWait x s).keep = s.keep
    ∧ (endWait x s).tray = s.tray ∧ (endWait x s).grc = s.grc := by
  unfold endWait; split <;> simp

@[simp] theorem judgeWaits_keeps (sp : FlagSpace) (n : Nat) :
    (judgeWaits sp n s).pending = s.pending ∧ (judgeWaits sp n s).freeCtr = s.freeCtr
    ∧ (judgeWaits sp n s).acceptCtr = s.acceptCtr ∧ (judgeWaits sp n s).clk = s.clk
    ∧ (judgeWaits sp n s).boot = s.boot ∧ (judgeWaits sp n s).cxl = s.cxl ∧ (judgeWaits sp n s).fw = s.fw
    ∧ (judgeWaits sp n s).spdm = s.spdm ∧ (judgeWaits sp n s).hub = s.hub ∧ (judgeWaits sp n s).dev = s.dev
    ∧ (judgeWaits sp n s).cnt = s.cnt ∧ (judgeWaits sp n s).log = s.log ∧ (judgeWaits sp n s).out = s.out
    ∧ (judgeWaits sp n s).rings = s.rings ∧ (judgeWaits sp n s).places = s.places ∧ (judgeWaits sp n s).marl = s.marl
    ∧ (judgeWaits sp n s).bank = s.bank ∧ (judgeWaits sp n s).ctl = s.ctl ∧ (judgeWaits sp n s).eng = s.eng
    ∧ (judgeWaits sp n s).serve = s.serve ∧ (judgeWaits sp n s).lnk = s.lnk ∧ (judgeWaits sp n s).pwr = s.pwr
    ∧ (judgeWaits sp n s).keep = s.keep ∧ (judgeWaits sp n s).tray = s.tray ∧ (judgeWaits sp n s).grc = s.grc := by
  unfold judgeWaits; simp only []; split
  · refine ⟨?_, ?_, ?_, ?_, ?_, ?_, ?_, ?_, ?_, ?_, ?_, ?_, ?_, ?_, ?_, ?_, ?_, ?_, ?_, ?_, ?_, ?_, ?_, ?_, ?_⟩ <;> exact foldl_keeps _ _ (fun _ _ => by simp) _ _
  · refine ⟨?_, ?_, ?_, ?_, ?_, ?_, ?_, ?_, ?_, ?_, ?_, ?_, ?_, ?_, ?_, ?_, ?_, ?_, ?_, ?_, ?_, ?_, ?_, ?_, ?_⟩ <;>
      exact (foldl_keeps _ _ (fun _ _ => by simp) _ _).trans
        (by simp only [putFlag_keeps, endWait_keeps]; exact foldl_keeps _ _ (fun _ _ => by simp) _ _)

@[simp] theorem setFlag_keeps (sp : FlagSpace) (n : Nat) (setter : Fin 8) :
    (setFlag sp n setter s).pending = s.pending ∧ (setFlag sp n setter s).freeCtr = s.freeCtr
    ∧ (setFlag sp n setter s).acceptCtr = s.acceptCtr ∧ (setFlag sp n setter s).clk = s.clk
    ∧ (setFlag sp n setter s).boot = s.boot ∧ (setFlag sp n setter s).cxl = s.cxl ∧ (setFlag sp n setter s).fw = s.fw
    ∧ (setFlag sp n setter s).spdm = s.spdm ∧ (setFlag sp n setter s).hub = s.hub
    ∧ (setFlag sp n setter s).dev = s.dev ∧ (setFlag sp n setter s).cnt = s.cnt ∧ (setFlag sp n setter s).log = s.log
    ∧ (setFlag sp n setter s).out = s.out ∧ (setFlag sp n setter s).rings = s.rings
    ∧ (setFlag sp n setter s).places = s.places ∧ (setFlag sp n setter s).marl = s.marl
    ∧ (setFlag sp n setter s).bank = s.bank ∧ (setFlag sp n setter s).ctl = s.ctl
    ∧ (setFlag sp n setter s).eng = s.eng ∧ (setFlag sp n setter s).serve = s.serve
    ∧ (setFlag sp n setter s).lnk = s.lnk ∧ (setFlag sp n setter s).pwr = s.pwr
    ∧ (setFlag sp n setter s).keep = s.keep ∧ (setFlag sp n setter s).tray = s.tray
    ∧ (setFlag sp n setter s).grc = s.grc := by
  simp [setFlag]

@[simp] theorem clearFlag_keeps (sp : FlagSpace) (n : Nat) :
    (clearFlag sp n s).pending = s.pending ∧ (clearFlag sp n s).freeCtr = s.freeCtr
    ∧ (clearFlag sp n s).acceptCtr = s.acceptCtr ∧ (clearFlag sp n s).clk = s.clk ∧ (clearFlag sp n s).boot = s.boot
    ∧ (clearFlag sp n s).cxl = s.cxl ∧ (clearFlag sp n s).fw = s.fw ∧ (clearFlag sp n s).spdm = s.spdm
    ∧ (clearFlag sp n s).hub = s.hub ∧ (clearFlag sp n s).dev = s.dev ∧ (clearFlag sp n s).cnt = s.cnt
    ∧ (clearFlag sp n s).log = s.log ∧ (clearFlag sp n s).out = s.out ∧ (clearFlag sp n s).rings = s.rings
    ∧ (clearFlag sp n s).places = s.places ∧ (clearFlag sp n s).marl = s.marl ∧ (clearFlag sp n s).bank = s.bank
    ∧ (clearFlag sp n s).ctl = s.ctl ∧ (clearFlag sp n s).eng = s.eng ∧ (clearFlag sp n s).serve = s.serve
    ∧ (clearFlag sp n s).lnk = s.lnk ∧ (clearFlag sp n s).pwr = s.pwr ∧ (clearFlag sp n s).keep = s.keep
    ∧ (clearFlag sp n s).tray = s.tray ∧ (clearFlag sp n s).grc = s.grc := by
  simp [clearFlag]

@[simp] theorem wipeOne_keeps (sp : FlagSpace) (n : Nat) :
    (wipeOne sp n s).pending = s.pending ∧ (wipeOne sp n s).freeCtr = s.freeCtr
    ∧ (wipeOne sp n s).acceptCtr = s.acceptCtr ∧ (wipeOne sp n s).clk = s.clk ∧ (wipeOne sp n s).boot = s.boot
    ∧ (wipeOne sp n s).cxl = s.cxl ∧ (wipeOne sp n s).fw = s.fw ∧ (wipeOne sp n s).spdm = s.spdm
    ∧ (wipeOne sp n s).hub = s.hub ∧ (wipeOne sp n s).dev = s.dev ∧ (wipeOne sp n s).cnt = s.cnt
    ∧ (wipeOne sp n s).log = s.log ∧ (wipeOne sp n s).out = s.out ∧ (wipeOne sp n s).rings = s.rings
    ∧ (wipeOne sp n s).places = s.places ∧ (wipeOne sp n s).marl = s.marl ∧ (wipeOne sp n s).bank = s.bank
    ∧ (wipeOne sp n s).ctl = s.ctl ∧ (wipeOne sp n s).eng = s.eng ∧ (wipeOne sp n s).serve = s.serve
    ∧ (wipeOne sp n s).lnk = s.lnk ∧ (wipeOne sp n s).pwr = s.pwr ∧ (wipeOne sp n s).keep = s.keep
    ∧ (wipeOne sp n s).tray = s.tray ∧ (wipeOne sp n s).grc = s.grc := by
  simp [wipeOne]

@[simp] theorem wipeFlag_keeps (sp : FlagSpace) (n : Nat) :
    (wipeFlag sp n s).pending = s.pending ∧ (wipeFlag sp n s).freeCtr = s.freeCtr
    ∧ (wipeFlag sp n s).acceptCtr = s.acceptCtr ∧ (wipeFlag sp n s).clk = s.clk ∧ (wipeFlag sp n s).boot = s.boot
    ∧ (wipeFlag sp n s).cxl = s.cxl ∧ (wipeFlag sp n s).fw = s.fw ∧ (wipeFlag sp n s).spdm = s.spdm
    ∧ (wipeFlag sp n s).hub = s.hub ∧ (wipeFlag sp n s).dev = s.dev ∧ (wipeFlag sp n s).cnt = s.cnt
    ∧ (wipeFlag sp n s).log = s.log ∧ (wipeFlag sp n s).out = s.out ∧ (wipeFlag sp n s).rings = s.rings
    ∧ (wipeFlag sp n s).places = s.places ∧ (wipeFlag sp n s).marl = s.marl ∧ (wipeFlag sp n s).bank = s.bank
    ∧ (wipeFlag sp n s).ctl = s.ctl ∧ (wipeFlag sp n s).eng = s.eng ∧ (wipeFlag sp n s).serve = s.serve
    ∧ (wipeFlag sp n s).lnk = s.lnk ∧ (wipeFlag sp n s).pwr = s.pwr ∧ (wipeFlag sp n s).keep = s.keep
    ∧ (wipeFlag sp n s).tray = s.tray ∧ (wipeFlag sp n s).grc = s.grc := by
  unfold wipeFlag; refine ⟨?_, ?_, ?_, ?_, ?_, ?_, ?_, ?_, ?_, ?_, ?_, ?_, ?_, ?_, ?_, ?_, ?_, ?_, ?_, ?_, ?_, ?_, ?_, ?_, ?_⟩ <;> exact foldl_keeps _ _ (fun _ _ => by simp) _ _

@[simp] theorem wipeFlags_keeps (sp : FlagSpace) (ns : List Nat) :
    (wipeFlags sp ns s).pending = s.pending ∧ (wipeFlags sp ns s).freeCtr = s.freeCtr
    ∧ (wipeFlags sp ns s).acceptCtr = s.acceptCtr ∧ (wipeFlags sp ns s).clk = s.clk
    ∧ (wipeFlags sp ns s).boot = s.boot ∧ (wipeFlags sp ns s).cxl = s.cxl ∧ (wipeFlags sp ns s).fw = s.fw
    ∧ (wipeFlags sp ns s).spdm = s.spdm ∧ (wipeFlags sp ns s).hub = s.hub ∧ (wipeFlags sp ns s).dev = s.dev
    ∧ (wipeFlags sp ns s).cnt = s.cnt ∧ (wipeFlags sp ns s).log = s.log ∧ (wipeFlags sp ns s).out = s.out
    ∧ (wipeFlags sp ns s).rings = s.rings ∧ (wipeFlags sp ns s).places = s.places ∧ (wipeFlags sp ns s).marl = s.marl
    ∧ (wipeFlags sp ns s).bank = s.bank ∧ (wipeFlags sp ns s).ctl = s.ctl ∧ (wipeFlags sp ns s).eng = s.eng
    ∧ (wipeFlags sp ns s).serve = s.serve ∧ (wipeFlags sp ns s).lnk = s.lnk ∧ (wipeFlags sp ns s).pwr = s.pwr
    ∧ (wipeFlags sp ns s).keep = s.keep ∧ (wipeFlags sp ns s).tray = s.tray ∧ (wipeFlags sp ns s).grc = s.grc := by
  unfold wipeFlags; refine ⟨?_, ?_, ?_, ?_, ?_, ?_, ?_, ?_, ?_, ?_, ?_, ?_, ?_, ?_, ?_, ?_, ?_, ?_, ?_, ?_, ?_, ?_, ?_, ?_, ?_⟩ <;> exact foldl_keeps _ _ (fun _ _ => by simp) _ _

@[simp] theorem releaseWire_keeps (w : Fin 8) :
    (releaseWire w s).pending = s.pending ∧ (releaseWire w s).freeCtr = s.freeCtr
    ∧ (releaseWire w s).acceptCtr = s.acceptCtr ∧ (releaseWire w s).clk = s.clk ∧ (releaseWire w s).boot = s.boot
    ∧ (releaseWire w s).cxl = s.cxl ∧ (releaseWire w s).fw = s.fw ∧ (releaseWire w s).spdm = s.spdm
    ∧ (releaseWire w s).hub = s.hub ∧ (releaseWire w s).dev = s.dev ∧ (releaseWire w s).cnt = s.cnt
    ∧ (releaseWire w s).log = s.log ∧ (releaseWire w s).out = s.out ∧ (releaseWire w s).rings = s.rings
    ∧ (releaseWire w s).places = s.places ∧ (releaseWire w s).marl = s.marl ∧ (releaseWire w s).bank = s.bank
    ∧ (releaseWire w s).ctl = s.ctl ∧ (releaseWire w s).eng = s.eng ∧ (releaseWire w s).serve = s.serve
    ∧ (releaseWire w s).lnk = s.lnk ∧ (releaseWire w s).pwr = s.pwr ∧ (releaseWire w s).keep = s.keep
    ∧ (releaseWire w s).tray = s.tray ∧ (releaseWire w s).grc = s.grc := by
  unfold releaseWire; refine ⟨?_, ?_, ?_, ?_, ?_, ?_, ?_, ?_, ?_, ?_, ?_, ?_, ?_, ?_, ?_, ?_, ?_, ?_, ?_, ?_, ?_, ?_, ?_, ?_, ?_⟩ <;> exact (foldl_keeps _ _ (fun _ _ => by simp) _ _).trans (by simp)

@[simp] theorem arriveWire_keeps (w : Fin 8) :
    (arriveWire w s).pending = s.pending ∧ (arriveWire w s).freeCtr = s.freeCtr
    ∧ (arriveWire w s).acceptCtr = s.acceptCtr ∧ (arriveWire w s).clk = s.clk ∧ (arriveWire w s).boot = s.boot
    ∧ (arriveWire w s).cxl = s.cxl ∧ (arriveWire w s).fw = s.fw ∧ (arriveWire w s).spdm = s.spdm
    ∧ (arriveWire w s).hub = s.hub ∧ (arriveWire w s).dev = s.dev ∧ (arriveWire w s).cnt = s.cnt
    ∧ (arriveWire w s).log = s.log ∧ (arriveWire w s).out = s.out ∧ (arriveWire w s).rings = s.rings
    ∧ (arriveWire w s).places = s.places ∧ (arriveWire w s).marl = s.marl ∧ (arriveWire w s).bank = s.bank
    ∧ (arriveWire w s).ctl = s.ctl ∧ (arriveWire w s).eng = s.eng ∧ (arriveWire w s).serve = s.serve
    ∧ (arriveWire w s).lnk = s.lnk ∧ (arriveWire w s).pwr = s.pwr ∧ (arriveWire w s).keep = s.keep
    ∧ (arriveWire w s).tray = s.tray ∧ (arriveWire w s).grc = s.grc := by
  unfold arriveWire; simp only []; (repeat' split) <;> simp

@[simp] theorem settleCtx_keeps (x : CtxNo) :
    (settleCtx x s).pending = s.pending ∧ (settleCtx x s).freeCtr = s.freeCtr
    ∧ (settleCtx x s).acceptCtr = s.acceptCtr ∧ (settleCtx x s).clk = s.clk ∧ (settleCtx x s).boot = s.boot
    ∧ (settleCtx x s).cxl = s.cxl ∧ (settleCtx x s).fw = s.fw ∧ (settleCtx x s).spdm = s.spdm
    ∧ (settleCtx x s).hub = s.hub ∧ (settleCtx x s).dev = s.dev ∧ (settleCtx x s).cnt = s.cnt
    ∧ (settleCtx x s).log = s.log ∧ (settleCtx x s).out = s.out ∧ (settleCtx x s).rings = s.rings
    ∧ (settleCtx x s).marl = s.marl ∧ (settleCtx x s).bank = s.bank ∧ (settleCtx x s).ctl = s.ctl
    ∧ (settleCtx x s).seq = s.seq ∧ (settleCtx x s).eng = s.eng ∧ (settleCtx x s).serve = s.serve
    ∧ (settleCtx x s).lnk = s.lnk ∧ (settleCtx x s).pwr = s.pwr ∧ (settleCtx x s).keep = s.keep
    ∧ (settleCtx x s).tray = s.tray ∧ (settleCtx x s).grc = s.grc := by
  unfold settleCtx; (repeat' split) <;> simp

@[simp] theorem dropUnstarted_keeps (x : CtxNo) :
    (dropUnstarted x s).pending = s.pending ∧ (dropUnstarted x s).freeCtr = s.freeCtr
    ∧ (dropUnstarted x s).acceptCtr = s.acceptCtr ∧ (dropUnstarted x s).clk = s.clk
    ∧ (dropUnstarted x s).boot = s.boot ∧ (dropUnstarted x s).cxl = s.cxl ∧ (dropUnstarted x s).fw = s.fw
    ∧ (dropUnstarted x s).spdm = s.spdm ∧ (dropUnstarted x s).hub = s.hub ∧ (dropUnstarted x s).dev = s.dev
    ∧ (dropUnstarted x s).cnt = s.cnt ∧ (dropUnstarted x s).log = s.log ∧ (dropUnstarted x s).out = s.out
    ∧ (dropUnstarted x s).rings = s.rings ∧ (dropUnstarted x s).places = s.places ∧ (dropUnstarted x s).marl = s.marl
    ∧ (dropUnstarted x s).bank = s.bank ∧ (dropUnstarted x s).eng = s.eng ∧ (dropUnstarted x s).serve = s.serve
    ∧ (dropUnstarted x s).lnk = s.lnk ∧ (dropUnstarted x s).pwr = s.pwr ∧ (dropUnstarted x s).keep = s.keep
    ∧ (dropUnstarted x s).tray = s.tray ∧ (dropUnstarted x s).grc = s.grc := by
  simp [dropUnstarted]

@[simp] theorem haltRuns_keeps (x : CtxNo) :
    (haltRuns x s).pending = s.pending ∧ (haltRuns x s).acceptCtr = s.acceptCtr ∧ (haltRuns x s).clk = s.clk
    ∧ (haltRuns x s).boot = s.boot ∧ (haltRuns x s).cxl = s.cxl ∧ (haltRuns x s).fw = s.fw
    ∧ (haltRuns x s).spdm = s.spdm ∧ (haltRuns x s).hub = s.hub ∧ (haltRuns x s).dev = s.dev
    ∧ (haltRuns x s).cnt = s.cnt ∧ (haltRuns x s).log = s.log ∧ (haltRuns x s).out = s.out
    ∧ (haltRuns x s).rings = s.rings ∧ (haltRuns x s).places = s.places ∧ (haltRuns x s).marl = s.marl
    ∧ (haltRuns x s).ctl = s.ctl ∧ (haltRuns x s).seq = s.seq ∧ (haltRuns x s).eng = s.eng
    ∧ (haltRuns x s).serve = s.serve ∧ (haltRuns x s).lnk = s.lnk ∧ (haltRuns x s).pwr = s.pwr
    ∧ (haltRuns x s).keep = s.keep ∧ (haltRuns x s).tray = s.tray ∧ (haltRuns x s).grc = s.grc := by
  unfold haltRuns; refine ⟨?_, ?_, ?_, ?_, ?_, ?_, ?_, ?_, ?_, ?_, ?_, ?_, ?_, ?_, ?_, ?_, ?_, ?_, ?_, ?_, ?_, ?_, ?_, ?_⟩ <;>
    exact foldl_keeps _ _ (fun _ _ => foldl_keeps _ _ (fun _ _ => foldl_keeps _ _ (fun _ _ => by simp) _ _) _ _) _ _

@[simp] theorem stopCtx_keeps (x : CtxNo) :
    (stopCtx x s).pending = s.pending ∧ (stopCtx x s).acceptCtr = s.acceptCtr ∧ (stopCtx x s).clk = s.clk
    ∧ (stopCtx x s).boot = s.boot ∧ (stopCtx x s).cxl = s.cxl ∧ (stopCtx x s).fw = s.fw ∧ (stopCtx x s).spdm = s.spdm
    ∧ (stopCtx x s).hub = s.hub ∧ (stopCtx x s).dev = s.dev ∧ (stopCtx x s).cnt = s.cnt ∧ (stopCtx x s).log = s.log
    ∧ (stopCtx x s).out = s.out ∧ (stopCtx x s).rings = s.rings ∧ (stopCtx x s).marl = s.marl
    ∧ (stopCtx x s).eng = s.eng ∧ (stopCtx x s).serve = s.serve ∧ (stopCtx x s).lnk = s.lnk
    ∧ (stopCtx x s).pwr = s.pwr ∧ (stopCtx x s).keep = s.keep ∧ (stopCtx x s).tray = s.tray
    ∧ (stopCtx x s).grc = s.grc := by
  unfold stopCtx; split <;> simp

@[simp] theorem faultCtx_keeps (x : CtxNo) (code : Nat) :
    (faultCtx x code s).pending = s.pending ∧ (faultCtx x code s).acceptCtr = s.acceptCtr
    ∧ (faultCtx x code s).clk = s.clk ∧ (faultCtx x code s).boot = s.boot ∧ (faultCtx x code s).cxl = s.cxl
    ∧ (faultCtx x code s).fw = s.fw ∧ (faultCtx x code s).spdm = s.spdm ∧ (faultCtx x code s).hub = s.hub
    ∧ (faultCtx x code s).dev = s.dev ∧ (faultCtx x code s).rings = s.rings ∧ (faultCtx x code s).marl = s.marl
    ∧ (faultCtx x code s).eng = s.eng ∧ (faultCtx x code s).serve = s.serve ∧ (faultCtx x code s).lnk = s.lnk
    ∧ (faultCtx x code s).pwr = s.pwr ∧ (faultCtx x code s).keep = s.keep ∧ (faultCtx x code s).tray = s.tray
    ∧ (faultCtx x code s).grc = s.grc := by
  unfold faultCtx; split <;> simp

@[simp] theorem serve_keeps (x : CtxNo) :
    (serve x s).pending = s.pending ∧ (serve x s).freeCtr = s.freeCtr ∧ (serve x s).acceptCtr = s.acceptCtr
    ∧ (serve x s).clk = s.clk ∧ (serve x s).boot = s.boot ∧ (serve x s).cxl = s.cxl ∧ (serve x s).fw = s.fw
    ∧ (serve x s).spdm = s.spdm ∧ (serve x s).hub = s.hub ∧ (serve x s).dev = s.dev ∧ (serve x s).cnt = s.cnt
    ∧ (serve x s).log = s.log ∧ (serve x s).out = s.out ∧ (serve x s).rings = s.rings ∧ (serve x s).places = s.places
    ∧ (serve x s).marl = s.marl ∧ (serve x s).bank = s.bank ∧ (serve x s).ctl = s.ctl ∧ (serve x s).eng = s.eng
    ∧ (serve x s).serve = s.serve ∧ (serve x s).lnk = s.lnk ∧ (serve x s).pwr = s.pwr ∧ (serve x s).keep = s.keep
    ∧ (serve x s).tray = s.tray ∧ (serve x s).grc = s.grc := by
  simp [serve]

@[simp] theorem goOn_keeps (x : CtxNo) (c : Ctx) :
    (goOn x c s).pending = s.pending ∧ (goOn x c s).freeCtr = s.freeCtr ∧ (goOn x c s).acceptCtr = s.acceptCtr
    ∧ (goOn x c s).clk = s.clk ∧ (goOn x c s).boot = s.boot ∧ (goOn x c s).cxl = s.cxl ∧ (goOn x c s).fw = s.fw
    ∧ (goOn x c s).spdm = s.spdm ∧ (goOn x c s).hub = s.hub ∧ (goOn x c s).dev = s.dev ∧ (goOn x c s).log = s.log
    ∧ (goOn x c s).out = s.out ∧ (goOn x c s).rings = s.rings ∧ (goOn x c s).marl = s.marl
    ∧ (goOn x c s).bank = s.bank ∧ (goOn x c s).ctl = s.ctl ∧ (goOn x c s).eng = s.eng ∧ (goOn x c s).serve = s.serve
    ∧ (goOn x c s).lnk = s.lnk ∧ (goOn x c s).pwr = s.pwr ∧ (goOn x c s).keep = s.keep ∧ (goOn x c s).tray = s.tray
    ∧ (goOn x c s).grc = s.grc := by
  simp [goOn]

@[simp] theorem issue_keeps (x : CtxNo) (c : Ctx) :
    (issue x c s).pending = s.pending ∧ (issue x c s).freeCtr = s.freeCtr ∧ (issue x c s).acceptCtr = s.acceptCtr
    ∧ (issue x c s).clk = s.clk ∧ (issue x c s).boot = s.boot ∧ (issue x c s).cxl = s.cxl ∧ (issue x c s).fw = s.fw
    ∧ (issue x c s).spdm = s.spdm ∧ (issue x c s).hub = s.hub ∧ (issue x c s).dev = s.dev ∧ (issue x c s).log = s.log
    ∧ (issue x c s).out = s.out ∧ (issue x c s).rings = s.rings ∧ (issue x c s).marl = s.marl
    ∧ (issue x c s).bank = s.bank ∧ (issue x c s).ctl = s.ctl ∧ (issue x c s).eng = s.eng
    ∧ (issue x c s).serve = s.serve ∧ (issue x c s).lnk = s.lnk ∧ (issue x c s).pwr = s.pwr
    ∧ (issue x c s).keep = s.keep ∧ (issue x c s).tray = s.tray ∧ (issue x c s).grc = s.grc := by
  simp [issue]

@[simp] theorem failOp_keeps (x : CtxNo) (code : Nat) :
    (failOp x code s).pending = s.pending ∧ (failOp x code s).acceptCtr = s.acceptCtr ∧ (failOp x code s).clk = s.clk
    ∧ (failOp x code s).boot = s.boot ∧ (failOp x code s).cxl = s.cxl ∧ (failOp x code s).fw = s.fw
    ∧ (failOp x code s).spdm = s.spdm ∧ (failOp x code s).hub = s.hub ∧ (failOp x code s).dev = s.dev
    ∧ (failOp x code s).rings = s.rings ∧ (failOp x code s).marl = s.marl ∧ (failOp x code s).eng = s.eng
    ∧ (failOp x code s).serve = s.serve ∧ (failOp x code s).lnk = s.lnk ∧ (failOp x code s).pwr = s.pwr
    ∧ (failOp x code s).keep = s.keep ∧ (failOp x code s).tray = s.tray ∧ (failOp x code s).grc = s.grc := by
  simp [failOp]

@[simp] theorem waitFor_keeps (x : CtxNo) (c : Ctx) (st : CState) (w : WaitFor) :
    (waitFor x c st w s).pending = s.pending ∧ (waitFor x c st w s).freeCtr = s.freeCtr
    ∧ (waitFor x c st w s).acceptCtr = s.acceptCtr ∧ (waitFor x c st w s).clk = s.clk
    ∧ (waitFor x c st w s).boot = s.boot ∧ (waitFor x c st w s).cxl = s.cxl ∧ (waitFor x c st w s).fw = s.fw
    ∧ (waitFor x c st w s).spdm = s.spdm ∧ (waitFor x c st w s).hub = s.hub ∧ (waitFor x c st w s).dev = s.dev
    ∧ (waitFor x c st w s).cnt = s.cnt ∧ (waitFor x c st w s).log = s.log ∧ (waitFor x c st w s).out = s.out
    ∧ (waitFor x c st w s).rings = s.rings ∧ (waitFor x c st w s).places = s.places
    ∧ (waitFor x c st w s).marl = s.marl ∧ (waitFor x c st w s).bank = s.bank ∧ (waitFor x c st w s).ctl = s.ctl
    ∧ (waitFor x c st w s).eng = s.eng ∧ (waitFor x c st w s).serve = s.serve ∧ (waitFor x c st w s).lnk = s.lnk
    ∧ (waitFor x c st w s).pwr = s.pwr ∧ (waitFor x c st w s).keep = s.keep ∧ (waitFor x c st w s).tray = s.tray
    ∧ (waitFor x c st w s).grc = s.grc := by
  unfold waitFor; simp only []; split <;> simp

@[simp] theorem queueP1_keeps (c : Nat) (k : P1) :
    (queueP1 c k s).pending = s.pending ∧ (queueP1 c k s).freeCtr = s.freeCtr
    ∧ (queueP1 c k s).acceptCtr = s.acceptCtr ∧ (queueP1 c k s).clk = s.clk ∧ (queueP1 c k s).boot = s.boot
    ∧ (queueP1 c k s).cxl = s.cxl ∧ (queueP1 c k s).fw = s.fw ∧ (queueP1 c k s).spdm = s.spdm
    ∧ (queueP1 c k s).hub = s.hub ∧ (queueP1 c k s).dev = s.dev ∧ (queueP1 c k s).cnt = s.cnt
    ∧ (queueP1 c k s).log = s.log ∧ (queueP1 c k s).out = s.out ∧ (queueP1 c k s).rings = s.rings
    ∧ (queueP1 c k s).places = s.places ∧ (queueP1 c k s).marl = s.marl ∧ (queueP1 c k s).bank = s.bank
    ∧ (queueP1 c k s).eng = s.eng ∧ (queueP1 c k s).serve = s.serve ∧ (queueP1 c k s).lnk = s.lnk
    ∧ (queueP1 c k s).pwr = s.pwr ∧ (queueP1 c k s).keep = s.keep ∧ (queueP1 c k s).tray = s.tray
    ∧ (queueP1 c k s).grc = s.grc := by
  simp [queueP1]

/-! ### Soundness: what the shared operations keep -/

/-- Soundness looks at the logs and at the banks' bytes alone. -/
theorem sound_of {s t : State} (h : s.sound) (hl : t.log = s.log) (hm : t.bank.mem = s.bank.mem) : t.sound := by
  unfold State.sound logsBounded banksCanonical at *; rw [hl, hm]; exact h

/-- The last n of a list are at most n. -/
theorem lastN_length {α : Type} (n : Nat) (l : List α) : (lastN n l).length ≤ n := by
  simp only [lastN, List.length_reverse, List.length_take]; exact Nat.min_le_left _ _

/-- A logged entry keeps the event log within its 4,096 (18 R482). -/
theorem logAs_sound (cls code : Nat) (loc : U16) (func : Byte) (m d0 d1 : Nat) (h : s.sound) :
    (logAs cls code loc func m d0 d1 s).sound := by
  unfold State.sound logsBounded banksCanonical logAs msix emit at *
  have hn := fun e : LogEntry => lastN_length 4096 (s.log.events ++ [e])
  simp only [Bool.and_eq_true, decide_eq_true_eq] at *
  split <;> exact ⟨⟨hn _, h.1.2⟩, h.2⟩

theorem logDev_sound (cls code : Nat) (loc : U16) (d0 d1 : Nat) (h : s.sound) : (logDev cls code loc d0 d1 s).sound :=
  logAs_sound s _ _ _ _ _ _ _ h

theorem logFn_sound (cls code : Nat) (loc : U16) (f : Func) (d0 d1 : Nat) (h : s.sound) :
    (logFn cls code loc f d0 d1 s).sound :=
  logAs_sound s _ _ _ _ _ _ _ h

/-- An entry keeps the persistent fault log within its 256 (18 R481). -/
theorem plogAdd_sound (loc : U16) (info : Nat) (h : s.sound) : (plogAdd loc info s).sound := by
  unfold State.sound logsBounded banksCanonical plogAdd at *
  have hn := fun e : PLogEntry => lastN_length 256 (s.log.plog ++ [e])
  simp only [Bool.and_eq_true, decide_eq_true_eq] at *
  exact ⟨⟨h.1.1, hn _⟩, h.2⟩

/-- A column write keeps the canonical form of the banks' bytes. -/
theorem setColAt_sound (w : Nat) (d : ColData) (p : Bool) (h : s.sound) : (setColAt w d p s).sound :=
  ⟨h.1, setCol_wf _ _ _ h.2⟩

/-- What every step of a fold keeps, the fold keeps. -/
theorem foldl_sound {α : Type} (g : State → α → State) (hg : ∀ s a, s.sound → (g s a).sound) (l : List α) (s : State)
    (h : s.sound) : (l.foldl g s).sound := by
  induction l generalizing s with
  | nil => exact h
  | cons a l ih => exact ih _ (hg s a h)

/-- What writes neither the log nor the banks leaves a state as sound as it was. -/
theorem sound_keeps {t : State} (h : s.sound) (hl : t.log = s.log) (hb : t.bank = s.bank) : t.sound :=
  sound_of h hl (by rw [hb])

theorem storeUnit_sound (ws : List Nat) (data : Wide) (mask : BitVec 128) (p : Bool) (h : s.sound) :
    (storeUnit ws data mask p s).sound := by
  unfold storeUnit; exact foldl_sound _ (fun t _ ht => setColAt_sound t _ _ _ ht) _ _ h

theorem writeUnit_sound (c r bank row col : Nat) (data : Wide) (mask : BitVec 128) (p : Bool) (h : s.sound) :
    (writeUnit c r bank row col data mask p s).sound := by
  unfold writeUnit; exact storeUnit_sound _ _ _ _ _ (sound_keeps s h (by simp; split <;> simp) (by simp; split <;> simp))

theorem putUnit_sound (l : Loc) (data : Wide) (mask : BitVec 128) (p : Bool) (h : s.sound) : (putUnit l data mask p s).sound := by
  unfold putUnit; simp only []; split
  · exact writeUnit_sound s _ _ _ _ _ _ _ _ h
  · exact sound_keeps s h (by simp) (by simp)

theorem writeWords_sound (xs : List WordWrite) (h : s.sound) : (writeWords xs s).sound := by
  unfold writeWords
  refine foldl_sound _ (fun t i ht => ?_) _ _ h
  simp only []
  split
  · exact ht
  · split
    · exact ht
    · exact putUnit_sound t _ _ _ _ ht

/-- A column write of a state that is sound. -/
theorem setMem_sound (w : Nat) (d : ColData) (h : s.sound) :
    State.sound { s with bank := { s.bank with mem := Memory.setCol s.bank.mem w d } } := ⟨h.1, setCol_wf _ _ _ h.2⟩

theorem scribbleCol_sound (n w : Nat) (h : s.sound) : (scribbleCol n w s).sound := by
  unfold scribbleCol; simp only []
  generalize hs : (if (bc s (wordLoc w).c).writes.isEmpty then s else _) = u
  have hu : u.sound := by
    rw [← hs]; split
    · exact h
    · exact sound_keeps s h (by simp) (by simp)
  have h2 := setMem_sound u w (Config.undefinedCol n w) hu
  split
  · exact sound_keeps _ h2 (by simp) (by simp)
  · exact sound_keeps _ h2 (by simp) (by simp)
  · exact h2

theorem scribble_sound (ws : List Nat) (h : s.sound) : (scribble ws s).sound := by
  unfold scribble; split
  · exact h
  · exact foldl_sound _ (fun t w ht => scribbleCol_sound t _ w ht) _ _ h

theorem undefineWork_sound (d : Desc) (h : s.sound) : (undefineWork d s).sound := by
  unfold undefineWork; split
  · exact sound_of (scribble_sound s _ h) (by simp) (by unfold scribbleRegions; simp only []; split <;> rfl)
  · exact h

theorem writeBackWords_sound (ws : List Nat) (h : s.sound) : (writeBackWords ws s).sound := by
  unfold writeBackWords
  exact writeWords_sound _ _ (foldl_sound _ (fun t w ht => sound_keeps t ht (by simp) (by simp)) _ _ h)

theorem writeBackAll_sound (ws : List Nat) (h : s.sound) : (writeBackAll ws s).sound := writeBackWords_sound s _ h

theorem clearPage_sound (pg : Nat) (h : s.sound) : (clearPage pg s).sound := ⟨h.1, filter_wf _ _ h.2⟩

theorem closeRows_sound (g : Nat) (h : s.sound) : (closeRows g s).sound := sound_of h (by simp) rfl

theorem stopGrain_sound (g : Nat) (st : GState) (fault pc : Nat) (h : s.sound) : (stopGrain g st fault pc s).sound :=
  sound_of h (by simp) (by unfold stopGrain; simp only []; split <;> rfl)

theorem haltGrain_sound (g : Nat) (h : s.sound) : (haltGrain g s).sound := by
  unfold haltGrain; split
  · exact closeRows_sound _ _ (stopGrain_sound _ _ _ _ _ h)
  · exact h

theorem noteWritten_sound (w : Nat) (h : s.sound) : (noteWritten w s).sound := by
  unfold noteWritten; simp only []; split
  · split
    · exact sound_of h (by simp) (by simp)
    · exact h
  · exact h

theorem grainWrite_sound (w : Nat) (d : ColData) (h : s.sound) : (grainWrite w d s).sound :=
  noteWritten_sound _ _ (sound_of (setMem_sound s w d h) (by simp) rfl)

theorem haltCommand_sound (g : Nat) (h : s.sound) : (haltCommand g s).sound := by
  unfold haltCommand; simp only []; split
  · split
    · exact haltGrain_sound _ _ (sound_of (foldl_sound _ (fun t w ht => grainWrite_sound t w _ ht) _ _ h) rfl rfl)
    · exact haltGrain_sound s g h
  · exact haltGrain_sound s g h

theorem faultGrain_sound (g code : Nat) (h : s.sound) : (faultGrain g code s).sound := by
  unfold faultGrain; simp only []; split
  · exact stopGrain_sound s _ _ _ _ h
  · exact closeRows_sound _ _ (stopGrain_sound s _ _ _ _ h)

theorem fetchCheck_sound (g : Nat) (h : s.sound) : (fetchCheck g s).sound := by
  unfold fetchCheck; simp only []; split
  · exact faultGrain_sound s _ _ h
  · exact h

theorem startGrain_sound (g : Nat) (insn : Option U32) (entry : Nat) (h : s.sound) : (startGrain g insn entry s).sound :=
  fetchCheck_sound _ _ h

theorem haltRuns_sound (x : CtxNo) (h : s.sound) : (haltRuns x s).sound :=
  foldl_sound _ (fun t _ ht => foldl_sound _ (fun u _ hu => foldl_sound _ (fun v g hv => haltGrain_sound v g hv) _ u hu) _ t ht)
    _ _ h

theorem stopCtx_sound (x : CtxNo) (h : s.sound) : (stopCtx x s).sound := by
  unfold stopCtx; split
  · exact h
  · refine sound_of (haltRuns_sound s x h) (by simp) ?_
    simp

theorem faultCtx_sound (x : CtxNo) (code : Nat) (h : s.sound) : (faultCtx x code s).sound := by
  unfold faultCtx; split
  · exact h
  · exact stopCtx_sound _ _ (logFn_sound _ _ _ _ _ _ _ (sound_of h (by simp) (by simp)))

theorem buildRecord_sound (p : Place) (d : Desc) (h : s.sound) : (buildRecord p d s).sound := by
  unfold buildRecord; simp only []; split
  · exact sound_of h (by simp) (by simp)
  · exact logFn_sound _ _ _ _ _ _ _ (sound_of h (by simp) (by simp))

end Sys2Proof.Machine
end

