-- ==== Sys2Proof/Machine/Hardware.lean ====
section
/-! DEFINITION. The module's card edge, cable cages and indicators (21): which contact carries which signal (R512, R513), which cage
is which port (R514), the sideband address (R516), and what the indicators show (R518). -/

namespace Sys2Proof.Machine

/-! ### The card edge -/

/-- The signals of Table 21.1; a pair of a block is its `neg` half or not. -/
inductive EdgeSig where
  | p54v | rtn | gnd | refclk (neg : Bool) | perst | i3cScl | i3cSda | pwrFail | pg | prsnt1 | prsnt2 | slotId (k : Nat)
  | pair (k : Nat) (neg : Bool) | reserved
  deriving DecidableEq, Repr

/-- Contacts 38 to 134 of a side: pair k on 39 + 3k and 40 + 3k, GND on 38 + 3k and 41 + 3k (R513). -/
def blockContact (n : Nat) : EdgeSig :=
  match (n - 38) % 3 with
  | 0 => .gnd
  | 1 => .pair ((n - 38) / 3) false
  | _ => .pair ((n - 38) / 3) true

/-- The signal of contact n of side A or B; none where the card has no such contact (Table 21.1). -/
def edgeContact (sideB : Bool) (n : Nat) : Option EdgeSig :=
  if n = 0 ∨ 136 < n then none
  else if n ≤ 8 then some .p54v
  else if n ≤ 24 then some .rtn
  else if 38 ≤ n ∧ n ≤ 134 then some (blockContact n)
  else if sideB then
    some (if n = 25 ∨ n = 135 then .gnd else if n = 136 then .prsnt2 else .reserved)
  else
    match n with
    | 26 => some (.refclk false)
    | 27 => some (.refclk true)
    | 29 => some .perst
    | 30 => some .i3cScl
    | 31 => some .i3cSda
    | 32 => some .pwrFail
    | 33 => some .pg
    | 34 => some .prsnt1
    | 35 => some (.slotId 0)
    | 36 => some (.slotId 1)
    | 37 => some (.slotId 2)
    | _ => some .gnd

/-- What a pair of a block carries: a lane of the CXL link, of ML0 or of ML1 (R513). -/
inductive PairUse where
  | cxl (lane : Nat) | link (port lane : Nat)
  deriving DecidableEq, Repr

def pairUse (k : Nat) : PairUse := if k < 16 then .cxl k else .link ((k - 16) / 8) (k % 8)

/-- The physical lane of a port's logical lane, from the map in force (R513, 15 R393). -/
def physLane (s : State) (p lane : Nat) : Nat := bits (lnkLaneOf s p).inForce.map.toNat (3 * lane) 3

/-- The module's static I3C address (R516). -/
def i3cAddress (s : State) : Nat := 0x30 + s.boot.slotId.toNat

/-! ### Cages and indicators -/

/-- The port of a cable cage, left to right: ML2 to ML5 (R514). -/
def cagePort (k : Fin 4) : Nat := k.val + 2

/-- What an indicator shows (Table 21.4). -/
inductive Light where
  | off | green | amber | amberBlink
  deriving DecidableEq, Repr

def lightOf (n : Fin 4) : Light :=
  match n with
  | 0 => .off
  | 1 => .green
  | 2 => .amber
  | 3 => .amberBlink

/-- The indicator above a cage (R518). -/
def cageLight (s : State) (k : Fin 4) : Light :=
  match (port s (cagePort k)).st with
  | .down => .off
  | .train => .off
  | .up => .green
  | .degraded => .amber
  | .quarantine => .amberBlink
  | .looped => .amberBlink

/-- The module indicator (R518). From step 3 of the start, or from a warm reset, to Media Ready the table gives it no state: free
(log entry 115). -/
def moduleLight (s : State) : Light :=
  if !s.boot.powered then .off
  else if s.boot.hubFault ∨ s.boot.phase = 0x0E#8 then .amberBlink
  else if s.boot.phase = 0x01#8 ∨ s.boot.phase = 0x02#8 then .off
  else if s.boot.fabricReady then .green
  else if s.boot.mediaReady then .amber
  else lightOf Config.startLight

end Sys2Proof.Machine
end

