-- ==== Sys2Proof/Tests/Slice0.lean ====
section
/-! SUPPORT. Tests: for every statement with hypotheses a state and operands that meet them, clause by clause; the spec's
worked examples; terms that are not well-formed. -/

namespace Sys2Proof.Tests
open Sys2Proof Sys2Proof.Machine

/-! ### States the witnesses start from -/

/-- Every island released, the module ready, some minutes after power good; the dies hear, nothing runs. -/
def tReady : State :=
  { State.reset with
    clk := { Clk.reset with mtb := 0x10000000000#64, up := 0x10000000000#64 },
    boot := { Boot.reset with
      phase := 0x09#8, mediaReady := true, fabricReady := true, ms := 1000000#32, relHost := true, relMarl := true,
      relBc := 0xFFFF#16, relSeq := true, relLay := true, relMx := 15#4, relLk := true, grainTested := true,
      memInit := true, keepRestored := true },
    tray := { Tray.reset with ns := 0x10000000000#64 } }

/-- The ready module as a host finds it, no ring enabled. -/
def tHost : State := tReady

end Sys2Proof.Tests

namespace Sys2Proof.Tests
open Sys2Proof Sys2Proof.Machine

/-! ### Rings and descriptors -/

/-- A descriptor of f in the stage and with the words given. -/
def mkDesc (f : Func) (st : Stage) (ws : List U64) : Desc := { Desc.fresh f 0 with stage := st, words := ws }

/-- Function 1's ring is enabled and eight descriptors await fetch. -/
def tRing : State := setRing 1 { Ring.reset with enable := true, tail := 8 } tHost

def fA : Fetch := { id := 0, slot := 0, places := [256, 257], landed := false }
def tFetch : State :=
  { setRing 1 { Ring.reset with enable := true, tail := 8, fetches := [fA] } tHost with
    places := [(256, Desc.fresh 1 0), (257, Desc.fresh 1 1)] }

/-- A landed FENCE. -/
def dLanded : Desc := mkDesc 1 .landed [0x0000000100000002]
def tLanded : State := { tRing with places := [(0, dLanded)] }
/-- The fetch of a FENCE that ended in an error. -/
def dFailed : Desc := { dLanded with failed := true }
def tFailedHead : State := { tRing with places := [(0, dFailed)] }
/-- A COPY from DPA 0, which is not function 1's. -/
def dCopyLanded : Desc := mkDesc 1 .landed [0x0000000100000020, 0, 0x4000, 0, 0, 0, 0, 0]
def tCopyLanded : State := { tRing with places := [(0, dCopyLanded)] }
/-- Requests that this boundary latched before: the PF's disable of function 1's ring, a page operation of the PF, the
GRC's size of the Keep region, its budget, a flag operation of a sequencer. -/
def ordDisable : Order := pfOrder (.ring 1) .disable 0
def ordPage : Order := pfOrder (.page 7) .pages 9
def ordKeep : Order := { obj := .keep, req := .keepSize, master := 0, func := 0xFF, hsn := 0 }
def ordRamp : Order := { obj := .ramp, req := .rampSet, master := 0, func := 0xFF, hsn := 0 }
def ordFlag : Order := { obj := .flag 5, req := .flagOp, master := 1, func := 0, hsn := 9 }
def tDisabling : State := noteOrder ordDisable (setRing 1 { Ring.reset with tail := 8 } tHost)

def dEnded : Desc := { (mkDesc 1 .ended [0x0000000100000002]) with hsn := 1#32 }
def tEnded : State := { tRing with places := [(0, dEnded)] }

def rBuilt : DoneRec := { w0 := 0x0000000100000200, w1 := 1, w2 := 5, w3 := 0, quiet := false, place := 0 }
def tBuilt : State :=
  { setRing 1 { Ring.reset with enable := true, msix := true, doneCons := 5, built := [rBuilt] } tHost with
    places := [(0, { dEnded with stage := .built })] }

end Sys2Proof.Tests

namespace Sys2Proof.Tests
open Sys2Proof Sys2Proof.Machine

/-- An accepted descriptor of function 1, words 1 on as given. -/
def dAcc (op : Nat) (ws : List U64) : Desc :=
  { mkDesc 1 .accepted (BitVec.ofNat 64 op :: ws) with hsn := 1#32, acc := 5 }
/-- Place 3 holds a descriptor of an enabled ring. -/
def tWith (d : Desc) : State := { tRing with places := [(3, d)] }
def tDesc (op : Nat) (ws : List U64) : State := tWith (dAcc op ws)
def dRunning (op : Nat) (ws : List U64) : Desc := { dAcc op ws with stage := .running }
def tRunDesc (op : Nat) (ws : List U64) : State := tWith (dRunning op ws)
/-- The descriptor runs on context 2. -/
def dOnCtx (op : Nat) (ws : List U64) : Desc := { dRunning op ws with ctx := some 2 }
def tCtxDesc (op : Nat) (ws : List U64) : State :=
  setCtx 2 { Ctx.fresh 3 1 [] 0#64 with st := .run } (tWith (dOnCtx op ws))

def dTarget : Desc := { dAcc 0x01 [] with hsn := 2#32, acc := 4 }
def tCancel : State := { tRing with places := [(3, dAcc 0x12 [0xFFFF00000002, 1]), (4, dTarget)] }

/-- Every rank is fenced. -/
def tFence (s : State) : State :=
  [0, 1, 2, 3].foldl (fun s' q => setQuad q { QuadMap.reset with fenced := 0xFF#8 } s') s
/-- Page 9 is another function's. -/
def tPages (s : State) : State := setPageOwner 9 3 s
def tNoQuota (s : State) : State := { s with hub := { s.hub with pageQuota := [(1, 0#24)] } }
def tNoMarl (s : State) : State := { s with hub := { s.hub with marlQuota := [(1, 0#12)] } }
/-- The return of page 7 waits for its clear. -/
def dClear : Desc := { dRunning 0x51 [1] with prog := { Progress.none with pages := [7], count := 1 } }
def tClear : State := { tWith dClear with serve := { Serve.reset with clearing := [(7, 4)] } }
/-- A Keep region of 256 MiB in force and a charged bank. -/
def tKeep (s : State) : State :=
  { s with dev := { s.dev with keep := Pair.at_ { size := 1#6, rsv := 2#6 } }, pwr := { s.pwr with holdup := 1000000 } }
/-- A header of an image with one entry and no region. -/
def imgOne : List Byte := (List.range 64).map (fun i => if i = 0x1A then 1#8 else 0#8)
/-- Model slot 0 of function 1 has a manifest of zeros. -/
def tModel (s : State) : State := { s with hub := { s.hub with model := [(16, Pair.at_ 64#39)] } }
def manifestOne : List U64 := [0, 0, 0, 0, 0, 0, 0, 0]
def dWaiting : Desc := { dAcc 0x10 [0, 0] with stage := .ctxWait }
def tWaiting : State := tWith dWaiting

end Sys2Proof.Tests

namespace Sys2Proof.Tests
open Sys2Proof Sys2Proof.Machine

/-! ### Ships and links -/

/-- The same descriptors of the PF. -/
def dAcc0 (op : Nat) (ws : List U64) : Desc := { dAcc op ws with func := 0 }
def tWith0 (d : Desc) : State := { setRing 0 { Ring.reset with enable := true, tail := 8 } tHost with places := [(3, d)] }
def tDesc0 (op : Nat) (ws : List U64) : State := tWith0 (dAcc0 op ws)
def dOnCtx0 (op : Nat) (ws : List U64) : Desc := { dOnCtx op ws with func := 0 }
def tCtxDesc0 (op : Nat) (ws : List U64) : State :=
  setCtx 2 { Ctx.fresh 3 0 [] 0#64 with st := .run } (tWith0 (dOnCtx0 op ws))

def cSignal : Ctx := { Ctx.fresh 3 0 [] 0#64 with st := .run }
/-- The word that holds shared flag 5 has had an uncorrectable error. -/
def tWordBad (s : State) : State := { s with seq := { s.seq with faultedWords := [0] } }

/-- The region a COPY of the PF takes. -/
def copyRegs : Tab Region :=
  ((placeRegion (tDesc0 0x20 [0, 0x4000]) [] .staging none (some 3) 0 1 none).getD ([], 0)).1

/-- The module stands at position 0; its port 0 meets port 1 of position 1 on eight lanes. -/
def planPortA : PlanPort := { enabled := true, far := 1#8, farPort := 1#3, lanes := 8 }
def planA : Plan := { bytes := [], gen := 1#32, rackId := 1#32, own := 0#8, ports := [planPortA], since := 0#64 }
def portA : Port := { Port.reset with st := .up, lanes := 8, good := 0xFF#8, farGood := 0xFF#8, credit0 := 9, credit1 := 9 }
def tLinked (s : State) : State := { setPort 0 portA s with lnk := { (setPort 0 portA s).lnk with plan := some planA } }

/-- A header to this module from position 1, next in sequence. -/
def hdrIn : PktHdr := Hdr.fresh 0#8 1#8 3 false false false
/-- A shipment to a position that no port leads to. -/
def shOut : ShipOut :=
  { dest := 8#8, flag := 5#14, ports := 0#6, pairs := [(7, 9)], parts := 1, opened := false, unacked := [0], used := 0#6,
    flagSent := false, poisoned := false }
def dShip : Desc := dRunning 0x40 [0x508, 0, 1]
def tShipped : State := { tLinked (tWith dShip) with serve := { Serve.reset with shipsOut := [(3, shOut)] } }
def tArriving : State := tLinked tHost
def shIn : ShipIn :=
  { src := 1#8, tag := 3, flag := 5#14, func := 0, pages := [7], parts := 1, accepted := true, got := [] }
def tOpen : State := { tArriving with serve := { Serve.reset with shipsIn := [shIn] } }

def identOf (serial : U64) : IdentPl :=
  { rackId := 1#32, planGen := 1#32, pos := 1#8, port := 1#3, laneOk := 0xFF#8, serial := serial, rxNext := 0#32 }
def tTraining : State :=
  { setPort 0 { portA with st := .train } tHost with
    lnk := { (setPort 0 { portA with st := .train } tHost).lnk with plan := some planA } }
def tsyncZ : TsyncPl := { tx := 0#64, echoTx := 0#64, echoRx := 0#64, root := 0#9, dist := 0#4 }
def pktOther : PktOut := { h := Hdr.fresh 1#8 2#8 3 false false false, k := .abort }
def tHeld : State := setPort 0 { portA with held := [pktOther] } tArriving
def tStaged : State := setPort 0 { portA with staged := [pktOther] } tArriving
def tStaged2 : State := setPort 0 { portA with st := .down, staged := [pktOther] } tArriving

end Sys2Proof.Tests

namespace Sys2Proof.Tests
open Sys2Proof Sys2Proof.Machine

/-! ### The host side -/

def dFlr : Desc := { dRunning 0x21 [] with discard := true }
def tFlr : State := { tWith dFlr with cxl := { Cxl.reset with flrs := [(1, 0#64)] } }
def tCxlUp (s : State) : State := { s with cxl := { s.cxl with up := true, perst := false } }
def tKeyed (s : State) : State := { s with cxl := { s.cxl with ideIo := { Ide.reset with key := some 5 } } }
def tNoPerst (s : State) : State := { s with cxl := { s.cxl with perst := false } }
/-- 256 MiB at host address 0. -/
def hdmA : HdmSetting :=
  { base := 0#64, size := 0x10000000#64, skip := 0#64, ways := 0#4, gran := 0#4, pos := 0, lock := true }
def tLocked : State := { tHost with cxl := { Cxl.reset with hdm0 := { set := hdmA, committed := true, error := false } } }
def tMem : State := tCxlUp tLocked
/-- The line's channel stands in a frequency change. -/
def tMemWaits : State := setBc (wordLoc ((lineWords tMem false 1).getD 0 0)).c { Bc.reset with changing := true } tMem
def tNotReady (s : State) : State := { s with boot := { s.boot with mediaReady := false } }
def tAllKeep (s : State) : State := { s with dev := { s.dev with keep := Pair.at_ { size := 1#6, rsv := 2#6 } } }

end Sys2Proof.Tests

namespace Sys2Proof.Tests
open Sys2Proof Sys2Proof.Machine

/-! ### The mailbox, SPDM -/

def tMbx : State := tCxlUp tHost
def keepOne : KeepSz := { size := 1#6, rsv := 2#6 }
def keepPayload : List Byte := leBytes 8 0x10000000 ++ leBytes 8 0x80000000
/-- Six enabled ports of eight lanes to port 0 of position 1. -/
def planPayload : List Byte :=
  leBytes 4 1 ++ leBytes 4 1 ++ leBytes 8 0 ++ (List.range 6).flatMap (fun _ => leBytes 8 0x8003)
def rampPayload : List Byte := leBytes 2 30 ++ leBytes 2 30 ++ leBytes 2 300 ++ leBytes 2 0 ++ leBytes 4 1 ++ leBytes 4 0
def tSpdm (version caps algs exchanged session : Bool) : State :=
  { tMbx with spdm := { version := version, caps := caps, algs := algs, exchanged := exchanged, session := session } }

end Sys2Proof.Tests

namespace Sys2Proof.Tests
open Sys2Proof Sys2Proof.Machine

/-! ### The Marl -/

def copyA : Copy := { region := none, data := 5#256, mask := 0xFF#32, poison := false, since := 0#64 }
def tDirty : State := { tReady with marl := { Marl.reset with copies := [(0, copyA)] } }
def tLater (s : State) : State := { s with clk := { s.clk with mtb := s.clk.mtb + 1000000#64 } }
def regLeaving : Region :=
  { kind := .staging, ctx := none, place := none, func := 1, quad := 0, first := 4, blocks := 1, releasing := true }
def tLeaving : State := { tReady with marl := { Marl.reset with regions := [(3, regLeaving)] } }
def p1A : P1 :=
  { rank := 0, sel := { dies := 1#4, grains := 1#16 }, kind := .grun 0, place := none, ctx := none, func := 0, dirty := [0],
    started := [], issued := false, since := 0#64, num := 0 }
def tPreWb : State := setBc 0 { Bc.reset with p1 := [p1A] } tDirty
/-- DPA lines 8 to 11 are bound to a region. -/
def regBound : Region := { regLeaving with releasing := false }
def bindA : Bind := { region := 3, off := 0, line := 8, loc := false, lines := 4 }
def tBound : State := { tReady with marl := { Marl.reset with regions := [(3, regBound)], binds := [bindA] } }
def tPendMarl : State :=
  { tReady with hub := { HubRegs.reset with
      marlPart := { HubRegs.reset.marlPart with waiting := some { bc := 8#5, lk := 8#6 } } } }
def tPendModel : State :=
  { tReady with hub := { HubRegs.reset with model := [(18, { (Pair.at_ 0#39) with waiting := some 0x1000#39 })] } }
def grnA : GrnPart := { set := 0x450001#38, lo := 0#12, hi := 100#12, flagQ := 4#15 }
/-- The partition is function 1's. -/
def tGrains (s : State) : State := { s with hub := { s.hub with grnPart := [(1, Pair.at_ grnA)] } }
def tPendGrn : State :=
  { tReady with hub := { HubRegs.reset with grnPart := [(1, { GrnPart.reset 1 with waiting := some grnA })] } }

end Sys2Proof.Tests

namespace Sys2Proof.Tests
open Sys2Proof Sys2Proof.Machine

/-! ### Registers -/

def tBadTen : State :=
  { tReady with hub := { HubRegs.reset with ten := [(0, { Ten.reset 0 with staged := { base := 5#12, limit := 2#12 } })] } }
def tGrnStaged : State :=
  { tReady with hub := { HubRegs.reset with grnSel := 1#8, grnPart := [(1, { GrnPart.reset 1 with staged := grnA })] } }

end Sys2Proof.Tests

namespace Sys2Proof.Tests
open Sys2Proof Sys2Proof.Machine

/-! ### Start-up -/

def tOff : State := { State.reset with boot := { Boot.reset with powered := false } }
def tNoFw (s : State) : State := { s with fw := { s.fw with valid0 := false } }
/-- HOST and the links are released in a phase of the start. -/
def tPhase (n : Nat) : State :=
  { State.reset with boot := { Boot.reset with phase := BitVec.ofNat 8 n, relHost := true, relLk := true } }
def tFailed (s : State) : State := { s with boot := { s.boot with testFails := [(0, 1)] } }
def tBcUp (s : State) : State := { s with boot := { s.boot with relBc := 0xFFFF#16 } }
def tGrainsFailed (s : State) : State := { s with boot := { s.boot with grainFails := [7] } }
def tAllUp (s : State) : State :=
  { s with boot := { s.boot with keepRestored := true, relSeq := true, relLay := true, relMx := 15#4 } }
def tFabric : State :=
  { tLinked tReady with
    boot := { tReady.boot with phase := 0x08#8, fabricReady := false }, clk := { tReady.clk with stepped := true } }
def tLk (s : State) : State := { s with boot := { s.boot with portWaived := 0#6 } }

end Sys2Proof.Tests

namespace Sys2Proof.Tests
open Sys2Proof Sys2Proof.Machine

/-! ### Dies and grains -/

/-- The four dies of rank 0.0, all as x. -/
def tDies (x : DieSt) : State := [0, 1, 2, 3].foldl (fun s d => setDie d x s) tReady
/-- Grain 0 of each die of rank 0.0, all as x. -/
def withGrains (x : Grain) (s : State) : State := [0, 16, 32, 48].foldl (fun s' g => setGrain g x s') s
/-- A tested die that hears commands, its grain 0 selected. -/
def dieA : DieSt := { DieSt.reset with inReset := false, stDone := true, sel := 1#16 }
def tDie : State := tDies dieA
def grainRun : Grain := { Grain.reset with state := .running, own := .polled }
def tDieRun : State := withGrains grainRun tDie
def tDieOpen : State := tDies { dieA with openRows := [(0, 5), (1, 5)] }
def tAsleep : State := tDies { dieA with selfRefresh := true }
def tDieCode : State := withGrains { Grain.reset with store := [(0, 0x08000000#32)] } tDie
def tDieDone : State := withGrains { grainRun with state := .stopped } tDie
/-- Grain 0 has faulted with UNDEF_ENC at this time. -/
def tFaultNow : State := withGrains { grainRun with state := .faulted, fault := 1, craMtb := 0x10000000000#64 } tDie
/-- A Spread of P1 that waits to be sent, whose row 5 an ACTG opens. -/
def p1Spread : P1 :=
  { rank := 0, sel := { dies := 15#4, grains := 1#16 }, kind := .spread 0xA4000040#32 5 true true, place := none, ctx := none,
    func := 0, dirty := [], started := [], issued := false, since := 0#64, num := 0 }
def tActg : State := setBc 0 { Bc.reset with p1 := [p1Spread] } tDie
def trackA : Track := { port := 1, rank := 0, bank := 0, row := 5, at_ := 0#64 }
def tThrottle : State :=
  let s := setBc 0 { Bc.reset with p1 := [p1Spread], tracker := [trackA] } tDie
  { s with clk := { s.clk with mtb := 10#64 }, dev := { s.dev with portCfg := [(1, { target := 100#16, mode := true })] } }
def tDieBlind : State := withGrains { Grain.reset with own := .blind } tDie
def tDieTwice : State :=
  { tDieRun with bank := { tDieRun.bank with parityOnce := [(0, tDieRun.clk.mtb)] } }

end Sys2Proof.Tests

namespace Sys2Proof.Tests
open Sys2Proof Sys2Proof.Machine

/-! ### Tilth code -/

/-- A code store that holds w at 0 and NOP in the eight words after it. -/
def codeOf (w : U32) : Tab U32 := [(0, w), (1, 0x08000000#32), (2, 0x08000000#32), (3, 0x08000000#32), (4, 0x08000000#32),
  (5, 0x08000000#32), (6, 0x08000000#32), (7, 0x08000000#32), (8, 0x08000000#32)]
/-- A grain that runs w, its pages all 4096, s1 = 2. -/
def codeGrain (w : U32) : Grain :=
  { Grain.reset with state := .running, own := .polled, pageLo := 0, pageHi := 4095, scal := [(1, 2#32)], store := codeOf w }
/-- Grain 0 as x, on a die that has row 0 open in its banks. -/
def onOpenDie (x : Grain) : State := setGrain 0 x (tDies { dieA with openRows := [(0, 0), (1, 0)] })
def tCode (w : U32) : State := onOpenDie (codeGrain w)
def tInsn (w : U32) : State := onOpenDie { (codeGrain w) with insn := some w }
def tNoPages (w : U32) : State := onOpenDie { (codeGrain w) with pageLo := 4095 }
def tPoisonCol (w : U32) : State :=
  let s := tCode w
  { s with bank := { s.bank with marks := (pairWords 0 0 0).map (fun k => (k, { poison := true, flips := 0 })) } }
def tSeam (w : U32) : State := onOpenDie { (codeGrain w) with recvUp := [7] }
def tFlying : State := onOpenDie { grainRun with inflightUp := [7], inflightDown := [9] }
def lA : GLoop := { first := 0, len := 5, count := 2, index := 0 }
def tLoop : State := onOpenDie { (codeGrain 0x10044000#32) with loop0 := some lA }
def lB : GLoop := { first := 1, len := 2, count := 3, index := 1 }
def tLoopEnd : State := onOpenDie { (codeGrain 0x08000000#32) with pc := 3, loop0 := some lB }
def tLoopEnd2 : State := onOpenDie { (codeGrain 0x20401000#32) with loop0 := some lB }

end Sys2Proof.Tests

namespace Sys2Proof.Tests
open Sys2Proof Sys2Proof.Machine

/-! ### Bank controllers -/

def tBc : State := tDie
/-- A lockstep Spread owns grain 0's banks. -/
def tBcBlind : State := tDieBlind
/-- A run owns grain 0's banks, bank 0 owes 8 REFs, and its command is out. -/
def tGuard : State :=
  { setBc 0 { Bc.reset with
      debt := [(0, 8)],
      p1 := [{ p1A with sel := { dies := 15#4, grains := 1#16 }, place := some 3, dirty := [], issued := true }] } tDieRun with
    places := [(3, dRunning 0x01 [0x30, 0, 0])] }
def tNbr : State := setBc 0 { Bc.reset with nbr := [(0, 3, 5)] } tDie
def tBcOpen : State := tDieOpen
/-- A write of port 0 to a unit, and a read of it. -/
def wrReq : BcReq :=
  { port := 0, rank := 0, bank := 0, row := 5, col := 2, write := true, data := 7#1024, mask := 0xFF#128, poison := false,
    flips := [] }
def rdReq : BcReq := { wrReq with write := false }
def heldW : Waiting := { req := wrReq, since := 0 }
def tHeldWr : State := setBc 0 { Bc.reset with heldAct := [heldW] } tDie
/-- A write that has just come waits, and an older read of another unit behind it, past its port's target. -/
def heldNew : Waiting := { req := wrReq, since := 0x10000000000#64 }
def heldOld : Waiting := { req := { rdReq with port := 1, col := 9 }, since := 0 }
def tTwoWait : State := setBc 0 { Bc.reset with heldAct := [heldNew, heldOld] } tDie
/-- A write waits for bank 3. -/
def unitA : WUnit := { port := 0, rank := 0, bank := 3, row := 5, col := 2, data := 7#1024, mask := 0xFF#128, poison := false, since := 0 }
def tAsked : State := setBc 0 { Bc.reset with writes := [unitA] } tDie
/-- Both ranks of channel 0 hear; one die of rank 0.0 shows an alert cause. -/
def tAlert : State :=
  [0, 1, 2, 3, 4, 5, 6, 7].foldl (fun s d => setDie d (if d = 1 then { dieA with cause := 4#8 } else dieA) s) tReady
def tSpareBad : State := setQuad 0 { QuadMap.reset with spareBad := true } tDie
/-- A read of rank 0.0 has returned CHK code 2 at DPA 0. -/
def tBad (s : State) : State := { s with ctl := { s.ctl with bad := [(0, 0)] } }
def tFailing : State := setQuad 0 { QuadMap.reset with failed := some 0 } tDie
def migA : Mig := { row := 3, bank := 4, paused := false }
def tMigrating : State :=
  let s := setQuad 0 { QuadMap.reset with spareFor := some 0, mig := some migA } tDie
  { s with bank := { s.bank with mem := [(locWord { c := 0, r := 0, d := 1, bank := 4, row := 3, col := 2 } * 32, 5#8)] } }
def migEnd : Mig := { row := 65536, bank := 0, paused := false }
/-- The next row to copy lies in a bank that a Spread owns. -/
def migRun : Mig := { row := 3, bank := 0, paused := false }
def tMigBlind : State := setQuad 0 { QuadMap.reset with spareFor := some 0, mig := some migRun } tDieBlind
/-- A read-delay sweep that passed at steps 10 to 59. -/
def sweepA : TrainResult := { rank := 0, lane := 2, setB := false, step := 2, passed := (BitVec.allOnes 50).zeroExtend 128 <<< 10, rvref := 64 }
def tMigrated : State := setQuad 0 { QuadMap.reset with spareFor := some 0, mig := some migEnd } tDie
def tFlip : State :=
  { tDie with bank := { tDie.bank with
      marks := [(locWord { c := 0, r := 0, d := 0, bank := 0, row := 0, col := 0 }, { poison := false, flips := 1 })] } }
/-- Training: channel 1 is not released, its dies are in reset. -/
def tTraining2 : State := { tReady with boot := { tReady.boot with phase := 0x05#8, relBc := 0xFFFD#16 } }
def tChanging : State := setBc 0 { Bc.reset with changing := true } tDieOpen

end Sys2Proof.Tests

namespace Sys2Proof.Tests
open Sys2Proof Sys2Proof.Machine

/-! ### Sequencers, flags and wires -/

/-- An image of 0x140 bytes with one entry and one region of one block. -/
def imgGood : List Byte :=
  leBytes 4 0x31495153 ++ leBytes 2 1 ++ leBytes 2 0 ++ leBytes 2 2 ++ leBytes 2 0x21 ++ leBytes 4 0x140 ++ leBytes 8 7
  ++ leBytes 2 3 ++ leBytes 2 1 ++ leBytes 2 1 ++ leBytes 2 0 ++ leBytes 4 0x80 ++ leBytes 4 0xC0 ++ leBytes 4 0x100
  ++ leBytes 4 64 ++ List.replicate 80 0#8
  ++ leBytes 8 5 ++ leBytes 8 1 ++ List.replicate 48 0#8 ++ leBytes 8 1 ++ List.replicate 56 0#8 ++ List.replicate 64 0#8
def dLoading : Desc := dOnCtx 0x10 [0, 0x140, 0, 0]
def cLoading : Ctx := { Ctx.fresh 3 1 [] 0#64 with st := .load }
/-- Context 0 loads an image that its sequencer keeps. -/
def tLoading : State :=
  let s := setCtx 0 cLoading (tWith dLoading)
  { s with seq := { s.seq with kept := [(0, [{ id := 7#64, len := 0x140, func := 1 }])] } }

/-- Context 0 of function 0 stands as c, with its descriptor at place 3. -/
def tOnCtx (c : Ctx) : State := setCtx 0 c (tWith0 { (dOnCtx0 0x10 [0, 0x140, 0, 0]) with ctx := some 0 })
def cRun : Ctx := { Ctx.fresh 3 0 [] 0#64 with st := .run, vals := [(1, 2#32)] }
def tSeq : State := tOnCtx cRun
/-- Rows, columns and types of the routine `gelu` from bank 0 into bank 0. -/
def cRoutine : Ctx := { cRun with vals := [(0, 1#32), (1, 4#32), (2, 0x186#32)] }
def tRoutine : State := tOnCtx cRoutine
def cStale : Ctx := { cRun with st := .waitFlag, wait := .flagIs .loc 3 true false }
def tStale : State := tOnCtx cStale
def cDeep : Ctx :=
  { cRun with loops := List.replicate 6 { count := 2, index := 0, body := 1#32, last := 9#32 },
              stack := [(5#32, 0), (5#32, 0), (5#32, 0), (1#32, 2)] }
def tDeep : State := tOnCtx cDeep
def cPend : Ctx := { cRun with pendVals := [1] }
def tPendVal : State := tOnCtx cPend

/-- A Slip command that adds an immediate of 0 to the number 5, into bank 2. -/
def slipAdd : SlipCmd :=
  { stages := [.add .imm0], tile := none, in1 := .imm 0x40A00000#32, in1Fmt := .fp32, in2 := none, in2Fmt := .fp32,
    bcast0 := none, bcast1 := none, i0 := 0#32, i1 := 0#32, rows := 1, cols := 4, laneMask := none, maskOut := none,
    out := .bank 2, outFmt := .fp32, sat := false }
def pushSlip : Push := { queue := 4, cmd := .slip slipAdd, flag := none, wire := none, value := some 3 }
def pushGrun : Push := { queue := 10, cmd := .grun 0 { dies := 1#4, grains := 1#16 } 0, flag := none, wire := none, value := none }
def pushWrong : Push := { pushSlip with queue := 0 }
def qcmdOf (x : CtxNo) (p : Push) : QCmd :=
  { ctx := some x, place := 3, push := p, words := [], offs := [], reads := [], writes := [], slot := none, pops := [],
    pushNo := 0, started := false, fin := false, since := 0#64, result := none }
def tFull : State := setQueue 4 (List.replicate 64 (qcmdOf 5 pushSlip)) tSeq
def cWaitQ : Ctx := { cRun with st := .waitQ, wait := .push pushSlip }
def tWaitQ : State := tOnCtx cWaitQ
def cWaitVal : Ctx := { cRun with st := .waitVal, wait := .value 1 }
def tWaitVal : State := tOnCtx cWaitVal
def cmdFin : QCmd := { (qcmdOf 0 pushSlip) with started := true, fin := true, result := some 8#32 }
def tFin : State := setQueue 4 [cmdFin] tSeq

def tFlagUp : State := putFlag .loc 3 { Flag.reset with value := true } tSeq
def cWaitFlag : Ctx := { cRun with st := .waitFlag, wait := .flagIs .shared 20 true true }
def tTwoCtx : State :=
  let s := setCtx 1 cWaitFlag tSeq
  { s with seq := { s.seq with waits := [1] } }
/-- The module stands at position 0, and position 1 is reached over port 0. -/
def tRemote : State := tLinked tSeq
def originated : State := (originate 1#8 3 (.flagSet 5#14 false) none (issue 0 (advance cRun) tRemote)).getD tRemote

def tWire : State := setWire 2 { Wire.reset with func := some 0, n := 3, joined := [0] } tSeq
def tWireLast : State := setWire 2 { Wire.reset with func := some 0, n := 3, count := 2, joined := [0] } tSeq
def cWireWait : Ctx := { cRun with st := .waitFlag, wait := .wire 2 0 }
/-- Context 1 waits on wire 2, of which one arrival is still to come. -/
def tWireWaits : State :=
  let s := setCtx 1 cWireWait tWireLast
  { s with seq := { s.seq with waits := [1] } }
def tWireWoken : State := setCtx 1 { cWireWait with wait := .nothing } tWireLast
def tDue : State := setWire 2 { Wire.reset with func := some 0, n := 3, count := 3, joined := [0], due := some 4 } tSeq
def streamEven : Stream :=
  { region := 0, slotLog := 8, push := 2, pop := 2, producer := none, consumer := none, filled := [], done := 2 }
def cStream : Ctx := { cRun with streams := [(1, streamEven)] }
def tStream : State := tOnCtx cStream
def cStreamOdd : Ctx := { cRun with streams := [(1, { streamEven with push := 3 })] }
def tStreamOdd : State := tOnCtx cStreamOdd

end Sys2Proof.Tests

namespace Sys2Proof.Tests
open Sys2Proof Sys2Proof.Machine

/-! ### Engines and serving -/

def wlCmd : QCmd := qcmdOf 0 { queue := 0, cmd := .weightLoad 0 .bf16 (.imm 5), flag := none, wire := none, value := none }
def tWl : State := setQueue 0 [wlCmd] tSeq
def ppCmd : QCmd := qcmdOf 0 { wlCmd.push with cmd := .product (.imm 5) .bf16 0 1 true }
def tPp : State := setQueue 0 [ppCmd] tSeq
def ppCmd8 : QCmd := qcmdOf 0 { wlCmd.push with cmd := .product (.imm 5) .int8 0 1 true }
def tPp8 : State := setQueue 0 [ppCmd8] tSeq
def slCmd : QCmd := qcmdOf 0 pushSlip
def tSl : State := setQueue 4 [slCmd] tSeq
/-- The read of a region's word. -/
def wordCmd : QCmd :=
  { (qcmdOf 0 { queue := 4, cmd := .regionWord (.gen 0 64) 3, flag := none, wire := none, value := some 1 }) with offs := [(0, 64)] }
def tWord : State := setQueue 4 [wordCmd] tSeq

/-- A layout command of one step. -/
def lyCmd : QCmd :=
  { (qcmdOf 0 { queue := 8, cmd := .layout 0 1 2, flag := none, wire := none, value := none }) with
    words := [0x20, 0, 0, 0, 0, 0, 0, 0] }
def tLy : State := setQueue 8 [lyCmd] tSeq
/-- A COPY's layout command, at its first step. -/
def lyRunCmd : QCmd := { lyCmd with ctx := none, started := true }
def lyJob0 : LyJob := { words := lyCmd.words, place := 3, step := 0, started := true, poisoned := false }
def tLyRun : State :=
  let s := setQueue 8 [lyRunCmd] (tWith (dRunning 0x20 [0, 0, 0, 0, 0, 0, 0]))
  { s with eng := { s.eng with lys := [(0, lyJob0)] } }
def stuckCmd : QCmd := { wlCmd with started := true }
def cStuck : Ctx := cRun
def tMxStuck : State := setQueue 0 [stuckCmd] tSeq
def lyStuckCmd : QCmd := lyRunCmd
def dLyStuck : Desc := dRunning 0x20 [0, 0, 0, 0, 0, 0, 0]
def tLyStuck : State := tLyRun
def p1Run : P1 := { p1A with sel := { dies := 15#4, grains := 1#16 }, place := some 0, dirty := [], issued := true }
def dRun : Desc := dRunning 0x31 [0, 0, 0]
def tRunLong : State := { setBc 0 { Bc.reset with p1 := [p1Run] } tDieRun with places := [(0, dRun)] }

/-- A decode row in flight. -/
def rowA : RowRun :=
  { words := [0, 0, 0, 0, 0, 0, 0, 0], pages := [], conds := [], admitted := true, ended := false, committed := false,
    cancel := false, tokens := [], accepted := 0, mtb := 0#64 }
def stepOf (r : RowRun) : StepRun :=
  { func := 0, slot := 0, rows := [r], finish := 0, posQuads := 0, modelPages := [], sent := false }
def tSteps (t : StepRun) (p : Nat) (s : State) : State := { s with serve := { s.serve with steps := [(p, t)] } }
def cStep : Ctx := cRun
def dStep : Desc := { (dOnCtx0 0x10 [0, 0x140, 0, 0]) with ctx := some 0 }
def stepRun : StepRun := stepOf rowA
def tUnit : State := tSteps stepRun 3 tSeq
def rowCancel : RowRun := { rowA with cancel := true }
def stepRunC : StepRun := stepOf rowCancel
def tUnitC : State := tSteps stepRunC 3 tSeq
def rowEnded : RowRun := { rowA with ended := true, tokens := [9] }
def stepEnded : StepRun := stepOf rowEnded
def tEndedRow : State := tSteps stepEnded 0 tHost
def rowEndedC : RowRun := { rowEnded with cancel := true }
def stepEndedC : StepRun := stepOf rowEndedC
def tEndedRowC : State := tSteps stepEndedC 0 tHost
def stepDone : StepRun := stepOf { rowEnded with committed := true }
def dStepEnded : Desc := { (mkDesc 1 .ended [0x11, 0, 0, 0x40]) with hsn := 1#32 }
def tTable : State := { tSteps stepDone 0 (tCxlUp tHost) with places := [(0, dStepEnded)] }

end Sys2Proof.Tests

namespace Sys2Proof.Tests
open Sys2Proof Sys2Proof.Machine

/-! ### Power, the Keep region, the tray and the rack -/

def tPower : State := tReady
def pwrOf (p : Pwr) : State := { tReady with pwr := p }
def tHotMx : State := pwrOf { Pwr.reset with clk := [(islMx 1, 1400)] }
/-- A die has been hot, and one has been cool, since reset. -/
def tHot : State := pwrOf { Pwr.reset with hotSince := some 0 }
def tCool : State := pwrOf { Pwr.reset with coolSince := some 0, loops := [(3, { LoopRec.reset with active := true })] }
def tLinkUp : State := tArriving
def tSlowLink : State := setPort 0 { portA with loopHold := true, fallback := true } tArriving
/-- Block 3 of a Keep region of 256 MiB is dirty. -/
def tKeepDirty : State :=
  let s := tKeep tReady
  { setKblock 3 { KBlock.reset with dirty := true } s with pwr := { s.pwr with forced := true } }
def tCopying : State := setKblock 3 { KBlock.reset with dirty := true, copying := true } (tKeep tReady)
def tCopyingNoSpare : State := { tCopying with keep := { tCopying.keep with sparesUsed := 32768 } }
def slotRun : Slot := { Slot.reset with st := .run, outMv := 54000 }
def tInrush : State := setSlot 2 { Slot.reset with st := .inrush } tReady
/-- The module's own slot ramps. -/
def tInrush0 : State := setSlot 0 { Slot.reset with st := .inrush } tOff
def tSlotRun : State := setSlot 2 slotRun tReady
def tSlotRun3 : State :=
  let s := setSlot 2 { slotRun with fails := [0, 1, 2] } tReady
  { s with tray := { s.tray with ns := 1000#64 } }
def tSlotTripped : State := setSlot 2 { Slot.reset with st := .tripped } tReady
def tSlotLatched : State := setSlot 2 { Slot.reset with st := .latched, fails := [0, 1, 2, 3] } tReady
/-- It has latched at this time. -/
def tSlotLatchedNow : State := setSlot 2 { Slot.reset with st := .latched, since := 0x10000000000#64 } tReady
def tRack : State := setRackMod 1 { RackMod.reset with healthy := true } (setRackMod 0 { RackMod.reset with healthy := true } tReady)
/-- A distribution's raise of module 1 waits, and may go now. -/
def tRaising : State := { tRack with grc := { tRack.grc with raises := [(1, 20)], raiseAt := 0x10000000000#64 } }
def repA : ModReport := { m := 1, healthy := true, grains := 4096, fencedRanks := 0, upPorts := 0x3F, carryPorts := 0x3F }

end Sys2Proof.Tests

namespace Sys2Proof.Tests
open Sys2Proof Sys2Proof.Machine
set_option Elab.async false

/-! ### Worked examples of the spec: each expected value stands in the chapter named -/

/-- 03, four modules behind one socket: host address 0x40_0000_5000 is DPA 0x1000 of the module at position 1. -/
theorem test_hdm_four_ways :
    hpaMap { State.reset with cxl := { Cxl.reset with hdm0 :=
      { set := { base := 0x4000000000#64, size := 0x20000000000#64, skip := 0, ways := 2, gran := 4, pos := 1, lock := true },
        committed := true, error := false } } } 0x4000005000#64 = some 0x1000 := by decide +kernel

/-- 08, decoding one DPA under AMO0: grain 9.1.1.1, row 18,058, column 31. -/
theorem test_dpa_amo0 : dpaLoc 0 0x23456789A0 = { c := 9, r := 1, d := 1, bank := 2, row := 18058, col := 31 } := by decide +kernel
/-- 08: its bank-local offset in grain index 1,233. -/
theorem test_dpa_local : locLocal (dpaLoc 0 0x23456789A0) = (1233, 0x468A7C0) := by decide +kernel
/-- 08, the same DPA under AMO3: grain 4.0.1.13, row 5,534, column 19. -/
theorem test_dpa_amo3 : dpaLoc 3 0x23456789A0 = { c := 4, r := 0, d := 1, bank := 26, row := 5534, col := 19 } := by decide +kernel
/-- 05, locating byte 0x1A48 of page 300 of grain 13.1.2.7. -/
theorem test_local_page :
    localLoc 1767 (300 * 65536 + 0x1A48) = { c := 13, r := 1, d := 2, bank := 14, row := 4801, col := 41 } := by decide +kernel

/-- 05, the Seam on a die whose grain 9 is mapped out: grain 8 sends to grain 10. -/
theorem test_seam_skips_mapped_out :
    nearest { tReady with bank := { tReady.bank with mappedOut := [4 * 128 + 16 + 9] } } (4 * 128 + 16 + 8) false
      = some (4 * 128 + 16 + 10) := by decide +kernel

/-- 07, a ready-mode poll: die 9.1.2 as the chapter describes it. -/
def tStat : State :=
  let s := setDie (dieNo 9 1 2) { DieSt.reset with inReset := false, stDone := true, changed := 0x008C#16, temp := 0x47#8 } tReady
  (List.range 16).foldl (fun s' g => setGrain (grainAt 9 1 2 g)
    (if g = 2 ∨ g = 3 then { Grain.reset with state := .idle }
     else { grainRun with state := if g = 7 then .faulted else .running }) s') s
theorem test_stat_burst : (statWord tStat 9 1 2).toNat % 2 ^ 64 = 0x4700008C55559505 := by decide +kernel
theorem test_stat_complement :
    (statWord tStat 9 1 2).extractLsb' 128 128 = ~~~(statWord tStat 9 1 2).extractLsb' 0 128 := by decide +kernel

/-- 04, the headline SPREAD: its done record before the ring's phase bit is put in. -/
def tSpread : State :=
  { setRing 0 { Ring.reset with enable := true, lastBuilt := 4870#32 } tReady with
    places := [(0, { (dRunning 0x21 [0x3FFFFFFFFF, 0xA4000040, 0x30120]) with
      hsn := 5001#32, epoch := 7#32, func := 0, stage := .ended, prog := { Progress.none with run := 2048 } })] }
theorem test_done_record :
    (match exec (.descriptorCompletion 0) tSpread with
      | .next t => (ring t 0).built.map (fun r => (r.w0, r.w1, r.w3))
      | _ => []) = [(0x0000130700002100#64, 0x0000000700001389#64, 0x800#64)] := by decide +kernel

/-- 20 and 12, VF 12's partition as it stands before step 12: its flag base, and its staged grains, pages and quota. -/
def tVf (base : Nat) : State :=
  { tReady with hub := { HubRegs.reset with
      grnSel := 12, flagBase := [(12, Pair.at_ (BitVec.ofNat 14 base))],
      grnPart := [(11, Pair.at_ { (GrnPart.reset 11).inForce with flagQ := 256 }),
                  (12, { (GrnPart.reset 12) with staged := { set := 0x3FFFFF000F#38, lo := 96, hi := 607, flagQ := 256 } })] } }
/-- 20, step 12: the commit is accepted, and the block is 1,024 to 1,279 with 8 run-done flags. -/
theorem test_flag_block :
    let s := commitGrnPart (tVf 1024)
    readReg s 0x3020 = 0 ∧ flagBlock s 12 = (1024, 256) ∧ pairCount s 12 = 8 ∧ runDoneFlag s 12 2 1 = some 1277
      ∧ inFlagRange s 12 1271 = true ∧ inFlagRange s 12 1272 = false ∧ isRunDone s 12 1272 = true := by decide +kernel
/-- 20: with the base still 0 the commit is refused with mismatch. -/
theorem test_flag_block_refused : readReg (commitGrnPart (tVf 0)) 0x3020 = 0x4 := by decide +kernel
/-- 19, inspecting run-done flag 1,277 after forty grain runs. -/
theorem test_flag_record :
    (flagRecord (putFlag .shared 1277 { Flag.reset with value := true, setter := 3, sets := 40, clears := 40 }
      (commitGrnPart (tVf 1024))) 12 .shared 1277).head? = some 0x0028002801800065#64 := by decide +kernel

/-- 20, reading the rank map: the spare in the place of channel 10, rank 1. -/
theorem test_rank_stat : rankStat (setQuad 2 { QuadMap.reset with spareFor := some 5, spareIn := true } tReady) 2 = 0x0D00 := by
  decide +kernel
/-- 18: PMU_BOOT_STAT at fabric ready. -/
theorem test_boot_stat :
    bootStat { tReady with lnk := { tReady.lnk with plan := some planA }, boot := { tReady.boot with ms := 11150 } }
      = 0x0000002B8E130009 := by decide +kernel

/-- 16, a store refused at a weak bank. -/
theorem test_holdup : holdupMj 300000 23900 = 51495 ∧ needMj 5368709120 = 50575 ∧ needMj 5570035712 = 52396
    ∧ needMj (83473 * 65536) = 51495 := by decide +kernel
/-- 17, a rack in degraded service, after the second lost shelf. -/
theorem test_cap : capW { Grc.reset with shelves := 6 } 253 = 427 := by decide +kernel
/-- 17, budgets for two facility limits. -/
theorem test_budget : rateOf Grc.reset 256 [] 0 = 30 ∧ rateOf { Grc.reset with rackRamp := 4000 } 256 [] 0 = 14
    ∧ rateOf { Grc.reset with rackRamp := 4000, demand := true } 256 ((List.range 20).map (fun m => (m, 400))) 3 = 67
    ∧ rateOf { Grc.reset with rackRamp := 4000, demand := true } 256 ((List.range 20).map (fun m => (m, 400))) 30 = 10 := by
  decide +kernel
/-- 15, a cable in the wrong port: from (2, 6, 1) to (2, 7, 1) the candidates are ML2, then ML3 with detour and wrong_way. -/
theorem test_route_wrong_port :
    candidates (2 + 8 * 6 + 64) (2 + 8 * 7 + 64) false = [(2, false, false), (3, true, true)] := by decide +kernel

/-- 13, the standard example batch: Caliche-40's manifest, a decode row, row 400 and the prefill row. -/
def man40 : List U64 :=
  [0x002E000000000000, 0x0000000106301800, 0x0001637800004200, 0, 0x0000045100000000, 0, 0, 0]
def row400 : List U64 :=
  [0x00005A0100030001, 0x0000000500000F47, 0x0000000300400000, 0x00009C4000000000, 0x000001920000434E, 0x0000000B0000226F,
   0x000000000000EAD0, 0]
def batch40 : List (List U64) :=
  List.replicate 384 [0, 0x00000001000003E8, 0, 0, 0, 0, 0, 0] ++ List.replicate 96 row400
  ++ [[0x0000000000070002, 0x0000020000000400, 0, 0, 0, 0, 0, 0]]
/-- 02 and 13: the footprint's blocks. -/
theorem test_step_footprint :
    (stepFp man40 batch40).map (fun c => bits c 0 16) = [162, 324, 216, 384, 24, 264, 128, 128, 128, 128] := by decide +kernel
/-- 13: row 400 needs 8 spans, and its tokens are as they were posted. -/
theorem test_row_fields :
    spanCount row400 = 8 ∧ rowDeadline row400 = 40000 ∧ (List.range 5).map (rowToken row400) = [17230, 402, 8815, 11, 60112] := by
  decide +kernel
/-- 13: the target chooses 402, 8,815 and 9,004, so two drafts are accepted. -/
theorem test_accept : acceptCount row400 (fun j => [402, 8815, 9004, 1, 2].getD j 0) = 2 := by decide +kernel
/-- 13: row 400's output entry. -/
theorem test_output_entry :
    outEntry { rowA with words := row400, ended := true, committed := true, tokens := [402, 8815, 9004], accepted := 2 }
      = [0x00005A0100002300, 0xF4A, 0, 0x0000226F00000192, 0x232C, 0, 0, 0] := by decide +kernel
/-- 14, the gate's predictions with the cost registers of the chapter. -/
def tCost : State :=
  { tReady with hub := { HubRegs.reset with cost := [(2, { fix := 12000, pos := 573696, att := 26942016, pf := 193000 })] } }
theorem test_predict : predict tCost 0 2 864 6912 512 = 615441408 ∧ predict tCost 0 2 200 1600 0 = 153681216
    ∧ predict tCost 0 2 200 1600 1024 = 209632000 := by decide +kernel

/-- 11, importing K into grain layout: 32 steps; element (k, d, b) of the destination reads dimension d of token 32b + k. -/
def wsCopy : List U64 :=
  [0x0000138900000020, 0x0000010300000000, 0x00000196712C0000, 0x0000000F007F001F, 0x0105000F001F007F, 0x0006000F007F001F, 0, 0]
theorem test_copy_steps : lySteps wsCopy = 32 ∧ srcExtent wsCopy = 131072 ∧ dstExtent wsCopy = 131072 := by decide +kernel
theorem test_copy_move : lyMove wsCopy (3, 70, 5) = some { dst := (3, 70, 5), src := some (70, 3, 5) } := by decide +kernel
/-- 11: +5 in three bits comes back as −3. -/
theorem test_bit_planes :
    lyConvert { planes := true, w := 3, e := 1, tr := 32, tc := 16, sr := 0, sc := 0, cols := 16 }
      { planes := false, w := 8, e := 1, tr := 1, tc := 1, sr := 0, sc := 0, cols := 16 } 5 = 253 := by decide +kernel

/-- 09: another stepping byte at 0x0A fails the load with code 3. -/
theorem test_image_stepping :
    loadFault tReady 0 { id := 7, len := 0x140, func := 1 } (imgGood.set 0x0A 0x22#8) 0 0 = some 0x03 := by decide +kernel

/-- 10, speculative acceptance, verify rows 0 to 2: the mul scan, then the add scan. -/
def scanIn (l : List U32) (i : Nat) : U32 := l.getD i 0
theorem test_accept_scan :
    ((rowScan (comb .mul false) (scanIn [1, 1, 0, 1, 1, 1, 1, 1, 0, 1, 1, 1]) (fun j => decide (j % 4 = 0)) 12).take 12
        = [1, 1, 0, 0, 1, 1, 1, 1, 0, 0, 0, 0])
    ∧ ((rowScan (comb .sum false) (scanIn [1, 1, 0, 0, 1, 1, 1, 1, 0, 0, 0, 0]) (fun j => decide (j % 4 = 0)) 12).take 12
        = [1, 2, 2, 2, 1, 2, 3, 4, 0, 0, 0, 0]) := by decide +kernel

/-! ### Words, places and contacts, by hand from the tables named -/

/-- 07 Table 7.2: ACT of bank 3, row 0x5123; SPRD of the instruction 0xA4000040; BIND of pages 16 to 4,095 to function 12. -/
theorem test_ca_words :
    caDecode 9 1 [0x06A1, 0x0123] 0#1024 = some (.act 9 1 3 0x5123)
    ∧ caDecode 9 1 [0x0013, 0x0040, 0x1000, 0x000A] 0#1024 = some (.sprd 9 1 0xA4000040#32)
    ∧ caDecode 9 1 [0x001B, 0x0010, 0x0FFF, 0x000C] 0#1024 = some (.bind 9 1 16#12 4095#12 12) := by decide +kernel
/-- 07 R190: code 0x00, a reserved bit of PRE, CRAW of slot 7, SPRD cut short after two cycles. -/
theorem test_ca_undefined :
    [[0x0000, 0], [0x0024, 0], [0x00F7, 0], [0x0013, 0x0040]].all (fun v => (caDecode 0 0 v 0#1024).isNone) = true := by
  decide +kernel
/-- 17 Table 17.3: slot 3 of tray 9 is (3, 1, 1), and its ML4 meets (3, 1, 2); slot 7 of tray 31 is (7, 7, 3), and its ML0
meets ML1 of (0, 7, 3). -/
theorem test_rack_place : moduleAt 9 3 = 75 ∧ farModule 75 4 = 139 ∧ farModule (moduleAt 31 7) 0 = 248 ∧ farPort 0 = 1 := by
  decide +kernel
/-- 21 Table 21.1 and R513: A29, B26, A135; pair 16 of the transmit block is ML0 lane 0, on A87 and A88, with GND on A86. -/
theorem test_card_edge :
    edgeContact false 29 = some .perst ∧ edgeContact true 26 = some .reserved ∧ edgeContact false 135 = some .gnd
    ∧ edgeContact false 87 = some (.pair 16 false) ∧ edgeContact false 88 = some (.pair 16 true)
    ∧ edgeContact false 86 = some .gnd ∧ pairUse 16 = .link 0 0 ∧ edgeContact true 137 = none := by decide +kernel
/-- 21 Table 21.4: the cage of a quarantined ML2 blinks; the module indicator before and after Fabric Ready. -/
theorem test_indicators :
    cageLight (setPort 2 { Port.reset with st := .quarantine } tReady) 0 = .amberBlink ∧ cageLight tReady 0 = .off
    ∧ moduleLight tReady = .green ∧ moduleLight { tReady with boot := { tReady.boot with fabricReady := false } } = .amber := by
  decide +kernel

/-! ### Numbers, by hand from 06 R170 and 10 Table 10.2 -/

/-- 1 + 2^-24 is a tie and goes to even, 1 + 3·2^-24 goes up; the largest number doubled is infinite; a product below the
smallest normal is a zero of its sign; a NaN is the canonical one. -/
theorem test_fp32 : Fp.add 0x3F800000 0x33800000 = 0x3F800000 ∧ Fp.add 0x3F800000 0x34400000 = 0x3F800002
    ∧ Fp.add 0x7F7FFFFF 0x7F7FFFFF = 0x7F800000 ∧ Fp.mul 0x80800000 0x3F000000 = 0x80000000
    ∧ Fp.sub 0x7F800000 0x7F800000 = 0x7FC00000 := by decide +kernel
/-- Ties to even in bf16; its overflow with and without sat. -/
theorem test_bf16 : Fp.toBf16 0x3F808000 = 0x3F80 ∧ Fp.toBf16 0x3F818000 = 0x3F82
    ∧ Fp.round16 true (Fp.val32 0x7F7FFFFF) = 0x7F7F ∧ Fp.round16 false (Fp.val32 0x7F7FFFFF) = 0x7F80 := by decide +kernel
/-- 464 is halfway between 448 and the next step and counts as overflow; 463 is 448; 61,440 is halfway in E5M2. -/
theorem test_fp8_halfway : Fp.toE4m3 false 0x43E80000 = 0x7F ∧ Fp.toE4m3 true 0x43E80000 = 0x7E
    ∧ Fp.toE4m3 false 0x43E78000 = 0x7E ∧ Fp.toE5m2 false 0x47700000 = 0x7C ∧ Fp.toE5m2 true 0xC7700000 = 0xFB := by
  decide +kernel

/-! ### What is not well-formed -/

/-- One ill-formed term for each check of `Instr.wf`. -/
theorem test_ill_formed :
    [(.descriptorFetchIssue 0 0 : Instr), .descriptorFetchLand 0 0 [[0]] none, .doorbellPageBadAccess true 0 true 4096 4,
     .serveStep 0 [[0]], .tilthLoad 0 (List.replicate 2049 0), .temperatureRead 0 0 [20, 20, 20],
     .temperatureRead 0 0 [20, 20, 20, 200], .registerWrite 0x100000 8 0, .registerWrite 0 0 0, .paritySweep [0x10103],
     .rankFailure 0 0 .ca (2 ^ 39)].all (fun i => !i.wf) = true := by decide +kernel
theorem test_ill_formed_lists : (Instr.ship 0 (List.replicate 4097 0)).wf = false
    ∧ (Instr.pageReturn 0 (List.replicate 4097 0)).wf = false
    ∧ (Instr.serveStep 0 (List.replicate 1025 (List.replicate 8 0))).wf = false := by decide +kernel
theorem test_ill_formed_links : (Instr.cxlLinkUp 4 32 true).wf = false ∧ (Instr.cxlLinkUp 16 8 true).wf = false
    ∧ (Instr.openShip 0 hdrIn 0 0 true (List.replicate 65 0)).wf = false := by decide +kernel
theorem test_ill_formed_store : (Instr.keepWrite 0 (List.replicate (2 ^ 22 + 1) 0)).wf = false := by
  simp only [Instr.wf, List.length_replicate]; decide +kernel
/-- One ill-formed push for each check of a command. -/
theorem test_ill_formed_push :
    [(.weightLoad 0 .fp32 (.imm 0) : EngCmd), .weightLoad 0 .bf16 (.gen 0 0), .product (.gen 0 65) .bf16 0 0 true,
     .fill (.stream 0) 0 false 0 false, .drain (.stream 0) 0 false 0, .slip { slipAdd with stages := [] },
     .slip { slipAdd with stages := [.gelu, .gelu, .add .imm0] }, .slip { slipAdd with rows := 0 },
     .slip { slipAdd with tile := some (.topkRow 65) }, .slip { slipAdd with out := .gen 0 32 },
     .regionWord (.tile 0) 0].all (fun k => !k.wf) = true := by
  decide +kernel
theorem test_well_formed : (Instr.commandPush 0 pushSlip).wf = true ∧ (Instr.registerWrite 0 8 1).wf = true := by decide +kernel

end Sys2Proof.Tests

namespace Sys2Proof.Tests
open Sys2Proof Sys2Proof.Machine
set_option Elab.async false

/-! ### Hypotheses are met: one theorem for each statement, one part for each clause -/

/-- Whichever Slip takes the command of a routine, its queue has room. -/
theorem wit_routine_any : ∀ q : Fin 4, judgePush tRoutine 0 cRoutine
    { queue := Fin.ofNat 26 (4 + q.val), cmd := .slip (routineCmd tRoutine cRoutine 0x15), flag := none, wire := none,
      value := none, lib := true } = .enter [] := by decide +kernel
theorem wit_routine : judgePush tRoutine 0 cRoutine (routinePush tRoutine cRoutine (0x15 : Byte).toNat) = .enter [] :=
  wit_routine_any ⟨(Config.routineWord tRoutine.freeCtr 82).toNat % 4, Nat.mod_lt _ (by decide)⟩

theorem wit_EveryStepKeepsSound : ∃ t, State.reset.sound ∧ step State.reset = .next t :=
  ⟨tick State.reset, by constructor <;> decide +kernel, rfl⟩
theorem wit_CommandsLeaveQueue : ∃ t, exec (.nop 0) State.reset = .next t := ⟨State.reset, rfl⟩

theorem wit_DoorbellsAndRingRegistersAct :
    (tRing.boot.relHost = true ∧ foreignPage false (1 : Func) = false ∧ (ring tRing (1 : Func)).enable = true
      ∧ (∀ a ∈ ordersNow tRing, a.obj ≠ (.ring (1 : Func)))
      ∧ (ring tRing (1 : Func)).epoch.toNat = bits (0x0000000000030009 : U64).toNat 32 32
      ∧ bits (0x0000000000030009 : U64).toNat 0 16 < workSlots (ring tRing (1 : Func))
      ∧ bits (0x0000000000030009 : U64).toNat 16 16 < doneSlots (ring tRing (1 : Func))
      ∧ ((ring tRing (1 : Func)).tail + workSlots (ring tRing (1 : Func)) - (ring tRing (1 : Func)).fetchHead) % workSlots (ring tRing (1 : Func)) ≤ (bits (0x0000000000030009 : U64).toNat 0 16 + workSlots (ring tRing (1 : Func)) - (ring tRing (1 : Func)).fetchHead) % workSlots (ring tRing (1 : Func)))
    ∧ (tDisabling.boot.relHost = true ∧ rival tDisabling (.ring (1 : Func)) [.flr] = none
      ∧ rival tDisabling (.ring (1 : Func)) [.disable] = some ordDisable
      ∧ rival tDisabling (.ring (1 : Func)) [.disable, .doorbell] = some ordDisable
      ∧ (ring tDisabling (1 : Func)).epoch.toNat = bits (0x0000000000030009 : U64).toNat 32 32
      ∧ bits (0x0000000000030009 : U64).toNat 0 16 < workSlots (ring tDisabling (1 : Func))
      ∧ bits (0x0000000000030009 : U64).toNat 16 16 < doneSlots (ring tDisabling (1 : Func))
      ∧ ((ring tDisabling (1 : Func)).tail + workSlots (ring tDisabling (1 : Func)) - (ring tDisabling (1 : Func)).fetchHead) % workSlots (ring tDisabling (1 : Func)) ≤ (bits (0x0000000000030009 : U64).toNat 0 16 + workSlots (ring tDisabling (1 : Func)) - (ring tDisabling (1 : Func)).fetchHead) % workSlots (ring tDisabling (1 : Func)))
    ∧ (tRing.boot.relHost = true
      ∧ (foreignPage true (1 : Func) = true ∨ ((ring tRing (1 : Func)).enable = false ∧ (∀ a ∈ ordersNow tRing, a.obj ≠ (.ring (1 : Func))))))
    ∧ (tRing.boot.relHost = true ∧ foreignPage false (1 : Func) = false ∧ (ring tRing (1 : Func)).enable = true
      ∧ (∀ a ∈ ordersNow tRing, a.obj ≠ (.ring (1 : Func)))
      ∧ epochOk (ring tRing (1 : Func)) 16 (bits (0x0000FFFF00000009 : U64).toNat 48 16) = true
      ∧ bits (0x0000FFFF00000009 : U64).toNat 32 16 = 0xFFFF
      ∧ findHsn tRing (1 : Func) ((0x0000FFFF00000009 : U64).extractLsb' 0 32) = none
      ∧ later ((0x0000FFFF00000009 : U64).extractLsb' 0 32) (ring tRing (1 : Func)).lastHsn = true
      ∧ (ring tRing (1 : Func)).cancels.length < 16)
    ∧ (tRing.boot.relHost = true ∧ foreignPage false (1 : Func) = false ∧ (ring tRing (1 : Func)).enable = true
      ∧ (∀ a ∈ ordersNow tRing, a.obj ≠ (.ring (1 : Func)))
      ∧ epochOk (ring tRing (1 : Func)) 16 (bits (0x0000FFFF00000000 : U64).toNat 48 16) = true
      ∧ bits (0x0000FFFF00000000 : U64).toNat 32 16 = 0xFFFF
      ∧ findHsn tRing (1 : Func) ((0x0000FFFF00000000 : U64).extractLsb' 0 32) = none
      ∧ later ((0x0000FFFF00000000 : U64).extractLsb' 0 32) (ring tRing (1 : Func)).lastHsn = false)
    ∧ (tHost.boot.relHost = true ∧ (ring tHost (1 : Func)).enable = false ∧ (ring tHost (1 : Func)).needResync = false
      ∧ (∀ a ∈ ordersNow tHost, a.obj ≠ (.ring (1 : Func))) ∧ (ring tHost (1 : Func)).wsize.toNat ≤ 10
      ∧ (ring tHost (1 : Func)).dsize.toNat ≤ 10 ∧ bits (0x200 : U64).toNat 0 4 = (ring tHost (1 : Func)).wsize.toNat
      ∧ bits (0x200 : U64).toNat 4 4 = (ring tHost (1 : Func)).dsize.toNat ∧ bitAt (0x200 : U64).toNat 9 = true)
    ∧ (tHost.boot.relHost = true ∧ (ring tHost (1 : Func)).enable = false
      ∧ baseAligned (0x1000 : U64) (if true then 32 * doneSlots (ring tHost (1 : Func)) else 64 * workSlots (ring tHost (1 : Func))) = true)
    ∧ (tHost.boot.relHost = true ∧ (0x50 : Nat) % 8 = 0)
    ∧ (tHost.boot.relHost = true ∧ (0x54 : Nat) % 8 ≠ 0)
    ∧ (tHost.boot.relHost = true ∧ (0x54 : Nat) % 8 ≠ 0) := by
  refine ⟨?_, ?_, ?_, ?_, ?_, ?_, ?_, ?_, ?_, ?_⟩ <;> decide +kernel

theorem wit_DescriptorsAreFetchedAndAccepted :
    (mayFetch tRing = true ∧ (ring tRing (1 : Func)).enable = true ∧ (ring tRing (1 : Func)).stalled = false
      ∧ 1 ≤ (2 : Nat) ∧ (2 : Nat) ≤ 8 ∧ (ring tRing (1 : Func)).fetches.length < 4
      ∧ (2 : Nat) ≤ (freePlaces tRing (1 : Func)).length
      ∧ fetched tRing (1 : Func) + (2 : Nat) ≤ ((ring tRing (1 : Func)).tail + workSlots (ring tRing (1 : Func)) - (ring tRing (1 : Func)).fetchHead) % workSlots (ring tRing (1 : Func))
      ∧ ((ring tRing (1 : Func)).fetchHead + fetched tRing (1 : Func)) % workSlots (ring tRing (1 : Func)) + (2 : Nat) ≤ workSlots (ring tRing (1 : Func)))
    ∧ ((ring tFetch (1 : Func)).fetches.find? (fun y => decide (y.id = (0 : Fin 4))) = some fA ∧ fA.places.Nodup
      ∧ (((none : Option (Fin 8)) = none ∧ ∀ q ∈ tFetch.places, q.2.func = (1 : Func) → q.2.failed = false) ∨ ∀ q ∈ tFetch.places, q.2.func = (1 : Func) → q.2.slot ≠ (ring tFetch (1 : Func)).fetchHead))
    ∧ ((ring tFetch (1 : Func)).fetches.find? (fun y => decide (y.id = (0 : Fin 4))) = some fA ∧ fA.places.Nodup
      ∧ fA.places[(0 : Fin 8).val]? = some (256 : Place).val
      ∧ desc tFetch (256 : Place) = some (Desc.fresh 1 0 : Desc) ∧ (Desc.fresh 1 0 : Desc).func = (1 : Func)
      ∧ (Desc.fresh 1 0 : Desc).slot = (ring tFetch (1 : Func)).fetchHead
      ∧ (∀ q ∈ tFetch.places, q.2.func = (1 : Func) → q.2.slot = (ring tFetch (1 : Func)).fetchHead → q.1 = (256 : Place).val))
    ∧ (headDesc tFailedHead (1 : Func) = some ((0 : Place), dFailed) ∧ (ring tFailedHead (1 : Func)).needResync = false
      ∧ dFailed.failed = true)
    ∧ (headDesc tLanded (1 : Func) = some ((0 : Place), dLanded) ∧ (ring tLanded (1 : Func)).needResync = false
      ∧ waitsForCommit tLanded (1 : Func) dLanded = false ∧ resyncDue tLanded (1 : Func) = false
      ∧ (∀ q ∈ tLanded.places, q.2.func = (1 : Func) → q.2.failed = false)) := by
  refine ⟨?_, ?_, ?_, ?_, ?_⟩ <;> decide +kernel

theorem wit_DoneRecordsAreWritten :
    (desc tEnded (0 : Place) = some dEnded ∧ dEnded.stage = .ended ∧ dEnded.discard = false
      ∧ recordTurn tEnded (0 : Place) dEnded = true ∧ tfind tEnded.serve.steps (0 : Place).val = none
      ∧ (∀ q ∈ tEnded.places, opcodeOf q.2.words = 0x12 → ∀ e ∈ q.2.prog.pages, e / 65536 ≠ dEnded.acc))
    ∧ (tBuilt.boot.relHost = true ∧ (ring tBuilt (1 : Func)).built = rBuilt :: ([] : List DoneRec)
      ∧ ((ring tBuilt (1 : Func)).doneIdx + 1) % doneSlots (ring tBuilt (1 : Func)) ≠ (ring tBuilt (1 : Func)).doneCons
      ∧ tfind tBuilt.serve.steps rBuilt.place.val = none) := by
  refine ⟨?_, ?_⟩ <;> decide +kernel

theorem wit_HubDescriptorsEnd :
    (startable (tDesc 0x01 [] : State) (3 : Place) 0x01 = some (dAcc 0x01 [] : Desc))
    ∧ (startable (tDesc 0x02 [] : State) (3 : Place) 0x02 = some (dAcc 0x02 [] : Desc)
      ∧ bits (wordAt (dAcc 0x02 [] : Desc).words 1) 0 3 = 0)
    ∧ (startable (tDesc 0x02 [7] : State) (3 : Place) 0x02 = some (dAcc 0x02 [7] : Desc)
      ∧ bits (wordAt (dAcc 0x02 [7] : Desc).words 1) 0 3 ≠ 0)
    ∧ (desc (tRunDesc 0x02 [7] : State) (3 : Place) = some (dRunning 0x02 [7] : Desc)
      ∧ (dRunning 0x02 [7] : Desc).stage = .running ∧ opcodeOf (dRunning 0x02 [7] : Desc).words = 0x02
      ∧ fenceOver (tRunDesc 0x02 [7] : State) (dRunning 0x02 [7] : Desc) = true)
    ∧ (desc (tDesc 0x03 [5] : State) (3 : Place) = some (dAcc 0x03 [5] : Desc) ∧ (dAcc 0x03 [5] : Desc).stage = .accepted
      ∧ opcodeOf (dAcc 0x03 [5] : Desc).words = 0x03)
    ∧ (startable tCancel (3 : Place) 0x12 = some (dAcc 0x12 [0xFFFF00000002, 1] : Desc)
      ∧ bits (wordAt (dAcc 0x12 [0xFFFF00000002, 1] : Desc).words 2) 0 11 = 1
      ∧ bits (wordAt (dAcc 0x12 [0xFFFF00000002, 1] : Desc).words 1) 32 16 = 0xFFFF ∧ (3 : Place) ≠ (4 : Place)
      ∧ findHsn tCancel (if (dAcc 0x12 [0xFFFF00000002, 1] : Desc).func.val = 0 then Fin.ofNat 256 (bits (wordAt (dAcc 0x12 [0xFFFF00000002, 1] : Desc).words 1) 48 8) else (dAcc 0x12 [0xFFFF00000002, 1] : Desc).func) (BitVec.ofNat 32 (bits (wordAt (dAcc 0x12 [0xFFFF00000002, 1] : Desc).words 1) 0 32)) = some (4 : Place)
      ∧ desc tCancel (4 : Place) = some dTarget ∧ dTarget.acc ≠ (dAcc 0x12 [0xFFFF00000002, 1] : Desc).acc
      ∧ dTarget.stage = .accepted ∧ opcodeOf dTarget.words ≠ 0x03 ∧ knownOpcode (opcodeOf dTarget.words) = true
      ∧ (∀ a ∈ ordersNow tCancel, a.obj ≠ (.desc (if (dAcc 0x12 [0xFFFF00000002, 1] : Desc).func.val = 0 then Fin.ofNat 256 (bits (wordAt (dAcc 0x12 [0xFFFF00000002, 1] : Desc).words 1) 48 8) else (dAcc 0x12 [0xFFFF00000002, 1] : Desc).func) (BitVec.ofNat 32 (bits (wordAt (dAcc 0x12 [0xFFFF00000002, 1] : Desc).words 1) 0 32)))))
    ∧ (startable (tDesc 0x04 [0x01, 0x1000, 128] : State) (3 : Place) 0x04 = some (dAcc 0x04 [0x01, 0x1000, 128] : Desc)
      ∧ bits (wordAt (dAcc 0x04 [0x01, 0x1000, 128] : Desc).words 1) 0 8 = 0x01
      ∧ 128 ≤ bits (wordAt (dAcc 0x04 [0x01, 0x1000, 128] : Desc).words 3) 0 32)
    ∧ (startable (tDesc 0x60 [0x1000, 1] : State) (3 : Place) 0x60 = some (dAcc 0x60 [0x1000, 1] : Desc)) := by
  refine ⟨?_, ?_, ?_, ?_, ?_, ?_, ?_, ?_⟩ <;> decide +kernel

theorem wit_GrainDescriptorsReachTheRanks :
    (startable (tDesc 0x21 [0x450001, 0, 0x30005] : State) (3 : Place) 0x21 = some (dAcc 0x21 [0x450001, 0, 0x30005] : Desc)
      ∧ setFenced (tDesc 0x21 [0x450001, 0, 0x30005] : State) (wordAt (dAcc 0x21 [0x450001, 0, 0x30005] : Desc).words 1) = false
      ∧ setMigrating (tDesc 0x21 [0x450001, 0, 0x30005] : State) (wordAt (dAcc 0x21 [0x450001, 0, 0x30005] : Desc).words 1) = false
      ∧ setFull (tDesc 0x21 [0x450001, 0, 0x30005] : State) (wordAt (dAcc 0x21 [0x450001, 0, 0x30005] : Desc).words 1) = false
      ∧ setSkipped (tDesc 0x21 [0x450001, 0, 0x30005] : State) (wordAt (dAcc 0x21 [0x450001, 0, 0x30005] : Desc).words 1) < setSize (wordAt (dAcc 0x21 [0x450001, 0, 0x30005] : Desc).words 1))
    ∧ (startable (tDesc 0x21 [0x450001, 0, 0x30005] |> tFence : State) (3 : Place) 0x21 = some (dAcc 0x21 [0x450001, 0, 0x30005] : Desc)
      ∧ setFenced (tDesc 0x21 [0x450001, 0, 0x30005] |> tFence : State) (wordAt (dAcc 0x21 [0x450001, 0, 0x30005] : Desc).words 1) = true)
    ∧ (runningOn (tCtxDesc 0x22 [0x450001, 9] : State) (3 : Place) 0x22 = some ((dOnCtx 0x22 [0x450001, 9] : Desc), (2 : CtxNo))
      ∧ (ctx (tCtxDesc 0x22 [0x450001, 9] : State) (2 : CtxNo).val).all (fun c => decide (c.st ≠ .drain)) = true
      ∧ setFenced (tCtxDesc 0x22 [0x450001, 9] : State) (wordAt (dOnCtx 0x22 [0x450001, 9] : Desc).words 1) = false
      ∧ setMigrating (tCtxDesc 0x22 [0x450001, 9] : State) (wordAt (dOnCtx 0x22 [0x450001, 9] : Desc).words 1) = false
      ∧ (∀ g ∈ setLive (tCtxDesc 0x22 [0x450001, 9] : State) (wordAt (dOnCtx 0x22 [0x450001, 9] : Desc).words 1), (grain (tCtxDesc 0x22 [0x450001, 9] : State) g).state ≠ .running)
      ∧ setSkipped (tCtxDesc 0x22 [0x450001, 9] : State) (wordAt (dOnCtx 0x22 [0x450001, 9] : Desc).words 1) < setSize (wordAt (dOnCtx 0x22 [0x450001, 9] : Desc).words 1))
    ∧ (runningOn (tCtxDesc 0x23 [0x450001, 0x1000, 0x50002] : State) (3 : Place) 0x23 = some ((dOnCtx 0x23 [0x450001, 0x1000, 0x50002] : Desc), (2 : CtxNo))
      ∧ (ctx (tCtxDesc 0x23 [0x450001, 0x1000, 0x50002] : State) (2 : CtxNo).val).all (fun c => decide (c.st ≠ .drain)) = true
      ∧ setFenced (tCtxDesc 0x23 [0x450001, 0x1000, 0x50002] : State) (wordAt (dOnCtx 0x23 [0x450001, 0x1000, 0x50002] : Desc).words 1) = false
      ∧ setMigrating (tCtxDesc 0x23 [0x450001, 0x1000, 0x50002] : State) (wordAt (dOnCtx 0x23 [0x450001, 0x1000, 0x50002] : Desc).words 1) = false
      ∧ setLive (tCtxDesc 0x23 [0x450001, 0x1000, 0x50002] : State) (wordAt (dOnCtx 0x23 [0x450001, 0x1000, 0x50002] : Desc).words 1) = [(0 : Nat)]
      ∧ (grain (tCtxDesc 0x23 [0x450001, 0x1000, 0x50002] : State) (0 : Nat)).state ≠ .running
      ∧ ([7, 8] : List U32).length = bits (wordAt (dOnCtx 0x23 [0x450001, 0x1000, 0x50002] : Desc).words 3) 0 12) := by
  refine ⟨?_, ?_, ?_, ?_⟩ <;> decide +kernel

theorem wit_PagesAreGrantedAndReturned :
    (startable (tGrains (tPages (tDesc 0x50 [1, 0x450001, 0x2000])) : State) (3 : Place) 0x50 = some (dAcc 0x50 [1, 0x450001, 0x2000] : Desc)
      ∧ pagesHeld (tGrains (tPages (tDesc 0x50 [1, 0x450001, 0x2000])) : State) (namedFn (dAcc 0x50 [1, 0x450001, 0x2000] : Desc)) + bits (wordAt (dAcc 0x50 [1, 0x450001, 0x2000] : Desc).words 1) 0 13 ≤ pageQuotaOf (tGrains (tPages (tDesc 0x50 [1, 0x450001, 0x2000])) : State) (namedFn (dAcc 0x50 [1, 0x450001, 0x2000] : Desc))
      ∧ ((setList (wordAt (dAcc 0x50 [1, 0x450001, 0x2000] : Desc).words 2)).filter (setHolds (grainsOf (tGrains (tPages (tDesc 0x50 [1, 0x450001, 0x2000])) : State) (namedFn (dAcc 0x50 [1, 0x450001, 0x2000] : Desc))))).findSome? (fun k => (grantRun (tGrains (tPages (tDesc 0x50 [1, 0x450001, 0x2000])) : State) (namedFn (dAcc 0x50 [1, 0x450001, 0x2000] : Desc)) k (bits (wordAt (dAcc 0x50 [1, 0x450001, 0x2000] : Desc).words 1) 0 13)).map (fun n => (k, n))) = some ((0 : Nat), (0 : Nat)))
    ∧ (startable (tPages (tDesc 0x50 [1, 0x450001, 0x2000]) |> tNoQuota : State) (3 : Place) 0x50 = some (dAcc 0x50 [1, 0x450001, 0x2000] : Desc)
      ∧ pageQuotaOf (tPages (tDesc 0x50 [1, 0x450001, 0x2000]) |> tNoQuota : State) (namedFn (dAcc 0x50 [1, 0x450001, 0x2000] : Desc)) < pagesHeld (tPages (tDesc 0x50 [1, 0x450001, 0x2000]) |> tNoQuota : State) (namedFn (dAcc 0x50 [1, 0x450001, 0x2000] : Desc)) + bits (wordAt (dAcc 0x50 [1, 0x450001, 0x2000] : Desc).words 1) 0 13)
    ∧ (startable (setPageOwner 7 2 (tDesc 0x51 [1]) : State) (3 : Place) 0x51 = some (dAcc 0x51 [1] : Desc)
      ∧ ([7] : List U32).length = bits (wordAt (dAcc 0x51 [1] : Desc).words 1) 0 13
      ∧ (∀ v ∈ ([7] : List U32), v.toNat < 2 ^ 23 ∧ pageOwner (setPageOwner 7 2 (tDesc 0x51 [1]) : State) v.toNat = namedFn (dAcc 0x51 [1] : Desc) + 1 ∧ (∀ a ∈ ordersNow (setPageOwner 7 2 (tDesc 0x51 [1]) : State), a.obj ≠ (.page v.toNat))))
    ∧ (startable (setPageOwner 7 3 (tDesc 0x51 [1]) : State) (3 : Place) 0x51 = some (dAcc 0x51 [1] : Desc)
      ∧ bits (wordAt (dAcc 0x51 [1] : Desc).words 1) 0 13 = 1 ∧ (7 : U32).toNat < 2 ^ 23
      ∧ pageOwner (setPageOwner 7 3 (tDesc 0x51 [1]) : State) (7 : U32).toNat ≠ namedFn (dAcc 0x51 [1] : Desc) + 1
      ∧ (∀ a ∈ ordersNow (setPageOwner 7 3 (tDesc 0x51 [1]) : State), a.obj ≠ (.page (7 : U32).toNat)))
    ∧ (startable (noteOrder ordPage (tDesc 0x51 [1]) : State) (3 : Place) 0x51 = some (dAcc 0x51 [1] : Desc)
      ∧ bits (wordAt (dAcc 0x51 [1] : Desc).words 1) 0 13 = 1
      ∧ rival (noteOrder ordPage (tDesc 0x51 [1]) : State) (.page (7 : U32).toNat) [.pages] = some ordPage
      ∧ ordPage.master < masterOf (dAcc 0x51 [1] : Desc).func)
    ∧ (desc tClear (3 : Place) = some dClear ∧ dClear.stage = .running ∧ opcodeOf dClear.words = 0x51
      ∧ dClear.prog.pages = [(7 : Nat)] ∧ returnWaits tClear dClear = false
      ∧ isFenced tClear ((7 : Nat) / 4096 / 128) ((7 : Nat) / 4096 / 64 % 2) = false) := by
  refine ⟨?_, ?_, ?_, ?_, ?_, ?_⟩
  · decide +kernel
  · decide +kernel
  · exact ⟨by decide +kernel, by decide +kernel, (by intro v hv; fin_cases hv; all_goals decide +kernel)⟩
  · decide +kernel
  · decide +kernel
  · decide +kernel

theorem wit_KeepStoresAreJudged :
    (startable (tDesc 0x30 [0, 0, 64] : State) (3 : Place) 0x30 = some (dAcc 0x30 [0, 0, 64] : Desc)
      ∧ (tDesc 0x30 [0, 0, 64] : State).boot.fwRestarting = false
      ∧ (∀ a ∈ ordersNow (tDesc 0x30 [0, 0, 64] : State), a.obj ≠ .keep)
      ∧ (bitAt (wordAt (dAcc 0x30 [0, 0, 64] : Desc).words 3) 32 = true ∨ ([0] : List Line).length = bits (wordAt (dAcc 0x30 [0, 0, 64] : Desc).words 3) 0 32 / 64)
      ∧ keepCheck (tDesc 0x30 [0, 0, 64] : State) (blocksTouched (wordAt (dAcc 0x30 [0, 0, 64] : Desc).words 2) (bits (wordAt (dAcc 0x30 [0, 0, 64] : Desc).words 3) 0 32)) = .short)
    ∧ (startable (tKeep (tDesc 0x30 [0, 0, 64]) : State) (3 : Place) 0x30 = some (dAcc 0x30 [0, 0, 64] : Desc)
      ∧ (tKeep (tDesc 0x30 [0, 0, 64]) : State).boot.fwRestarting = false
      ∧ bitAt (wordAt (dAcc 0x30 [0, 0, 64] : Desc).words 3) 32 = false
      ∧ (∀ a ∈ ordersNow (tKeep (tDesc 0x30 [0, 0, 64]) : State), a.obj ≠ .keep)
      ∧ ([0] : List Line).length = bits (wordAt (dAcc 0x30 [0, 0, 64] : Desc).words 3) 0 32 / 64
      ∧ keepWaits (tKeep (tDesc 0x30 [0, 0, 64]) : State) none (some (wordAt (dAcc 0x30 [0, 0, 64] : Desc).words 2 / 64)) (bits (wordAt (dAcc 0x30 [0, 0, 64] : Desc).words 3) 0 32 / 64) = false
      ∧ keepCheck (tKeep (tDesc 0x30 [0, 0, 64]) : State) (blocksTouched (wordAt (dAcc 0x30 [0, 0, 64] : Desc).words 2) (bits (wordAt (dAcc 0x30 [0, 0, 64] : Desc).words 3) 0 32)) = .pass)
    ∧ (startable (noteOrder ordKeep (tKeep (tDesc 0x30 [0, 0, 64])) : State) (3 : Place) 0x30 = some (dAcc 0x30 [0, 0, 64] : Desc)
      ∧ (noteOrder ordKeep (tKeep (tDesc 0x30 [0, 0, 64])) : State).boot.fwRestarting = false
      ∧ ([0] : List Line).length = bits (wordAt (dAcc 0x30 [0, 0, 64] : Desc).words 3) 0 32 / 64
      ∧ rival (noteOrder ordKeep (tKeep (tDesc 0x30 [0, 0, 64])) : State) .keep [.keepSize, .keepCommit] = some ordKeep
      ∧ ordKeep.master < masterOf (dAcc 0x30 [0, 0, 64] : Desc).func)
    ∧ (runningOn (tCtxDesc 0x31 [0x4000, 0, 64] : State) (3 : Place) 0x31 = some ((dOnCtx 0x31 [0x4000, 0, 64] : Desc), (2 : CtxNo))
      ∧ (ctx (tCtxDesc 0x31 [0x4000, 0, 64] : State) (2 : CtxNo).val).all (fun c => decide (c.st ≠ .drain)) = true
      ∧ bits (wordAt (dOnCtx 0x31 [0x4000, 0, 64] : Desc).words 3) 0 32 = 64
      ∧ bitAt (wordAt (dOnCtx 0x31 [0x4000, 0, 64] : Desc).words 3) 32 = false
      ∧ keepWaits (tCtxDesc 0x31 [0x4000, 0, 64] : State) (some (wordAt (dOnCtx 0x31 [0x4000, 0, 64] : Desc).words 2 / 64)) none 1 = false) := by
  refine ⟨?_, ?_, ?_, ?_⟩ <;> decide +kernel

theorem wit_WorkWaitsForAContext :
    (startable (tDesc 0x10 [0, 0] : State) (3 : Place) 0x10 = some (dAcc 0x10 [0, 0] : Desc)
      ∧ bits (wordAt (dAcc 0x10 [0, 0] : Desc).words 2) 24 8 < leAt imgOne 0x1A 2
      ∧ fpDenied (tDesc 0x10 [0, 0] : State) (dAcc 0x10 [0, 0] : Desc).func (imageFp imgOne (bits (wordAt (dAcc 0x10 [0, 0] : Desc).words 2) 24 8)) = false)
    ∧ (startable (tDesc 0x10 [0, 0] : State) (3 : Place) 0x10 = some (dAcc 0x10 [0, 0] : Desc)
      ∧ leAt ([] : List Byte) 0x1A 2 ≤ bits (wordAt (dAcc 0x10 [0, 0] : Desc).words 2) 24 8)
    ∧ (startable (tDesc 0x11 [0, 1] : State) (3 : Place) 0x11 = some (dAcc 0x11 [0, 1] : Desc)
      ∧ (modelOf (tDesc 0x11 [0, 1] : State) (dAcc 0x11 [0, 1] : Desc).func.val (bits (wordAt (dAcc 0x11 [0, 1] : Desc).words 2) 16 4)).inForce = 0#39)
    ∧ (startable (tModel (tDesc 0x11 [0, 1]) : State) (3 : Place) 0x11 = some (dAcc 0x11 [0, 1] : Desc)
      ∧ manifest (tModel (tDesc 0x11 [0, 1]) : State) (dAcc 0x11 [0, 1] : Desc).func.val (bits (wordAt (dAcc 0x11 [0, 1] : Desc).words 2) 16 4) = some manifestOne
      ∧ ([[]] : List (List U64)).length = bits (wordAt (dAcc 0x11 [0, 1] : Desc).words 2) 0 11
      ∧ tablesWait (tModel (tDesc 0x11 [0, 1]) : State) (dAcc 0x11 [0, 1] : Desc).func ([[]] : List (List U64)).length = false
      ∧ batchBad ([[]] : List (List U64)) = false
      ∧ fpDenied (tModel (tDesc 0x11 [0, 1]) : State) (dAcc 0x11 [0, 1] : Desc).func (stepFp manifestOne (soundRows (tModel (tDesc 0x11 [0, 1]) : State) (dAcc 0x11 [0, 1] : Desc).func.val manifestOne ([[]] : List (List U64)))) = false)
    ∧ (desc tWaiting (3 : Place) = some dWaiting ∧ waitsForCtx tWaiting dWaiting = true
      ∧ tWaiting.places.all (fun q => !(decide (q.2.acc < dWaiting.acc) && waitsForCtx tWaiting q.2)) = true
      ∧ grantFor tWaiting dWaiting = some ((0 : Nat), ([] : Tab Region), ([] : List (Nat × Nat)))) := by
  refine ⟨?_, ?_, ?_, ?_, ?_⟩ <;> decide +kernel

theorem wit_CopiesEnterALayoutQueue :
    (headDesc tCopyLanded (1 : Func) = some ((0 : Place), dCopyLanded) ∧ (ring tCopyLanded (1 : Func)).needResync = false
      ∧ waitsForCommit tCopyLanded (1 : Func) dCopyLanded = false ∧ resyncDue tCopyLanded (1 : Func) = false
      ∧ (∀ q ∈ tCopyLanded.places, q.2.func = (1 : Func) → q.2.failed = false) ∧ opcodeOf dCopyLanded.words = 0x20
      ∧ extentOk tCopyLanded (1 : Func).val (wordAt dCopyLanded.words 1) (srcExtent dCopyLanded.words) = false)
    ∧ (startable (tNoMarl (tDesc 0x20 [0x8000000000, 0x4000]) : State) (3 : Place) 0x20 = some (dAcc 0x20 [0x8000000000, 0x4000] : Desc)
      ∧ marlQuotaOf (tNoMarl (tDesc 0x20 [0x8000000000, 0x4000]) : State) (dAcc 0x20 [0x8000000000, 0x4000] : Desc).func.val < blocksHeld (tNoMarl (tDesc 0x20 [0x8000000000, 0x4000]) : State) (dAcc 0x20 [0x8000000000, 0x4000] : Desc).func + 1)
    ∧ (startable (tDesc0 0x20 [0, 0x4000] : State) (3 : Place) 0x20 = some (dAcc0 0x20 [0, 0x4000] : Desc)
      ∧ blocksHeld (tDesc0 0x20 [0, 0x4000] : State) (dAcc0 0x20 [0, 0x4000] : Desc).func + 1 ≤ marlQuotaOf (tDesc0 0x20 [0, 0x4000] : State) (dAcc0 0x20 [0, 0x4000] : Desc).func.val
      ∧ placeRegion (tDesc0 0x20 [0, 0x4000] : State) (tDesc0 0x20 [0, 0x4000] : State).marl.regions .staging none (some (3 : Place)) (dAcc0 0x20 [0, 0x4000] : Desc).func 1 none = some (copyRegs, (0 : Nat))
      ∧ (queue (tDesc0 0x20 [0, 0x4000] : State) (copyQueue (tDesc0 0x20 [0, 0x4000] : State)).val).length < 64) := by
  refine ⟨?_, ?_, ?_⟩ <;> decide +kernel

theorem wit_ShipmentsLeave :
    (startable (setPageOwner 7 2 (tDesc 0x40 [5, 0, 1]) : State) (3 : Place) 0x40 = some (dAcc 0x40 [5, 0, 1] : Desc)
      ∧ bits (wordAt (dAcc 0x40 [5, 0, 1] : Desc).words 3) 0 13 = ([0x900000007] : List U64).length
      ∧ (∀ v ∈ ([0x900000007] : List U64), bits v.toNat 0 32 < 2 ^ 23 ∧ bits v.toNat 32 32 < 2 ^ 23 ∧ pageOwner (setPageOwner 7 2 (tDesc 0x40 [5, 0, 1]) : State) (bits v.toNat 0 32) = (dAcc 0x40 [5, 0, 1] : Desc).func.val + 1 ∧ isFenced (setPageOwner 7 2 (tDesc 0x40 [5, 0, 1]) : State) (bits v.toNat 0 32 / 4096 / 128) (bits v.toNat 0 32 / 4096 / 64 % 2) = false)
      ∧ ownPos (setPageOwner 7 2 (tDesc 0x40 [5, 0, 1]) : State) ≠ some (BitVec.ofNat 8 (bits (wordAt (dAcc 0x40 [5, 0, 1] : Desc).words 1) 0 8))
      ∧ pathFor (setPageOwner 7 2 (tDesc 0x40 [5, 0, 1]) : State) (BitVec.ofNat 8 (bits (wordAt (dAcc 0x40 [5, 0, 1] : Desc).words 1) 0 8)) (BitVec.ofNat 6 (bits (wordAt (dAcc 0x40 [5, 0, 1] : Desc).words 1) 24 6)) = false)
    ∧ (startable (setPageOwner 7 2 (tLinked (tDesc 0x40 [0x1000001, 0, 1])) : State) (3 : Place) 0x40 = some (dAcc 0x40 [0x1000001, 0, 1] : Desc)
      ∧ bits (wordAt (dAcc 0x40 [0x1000001, 0, 1] : Desc).words 3) 0 13 = ([0x900000007] : List U64).length
      ∧ (∀ v ∈ ([0x900000007] : List U64), bits v.toNat 0 32 < 2 ^ 23 ∧ bits v.toNat 32 32 < 2 ^ 23 ∧ pageOwner (setPageOwner 7 2 (tLinked (tDesc 0x40 [0x1000001, 0, 1])) : State) (bits v.toNat 0 32) = (dAcc 0x40 [0x1000001, 0, 1] : Desc).func.val + 1 ∧ isFenced (setPageOwner 7 2 (tLinked (tDesc 0x40 [0x1000001, 0, 1])) : State) (bits v.toNat 0 32 / 4096 / 128) (bits v.toNat 0 32 / 4096 / 64 % 2) = false)
      ∧ ownPos (setPageOwner 7 2 (tLinked (tDesc 0x40 [0x1000001, 0, 1])) : State) ≠ some (BitVec.ofNat 8 (bits (wordAt (dAcc 0x40 [0x1000001, 0, 1] : Desc).words 1) 0 8))
      ∧ pathFor (setPageOwner 7 2 (tLinked (tDesc 0x40 [0x1000001, 0, 1])) : State) (BitVec.ofNat 8 (bits (wordAt (dAcc 0x40 [0x1000001, 0, 1] : Desc).words 1) 0 8)) (BitVec.ofNat 6 (bits (wordAt (dAcc 0x40 [0x1000001, 0, 1] : Desc).words 1) 24 6)) = true)
    ∧ (portUp tShipped (0 : PortNo).val = true ∧ hdrIn.seq = (port tShipped (0 : PortNo).val).rxNext
      ∧ ownPos tShipped = some hdrIn.dst ∧ tfind tShipped.serve.shipsOut hdrIn.tag.val = some shOut
      ∧ shOut.opened = false ∧ desc tShipped hdrIn.tag = some dShip ∧ dShip.stage = .running)
    ∧ (portUp tShipped (0 : PortNo).val = true ∧ hdrIn.seq = (port tShipped (0 : PortNo).val).rxNext
      ∧ ownPos tShipped = some hdrIn.dst ∧ tfind tShipped.serve.shipsOut hdrIn.tag.val = some shOut)
    ∧ (portUp tShipped (0 : PortNo).val = true ∧ hdrIn.seq = (port tShipped (0 : PortNo).val).rxNext
      ∧ ownPos tShipped = some hdrIn.dst ∧ tfind tShipped.serve.shipsOut hdrIn.tag.val = some shOut
      ∧ shOut.poisoned = false ∧ desc tShipped hdrIn.tag = some dShip ∧ dShip.stage = .running
      ∧ opcodeOf dShip.words = 0x40 ∧ dShip.ctx = none)
    ∧ (portUp tShipped (0 : PortNo).val = true ∧ hdrIn.seq = (port tShipped (0 : PortNo).val).rxNext
      ∧ ownPos tShipped = some hdrIn.dst ∧ tfind tShipped.serve.shipsOut hdrIn.tag.val = some shOut
      ∧ shOut.ports = 0#6 ∧ pathFor tShipped shOut.dest 0#6 = false ∧ desc tShipped hdrIn.tag = some dShip) := by
  refine ⟨?_, ?_, ?_, ?_, ?_, ?_⟩
  · exact ⟨by decide +kernel, by decide +kernel, (by intro v hv; fin_cases hv; all_goals decide +kernel), by decide +kernel, by decide +kernel⟩
  · exact ⟨by decide +kernel, by decide +kernel, (by intro v hv; fin_cases hv; all_goals decide +kernel), by decide +kernel, by decide +kernel⟩
  · decide +kernel
  · decide +kernel
  · decide +kernel
  · decide +kernel

theorem wit_ShipmentsArrive :
    (portUp (setPageOwner 7 1 tArriving : State) (0 : PortNo).val = true
      ∧ hdrIn.seq = (port (setPageOwner 7 1 tArriving : State) (0 : PortNo).val).rxNext
      ∧ ownPos (setPageOwner 7 1 tArriving : State) = some hdrIn.dst
      ∧ openWaits (setPageOwner 7 1 tArriving : State) hdrIn.src hdrIn.tag 0 = false
      ∧ flagOwner (setPageOwner 7 1 tArriving : State) (5 : BitVec 14).toNat = some (0 : Nat) ∧ (0 : Nat) < 256
      ∧ inFlagRange (setPageOwner 7 1 tArriving : State) (0 : Nat) (5 : BitVec 14).toNat = true
      ∧ (∀ v ∈ ([7] : List U32), v ≠ 0xFFFFFFFF#32 ∧ pageOwner (setPageOwner 7 1 tArriving : State) v.toNat = (0 : Nat) + 1))
    ∧ (portUp tOpen (0 : PortNo).val = true ∧ hdrIn.seq = (port tOpen (0 : PortNo).val).rxNext
      ∧ ownPos tOpen = some hdrIn.dst ∧ shipFor tOpen hdrIn (7 : BitVec 23).toNat = some shIn
      ∧ (∀ w ∈ (List.range 4).flatMap (fun i => lineWords tOpen true ((7 : BitVec 23).toNat * 1024 + (0 : Byte).toNat * 4 + i)), bindingOf tOpen w = none)
      ∧ ((List.range 4).flatMap (fun i => lineWords tOpen true ((7 : BitVec 23).toNat * 1024 + (0 : Byte).toNat * 4 + i))).Nodup)
    ∧ (portUp tOpen (0 : PortNo).val = true ∧ hdrIn.seq = (port tOpen (0 : PortNo).val).rxNext
      ∧ ownPos tOpen = some hdrIn.dst)
    ∧ (portUp tOpen (0 : PortNo).val = true ∧ hdrIn.seq = (port tOpen (0 : PortNo).val).rxNext
      ∧ ownPos tOpen = some hdrIn.dst ∧ flagOwner tOpen (5 : BitVec 14).toNat = some (0 : Nat)
      ∧ inFlagRange tOpen (0 : Nat) (5 : BitVec 14).toNat = true
      ∧ wordFaulted tOpen .shared (5 : BitVec 14).toNat = false
      ∧ (∀ a ∈ ordersNow tOpen, a.obj ≠ (.flag (5 : BitVec 14).toNat)))
    ∧ (portUp (noteOrder ordFlag tOpen : State) (0 : PortNo).val = true
      ∧ hdrIn.seq = (port (noteOrder ordFlag tOpen : State) (0 : PortNo).val).rxNext ∧ hdrIn.nack = false
      ∧ ownPos (noteOrder ordFlag tOpen : State) = some hdrIn.dst
      ∧ flagOwner (noteOrder ordFlag tOpen : State) (5 : BitVec 14).toNat = some (0 : Nat)
      ∧ inFlagRange (noteOrder ordFlag tOpen : State) (0 : Nat) (5 : BitVec 14).toNat = true
      ∧ wordFaulted (noteOrder ordFlag tOpen : State) .shared (5 : BitVec 14).toNat = false
      ∧ rival (noteOrder ordFlag tOpen : State) (.flag (5 : BitVec 14).toNat) [.flagOp] = some ordFlag) := by
  refine ⟨?_, ?_, ?_, ?_, ?_⟩
  · exact ⟨by decide +kernel, by decide +kernel, by decide +kernel, by decide +kernel, by decide +kernel, by decide +kernel, by decide +kernel, (by intro v hv; fin_cases hv; all_goals decide +kernel)⟩
  · decide +kernel
  · decide +kernel
  · decide +kernel
  · decide +kernel

theorem wit_SignalsSetFlags :
    (runningOn (tCtxDesc0 0x41 [0x10005] : State) (3 : Place) 0x41 = some ((dOnCtx0 0x41 [0x10005] : Desc), (2 : CtxNo))
      ∧ (ctx (tCtxDesc0 0x41 [0x10005] : State) (2 : CtxNo).val).all (fun c => decide (c.st ≠ .drain)) = true
      ∧ bits (wordAt (dOnCtx0 0x41 [0x10005] : Desc).words 1) 16 2 = 1
      ∧ bits (wordAt (dOnCtx0 0x41 [0x10005] : Desc).words 1) 18 2 = 0
      ∧ (∀ a ∈ ordersNow (tCtxDesc0 0x41 [0x10005] : State), a.obj ≠ (.flag (bits (wordAt (dOnCtx0 0x41 [0x10005] : Desc).words 1) 0 14)))
      ∧ wordFaulted (tCtxDesc0 0x41 [0x10005] : State) .shared (bits (wordAt (dOnCtx0 0x41 [0x10005] : Desc).words 1) 0 14) = false
      ∧ inFlagRange (tCtxDesc0 0x41 [0x10005] : State) (dOnCtx0 0x41 [0x10005] : Desc).func.val (bits (wordAt (dOnCtx0 0x41 [0x10005] : Desc).words 1) 0 14) = true)
    ∧ (runningOn (tCtxDesc0 0x41 [0x50005] : State) (3 : Place) 0x41 = some ((dOnCtx0 0x41 [0x50005] : Desc), (2 : CtxNo))
      ∧ (ctx (tCtxDesc0 0x41 [0x50005] : State) (2 : CtxNo).val).all (fun c => decide (c.st ≠ .drain)) = true
      ∧ bits (wordAt (dOnCtx0 0x41 [0x50005] : Desc).words 1) 16 2 = 1
      ∧ bits (wordAt (dOnCtx0 0x41 [0x50005] : Desc).words 1) 18 2 ≠ 0
      ∧ (∀ a ∈ ordersNow (tCtxDesc0 0x41 [0x50005] : State), a.obj ≠ (.flag (bits (wordAt (dOnCtx0 0x41 [0x50005] : Desc).words 1) 0 14)))
      ∧ wordFaulted (tCtxDesc0 0x41 [0x50005] : State) .shared (bits (wordAt (dOnCtx0 0x41 [0x50005] : Desc).words 1) 0 14) = false
      ∧ inFlagRange (tCtxDesc0 0x41 [0x50005] : State) (dOnCtx0 0x41 [0x50005] : Desc).func.val (bits (wordAt (dOnCtx0 0x41 [0x50005] : Desc).words 1) 0 14) = true)
    ∧ (runningOn (tCtxDesc0 0x41 [0x0000C] : State) (3 : Place) 0x41 = some ((dOnCtx0 0x41 [0x0000C] : Desc), (2 : CtxNo))
      ∧ (ctx (tCtxDesc0 0x41 [0x0000C] : State) (2 : CtxNo).val).all (fun c => decide (c.st ≠ .drain)) = true
      ∧ bits (wordAt (dOnCtx0 0x41 [0x0000C] : Desc).words 1) 16 2 = 0
      ∧ (12 : Nat) = 48 * bits (wordAt (dOnCtx0 0x41 [0x0000C] : Desc).words 1) 20 2 + bits (wordAt (dOnCtx0 0x41 [0x0000C] : Desc).words 1) 0 14
      ∧ wordFaulted (tCtxDesc0 0x41 [0x0000C] : State) .loc (12 : Nat) = false
      ∧ (ctx (tCtxDesc0 0x41 [0x0000C] : State) (8 * bits (wordAt (dOnCtx0 0x41 [0x0000C] : Desc).words 1) 20 2 + bits (wordAt (dOnCtx0 0x41 [0x0000C] : Desc).words 1) 0 14 / 6)).any (fun c => decide (c.func = (dOnCtx0 0x41 [0x0000C] : Desc).func)) = true)
    ∧ (runningOn (tCtxDesc 0x41 [0x10005] : State) (3 : Place) 0x41 = some ((dOnCtx 0x41 [0x10005] : Desc), (2 : CtxNo))
      ∧ (ctx (tCtxDesc 0x41 [0x10005] : State) (2 : CtxNo).val).all (fun c => decide (c.st ≠ .drain)) = true
      ∧ ((bits (wordAt (dOnCtx 0x41 [0x10005] : Desc).words 1) 16 2 = 1 ∧ wordFaulted (tCtxDesc 0x41 [0x10005] : State) .shared (bits (wordAt (dOnCtx 0x41 [0x10005] : Desc).words 1) 0 14) = false ∧ inFlagRange (tCtxDesc 0x41 [0x10005] : State) (dOnCtx 0x41 [0x10005] : Desc).func.val (bits (wordAt (dOnCtx 0x41 [0x10005] : Desc).words 1) 0 14) = false) ∨ (bits (wordAt (dOnCtx 0x41 [0x10005] : Desc).words 1) 16 2 = 0 ∧ wordFaulted (tCtxDesc 0x41 [0x10005] : State) .loc (48 * bits (wordAt (dOnCtx 0x41 [0x10005] : Desc).words 1) 20 2 + bits (wordAt (dOnCtx 0x41 [0x10005] : Desc).words 1) 0 14) = false ∧ (ctx (tCtxDesc 0x41 [0x10005] : State) (8 * bits (wordAt (dOnCtx 0x41 [0x10005] : Desc).words 1) 20 2 + bits (wordAt (dOnCtx 0x41 [0x10005] : Desc).words 1) 0 14 / 6)).any (fun c => decide (c.func = (dOnCtx 0x41 [0x10005] : Desc).func)) = false)))
    ∧ (runningOn (tLinked (tCtxDesc0 0x41 [0x20005, 1]) : State) (3 : Place) 0x41 = some ((dOnCtx0 0x41 [0x20005, 1] : Desc), (2 : CtxNo))
      ∧ ctx (tLinked (tCtxDesc0 0x41 [0x20005, 1]) : State) (2 : CtxNo).val = some cSignal ∧ cSignal.st ≠ .drain
      ∧ 2 ≤ bits (wordAt (dOnCtx0 0x41 [0x20005, 1] : Desc).words 1) 16 2
      ∧ ownPos (tLinked (tCtxDesc0 0x41 [0x20005, 1]) : State) = some (0 : Byte)
      ∧ (0 : Byte) ≠ BitVec.ofNat 8 (bits (wordAt (dOnCtx0 0x41 [0x20005, 1] : Desc).words 2) 0 8)
      ∧ pathFor (tLinked (tCtxDesc0 0x41 [0x20005, 1]) : State) (BitVec.ofNat 8 (bits (wordAt (dOnCtx0 0x41 [0x20005, 1] : Desc).words 2) 0 8)) 0#6 = true)
    ∧ (runningOn (tCtxDesc 0x41 [0x20005, 1] : State) (3 : Place) 0x41 = some ((dOnCtx 0x41 [0x20005, 1] : Desc), (2 : CtxNo))
      ∧ (ctx (tCtxDesc 0x41 [0x20005, 1] : State) (2 : CtxNo).val).all (fun c => decide (c.st ≠ .drain)) = true
      ∧ 2 ≤ bits (wordAt (dOnCtx 0x41 [0x20005, 1] : Desc).words 1) 16 2
      ∧ ownPos (tCtxDesc 0x41 [0x20005, 1] : State) ≠ some (BitVec.ofNat 8 (bits (wordAt (dOnCtx 0x41 [0x20005, 1] : Desc).words 2) 0 8))
      ∧ pathFor (tCtxDesc 0x41 [0x20005, 1] : State) (BitVec.ofNat 8 (bits (wordAt (dOnCtx 0x41 [0x20005, 1] : Desc).words 2) 0 8)) 0#6 = false)
    ∧ (runningOn (tLinked (tCtxDesc0 0x41 [0x20005, 0]) : State) (3 : Place) 0x41 = some ((dOnCtx0 0x41 [0x20005, 0] : Desc), (2 : CtxNo))
      ∧ (ctx (tLinked (tCtxDesc0 0x41 [0x20005, 0]) : State) (2 : CtxNo).val).all (fun c => decide (c.st ≠ .drain)) = true
      ∧ 2 ≤ bits (wordAt (dOnCtx0 0x41 [0x20005, 0] : Desc).words 1) 16 2
      ∧ ownPos (tLinked (tCtxDesc0 0x41 [0x20005, 0]) : State) = some (BitVec.ofNat 8 (bits (wordAt (dOnCtx0 0x41 [0x20005, 0] : Desc).words 2) 0 8))
      ∧ flagOwner (tLinked (tCtxDesc0 0x41 [0x20005, 0]) : State) (bits (wordAt (dOnCtx0 0x41 [0x20005, 0] : Desc).words 1) 0 14) = some (0 : Nat)
      ∧ inFlagRange (tLinked (tCtxDesc0 0x41 [0x20005, 0]) : State) (0 : Nat) (bits (wordAt (dOnCtx0 0x41 [0x20005, 0] : Desc).words 1) 0 14) = true
      ∧ wordFaulted (tLinked (tCtxDesc0 0x41 [0x20005, 0]) : State) .shared (bits (wordAt (dOnCtx0 0x41 [0x20005, 0] : Desc).words 1) 0 14) = false)
    ∧ (runningOn (tWordBad (tCtxDesc0 0x41 [0x10005]) : State) (3 : Place) 0x41 = some ((dOnCtx0 0x41 [0x10005] : Desc), (2 : CtxNo))
      ∧ ctx (tWordBad (tCtxDesc0 0x41 [0x10005]) : State) (2 : CtxNo).val = some cSignal ∧ cSignal.st ≠ .drain
      ∧ cSignal.place = (3 : Place)
      ∧ ((bits (wordAt (dOnCtx0 0x41 [0x10005] : Desc).words 1) 16 2 = 1 ∧ wordFaulted (tWordBad (tCtxDesc0 0x41 [0x10005]) : State) .shared (bits (wordAt (dOnCtx0 0x41 [0x10005] : Desc).words 1) 0 14) = true) ∨ (bits (wordAt (dOnCtx0 0x41 [0x10005] : Desc).words 1) 16 2 = 0 ∧ wordFaulted (tWordBad (tCtxDesc0 0x41 [0x10005]) : State) .loc (48 * bits (wordAt (dOnCtx0 0x41 [0x10005] : Desc).words 1) 20 2 + bits (wordAt (dOnCtx0 0x41 [0x10005] : Desc).words 1) 0 14) = true))) := by
  refine ⟨?_, ?_, ?_, ?_, ?_, ?_, ?_, ?_⟩ <;> decide +kernel

theorem wit_PortsTrain :
    (tHost.boot.relLk = true ∧ (port tHost (0 : PortNo).val).st = .down)
    ∧ (tArriving.serve.shipsOut = [])
    ∧ (portUp tArriving (0 : PortNo).val = true)
    ∧ (portUp tArriving (0 : PortNo).val = true)
    ∧ (((port (setPort 0 { Port.reset with st := .train } tHost : State) (0 : PortNo).val).st = .train ∨ (port (setPort 0 { Port.reset with st := .train } tHost : State) (0 : PortNo).val).st = .quarantine ∨ (port (setPort 0 { Port.reset with st := .train } tHost : State) (0 : PortNo).val).st = .looped))
    ∧ (portUp tArriving (0 : PortNo).val = true)
    ∧ ((port (setPort 0 { Port.reset with st := .train } tHost : State) (0 : PortNo).val).st ≠ .down
      ∧ (identOf Config.serial : IdentPl).serial = Config.serial
      ∧ (setPort 0 { Port.reset with st := .train } tHost : State).serve.shipsOut = [])
    ∧ ((port (setPort 0 { Port.reset with st := .train } tHost : State) (0 : PortNo).val).st ≠ .down
      ∧ (identOf (Config.serial + 1#64) : IdentPl).serial ≠ Config.serial
      ∧ (setPort 0 { Port.reset with st := .train } tHost : State).lnk.plan = none
      ∧ (setPort 0 { Port.reset with st := .train } tHost : State).serve.shipsOut = [])
    ∧ ((port tTraining (0 : PortNo).val).st = .train ∧ tTraining.serve.shipsOut = []
      ∧ (identOf (Config.serial + 1#64) : IdentPl).serial ≠ Config.serial ∧ tTraining.lnk.plan = some planA
      ∧ planPort tTraining (0 : PortNo).val = some planPortA ∧ planPortA.enabled = true
      ∧ (identOf (Config.serial + 1#64) : IdentPl).rackId = planA.rackId
      ∧ (identOf (Config.serial + 1#64) : IdentPl).pos = planPortA.far
      ∧ (identOf (Config.serial + 1#64) : IdentPl).port = planPortA.farPort
      ∧ pickGroup (port tTraining (0 : PortNo).val).good (identOf (Config.serial + 1#64) : IdentPl).laneOk (min (lnkLaneOf tTraining (0 : PortNo).val).inForce.lanes.toNat planPortA.lanes) = some ((8, 0) : Nat × Nat)) := by
  refine ⟨?_, ?_, ?_, ?_, ?_, ?_, ?_, ?_, ?_⟩
  · decide +kernel
  · decide +kernel
  · decide +kernel
  · decide +kernel
  · decide +kernel
  · decide +kernel
  · exact ⟨by decide +kernel, rfl, by decide +kernel⟩
  · exact ⟨by decide +kernel, (by simp [identOf]), by decide +kernel, by decide +kernel⟩
  · exact ⟨by decide +kernel, by decide +kernel, (by simp [identOf]), by decide +kernel, by decide +kernel, by decide +kernel, rfl, rfl, rfl, rfl⟩

theorem wit_LinkPacketsAreHandled :
    (portUp tArriving (0 : PortNo).val = true ∧ (hdrIn.nack = false ∨ (port tArriving (0 : PortNo).val).stalls < 8))
    ∧ ((portUp (setPort 0 { Port.reset with st := .quarantine } tHost : State) (0 : PortNo).val = true ∨ (port (setPort 0 { Port.reset with st := .quarantine } tHost : State) (0 : PortNo).val).st = .quarantine))
    ∧ (portUp tHeld (0 : PortNo).val = true ∧ (port tHeld (0 : PortNo).val).held ≠ []
      ∧ (port tHeld (0 : PortNo).val).stalls < 8)
    ∧ ((.crc : Discard) ≠ .linkLocalCrc ∧ portUp tArriving (0 : PortNo).val = true
      ∧ (port tArriving (0 : PortNo).val).nackSent = false)
    ∧ (portUp tArriving (0 : PortNo).val = true ∧ hdrIn.seq = (port tArriving (0 : PortNo).val).rxNext
      ∧ (hdrIn.nack = false ∨ (port tArriving (0 : PortNo).val).stalls < 8))
    ∧ ((port tStaged (0 : PortNo).val).restaged = []
      ∧ (port tStaged (0 : PortNo).val).staged.find? (fun x => decide (x.h.vc = false) && forwardable tStaged (0 : Byte) x) = some pktOther
      ∧ ownPos tStaged = some (0 : Byte) ∧ pktOther.h.dst ≠ (0 : Byte)
      ∧ routeOf tStaged (0 : Byte).toNat pktOther.h.dst.toNat pktOther.h.detour pktOther.h.wrongWay (0 : PortNo).val = some ((0 : PortNo).val, false, false)
      ∧ (port tStaged (0 : PortNo).val).queue = []
      ∧ mayGo tStaged (0 : PortNo) { pktOther with h := { pktOther.h with vc := vcOf (0 : Byte).toNat (0 : PortNo).val (some (0 : PortNo).val) false } } = true)
    ∧ ((port tStaged2 (0 : PortNo).val).restaged = []
      ∧ (port tStaged2 (0 : PortNo).val).staged.find? (fun x => decide (x.h.vc = false) && forwardable tStaged2 (0 : Byte) x) = some pktOther
      ∧ ownPos tStaged2 = some (0 : Byte) ∧ pktOther.h.dst ≠ (0 : Byte) ∧ pktOther.h.src ≠ (0 : Byte)
      ∧ routeOf tStaged2 (0 : Byte).toNat pktOther.h.dst.toNat pktOther.h.detour pktOther.h.wrongWay (0 : PortNo).val = none) := by
  refine ⟨?_, ?_, ?_, ?_, ?_, ?_, ?_⟩ <;> decide +kernel

theorem wit_ResetsEndWork :
    ((1 : Func).val ≠ 0 ∧ (setPageOwner 7 2 tRing : State).boot.phase ≠ 0x0A#8
      ∧ (setPageOwner 7 2 tRing : State).boot.relHost = true
      ∧ trising (setPageOwner 7 2 tRing : State).serve.pages = true)
    ∧ (tfind tFlr.cxl.flrs (1 : Func).val = some (0 : U64) ∧ (0 : U64).toNat + 50000000 ≤ (now tFlr).toNat
      ∧ tFlr.places = [((3 : Place).val, dFlr)] ∧ tFlr.seq.queues = [] ∧ tFlr.ctl.bcs = [] ∧ dFlr.func = (1 : Func)
      ∧ dFlr.discard = true ∧ dFlr.stage = .running ∧ dFlr.ctx = none ∧ opcodeOf dFlr.words ≠ 0x51)
    ∧ (warmable tReady = true)
    ∧ (warmable tReady = true)
    ∧ (warmable tReady = true ∧ bitAt (1 : U64).toNat 0 = true)
    ∧ (warmable (tReady |> tCxlUp : State) = true ∧ (tReady |> tCxlUp : State).cxl.up = true)
    ∧ (warmable (tReady |> tKeyed : State) = true
      ∧ (if false then (tReady |> tKeyed : State).cxl.ideMem else (tReady |> tKeyed : State).cxl.ideIo).key.isSome = true) := by
  refine ⟨?_, ?_, ?_, ?_, ?_, ?_, ?_⟩ <;> decide +kernel

theorem wit_HostReachesMemory :
    (tHost.boot.relHost = true ∧ (if (0 : Fin 2).val = 0 then tHost.cxl.hdm0 else tHost.cxl.hdm1).committed = false)
    ∧ ((if (0 : Fin 2).val = 0 then tLocked.cxl.hdm0 else tLocked.cxl.hdm1).committed = true
      ∧ (if (0 : Fin 2).val = 0 then tLocked.cxl.hdm0 else tLocked.cxl.hdm1).set.lock = true)
    ∧ (tMem.cxl.up = true ∧ hpaMap tMem (0x40 : U64) = some (0x40 : Nat) ∧ memServed tMem = true
      ∧ isUnpop tMem (lineRank tMem false ((0x40 : Nat) / 64)).1 (lineRank tMem false ((0x40 : Nat) / 64)).2 = false
      ∧ isFenced tMem (lineRank tMem false ((0x40 : Nat) / 64)).1 (lineRank tMem false ((0x40 : Nat) / 64)).2 = false
      ∧ readWaits tMem (lineWords tMem false ((0x40 : Nat) / 64)) = false)
    ∧ (tMemWaits.cxl.up = true ∧ hpaMap tMemWaits (0x40 : U64) = some (0x40 : Nat) ∧ memServed tMemWaits = true
      ∧ isUnpop tMemWaits (lineRank tMemWaits false ((0x40 : Nat) / 64)).1 (lineRank tMemWaits false ((0x40 : Nat) / 64)).2 = false
      ∧ isFenced tMemWaits (lineRank tMemWaits false ((0x40 : Nat) / 64)).1 (lineRank tMemWaits false ((0x40 : Nat) / 64)).2 = false
      ∧ readWaits tMemWaits (lineWords tMemWaits false ((0x40 : Nat) / 64)) = true)
    ∧ ((tMem |> tNotReady : State).cxl.up = true ∧ memServed (tMem |> tNotReady : State) = false)
    ∧ ((tCxlUp tHost : State).cxl.up = true ∧ memServed (tCxlUp tHost : State) = true
      ∧ hpaMap (tCxlUp tHost : State) (0x40 : U64) = none)
    ∧ (tMem.cxl.up = true ∧ hpaMap tMem (0x40 : U64) = some (0x40 : Nat) ∧ memServed tMem = true
      ∧ inKeep tMem (0x40 : Nat) = false
      ∧ isUnpop tMem (lineRank tMem false ((0x40 : Nat) / 64)).1 (lineRank tMem false ((0x40 : Nat) / 64)).2 = false
      ∧ isFenced tMem (lineRank tMem false ((0x40 : Nat) / 64)).1 (lineRank tMem false ((0x40 : Nat) / 64)).2 = false
      ∧ (lineWords tMem false ((0x40 : Nat) / 64)).Nodup
      ∧ (∀ w ∈ lineWords tMem false ((0x40 : Nat) / 64), bindingOf tMem w = none)
      ∧ storeHeld tMem (lineRank tMem false ((0x40 : Nat) / 64)).1 (lineRank tMem false ((0x40 : Nat) / 64)).2 (lineWords tMem false ((0x40 : Nat) / 64)) = false
      ∧ (lineWords tMem false ((0x40 : Nat) / 64)).any (fun w => (bc tMem (wordLoc w).c).changing) = false)
    ∧ ((tMem |> tAllKeep : State).cxl.up = true ∧ hpaMap (tMem |> tAllKeep : State) (0x40 : U64) = some (0x40 : Nat)
      ∧ memServed (tMem |> tAllKeep : State) = true ∧ inKeep (tMem |> tAllKeep : State) (0x40 : Nat) = true)
    ∧ ((tMem |> tNotReady : State).cxl.up = true ∧ memServed (tMem |> tNotReady : State) = false)
    ∧ ((tHost |> tNoPerst : State).boot.relHost = true ∧ (tHost |> tNoPerst : State).cxl.perst = false
      ∧ ((16 : Nat) = 16 ∨ (16 : Nat) = 8) ∧ ((64 : Nat) = 64 ∨ (64 : Nat) = 32 ∨ (64 : Nat) = 16))
    ∧ ((tCxlUp tHost : State).cxl.up = true) := by
  refine ⟨?_, ?_, ?_, ?_, ?_, ?_, ?_, ?_, ?_, ?_, ?_⟩ <;> decide +kernel

theorem wit_MailboxReportsTheLogs :
    (mbAnswers (.pf : MbPath) .health tMbx = true)
    ∧ (mbAnswers (.pf : MbPath) .health tMbx = true)
    ∧ (mbAnswers (.pf : MbPath) .health tMbx = true ∧ (0 : Nat) ≤ tMbx.log.plog.length)
    ∧ (mbAnswers (.pf : MbPath) .health tMbx = true)
    ∧ (mbAnswers (.pf : MbPath) .health tMbx = true)
    ∧ (mbAnswers (.pf : MbPath) .other tMbx = true) := by
  refine ⟨?_, ?_, ?_, ?_, ?_, ?_⟩ <;> decide +kernel

theorem wit_FirmwareAndTimeAreSet :
    (mbAnswers (.pf : MbPath) .firmware tMbx = true)
    ∧ (mbAnswers (.pf : MbPath) .firmware tMbx = true)
    ∧ (mbAnswers (.pf : MbPath) .firmware tMbx = true)
    ∧ (mbAnswers (.pf : MbPath) .firmware tMbx = true)
    ∧ (mbAnswers (.pf : MbPath) .other tMbx = true)
    ∧ (mbAnswers (.pf : MbPath) .other tMbx = true)
    ∧ (mbAnswers (.pf : MbPath) .other tMbx = true)
    ∧ (mbAnswers (.pf : MbPath) .health tMbx = true ∧ (0x0500 : U16) ∉ mbOpcodes) := by
  refine ⟨?_, ?_, ?_, ?_, ?_, ?_, ?_, ?_⟩ <;> decide +kernel

theorem wit_VendorCommandsAreCarriedOut :
    (mbAnswers (.pf : MbPath) .other tMbx = true)
    ∧ (mbAnswers (.pf : MbPath) .other tMbx = true ∧ keepPayload.length = 16
      ∧ leAt keepPayload 0 8 = keepOne.size.toNat * 2 ^ 28 ∧ leAt keepPayload 8 8 = keepOne.rsv.toNat * 2 ^ 30
      ∧ keepBad keepOne = false ∧ keepBusy tMbx = false ∧ (∀ a ∈ ordersNow tMbx, a.obj ≠ .keep))
    ∧ (mbAnswers (.sideband : MbPath) .other tMbx = true ∧ planOk planPayload = true
      ∧ ((.sideband : MbPath) = .pf → tMbx.pwr.grcRamp = none) ∧ (∀ a ∈ ordersNow tMbx, a.obj ≠ .plan))
    ∧ (mbAnswers (.sideband : MbPath) .other tMbx = true ∧ planOk ([1] : List Byte) = false)
    ∧ (mbAnswers (.pf : MbPath) .other tMbx = true)
    ∧ (mbAnswers (.sideband : MbPath) .other tMbx = true ∧ rampOk rampPayload = true ∧ (∀ a ∈ ordersNow tMbx, a.obj ≠ .ramp)
      ∧ ((.sideband : MbPath) = .pf → tMbx.pwr.grcRamp.all (fun g => decide ((rampOf rampPayload).up ≤ g.up ∧ (rampOf rampPayload).down ≤ g.down ∧ (rampOf rampPayload).cap ≤ g.cap)) = true))
    ∧ (mbAnswers .pf .other (noteOrder ordRamp tMbx : State) = true ∧ ordRamp.master = 0
      ∧ (((.rampSet .pf rampPayload : Instr) = .rampSet .pf rampPayload ∧ rampOk rampPayload = true ∧ rival (noteOrder ordRamp tMbx : State) .ramp [.rampSet] = some ordRamp) ∨ ((.rampSet .pf rampPayload : Instr) = .planLoad .pf rampPayload ∧ planOk rampPayload = true ∧ rival (noteOrder ordRamp tMbx : State) .plan [.planLoad] = some ordRamp)))
    ∧ (mbAnswers (.pf : MbPath) .other tMbx = true)
    ∧ (mbAnswers (.pf : MbPath) .other tMbx = true ∧ ([1] : List Byte).length ≠ 0)
    ∧ (mbAnswers (.sideband : MbPath) .other tMbx = true ∧ ([1] : List Byte).length ≠ 0)
    ∧ (mbAnswers (.pf : MbPath) .other tMbx = true ∧ ([1] : List Byte).length ≠ 0)
    ∧ (mbAnswers (.pf : MbPath) .other tMbx = true
      ∧ ((leBytes 16 (2 ^ 33 + 2 ^ 28) : List Byte).length ≠ 16 ∨ leAt (leBytes 16 (2 ^ 33 + 2 ^ 28) : List Byte) 0 8 % 2 ^ 28 ≠ 0 ∨ 2 ^ 33 < leAt (leBytes 16 (2 ^ 33 + 2 ^ 28) : List Byte) 0 8 ∨ leAt (leBytes 16 (2 ^ 33 + 2 ^ 28) : List Byte) 8 8 % 2 ^ 30 ≠ 0 ∨ 48 * 2 ^ 30 < leAt (leBytes 16 (2 ^ 33 + 2 ^ 28) : List Byte) 8 8))
    ∧ (mbAnswers (.pf : MbPath) .other tMbx = true
      ∧ ((leBytes 16 (38 * 2 ^ 32 + 4801 * 2 ^ 16 + 1) : List Byte).length ≠ 16 ∨ leAt (leBytes 16 (38 * 2 ^ 32 + 4801 * 2 ^ 16 + 1) : List Byte) 6 2 ≠ 0 ∨ leAt (leBytes 16 (38 * 2 ^ 32 + 4801 * 2 ^ 16 + 1) : List Byte) 12 4 ≠ 0 ∨ leAt (leBytes 16 (38 * 2 ^ 32 + 4801 * 2 ^ 16 + 1) : List Byte) 0 2 = 0 ∨ 4800 < leAt (leBytes 16 (38 * 2 ^ 32 + 4801 * 2 ^ 16 + 1) : List Byte) 0 2 ∨ leAt (leBytes 16 (38 * 2 ^ 32 + 4801 * 2 ^ 16 + 1) : List Byte) 2 2 = 0 ∨ 4800 < leAt (leBytes 16 (38 * 2 ^ 32 + 4801 * 2 ^ 16 + 1) : List Byte) 2 2 ∨ leAt (leBytes 16 (38 * 2 ^ 32 + 4801 * 2 ^ 16 + 1) : List Byte) 4 2 < 38 ∨ 480 < leAt (leBytes 16 (38 * 2 ^ 32 + 4801 * 2 ^ 16 + 1) : List Byte) 4 2)) := by
  refine ⟨?_, ?_, ?_, ?_, ?_, ?_, ?_, ?_, ?_, ?_, ?_, ?_, ?_⟩ <;> decide +kernel

theorem wit_SpdmSessionsKeyTheLink :
    ((tCxlUp tHost : State).cxl.up = true)
    ∧ ((tSpdm true false false false false : State).cxl.up = true
      ∧ (tSpdm true false false false false : State).spdm.version = true)
    ∧ ((tCxlUp tHost : State).cxl.up = true ∧ (tCxlUp tHost : State).spdm.version = false)
    ∧ ((tSpdm true true false false false : State).cxl.up = true
      ∧ (tSpdm true true false false false : State).spdm.caps = true)
    ∧ ((tSpdm true true true false false : State).cxl.up = true ∧ (tSpdm true true true false false : State).spdm.algs = true)
    ∧ ((tSpdm true true true false false : State).cxl.up = true ∧ (tSpdm true true true false false : State).spdm.algs = true)
    ∧ ((tSpdm true true true false false : State).cxl.up = true ∧ (tSpdm true true true false false : State).spdm.algs = true)
    ∧ ((tSpdm true true true false false : State).cxl.up = true ∧ (tSpdm true true true false false : State).spdm.algs = true
      ∧ 1 ≤ (1 : Nat) ∧ (1 : Nat) ≤ 5)
    ∧ ((tSpdm true true true false false : State).cxl.up = true ∧ (tSpdm true true true false false : State).spdm.algs = true)
    ∧ ((tSpdm true true true true false : State).cxl.up = true
      ∧ (tSpdm true true true true false : State).spdm.exchanged = true)
    ∧ ((tSpdm true true true false true : State).cxl.up = true
      ∧ (tSpdm true true true false true : State).spdm.session = true)
    ∧ ((tSpdm true true true false true : State).cxl.up = true
      ∧ (tSpdm true true true false true : State).spdm.session = true) := by
  refine ⟨?_, ?_, ?_, ?_, ?_, ?_, ?_, ?_, ?_, ?_, ?_, ?_⟩ <;> decide +kernel

theorem wit_MarlAccessesCommitAndRead :
    (tReady.boot.relMarl = true ∧ (9 : Nat) < 737280)
    ∧ (tBound.boot.relMarl = true ∧ (9 : Nat) < 2 ^ 33 ∧ tBound.marl.binds = [bindA] ∧ bindA.loc = false
      ∧ bindA.line ≤ (9 : Nat) ∧ (9 : Nat) < bindA.line + bindA.lines ∧ bindA.off % 64 = 0
      ∧ tfind tBound.marl.regions bindA.region = some regBound
      ∧ (∀ k < 2, wordAddr tBound false ((lineWords tBound false (9 : Nat)).getD k 0) = 64 * (9 : Nat) + 32 * k))
    ∧ (tReady.boot.relMarl = true ∧ (9 : Nat) < 2 ^ 33 ∧ (lineWords tReady false (9 : Nat)).Nodup
      ∧ (∀ w ∈ lineWords tReady false (9 : Nat), bindingOf tReady w = none))
    ∧ (tReady.boot.relMarl = true ∧ targetOk (.dpaLine 9 : MarlTarget) = true)
    ∧ (tReady.boot.relMarl = true ∧ (9 : Nat) < 737280)
    ∧ (tReady.boot.relMarl = true ∧ (9 : Nat) < 737280) := by
  refine ⟨?_, ?_, ?_, ?_, ?_, ?_⟩ <;> decide +kernel

theorem wit_DirtyLinesReachTheBanks :
    (tDirty.boot.relMarl = true ∧ copyOf tDirty (0 : Nat) = some copyA ∧ lineDue tDirty (0 : Nat) = true
      ∧ lineTakes tDirty (0 : Nat) = true ∧ (0 : Nat) ∈ copyLine tDirty (0 : Nat))
    ∧ ((tDirty |> tLater : State).boot.relMarl = true ∧ (tDirty |> tLater : State).marl.copies = [((0 : Nat), copyA)]
      ∧ copyA.region = none ∧ lineTakes (tDirty |> tLater : State) (0 : Nat) = true
      ∧ (0 : Nat) ∈ copyLine (tDirty |> tLater : State) (0 : Nat)
      ∧ (logicalLoc (tDirty |> tLater : State) (wordLoc (0 : Nat))).c = (0 : Chan).val
      ∧ (logicalLoc (tDirty |> tLater : State) (wordLoc (0 : Nat))).r = (0 : Fin 2).val
      ∧ lineSince (tDirty |> tLater : State) (0 : Nat) + 10000 ≤ (now (tDirty |> tLater : State)).toNat)
    ∧ (tLeaving.boot.relMarl = true ∧ tfind tLeaving.marl.regions (3 : Nat) = some regLeaving ∧ regLeaving.releasing = true
      ∧ dirtyOfRegion tLeaving (3 : Nat) = [])
    ∧ ((bc tPreWb (0 : Chan).val).p1.find? (fun x => !x.issued) = some p1A ∧ dirtyFor tPreWb p1A = [(0 : Nat)]
      ∧ (copyOf tPreWb (0 : Nat)).isSome = true ∧ lineTakes tPreWb (0 : Nat) = true
      ∧ (0 : Nat) ∈ copyLine tPreWb (0 : Nat)) := by
  refine ⟨?_, ?_, ?_, ?_⟩ <;> decide +kernel

theorem wit_PendingCommitsTakeEffect :
    (tPendMarl.marl.regions = [] ∧ tPendMarl.hub.marlPart.waiting = some ({ bc := 8, lk := 8 } : MarlPart))
    ∧ (stepNames tPendModel (1 : Func).val (2 : Fin 16).val = false
      ∧ (modelOf tPendModel (1 : Func).val (2 : Fin 16).val).waiting = some (0x1000 : BitVec 39))
    ∧ (grainWork tPendGrn (1 : Func).val = false ∧ (grnPartOf tPendGrn (1 : Func).val).waiting = some grnA) := by
  refine ⟨?_, ?_, ?_⟩ <;> decide +kernel

theorem wit_RegistersAreWritten :
    (tReady.boot.relHost = true ∧ tReady.boot.relSeq = true)
    ∧ (tReady.boot.relHost = true)
    ∧ (tReady.boot.relHost = true)
    ∧ (tReady.boot.relHost = true)
    ∧ (tReady.boot.relHost = true
      ∧ (((8 : Nat) ≠ 4 ∧ (8 : Nat) ≠ 8) ∨ (0x0041 : Nat) % (8 : Nat) ≠ 0 ∨ regStaged tReady ((0x0041 : Nat) - (0x0041 : Nat) % 8) = none))
    ∧ (tReady.boot.relHost = true)
    ∧ (tReady.boot.relHost = true)
    ∧ (tReady.boot.relHost = true ∧ tReady.boot.relBc = 0xFFFF#16 ∧ bitAt (1 : U64).toNat 0 = true
      ∧ tReady.dev.bInvalid = false)
    ∧ (tReady.boot.relHost = true)
    ∧ (tReady.boot.relHost = true) := by
  refine ⟨?_, ?_, ?_, ?_, ?_, ?_, ?_, ?_, ?_, ?_⟩ <;> decide +kernel

theorem wit_CommitsTakeEffect :
    (tReady.boot.relHost = true ∧ tReady.boot.relMarl = true ∧ bitAt (1 : U64).toNat 0 = true ∧ noRegions tReady = true
      ∧ 4 ≤ tReady.hub.marlPart.staged.bc.toNat ∧ tReady.hub.marlPart.staged.bc.toNat ≤ 16
      ∧ 8 ≤ tReady.hub.marlPart.staged.lk.toNat ∧ tReady.hub.marlPart.staged.lk.toNat ≤ 32)
    ∧ (tReady.boot.relHost = true ∧ bitAt (1 : U64).toNat 0 = true
      ∧ (tenOf tReady tReady.hub.tenSel.toNat).staged.base ≤ (tenOf tReady tReady.hub.tenSel.toNat).staged.limit
      ∧ (tenOf tReady tReady.hub.tenSel.toNat).staged.limit.toNat ≤ 2048)
    ∧ (tBadTen.boot.relHost = true ∧ bitAt (1 : U64).toNat 0 = true
      ∧ (tenOf tBadTen tBadTen.hub.tenSel.toNat).staged.limit < (tenOf tBadTen tBadTen.hub.tenSel.toNat).staged.base)
    ∧ (tReady.boot.relHost = true ∧ bitAt (1 : U64).toNat 0 = true
      ∧ stepNames tReady tReady.hub.modelFn.toNat tReady.hub.modelSlot.toNat = false
      ∧ ((modelOf tReady tReady.hub.modelFn.toNat tReady.hub.modelSlot.toNat).staged = 0#39 ∨ ((modelOf tReady tReady.hub.modelFn.toNat tReady.hub.modelSlot.toNat).staged.toNat % 4096 = 0 ∧ inWindow tReady tReady.hub.modelFn.toNat (modelOf tReady tReady.hub.modelFn.toNat tReady.hub.modelSlot.toNat).staged.toNat 1 = true)))
    ∧ (tReady.boot.relHost = true ∧ tReady.boot.relBc = 0xFFFF#16 ∧ bitAt (1 : U64).toNat 0 = true
      ∧ tReady.cxl.hdm0.committed = false ∧ tReady.cxl.hdm1.committed = false
      ∧ (tReady.dev.bcMap.staged.order = 3#2 ∨ tReady.dev.bcMap.staged.ranks = 0xFFFFFFFF#32))
    ∧ (tLocked.boot.relHost = true ∧ tLocked.boot.relBc = 0xFFFF#16 ∧ bitAt (1 : U64).toNat 0 = true
      ∧ (tLocked.cxl.hdm0.committed = true ∨ tLocked.cxl.hdm1.committed = true))
    ∧ (tGrnStaged.boot.relHost = true ∧ bitAt (1 : U64).toNat 0 = true ∧ (1 : Nat) = tGrnStaged.hub.grnSel.toNat
      ∧ (grnPartOf tGrnStaged (1 : Nat)).staged = grnA ∧ grainWork tGrnStaged (1 : Nat) = false
      ∧ (grnA.lo ≤ grnA.hi ∨ setSize grnA.set.toNat = 0) ∧ setShared tGrnStaged (1 : Nat) grnA.set.toNat = false
      ∧ (pairsOf grnA.set.toNat).length ≤ grnA.flagQ.toNat
      ∧ blockBad tGrnStaged (1 : Nat) ((flagBlock tGrnStaged (1 : Nat)).1, grnA.flagQ.toNat) grnA.set.toNat = false)
    ∧ (tReady.boot.relHost = true ∧ tReady.boot.relSeq = true ∧ bitAt (1 : U64).toNat 0 = true
      ∧ (0 : Nat) = tReady.hub.grnSel.toNat ∧ grainWork tReady (0 : Nat) = false
      ∧ blockBad tReady (0 : Nat) ((flagBaseOf tReady (0 : Nat)).staged.toNat, (flagBlock tReady (0 : Nat)).2) (grainsOf tReady (0 : Nat)) = false)
    ∧ (tReady.boot.relHost = true ∧ tReady.boot.relLk = true ∧ bitAt (1 : U64).toNat 0 = true
      ∧ (0 : Nat) = tReady.dev.lnkSel.toNat
      ∧ ((lnkLaneOf tReady (0 : Nat)).staged.lanes = 2#4 ∨ (lnkLaneOf tReady (0 : Nat)).staged.lanes = 4#4 ∨ (lnkLaneOf tReady (0 : Nat)).staged.lanes = 8#4)
      ∧ ((List.range (lnkLaneOf tReady (0 : Nat)).staged.lanes.toNat).map (fun i => bits (lnkLaneOf tReady (0 : Nat)).staged.map.toNat (3 * i) 3)).Nodup)
    ∧ (tReady.boot.relHost = true ∧ bitAt (1 : U64).toNat 0 = true ∧ keepBad tReady.dev.keep.staged = false
      ∧ keepBusy tReady = false ∧ (∀ a ∈ ordersNow tReady, a.obj ≠ .keep))
    ∧ ((noteOrder ordKeep tReady : State).boot.relHost = true ∧ bitAt (1 : U64).toNat 0 = true
      ∧ rival (noteOrder ordKeep tReady : State) .keep [.keepSize] = some ordKeep ∧ ordKeep.master = 0) := by
  refine ⟨?_, ?_, ?_, ?_, ?_, ?_, ?_, ?_, ?_, ?_, ?_⟩ <;> decide +kernel

theorem wit_ColdStartBegins :
    (tOff.boot.powered = false ∧ slotValid tOff tOff.fw.active = true)
    ∧ ((tOff |> tNoFw : State).boot.powered = false ∧ slotValid (tOff |> tNoFw : State) true = false
      ∧ slotValid (tOff |> tNoFw : State) false = false) := by
  refine ⟨?_, ?_⟩ <;> decide +kernel

theorem wit_SelfTestsReleaseIslands :
    ((tPhase 4 : State).boot.phase = 0x04#8 ∧ (tPhase 4 : State).cnt.held = [])
    ∧ ((tPhase 4 : State).boot.phase = 0x04#8 ∧ tget 0 (tPhase 4 : State).boot.testFails 0 = 0)
    ∧ ((tPhase 4 |> tFailed : State).boot.phase = 0x04#8 ∧ tget 0 (tPhase 4 |> tFailed : State).boot.testFails 0 ≠ 0)
    ∧ (inStart (tPhase 5 : State) = true ∧ (tPhase 5 : State).boot.relMx.getLsbD (2 : MxNo).val = false)
    ∧ (inStart (tPhase 5 : State) = true ∧ (tPhase 5 : State).boot.relLay = false)
    ∧ (inStart (tPhase 5 : State) = true ∧ (tPhase 5 : State).boot.relSeq = false ∧ (tPhase 5 : State).cnt.held = [])
    ∧ ((tPhase 5 |> tBcUp : State).boot.phase = 0x05#8 ∧ (tPhase 5 |> tBcUp : State).boot.relBc = 0xFFFF#16
      ∧ (tPhase 5 |> tBcUp : State).boot.grainTested = false ∧ (tPhase 5 |> tBcUp : State).boot.grainFails = []
      ∧ ([7] : List GrainNo) ≠ [])
    ∧ ((tPhase 5 |> tBcUp |> tGrainsFailed : State).boot.phase = 0x05#8
      ∧ (tPhase 5 |> tBcUp |> tGrainsFailed : State).boot.relBc = 0xFFFF#16
      ∧ (tPhase 5 |> tBcUp |> tGrainsFailed : State).boot.grainTested = false
      ∧ (tPhase 5 |> tBcUp |> tGrainsFailed : State).boot.grainFails ≠ []) := by
  refine ⟨?_, ?_, ?_, ?_, ?_, ?_, ?_, ?_⟩ <;> decide +kernel

theorem wit_TheModuleBecomesReady :
    ((tPhase 6 : State).boot.phase = 0x06#8)
    ∧ ((tPhase 7 : State).boot.phase = 0x07#8 ∧ (tPhase 7 : State).boot.keepRestored = false
      ∧ (tPhase 7 : State).keep.nand = [] ∧ (tPhase 7 : State).keep.record = none)
    ∧ ((tPhase 7 |> tAllUp : State).boot.phase = 0x07#8 ∧ (tPhase 7 |> tAllUp : State).boot.keepRestored = true
      ∧ (tPhase 7 |> tAllUp : State).boot.relSeq = true ∧ (tPhase 7 |> tAllUp : State).boot.relLay = true
      ∧ (tPhase 7 |> tAllUp : State).boot.relMx = 0xF#4)
    ∧ ((tPhase 10 |> tBcUp : State).boot.phase = 0x0A#8 ∧ (tPhase 10 |> tBcUp : State).boot.relBc = 0xFFFF#16)
    ∧ (tFabric.lnk.plan = some planA ∧ tFabric.boot.phase = 0x08#8 ∧ tFabric.clk.stepped = true
      ∧ ((List.range 6).all (fun p => !((planA.ports[p]?).any (fun e => e.enabled)) || portSettled tFabric p)) = true)
    ∧ ((tTraining |> tLk : State).boot.relLk = true ∧ (tTraining |> tLk : State).lnk.plan = some planA
      ∧ planA.ports[(0 : PortNo).val]? = some planPortA ∧ planPortA.enabled = true
      ∧ ((port (tTraining |> tLk : State) (0 : PortNo).val).st = .down ∨ (port (tTraining |> tLk : State) (0 : PortNo).val).st = .train)) := by
  refine ⟨?_, ?_, ?_, ?_, ?_, ?_⟩ <;> decide +kernel

theorem wit_FaultsStopTheModule :
    (tReady.boot.powered = true ∧ tReady.boot.phase ≠ 0x0E#8 ∧ tReady.boot.hubFault = false ∧ tReady.boot.mediaReady = true
      ∧ tReady.boot.wdLast = none)
    ∧ ((tPhase 5 : State).boot.powered = true ∧ (tPhase 5 : State).boot.phase ≠ 0x0E#8
      ∧ (tPhase 5 : State).boot.phase ≠ 0x0A#8 ∧ (tPhase 5 : State).boot.hubFault = false
      ∧ (tPhase 5 : State).boot.mediaReady = false)
    ∧ (tReady.boot.powered = true ∧ tReady.boot.hubFault = false ∧ tReady.pwr.lost = false ∧ tReady.pwr.trip = false) := by
  refine ⟨?_, ?_, ?_⟩ <;> decide +kernel

theorem wit_BanksTakeCommands :
    (rankHears tDie (0 : Chan) (0 : Rank) = true ∧ bankFree tDie (0 : Chan) (0 : Rank) (3 : BankNo) = true)
    ∧ (rankHears tDieRun (0 : Chan) (0 : Rank) = true
      ∧ (∀ d < 4, bankOwned tDieRun (0 : Chan) (0 : Rank) d (0 : BankNo) = true))
    ∧ (rankHears tDieOpen (0 : Chan) (0 : Rank) = true
      ∧ (∀ b < 32, (true = true ∨ b = (0 : BankNo).val) → bankFree tDieOpen (0 : Chan) (0 : Rank) b = true))
    ∧ (rankHears tDieOpen (0 : Chan) (0 : Rank) = true ∧ bankFree tDieOpen (0 : Chan) (0 : Rank) (0 : BankNo) = true
      ∧ (∀ d < 4, openRow tDieOpen (0 : Chan) (0 : Rank) d (0 : BankNo) = some (5 : Nat)))
    ∧ (rankHears tDieOpen (0 : Chan) (0 : Rank) = true ∧ bankFree tDieOpen (0 : Chan) (0 : Rank) (0 : BankNo) = true
      ∧ (∀ d < 4, openRow tDieOpen (0 : Chan) (0 : Rank) d (0 : BankNo) = some (5 : Nat)) ∧ (5 : Nat) < 65536
      ∧ (∀ w ∈ unitWords (0 : Chan) (0 : Rank) (0 : BankNo) (5 : Nat) (2 : ColNo), markOf tDieOpen w = Mark.clean))
    ∧ (rankHears tDieOpen (0 : Chan) (0 : Rank) = true ∧ bankFree tDieOpen (0 : Chan) (0 : Rank) (0 : BankNo) = true
      ∧ (∀ d < 4, openRow tDieOpen (0 : Chan) (0 : Rank) d (0 : BankNo) = some (5 : Nat)) ∧ (5 : Nat) < 65536)
    ∧ (rankHears tDieRun (0 : Chan) (0 : Rank) = true) := by
  refine ⟨?_, ?_, ?_, ?_, ?_, ?_, ?_⟩ <;> decide +kernel

theorem wit_ModeRegistersAreKept :
    (rankHears tDie (0 : Chan) (0 : Rank) = true ∧ (1 : Nat) < 4 ∧ (3 : BitVec 4).getLsbD (1 : Nat) = true
      ∧ mrMask (0x10 : Byte).toNat ≠ 0#8)
    ∧ (rankHears tDie (0 : Chan) (0 : Rank) = true ∧ mrMask (6 : Byte).toNat = 0#8 ∧ (6 : Byte) ≠ 0x08#8
      ∧ (6 : Byte) ≠ 0x24#8)
    ∧ (rankHears tDie (0 : Chan) (0 : Rank) = true ∧ (6 : Byte) ≠ 0x10#8)
    ∧ (rankHears tDie (0 : Chan) (0 : Rank) = true ∧ (1 : Nat) < 4 ∧ (3 : BitVec 4).getLsbD (1 : Nat) = true)
    ∧ (rankHears tDie (0 : Chan) (0 : Rank) = true ∧ (1 : Nat) < 4 ∧ (3 : BitVec 4).getLsbD (1 : Nat) = true)
    ∧ (rankExists (0 : Chan) (0 : Rank) = true ∧ dieQuiet tDie (0 : Chan) (0 : Rank) (1 : Die) = true)
    ∧ (rankHears tDie (0 : Chan) (0 : Rank) = true ∧ rankBusy tDie (0 : Chan) (0 : Rank) = false)
    ∧ (rankHears tDieRun (0 : Chan) (0 : Rank) = true ∧ rankBusy tDieRun (0 : Chan) (0 : Rank) = true)
    ∧ (rankExists (0 : Chan) (0 : Rank) = true
      ∧ (∀ d < 4, (die tAsleep (dieNo (0 : Chan) (0 : Rank) d)).inReset = false ∧ (die tAsleep (dieNo (0 : Chan) (0 : Rank) d)).selfRefresh = true))
    ∧ (rankExists (0 : Chan) (0 : Rank) = true ∧ rankRetired tReady (0 : Chan) (0 : Rank) = false
      ∧ (tReady.boot.relBc.getLsbD (0 : Chan).val = true ∨ tReady.boot.phase = 0x05#8))
    ∧ (rankHears tDie (0 : Chan) (0 : Rank) = true ∧ ([0x0001] : List (BitVec 15)) ≠ []
      ∧ (caTaken ([0x0001] : List (BitVec 15))).all evenParity = false)
    ∧ (rankHears tDie (0 : Chan) (0 : Rank) = true ∧ ([0x401F] : List (BitVec 15)) ≠ []
      ∧ (caTaken ([0x401F] : List (BitVec 15))).all evenParity = true
      ∧ caDecode (0 : Chan) (0 : Rank) ((caTaken ([0x401F] : List (BitVec 15))).map (fun x => x.toNat % 2 ^ 14)) 0#1024 = none)
    ∧ ((caTaken ([0x4004, 0] : List (BitVec 15))).all evenParity = true
      ∧ (caDecode (0 : Chan) (0 : Rank) ((caTaken ([0x4004, 0] : List (BitVec 15))).map (fun x => x.toNat % 2 ^ 14)) 0#1024).isSome = true) := by
  refine ⟨?_, ?_, ?_, ?_, ?_, ?_, ?_, ?_, ?_, ?_, ?_, ?_, ?_⟩ <;> decide +kernel

theorem wit_GrainsAreSelectedAndLoaded :
    (rankHears tDie (0 : Chan) (0 : Rank) = true)
    ∧ ((191 : Nat) < 192)
    ∧ (grainsTake tDie (0 : Chan) (0 : Rank) = true ∧ actgWanted tDie (0 : Chan) (0 : Rank) (5 : RowNo) = false)
    ∧ (grainsTake tActg (0 : Chan) (0 : Rank) = true ∧ (portCfg tActg 1).mode = false)
    ∧ (actgWanted tThrottle (0 : Chan) (0 : Rank) (5 : RowNo) = true ∧ (portCfg tThrottle 1).mode = true
      ∧ trackA ∈ (bc tThrottle (0 : Chan)).tracker ∧ trackA.port = 1 ∧ trackA.rank = (0 : Rank).val
      ∧ trackA.row = (5 : RowNo).val ∧ trackA.bank / 2 = (0 : Fin 16).val
      ∧ (0 : Fin 16).val ∈ selected tThrottle (0 : Chan) (0 : Rank) (0 : Die)
      ∧ (now tThrottle - trackA.at_).toNat < tThrottle.dev.thrNs.toNat)
    ∧ (grainsTake tDieOpen (0 : Chan) (0 : Rank) = true)
    ∧ (rankHears tDieRun (0 : Chan) (0 : Rank) = true
      ∧ (∀ d < 4, selected tDieRun (0 : Chan) (0 : Rank) d ≠ [] ∧ dieAccepts tDieRun (0 : Chan) (0 : Rank) d = false)
      ∧ actgWanted tDieRun (0 : Chan) (0 : Rank) (5 : RowNo) = false)
    ∧ (grainsTake tDie (0 : Chan) (0 : Rank) = true)
    ∧ (grainsTake tDie (0 : Chan) (0 : Rank) = true ∧ p1At tDie (0 : Chan) (0 : Rank) = [])
    ∧ (rankHears tDie (0 : Chan) (0 : Rank) = true ∧ p1At tDie (0 : Chan) (0 : Rank) = [])
    ∧ (grainsTake tDie (0 : Chan) (0 : Rank) = true)
    ∧ (rankHears tDie (0 : Chan) (0 : Rank) = true) := by
  refine ⟨?_, ?_, ?_, ?_, ?_, ?_, ?_, ?_, ?_, ?_, ?_, ?_⟩ <;> decide +kernel

theorem wit_GrainsRunAndStop :
    (grainsTake (latchStops (0 : Chan) (0 : Rank) tDie) (0 : Chan) (0 : Rank) = true ∧ p1At tDie (0 : Chan) (0 : Rank) = []
      ∧ majorKnown (majorOf (0x08000000 : U32).toNat) = true
      ∧ majorOf (0x08000000 : U32).toNat ∉ [0x01, 0x03, 0x04, 0x05])
    ∧ (grainsTake tDie (0 : Chan) (0 : Rank) = true ∧ p1At tDie (0 : Chan) (0 : Rank) = []
      ∧ (majorKnown (majorOf (0xFC000000 : U32).toNat) = false ∨ majorOf (0xFC000000 : U32).toNat ∈ [0x01, 0x03, 0x04, 0x05]))
    ∧ (grainsTake (latchStops (0 : Chan) (0 : Rank) tDieCode) (0 : Chan) (0 : Rank) = true
      ∧ p1At tDieCode (0 : Chan) (0 : Rank) = []
      ∧ (∀ d < 4, ∀ g ∈ selected tDieCode (0 : Chan) (0 : Rank) d, majorKnown (majorOf (tget 0#32 (grain tDieCode (grainAt (0 : Chan) (0 : Rank) d g)).store (0 : Fin 2048)).toNat) = true))
    ∧ (rankHears tDieRun (0 : Chan) (0 : Rank) = true
      ∧ (∀ d < 4, (die tDieRun (dieNo (0 : Chan) (0 : Rank) d)).stDone = true ∧ ∀ g ∈ selected tDieRun (0 : Chan) (0 : Rank) d, (grain tDieRun (grainAt (0 : Chan) (0 : Rank) d g)).state = .running))
    ∧ (rankHears tDieDone (0 : Chan) (0 : Rank) = true ∧ p1At tDieDone (0 : Chan) (0 : Rank) = [])
    ∧ (rankExists (0 : Chan) (0 : Rank) = true ∧ p1At tDieBlind (0 : Chan) (0 : Rank) = [])
    ∧ ((grain tDieRun (0 : GrainNo).val).state = .running ∧ (∀ p ∈ tDieRun.bank.parityOnce, p.1 ≠ (0 : GrainNo).val))
    ∧ ((grain tDieTwice (0 : GrainNo).val).state = .running ∧ ((0 : GrainNo).val, now tDieTwice) ∈ tDieTwice.bank.parityOnce)
    ∧ ((grain tFaultNow (0 : GrainNo).val).state = .faulted ∧ (grain tFaultNow (0 : GrainNo).val).fault = 1#8
      ∧ (grain tFaultNow (0 : GrainNo).val).craMtb = now tFaultNow) := by
  refine ⟨?_, ?_, ?_, ?_, ?_, ?_, ?_, ?_, ?_⟩ <;> decide +kernel

theorem wit_TilthControl :
    (atWord 0x01 (0x04000000 : Nat) (0 : GrainNo) (tCode 0x04000000 : State) = true
      ∧ (grain (tCode 0x04000000 : State) (0 : GrainNo)).insn = none ∧ bits (0x04000000 : Nat) 0 26 = 0)
    ∧ (atWord 0x01 (0x04000001 : Nat) (0 : GrainNo) (tCode 0x04000001 : State) = true
      ∧ (grain (tCode 0x04000001 : State) (0 : GrainNo)).insn = none ∧ bits (0x04000001 : Nat) 0 26 ≠ 0)
    ∧ (atWord 0x01 (0x04000000 : Nat) (0 : GrainNo) (tInsn 0x04000000 : State) = true
      ∧ (grain (tInsn 0x04000000 : State) (0 : GrainNo)).insn.isSome = true)
    ∧ (atWord 0x02 (0x08000000 : Nat) (0 : GrainNo) (tCode 0x08000000 : State) = true ∧ bits (0x08000000 : Nat) 0 26 = 0
      ∧ nextKnown (grain (tCode 0x08000000 : State) (0 : GrainNo)) (grain (tCode 0x08000000 : State) (0 : GrainNo)).pc = true)
    ∧ (atWord 0x03 (0x0C040003 : Nat) (0 : GrainNo) (tCode 0x0C040003 : State) = true
      ∧ (grain (tCode 0x0C040003 : State) (0 : GrainNo)).insn = none
      ∧ (grain (tCode 0x0C040003 : State) (0 : GrainNo)).loop0 = none
      ∧ (grain (tCode 0x0C040003 : State) (0 : GrainNo)).loop1 = none ∧ bits (0x0C040003 : Nat) 0 18 ≠ 0
      ∧ majorKnown (majorOf (tget 0#32 (grain (tCode 0x0C040003 : State) (0 : GrainNo)).store (((grain (tCode 0x0C040003 : State) (0 : GrainNo)).pc + 1) % 2048)).toNat) = true)
    ∧ (atWord 0x03 (0x0C040000 : Nat) (0 : GrainNo) (tCode 0x0C040000 : State) = true
      ∧ (grain (tCode 0x0C040000 : State) (0 : GrainNo)).insn = none
      ∧ (grain (tCode 0x0C040000 : State) (0 : GrainNo)).loop0 = none
      ∧ (grain (tCode 0x0C040000 : State) (0 : GrainNo)).loop1 = none ∧ bits (0x0C040000 : Nat) 0 18 = 0
      ∧ majorKnown (majorOf (tget 0#32 (grain (tCode 0x0C040000 : State) (0 : GrainNo)).store (((grain (tCode 0x0C040000 : State) (0 : GrainNo)).pc + 2 + bits (0x0C040000 : Nat) 18 8) % 2048)).toNat) = true)
    ∧ (atWord 0x04 (0x10044000 : Nat) (0 : GrainNo) tLoop = true ∧ (grain tLoop (0 : GrainNo)).insn = none
      ∧ (grain tLoop (0 : GrainNo)).loop0 = some lA ∧ (grain tLoop (0 : GrainNo)).loop1 = none
      ∧ bits (0x10044000 : Nat) 0 14 = 0
      ∧ ((grain tLoop (0 : GrainNo)).pc + 1 + 2048 - lA.first) % 2048 + bits (0x10044000 : Nat) 18 8 ≤ lA.len
      ∧ sreg (grain tLoop (0 : GrainNo)) (bits (0x10044000 : Nat) 14 4) ≠ 0#32
      ∧ majorKnown (majorOf (tget 0#32 (grain tLoop (0 : GrainNo)).store (((grain tLoop (0 : GrainNo)).pc + 1) % 2048)).toNat) = true)
    ∧ (atWord 0x02 (0x08000000 : Nat) (0 : GrainNo) tLoopEnd = true ∧ (grain tLoopEnd (0 : GrainNo)).insn = none
      ∧ (grain tLoopEnd (0 : GrainNo)).loop0 = some lB ∧ (grain tLoopEnd (0 : GrainNo)).loop1 = none
      ∧ bits (0x08000000 : Nat) 0 26 = 0 ∧ ((grain tLoopEnd (0 : GrainNo)).pc + 2048 - lB.first) % 2048 = lB.len
      ∧ lB.index + 1 < lB.count
      ∧ majorKnown (majorOf (tget 0#32 (grain tLoopEnd (0 : GrainNo)).store lB.first).toNat) = true)
    ∧ (atWord 0x05 (0x16000004 : Nat) (0 : GrainNo) (tCode 0x16000004 : State) = true
      ∧ (grain (tCode 0x16000004 : State) (0 : GrainNo)).insn = none
      ∧ (grain (tCode 0x16000004 : State) (0 : GrainNo)).loop0 = none
      ∧ (grain (tCode 0x16000004 : State) (0 : GrainNo)).loop1 = none
      ∧ brTaken (bits (0x16000004 : Nat) 22 4) (sreg (grain (tCode 0x16000004 : State) (0 : GrainNo)) (bits (0x16000004 : Nat) 18 4)) (sreg (grain (tCode 0x16000004 : State) (0 : GrainNo)) (bits (0x16000004 : Nat) 14 4)) = some true
      ∧ majorKnown (majorOf (tget 0#32 (grain (tCode 0x16000004 : State) (0 : GrainNo)).store ((BitVec.ofNat 32 ((grain (tCode 0x16000004 : State) (0 : GrainNo)).pc + 1) + (BitVec.ofNat 14 (bits (0x16000004 : Nat) 0 14)).signExtend 32).toNat % 2048)).toNat) = true)
    ∧ (atWord 0x05 (0x14400004 : Nat) (0 : GrainNo) (tCode 0x14400004 : State) = true
      ∧ (grain (tCode 0x14400004 : State) (0 : GrainNo)).insn = none
      ∧ brTaken (bits (0x14400004 : Nat) 22 4) (sreg (grain (tCode 0x14400004 : State) (0 : GrainNo)) (bits (0x14400004 : Nat) 18 4)) (sreg (grain (tCode 0x14400004 : State) (0 : GrainNo)) (bits (0x14400004 : Nat) 14 4)) = some false
      ∧ nextKnown (grain (tCode 0x14400004 : State) (0 : GrainNo)) (grain (tCode 0x14400004 : State) (0 : GrainNo)).pc = true) := by
  refine ⟨?_, ?_, ?_, ?_, ?_, ?_, ?_, ?_, ?_, ?_⟩ <;> decide +kernel

theorem wit_TilthScalars :
    (atWord 0x08 (0x20444000 : Nat) (0 : GrainNo) (tCode 0x20444000 : State) = true ∧ bits (0x20444000 : Nat) 0 8 = 0
      ∧ bits (0x20444000 : Nat) 8 6 < 0x10
      ∧ salu (bits (0x20444000 : Nat) 8 6) (sreg (grain (tCode 0x20444000 : State) (0 : GrainNo)) (bits (0x20444000 : Nat) 18 4)) (sreg (grain (tCode 0x20444000 : State) (0 : GrainNo)) (bits (0x20444000 : Nat) 14 4)) = some (4 : U32)
      ∧ nextKnown (grain (tCode 0x20444000 : State) (0 : GrainNo)) (grain (tCode 0x20444000 : State) (0 : GrainNo)).pc = true)
    ∧ (atWord 0x08 (0x20401000 : Nat) (0 : GrainNo) tLoopEnd2 = true ∧ bits (0x20401000 : Nat) 0 8 = 0
      ∧ bits (0x20401000 : Nat) 8 6 = 0x10 ∧ (grain tLoopEnd2 (0 : GrainNo)).loop0 = some lB
      ∧ nextKnown (grain tLoopEnd2 (0 : GrainNo)) (grain tLoopEnd2 (0 : GrainNo)).pc = true)
    ∧ (atWord 0x09 (0x24440003 : Nat) (0 : GrainNo) (tInsn 0x24440003 : State) = true
      ∧ nextKnown (grain (tInsn 0x24440003 : State) (0 : GrainNo)) (grain (tInsn 0x24440003 : State) (0 : GrainNo)).pc = true)
    ∧ (atWord 0x0A (0x28440003 : Nat) (0 : GrainNo) (tCode 0x28440003 : State) = true
      ∧ nextKnown (grain (tCode 0x28440003 : State) (0 : GrainNo)) (grain (tCode 0x28440003 : State) (0 : GrainNo)).pc = true)
    ∧ (atWord 0x0B (0x2C400003 : Nat) (0 : GrainNo) (tCode 0x2C400003 : State) = true
      ∧ nextKnown (grain (tCode 0x2C400003 : State) (0 : GrainNo)) (grain (tCode 0x2C400003 : State) (0 : GrainNo)).pc = true)
    ∧ (atWord 0x0C (0x30460003 : Nat) (0 : GrainNo) (tCode 0x30460003 : State) = true ∧ bits (0x30460003 : Nat) 5 11 = 0
      ∧ bits (0x30460003 : Nat) 16 2 ≠ 3
      ∧ nextKnown (grain (tCode 0x30460003 : State) (0 : GrainNo)) (grain (tCode 0x30460003 : State) (0 : GrainNo)).pc = true)
    ∧ (atWord 0x0C (0x30470003 : Nat) (0 : GrainNo) (tCode 0x30470003 : State) = true ∧ bits (0x30470003 : Nat) 16 2 = 3)
    ∧ (atWord 0x0D (0x34444000 : Nat) (0 : GrainNo) (tCode 0x34444000 : State) = true ∧ bits (0x34444000 : Nat) 0 14 = 0
      ∧ nextKnown (grain (tCode 0x34444000 : State) (0 : GrainNo)) (grain (tCode 0x34444000 : State) (0 : GrainNo)).pc = true)
    ∧ (atWord 0x0E (0x38444000 : Nat) (0 : GrainNo) (tCode 0x38444000 : State) = true ∧ bits (0x38444000 : Nat) 0 14 = 0
      ∧ nextKnown (grain (tCode 0x38444000 : State) (0 : GrainNo)) (grain (tCode 0x38444000 : State) (0 : GrainNo)).pc = true) := by
  refine ⟨?_, ?_, ?_, ?_, ?_, ?_, ?_, ?_, ?_⟩ <;> decide +kernel

theorem wit_TilthScratch :
    (atWord 0x12 (0x48400000 : Nat) (0 : GrainNo) (tCode 0x48400000 : State) = true ∧ bits (0x48400000 : Nat) 0 1 = 0
      ∧ scratchBad (memAddr (grain (tCode 0x48400000 : State) (0 : GrainNo)) (0x48400000 : Nat) 64).1 64 = false
      ∧ nextKnown (grain (tCode 0x48400000 : State) (0 : GrainNo)) (grain (tCode 0x48400000 : State) (0 : GrainNo)).pc = true)
    ∧ (atWord 0x14 (0x50400000 : Nat) (0 : GrainNo) (tCode 0x50400000 : State) = true ∧ bits (0x50400000 : Nat) 0 1 = 0
      ∧ scratchBad (memAddr (grain (tCode 0x50400000 : State) (0 : GrainNo)) (0x50400000 : Nat) 4).1 4 = false
      ∧ nextKnown (grain (tCode 0x50400000 : State) (0 : GrainNo)) (grain (tCode 0x50400000 : State) (0 : GrainNo)).pc = true)
    ∧ (atWord 0x18 (0x60400000 : Nat) (0 : GrainNo) (tCode 0x60400000 : State) = true ∧ bits (0x60400000 : Nat) 0 1 = 0
      ∧ bits (0x60400000 : Nat) 24 2 = 0
      ∧ scratchBad (memAddr (grain (tCode 0x60400000 : State) (0 : GrainNo)) (0x60400000 : Nat) 128).1 128 = false
      ∧ nextKnown (grain (tCode 0x60400000 : State) (0 : GrainNo)) (grain (tCode 0x60400000 : State) (0 : GrainNo)).pc = true)
    ∧ (atWord 0x13 (0x4C400000 : Nat) (0 : GrainNo) (tCode 0x4C400000 : State) = true ∧ bits (0x4C400000 : Nat) 0 1 = 0
      ∧ scratchBad (memAddr (grain (tCode 0x4C400000 : State) (0 : GrainNo)) (0x4C400000 : Nat) 64).1 64 = false
      ∧ nextKnown (grain (tCode 0x4C400000 : State) (0 : GrainNo)) (grain (tCode 0x4C400000 : State) (0 : GrainNo)).pc = true)
    ∧ (atWord 0x15 (0x54400000 : Nat) (0 : GrainNo) (tCode 0x54400000 : State) = true ∧ bits (0x54400000 : Nat) 0 1 = 0
      ∧ scratchBad (memAddr (grain (tCode 0x54400000 : State) (0 : GrainNo)) (0x54400000 : Nat) 4).1 4 = false
      ∧ nextKnown (grain (tCode 0x54400000 : State) (0 : GrainNo)) (grain (tCode 0x54400000 : State) (0 : GrainNo)).pc = true)
    ∧ (atWord 0x19 (0x64400000 : Nat) (0 : GrainNo) (tCode 0x64400000 : State) = true ∧ bits (0x64400000 : Nat) 0 1 = 0
      ∧ bits (0x64400000 : Nat) 24 2 = 0
      ∧ scratchBad (memAddr (grain (tCode 0x64400000 : State) (0 : GrainNo)) (0x64400000 : Nat) 128).1 128 = false
      ∧ nextKnown (grain (tCode 0x64400000 : State) (0 : GrainNo)) (grain (tCode 0x64400000 : State) (0 : GrainNo)).pc = true)
    ∧ (atWord 0x12 (0x48400400 : Nat) (0 : GrainNo) (tCode 0x48400400 : State) = true ∧ bits (0x48400400 : Nat) 0 1 = 0
      ∧ scratchBad (memAddr (grain (tCode 0x48400400 : State) (0 : GrainNo)) (0x48400400 : Nat) 64).1 64 = true)
    ∧ (atWord 0x16 (0x58430000 : Nat) (0 : GrainNo) (tCode 0x58430000 : State) = true ∧ bits (0x58430000 : Nat) 0 16 = 0
      ∧ nextKnown (grain (tCode 0x58430000 : State) (0 : GrainNo)) (grain (tCode 0x58430000 : State) (0 : GrainNo)).pc = true)
    ∧ (atWord 0x17 (0x5C430000 : Nat) (0 : GrainNo) (tCode 0x5C430000 : State) = true ∧ bits (0x5C430000 : Nat) 0 16 = 0
      ∧ bits (0x5C430000 : Nat) 16 6 < 56
      ∧ nextKnown (grain (tCode 0x5C430000 : State) (0 : GrainNo)) (grain (tCode 0x5C430000 : State) (0 : GrainNo)).pc = true)
    ∧ (atWord 0x17 (0x5C780000 : Nat) (0 : GrainNo) (tCode 0x5C780000 : State) = true ∧ bits (0x5C780000 : Nat) 0 16 = 0
      ∧ 56 ≤ bits (0x5C780000 : Nat) 16 6) := by
  refine ⟨?_, ?_, ?_, ?_, ?_, ?_, ?_, ?_, ?_, ?_⟩ <;> decide +kernel

theorem wit_TilthColumns :
    (atWord 0x10 (0x40400000 : Nat) (0 : GrainNo) (tCode 0x40400000 : State) = true ∧ bits (0x40400000 : Nat) 0 1 = 0
      ∧ pageBad (grain (tCode 0x40400000 : State) (0 : GrainNo)) (memAddr (grain (tCode 0x40400000 : State) (0 : GrainNo)) (0x40400000 : Nat) 64).1 = false
      ∧ openAndClean (tCode 0x40400000 : State) (0 : GrainNo) (addrRow (memAddr (grain (tCode 0x40400000 : State) (0 : GrainNo)) (0x40400000 : Nat) 64).1) [addrCol (memAddr (grain (tCode 0x40400000 : State) (0 : GrainNo)) (0x40400000 : Nat) 64).1] = true
      ∧ nextKnown (grain (tCode 0x40400000 : State) (0 : GrainNo)) (grain (tCode 0x40400000 : State) (0 : GrainNo)).pc = true)
    ∧ (atWord 0x10 (0x40400000 : Nat) (0 : GrainNo) (setGrain 0 (codeGrain 0x40400000) tDie : State) = true
      ∧ bits (0x40400000 : Nat) 0 1 = 0
      ∧ pageBad (grain (setGrain 0 (codeGrain 0x40400000) tDie : State) (0 : GrainNo)) (memAddr (grain (setGrain 0 (codeGrain 0x40400000) tDie : State) (0 : GrainNo)) (0x40400000 : Nat) 64).1 = false
      ∧ deferredOf (setGrain 0 (codeGrain 0x40400000) tDie : State) (0 : GrainNo) = 0
      ∧ rowOf (setGrain 0 (codeGrain 0x40400000) tDie : State) (0 : GrainNo) 0 ≠ some (addrRow (memAddr (grain (setGrain 0 (codeGrain 0x40400000) tDie : State) (0 : GrainNo)) (0x40400000 : Nat) 64).1)
      ∧ (pairWords (0 : GrainNo) (addrRow (memAddr (grain (setGrain 0 (codeGrain 0x40400000) tDie : State) (0 : GrainNo)) (0x40400000 : Nat) 64).1) (addrCol (memAddr (grain (setGrain 0 (codeGrain 0x40400000) tDie : State) (0 : GrainNo)) (0x40400000 : Nat) 64).1)).all (fun c => decide (chkOf (setGrain 0 (codeGrain 0x40400000) tDie : State) c = 0)) = true
      ∧ nextKnown (grain (setGrain 0 (codeGrain 0x40400000) tDie : State) (0 : GrainNo)) (grain (setGrain 0 (codeGrain 0x40400000) tDie : State) (0 : GrainNo)).pc = true)
    ∧ (atWord 0x10 (0x40400000 : Nat) (0 : GrainNo) (tNoPages 0x40400000 : State) = true ∧ bits (0x40400000 : Nat) 0 1 = 0
      ∧ pageBad (grain (tNoPages 0x40400000 : State) (0 : GrainNo)) (memAddr (grain (tNoPages 0x40400000 : State) (0 : GrainNo)) (0x40400000 : Nat) 64).1 = true)
    ∧ (atWord 0x10 (0x40400000 : Nat) (0 : GrainNo) (tPoisonCol 0x40400000 : State) = true ∧ bits (0x40400000 : Nat) 0 1 = 0
      ∧ pageBad (grain (tPoisonCol 0x40400000 : State) (0 : GrainNo)) (memAddr (grain (tPoisonCol 0x40400000 : State) (0 : GrainNo)) (0x40400000 : Nat) 64).1 = false
      ∧ (pairWords (0 : GrainNo) (addrRow (memAddr (grain (tPoisonCol 0x40400000 : State) (0 : GrainNo)) (0x40400000 : Nat) 64).1) (addrCol (memAddr (grain (tPoisonCol 0x40400000 : State) (0 : GrainNo)) (0x40400000 : Nat) 64).1)).any (fun c => decide (2 ≤ chkOf (tPoisonCol 0x40400000 : State) c)) = true)
    ∧ (atWord 0x1A (0x68400000 : Nat) (0 : GrainNo) (tCode 0x68400000 : State) = true ∧ bits (0x68400000 : Nat) 0 1 = 0
      ∧ bits (0x68400000 : Nat) 24 2 = 0
      ∧ pageBad (grain (tCode 0x68400000 : State) (0 : GrainNo)) (memAddr (grain (tCode 0x68400000 : State) (0 : GrainNo)) (0x68400000 : Nat) 128).1 = false
      ∧ openAndClean (tCode 0x68400000 : State) (0 : GrainNo) (addrRow (memAddr (grain (tCode 0x68400000 : State) (0 : GrainNo)) (0x68400000 : Nat) 128).1) (accCols (memAddr (grain (tCode 0x68400000 : State) (0 : GrainNo)) (0x68400000 : Nat) 128).1) = true
      ∧ nextKnown (grain (tCode 0x68400000 : State) (0 : GrainNo)) (grain (tCode 0x68400000 : State) (0 : GrainNo)).pc = true)
    ∧ (atWord 0x11 (0x44400000 : Nat) (0 : GrainNo) (tCode 0x44400000 : State) = true ∧ bits (0x44400000 : Nat) 0 1 = 0
      ∧ bitAt (0x44400000 : Nat) 3 = false
      ∧ pageBad (grain (tCode 0x44400000 : State) (0 : GrainNo)) (memAddr (grain (tCode 0x44400000 : State) (0 : GrainNo)) (0x44400000 : Nat) 64).1 = false
      ∧ nextKnown (grain (tCode 0x44400000 : State) (0 : GrainNo)) (grain (tCode 0x44400000 : State) (0 : GrainNo)).pc = true)
    ∧ (atWord 0x1B (0x6C400000 : Nat) (0 : GrainNo) (tCode 0x6C400000 : State) = true ∧ bits (0x6C400000 : Nat) 0 1 = 0
      ∧ bits (0x6C400000 : Nat) 24 2 = 0
      ∧ pageBad (grain (tCode 0x6C400000 : State) (0 : GrainNo)) (memAddr (grain (tCode 0x6C400000 : State) (0 : GrainNo)) (0x6C400000 : Nat) 128).1 = false
      ∧ nextKnown (grain (tCode 0x6C400000 : State) (0 : GrainNo)) (grain (tCode 0x6C400000 : State) (0 : GrainNo)).pc = true) := by
  refine ⟨?_, ?_, ?_, ?_, ?_, ?_, ?_⟩ <;> decide +kernel

theorem wit_TilthVectors :
    (atWord 0x20 (0x80444000 : Nat) (0 : GrainNo) (tCode 0x80444000 : State) = true ∧ bits (0x80444000 : Nat) 12 2 ≠ 3
      ∧ bits (0x80444000 : Nat) 3 6 ≤ 8 ∧ bits (0x80444000 : Nat) 0 3 = 0
      ∧ nextKnown (grain (tCode 0x80444000 : State) (0 : GrainNo)) (grain (tCode 0x80444000 : State) (0 : GrainNo)).pc = true)
    ∧ (atWord 0x20 (0x80447000 : Nat) (0 : GrainNo) (tCode 0x80447000 : State) = true
      ∧ (bits (0x80447000 : Nat) 12 2 = 3 ∨ 8 < bits (0x80447000 : Nat) 3 6))
    ∧ (atWord 0x21 (0x84442000 : Nat) (0 : GrainNo) (tCode 0x84442000 : State) = true ∧ bits (0x84442000 : Nat) 12 2 ≠ 3
      ∧ bits (0x84442000 : Nat) 0 12 = 0 ∧ bits (0x84442000 : Nat) 14 4 = 0
      ∧ nextKnown (grain (tCode 0x84442000 : State) (0 : GrainNo)) (grain (tCode 0x84442000 : State) (0 : GrainNo)).pc = true)
    ∧ (atWord 0x22 (0x88444000 : Nat) (0 : GrainNo) (tCode 0x88444000 : State) = true ∧ bits (0x88444000 : Nat) 12 2 ≠ 3
      ∧ bits (0x88444000 : Nat) 3 6 ≤ 2 ∧ bits (0x88444000 : Nat) 0 3 = 0 ∧ bits (0x88444000 : Nat) 9 3 = 0
      ∧ bits (0x88444000 : Nat) 24 2 = 0
      ∧ nextKnown (grain (tCode 0x88444000 : State) (0 : GrainNo)) (grain (tCode 0x88444000 : State) (0 : GrainNo)).pc = true)
    ∧ (atWord 0x28 (0xA0444000 : Nat) (0 : GrainNo) (tCode 0xA0444000 : State) = true ∧ bits (0xA0444000 : Nat) 12 2 = 0
      ∧ bits (0xA0444000 : Nat) 0 9 = 0 ∧ bits (0xA0444000 : Nat) 24 2 = 0 ∧ bitAt (0xA0444000 : Nat) 11 = false
      ∧ nextKnown (grain (tCode 0xA0444000 : State) (0 : GrainNo)) (grain (tCode 0xA0444000 : State) (0 : GrainNo)).pc = true)
    ∧ (atWord 0x28 (0xA0445000 : Nat) (0 : GrainNo) (tCode 0xA0445000 : State) = true ∧ bits (0xA0445000 : Nat) 12 2 = 1
      ∧ bits (0xA0445000 : Nat) 0 9 = 0 ∧ bits (0xA0445000 : Nat) 24 2 = 0 ∧ bitAt (0xA0445000 : Nat) 11 = false
      ∧ nextKnown (grain (tCode 0xA0445000 : State) (0 : GrainNo)) (grain (tCode 0xA0445000 : State) (0 : GrainNo)).pc = true)
    ∧ (atWord 0x29 (0xA4000000 : Nat) (0 : GrainNo) (tCode 0xA4000000 : State) = true ∧ bitAt (0xA4000000 : Nat) 6 = false
      ∧ bits (0xA4000000 : Nat) 0 5 = 0 ∧ bits (0xA4000000 : Nat) 14 2 = 0
      ∧ pageBad (grain (tCode 0xA4000000 : State) (0 : GrainNo)) (sreg (grain (tCode 0xA4000000 : State) (0 : GrainNo)) (bits (0xA4000000 : Nat) 16 4)).toNat = false
      ∧ openAndClean (tCode 0xA4000000 : State) (0 : GrainNo) (addrRow (sreg (grain (tCode 0xA4000000 : State) (0 : GrainNo)) (bits (0xA4000000 : Nat) 16 4)).toNat) [addrCol (sreg (grain (tCode 0xA4000000 : State) (0 : GrainNo)) (bits (0xA4000000 : Nat) 16 4)).toNat] = true
      ∧ nextKnown (grain (tCode 0xA4000000 : State) (0 : GrainNo)) (grain (tCode 0xA4000000 : State) (0 : GrainNo)).pc = true)
    ∧ (atWord 0x2A (0xA8000000 : Nat) (0 : GrainNo) (tCode 0xA8000000 : State) = true ∧ bits (0xA8000000 : Nat) 0 10 = 0
      ∧ pageBad (grain (tCode 0xA8000000 : State) (0 : GrainNo)) (sreg (grain (tCode 0xA8000000 : State) (0 : GrainNo)) (bits (0xA8000000 : Nat) 16 4)).toNat = false
      ∧ openAndClean (tCode 0xA8000000 : State) (0 : GrainNo) (addrRow (sreg (grain (tCode 0xA8000000 : State) (0 : GrainNo)) (bits (0xA8000000 : Nat) 16 4)).toNat) [addrCol (sreg (grain (tCode 0xA8000000 : State) (0 : GrainNo)) (bits (0xA8000000 : Nat) 16 4)).toNat] = true
      ∧ nextKnown (grain (tCode 0xA8000000 : State) (0 : GrainNo)) (grain (tCode 0xA8000000 : State) (0 : GrainNo)).pc = true)
    ∧ (atWord 0x2B (0xAC000000 : Nat) (0 : GrainNo) (tCode 0xAC000000 : State) = true ∧ bits (0xAC000000 : Nat) 8 6 = 0
      ∧ bits (0xAC000000 : Nat) 0 8 = 0
      ∧ nextKnown (grain (tCode 0xAC000000 : State) (0 : GrainNo)) (grain (tCode 0xAC000000 : State) (0 : GrainNo)).pc = true)
    ∧ (atWord 0x2B (0xAC000100 : Nat) (0 : GrainNo) (tCode 0xAC000100 : State) = true
      ∧ bits (0xAC000100 : Nat) 8 6 ∈ [1, 2, 3, 4, 5, 6, 8] ∧ bits (0xAC000100 : Nat) 0 8 = 0
      ∧ nextKnown (grain (tCode 0xAC000100 : State) (0 : GrainNo)) (grain (tCode 0xAC000100 : State) (0 : GrainNo)).pc = true)
    ∧ (atWord 0x2B (0xAC000900 : Nat) (0 : GrainNo) (tCode 0xAC000900 : State) = true
      ∧ (bits (0xAC000900 : Nat) 8 6 = 9 ∨ bits (0xAC000900 : Nat) 8 6 = 10) ∧ bits (0xAC000900 : Nat) 0 8 = 0
      ∧ nextKnown (grain (tCode 0xAC000900 : State) (0 : GrainNo)) (grain (tCode 0xAC000900 : State) (0 : GrainNo)).pc = true)
    ∧ (atWord 0x2B (0xAC000B00 : Nat) (0 : GrainNo) (tCode 0xAC000B00 : State) = true
      ∧ (bits (0xAC000B00 : Nat) 8 6 = 11 ∨ bits (0xAC000B00 : Nat) 8 6 = 12) ∧ bits (0xAC000B00 : Nat) 0 8 = 0
      ∧ nextKnown (grain (tCode 0xAC000B00 : State) (0 : GrainNo)) (grain (tCode 0xAC000B00 : State) (0 : GrainNo)).pc = true)
    ∧ (atWord 0x2B (0xAC000700 : Nat) (0 : GrainNo) (tCode 0xAC000700 : State) = true ∧ bits (0xAC000700 : Nat) 8 6 = 7
      ∧ bits (0xAC000700 : Nat) 0 8 = 0
      ∧ nextKnown (grain (tCode 0xAC000700 : State) (0 : GrainNo)) (grain (tCode 0xAC000700 : State) (0 : GrainNo)).pc = true)
    ∧ (atWord 0x2C (0xB0000000 : Nat) (0 : GrainNo) (tCode 0xB0000000 : State) = true ∧ bits (0xB0000000 : Nat) 18 2 ≤ 1
      ∧ bits (0xB0000000 : Nat) 0 18 = 0
      ∧ nextKnown (grain (tCode 0xB0000000 : State) (0 : GrainNo)) (grain (tCode 0xB0000000 : State) (0 : GrainNo)).pc = true) := by
  refine ⟨?_, ?_, ?_, ?_, ?_, ?_, ?_, ?_, ?_, ?_, ?_, ?_, ?_, ?_⟩ <;> decide +kernel

theorem wit_SeamVectorsPass :
    (atWord 0x30 (0xC0000000 : Nat) (0 : GrainNo) (tCode 0xC0000000 : State) = true ∧ bits (0xC0000000 : Nat) 0 18 = 0
      ∧ bits (0xC0000000 : Nat) 22 3 = 0
      ∧ nearest (tCode 0xC0000000 : State) (0 : GrainNo) (bitAt (0xC0000000 : Nat) 25) = some (1 : Nat)
      ∧ seamLoad (grain (tCode 0xC0000000 : State) (1 : Nat)) (bitAt (0xC0000000 : Nat) 25) < 4
      ∧ (1 : Nat) ≠ (0 : GrainNo).val
      ∧ nextKnown (grain (tCode 0xC0000000 : State) (0 : GrainNo)) (grain (tCode 0xC0000000 : State) (0 : GrainNo)).pc = true)
    ∧ (atWord 0x30 (0xC2000000 : Nat) (0 : GrainNo) (tCode 0xC2000000 : State) = true ∧ bits (0xC2000000 : Nat) 0 18 = 0
      ∧ bits (0xC2000000 : Nat) 22 3 = 0
      ∧ nearest (tCode 0xC2000000 : State) (0 : GrainNo) (bitAt (0xC2000000 : Nat) 25) = none)
    ∧ (atWord 0x30 (0xC2000000 : Nat) (0 : GrainNo) (tCode 0xC2000000 : State) = true ∧ bits (0xC2000000 : Nat) 0 18 = 0
      ∧ bits (0xC2000000 : Nat) 22 3 = 0
      ∧ ((bitAt (0xC2000000 : Nat) 25 = false ∧ (0 : GrainNo).val % 16 = 15) ∨ (bitAt (0xC2000000 : Nat) 25 = true ∧ (0 : GrainNo).val % 16 = 0)))
    ∧ (atWord 0x31 (0xC4000000 : Nat) (0 : GrainNo) (tSeam 0xC4000000 : State) = true ∧ bits (0xC4000000 : Nat) 0 18 = 0
      ∧ bits (0xC4000000 : Nat) 22 3 = 0
      ∧ (grain (tSeam 0xC4000000) 0 : Grain) = grain (tSeam 0xC4000000 : State) (0 : GrainNo)
      ∧ (if bitAt (0xC4000000 : Nat) 25 then (grain (tSeam 0xC4000000) 0 : Grain).recvDown else (grain (tSeam 0xC4000000) 0 : Grain).recvUp).head? = some (7 : Line)
      ∧ nextKnown (grain (tSeam 0xC4000000 : State) (0 : GrainNo)) (grain (tSeam 0xC4000000 : State) (0 : GrainNo)).pc = true)
    ∧ (atWord 0x31 (0xC4000000 : Nat) (0 : GrainNo) (tCode 0xC4000000 : State) = true ∧ bits (0xC4000000 : Nat) 0 18 = 0
      ∧ bits (0xC4000000 : Nat) 22 3 = 0
      ∧ (if bitAt (0xC4000000 : Nat) 25 then (grain (tCode 0xC4000000 : State) (0 : GrainNo)).recvDown else (grain (tCode 0xC4000000 : State) (0 : GrainNo)).recvUp) = [])
    ∧ (atWord 0x32 (0xC8000000 : Nat) (0 : GrainNo) (tSeam 0xC8000000 : State) = true ∧ bits (0xC8000000 : Nat) 0 14 = 0
      ∧ bits (0xC8000000 : Nat) 22 1 = 0 ∧ bits (0xC8000000 : Nat) 23 2 = 0
      ∧ (grain (tSeam 0xC8000000) 0 : Grain) = grain (tSeam 0xC8000000 : State) (0 : GrainNo)
      ∧ (if bitAt (0xC8000000 : Nat) 25 then (grain (tSeam 0xC8000000) 0 : Grain).recvDown else (grain (tSeam 0xC8000000) 0 : Grain).recvUp).head? = some (7 : Line)
      ∧ nextKnown (grain (tSeam 0xC8000000 : State) (0 : GrainNo)) (grain (tSeam 0xC8000000 : State) (0 : GrainNo)).pc = true)
    ∧ ((grain tFlying (0 : GrainNo)).inflightUp = (7 : Line) :: ([] : List Line))
    ∧ ((grain tFlying (0 : GrainNo)).inflightDown = (9 : Line) :: ([] : List Line)) := by
  refine ⟨?_, ?_, ?_, ?_, ?_, ?_, ?_, ?_⟩ <;> decide +kernel

theorem wit_RefreshFollowsTemperature :
    (tBc.boot.relBc.getLsbD (0 : Chan).val = true ∧ rankUp tBc (0 : Chan) (0 : Rank) = true
      ∧ rankBankOwn tBc (0 : Chan) (0 : Rank) (3 : BankNo) = .controller
      ∧ bankAsked tBc (0 : Chan) (0 : Rank) (3 : BankNo) = false)
    ∧ (tAsked.boot.relBc.getLsbD (0 : Chan).val = true ∧ rankUp tAsked (0 : Chan) (0 : Rank) = true
      ∧ rankBankOwn tAsked (0 : Chan) (0 : Rank) (3 : BankNo) = .controller
      ∧ bankAsked tAsked (0 : Chan) (0 : Rank) (3 : BankNo) = true
      ∧ owedOf tAsked (0 : Chan) (0 : Rank) (3 : BankNo) < 7)
    ∧ (tBcBlind.boot.relBc.getLsbD (0 : Chan).val = true ∧ rankUp tBcBlind (0 : Chan) (0 : Rank) = true
      ∧ rankBankOwn tBcBlind (0 : Chan) (0 : Rank) (0 : BankNo) = .blind)
    ∧ (rankExists (0 : Chan) (0 : Rank) = true ∧ rankBankOwn tGuard (0 : Chan) (0 : Rank) (0 : BankNo) = .polled
      ∧ 8 ≤ owedOf tGuard (0 : Chan) (0 : Rank) (0 : BankNo)
      ∧ (∀ d < 4, (grain tGuard (grainAt (0 : Chan) (0 : Rank) d ((0 : BankNo) / 2))).own = .polled → (grain tGuard (grainAt (0 : Chan) (0 : Rank) d ((0 : BankNo) / 2))).state = .running))
    ∧ ((bc tNbr (0 : Chan)).nbr = ((0 : Nat), (3 : Nat), (5 : Nat)) :: ([] : List (Nat × Nat × Nat))
      ∧ rankBankOwn tNbr (0 : Chan) (0 : Nat) (3 : Nat) = .controller ∧ rankHears tNbr (0 : Chan) (0 : Nat) = true)
    ∧ (tBc.boot.relBc.getLsbD (0 : Chan).val = true ∧ rankUp tBc (0 : Chan) (0 : Rank) = true
      ∧ ([83, 20, 20, 20] : List Int).length = 4 ∧ (∀ x ∈ ([83, 20, 20, 20] : List Int), -128 ≤ x ∧ x ≤ 127)
      ∧ ([83, 20, 20, 20] : List Int).any (fun x => decide (83 ≤ x)) = true)
    ∧ (tBc.boot.relBc.getLsbD (0 : Chan).val = true ∧ rankUp tBc (0 : Chan) (0 : Rank) = true
      ∧ ([80, 20, 20, 20] : List Int).length = 4 ∧ ([80, 20, 20, 20] : List Int).all (fun x => decide (x ≤ 80)) = true) := by
  refine ⟨?_, ?_, ?_, ?_, ?_, ?_, ?_⟩ <;> decide +kernel

theorem wit_RequestsAndPollsAreServed :
    (unitFree tBc (0 : Chan) wrReq = true ∧ wrReq.write = true
      ∧ noTurn tBc (reqLoc tBc (0 : Chan) wrReq).c wrReq.port = true)
    ∧ (unitFree tBcOpen (0 : Chan) rdReq = true ∧ rdReq.write = false ∧ rdReq.flips = []
      ∧ allOpen tBcOpen (reqLoc tBcOpen (0 : Chan) rdReq).c (reqLoc tBcOpen (0 : Chan) rdReq).r (reqLoc tBcOpen (0 : Chan) rdReq).bank (reqLoc tBcOpen (0 : Chan) rdReq).row = true)
    ∧ (tBcBlind.boot.relBc.getLsbD (0 : Chan).val = true
      ∧ (serveReq (0 : Chan) rdReq tBcBlind = none ∨ servable tBcBlind (0 : Chan) ≠ []))
    ∧ ((bc tHeldWr (0 : Chan)).heldAct = [heldW] ∧ (∀ r < 3, p1At tHeldWr (0 : Chan) r = [])
      ∧ (serveReq (0 : Chan) heldW.req tHeldWr).isSome = true
      ∧ (reqLoc tHeldWr (0 : Chan) heldW.req).c = (0 : Chan).val ∧ heldW.req.write = true
      ∧ isFenced tHeldWr (0 : Chan) heldW.req.rank = false ∧ noTurn tHeldWr (0 : Chan) heldW.req.port = true)
    ∧ ((bc tTwoWait (0 : Chan)).heldAct = [heldNew, heldOld] ∧ servable tTwoWait (0 : Chan) = [heldNew, heldOld]
      ∧ (bc tTwoWait (0 : Chan)).writes = [] ∧ (bc tTwoWait (0 : Chan)).toWrites = false
      ∧ (∀ p < 8, inPanic tTwoWait (0 : Chan) p = false)
      ∧ urgentAt tTwoWait heldNew.req.port.val heldNew.since = false
      ∧ urgentAt tTwoWait heldOld.req.port.val heldOld.since = true)
    ∧ (rankHears tDieDone (0 : Chan) (0 : Rank) = true ∧ rankWorking tDieDone (0 : Chan) (0 : Rank) = true
      ∧ p1At tDieDone (0 : Chan) (0 : Rank) = [])
    ∧ (rankHears tAlert (0 : Chan) 0 = true ∧ rankHears tAlert (0 : Chan) 1 = true ∧ (0 : Chan).val % 4 ≠ 3
      ∧ (∃ i < 12, (die tAlert ((0 : Chan).val * 12 + i)).cause ≠ 0#8) ∧ p1At tAlert (0 : Chan) 0 = []
      ∧ p1At tAlert (0 : Chan) 1 = []) := by
  refine ⟨?_, ?_, ?_, ?_, ?_, ?_, ?_⟩ <;> decide +kernel

theorem wit_RanksAreReplaced :
    (rankUp (tBad tBc : State) (0 : Chan) (0 : Rank) = true ∧ (tBad tBc : State).boot.relBc.getLsbD (0 : Chan).val = true
      ∧ (0 : Rank).val < 2 ∧ (quadMap (tBad tBc : State) ((0 : Chan) / 4)).failed = none
      ∧ (quadMap (tBad tBc : State) ((0 : Chan) / 4)).spareFor = none
      ∧ (quadMap (tBad tBc : State) ((0 : Chan) / 4)).spareBad = false
      ∧ (tfind (tBad tBc : State).ctl.bad (4 * (0 : Chan).val + (0 : Rank).val)).isSome = true)
    ∧ (rankUp (tBad tSpareBad : State) (0 : Chan) (0 : Rank) = true
      ∧ (tBad tSpareBad : State).boot.relBc.getLsbD (0 : Chan).val = true ∧ (0 : Rank).val < 2
      ∧ (quadMap (tBad tSpareBad : State) ((0 : Chan) / 4)).failed = none
      ∧ (quadMap (tBad tSpareBad : State) ((0 : Chan) / 4)).spareFor = none
      ∧ (quadMap (tBad tSpareBad : State) ((0 : Chan) / 4)).spareBad = true
      ∧ (tfind (tBad tSpareBad : State).ctl.bad (4 * (0 : Chan).val + (0 : Rank).val)).isSome = true)
    ∧ ((quadMap tFailing (0 : Quad)).failed = some (0 : Fin 8) ∧ (quadMap tFailing (0 : Quad)).spareBad = false
      ∧ (quadMap tFailing (0 : Quad)).mig = none ∧ tFailing.boot.phase ≠ 0x05#8)
    ∧ ((quadMap tMigrating (0 : Quad)).mig = some migA ∧ (quadMap tMigrating (0 : Quad)).spareFor = some (0 : Fin 8)
      ∧ migA.paused = false ∧ migA.row < 65536 ∧ migA.bank < 32 ∧ (quadMap tMigrating (0 : Quad)).again = []
      ∧ trising tMigrating.bank.mem = true
      ∧ rankBankOwn tMigrating (quadLogical (0 : Quad) (0 : Fin 8)).1 (quadLogical (0 : Quad) (0 : Fin 8)).2 migA.bank = .controller
      ∧ trising tMigrating.marl.copies = true)
    ∧ ((quadMap tMigBlind (0 : Quad)).mig = some migRun ∧ (quadMap tMigBlind (0 : Quad)).spareFor = some (0 : Fin 8)
      ∧ rankBankOwn tMigBlind (quadLogical (0 : Quad) (0 : Fin 8)).1 (quadLogical (0 : Quad) (0 : Fin 8)).2 migRun.bank ≠ .controller)
    ∧ ((quadMap tMigrated (0 : Quad)).mig = some migEnd ∧ (quadMap tMigrated (0 : Quad)).spareFor = some (0 : Fin 8)
      ∧ 65536 ≤ migEnd.row) := by
  refine ⟨?_, ?_, ?_, ?_, ?_, ?_⟩ <;> decide +kernel

theorem wit_ControllersComeUp :
    (tFlip.boot.relBc.getLsbD (0 : Chan).val = true ∧ rankUp tFlip (0 : Chan) (0 : Rank) = true
      ∧ rankBankOwn tFlip (0 : Chan) (0 : Rank) (0 : BankNo) = .controller ∧ (bc tFlip (0 : Chan)).changing = false
      ∧ (bc tFlip (0 : Chan)).writes.any (fun u => wunitAt u { c := (0 : Chan), r := (0 : Rank), d := 0, bank := (0 : BankNo), row := (0 : RowNo), col := (0 : ColNo) }) = false
      ∧ (∀ d < 4, let k := markOf tFlip (locWord { c := (0 : Chan), r := (0 : Rank), d := d, bank := (0 : BankNo), row := (0 : RowNo), col := (0 : ColNo) }); k.poison = false ∧ k.flips.val + (([] : Flips).getD d 0).val ≤ 1)
      ∧ (∃ d < 4, (markOf tFlip (locWord { c := (0 : Chan), r := (0 : Rank), d := d, bank := (0 : BankNo), row := (0 : RowNo), col := (0 : ColNo) })).flips.val + (([] : Flips).getD d 0).val = 1))
    ∧ (tTraining2.boot.relBc.getLsbD (1 : Chan).val = false ∧ tTraining2.boot.phase = 0x05#8
      ∧ rankExists (1 : Chan) (0 : Rank) = true ∧ rankRetired tTraining2 (1 : Chan) (0 : Rank) = false
      ∧ (die tTraining2 (dieNo (1 : Chan) (0 : Rank) (0 : Die))).inReset = true
      ∧ (quadMap tTraining2 ((1 : Chan) / 4)).failed = none ∧ tTraining2.cnt.held = [])
    ∧ (tTraining2.boot.relBc.getLsbD (1 : Chan).val = false ∧ tTraining2.boot.phase = 0x05#8 ∧ tTraining2.cnt.held = []
      ∧ sweepA.step = 2 ∧ trainPass sweepA = true)
    ∧ ((bc tChanging (0 : Chan)).changing = true ∧ chanQuiet tChanging (0 : Chan) = true
      ∧ rankUp tChanging (0 : Chan) (0 : Rank) = true)
    ∧ ((bc tChanging (0 : Chan)).changing = true ∧ chanQuiet tChanging (0 : Chan) = true) := by
  refine ⟨?_, ?_, ?_, ?_, ?_⟩ <;> decide +kernel

theorem wit_ContextsLoadAndEnd :
    (ctx tLoading (0 : CtxNo).val = some cLoading ∧ cLoading.st = .load ∧ desc tLoading cLoading.place = some dLoading
      ∧ opcodeOf dLoading.words = 0x10
      ∧ loadFault tLoading ((0 : CtxNo).val / 8) { id := BitVec.ofNat 64 (leAt imgGood 0x10 8), len := bits (wordAt dLoading.words 2) 0 24, func := dLoading.func } imgGood (bits (wordAt dLoading.words 2) 24 8) (bits (wordAt dLoading.words 4) 0 16) = none)
    ∧ (ctx tLoading (0 : CtxNo).val = some cLoading ∧ cLoading.st = .load ∧ desc tLoading cLoading.place = some dLoading
      ∧ opcodeOf dLoading.words = 0x10 ∧ leAt ([] : List Byte) 0x00 4 ≠ 0x31495153)
    ∧ (running tSeq (0 : CtxNo) = some cRun)
    ∧ (ctx tStale (0 : CtxNo).val = some cStale ∧ cStale.st ≠ .run
      ∧ ¬ now tStale < cStale.since + BitVec.ofNat 64 (tStale.hub.wdCtx.toNat * 1000000)) := by
  refine ⟨?_, ?_, ?_, ?_⟩ <;> decide +kernel

theorem wit_ContextsIssueOperations :
    (running tSeq (0 : CtxNo) = some cRun ∧ cRun.loops.length < 6 ∧ (3 : BitVec 24) ≠ 0#24)
    ∧ (running tSeq (0 : CtxNo) = some cRun ∧ cRun.loops.length < 6 ∧ (1 : Fin 16).val ∉ cRun.pendVals
      ∧ valOf cRun (1 : Fin 16).val ≠ 0#32)
    ∧ (running tSeq (0 : CtxNo) = some cRun ∧ cRun.loops.length < 6)
    ∧ (running tDeep (0 : CtxNo) = some cDeep ∧ 6 ≤ cDeep.loops.length)
    ∧ (running tSeq (0 : CtxNo) = some cRun ∧ (1 : Fin 16).val ∉ cRun.pendVals ∧ (2 : U32) = (2 : BitVec 18).signExtend 32
      ∧ brTaken (0 : Fin 9).val (valOf cRun (1 : Fin 16).val) (2 : U32) = some true)
    ∧ (running tSeq (0 : CtxNo) = some cRun ∧ cRun.stack.length < 4
      ∧ ((3 : Byte).toNat < 0x10 ∨ (0x20 ≤ (3 : Byte).toNat ∧ (3 : Byte).toNat < 0x40)))
    ∧ (running tSeq (0 : CtxNo) = some cRun ∧ cRun.stack.length < 4 ∧ 0x10 ≤ (0x15 : Byte).toNat ∧ (0x15 : Byte).toNat < 0x20
      ∧ (∀ v < 8, v ∉ cRun.pendVals) ∧ (valOf cRun 0 = 0#32 ∨ valOf cRun 1 = 0#32))
    ∧ (running tRoutine (0 : CtxNo) = some cRoutine ∧ cRoutine.stack.length < 4 ∧ 0x10 ≤ (0x15 : Byte).toNat
      ∧ (0x15 : Byte).toNat < 0x20 ∧ (∀ v < 8, v ∉ cRoutine.pendVals) ∧ valOf cRoutine 0 ≠ 0#32
      ∧ valOf cRoutine 1 ≠ 0#32 ∧ (valOf cRoutine 0).toNat < 2 ^ 24 ∧ (valOf cRoutine 1).toNat ≤ 65536
      ∧ judgePush tRoutine (0 : CtxNo) cRoutine (routinePush tRoutine cRoutine (0x15 : Byte).toNat) = .enter ([] : List (Nat × Nat × Bool)))
    ∧ (running tDeep (0 : CtxNo) = some cDeep ∧ 4 ≤ cDeep.stack.length)
    ∧ (running tSeq (0 : CtxNo) = some cRun ∧ cRun.stack.length < 4 ∧ 0x40 ≤ (0x40 : Byte).toNat)
    ∧ (running tDeep (0 : CtxNo) = some cDeep ∧ cDeep.stack.getLast? = some ((1 : U32), (2 : Nat)))
    ∧ (running tSeq (0 : CtxNo) = some cRun ∧ cRun.stack = [])
    ∧ (running tSeq (0 : CtxNo) = some cRun ∧ (1 : Fin 16).val ∉ cRun.pendVals ∧ (1 : Fin 16).val ∉ cRun.pendVals
      ∧ salu (0 : Fin 16).val (valOf cRun (1 : Fin 16).val) (valOf cRun (1 : Fin 16).val) = some (4 : U32))
    ∧ (running tPendVal (0 : CtxNo) = some cPend ∧ (1 : Fin 16).val ∈ cPend.pendVals)
    ∧ (running tSeq (0 : CtxNo) = some cRun ∧ valSrc cRun (.imm 64 : ValSrc) = .inl (64 : U32))
    ∧ (running tSeq (0 : CtxNo) = some cRun ∧ valSrc cRun (.imm 64 : ValSrc) = .inl (64 : U32))
    ∧ (running tSeq (0 : CtxNo) = some cRun ∧ valSrc cRun (.imm 64 : ValSrc) = .inl (64 : U32)) := by
  refine ⟨?_, ?_, ?_, ?_, ?_, ?_, ?_, ?_, ?_, ?_, ?_, ?_, ?_, ?_, ?_, ?_, ?_⟩
  · decide +kernel
  · decide +kernel
  · decide +kernel
  · decide +kernel
  · decide +kernel
  · decide +kernel
  · decide +kernel
  · exact ⟨by decide +kernel, by decide +kernel, by decide +kernel, by decide +kernel, by decide +kernel, by decide +kernel, by decide +kernel, by decide +kernel, by decide +kernel, wit_routine⟩
  · decide +kernel
  · decide +kernel
  · decide +kernel
  · decide +kernel
  · decide +kernel
  · decide +kernel
  · decide +kernel
  · decide +kernel
  · decide +kernel

theorem wit_PushesEnterQueues :
    (running tSeq (0 : CtxNo) = some cRun
      ∧ judgePush tSeq (0 : CtxNo) cRun pushSlip = .enter ([] : List (Nat × Nat × Bool)) ∧ p1OfCmd pushSlip.cmd = none)
    ∧ (running tSeq (0 : CtxNo) = some cRun
      ∧ judgePush tSeq (0 : CtxNo) cRun pushGrun = .enter ([] : List (Nat × Nat × Bool))
      ∧ p1OfCmd pushGrun.cmd = some ((0, ⟨1, 1⟩, .grun 0) : Nat × GrainSel × P1Kind))
    ∧ (running tSeq (0 : CtxNo) = some cRun ∧ queueCarries pushWrong.queue.val pushWrong.cmd = false)
    ∧ (running tFull (0 : CtxNo) = some cRun ∧ judgePush tFull (0 : CtxNo) cRun pushSlip = .full)
    ∧ (ctx tWaitQ (0 : CtxNo).val = some cWaitQ ∧ cWaitQ.st = .waitQ ∧ cWaitQ.wait = .push pushSlip
      ∧ judgePush tWaitQ (0 : CtxNo) cWaitQ pushSlip = .enter ([] : List (Nat × Nat × Bool))
      ∧ p1OfCmd pushSlip.cmd = none)
    ∧ (ctx tWaitVal (0 : CtxNo).val = some cWaitVal ∧ cWaitVal.st = .waitVal ∧ cWaitVal.wait = .value (1 : Fin 16)
      ∧ (1 : Fin 16).val ∉ cWaitVal.pendVals)
    ∧ (queue tFin (4 : QueueNo).val = cmdFin :: ([] : List QCmd) ∧ cmdFin.fin = true ∧ cmdFin.ctx = some (0 : CtxNo)
      ∧ cmdFin.push.flag = none ∧ cmdFin.push.wire = none) := by
  refine ⟨?_, ?_, ?_, ?_, ?_, ?_, ?_⟩ <;> decide +kernel

theorem wit_FlagsAreOperated :
    (running tSeq (0 : CtxNo) = some cRun
      ∧ ctxFlag tSeq (0 : CtxNo) cRun.func (.loc : FlagSpace) (3 : Nat) false = some (3 : Nat)
      ∧ wordFaulted tSeq (.loc : FlagSpace) (3 : Nat) = false ∧ unwatched tSeq (.loc : FlagSpace) (3 : Nat) = true)
    ∧ (running tSeq (0 : CtxNo) = some cRun
      ∧ ctxFlag tSeq (0 : CtxNo) cRun.func (.loc : FlagSpace) (3 : Nat) false = some (3 : Nat)
      ∧ wordFaulted tSeq (.loc : FlagSpace) (3 : Nat) = false ∧ unwatched tSeq (.loc : FlagSpace) (3 : Nat) = true)
    ∧ (running tSeq (0 : CtxNo) = some cRun ∧ ctxFlag tSeq (0 : CtxNo) cRun.func (.loc : FlagSpace) (6 : Nat) false = none)
    ∧ (running tSeq (0 : CtxNo) = some cRun
      ∧ ctxFlag tSeq (0 : CtxNo) cRun.func (.loc : FlagSpace) (3 : Nat) true = some (3 : Nat)
      ∧ wordFaulted tSeq (.loc : FlagSpace) (3 : Nat) = false
      ∧ (getFlag tSeq (.loc : FlagSpace) (3 : Nat)).value = false)
    ∧ (running tSeq (0 : CtxNo) = some cRun
      ∧ ctxFlag tSeq (0 : CtxNo) cRun.func (.loc : FlagSpace) (3 : Nat) true = some (3 : Nat)
      ∧ wordFaulted tSeq (.loc : FlagSpace) (3 : Nat) = false
      ∧ (getFlag tSeq (.loc : FlagSpace) (3 : Nat)).value ≠ true)
    ∧ (running tFlagUp (0 : CtxNo) = some cRun
      ∧ ctxFlag tFlagUp (0 : CtxNo) cRun.func (.loc : FlagSpace) (3 : Nat) true = some (3 : Nat)
      ∧ wordFaulted tFlagUp (.loc : FlagSpace) (3 : Nat) = false
      ∧ (getFlag tFlagUp (.loc : FlagSpace) (3 : Nat)).value = true
      ∧ unwatched tFlagUp (.loc : FlagSpace) (3 : Nat) = true)
    ∧ (running tTwoCtx (0 : CtxNo) = some cRun
      ∧ ctxFlag tTwoCtx (0 : CtxNo) cRun.func .shared (20 : Nat) false = some (20 : Nat)
      ∧ wordFaulted tTwoCtx .shared (20 : Nat) = false ∧ (1 : CtxNo) ≠ (0 : CtxNo) ∧ tTwoCtx.seq.waits = [(1 : CtxNo)]
      ∧ ctx tTwoCtx (1 : CtxNo).val = some cWaitFlag ∧ cWaitFlag.st = .waitFlag
      ∧ cWaitFlag.wait = .flagIs .shared (20 : Nat) true true)
    ∧ (running tRemote (0 : CtxNo) = some cRun ∧ ownPos tRemote ≠ some (1 : Byte)
      ∧ originate (1 : Byte) cRun.place (.flagSet (BitVec.ofNat 14 (5 : Nat)) false) none (issue (0 : CtxNo) (advance cRun) tRemote) = some originated)
    ∧ (running tSeq (0 : CtxNo) = some cRun ∧ tSeq.lnk.plan = none) := by
  refine ⟨?_, ?_, ?_, ?_, ?_, ?_, ?_, ?_, ?_⟩ <;> decide +kernel

theorem wit_WiresReleaseAtTheCount :
    (running tSeq (0 : CtxNo) = some cRun ∧ (wire tSeq (2 : Fin 8).val).func = none)
    ∧ (running tWire (0 : CtxNo) = some cRun ∧ (0 : CtxNo) ∈ (wire tWire (2 : Fin 8).val).joined
      ∧ (wire tWire (2 : Fin 8).val).count + 1 < (wire tWire (2 : Fin 8).val).n)
    ∧ (running tWireLast (0 : CtxNo) = some cRun ∧ (0 : CtxNo) ∈ (wire tWireLast (2 : Fin 8).val).joined
      ∧ (wire tWireLast (2 : Fin 8).val).n ≤ (wire tWireLast (2 : Fin 8).val).count + 1
      ∧ (wire tWireLast (2 : Fin 8).val).moduleWide = false)
    ∧ (running tWireWaits (0 : CtxNo) = some cRun ∧ (0 : CtxNo) ∈ (wire tWireWaits (2 : Fin 8).val).joined
      ∧ (wire tWireWaits (2 : Fin 8).val).n ≤ (wire tWireWaits (2 : Fin 8).val).count + 1
      ∧ (wire tWireWaits (2 : Fin 8).val).moduleWide = false)
    ∧ (ctx tWireWoken (1 : CtxNo).val = some ({ cWireWait with wait := .nothing } : Ctx)
      ∧ ({ cWireWait with wait := .nothing } : Ctx).st = .waitFlag
      ∧ ({ cWireWait with wait := .nothing } : Ctx).wait = .nothing)
    ∧ (running tWire (0 : CtxNo) = some cRun ∧ (0 : CtxNo) ∈ (wire tWire (2 : Fin 8).val).joined
      ∧ (wire tWire (2 : Fin 8).val).count + 1 < (wire tWire (2 : Fin 8).val).n)
    ∧ (running tWire (0 : CtxNo) = some cRun ∧ (0 : CtxNo) ∈ (wire tWire (2 : Fin 8).val).joined)
    ∧ (running tSeq (0 : CtxNo) = some cRun ∧ (0 : CtxNo) ∉ (wire tSeq (2 : Fin 8).val).joined)
    ∧ ((wire tDue (2 : Fin 8).val).due = some (4 : Nat) ∧ (wire tDue (2 : Fin 8).val).func = some (0 : Func)
      ∧ p1Busy tDue (0 : Func) (4 : Nat) = false)
    ∧ (running tStream (0 : CtxNo) = some cStream ∧ tfind cStream.streams (1 : Fin 16).val = some streamEven
      ∧ streamEven.push = streamEven.pop ∧ streamEven.done = streamEven.pop)
    ∧ (running tStreamOdd (0 : CtxNo) = some cStreamOdd ∧ realigned cStreamOdd (1 : Fin 16).val = false) := by
  refine ⟨?_, ?_, ?_, ?_, ?_, ?_, ?_, ?_, ?_, ?_, ?_⟩ <;> decide +kernel

theorem wit_MatrixEnginesCompute :
    (mxHead tWl (0 : MxNo) = some wlCmd ∧ wlCmd.push.cmd = .weightLoad (0 : Fin 2) (.bf16 : Fmt) (.imm 5 : Operand)
      ∧ (cmdSrcs tWl wlCmd).head? = some (.imm 5 : Src))
    ∧ (mxHead tPp (0 : MxNo) = some ppCmd ∧ ppCmd.push.cmd = .product (.imm 5 : Operand) .bf16 (0 : Fin 2) (1 : Fin 4) true
      ∧ (cmdSrcs tPp ppCmd).head? = some (.imm 5 : Src) ∧ bufFmt (mx tPp (0 : MxNo)) (0 : Fin 2) .bf16 = .bf16)
    ∧ (mxHead tPp8 (0 : MxNo) = some ppCmd8
      ∧ ppCmd8.push.cmd = .product (.imm 5 : Operand) .int8 (0 : Fin 2) (1 : Fin 4) true
      ∧ (cmdSrcs tPp8 ppCmd8).head? = some (.imm 5 : Src) ∧ bufFmt (mx tPp8 (0 : MxNo)) (0 : Fin 2) .int8 = .int8)
    ∧ (mxHead tSl (4 + (0 : MxNo).val) = some slCmd ∧ slCmd.push.cmd = .slip slipAdd ∧ slipAdd.tile = none
      ∧ slipAdd.out = .bank (2 : Fin 4) ∧ slipAdd.maskOut = none ∧ slipAdd.rows ≤ 128 ∧ slipAdd.cols ≤ 128
      ∧ (slipAdd.outFmt = .fp32 ∨ slipAdd.outFmt = .int32))
    ∧ (mxHead tSl (4 + (0 : MxNo).val) = some slCmd ∧ slCmd.push.cmd = .slip slipAdd ∧ slipAdd.tile = none
      ∧ slipAdd.stages = [.add .imm0] ∧ slipAdd.in1 = .imm (0x40A00000 : U32) ∧ slipAdd.in1Fmt = .fp32
      ∧ slipAdd.laneMask = none ∧ slipAdd.in2 = none ∧ slipAdd.bcast0 = none ∧ slipAdd.bcast1 = none
      ∧ slipAdd.out = .bank (2 : Fin 4) ∧ slipAdd.maskOut = none ∧ slipAdd.rows ≤ 128 ∧ slipAdd.cols ≤ 128
      ∧ slipAdd.outFmt = .fp32)
    ∧ (mxHead tWord (4 + (0 : MxNo).val) = some wordCmd
      ∧ wordCmd.push.cmd = .regionWord (.gen 0 64 : Operand) (3 : Fin 16384)
      ∧ cmdSrcs tWord wordCmd = [.mem (0 : Nat) (64 : Nat) (64 : Nat)] ∧ 4 * ((3 : Fin 16384).val + 1) ≤ (64 : Nat)
      ∧ (64 : Nat) % 64 = 0) := by
  refine ⟨?_, ?_, ?_, ?_, ?_, ?_⟩ <;> decide +kernel

theorem wit_LayoutCommandsStepAndTimeOut :
    (queue tLy (8 + (0 : LyNo).val) = lyCmd :: ([] : List QCmd) ∧ lyCmd.started = false ∧ tLy.boot.relLay = true)
    ∧ (queue tLyRun (8 + (0 : LyNo).val) = lyRunCmd :: ([] : List QCmd) ∧ tfind tLyRun.eng.lys (0 : LyNo).val = some lyJob0
      ∧ lyRunCmd.started = true ∧ lyRunCmd.fin = false ∧ lyJob0.step < lySteps lyRunCmd.words
      ∧ lyHeld tLyRun lyRunCmd lyJob0.step = false)
    ∧ ((queue tMxStuck (0 : MxNo)).head? = some stuckCmd ∧ expired tMxStuck (0 : MxNo) = true
      ∧ stuckCmd.ctx = some (0 : CtxNo) ∧ ctx tMxStuck (0 : CtxNo).val = some cStuck ∧ cStuck.place = stuckCmd.place)
    ∧ ((queue tLyStuck (8 + (0 : LyNo).val)).head? = some lyStuckCmd ∧ expired tLyStuck (8 + (0 : LyNo).val) = true
      ∧ lyStuckCmd.ctx = none ∧ desc tLyStuck lyStuckCmd.place = some dLyStuck)
    ∧ (((0, p1Run) : Nat × P1) ∈ runningP1 tRunLong (0 : Chan) (0 : Rank)
      ∧ ((0, p1Run) : Nat × P1).2.since.toNat + wdEngNs tRunLong ≤ (now tRunLong).toNat
      ∧ ((0, p1Run) : Nat × P1).2.place = some (0 : Place) ∧ desc tRunLong (0 : Place) = some dRun) := by
  refine ⟨?_, ?_, ?_, ?_, ?_⟩ <;> decide +kernel

theorem wit_RowsEndAndCommit :
    (inRun tUnit (0 : CtxNo) = some cStep ∧ tfind tUnit.serve.steps cStep.place.val = some stepRun
      ∧ desc tUnit cStep.place = some dStep ∧ stepRun.rows[(0 : Fin 1024).val]? = some rowA ∧ rowA.admitted = true
      ∧ rowA.ended = false ∧ rowA.cancel = false ∧ failing rowA.conds = [])
    ∧ (inRun tUnitC (0 : CtxNo) = some cStep ∧ tfind tUnitC.serve.steps cStep.place.val = some stepRunC
      ∧ desc tUnitC cStep.place = some dStep ∧ stepRunC.rows[(0 : Fin 1024).val]? = some rowCancel
      ∧ rowCancel.admitted = true ∧ rowCancel.ended = false ∧ rowCancel.cancel = true)
    ∧ (tfind tEndedRow.serve.steps (0 : Place).val = some stepEnded ∧ stepEnded.rows[(0 : Fin 1024).val]? = some rowEnded
      ∧ rowEnded.admitted = true ∧ rowEnded.ended = true ∧ rowEnded.committed = false ∧ rowEnded.cancel = false)
    ∧ (tfind tEndedRowC.serve.steps (0 : Place).val = some stepEndedC ∧ stepEndedC.rows[(0 : Fin 1024).val]? = some rowEndedC
      ∧ rowEndedC.admitted = true ∧ rowEndedC.ended = true ∧ rowEndedC.committed = false ∧ rowEndedC.cancel = true
      ∧ failing rowEndedC.conds = [])
    ∧ (tfind tTable.serve.steps (0 : Place).val = some stepDone ∧ desc tTable (0 : Place) = some dStepEnded
      ∧ dStepEnded.stage = .ended ∧ stepDone.sent = false ∧ hostUp tTable = true
      ∧ (∀ r ∈ stepDone.rows, r.committed = true)) := by
  refine ⟨?_, ?_, ?_, ?_, ?_⟩ <;> decide +kernel

theorem wit_PowerIsGoverned :
    (tPower.boot.powered = true)
    ∧ (tPower.boot.powered = true ∧ tPower.boot.fwRestarting = false)
    ∧ (100 ≤ (100 : Int) ∧ tfind tPower.pwr.clk (islMx (1 : MxNo)) = none ∧ tfind tPower.pwr.clkAt (islMx (1 : MxNo)) = none
      ∧ 500 < min 1500 (bits tPower.dev.clkHold.toNat 0 12))
    ∧ ((90 : Int) < 95 ∧ tfind tHotMx.pwr.clk (islMx (1 : MxNo)) = some (1400 : Nat)
      ∧ tfind tHotMx.pwr.clkAt (islMx (1 : MxNo)) = none
      ∧ (1400 : Nat) + 50 < min 1500 (bits tHotMx.dev.clkHold.toNat 0 12))
    ∧ (1000 ≤ (2000 : Nat))
    ∧ (freqHeld tHot = false ∧ tHot.pwr.hotSince = some (0 : U64) ∧ 100000000 ≤ (now tHot - (0 : U64)).toNat
      ∧ tHot.dev.bInvalid = false ∧ (bc tHot (0 : Chan)).setB = false)
    ∧ (freqHeld tCool = true ∧ tCool.pwr.coolSince = some (0 : U64) ∧ 10000000000 ≤ (now tCool - (0 : U64)).toNat)
    ∧ (portUp tLinkUp (0 : PortNo) = true ∧ ((1000000 : Nat) < 100000 * (11 : Nat) ∨ (5 : Nat) < 1000000000 * (0 : Nat))
      ∧ (port tLinkUp (0 : PortNo)).loopHold = false ∧ (loopRec tLinkUp 4).active = false)
    ∧ ((port tSlowLink (0 : PortNo)).loopHold = true ∧ ratePinOf tSlowLink (0 : PortNo) ≠ 1) := by
  refine ⟨?_, ?_, ?_, ?_, ?_, ?_, ?_, ?_, ?_⟩ <;> decide +kernel

theorem wit_KeepIsSaved :
    (tKeepDirty.boot.powered = true)
    ∧ (tReady.boot.powered = true ∧ 115 ≤ (115 : Int))
    ∧ (tReady.boot.powered = true)
    ∧ (tPower.boot.powered = true)
    ∧ (tPower.boot.powered = true ∧ (true = true ∨ holdupMj (4000 : Nat) (20000 : Nat) < 2000))
    ∧ (tPower.boot.powered = true ∧ 2000 ≤ holdupMj (4000000 : Nat) (40000 : Nat)
      ∧ needMj (dirtyBytes tPower) ≤ holdupMj (4000000 : Nat) (40000 : Nat))
    ∧ (tKeepDirty.boot.mediaReady = true ∧ (kblock tKeepDirty (3 : Nat)).dirty = true
      ∧ (kblock tKeepDirty (3 : Nat)).copying = false
      ∧ (tKeepDirty.pwr.forced = true ∨ (tKeepDirty.dev.trickle ≠ 0#16 ∧ tKeepDirty.dev.trickle.toNat * 1000000 ≤ (now tKeepDirty - (kblock tKeepDirty (3 : Nat)).since).toNat))
      ∧ copyable tKeepDirty (3 : Nat) = true)
    ∧ ((kblock tCopying (3 : Nat)).copying = true)
    ∧ ((kblock tCopying (3 : Nat)).copying = true ∧ 0 < sparesLeft tCopying)
    ∧ ((kblock tCopyingNoSpare (3 : Nat)).copying = true ∧ sparesLeft tCopyingNoSpare = 0) := by
  refine ⟨?_, ?_, ?_, ?_, ?_, ?_, ?_, ?_, ?_, ?_⟩ <;> decide +kernel

theorem wit_SlotsAreProtected :
    ((slot (State.reset : State) (2 : SlotNo)).st = .off)
    ∧ ((slot tInrush (2 : SlotNo)).st = .inrush ∧ (54000 : Nat) ≤ (53500 : Nat) + 1000 ∧ (53500 : Nat) ≤ (54000 : Nat) + 1000
      ∧ (900 : Nat) < 1000 ∧ (2 : SlotNo).val ≠ tInrush.boot.slotId.toNat)
    ∧ ((slot tInrush0 (0 : SlotNo)).st = .inrush ∧ (54000 : Nat) ≤ (53500 : Nat) + 1000
      ∧ (53500 : Nat) ≤ (54000 : Nat) + 1000 ∧ (900 : Nat) < 1000 ∧ (0 : SlotNo).val = tInrush0.boot.slotId.toNat
      ∧ tInrush0.boot.powered = false)
    ∧ ((slot tSlotRun (2 : SlotNo)).st = .run ∧ 24000 ≤ (24000 : Nat) ∧ (2 : SlotNo).val ≠ tSlotRun.boot.slotId.toNat
      ∧ (slot tSlotRun (2 : SlotNo)).fails.length < 3)
    ∧ ((slot tSlotRun3 (2 : SlotNo)).st = .run ∧ (2 : SlotNo).val ≠ tSlotRun3.boot.slotId.toNat
      ∧ (slot tSlotRun3 (2 : SlotNo)).fails.length = 3 ∧ (slot tSlotRun3 (2 : SlotNo)).fails.head? = some (0 : U64)
      ∧ (tSlotRun3.tray.ns - (0 : U64)).toNat ≤ 60000000000)
    ∧ ((slot tInrush (2 : SlotNo)).st = .inrush ∧ (slot tInrush (2 : SlotNo)).held = false
      ∧ (2 : SlotNo).val ≠ tInrush.boot.slotId.toNat ∧ (slot tInrush (2 : SlotNo)).fails.length < 3)
    ∧ ((slot tSlotTripped (2 : SlotNo)).st = .tripped)
    ∧ ((slot tSlotRun (2 : SlotNo)).st ≠ .latched ∧ (slot tSlotRun (2 : SlotNo)).st ≠ .off
      ∧ (2 : SlotNo).val ≠ tSlotRun.boot.slotId.toNat)
    ∧ ((slot tSlotLatched (2 : SlotNo)).st = .latched ∧ (slot tSlotLatched (2 : SlotNo)).since ≠ tSlotLatched.tray.ns)
    ∧ ((slot tSlotLatchedNow (2 : SlotNo)).st = .latched
      ∧ (slot tSlotLatchedNow (2 : SlotNo)).since = tSlotLatchedNow.tray.ns)
    ∧ ((45000 : Nat) < 46000)
    ∧ (50000 < (51000 : Nat)) := by
  refine ⟨?_, ?_, ?_, ?_, ?_, ?_, ?_, ?_, ?_, ?_, ?_, ?_⟩ <;> decide +kernel

theorem wit_RackIsBudgeted :
    ((0 : Nat) ∈ healthyMods tRack ∧ (healthyMods tRack).Nodup ∧ tRack.grc.raises = [])
    ∧ (tRaising.grc.raises ≠ [])
    ∧ ((0 : Nat) ∈ healthyMods tRack ∧ (healthyMods tRack).Nodup)
    ∧ (tRaising.grc.raises = [((1 : Nat), (20 : Nat))] ∧ tRaising.tray.ns = tRaising.grc.raiseAt)
    ∧ ((rackMod tRack (0 : ModNo)).fenced = false ∧ (healthyMods tRack).Nodup)
    ∧ (repA ∈ ([repA] : List ModReport) ∧ (([repA] : List ModReport).map (fun y => y.m)).Nodup
      ∧ trising tRack.grc.mods = true ∧ (rackMod tRack repA.m).fenced = false) := by
  refine ⟨?_, ?_, ?_, ?_, ?_, ?_⟩ <;> decide +kernel

end Sys2Proof.Tests
end

section
/-! The mailbox: what a command's answer is, and the firmware, time and identity commands (03 R81 to R83). -/

namespace Sys2Proof.Machine

variable {s u : State} {path : MbPath} {k : MbClass} {i : Instr} {act : State → State} {code : MbCode} {ext : Nat}
  {payload : List Byte}

/-! ### The answer -/

/-- Where the path answers, a command of a class acts. -/
theorem mbRun_of_mbAnswers (h : mbAnswers path k s = true) : mbRun path k act s = .next (act s) := by
  obtain ⟨⟨hup, hfw⟩, href⟩ : (mbUp path s = true ∧ s.boot.fwRestarting = false) ∧ mbRefused k s = false := by
    simpa [mbAnswers] using h
  simp [mbRun, hup, hfw, href, ok]

/-- A mailbox command completes with what it does where its path answers. -/
theorem yields_of_mbRun {post : State → Prop} (hi : exec i s = mbRun path k act s) (ha : mbAnswers path k s = true)
    (hp : post (act s)) : Yields i s post :=
  ⟨act s, hi.trans (mbRun_of_mbAnswers ha), hp⟩

/-- The answer follows what had left the module before. -/
theorem replied_mbReply (ho : u.out = s.out) (hc : u.cxl = s.cxl) :
    Replied path code ext payload s (mbReply path code ext payload u) := by
  cases path <;> simp [Replied, mbReply, msix, emit, ho, hc]

theorem mbReply_eq :
    mbReply path code ext payload s
      = { s with out := (mbReply path code ext payload s).out, cxl := (mbReply path code ext payload s).cxl } := by
  cases path <;> rfl

/-- A command that only answers. -/
theorem yields_mbReply (hi : exec i s = mbRun path k act s) (ha : mbAnswers path k s = true)
    (hact : act s = mbReply path code ext payload s) :
    Yields i s fun t => Replied path code ext payload s t ∧ t = { s with out := t.out, cxl := t.cxl } := by
  refine yields_of_mbRun hi ha ?_
  rw [hact]
  exact ⟨replied_mbReply rfl rfl, mbReply_eq⟩

/-- A command whose answer has free bytes after those that the spec names (log entry 23). -/
theorem yields_mbFree {named : List Byte} (hi : exec i s = mbRun path k act s) (ha : mbAnswers path k s = true)
    (hact : act s = mbFree path named s) :
    Yields i s fun t => Replied path .success 0 (named ++ Config.mailboxAnswer s.freeCtr) s t
      ∧ t = { s with out := t.out, cxl := t.cxl, freeCtr := s.freeCtr + 1 } := by
  refine yields_of_mbRun hi ha ?_
  rw [hact, mbFree]
  refine ⟨replied_mbReply rfl rfl, ?_⟩
  cases path <;> rfl

/-- What is proved of a command's outcome may be weakened. -/
theorem Yields.imp {post post' : State → Prop} (h : Yields i s post) (hp : ∀ t, post t → post' t) : Yields i s post' := by
  obtain ⟨t, ht, hpost⟩ := h
  exact ⟨t, ht, hp t hpost⟩

/-! ### Firmware, time, identity -/

theorem yields_transferFw (slot : Fin 2) (im : List Byte) (ha : mbAnswers path .firmware s = true) :
    Yields (.transferFw path slot im) s fun t =>
      (if Config.fwSignatureOk im = true then
        Replied path .success 0 [] s t
        ∧ (if slot.val = 0 then t.fw = { s.fw with image0 := im, valid0 := true }
          else t.fw = { s.fw with image1 := im, valid1 := true })
      else Replied path .invalidInput 0 [] s t ∧ t.fw = s.fw)
      ∧ t = { s with out := t.out, cxl := t.cxl, fw := t.fw } := by
  refine yields_of_mbRun (show exec _ s = execTransferFw path slot im s from rfl) ha ?_
  by_cases hsig : Config.fwSignatureOk im = true
  · by_cases hslot : slot.val = 0
    · simp only [hsig, hslot, if_true, mbReply_keeps, and_true]
      exact ⟨replied_mbReply rfl rfl, by cases path <;> rfl⟩
    · simp only [hsig, hslot, if_true, if_false, mbReply_keeps, and_true]
      exact ⟨replied_mbReply rfl rfl, by cases path <;> rfl⟩
  · simp only [hsig, if_false, Bool.false_eq_true, mbInvalid, mbReply_keeps, and_true]
    exact ⟨replied_mbReply rfl rfl, mbReply_eq⟩

theorem yields_activateFw_offline (slot : Fin 2) (ha : mbAnswers path .firmware s = true) :
    Yields (.activateFw path slot false) s fun t =>
      Replied path .success 0 [] s t ∧ t.fw = { s.fw with nextSlot := decide (slot.val = 1) }
      ∧ t = { s with out := t.out, cxl := t.cxl, fw := t.fw } := by
  refine yields_of_mbRun (show exec _ s = execActivateFw path slot false s from rfl) ha ?_
  cases path <;> exact ⟨replied_mbReply rfl rfl, rfl, rfl⟩

/-- The stored offset is the one by which the unchanged MTB reads the time set. -/
theorem yields_setTimestamp (v : U64) (ha : mbAnswers path .other s = true) :
    Yields (.setTimestamp path v) s fun t =>
      Replied path .success 0 [] s t ∧ t.clk.mtb = s.clk.mtb ∧ t.clk.mtb + t.clk.tsOffset = v
      ∧ t = { s with out := t.out, cxl := t.cxl, clk := t.clk } := by
  refine yields_of_mbRun (show exec _ s = execSetTimestamp path v s from rfl) ha ?_
  have hsum : s.clk.mtb + (v - now s) = v := by rw [now, BitVec.add_comm, BitVec.sub_add_cancel]
  simp only [mbReply_keeps, hsum, true_and]
  exact ⟨replied_mbReply rfl rfl, by cases path <;> rfl⟩

theorem exec_unsupportedMailboxCommand {op : U16} (h : op ∉ mbOpcodes) :
    exec (.unsupportedMailboxCommand path op) s = mbRun path .health (mbReply path .unsupported 0 []) s :=
  if_neg h

/-- Settles O23: each command answers through its path, and the frame says what it sets beside the answer. -/
theorem firmwareAndTimeAreSet : Obligations.FirmwareAndTimeAreSet := by
  unfold Obligations.FirmwareAndTimeAreSet
  refine ⟨?transfer, ?activate, ?online, ?info, ?getTime, ?setTime, ?identify, ?unsupported⟩
  case transfer => exact fun _ _ slot im ha => yields_transferFw slot im ha
  case activate => exact fun _ _ slot ha => yields_activateFw_offline slot ha
  case online => exact fun _ path _ ha => yields_mbReply (path := path) (k := .firmware) rfl ha rfl
  case info =>
    intro s path ha
    refine (yields_mbFree (path := path) (k := .firmware) rfl ha rfl).imp fun t ⟨hr, ht⟩ => ?_
    exact ⟨⟨_, _, hr⟩, ht⟩
  case getTime => exact fun _ path ha => yields_mbReply (path := path) (k := .other) rfl ha rfl
  case setTime => exact fun _ _ v ha => yields_setTimestamp v ha
  case identify =>
    intro s path ha
    refine (yields_mbFree (path := path) (k := .other) rfl ha rfl).imp fun t ⟨hr, ht⟩ => ?_
    exact ⟨⟨_, hr⟩, ht⟩
  case unsupported =>
    exact fun _ _ _ ha hop => yields_mbReply (exec_unsupportedMailboxCommand hop) ha rfl

end Sys2Proof.Machine
end

section
/-! What PLAN_LOAD's judgement of the ports and the shipments leaves alone (03 R88, 15 R404, R410 to R412). -/

namespace Sys2Proof.Machine

/-- The links' work: time, banks, power, the plan and the requests kept for the boundary stand, and what has left the
module stays in its order. -/
structure LinkFrame (s t : State) : Prop where
  clk : t.clk = s.clk
  bank : t.bank = s.bank
  pwr : t.pwr = s.pwr
  plan : t.lnk.plan = s.lnk.plan
  orders : t.log.orders = s.log.orders
  ordersAt : t.log.ordersAt = s.log.ordersAt
  out : s.out <+: t.out

namespace LinkFrame

variable {s t u : State}

theorem refl (s : State) : LinkFrame s s := ⟨rfl, rfl, rfl, rfl, rfl, rfl, ⟨[], List.append_nil _⟩⟩

theorem trans (h : LinkFrame s t) (h' : LinkFrame t u) : LinkFrame s u :=
  ⟨h'.clk.trans h.clk, h'.bank.trans h.bank, h'.pwr.trans h.pwr, h'.plan.trans h.plan, h'.orders.trans h.orders,
    h'.ordersAt.trans h.ordersAt, h.out.trans h'.out⟩

/-- A fold whose every step keeps the frame keeps it. -/
theorem foldl {α : Type} {g : State → α → State} (hg : ∀ s a, LinkFrame s (g s a)) (l : List α) (s : State) :
    LinkFrame s (l.foldl g s) := by
  induction l generalizing s with
  | nil => exact refl s
  | cons a l ih => exact (hg s a).trans (ih _)

/-- Two branches that keep the frame. -/
theorem ite {c : Prop} [Decidable c] (ht : LinkFrame s t) (hu : LinkFrame s u) : LinkFrame s (if c then t else u) := by
  split
  · exact ht
  · exact hu

/-- An optional next state that keeps the frame where there is one. -/
theorem getD {o : Option State} (h : ∀ t, o = some t → LinkFrame s t) : LinkFrame s (o.getD s) := by
  cases o with
  | none => exact refl s
  | some t => exact h t rfl

/-- An update of no field that the frame names. -/
theorem of_eq (hclk : t.clk = s.clk) (hbank : t.bank = s.bank) (hpwr : t.pwr = s.pwr) (hlnk : t.lnk = s.lnk)
    (hlog : t.log = s.log) (hout : t.out = s.out) : LinkFrame s t :=
  ⟨hclk, hbank, hpwr, by rw [hlnk], by rw [hlog], by rw [hlog], by rw [hout]⟩

end LinkFrame

variable (s : State)

theorem linkFrame_setPort (p : Nat) (x : Port) : LinkFrame s (setPort p x s) :=
  ⟨rfl, rfl, rfl, rfl, rfl, rfl, ⟨[], List.append_nil _⟩⟩

theorem linkFrame_emit (o : Out) : LinkFrame s (emit o s) :=
  ⟨rfl, rfl, rfl, rfl, rfl, rfl, ⟨_, rfl⟩⟩

theorem linkFrame_countEv (src inst : Nat) (f : Option Func) (n : Nat) : LinkFrame s (countEv src inst f n s) :=
  .of_eq rfl rfl rfl rfl rfl rfl

theorem linkFrame_setDesc (p : Place) (d : Desc) : LinkFrame s (setDesc p d s) := .of_eq rfl rfl rfl rfl rfl rfl

/-! ### Packets -/

theorem linkFrame_sendNow (p : PortNo) (o : PktOut) : LinkFrame s (sendNow p o s) :=
  ((linkFrame_setPort s _ _).trans (linkFrame_emit _ _)).trans (linkFrame_countEv _ _ _ _ _)

theorem linkFrame_pump (n : Nat) (p : PortNo) : LinkFrame s (pump n p s) := by
  induction n generalizing s with
  | zero => exact .refl s
  | succ n ih =>
    rw [pump]
    split
    · exact .refl s
    · split
      · exact ((linkFrame_setPort s _ _).trans (linkFrame_sendNow _ _ _)).trans (ih _)
      · exact .refl s

theorem linkFrame_queueAt (p : PortNo) (o : PktOut) : LinkFrame s (queueAt p o s) :=
  (linkFrame_setPort s _ _).trans (linkFrame_pump _ _ _)

theorem linkFrame_clipDesc (p : Place) (yes : Bool) : LinkFrame s (clipDesc p yes s) := by
  unfold clipDesc
  split
  · split
    · exact linkFrame_setDesc ..
    · exact .refl s
  · exact .refl s

/-- A transport packet is queued at one port, or nothing is done. -/
theorem linkFrame_originate {t : State} {dst : Byte} {tag : Place} {k : Pkt} {via : Option Nat}
    (h : originate dst tag k via s = some t) : LinkFrame s t := by
  unfold originate at h
  split at h
  · cases h
  · simp only at h
    split at h
    · cases h
    · cases h
      exact (linkFrame_clipDesc s _ _).trans (linkFrame_queueAt _ _ _)

theorem linkFrame_originate_getD (dst : Byte) (tag : Place) (k : Pkt) (via : Option Nat) :
    LinkFrame s ((originate dst tag k via s).getD s) :=
  .getD fun _ h => linkFrame_originate s h

theorem linkFrame_sendHeld (p : PortNo) : LinkFrame s (sendHeld p s) :=
  .foldl (fun s _ => linkFrame_emit s _) _ s

/-! ### Ports -/

theorem linkFrame_logAs (cls code : Nat) (loc : U16) (func : Byte) (master d0 d1 : Nat) :
    LinkFrame s (logAs cls code loc func master d0 d1 s) := by
  unfold logAs
  dsimp only
  split <;> exact ⟨rfl, rfl, rfl, rfl, rfl, rfl, ⟨_, rfl⟩⟩

theorem linkFrame_logPort (p : Nat) : LinkFrame s (logPort p s) := linkFrame_logAs ..

theorem linkFrame_chooseParent : LinkFrame s (chooseParent s) := by
  unfold chooseParent
  dsimp only
  split
  · split <;> exact ⟨rfl, rfl, rfl, rfl, rfl, rfl, ⟨[], List.append_nil _⟩⟩
  · exact ⟨rfl, rfl, rfl, rfl, rfl, rfl, ⟨[], List.append_nil _⟩⟩

theorem linkFrame_enterState (p : Nat) (st : PState) : LinkFrame s (enterState p st s) := by
  have hboot (b : Boot) : LinkFrame s { s with boot := b } := .of_eq rfl rfl rfl rfl rfl rfl
  have hport (b : Boot) (y : Port) : LinkFrame s (chooseParent (logPort p (setPort p y { s with boot := b }))) :=
    (((hboot b).trans (linkFrame_setPort _ p y)).trans (linkFrame_logPort _ p)).trans (linkFrame_chooseParent _)
  exact .ite (.refl s) (.ite ((hport _ _).trans (linkFrame_emit _ _)) (hport _ _))

theorem linkFrame_resumePort (p : PortNo) (pl : IdentPl) : LinkFrame s (resumePort p pl s) :=
  .ite (linkFrame_setPort ..) (linkFrame_setPort ..)

theorem linkFrame_judgePort (p : PortNo) : LinkFrame s (judgePort p s) := by
  unfold judgePort
  dsimp only
  split
  · exact .refl s
  · split
    · exact .refl s
    split
    · exact linkFrame_enterState ..
    split
    · split
      · exact linkFrame_enterState ..
      split
      · exact linkFrame_enterState ..
      split
      · exact linkFrame_enterState ..
      · refine LinkFrame.trans ?_ (linkFrame_pump _ _ _)
        split
        · exact (linkFrame_setPort s _ _).trans (linkFrame_enterState _ _ _)
        · exact (((linkFrame_setPort s _ _).trans (linkFrame_resumePort _ _ _)).trans (linkFrame_enterState _ _ _)).trans
            (linkFrame_sendHeld _ _)
    · exact linkFrame_enterState ..

/-! ### Shipments -/

theorem linkFrame_endDesc (p : Place) (st : Status) (detail : Nat) : LinkFrame s (endDesc p st detail s) := by
  unfold endDesc
  split
  · exact linkFrame_setDesc ..
  · exact .refl s

theorem linkFrame_shipsOut (l : Tab ShipOut) : LinkFrame s { s with serve := { s.serve with shipsOut := l } } :=
  .of_eq rfl rfl rfl rfl rfl rfl

theorem linkFrame_abortShip (p : Place) (st : Status) : LinkFrame s (abortShip p st s) := by
  unfold abortShip
  split
  · refine LinkFrame.trans ?_ (linkFrame_endDesc _ _ _ _)
    split
    · exact (linkFrame_originate_getD s _ _ _ _).trans (linkFrame_shipsOut _ _)
    · exact linkFrame_shipsOut ..
  · exact linkFrame_endDesc ..

theorem linkFrame_putShipOut (p : Place) (x : ShipOut) : LinkFrame s (putShipOut p x s) := by
  unfold putShipOut
  dsimp only
  split
  · exact (linkFrame_shipsOut s _).trans (linkFrame_setDesc _ _ _)
  · exact linkFrame_shipsOut ..

theorem linkFrame_noteUsed (p : Place) (via : Option Nat) : LinkFrame s (noteUsed p via s) := by
  unfold noteUsed
  dsimp only
  split
  · exact .refl s
  · split
    · exact linkFrame_putShipOut ..
    · exact .refl s

theorem linkFrame_sendOpens (p : Place) (x : ShipOut) : LinkFrame s (sendOpens p x s) :=
  (linkFrame_noteUsed s _ _).trans (.foldl (fun s _ => linkFrame_originate_getD s _ _ _ _) _ _)

theorem linkFrame_sendEntry (p : Place) (x : ShipOut) (k : Nat) : LinkFrame s (sendEntry p x k s) := by
  refine (linkFrame_noteUsed s _ _).trans (.foldl (fun s i => ?_) _ _)
  dsimp only
  refine LinkFrame.trans ?_ (linkFrame_originate_getD _ _ _ _ _)
  split
  · split
    · exact linkFrame_shipsOut ..
    · exact .refl s
  · exact .refl s

theorem linkFrame_rerouteShip (p : Place) (x : ShipOut) : LinkFrame s (rerouteShip p x s) :=
  .ite (linkFrame_abortShip s _ _) (.ite ((linkFrame_shipsOut s _).trans (linkFrame_sendOpens _ _ _))
    (.ite ((linkFrame_shipsOut s _).trans (linkFrame_originate_getD _ _ _ _ _))
      ((linkFrame_shipsOut s _).trans (.foldl (fun s _ => linkFrame_sendEntry s _ _ _) _ _))))

theorem linkFrame_checkShips : LinkFrame s (checkShips s) := by
  refine LinkFrame.foldl (fun s q => ?_) _ _
  split
  · split
    · exact linkFrame_rerouteShip ..
    · exact .refl s
  · exact .refl s

theorem linkFrame_judgeAll : LinkFrame s (judgeAll s) :=
  ((LinkFrame.foldl (fun s _ => linkFrame_judgePort s _) _ s).trans (linkFrame_chooseParent _)).trans
    (linkFrame_checkShips _)

end Sys2Proof.Machine
end

section
/-! The vendor commands of the mailbox (03 R84 to R89): contests, and what each command takes and refuses. -/

namespace Sys2Proof.Machine

variable {s : State} {path : MbPath} {i : Instr} {o : Obj} {k : Req} {b : List Byte}

/-! ### Contests of one boundary -/

theorem ordersNow_congr {t : State} (ho : t.log.orders = s.log.orders) (ha : t.log.ordersAt = s.log.ordersAt)
    (hc : t.clk = s.clk) :
    ordersNow t = ordersNow s := by
  unfold ordersNow now
  rw [ho, ha, hc]

theorem rival_of_alone (h : Alone o s) (ks : List Req) : rival s o ks = none := by
  rw [rival, List.filter_eq_nil_iff.mpr (fun a ha => by simp [h a ha])]
  rfl

/-- A request alone on its object is kept for the boundary, and nothing is logged. -/
theorem contend_of_alone {x : Order} (h : Alone x.obj s) (ks : List Req) : contend ks x s = noteOrder x s := by
  rw [contend, rival_of_alone h]

/-- A permitted command alone on its object acts, and is kept for the boundary. -/
theorem mbContest_of_alone {act : State → State} (h : Alone o s) (hn : ordersNow (act s) = ordersNow s) :
    mbContest path o k false act s = noteOrder (mbOrder path o k) (act s) := by
  have hact : contend [k] (mbOrder path o k) (act s) = noteOrder (mbOrder path o k) (act s) :=
    contend_of_alone (fun a ha => h a (hn ▸ ha)) [k]
  cases path <;> simp [mbContest, rival_of_alone h, hact]

/-- The PF's command that meets one of the GRC's is preempted (R84). -/
theorem mbContest_of_rival {act : State → State} {forbidden : Bool} {a : Order} (hr : rival s o [k] = some a)
    (ha : a.master = 0) :
    mbContest .pf o k forbidden act s
      = mbReply .pf .retryRequired 0x40 [] (logPreempted a none (logCollision a (mbOrder .pf o k) true s)) := by
  simp [mbContest, hr, ha]

/-! ### Entries of the event log -/

section Log

variable (s : State) (cls cd : Nat) (loc : U16) (func : Byte) (master d0 d1 : Nat)

theorem getLast?_lastN {α : Type} (n : Nat) (l : List α) : (lastN (n + 1) l).getLast? = l.getLast? := by
  rw [lastN, List.getLast?_reverse, List.head?_take, if_neg (Nat.succ_ne_zero n), List.head?_reverse]

theorem logAs_out : (logAs cls cd loc func master d0 d1 s).out = s.out ++ [.msix 0 2] := by
  simp only [logAs, msix, emit]
  split <;> rfl

theorem logAs_logSeq : (logAs cls cd loc func master d0 d1 s).log.seq = s.log.seq + 1#16 := by
  simp only [logAs, msix_log]
  split <;> rfl

theorem logAs_eq :
    logAs cls cd loc func master d0 d1 s
      = { s with out := (logAs cls cd loc func master d0 d1 s).out, log := (logAs cls cd loc func master d0 d1 s).log,
                 cnt := (logAs cls cd loc func master d0 d1 s).cnt } := by
  simp only [logAs]
  split <;> rfl

/-- The entry written is the last of the log, with its class and the stamp of the moment. -/
theorem logAs_getLast? :
    ∃ e : LogEntry, (logAs cls cd loc func master d0 d1 s).log.events.getLast? = some e
      ∧ e.cls = BitVec.ofNat 8 cls ∧ e.mtb = now s := by
  refine ⟨{ mtb := now s, cls := BitVec.ofNat 8 cls, code := BitVec.ofNat 8 cd, loc := loc, func := func,
            master := BitVec.ofNat 8 master, seq := s.log.seq, data0 := BitVec.ofNat 64 d0,
            data1 := BitVec.ofNat 64 d1, seen := false }, ?_, rfl, rfl⟩
  simp only [logAs, msix_log]
  split <;> simp only [bump_log, getLast?_lastN, List.getLast?_concat]

end Log

/-- Of two updates that touch what has left, the log and the counters alone, so does their sequence. -/
theorem logged_trans {s t u : State} (h : t = { s with out := t.out, log := t.log, cnt := t.cnt })
    (h' : u = { t with out := u.out, log := u.log, cnt := u.cnt }) :
    u = { s with out := u.out, log := u.log, cnt := u.cnt } :=
  h'.trans (by rw [h])

/-- An order that lost is logged by three entries (04 R124). -/
theorem logged3_of_lost (a x : Order) :
    Logged3 s (logPreempted a none (logCollision a x true s))
    ∧ (logPreempted a none (logCollision a x true s)).out = s.out ++ [.msix 0 2, .msix 0 2, .msix 0 2] := by
  obtain ⟨e, he, hcls, hmtb⟩ := logAs_getLast? (logCollision a x true s) 0x02 0x40 (locOf 0 0) 0xFF#8 1
    (a.master % 4 * 2 ^ 32 + winnerFunc a * 2 ^ 40) 0
  refine ⟨⟨?_, e, he, hcls, hmtb.trans ?_⟩, ?_⟩
  · simp only [logPreempted, logCollision, logAs_logSeq, BitVec.add_assoc]
    rfl
  · simp only [logCollision, now, logAs_clk]
  · simp [logPreempted, logCollision, logAs_out]

theorem logPreempted_logCollision_eq (a x : Order) :
    logPreempted a none (logCollision a x true s)
      = { s with out := (logPreempted a none (logCollision a x true s)).out,
                 log := (logPreempted a none (logCollision a x true s)).log,
                 cnt := (logPreempted a none (logCollision a x true s)).cnt } :=
  logged_trans (logged_trans (logAs_eq ..) (logAs_eq ..)) (logAs_eq ..)

/-- A preempted command of the PF leaves its log entries and its answer, and nothing else (R84, 04 R124). -/
theorem yields_of_rival {a : Order} {act : State → State} {forbidden : Bool} {f : State → State}
    (hi : exec i s = mbRun .pf .other f s) (ha : mbAnswers .pf .other s = true)
    (hf : f s = mbContest .pf o k forbidden act s) (hr : rival s o [k] = some a) (hm : a.master = 0) :
    Yields i s fun t =>
      (∃ mid, t.out = s.out ++ mid ++ [.mailbox .pf .retryRequired 0x40#16 [], .msix 0 2])
      ∧ t.cxl.mbox = (.retryRequired, 0x40#16, []) ∧ Logged3 s t
      ∧ t = { s with out := t.out, cxl := { s.cxl with mbox := t.cxl.mbox }, log := t.log, cnt := t.cnt } := by
  refine yields_of_mbRun hi ha ?_
  rw [hf, mbContest_of_rival hr hm]
  obtain ⟨hlog, hout⟩ := logged3_of_lost (s := s) a (mbOrder .pf o k)
  have heq := logPreempted_logCollision_eq (s := s) a (mbOrder .pf o k)
  generalize logPreempted a none (logCollision a (mbOrder .pf o k) true s) = u at hlog hout heq
  refine ⟨⟨[.msix 0 2, .msix 0 2, .msix 0 2], ?_⟩, rfl, hlog, ?_⟩
  · simp [mbReply, msix, emit, hout]
  · rw [heq]
    rfl

/-! ### Queries and refusals -/

/-- A command refused as Invalid Input answers and does nothing else. -/
theorem yields_mbInvalid {f : State → State} (hi : exec i s = mbRun path .other f s) (ha : mbAnswers path .other s = true)
    (hf : f s = mbInvalid path s) :
    Yields i s fun t => Replied path .invalidInput 0 [] s t ∧ t = { s with out := t.out, cxl := t.cxl } :=
  yields_mbReply hi ha hf

theorem yields_rampGet (ha : mbAnswers path .other s = true) :
    Yields (.rampGet path []) s fun t =>
      (∃ b, Replied path .success 0 (leBytes 2 s.pwr.ramp.up.toNat ++ leBytes 2 s.pwr.ramp.down.toNat
        ++ leBytes 2 s.pwr.ramp.cap.toNat ++ leBytes 2 0 ++ leBytes 4 s.pwr.ramp.gen.toNat ++ b) s t)
      ∧ t = { s with out := t.out, cxl := t.cxl } := by
  refine (yields_mbReply (show exec _ s = execRampGet path [] s from rfl) ha rfl).imp fun t ⟨hr, ht⟩ => ?_
  rw [List.append_assoc, List.append_assoc, List.append_assoc] at hr
  exact ⟨⟨_, hr⟩, ht⟩

/-- n bytes spell less than 256 ^ n. -/
theorem leNat_lt (bs : List Byte) : leNat bs < 256 ^ bs.length := by
  induction bs with
  | nil => simp [leNat]
  | cons x bs ih =>
    have hx : x.toNat < 256 := x.isLt
    rw [leNat, List.foldr_cons, ← leNat, List.length_cons, Nat.pow_succ]
    omega

theorem leAt_two_lt (b : List Byte) (off : Nat) : leAt b off 2 < 65536 :=
  (leNat_lt _).trans_le (Nat.pow_le_pow_right (by decide : 0 < 256) (List.length_take_le 2 (b.drop off)))

/-- A budget is valid exactly where its length, its reserved fields and its ranges are (R89). -/
theorem rampOk_iff :
    rampOk b = true ↔ b.length = 16 ∧ leAt b 6 2 = 0 ∧ leAt b 12 4 = 0 ∧ 1 ≤ leAt b 0 2 ∧ leAt b 0 2 ≤ 4800
      ∧ 1 ≤ leAt b 2 2 ∧ leAt b 2 2 ≤ 4800 ∧ 38 ≤ leAt b 4 2 ∧ leAt b 4 2 ≤ 480 := by
  simp [rampOk, rampOf, Nat.mod_eq_of_lt (leAt_two_lt b _), and_assoc]

theorem rampOk_eq_false (h : b.length ≠ 16 ∨ leAt b 6 2 ≠ 0 ∨ leAt b 12 4 ≠ 0 ∨ leAt b 0 2 = 0 ∨ 4800 < leAt b 0 2
    ∨ leAt b 2 2 = 0 ∨ 4800 < leAt b 2 2 ∨ leAt b 4 2 < 38 ∨ 480 < leAt b 4 2) : rampOk b = false := by
  rw [Bool.eq_false_iff, Ne, rampOk_iff]
  omega

theorem yields_keepSetSize_refused (ha : mbAnswers path .other s = true)
    (h : b.length ≠ 16 ∨ leAt b 0 8 % 2 ^ 28 ≠ 0 ∨ 2 ^ 33 < leAt b 0 8 ∨ leAt b 8 8 % 2 ^ 30 ≠ 0
      ∨ 48 * 2 ^ 30 < leAt b 8 8) :
    Yields (.keepSetSize path b) s fun t =>
      Replied path .invalidInput 0 [] s t ∧ t = { s with out := t.out, cxl := t.cxl } :=
  yields_mbInvalid (show exec _ s = execKeepSetSize path b s from rfl) ha (if_pos h)

theorem yields_rampSet_refused (ha : mbAnswers path .other s = true) (h : rampOk b = false) :
    Yields (.rampSet path b) s fun t =>
      Replied path .invalidInput 0 [] s t ∧ t = { s with out := t.out, cxl := t.cxl } :=
  yields_mbInvalid (show exec _ s = execRampSet path b s from rfl) ha (if_pos (by simp [h]))

theorem yields_planLoad_refused (ha : mbAnswers path .other s = true) (h : planOk b = false) :
    Yields (.planLoad path b) s fun t =>
      Replied path .invalidInput 0 [] s t ∧ t = { s with out := t.out, cxl := t.cxl } :=
  yields_mbInvalid (show exec _ s = execPlanLoad path b s from rfl) ha (if_pos (by simp [h]))

/-! ### What the commands set -/

@[simp] theorem ordersNow_mbReply (s : State) (code : MbCode) (ext : Nat) (payload : List Byte) :
    ordersNow (mbReply path code ext payload s) = ordersNow s :=
  ordersNow_congr (by simp only [mbReply_keeps]) (by simp only [mbReply_keeps]) (by simp only [mbReply_keeps])

/-- A command that a contest admits alone sets what it sets, answers Success and is kept for the boundary. -/
theorem yields_of_alone {post : State → Prop} {f : State → State} (g : State → State)
    (hi : exec i s = mbRun path .other f s) (ha : mbAnswers path .other s = true)
    (hf : f s = mbContest path o k false (fun s => mbReply path .success 0 [] (g s)) s) (h : Alone o s)
    (hn : ordersNow (g s) = ordersNow s) (hp : post (noteOrder (mbOrder path o k) (mbReply path .success 0 [] (g s)))) :
    Yields i s post := by
  refine yields_of_mbRun hi ha ?_
  rw [hf, mbContest_of_alone h ((ordersNow_mbReply (g s) ..).trans hn)]
  exact hp

/-- An answer stands when its command is kept for the boundary. -/
theorem replied_noteOrder {x : Order} {code : MbCode} {ext : Nat} {payload : List Byte} {u : State} (ho : u.out = s.out)
    (hc : u.cxl = s.cxl) : Replied path code ext payload s (noteOrder x (mbReply path code ext payload u)) :=
  replied_mbReply ho hc

/-- The pair that the two words spell. -/
theorem keepSz_of_words {z : KeepSz} (hsize : leAt b 0 8 = z.size.toNat * 2 ^ 28) (hrsv : leAt b 8 8 = z.rsv.toNat * 2 ^ 30) :
    ({ size := BitVec.ofNat 6 (leAt b 0 8 / 2 ^ 28), rsv := BitVec.ofNat 6 (leAt b 8 8 / 2 ^ 30) } : KeepSz) = z := by
  rw [hsize, hrsv, Nat.mul_div_cancel _ (by decide), Nat.mul_div_cancel _ (by decide), BitVec.ofNat_toNat,
    BitVec.ofNat_toNat, BitVec.setWidth_eq, BitVec.setWidth_eq]

/-- A good pair's words lie in the ranges of KEEP_SET_SIZE's payload (R87). -/
theorem keepPayload_inRange {z : KeepSz} (hlen : b.length = 16) (hsize : leAt b 0 8 = z.size.toNat * 2 ^ 28)
    (hrsv : leAt b 8 8 = z.rsv.toNat * 2 ^ 30) (hgood : keepBad z = false) :
    ¬(b.length ≠ 16 ∨ leAt b 0 8 % 2 ^ 28 ≠ 0 ∨ 2 ^ 33 < leAt b 0 8 ∨ leAt b 8 8 % 2 ^ 30 ≠ 0
      ∨ 48 * 2 ^ 30 < leAt b 8 8) := by
  have hz : ¬(32 < z.size.toNat ∨ 48 < z.rsv.toNat ∨ 4 * z.rsv.toNat < 2 * z.size.toNat) := by
    simpa only [keepBad, decide_eq_false_iff_not] using hgood
  omega

/-- The state in which KEEP_SET_SIZE has staged and committed a pair. -/
def keepSized (z : KeepSz) (s : State) : State :=
  resizeKeep z { s with dev := { s.dev with keep := { s.dev.keep with staged := z }.judge false false true } }

theorem yields_keepSetSize {z : KeepSz} (ha : mbAnswers path .other s = true) (hlen : b.length = 16)
    (hsize : leAt b 0 8 = z.size.toNat * 2 ^ 28) (hrsv : leAt b 8 8 = z.rsv.toNat * 2 ^ 30) (hgood : keepBad z = false)
    (hidle : keepBusy s = false) (h : Alone .keep s) :
    Yields (.keepSetSize path b) s fun t =>
      Replied path .success 0 [] s t ∧ t.dev.keep.inForce = z ∧ t.dev.keep.staged = z ∧ t.dev.keep.mismatch = false
      ∧ Noted s t ∧ t = { s with out := t.out, cxl := t.cxl, dev := t.dev, keep := t.keep, log := t.log } := by
  refine yields_of_alone (k := .keepSize) (keepSized z) (show exec _ s = execKeepSetSize path b s from rfl) ha ?_ h rfl ?_
  · dsimp only
    rw [if_neg (keepPayload_inRange hlen hsize hrsv hgood), keepSz_of_words hsize hrsv, hgood, hidle]
    rfl
  · refine ⟨replied_noteOrder rfl rfl, ?_⟩
    cases path <;> exact ⟨rfl, rfl, rfl, rfl, rfl⟩

/-- The state in which PLAN_LOAD has put a plan in force and judged the ports by it. -/
def planLoaded (b : List Byte) (s : State) : State :=
  judgeAll { s with
    boot := { s.boot with portWaived := 0#6 }, lnk := { s.lnk with plan := some (planOf b (now s)) } }

/-- The plan is in force, the banks and the power stand, and the judgement only adds to what leaves the module. -/
theorem planLoaded_effect (b : List Byte) (s : State) :
    (planLoaded b s).lnk.plan = some (planOf b (now s)) ∧ (planLoaded b s).bank = s.bank ∧ (planLoaded b s).pwr = s.pwr
    ∧ ordersNow (planLoaded b s) = ordersNow s ∧ s.out <+: (planLoaded b s).out := by
  obtain ⟨hclk, hbank, hpwr, hplan, horders, hat, hout⟩ : LinkFrame _ (planLoaded b s) := linkFrame_judgeAll _
  exact ⟨hplan, hbank, hpwr, ordersNow_congr horders hat hclk, hout⟩

theorem yields_planLoad (ha : mbAnswers path .other s = true) (hok : planOk b = true)
    (hgrc : path = .pf → s.pwr.grcRamp = none) (h : Alone .plan s) :
    Yields (.planLoad path b) s fun t =>
      t.lnk.plan = some (planOf b (now s)) ∧ t.bank = s.bank ∧ t.pwr = s.pwr
      ∧ (∃ mid, t.out = s.out ++ mid ++ .mailbox path .success 0#16 [] :: (if path = .pf then [Out.msix 0 2] else [])) := by
  have hallowed : (decide (path = .pf) && s.pwr.grcRamp.isSome) = false := by
    cases path with
    | pf => simp [hgrc rfl]
    | sideband => rfl
  obtain ⟨hplan, hbank, hpwr, hnow, mid, hmid⟩ := planLoaded_effect b s
  refine yields_of_alone (k := .planLoad) (planLoaded b) (show exec _ s = execPlanLoad path b s from rfl) ha
    ?_ h hnow ?_
  · dsimp only
    rw [hok, hallowed]
    rfl
  · dsimp only [noteOrder]
    simp only [mbReply_keeps]
    refine ⟨hplan, hbank, hpwr, mid, ?_⟩
    rw [hmid]
    exact (replied_mbReply rfl rfl).1

/-- No limit of a new budget lies above the GRC's. -/
theorem not_loose {g : Option Ramp} {r : Ramp}
    (h : g.all (fun g => decide (r.up ≤ g.up ∧ r.down ≤ g.down ∧ r.cap ≤ g.cap)) = true) :
    g.any (fun g => decide (g.up < r.up ∨ g.down < r.down ∨ g.cap < r.cap)) = false := by
  cases g with
  | none => rfl
  | some g => simpa [BitVec.not_lt] using h

/-- The state in which RAMP_SET has taken a budget for the next interval. -/
def rampTaken (path : MbPath) (r : Ramp) (s : State) : State :=
  { s with pwr := { s.pwr with rampNext := some r, grcRamp := if path = .sideband then some r else s.pwr.grcRamp } }

theorem yields_rampSet (ha : mbAnswers path .other s = true) (hok : rampOk b = true) (h : Alone .ramp s)
    (hgrc : path = .pf → s.pwr.grcRamp.all (fun g =>
      decide ((rampOf b).up ≤ g.up ∧ (rampOf b).down ≤ g.down ∧ (rampOf b).cap ≤ g.cap)) = true) :
    Yields (.rampSet path b) s fun t =>
      Replied path .success 0 [] s t ∧ t.pwr.rampNext = some (rampOf b) ∧ t.pwr.ramp = s.pwr.ramp
      ∧ t.pwr.grcRamp = (if path = .sideband then some (rampOf b) else s.pwr.grcRamp)
      ∧ Noted s t ∧ t = { s with out := t.out, cxl := t.cxl, pwr := t.pwr, log := t.log } := by
  have hallowed : (decide (path = .pf) && s.pwr.grcRamp.any (fun g =>
      decide (g.up < (rampOf b).up ∨ g.down < (rampOf b).down ∨ g.cap < (rampOf b).cap))) = false := by
    cases path with
    | pf => rw [not_loose (hgrc rfl), Bool.and_false]
    | sideband => rfl
  refine yields_of_alone (k := .rampSet) (rampTaken path (rampOf b)) (show exec _ s = execRampSet path b s from rfl) ha
    ?_ h rfl ?_
  · dsimp only
    rw [hok, hallowed]
    rfl
  · refine ⟨replied_noteOrder rfl rfl, ?_⟩
    cases path <;> exact ⟨rfl, rfl, rfl, rfl, rfl⟩

/-! ### The vendor commands together -/

/-- Settles O24: a command acts where its contest admits it, the PF's loses to the GRC's, and each judges its payload
before anything else. -/
theorem vendorCommandsAreCarriedOut : Obligations.VendorCommandsAreCarriedOut := by
  unfold Obligations.VendorCommandsAreCarriedOut
  refine ⟨?keepInfo, ?keepSize, ?planLoad, ?planRefused, ?planGet, ?rampSet, ?preempted, ?rampGet, ?keepInfoRefused,
    ?planGetRefused, ?rampGetRefused, ?keepSizeRefused, ?rampRefused⟩
  case keepInfo => exact fun s path ha => yields_mbReply (show exec _ s = execKeepGetInfo path [] s from rfl) ha rfl
  case keepSize => exact fun _ _ _ _ ha hlen hsize hrsv hgood hidle h => yields_keepSetSize ha hlen hsize hrsv hgood hidle h
  case planLoad => exact fun _ _ _ ha hok hgrc h => yields_planLoad ha hok hgrc h
  case planRefused => exact fun _ _ _ ha hbad => yields_planLoad_refused ha hbad
  case planGet => exact fun s path ha => yields_mbReply (show exec _ s = execPlanGet path [] s from rfl) ha rfl
  case rampSet => exact fun _ _ _ ha hok h hgrc => yields_rampSet ha hok h hgrc
  case preempted =>
    rintro s _ b a ha hm (⟨rfl, hok, hr⟩ | ⟨rfl, hok, hr⟩)
    · exact yields_of_rival (show exec _ s = execRampSet .pf b s from rfl) ha (if_neg (by simp [hok])) hr hm
    · exact yields_of_rival (show exec _ s = execPlanLoad .pf b s from rfl) ha (if_neg (by simp [hok])) hr hm
  case rampGet => exact fun _ _ ha => yields_rampGet ha
  case keepInfoRefused =>
    exact fun s path b ha hb => yields_mbInvalid (show exec _ s = execKeepGetInfo path b s from rfl) ha (if_pos hb)
  case planGetRefused =>
    exact fun s path b ha hb => yields_mbInvalid (show exec _ s = execPlanGet path b s from rfl) ha (if_pos hb)
  case rampGetRefused =>
    exact fun s path b ha hb => yields_mbInvalid (show exec _ s = execRampGet path b s from rfl) ha (if_pos hb)
  case keepSizeRefused => exact fun _ _ _ ha h => yields_keepSetSize_refused ha h
  case rampRefused => exact fun _ _ _ ha h => yields_rampSet_refused ha (rampOk_eq_false h)

end Sys2Proof.Machine
end

section
/-! What one step of Tilth code comes to: the instruction boundary, a fault, a wait on the Seam and the way to the next
instruction, for every instruction alike (06 R176, R177, R180, R181; 05 R154). -/

namespace Sys2Proof.Machine

variable {s u : State} {op w g n code : Nat} {sem : Nat → Nat → State → TOut} {x y : Grain}

/-! ### The order of the judgements -/

@[simp] theorem judged_nil (s : State) (k : TOut) : judged [] s k = k := rfl

@[simp] theorem judged_true (l : List (Bool × Nat)) (s : State) (k : TOut) :
    judged ((true, code) :: l) s k = .fault code s := rfl

@[simp] theorem judged_false (l : List (Bool × Nat)) (s : State) (k : TOut) :
    judged ((false, code) :: l) s k = judged l s k := rfl

/-! ### The shared step -/

theorem running_of_atWord (h : atWord op w g s = true) :
    (grain s g).state = .running ∧ currentWord (grain s g) = w ∧ majorOf w = op := by
  simp only [atWord, Bool.and_eq_true, decide_eq_true_eq] at h
  obtain ⟨⟨⟨⟨hrun, hword⟩, hop⟩, -⟩, -⟩ := h
  exact ⟨hrun, hword, hop⟩

/-- No refresh has come due, so the boundary does nothing (07 R205). -/
theorem boundary_of_atWord (h : atWord op w g s = true) : boundary g s = s := by
  simp only [atWord, Bool.and_eq_true, decide_eq_true_eq] at h
  obtain ⟨⟨-, heven⟩, hodd⟩ := h
  exact if_neg (by omega)

theorem tilthStep_of_next (h : atWord op w g s = true) (hs : sem w g s = .next u n) :
    tilthStep op sem g s = finishInsn g n (fun x => nextInOrder x x.pc) u := by
  obtain ⟨hrun, hword, hop⟩ := running_of_atWord h
  simp [tilthStep, hrun, hword, hop, boundary_of_atWord h, hs]

theorem tilthStep_of_fault (h : atWord op w g s = true) (hs : sem w g s = .fault code u) :
    tilthStep op sem g s = faultGrain g code u := by
  obtain ⟨hrun, hword, hop⟩ := running_of_atWord h
  simp [tilthStep, hrun, hword, hop, boundary_of_atWord h, hs]

theorem tilthStep_of_stall (h : atWord op w g s = true) (hs : sem w g s = .stall) : tilthStep op sem g s = s := by
  obtain ⟨hrun, hword, hop⟩ := running_of_atWord h
  simp [tilthStep, hrun, hword, hop, boundary_of_atWord h, hs]

/-! ### The next instruction in order -/

/-- Two grains stand at the same instruction of the same code, in the same loops. -/
structure SameRun (x y : Grain) : Prop where
  insn : x.insn = y.insn
  pc : x.pc = y.pc
  store : x.store = y.store
  loop0 : x.loop0 = y.loop0
  loop1 : x.loop1 = y.loop1

/-- The next index and the loop levels come from the loop levels alone; nothing else of a grain changes. -/
theorem nextInOrder_of_loops (h0 : y.loop0 = x.loop0) (h1 : y.loop1 = x.loop1) (p : Nat) :
    nextInOrder y p = { y with
      loop0 := (nextInOrder x p).loop0, loop1 := (nextInOrder x p).loop1, pc := (nextInOrder x p).pc } := by
  obtain ⟨⟩ := x
  obtain ⟨⟩ := y
  cases h0
  cases h1
  simp only [nextInOrder]
  repeat' split
  all_goals rfl

theorem nextInOrder_pc_of_sameRun (h : SameRun y x) (p : Nat) : (nextInOrder y p).pc = (nextInOrder x p).pc := by
  rw [nextInOrder_of_loops h.loop0 h.loop1]

theorem nextInOrder_insn (x : Grain) (p : Nat) : (nextInOrder x p).insn = x.insn := by
  rw [nextInOrder_of_loops rfl rfl]

theorem nextInOrder_store (x : Grain) (p : Nat) : (nextInOrder x p).store = x.store := by
  rw [nextInOrder_of_loops rfl rfl]

theorem sameRegs_addClocks_nextInOrder (n p : Nat) (y : Grain) : SameRegs (addClocks n (nextInOrder y p)) y := by
  rw [nextInOrder_of_loops rfl rfl]
  exact ⟨rfl, rfl, rfl, rfl, rfl, rfl, rfl, rfl, rfl⟩

/-- It is the same to count an instruction's clocks before and after the move. -/
theorem nextInOrder_addClocks (n p : Nat) (x : Grain) : nextInOrder (addClocks n x) p = addClocks n (nextInOrder x p) :=
  have hmove := nextInOrder_of_loops (x := x) rfl rfl p
  (nextInOrder_of_loops (y := addClocks n x) (x := x) rfl rfl p).trans (congrArg (addClocks n) hmove.symm)

theorem nextKnown_of_sameRun (h : SameRun y x) (p : Nat) : nextKnown y p = nextKnown x p := by
  simp only [nextKnown, h.insn, h.store, nextInOrder_pc_of_sameRun h]

/-- A fetched word of Table 6.2 passes the first check where the grain runs from its Tilth store. -/
theorem fetchCheck_of_known (hi : (grain s g).insn = none)
    (hk : majorKnown (majorOf (tget 0#32 (grain s g).store (grain s g).pc).toNat) = true) : fetchCheck g s = s := by
  refine if_neg ?_
  simp [currentWord, hi, hk]

/-! ### The stop of a grain -/

@[simp] theorem grain_closeRows (g k : Nat) (s : State) : grain (closeRows g s) k = grain s k := rfl

/-- What a stop leaves of the grain: its fault, its stamp and its clocks are set, its Spread is over. -/
theorem grain_stopGrain_self (g : Nat) (st : GState) (fault pc : Nat) (s : State) :
    grain (stopGrain g st fault pc s) g = { grain s g with
      state := st, fault := BitVec.ofNat 8 fault, faultPc := BitVec.ofNat 11 pc,
      runClocks := (grain (stopGrain g st fault pc s) g).runClocks, craMtb := now s, insn := none, accReady := [] } := by
  unfold stopGrain
  dsimp only
  split <;> simp [takeFree, grain, setDie, setGrain]

theorem grain_stopGrain_ne (st : GState) (fault pc : Nat) (s : State) {k : Nat} (h : k ≠ g) :
    grain (stopGrain g st fault pc s) k = grain s k := by
  unfold stopGrain
  dsimp only
  split
  · exact grain_setGrain_ne s g k _ h
  · exact grain_setGrain_ne s g k _ h

/-- A stop touches the banks' grains and dies and takes at most a free value. -/
theorem stopGrain_frame (g : Nat) (st : GState) (fault pc : Nat) (s : State) :
    (stopGrain g st fault pc s).bank.mem = s.bank.mem ∧ (stopGrain g st fault pc s).bank.marks = s.bank.marks
    ∧ stopGrain g st fault pc s = { s with
        bank := (stopGrain g st fault pc s).bank, freeCtr := (stopGrain g st fault pc s).freeCtr } := by
  unfold stopGrain
  dsimp only
  split <;> exact ⟨rfl, rfl, rfl⟩

/-- A fault stops the grain alone. -/
theorem faults_faultGrain (g code : Nat) (s : State) : Faults g code s (faultGrain g code s) := by
  have hstop : Faults g code s
      (stopGrain g .faulted code (if (grain s g).insn = none then (grain s g).pc else 0) s) := by
    obtain ⟨hmem, -⟩ := stopGrain_frame g .faulted code (if (grain s g).insn = none then (grain s g).pc else 0) s
    unfold Faults
    rw [grain_stopGrain_self]
    exact ⟨rfl, rfl, apply_ite (BitVec.ofNat 11) _ _ _, ⟨rfl, rfl, rfl, rfl, rfl, rfl, rfl, rfl, rfl⟩, hmem,
      fun _ hk => grain_stopGrain_ne _ _ _ s hk⟩
  unfold faultGrain
  dsimp only
  split <;> exact hstop

/-! ### An instruction done -/

/-- The rows that close are no part of what an instruction has done. -/
theorem Did.closeRows {t : State} (h : Did g n y s t) : Did g n y s (closeRows g t) := by
  obtain ⟨hg, hother, hmem, hmarks, hframe⟩ := h
  exact ⟨hg, hother, hmem, hmarks, congrArg (Machine.closeRows g) hframe⟩

/-- A Spread ends with its instruction (06 R180). -/
theorem did_stopGrain (hi : (grain u g).insn ≠ none) :
    Did g n y u (stopGrain g .idle 0 0 (setGrain g (addClocks n y) (setGrain g y u))) := by
  obtain ⟨hmem, hmarks, hframe⟩ := stopGrain_frame g .idle 0 0 (setGrain g (addClocks n y) (setGrain g y u))
  refine ⟨?_, fun k hk => ?_, hmem, hmarks, hframe⟩
  · rw [if_neg hi, grain_stopGrain_self, grain_setGrain_self]
    exact ⟨rfl, rfl, rfl, ⟨rfl, rfl, rfl, rfl, rfl, rfl, rfl, rfl, rfl⟩, rfl⟩
  · rw [grain_stopGrain_ne _ _ _ _ hk, grain_setGrain_ne _ _ _ _ hk, grain_setGrain_ne _ _ _ _ hk]

/-- A run moves on to the next instruction in order (06 R176). -/
theorem did_setGrain (hi : (grain u g).insn = none) :
    Did g n y u (setGrain g (addClocks n (nextInOrder y (grain u g).pc)) (setGrain g y u)) := by
  refine ⟨?_, fun k hk => ?_, rfl, rfl, rfl⟩
  · rw [if_pos hi, grain_setGrain_self]
  · rw [grain_setGrain_ne _ _ _ _ hk, grain_setGrain_ne _ _ _ _ hk]

/-- The end of an instruction that wrote its grain: a run moves on, a Spread is over. -/
theorem did_finishInsn (hrun : SameRun y (grain u g)) (hk : nextKnown (grain u g) (grain u g).pc = true) :
    Did g n y u (finishInsn g n (fun x => nextInOrder x x.pc) (setGrain g y u)) := by
  have hinsn : (addClocks n y).insn = (grain u g).insn := hrun.insn
  have hmove : nextInOrder (addClocks n y) (addClocks n y).pc = addClocks n (nextInOrder y (grain u g).pc) := by
    rw [nextInOrder_addClocks, ← hrun.pc]
    rfl
  unfold finishInsn
  dsimp only
  rw [grain_setGrain_self, hinsn, hmove]
  by_cases hi : (grain u g).insn = none
  · rw [if_neg (by simp [hi]), fetchCheck_of_known]
    · exact did_setGrain hi
    · rw [grain_setGrain_self]
      exact (nextInOrder_insn y _).trans (hrun.insn.trans hi)
    · rw [← nextKnown_of_sameRun hrun] at hk
      simpa [nextKnown, addClocks, nextInOrder_store, hrun.insn, hi] using hk
  · rw [if_pos (Option.isSome_iff_ne_none.mpr hi)]
    split
    · exact did_stopGrain hi
    · exact (did_stopGrain hi).closeRows

/-- A step whose meaning is done has done what it came to. -/
theorem did_of_next (h : atWord op w g s = true) (hs : sem w g s = .next (setGrain g y u) n)
    (hrun : SameRun y (grain u g)) (hk : nextKnown (grain u g) (grain u g).pc = true) :
    Did g n y u (tilthStep op sem g s) := by
  rw [tilthStep_of_next h hs]
  exact did_finishInsn hrun hk

theorem Did.other {t : State} (h : Did g n y s t) : ∀ k, k ≠ g → grain t k = grain s k := h.2.1

theorem Did.mem {t : State} (h : Did g n y s t) : t.bank.mem = s.bank.mem := h.2.2.1

theorem Did.grain_of_run {t : State} (h : Did g n y s t) (hi : (grain s g).insn = none) :
    grain t g = addClocks n (nextInOrder y (grain s g).pc) := by
  obtain ⟨hg, -⟩ := h
  rwa [if_pos hi] at hg

/-- Done or ended, an instruction leaves the registers that it wrote. -/
theorem Did.sameRegs {t : State} (h : Did g n y s t) : SameRegs (grain t g) y := by
  obtain ⟨hg, -⟩ := h
  split at hg
  · rw [hg]
    exact sameRegs_addClocks_nextInOrder ..
  · obtain ⟨-, -, -, hregs, -⟩ := hg
    exact hregs

end Sys2Proof.Machine
end

section
/-! The lanes of a vector: what a lane of a packed list is, and what a lane of a vector is as a number (06 R165). -/

namespace Sys2Proof.Machine

variable {w i n : Nat}

/-- The lanes of a packed list are its members. -/
theorem unlanes_div_mod (w i : Nat) (l : List Nat) : unlanes w l / 2 ^ (w * i) % 2 ^ w = l.getD i 0 % 2 ^ w := by
  induction l generalizing i with
  | nil => simp [unlanes]
  | cons x l ih =>
    have hcons : unlanes w (x :: l) = x % 2 ^ w + 2 ^ w * unlanes w l := rfl
    have hlt : x % 2 ^ w < 2 ^ w := Nat.mod_lt _ (Nat.two_pow_pos w)
    cases i with
    | zero => simp [hcons]
    | succ i =>
      have hdiv : unlanes w (x :: l) / 2 ^ w = unlanes w l := by
        rw [hcons, Nat.add_mul_div_left _ _ (Nat.two_pow_pos w), Nat.div_eq_of_lt hlt, Nat.zero_add]
      rw [Nat.mul_succ, Nat.add_comm, Nat.pow_add, ← Nat.div_div_eq_div_mul, hdiv, ih, List.getD_cons_succ]

/-- A lane inside a register is not cut by its width. -/
theorem extractLsb'_ofNat {start len : Nat} (h : start + len ≤ n) (v : Nat) :
    (BitVec.ofNat n v).extractLsb' start len = BitVec.ofNat len (v / 2 ^ start) := by
  refine BitVec.eq_of_getLsbD_eq fun k hk => ?_
  have hn : start + k < n := by omega
  simp only [BitVec.getLsbD_extractLsb', BitVec.getLsbD_ofNat, Nat.testBit_div_two_pow, hk, hn, decide_true, Bool.true_and,
    Nat.add_comm]

/-- A lane of a vector that holds a packed list. -/
theorem extractLsb'_ofNat_unlanes (h : w * i + w ≤ n) (l : List Nat) :
    (BitVec.ofNat n (unlanes w l)).extractLsb' (w * i) w = BitVec.ofNat w (l.getD i 0) := by
  rw [extractLsb'_ofNat h]
  exact BitVec.eq_of_toNat_eq (by simpa using unlanes_div_mod w i l)

/-- A lane of a vector, from its lanes as numbers. -/
theorem ofNat_lanes_getD {m : Nat} (h : i < n) (v : BitVec m) :
    BitVec.ofNat w ((lanes n w v.toNat).getD i 0) = v.extractLsb' (w * i) w := by
  refine BitVec.eq_of_toNat_eq ?_
  simp [lanes, h, Nat.shiftRight_eq_div_pow]

end Sys2Proof.Machine
end

section
/-! The Seam: what SEND puts on its way, what RECV and RADD take, and a vector's arrival (05 R140 to R143, 06 R178, R179). -/

namespace Sys2Proof.Machine

variable {s : State} {g : GrainNo} {w : Nat} {down above : Bool} {v : Line} {x : Grain}

/-! ### Registers -/

@[simp] theorem vreg_setV_self (x : Grain) (i : Nat) (v : Line) : vreg (x.setV i v) i = v := tget_tset_self ..

theorem vreg_setV_ne (x : Grain) (v : Line) {i k : Nat} (h : k ≠ i) : vreg (x.setV i v) k = vreg x k :=
  tget_tset_ne _ _ _ _ _ h

theorem vreg_of_sameRegs {y : Grain} (h : SameRegs y x) (i : Nat) : vreg y i = vreg x i := by
  obtain ⟨-, hvec, -⟩ := h
  exact congrArg (tget 0#512 · i) hvec

theorem acc_of_sameRegs {y : Grain} (h : SameRegs y x) : y.acc = x.acc := by
  obtain ⟨-, -, -, hacc, -⟩ := h
  exact hacc

/-! ### The buffers -/

/-- The vectors on their way to a grain, from above where `down`. -/
def inflight (down : Bool) (x : Grain) : List Line := if down = true then x.inflightDown else x.inflightUp

/-- A grain's receive buffer, the one from above or the one from below. -/
def received (above : Bool) (x : Grain) : List Line := if above = true then x.recvDown else x.recvUp

/-- A grain to which one vector more is on its way. -/
def withSent (down : Bool) (v : Line) (x : Grain) : Grain :=
  if down = true then { x with inflightDown := x.inflightDown ++ [v] } else { x with inflightUp := x.inflightUp ++ [v] }

/-- A grain that has taken the oldest vector of a buffer. -/
def withTaken (above : Bool) (x : Grain) : Grain :=
  if above = true then { x with recvDown := x.recvDown.tail, unclocked := true }
  else { x with recvUp := x.recvUp.tail, unclocked := true }

theorem inflight_withSent (down : Bool) (v : Line) (x : Grain) :
    inflight down (withSent down v x) = inflight down x ++ [v] := by
  cases down <;> rfl

theorem vec_withSent (down : Bool) (v : Line) (x : Grain) : (withSent down v x).vec = x.vec := by
  cases down <;> rfl

theorem received_withTaken (above : Bool) (x : Grain) : received above (withTaken above x) = (received above x).tail := by
  cases above <;> rfl

theorem vreg_withTaken (above : Bool) (x : Grain) (i : Nat) : vreg (withTaken above x) i = vreg x i := by
  cases above <;> rfl

theorem acc_withTaken (above : Bool) (x : Grain) : (withTaken above x).acc = x.acc := by
  cases above <;> rfl

/-- Taking a vector into a register does not move the grain. -/
theorem sameRun_setV_withTaken (above : Bool) (x : Grain) (i : Nat) (v : Line) :
    SameRun ((withTaken above x).setV i v) x := by
  cases above <;> exact ⟨rfl, rfl, rfl, rfl, rfl⟩

theorem received_setV (above : Bool) (x : Grain) (i : Nat) (v : Line) : received above (x.setV i v) = received above x := rfl

theorem received_of_sameRegs {y : Grain} (h : SameRegs y x) (above : Bool) : received above y = received above x := by
  obtain ⟨-, -, -, -, -, -, hup, hdown, -⟩ := h
  rw [received, hup, hdown]
  rfl

/-- Taking gives the oldest vector of the buffer, if it holds one. -/
theorem takeSeam_eq (x : Grain) (above : Bool) :
    takeSeam x above = (received above x).head?.map fun v => (v, withTaken above x) := by
  cases above with
  | false => cases hb : x.recvUp <;> simp [takeSeam, received, withTaken, hb]
  | true => cases hb : x.recvDown <;> simp [takeSeam, received, withTaken, hb]

/-! ### SEND -/

theorem insSend_of_room {h : Nat} (h0 : bits w 0 18 = 0) (h22 : bits w 22 3 = 0) (hn : nearest s g (bitAt w 25) = some h)
    (hroom : seamLoad (grain s h) (bitAt w 25) < 4) (hne : h ≠ g.val) :
    insSend w g s = .next (setGrain g { grain s g with unclocked := true }
      (setGrain h (withSent (bitAt w 25) (vreg (grain s g) (bits w 18 4)) (grain s h)) s)) 1 := by
  simp [insSend, rsvSet, h0, h22, hn, Nat.not_le.mpr hroom, grain_setGrain_ne s h g _ hne.symm, withSent]

theorem insSend_of_none (h0 : bits w 0 18 = 0) (h22 : bits w 22 3 = 0) (hn : nearest s g (bitAt w 25) = none) :
    insSend w g s = .fault 0x05 s := by
  simp [insSend, rsvSet, h0, h22, hn]

theorem grainCoord_grain (g : Nat) : (grainCoord g).2.2.2 = g % 16 := by
  unfold grainCoord
  split <;> rfl

/-- The line of a die's sixteen grains ends at grain 15 going up and at grain 0 going down (R142). -/
theorem nearest_of_end {g : Nat} (h : (down = false ∧ g % 16 = 15) ∨ (down = true ∧ g % 16 = 0)) :
    nearest s g down = none := by
  obtain ⟨rfl, hend⟩ | ⟨rfl, hend⟩ := h <;> simp [nearest, grainCoord_grain, hend]

theorem yields_send_of_room {h : Nat} (ha : atWord 0x30 w g s = true) (h0 : bits w 0 18 = 0) (h22 : bits w 22 3 = 0)
    (hn : nearest s g (bitAt w 25) = some h) (hroom : seamLoad (grain s h) (bitAt w 25) < 4) (hne : h ≠ g.val)
    (hk : nextKnown (grain s g) (grain s g).pc = true) :
    Yields (.send g) s fun t =>
      inflight (bitAt w 25) (grain t h) = inflight (bitAt w 25) (grain s h) ++ [vreg (grain s g) (bits w 18 4)]
      ∧ SameRegs (grain t g) (grain s g) ∧ (grain t h).vec = (grain s h).vec
      ∧ ((grain s g).insn = none → (grain t g).pc = (nextInOrder (grain s g) (grain s g).pc).pc)
      ∧ (∀ i, i ≠ g.val → i ≠ h → grain t i = grain s i) ∧ t.bank.mem = s.bank.mem := by
  have hsender : ∀ y, grain (setGrain h y s) g = grain s g := fun y => grain_setGrain_ne s h g y hne.symm
  have hrun : SameRun { grain s g with unclocked := true } (grain s g) := ⟨rfl, rfl, rfl, rfl, rfl⟩
  have hdid := did_of_next ha (insSend_of_room h0 h22 hn hroom hne) (by rwa [hsender]) (by rwa [hsender])
  have htarget := hdid.other h hne
  rw [grain_setGrain_self] at htarget
  refine ⟨_, rfl, ?_, hdid.sameRegs, ?_, fun hi => ?_, fun i hg hi => ?_, hdid.mem⟩
  · rw [htarget, inflight_withSent]
  · rw [htarget, vec_withSent]
  · rw [hdid.grain_of_run (by rwa [hsender]), hsender]
    exact nextInOrder_pc_of_sameRun hrun _
  · rw [hdid.other i hg, grain_setGrain_ne _ _ _ _ hi]

theorem yields_send_of_none (ha : atWord 0x30 w g s = true) (h0 : bits w 0 18 = 0) (h22 : bits w 22 3 = 0)
    (hn : nearest s g (bitAt w 25) = none) : Yields (.send g) s (Faults g 0x05 s) := by
  refine ⟨_, rfl, ?_⟩
  rw [tilthStep_of_fault ha (insSend_of_none h0 h22 hn)]
  exact faults_faultGrain ..

/-! ### RECV and RADD -/

theorem insRecv_of_some (h0 : bits w 0 18 = 0) (h22 : bits w 22 3 = 0)
    (hv : (received (bitAt w 25) (grain s g)).head? = some v) :
    insRecv w g s = .next (setGrain g ((withTaken (bitAt w 25) (grain s g)).setV (bits w 18 4) v) s) 1 := by
  simp [insRecv, rsvSet, h0, h22, takeSeam_eq, hv]

theorem insRecv_of_nil (h0 : bits w 0 18 = 0) (h22 : bits w 22 3 = 0) (hv : received (bitAt w 25) (grain s g) = []) :
    insRecv w g s = .stall := by
  simp [insRecv, rsvSet, h0, h22, takeSeam_eq, hv]

/-- A lane of a bf16 sum is the rounded sum of the two lanes. -/
theorem ofNat_vopLane_add16 (a b : Nat) :
    BitVec.ofNat 16 (vopLane 0 0 a b)
      = Fp.round16 false (Fp.addV (Fp.val16 (BitVec.ofNat 16 a)) (Fp.val16 (BitVec.ofNat 16 b))) :=
  (BitVec.ofNat_toNat ..).trans (BitVec.setWidth_eq _)

/-- The sum of two vectors in bf16, lane by lane (06 R170). -/
def sum16 (a b : Line) : Line :=
  BitVec.ofNat 512 (unlanes 16 ((List.range 32).map fun i =>
    vopLane 0 0 ((lanes 32 16 a.toNat).getD i 0) ((lanes 32 16 b.toNat).getD i 0)))

theorem extractLsb'_sum16 (a b : Line) {l : Nat} (hl : l < 32) :
    (sum16 a b).extractLsb' (16 * l) 16
      = Fp.round16 false (Fp.addV (Fp.val16 (a.extractLsb' (16 * l) 16)) (Fp.val16 (b.extractLsb' (16 * l) 16))) := by
  have hlane : ((List.range 32).map fun i =>
      vopLane 0 0 ((lanes 32 16 a.toNat).getD i 0) ((lanes 32 16 b.toNat).getD i 0)).getD l 0
      = vopLane 0 0 ((lanes 32 16 a.toNat).getD l 0) ((lanes 32 16 b.toNat).getD l 0) := by simp [hl]
  rw [sum16, extractLsb'_ofNat_unlanes (by omega), hlane, ofNat_vopLane_add16, ofNat_lanes_getD hl, ofNat_lanes_getD hl]

theorem insRadd_of_some (h0 : bits w 0 14 = 0) (h22 : bits w 22 1 = 0) (hty : bits w 23 2 = 0)
    (hv : (received (bitAt w 25) (grain s g)).head? = some v) :
    insRadd w g s = .next (setGrain g ((withTaken (bitAt w 25) (grain s g)).setV (bits w 18 4)
      (sum16 v (vreg (grain s g) (bits w 14 4)))) s) 2 := by
  simp [insRadd, rsvSet, h0, h22, hty, takeSeam_eq, hv, sum16, vreg_withTaken, laneCount, laneWidth]

/-- What RECV and RADD leave when they have put a value made of the vector taken in a register. -/
theorem yields_of_taken {op n d : Nat} {sem : Nat → Nat → State → TOut} {i : Instr}
    (hi : exec i s = .next (tilthStep op sem g s)) (ha : atWord op w g s = true)
    (hs : sem w g s = .next (setGrain g ((withTaken above (grain s g)).setV d v) s) n)
    (hk : nextKnown (grain s g) (grain s g).pc = true) :
    Yields i s fun t => vreg (grain t g) d = v
      ∧ received above (grain t g) = (received above (grain s g)).tail
      ∧ (∀ i, i ≠ d → vreg (grain t g) i = vreg (grain s g) i) ∧ (grain t g).acc = (grain s g).acc
      ∧ t.bank.mem = s.bank.mem ∧ (∀ i, i ≠ g.val → grain t i = grain s i) := by
  have hdid := did_of_next ha hs (sameRun_setV_withTaken ..) hk
  have hregs := hdid.sameRegs
  refine ⟨_, hi, ?_, ?_, fun i hne => ?_, ?_, hdid.mem, hdid.other⟩
  · rw [vreg_of_sameRegs hregs, vreg_setV_self]
  · rw [received_of_sameRegs hregs, received_setV, received_withTaken]
  · rw [vreg_of_sameRegs hregs, vreg_setV_ne _ _ hne, vreg_withTaken]
  · exact (acc_of_sameRegs hregs).trans (acc_withTaken ..)

theorem yields_recv_of_nil (ha : atWord 0x31 w g s = true) (h0 : bits w 0 18 = 0) (h22 : bits w 22 3 = 0)
    (hv : received (bitAt w 25) (grain s g) = []) : Yields (.recv g) s fun t => t = s :=
  ⟨_, rfl, tilthStep_of_stall ha (insRecv_of_nil h0 h22 hv)⟩

/-! ### The arrival -/

/-- An arrival changes the one grain. -/
theorem yields_seamVectorArrive {y : Grain} (hi : exec (.seamVectorArrive g down) s = .next (setGrain g y s)) :
    Yields (.seamVectorArrive g down) s fun t => grain t g = y
      ∧ (∀ h, h ≠ g.val → grain t h = grain s h) ∧ t = { s with bank := { s.bank with grains := t.bank.grains } } :=
  ⟨_, hi, grain_setGrain_self .., fun k hk => grain_setGrain_ne s g k y hk, rfl⟩

theorem exec_seamVectorArrive_up {rest : List Line} (h : (grain s g).inflightUp = v :: rest) :
    exec (.seamVectorArrive g false) s
      = .next (setGrain g { grain s g with inflightUp := rest, recvUp := (grain s g).recvUp ++ [v] } s) := by
  simp [exec, execSeamVectorArrive, ok, h]

theorem exec_seamVectorArrive_down {rest : List Line} (h : (grain s g).inflightDown = v :: rest) :
    exec (.seamVectorArrive g true) s
      = .next (setGrain g { grain s g with inflightDown := rest, recvDown := (grain s g).recvDown ++ [v] } s) := by
  simp [exec, execSeamVectorArrive, ok, h]

/-! ### The Seam's instructions together -/

/-- Settles O44: SEND only queues a vector at its neighbour, RECV and RADD only take the oldest of a buffer into a register, and
the arrival moves a vector from the one list to the other. -/
theorem seamVectorsPass : Obligations.SeamVectorsPass := by
  unfold Obligations.SeamVectorsPass
  refine ⟨?send, ?sendNone, ?sendEnd, ?recv, ?recvWait, ?radd, ?arriveUp, ?arriveDown⟩
  case send => exact fun _ _ _ _ ha h0 h22 hn hroom hne hk => yields_send_of_room ha h0 h22 hn hroom hne hk
  case sendNone => exact fun _ _ _ ha h0 h22 hn => yields_send_of_none ha h0 h22 hn
  case sendEnd => exact fun _ _ _ ha h0 h22 hend => yields_send_of_none ha h0 h22 (nearest_of_end hend)
  case recv =>
    rintro s g w _ v ha h0 h22 rfl hv hk
    exact yields_of_taken rfl ha (insRecv_of_some h0 h22 hv) hk
  case recvWait => exact fun _ _ _ ha h0 h22 hv => yields_recv_of_nil ha h0 h22 hv
  case radd =>
    rintro s g w _ v ha h0 h22 hty rfl hv hk
    refine (yields_of_taken rfl ha (insRadd_of_some h0 h22 hty hv) hk).imp fun t ⟨hd, hbuf, _, _, hmem, hother⟩ => ?_
    refine ⟨fun l hl => ?_, hbuf, hother, hmem⟩
    rw [hd, extractLsb'_sum16 _ _ hl]
  case arriveUp => exact fun _ _ _ _ h => yields_seamVectorArrive (exec_seamVectorArrive_up h)
  case arriveDown => exact fun _ _ _ _ h => yields_seamVectorArrive (exec_seamVectorArrive_down h)

end Sys2Proof.Machine
end

section
/-! Folds that write each member of a list once, and what such a fold makes of one member. -/

namespace Sys2Proof.Machine

variable {σ α β : Type} {read : σ → β} {write : σ → α → σ}

/-- A fold keeps what no write of its list changes. -/
theorem read_foldl_of_keeps {l : List α} (h : ∀ p ∈ l, ∀ u, read (write u p) = read u) (u : σ) :
    read (l.foldl write u) = read u :=
  List.foldlRecOn (motive := fun v => read v = read u) l write rfl fun v hv p hp => (h p hp v).trans hv

/-- A fold over a list without repetition writes each member once. -/
theorem read_foldl_of_mem {F : β → β} {l : List α} {q : α} (hself : ∀ u, read (write u q) = F (read u))
    (hother : ∀ p ∈ l, p ≠ q → ∀ u, read (write u p) = read u) (hnodup : l.Nodup) (hq : q ∈ l) (u : σ) :
    read (l.foldl write u) = F (read u) := by
  obtain ⟨l₁, l₂, rfl⟩ := List.append_of_mem hq
  obtain ⟨hne, -⟩ := List.nodup_cons.mp (List.nodup_middle.mp hnodup)
  have hbefore : ∀ p ∈ l₁, p ≠ q := fun p hp e => hne (e ▸ List.mem_append_left _ hp)
  have hafter : ∀ p ∈ l₂, p ≠ q := fun p hp e => hne (e ▸ List.mem_append_right _ hp)
  rw [List.foldl_append, List.foldl_cons,
    read_foldl_of_keeps fun p hp => hother p (by simp [hp]) (hafter p hp), hself,
    read_foldl_of_keeps fun p hp => hother p (by simp [hp]) (hbefore p hp)]

/-- Two folds agree where their steps agree on every state that they come through. -/
theorem foldl_congr_of_inv {f g : σ → α → σ} {inv : σ → Prop} (l : List α)
    (h : ∀ u, inv u → ∀ p ∈ l, f u p = g u p ∧ inv (g u p)) {u : σ} (hu : inv u) : l.foldl f u = l.foldl g u := by
  induction l generalizing u with
  | nil => rfl
  | cons p l ih =>
    obtain ⟨hstep, hinv⟩ := h u hu p List.mem_cons_self
    rw [List.foldl_cons, List.foldl_cons, hstep]
    exact ih (fun v hv q hq => h v hv q (List.mem_cons_of_mem _ hq)) hinv

end Sys2Proof.Machine
end

section
/-! The dies of a rank: which they are, what a command that every die hears does, and what it leaves (07 R186 to R191). -/

namespace Sys2Proof.Machine

variable {s t u : State} {c r : Nat}

/-! ### Dies and grains by their numbers -/

theorem dieNo_inj {d e : Nat} : dieNo c r d = dieNo c r e ↔ d = e := by
  simp [dieNo]

theorem grainAt_inj {d e g h : Nat} (hg : g < 16) (hh : h < 16) :
    grainAt c r d g = grainAt c r e h ↔ d = e ∧ g = h := by
  unfold grainAt
  split <;> omega

/-- A grain of a rank is found by its number. -/
theorem grainCoord_grainAt {d g : Nat} (he : rankExists c r = true) (hc : c < 16) (hd : d < 4) (hg : g < 16) :
    grainCoord (grainAt c r d g) = (c, r, d, g) := by
  have hrank : r < 2 ∨ r = 2 ∧ c % 4 = 3 := of_decide_eq_true he
  obtain hr | ⟨hr, h3⟩ := hrank
  · have hat : grainAt c r d g = c * 128 + r * 64 + d * 16 + g := if_pos hr
    rw [hat, grainCoord, if_pos (by omega), Prod.mk.injEq, Prod.mk.injEq, Prod.mk.injEq]
    omega
  · have hat : grainAt c r d g = 2048 + c / 4 * 64 + d * 16 + g := if_neg (by omega)
    rw [hat, grainCoord, if_neg (by omega), Prod.mk.injEq, Prod.mk.injEq, Prod.mk.injEq]
    omega

/-! ### What a command at the dies leaves -/

theorem DiesOnly.refl (s : State) : DiesOnly c r s s := ⟨fun _ _ => rfl, rfl⟩

theorem DiesOnly.trans (h : DiesOnly c r s t) (h' : DiesOnly c r t u) : DiesOnly c r s u := by
  obtain ⟨hother, hframe⟩ := h
  obtain ⟨hother', hframe'⟩ := h'
  exact ⟨fun i hi => (hother' i hi).trans (hother i hi), hframe'.trans (congrArg (fun x : State =>
    { x with bank := { x.bank with dies := u.bank.dies }, cnt := { x.cnt with cnt := u.cnt.cnt } }) hframe)⟩

theorem diesOnly_countEv (src inst : Nat) (f : Option Func) (n : Nat) : DiesOnly c r s (countEv src inst f n s) :=
  ⟨fun _ _ => rfl, rfl⟩

theorem diesOnly_setDie {d : Nat} (hd : d < 4) (x : DieSt) : DiesOnly c r s (setDie (dieNo c r d) x s) :=
  ⟨fun _ hi => die_setDie_ne s _ _ _ (hi d hd), rfl⟩

theorem diesOnly_foldl {α : Type} {act : State → α → State} {l : List α} (h : ∀ u, ∀ p ∈ l, DiesOnly c r u (act u p)) :
    DiesOnly c r s (l.foldl act s) :=
  List.foldlRecOn l act (.refl s) fun _ hu p hp => hu.trans (h _ p hp)

/-! ### A command that every die of the rank hears -/

theorem rankHears_iff :
    rankHears s c r = true ↔ rankExists c r = true ∧ ∀ d < 4, dieHears (die s (dieNo c r d)) = true := by
  simp [rankHears]

/-- Where every die hears each step of a command, the rank carries the steps out one after the other. -/
theorem onRank_eq_foldl {act : Nat → State → State} {step : State → Nat → State} {inv : State → Prop}
    (he : rankExists c r = true) (hs : inv s)
    (h : ∀ u, inv u → ∀ d < 4, dieHears (die u (dieNo c r d)) = true ∧ act d u = step u d ∧ inv (step u d)) :
    onRank c r act s = (List.range 4).foldl step s := by
  rw [onRank, if_pos he]
  refine foldl_congr_of_inv _ (fun u hu d hd => ?_) hs
  obtain ⟨hears, hact, hinv⟩ := h u hu d (List.mem_range.mp hd)
  exact ⟨by rw [if_pos hears, hact], hinv⟩

/-- A die's own part of a command that changes each die of a rank by itself. -/
def changeDie (c r : Nat) (F : Nat → DieSt → DieSt) (u : State) (d : Nat) : State :=
  setDie (dieNo c r d) (F d (die u (dieNo c r d))) u

theorem die_changeDie (F : Nat → DieSt → DieSt) (u : State) (d e : Nat) :
    die (changeDie c r F u d) (dieNo c r e) = if e = d then F e (die u (dieNo c r e)) else die u (dieNo c r e) := by
  by_cases he : e = d
  · rw [if_pos he, he, changeDie, die_setDie_self]
  · rw [if_neg he, changeDie, die_setDie_ne _ _ _ _ (fun h => he (dieNo_inj.mp h))]

/-- Each die of the rank is changed once, and no other. -/
theorem foldl_changeDie (F : Nat → DieSt → DieSt) (s : State) :
    (∀ d < 4, die ((List.range 4).foldl (changeDie c r F) s) (dieNo c r d) = F d (die s (dieNo c r d)))
    ∧ DiesOnly c r s ((List.range 4).foldl (changeDie c r F) s) := by
  refine ⟨fun d hd => ?_, diesOnly_foldl fun u d hd => diesOnly_setDie (List.mem_range.mp hd) _⟩
  refine read_foldl_of_mem (read := fun u => die u (dieNo c r d)) (fun u => ?_) (fun e _ hne u => ?_) List.nodup_range
    (List.mem_range.mpr hd) s
  · rw [die_changeDie, if_pos rfl]
  · rw [die_changeDie, if_neg hne.symm]

/-! ### SEL -/

/-- What SEL loads into a die's selection register (07 R191). -/
def withSel (m : GrainSel) (d : Nat) (x : DieSt) : DieSt :=
  { x with sel := if m.dies.getLsbD d
      then m.grains &&& ~~~(BitVec.ofNat 16 ((mrStored x 0x22).toNat + 256 * (mrStored x 0x23).toNat)) else 0#16 }

theorem execSel_of_rankHears {c : Chan} {r : Rank} (m : GrainSel) (h : rankHears s c r = true) :
    execSel c r m s = .next ((List.range 4).foldl (changeDie c r (withSel m)) s) := by
  obtain ⟨he, hears⟩ := rankHears_iff.mp h
  refine congrArg _ (onRank_eq_foldl (inv := fun u => ∀ d < 4, dieHears (die u (dieNo c r d)) = true) he hears
    (step := changeDie c r (withSel m)) fun u hu d hd => ⟨hu d hd, rfl, fun e he => ?_⟩)
  rw [die_changeDie]
  split
  · exact hu e he
  · exact hu e he

/-- The mode registers 0x22 and 0x23 spell the grains that are mapped out, one bit each (07 Table 7.5). -/
theorem getLsbD_mappedOut (x : DieSt) {g : Nat} (hg : g < 16) :
    (BitVec.ofNat 16 ((mrStored x 0x22).toNat + 256 * (mrStored x 0x23).toNat)).getLsbD g = mrOut x g := by
  have hlow : (mrStored x 0x22).toNat < 2 ^ 8 := (mrStored x 0x22).isLt
  have hsum : (mrStored x 0x22).toNat + 256 * (mrStored x 0x23).toNat
      = 2 ^ 8 * (mrStored x 0x23).toNat + (mrStored x 0x22).toNat := by omega
  rw [BitVec.getLsbD_ofNat, hsum, Nat.testBit_two_pow_mul_add _ hlow, mrOut]
  by_cases h8 : g < 8
  · simp [hg, h8, Nat.div_eq_of_lt h8, Nat.mod_eq_of_lt h8, BitVec.getLsbD]
  · have hdiv : g / 8 = 1 := by omega
    have hmod : g % 8 = g - 8 := by omega
    simp [hg, h8, hdiv, hmod, BitVec.getLsbD]

theorem getLsbD_sel_withSel (m : GrainSel) (d : Nat) (x : DieSt) {g : Nat} (hg : g < 16) :
    (withSel m d x).sel.getLsbD g = (m.dies.getLsbD d && m.grains.getLsbD g && !mrOut x g) := by
  cases hd : m.dies.getLsbD d
  · simp [withSel, hd]
  · rw [withSel, if_pos hd, BitVec.getLsbD_and, BitVec.getLsbD_not, getLsbD_mappedOut x hg, decide_eq_true hg, Bool.true_and,
      Bool.true_and]

end Sys2Proof.Machine
end

section
/-! A command on the selected grains of a rank (07 R192): when the dies judge it alike, what it then does, and how a die
ignores it. -/

namespace Sys2Proof.Machine

variable {s t u : State} {c r : Nat}

/-! ### The judgement of a grain command -/

/-- A die without what it does not judge a grain command by: its open rows and its alert causes. -/
def DieSt.judge (x : DieSt) : DieSt := { x with openRows := [], cause := 0#8 }

/-- Two states in which every die judges a grain command alike: they differ at most in open rows, alert causes and what a
grain holds besides its state and the owner of its banks. -/
structure SameGate (s t : State) : Prop where
  die : ∀ i, (die t i).judge = (die s i).judge
  state : ∀ g, (grain t g).state = (grain s g).state
  own : ∀ g, (grain t g).own = (grain s g).own

namespace SameGate

theorem refl (s : State) : SameGate s s := ⟨fun _ => rfl, fun _ => rfl, fun _ => rfl⟩

theorem trans (h : SameGate s t) (h' : SameGate t u) : SameGate s u :=
  ⟨fun i => (h'.die i).trans (h.die i), fun g => (h'.state g).trans (h.state g), fun g => (h'.own g).trans (h.own g)⟩

theorem of_bank (h : t.bank = s.bank) : SameGate s t :=
  ⟨fun i => by simp [Machine.die, h], fun g => by simp [grain, h], fun g => by simp [grain, h]⟩

theorem foldl {α : Type} {act : State → α → State} {l : List α} (h : ∀ u, ∀ p ∈ l, SameGate u (act u p)) :
    SameGate s (l.foldl act s) :=
  List.foldlRecOn l act (refl s) fun _ hu p hp => hu.trans (h _ p hp)

theorem setDie {i : Nat} {x : DieSt} (h : x.judge = (Machine.die s i).judge) : SameGate s (setDie i x s) := by
  refine ⟨fun k => ?_, fun _ => rfl, fun _ => rfl⟩
  by_cases hk : k = i
  · rw [hk, die_setDie_self, h]
  · rw [die_setDie_ne _ _ _ _ hk]

theorem setGrain {g : Nat} {x : Grain} (hstate : x.state = (grain s g).state) (hown : x.own = (grain s g).own) :
    SameGate s (setGrain g x s) := by
  refine ⟨fun _ => rfl, fun k => ?_, fun k => ?_⟩ <;> by_cases hk : k = g
  · rw [hk, grain_setGrain_self, hstate]
  · rw [grain_setGrain_ne _ _ _ _ hk]
  · rw [hk, grain_setGrain_self, hown]
  · rw [grain_setGrain_ne _ _ _ _ hk]

theorem sel (h : SameGate s t) (i : Nat) : (Machine.die t i).sel = (Machine.die s i).sel :=
  (congrArg DieSt.sel (h.die i) :)

theorem mr (h : SameGate s t) (i : Nat) : (Machine.die t i).mr = (Machine.die s i).mr := (congrArg DieSt.mr (h.die i) :)

theorem stDone (h : SameGate s t) (i : Nat) : (Machine.die t i).stDone = (Machine.die s i).stDone :=
  (congrArg DieSt.stDone (h.die i) :)

theorem selfTest (h : SameGate s t) (i : Nat) : (Machine.die t i).selfTest = (Machine.die s i).selfTest :=
  (congrArg DieSt.selfTest (h.die i) :)

theorem hears (h : SameGate s t) (i : Nat) : dieHears (Machine.die t i) = dieHears (Machine.die s i) := by
  have hreset : (Machine.die t i).inReset = (Machine.die s i).inReset := (congrArg DieSt.inReset (h.die i) :)
  have hsleep : (Machine.die t i).selfRefresh = (Machine.die s i).selfRefresh := (congrArg DieSt.selfRefresh (h.die i) :)
  rw [dieHears, dieHears, hreset, hsleep]

theorem selected (h : SameGate s t) (c r d : Nat) : selected t c r d = selected s c r d := by
  simp only [Machine.selected, mrOut, mrStored, h.sel, h.mr]

theorem accepts (h : SameGate s t) (c r d : Nat) : dieAccepts t c r d = dieAccepts s c r d := by
  simp only [dieAccepts, h.selected, h.stDone, h.selfTest, h.state, h.own]

theorem rankHears (h : SameGate s t) (c r : Nat) : rankHears t c r = rankHears s c r := by
  simp only [Machine.rankHears, h.hears]

theorem grainsTake (h : SameGate s t) (c r : Nat) : grainsTake t c r = grainsTake s c r := by
  simp only [Machine.grainsTake, h.rankHears, h.selected, h.stDone, h.selfTest, h.state, h.own]

end SameGate

theorem sameGate_setCause (c r d bit : Nat) : SameGate s (setCause c r d bit s) := .setDie rfl

/-! ### The selected grains -/

theorem lt_of_mem_selected {d g : Nat} (h : g ∈ selected s c r d) : g < 16 :=
  List.mem_range.mp (List.mem_filter.mp h).1

/-- The selected grains of a rank, in the order in which a command reaches them: the die and the grain on it. -/
def selectedGrains (s : State) (c r : Nat) : List (Nat × Nat) :=
  (List.range 4).flatMap (fun d => (selected s c r d).map (fun g => (d, g)))

theorem mem_selectedGrains {p : Nat × Nat} : p ∈ selectedGrains s c r ↔ p.1 < 4 ∧ p.2 ∈ selected s c r p.1 := by
  obtain ⟨d, g⟩ := p
  simp [selectedGrains]

theorem nodup_selectedGrains (s : State) (c r : Nat) : (selectedGrains s c r).Nodup := by
  refine List.nodup_flatMap.mpr ⟨fun d _ => ?_, ?_⟩
  · exact (List.nodup_range.filter _).map fun _ _ h => (Prod.mk.inj h).2
  · refine List.nodup_range.imp fun hne p hp hp' => ?_
    obtain ⟨g, -, rfl⟩ := List.mem_map.mp hp
    obtain ⟨h, -, heq⟩ := List.mem_map.mp hp'
    exact hne (Prod.mk.inj heq).1.symm

/-! ### A command that every die carries out, and one that every die ignores -/

/-- A die that takes grain commands. -/
theorem dieAccepts_of_grainsTake (h : grainsTake s c r = true) {d : Nat} (hd : d < 4) :
    (die s (dieNo c r d)).stDone = true ∧ (die s (dieNo c r d)).selfTest = false
    ∧ dieAccepts s c r d = !(selected s c r d).isEmpty := by
  simp only [grainsTake, Bool.and_eq_true, List.all_eq_true, List.mem_range] at h
  obtain ⟨-, hdies⟩ := h
  obtain ⟨⟨hdone, htest⟩, hgrains⟩ := hdies d hd
  refine ⟨hdone, by simpa using htest, ?_⟩
  rw [dieAccepts, hdone, htest, List.all_eq_true.mpr hgrains]
  simp

theorem rankHears_of_grainsTake (h : grainsTake s c r = true) : rankHears s c r = true := by
  simp only [grainsTake, Bool.and_eq_true] at h
  exact h.1

/-- Where every die takes it, a grain command acts on the selected grains one after the other. -/
theorem grainCmd_of_grainsTake {act : Nat → Nat → State → State} (h : grainsTake s c r = true)
    (hact : ∀ d g u, SameGate u (act d g u)) :
    grainCmd c r act s = (selectedGrains s c r).foldl (fun u p => act p.1 (grainAt c r p.1 p.2) u) s := by
  obtain ⟨he, hears⟩ := rankHears_iff.mp (rankHears_of_grainsTake h)
  have hstep : ∀ d u, SameGate u ((selected s c r d).foldl (fun v g => act d (grainAt c r d g) v) u) :=
    fun d u => .foldl fun v g _ => hact d _ v
  simp only [selectedGrains, List.foldl_flatMap, List.foldl_map]
  refine onRank_eq_foldl (inv := SameGate s) he (.refl s) fun u hu d hd => ?_
  refine ⟨(hu.hears _).trans (hears d hd), ?_, hu.trans (hstep d u)⟩
  obtain ⟨hdone, htest, haccepts⟩ := dieAccepts_of_grainsTake h hd
  simp only [hu.selected, hu.accepts, hu.stDone, hu.selfTest, hdone, htest, haccepts]
  by_cases hnone : selected s c r d = []
  · simp [hnone]
  · simp [hnone]

/-- A die that has grains selected and does not accept a grain command ignores it, with BANK_OWNED (07 R192, R206). -/
theorem grainCmd_of_refused {act : Nat → Nat → State → State} (h : rankHears s c r = true)
    (hno : ∀ d < 4, selected s c r d ≠ [] ∧ dieAccepts s c r d = false) :
    grainCmd c r act s
      = (List.range 4).foldl (changeDie c r (fun _ x => { x with cause := x.cause ||| 4#8 })) s := by
  obtain ⟨he, hears⟩ := rankHears_iff.mp h
  refine onRank_eq_foldl (inv := SameGate s) he (.refl s) fun u hu d hd => ?_
  obtain ⟨hsome, hrefused⟩ := hno d hd
  refine ⟨(hu.hears _).trans (hears d hd), ?_, hu.trans (sameGate_setCause c r d 2)⟩
  have hsome' : (selected u c r d).isEmpty = false := by simp [hu.selected, hsome]
  simp only [hsome', hu.accepts, hrefused, Bool.and_false]
  rfl

/-! ### A command that changes each selected grain -/

/-- Each selected grain is changed once, and no other. -/
theorem grainCmd_setGrain {F : Nat → Grain → Grain} (h : grainsTake s c r = true)
    (hF : ∀ d x, (F d x).state = x.state ∧ (F d x).own = x.own)
    (ht : t = grainCmd c r (fun d g u => setGrain g (F d (grain u g)) u) s) :
    (∀ d < 4, ∀ g ∈ selected s c r d, grain t (grainAt c r d g) = F d (grain s (grainAt c r d g)))
    ∧ GrainsOnly c r s t := by
  subst ht
  rw [grainCmd_of_grainsTake h fun d g u => .setGrain (hF d _).1 (hF d _).2]
  refine ⟨fun d hd g hg => ?_, fun k hk => ?_, ?_⟩
  · refine read_foldl_of_mem (q := (d, g)) (read := fun u => grain u (grainAt c r d g))
      (fun u => grain_setGrain_self ..) (fun p hp hne u => grain_setGrain_ne _ _ _ _ fun heq => hne ?_)
      (nodup_selectedGrains s c r) (mem_selectedGrains.mpr ⟨hd, hg⟩) s
    obtain ⟨-, hsel⟩ := mem_selectedGrains.mp hp
    obtain ⟨hde, hgh⟩ := (grainAt_inj (lt_of_mem_selected hg) (lt_of_mem_selected hsel)).mp heq
    exact Prod.ext hde.symm hgh.symm
  · refine read_foldl_of_keeps (read := fun u => grain u k) (fun p hp u => ?_) s
    obtain ⟨hd, hg⟩ := mem_selectedGrains.mp hp
    exact grain_setGrain_ne _ _ _ _ (hk p.1 hd p.2 hg)
  · refine List.foldlRecOn (motive := fun u : State =>
      u = { s with bank := { s.bank with grains := u.bank.grains }, cnt := { s.cnt with cnt := u.cnt.cnt } })
      _ _ rfl fun u hu p _ => ?_
    exact congrArg (setGrain (grainAt c r p.1 p.2) (F p.1 (grain u (grainAt c r p.1 p.2)))) hu

end Sys2Proof.Machine
end

section
/-! The rows of the selected grains: ACTG and PREG, and what an ACTG counts as at its bank controller (07 R192, 08 R222a, R225,
R226). -/

namespace Sys2Proof.Machine

variable {s t u : State} {c r row : Nat}

/-! ### Both rows of a grain -/

/-- A grain changes the open rows of both its banks, of which the first is named. -/
def changePair (f : Nat → Tab Nat → Tab Nat) (g : Nat) (u : State) : State :=
  let k := grainCoord g
  let i := dieNo k.1 k.2.1 k.2.2.1
  setDie i { die u i with openRows := f (2 * k.2.2.2) (die u i).openRows } u

/-- One row is open in two banks that follow each other. -/
def openBoth (row bank : Nat) (rows : Tab Nat) : Tab Nat := tput (tput rows bank row) (bank + 1) row

/-- Two banks that follow each other are precharged. -/
def closeBoth (bank : Nat) (rows : Tab Nat) : Tab Nat := terase (terase rows bank) (bank + 1)

theorem openPair_eq_changePair (g row : Nat) (u : State) : openPair g row u = changePair (openBoth row) g u := rfl

theorem closeRows_eq_changePair (g : Nat) (u : State) : closeRows g u = changePair closeBoth g u := rfl

/-- A change of two banks' rows leaves `v` in both of them and every other bank's row as it was. -/
def PairBecomes (f : Nat → Tab Nat → Tab Nat) (v : Option Nat) : Prop :=
  ∀ bank rows b, tfind (f bank rows) b = if b = bank ∨ b = bank + 1 then v else tfind rows b

theorem pairBecomes_openBoth (row : Nat) : PairBecomes (openBoth row) (some row) := by
  intro bank rows b
  by_cases hodd : b = bank + 1
  · simp [openBoth, hodd]
  · by_cases heven : b = bank
    · simp [openBoth, heven, tfind_tput_ne]
    · simp [openBoth, heven, hodd, tfind_tput_ne]

theorem pairBecomes_closeBoth : PairBecomes closeBoth none := by
  intro bank rows b
  by_cases hodd : b = bank + 1
  · simp [closeBoth, hodd]
  · by_cases heven : b = bank
    · simp [closeBoth, heven, tfind_terase_ne]
    · simp [closeBoth, heven, hodd, tfind_terase_ne]

theorem changePair_grainAt {f : Nat → Tab Nat → Tab Nat} {d g : Nat} (he : rankExists c r = true) (hc : c < 16) (hd : d < 4)
    (hg : g < 16) (u : State) :
    changePair f (grainAt c r d g) u = changeDie c r (fun _ x => { x with openRows := f (2 * g) x.openRows }) u d := by
  rw [changePair, grainCoord_grainAt he hc hd hg, changeDie]

theorem openRow_changePair {f : Nat → Tab Nat → Tab Nat} {v : Option Nat} (hf : PairBecomes f v) {d g : Nat}
    (he : rankExists c r = true) (hc : c < 16) (hd : d < 4) (hg : g < 16) (u : State) (e b : Nat) :
    openRow (changePair f (grainAt c r d g) u) c r e b = if (e, b / 2) = (d, g) then v else openRow u c r e b := by
  rw [changePair_grainAt he hc hd hg, openRow, openRow, die_changeDie]
  by_cases hde : e = d
  · have hpair : b = 2 * g ∨ b = 2 * g + 1 ↔ b / 2 = g := by omega
    simp [hde, hf _ _ b, hpair]
  · simp [hde]

/-! ### The rows of all selected grains -/

/-- Both banks of each selected grain hold `v`, and every other bank of the rank holds what it held. -/
def RowsBecome (c r : Nat) (v : Option Nat) (s t : State) : Prop :=
  (∀ d < 4, ∀ g ∈ selected s c r d, openRow t c r d (2 * g) = v ∧ openRow t c r d (2 * g + 1) = v)
  ∧ (∀ d < 4, ∀ g < 16, g ∉ selected s c r d → openRow t c r d (2 * g) = openRow s c r d (2 * g)
      ∧ openRow t c r d (2 * g + 1) = openRow s c r d (2 * g + 1))

theorem RowsBecome.of_bank {v : Option Nat} (h : RowsBecome c r v u t) (hbank : u.bank = s.bank) : RowsBecome c r v s t := by
  have hsel : ∀ d, selected u c r d = selected s c r d := (SameGate.of_bank hbank).selected c r
  have hrow : ∀ d b, openRow u c r d b = openRow s c r d b := fun d b => by simp only [openRow, die, hbank]
  simpa only [RowsBecome, hsel, hrow] using h

/-- A command on the rows of the selected grains changes theirs alone. -/
theorem grainCmd_changePair {f : Nat → Tab Nat → Tab Nat} {v : Option Nat} (hf : PairBecomes f v) (hc : c < 16)
    (h : grainsTake s c r = true) (ht : t = grainCmd c r (fun _ g u => changePair f g u) s) :
    RowsBecome c r v s t ∧ DiesOnly c r s t := by
  obtain ⟨he, -⟩ := rankHears_iff.mp (rankHears_of_grainsTake h)
  have hread : ∀ p ∈ selectedGrains s c r, ∀ u d b, openRow (changePair f (grainAt c r p.1 p.2) u) c r d b
      = if (d, b / 2) = p then v else openRow u c r d b := fun p hp u d b =>
    have ⟨hd, hg⟩ := mem_selectedGrains.mp hp
    openRow_changePair hf he hc hd (lt_of_mem_selected hg) u d b
  rw [grainCmd_of_grainsTake (act := fun _ g u => changePair f g u) h fun _ _ _ => .setDie rfl] at ht
  have hset : ∀ d < 4, ∀ b, b / 2 ∈ selected s c r d → openRow t c r d b = v := fun d hd b hb => by
    have hmem : (d, b / 2) ∈ selectedGrains s c r := mem_selectedGrains.mpr ⟨hd, hb⟩
    subst ht
    refine read_foldl_of_mem (read := fun u => openRow u c r d b) (F := fun _ => v) (fun u => ?_) (fun p hp hne u => ?_)
      (nodup_selectedGrains s c r) hmem s
    · rw [hread _ hmem, if_pos rfl]
    · rw [hread _ hp, if_neg hne.symm]
  have hkeep : ∀ d b, b / 2 ∉ selected s c r d → openRow t c r d b = openRow s c r d b := fun d b hb => by
    subst ht
    refine read_foldl_of_keeps (read := fun u => openRow u c r d b) (fun p hp u => ?_) s
    rw [hread _ hp, if_neg]
    rintro rfl
    exact hb (mem_selectedGrains.mp hp).2
  refine ⟨⟨fun d hd g hg => ?_, fun d _ g _ hg => ?_⟩, ?_⟩
  · exact ⟨hset d hd _ (by simpa using hg), hset d hd _ (by simpa [Nat.mul_add_div] using hg)⟩
  · exact ⟨hkeep d _ (by simpa using hg), hkeep d _ (by simpa [Nat.mul_add_div] using hg)⟩
  · subst ht
    refine diesOnly_foldl fun u p hp => ?_
    obtain ⟨hd, hg⟩ := mem_selectedGrains.mp hp
    rw [changePair_grainAt he hc hd (lt_of_mem_selected hg)]
    exact diesOnly_setDie hd _

theorem execPreg_eq (c : Chan) (r : Rank) (s : State) :
    execPreg c r s = .next (grainCmd c r (fun _ g u => changePair closeBoth g u) s) := by
  simp only [← closeRows_eq_changePair, execPreg, ok]

theorem yields_preg {c : Chan} {r : Rank} (h : grainsTake s c r = true) :
    Yields (.preg c r) s fun t => RowsBecome c r none s t ∧ DiesOnly c r s t :=
  ⟨_, execPreg_eq c r s, grainCmd_changePair pairBecomes_closeBoth c.isLt h rfl⟩

/-! ### An ACTG at its bank controller -/

/-- The banks in which an ACTG counts as an activation of P1 (08 R222a). -/
def activatedBanks (s : State) (c r row : Nat) : List Nat := if actgWanted s c r row then actgBanks s c r else []

/-- The activations of an ACTG, as P1's row-disturb mode notes them. -/
def activationsNoted (c r row : Nat) (s : State) : State :=
  (activatedBanks s c r row).foldl (fun u b => noteActivation c row 1 r b u) s

theorem mem_actgBanks {b : Nat} : b ∈ actgBanks s c r ↔ ∃ d < 4, b / 2 ∈ selected s c r d := by
  have hpair : ∀ g, b = 2 * g ∨ b = 2 * g + 1 ↔ b / 2 = g := fun g => by omega
  simp only [actgBanks, List.mem_flatMap, List.mem_filter, List.mem_range, List.any_eq_true, decide_eq_true_eq, List.mem_cons,
    List.not_mem_nil, or_false, hpair]
  constructor
  · rintro ⟨g, ⟨-, hg⟩, rfl⟩
    exact hg
  · rintro ⟨d, hd, hg⟩
    exact ⟨_, ⟨lt_of_mem_selected hg, d, hd, hg⟩, rfl⟩

theorem mem_activatedBanks {b : Nat} (h : b ∈ activatedBanks s c r row) : ∃ d < 4, b / 2 ∈ selected s c r d := by
  rw [activatedBanks] at h
  split at h
  · exact mem_actgBanks.mp h
  · exact absurd h List.not_mem_nil

theorem activatedBanks_of_unwanted (h : actgWanted s c r row = false) : activatedBanks s c r row = [] := by
  simp [activatedBanks, h]

/-- What an activation notes is no part of the array nor of the settings. -/
theorem noteActivation_keeps (port b : Nat) (s : State) :
    (noteActivation c row port r b s).bank = s.bank ∧ (noteActivation c row port r b s).dev = s.dev := by
  unfold noteActivation
  dsimp only
  repeat' split
  all_goals exact ⟨rfl, rfl⟩

theorem activationsNoted_bank : (activationsNoted c r row s).bank = s.bank :=
  foldl_keeps State.bank _ (fun u b => (noteActivation_keeps 1 b u).1) _ s

theorem activationsNoted_of_unwanted (h : actgWanted s c r row = false) : activationsNoted c r row s = s := by
  rw [activationsNoted, activatedBanks_of_unwanted h, List.foldl_nil]

/-- An ACTG that throttling holds for no bank goes out. -/
theorem execActg_of_unthrottled {c : Chan} {r : Rank} {row : RowNo}
    (h : ∀ b ∈ activatedBanks s c r row, throttled s c r b row 1 = false) :
    execActg c r row s
      = .next (grainCmd c r (fun _ g u => changePair (openBoth row) g u)
          (countEv 0x20 c none 1 (activationsNoted c r row s))) := by
  simp only [← openPair_eq_changePair]
  refine if_neg fun hany => ?_
  obtain ⟨b, hb, hheld⟩ := List.any_eq_true.mp hany
  rw [h b hb] at hheld
  exact Bool.false_ne_true hheld

theorem yields_actg {c : Chan} {r : Rank} {row : RowNo} (hgrains : grainsTake s c r = true)
    (h : ∀ b ∈ activatedBanks s c r row, throttled s c r b row 1 = false) :
    Yields (.actg c r row) s fun t => RowsBecome c r (some row) s t ∧ DiesOnly c r (activationsNoted c r row s) t := by
  have hbank : (countEv 0x20 c none 1 (activationsNoted c r row s)).bank = s.bank := activationsNoted_bank
  obtain ⟨hrows, hdies⟩ := grainCmd_changePair (pairBecomes_openBoth row) c.isLt
    (((SameGate.of_bank hbank).grainsTake c r).trans hgrains) rfl
  exact ⟨_, execActg_of_unthrottled h, hrows.of_bank hbank, (diesOnly_countEv ..).trans hdies⟩

theorem yields_actg_of_unwanted {c : Chan} {r : Rank} {row : RowNo} (hgrains : grainsTake s c r = true)
    (h : actgWanted s c r row = false) :
    Yields (.actg c r row) s fun t => RowsBecome c r (some row) s t ∧ DiesOnly c r s t := by
  have hyields := yields_actg (row := row) hgrains (by simp [activatedBanks_of_unwanted h])
  rwa [activationsNoted_of_unwanted h] at hyields

/-! ### Neighbour refreshes drawn for it (08 R225) -/

/-- Neighbour refreshes of a row wait at the head of P7, for banks of a list; nothing else of the tracker changes. -/
def NeighboursAdded (c r row : Nat) (banks : List Nat) (s t : State) : Prop :=
  ∃ l, (bc t c).nbr = (bc s c).nbr ++ l ∧ (bc t c).tracker = (bc s c).tracker ∧ ∀ e ∈ l, ∃ b ∈ banks, e = (r, b, row)

theorem noteActivation_portCfg (b port : Nat) (s : State) : portCfg (noteActivation c row 1 r b s) port = portCfg s port := by
  obtain ⟨-, hdev⟩ := noteActivation_keeps (c := c) (r := r) (row := row) 1 b s
  rw [portCfg, hdev, portCfg]

/-- Where P1 draws, an activation adds at most its own neighbour refresh. -/
theorem noteActivation_of_drawn (h : (portCfg s 1).mode = false) (b : Nat) :
    NeighboursAdded c r row [b] s (noteActivation c row 1 r b s) := by
  rw [noteActivation, if_neg (by decide), h, if_neg (by decide)]
  dsimp only
  split
  · have hbc := bc_setBc_self s c { bc s c with nbr := (bc s c).nbr ++ [(r, b, row)] }
    exact ⟨[(r, b, row)], congrArg Bc.nbr hbc, (congrArg Bc.tracker hbc :), by simp⟩
  · exact ⟨[], (List.append_nil _).symm, rfl, by simp⟩

theorem foldl_noteActivation_of_drawn (banks : List Nat) (h : (portCfg s 1).mode = false) :
    NeighboursAdded c r row banks s (banks.foldl (fun u b => noteActivation c row 1 r b u) s) := by
  induction banks generalizing s with
  | nil => exact ⟨[], (List.append_nil _).symm, rfl, by simp⟩
  | cons b banks ih =>
    obtain ⟨l, hnbr, htracker, hl⟩ := noteActivation_of_drawn (c := c) (r := r) (row := row) h b
    obtain ⟨l', hnbr', htracker', hl'⟩ := ih (s := noteActivation c row 1 r b s) (by rwa [noteActivation_portCfg])
    refine ⟨l ++ l', by rw [List.foldl_cons, hnbr', hnbr, List.append_assoc], htracker'.trans htracker, fun e he => ?_⟩
    obtain he | he := List.mem_append.mp he
    · obtain ⟨k, hk, rfl⟩ := hl e he
      exact ⟨k, List.mem_singleton.mp hk ▸ List.mem_cons_self, rfl⟩
    · obtain ⟨k, hk, rfl⟩ := hl' e he
      exact ⟨k, List.mem_cons_of_mem _ hk, rfl⟩

theorem throttled_of_drawn (h : (portCfg s 1).mode = false) (b : Nat) : throttled s c r b row 1 = false := by
  simp [throttled, h]

/-! ### An ACTG that does not open a row -/

/-- The tracker holds an activation of a selected grain's bank by P1 in the same row, too young for another (08 R226). -/
theorem yields_actg_of_throttled {c : Chan} {r : Rank} {row : RowNo} {k : Track} {d : Nat} (hd : d < 4)
    (hwanted : actgWanted s c r row = true) (hmode : (portCfg s 1).mode = true) (hk : k ∈ (bc s c).tracker)
    (hport : k.port = 1) (hrank : k.rank = r.val) (hrow : k.row = row.val) (hsel : k.bank / 2 ∈ selected s c r d)
    (hyoung : (now s - k.at_).toNat < s.dev.thrNs.toNat) :
    Yields (.actg c r row) s fun t => t = countEv 0x23 c none 1 s := by
  have hbank : k.bank ∈ activatedBanks s c r row := by
    rw [activatedBanks, if_pos hwanted]
    exact mem_actgBanks.mpr ⟨d, hd, hsel⟩
  have hheld : throttled s c r k.bank row 1 = true := by
    simp only [throttled, hmode, Bool.and_true, Bool.and_eq_true, List.any_eq_true, decide_eq_true_eq]
    exact ⟨by decide, k, hk, hport, hrank, rfl, hrow, hyoung⟩
  exact ⟨_, if_pos (List.any_eq_true.mpr ⟨_, hbank, hheld⟩), rfl⟩

theorem yields_actg_of_refused {c : Chan} {r : Rank} {row : RowNo} (h : rankHears s c r = true)
    (hno : ∀ d < 4, selected s c r d ≠ [] ∧ dieAccepts s c r d = false) (hunwanted : actgWanted s c r row = false) :
    Yields (.actg c r row) s fun t =>
      (∀ d < 4, die t (dieNo c r d) = { die s (dieNo c r d) with cause := (die s (dieNo c r d)).cause ||| 4#8 })
      ∧ DiesOnly c r s t := by
  have hexec := execActg_of_unthrottled (row := row) (s := s) (c := c) (r := r)
    (by simp [activatedBanks_of_unwanted hunwanted])
  rw [activationsNoted_of_unwanted hunwanted] at hexec
  obtain ⟨hdie, hdies⟩ := foldl_changeDie (c := c) (r := r) (fun _ x => { x with cause := x.cause ||| 4#8 })
    (countEv 0x20 c none 1 s)
  refine ⟨_, hexec, ?_⟩
  rw [grainCmd_of_refused (s := countEv 0x20 c none 1 s) h hno]
  exact ⟨hdie, (diesOnly_countEv ..).trans hdies⟩

end Sys2Proof.Machine
end

section
/-! What BIND, CRAW and TLW write into a grain (05 R151, R152; 07 R192). -/

namespace Sys2Proof.Machine

variable {s t : State}

/-! ### BIND -/

/-- A grain bound to a function and its page range: cleared first where it held another function's state (05 R152). -/
def boundTo (lo hi : BitVec 12) (f : Byte) (x : Grain) : Grain :=
  { (if x.lastFn = f then x else x.clearFor f) with pageLo := lo, pageHi := hi }

theorem boundTo_judge (lo hi : BitVec 12) (f : Byte) (x : Grain) :
    (boundTo lo hi f x).state = x.state ∧ (boundTo lo hi f x).own = x.own := by
  unfold boundTo
  split <;> exact ⟨rfl, rfl⟩

theorem yields_bind {c : Chan} {r : Rank} (lo hi : BitVec 12) (f : Func) (h : grainsTake s c r = true) :
    Yields (.bind c r lo hi f) s fun t =>
      (∀ d < 4, ∀ g ∈ selected s c r d,
        grain t (grainAt c r d g) = boundTo lo hi (BitVec.ofNat 8 f.val) (grain s (grainAt c r d g)))
      ∧ GrainsOnly c r s t :=
  ⟨_, rfl, grainCmd_setGrain (F := fun _ => boundTo lo hi (BitVec.ofNat 8 f.val)) h (fun _ => boundTo_judge lo hi _) rfl⟩

/-! ### A run of values in a table -/

/-- The keys of a run in a table, each of the mask written with its value. -/
def writeRun {β : Type} [DecidableEq β] (z : β) (off n : Nat) (mask : Nat → Bool) (v : Nat → β) (m : Tab β) : Tab β :=
  (List.range n).foldl (fun m i => if mask i then tset z m (off + i) (v i) else m) m

section
variable {β : Type} [DecidableEq β] {off n : Nat}

theorem tget_writeRun_inside (z : β) (off : Nat) {i : Nat} (hi : i < n) (mask : Nat → Bool) (v : Nat → β) (m : Tab β) :
    tget z (writeRun z off n mask v m) (off + i) = if mask i then v i else tget z m (off + i) := by
  refine read_foldl_of_mem (read := fun m => tget z m (off + i)) (F := fun old => if mask i then v i else old) (fun m => ?_)
    (fun k _ hne m => ?_) List.nodup_range (List.mem_range.mpr hi) m
  · cases mask i <;> simp
  · have hkey : off + i ≠ off + k := by omega
    split
    · exact tget_tset_ne _ _ _ _ _ hkey
    · rfl

theorem tget_writeRun_outside (z : β) {k : Nat} (hk : ¬(off ≤ k ∧ k < off + n)) (mask : Nat → Bool) (v : Nat → β)
    (m : Tab β) : tget z (writeRun z off n mask v m) k = tget z m k := by
  refine read_foldl_of_keeps (read := fun m => tget z m k) (fun i hi m => ?_) m
  have hlt := List.mem_range.mp hi
  have hkey : k ≠ off + i := by omega
  split
  · exact tget_tset_ne _ _ _ _ _ hkey
  · rfl

end

/-! ### CRAW -/

/-- A grain with the bytes of a number in its CRA from an offset on. -/
def withCraBytes (off n v : Nat) (x : Grain) : Grain :=
  { x with cra := writeRun 0#8 off (leBytes n v).length (fun _ => true) (fun i => (leBytes n v).getD i 0#8) x.cra }

theorem length_leBytes (n v : Nat) : (leBytes n v).length = n := by simp [leBytes]

theorem getD_leBytes {n i : Nat} (hi : i < n) (v : Nat) : (leBytes n v).getD i 0#8 = BitVec.ofNat 8 (v / 2 ^ (8 * i)) := by
  simp [leBytes, hi]

theorem writeCra_leBytes (g off n v : Nat) (u : State) :
    writeCra g off (leBytes n v) u = setGrain g (withCraBytes off n v (grain u g)) u := rfl

/-- The writable part of the CRA lies below slot 7 (05 Table 5.4). -/
theorem craByte_withCraBytes_inside {off n i : Nat} (hi : i < n) (hoff : off + i < 0xE0) (v : Nat) (x : Grain) :
    craByte (withCraBytes off n v x) (off + i) = BitVec.ofNat 8 (v / 2 ^ (8 * i)) := by
  rw [craByte, if_pos hoff, ← getD_leBytes hi]
  exact tget_writeRun_inside 0#8 off (by rwa [length_leBytes]) _ _ x.cra

theorem craByte_withCraBytes_outside {off n k : Nat} (hk : ¬(off ≤ k ∧ k < off + n)) (v : Nat) (x : Grain) :
    craByte (withCraBytes off n v x) k = craByte x k := by
  have hbyte : tget 0#8 (withCraBytes off n v x).cra k = tget 0#8 x.cra k :=
    tget_writeRun_outside 0#8 (by rwa [length_leBytes]) _ _ x.cra
  rw [craByte, craByte, hbyte]
  rfl

/-- A byte of one die's part of a burst. -/
theorem ofNat_dieByte {d i : Nat} (hi : i < 32) (data : Wide) :
    BitVec.ofNat 8 ((data.extractLsb' (256 * d) 256).toNat / 2 ^ (8 * i)) = data.extractLsb' (256 * d + 8 * i) 8 := by
  rw [← extractLsb'_ofNat (n := 256) (by omega), BitVec.ofNat_toNat, BitVec.setWidth_eq]
  refine BitVec.eq_of_getLsbD_eq fun k hk => ?_
  have hin : 8 * i + k < 256 := by omega
  simp [hk, hin, Nat.add_assoc]

/-- Where no command of P1 waits, a CRAW only writes. -/
theorem execCraw_of_noP1 {c : Chan} {r : Rank} (slot : Fin 7) (data : Wide) (hp1 : p1At s c r = []) :
    execCraw c r slot data s = .next (grainCmd c r (fun d g u =>
      setGrain g (withCraBytes (32 * slot.val) 32 (data.extractLsb' (256 * d) 256).toNat (grain u g)) u) s) := by
  simp only [execCraw, hp1, List.find?_nil, writeCra_leBytes, ok]

theorem yields_craw {c : Chan} {r : Rank} (slot : Fin 7) (data : Wide) (h : grainsTake s c r = true)
    (hp1 : p1At s c r = []) :
    Yields (.craw c r slot data) s fun t =>
      (∀ d < 4, ∀ g ∈ selected s c r d, grain t (grainAt c r d g)
        = withCraBytes (32 * slot.val) 32 (data.extractLsb' (256 * d) 256).toNat (grain s (grainAt c r d g)))
      ∧ GrainsOnly c r s t :=
  ⟨_, execCraw_of_noP1 slot data hp1, grainCmd_setGrain
    (F := fun d => withCraBytes (32 * slot.val) 32 (data.extractLsb' (256 * d) 256).toNat) h (fun _ _ => ⟨rfl, rfl⟩) rfl⟩

/-! ### TLW -/

/-- A grain with words of one die's part of a burst in eight places of its Tilth store. -/
def withStoreWords (index words : Byte) (data : Wide) (d : Nat) (x : Grain) : Grain :=
  { x with store := writeRun 0#32 (index.toNat * 8) 8 words.getLsbD (fun i => data.extractLsb' (256 * d + 32 * i) 32) x.store }

theorem store_withStoreWords_inside {i : Nat} (hi : i < 8) (index words : Byte) (data : Wide) (d : Nat) (x : Grain) :
    tget 0#32 (withStoreWords index words data d x).store (index.toNat * 8 + i)
      = if words.getLsbD i then data.extractLsb' (256 * d + 32 * i) 32 else tget 0#32 x.store (index.toNat * 8 + i) := by
  rw [withStoreWords, tget_writeRun_inside _ _ hi]

theorem store_withStoreWords_outside {n : Nat} {index : Byte} (hn : n / 8 ≠ index.toNat) (words : Byte) (data : Wide) (d : Nat)
    (x : Grain) : tget 0#32 (withStoreWords index words data d x).store n = tget 0#32 x.store n := by
  rw [withStoreWords, tget_writeRun_outside _ (by omega)]

theorem yields_tlw {c : Chan} {r : Rank} (index words : Byte) (data : Wide) (h : grainsTake s c r = true) :
    Yields (.tlw c r index words data) s fun t =>
      (∀ d < 4, ∀ g ∈ selected s c r d,
        grain t (grainAt c r d g) = withStoreWords index words data d (grain s (grainAt c r d g)))
      ∧ GrainsOnly c r s t :=
  ⟨_, rfl, grainCmd_setGrain (F := withStoreWords index words data) h (fun _ _ => ⟨rfl, rfl⟩) rfl⟩

end Sys2Proof.Machine
end

section
/-! The burst of a rank whose four dies all answer (07 R193), and the two reads of a grain, CRAR and TLR. -/

namespace Sys2Proof.Machine

variable {s : State}

/-! ### The four parts of a burst -/

theorem unlanes_concat (w : Nat) (l : List Nat) (x : Nat) :
    unlanes w (l ++ [x]) = unlanes w l + 2 ^ (w * l.length) * (x % 2 ^ w) := by
  induction l with
  | nil => simp [unlanes]
  | cons y l ih =>
    have hcons : ∀ l', unlanes w (y :: l') = y % 2 ^ w + 2 ^ w * unlanes w l' := fun _ => rfl
    rw [List.cons_append, hcons, hcons, ih, List.length_cons, Nat.mul_succ, Nat.pow_add]
    ring

/-- Numbers that fit their lanes are packed by their sum. -/
theorem foldl_add_eq_unlanes (w n : Nat) {f : Nat → Nat} (hf : ∀ d, f d < 2 ^ w) :
    (List.range n).foldl (fun a d => a + f d * 2 ^ (w * d)) 0 = unlanes w ((List.range n).map f) := by
  induction n with
  | zero => rfl
  | succ n ih =>
    rw [List.range_succ, List.foldl_append, List.map_append, List.map_singleton, unlanes_concat, ih, List.length_map,
      List.length_range, Nat.mod_eq_of_lt (hf n), Nat.mul_comm (2 ^ (w * n))]
    rfl

theorem answers_of_rankHears {c r : Nat} (h : rankHears s c r = true) (f : Nat → Option (ColData × Nat)) :
    answers s c r f = (List.range 4).map f := by
  obtain ⟨he, hears⟩ := rankHears_iff.mp h
  refine List.map_congr_left fun d hd => ?_
  rw [he, hears d (List.mem_range.mp hd), Bool.and_true, if_pos rfl]

/-- The burst of a rank whose dies all answer, none with an error. -/
theorem burst_of_rankHears {c : Chan} {r : Rank} (h : rankHears s c r = true) (word : Nat → ColData) :
    burst c r (answers s c r (fun d => some (word d, 0))) s
      = emit (.caData c r (BitVec.ofNat 1024 (unlanes 256 ((List.range 4).map (fun d => (word d).toNat)))) 0#8) s := by
  rw [answers_of_rankHears h, ← foldl_add_eq_unlanes 256 4 (fun d => (word d).isLt)]
  rfl

theorem burstOf_emit (c : Chan) (r : Rank) (word : Nat → ColData) :
    BurstOf c r word (fun _ => 0) s
      (emit (.caData c r (BitVec.ofNat 1024 (unlanes 256 ((List.range 4).map (fun d => (word d).toNat)))) 0#8) s) := by
  refine ⟨_, _, rfl, fun d hd => ⟨?_, by simp⟩⟩
  rw [extractLsb'_ofNat_unlanes (by omega)]
  simp [hd]

/-- A command that only reads a word of each die. -/
theorem yields_burst {c : Chan} {r : Rank} {i : Instr} (h : rankHears s c r = true) (word : Nat → ColData)
    (hi : exec i s = .next (burst c r (answers s c r (fun d => some (word d, 0))) s)) :
    Yields i s fun t => BurstOf c r word (fun _ => 0) s t ∧ t = { s with out := t.out } := by
  rw [burst_of_rankHears h] at hi
  exact ⟨_, hi, burstOf_emit c r word, rfl⟩

/-! ### CRAR and TLR -/

/-- Where no command of P1 waits, a CRAR serves none. -/
theorem execCrar_of_noP1 {c : Chan} {r : Rank} (slot : Fin 8) (g : Fin 16) (hp1 : p1At s c r = []) :
    execCrar c r slot g s = .next (burst c r (answers s c r (fun d =>
      some (BitVec.ofNat 256 (craNat (grain s (grainAt c r d g)) (32 * slot.val) 32), 0))) s) := by
  simp only [execCrar, hp1, List.filter_nil, List.foldl_nil, ite_self, ok]

theorem yields_crar {c : Chan} {r : Rank} (slot : Fin 8) (g : Fin 16) (h : rankHears s c r = true) (hp1 : p1At s c r = []) :
    Yields (.crar c r slot g) s fun t =>
      BurstOf c r (fun d => BitVec.ofNat 256 (craNat (grain s (grainAt c r d g)) (32 * slot.val) 32)) (fun _ => 0) s t
      ∧ t = { s with out := t.out } :=
  yields_burst h _ (execCrar_of_noP1 slot g hp1)

theorem yields_tlr {c : Chan} {r : Rank} (index : Byte) (g : Fin 16) (h : rankHears s c r = true) :
    Yields (.tlr c r index g) s fun t =>
      BurstOf c r (fun d => BitVec.ofNat 256 (unlanes 32 ((List.range 8).map (fun i =>
        (tget 0#32 (grain s (grainAt c r d g)).store (index.toNat * 8 + i)).toNat)))) (fun _ => 0) s t
      ∧ t = { s with out := t.out } :=
  yields_burst h _ rfl

/-! ### The commands together -/

/-- Settles O37: SEL loads each die's selection; ACTG, PREG, BIND, CRAW and TLW reach each selected grain once and no other
grain; a die that does not accept them only sets BANK_OWNED; CRAR and TLR put one burst on the bus. -/
theorem grainsAreSelectedAndLoaded : Obligations.GrainsAreSelectedAndLoaded := by
  unfold Obligations.GrainsAreSelectedAndLoaded
  refine ⟨?sel, ?reset, ?actg, ?actgDrawn, ?actgThrottled, ?preg, ?actgRefused, ?bind, ?craw, ?crar, ?tlw, ?tlr⟩
  case sel =>
    intro s c r m h
    obtain ⟨hdie, hdies⟩ := foldl_changeDie (c := c) (r := r) (withSel m) s
    refine ⟨_, execSel_of_rankHears m h, fun d hd g hg => ?_, hdies⟩
    rw [hdie d hd, getLsbD_sel_withSel m d _ hg]
  case reset => exact fun _ _ => rfl
  case actg =>
    intro s c r row h hno
    exact (yields_actg_of_unwanted h hno).imp fun _ ⟨⟨hrows, hkept⟩, hdies⟩ => ⟨hrows, hkept, hdies⟩
  case actgDrawn =>
    intro s c r row h hmode
    obtain ⟨l, hnbr, htracker, hl⟩ := foldl_noteActivation_of_drawn (c := c) (r := r) (row := row)
      (activatedBanks s c r row) hmode
    refine (yields_actg h fun b _ => throttled_of_drawn hmode b).imp fun t ⟨⟨hrows, _⟩, _, hframe⟩ => ?_
    have hbc : bc t c = bc (activationsNoted c r row s) c := by rw [hframe]; rfl
    refine ⟨hrows, l, by rw [hbc]; exact hnbr, by rw [hbc]; exact htracker, fun hno => ?_, fun e he => ?_⟩
    · refine List.eq_nil_iff_forall_not_mem.mpr fun e he => ?_
      obtain ⟨b, hb, -⟩ := hl e he
      rw [activatedBanks_of_unwanted hno] at hb
      exact List.not_mem_nil hb
    · obtain ⟨b, hb, rfl⟩ := hl e he
      exact ⟨rfl, rfl, mem_activatedBanks hb⟩
  case actgThrottled =>
    intro s c r row k d g hwanted hmode hk hport hrank hrow hbank hsel hyoung
    refine (yields_actg_of_throttled d.isLt hwanted hmode hk hport hrank hrow (hbank ▸ hsel) hyoung).imp ?_
    rintro _ rfl
    rfl
  case preg =>
    intro s c r h
    exact (yields_preg h).imp fun _ ⟨⟨hrows, hkept⟩, hdies⟩ => ⟨hrows, hkept, hdies⟩
  case actgRefused =>
    intro s c r row h hno hunwanted
    refine (yields_actg_of_refused h hno hunwanted).imp fun t ⟨hdie, hdies⟩ => ⟨fun d hd => ?_, hdies⟩
    rw [hdie d hd]
    exact ⟨rfl, rfl⟩
  case bind => exact fun s c r lo hi f h => yields_bind lo hi f h
  case craw =>
    intro s c r slot data h hp1
    refine (yields_craw slot data h hp1).imp fun t ⟨hgrain, hgrains⟩ => ?_
    refine ⟨fun d hd g hg i hi => ?_, fun d hd g hg o ho => ?_, hgrains⟩
    · rw [hgrain d hd g hg, craByte_withCraBytes_inside hi (by omega), ofNat_dieByte hi]
    · rw [hgrain d hd g hg, craByte_withCraBytes_outside ho]
  case crar => exact fun s c r slot g h hp1 => yields_crar slot g h hp1
  case tlw =>
    intro s c r index words data h
    refine (yields_tlw index words data h).imp fun t ⟨hgrain, hgrains⟩ => ?_
    refine ⟨fun d hd g hg i hi => ?_, fun d hd g hg n hn => ?_, hgrains⟩
    · rw [hgrain d hd g hg, store_withStoreWords_inside hi]
    · rw [hgrain d hd g hg, store_withStoreWords_outside hn]
  case tlr => exact fun s c r index g h => yields_tlr index g h

end Sys2Proof.Machine
end

section
/-! What every operation on the state keeps: the queue of waiting commands, and soundness (18 R481, R482). -/

namespace Sys2Proof.Machine

/-- From s to t the queue stands, and t is sound where s is. -/
structure Keeps (s t : State) : Prop where
  pending : t.pending = s.pending
  sound : s.sound → t.sound

variable {s t : State} {α : Type}

theorem Keeps.refl (s : State) : Keeps s s := ⟨rfl, id⟩

/-- Soundness looks at the entries of the two logs and at the banks' bytes alone. -/
theorem Keeps.of_fields {u : State} (h : Keeps s t) (hp : u.pending = t.pending)
    (he : u.log.events.length ≤ t.log.events.length) (hl : u.log.plog.length ≤ t.log.plog.length)
    (hm : Memory.wf t.bank.mem = true → Memory.wf u.bank.mem = true) : Keeps s u := by
  refine ⟨hp.trans h.pending, fun hs => ?_⟩
  obtain ⟨hlog, hmem⟩ := h.sound hs
  simp only [logsBounded, Bool.and_eq_true, decide_eq_true_eq] at hlog
  refine ⟨?_, hm hmem⟩
  simp only [logsBounded, Bool.and_eq_true, decide_eq_true_eq]
  exact ⟨he.trans hlog.1, hl.trans hlog.2⟩

/-- An update that leaves the queue, the entries of the logs and the banks' bytes. -/
theorem Keeps.frame {out freeCtr acceptCtr clk boot cxl fw spdm hub dev cnt seq inputMin orders ordersAt rings places marl marks
      dies grains mappedOut parityOnce ctl sq eng serve lnk pwr keep tray grc} (h : Keeps s t) :
    Keeps s { t with
      out := out, freeCtr := freeCtr, acceptCtr := acceptCtr, clk := clk, boot := boot, cxl := cxl, fw := fw, spdm := spdm,
      hub := hub, dev := dev, cnt := cnt, rings := rings, places := places, marl := marl, ctl := ctl, seq := sq, eng := eng,
      log := { t.log with seq := seq, inputMin := inputMin, orders := orders, ordersAt := ordersAt },
      bank := { t.bank with marks := marks, dies := dies, grains := grains, mappedOut := mappedOut, parityOnce := parityOnce },
      serve := serve, lnk := lnk, pwr := pwr, keep := keep, tray := tray, grc := grc } :=
  h.of_fields rfl le_rfl le_rfl id

/-- Of two branches that both keep them either keeps them. -/
theorem Keeps.ite {c : Prop} [Decidable c] {t u : State} (ht : Keeps s t) (hu : Keeps s u) :
    Keeps s (if c then t else u) := by
  split
  · exact ht
  · exact hu

/-- What every step of a fold keeps, the fold keeps. -/
theorem Keeps.foldl {g : State → α → State} {l : List α} (hg : ∀ u a, Keeps s u → Keeps s (g u a)) (h : Keeps s t) :
    Keeps s (l.foldl g t) := by
  induction l generalizing t with
  | nil => exact h
  | cons a l ih => exact ih (hg t a h)

/-- A command completes, and what it leaves keeps the queue and soundness. -/
def Completes (s : State) (o : Host.Outcome State Fault Refusal) : Prop := ∃ t, o = .next t ∧ Keeps s t

theorem Keeps.next (h : Keeps s t) : Completes s (.next t) := ⟨t, rfl, h⟩

theorem Completes.ite {c : Prop} [Decidable c] {o p : Host.Outcome State Fault Refusal} (ho : Completes s o)
    (hp : Completes s p) : Completes s (if c then o else p) := by
  split
  · exact ho
  · exact hp

/-- What an instruction of a grain comes to keeps the queue and soundness, whichever way it ends. -/
def KeepsOut (s : State) (o : TOut) : Prop :=
  match o with
  | .fault _ t | .next t _ | .skip t _ _ | .jump t _ _ | .halted t => Keeps s t
  | .stall => True

theorem KeepsOut.fault {c : Nat} (h : Keeps s t) : KeepsOut s (.fault c t) := h
theorem KeepsOut.stall : KeepsOut s .stall := trivial
theorem KeepsOut.next {n : Nat} (h : Keeps s t) : KeepsOut s (.next t n) := h
theorem KeepsOut.skip {n p : Nat} (h : Keeps s t) : KeepsOut s (.skip t n p) := h
theorem KeepsOut.jump {n p : Nat} (h : Keeps s t) : KeepsOut s (.jump t n p) := h
theorem KeepsOut.halted (h : Keeps s t) : KeepsOut s (.halted t) := h

theorem KeepsOut.ite {c : Prop} [Decidable c] {o p : TOut} (ho : KeepsOut s o) (hp : KeepsOut s p) :
    KeepsOut s (if c then o else p) := by
  split
  · exact ho
  · exact hp

/-- Where an operation answers a state, that state keeps the queue and soundness. -/
def KeepsSome (s : State) (o : Option State) : Prop := ∀ t, o = some t → Keeps s t

theorem KeepsSome.none : KeepsSome s none := by simp [KeepsSome]

theorem KeepsSome.some (h : Keeps s t) : KeepsSome s (some t) := by
  rintro _ ⟨⟩
  exact h

theorem KeepsSome.ite {c : Prop} [Decidable c] {o p : Option State} (ho : KeepsSome s o) (hp : KeepsSome s p) :
    KeepsSome s (if c then o else p) := by
  split
  · exact ho
  · exact hp

theorem Keeps.getD {o : Option State} (ho : KeepsSome s o) (h : Keeps s t) : Keeps s (o.getD t) := by
  cases o with
  | none => exact h
  | some u => exact ho u rfl

theorem Keeps.trans {u : State} (h : Keeps s t) (h' : Keeps t u) : Keeps s u :=
  ⟨h'.pending.trans h.pending, fun hs => h'.sound (h.sound hs)⟩

theorem keeps_emit {o : Out} (h : Keeps s t) : Keeps s (emit o t) := Keeps.frame h

theorem keeps_msix {f : Func} {v : Fin 8} (h : Keeps s t) : Keeps s (msix f v t) := keeps_emit h

theorem keeps_takeFree (h : Keeps s t) : Keeps s (takeFree t) := Keeps.frame h

theorem keeps_bump {i : Nat} (h : Keeps s t) : Keeps s (bump i t) := Keeps.frame h

theorem keeps_bumpBy {i n : Nat} (h : Keeps s t) : Keeps s (bumpBy i n t) := Keeps.frame h

theorem keeps_bumpFuncBy {f : Func} {i n : Nat} (h : Keeps s t) : Keeps s (bumpFuncBy f i n t) := Keeps.frame h

theorem keeps_countEv {src inst : Nat} {f : Option Func} {n : Nat} (h : Keeps s t) : Keeps s (countEv src inst f n t) :=
  Keeps.frame h

theorem keeps_logAs {cls code : Nat} {loc : U16} {func : Byte} {master d0 d1 : Nat} (h : Keeps s t) :
    Keeps s (logAs cls code loc func master d0 d1 t) :=
  ⟨(logAs_pending ..).trans h.pending, fun hs => logAs_sound _ _ _ _ _ _ _ _ (h.sound hs)⟩

theorem keeps_logDev {cls code : Nat} {loc : U16} {d0 d1 : Nat} (h : Keeps s t) : Keeps s (logDev cls code loc d0 d1 t) :=
  keeps_logAs h

theorem keeps_logFn {cls code : Nat} {loc : U16} {f : Func} {d0 d1 : Nat} (h : Keeps s t) :
    Keeps s (logFn cls code loc f d0 d1 t) :=
  keeps_logAs h

theorem keeps_plogAdd {loc : U16} {info : Nat} (h : Keeps s t) : Keeps s (plogAdd loc info t) :=
  ⟨h.pending, fun hs => plogAdd_sound _ _ _ (h.sound hs)⟩

theorem keeps_setRing {f : Func} {r : Ring} (h : Keeps s t) : Keeps s (setRing f r t) := Keeps.frame h

theorem keeps_setDesc {p : Place} {d : Desc} (h : Keeps s t) : Keeps s (setDesc p d t) := Keeps.frame h

theorem keeps_freePlace {p : Place} (h : Keeps s t) : Keeps s (freePlace p t) := Keeps.frame h

theorem keeps_setGrain {g : Nat} {x : Grain} (h : Keeps s t) : Keeps s (setGrain g x t) := Keeps.frame h

theorem keeps_setDie {i : Nat} {x : DieSt} (h : Keeps s t) : Keeps s (setDie i x t) := Keeps.frame h

theorem keeps_setBc {c : Nat} {b : Bc} (h : Keeps s t) : Keeps s (setBc c b t) := Keeps.frame h

theorem keeps_setQuad {q : Nat} {m : QuadMap} (h : Keeps s t) : Keeps s (setQuad q m t) := Keeps.frame h

theorem keeps_setCtx {x : Nat} {c : Ctx} (h : Keeps s t) : Keeps s (setCtx x c t) := Keeps.frame h

theorem keeps_eraseCtx {x : Nat} (h : Keeps s t) : Keeps s (eraseCtx x t) := Keeps.frame h

theorem keeps_moveCtx {x : Nat} {c : Ctx} {st : CState} (h : Keeps s t) : Keeps s (moveCtx x c st t) := keeps_setCtx h

theorem keeps_setQueue {q : Nat} {l : List QCmd} (h : Keeps s t) : Keeps s (setQueue q l t) := Keeps.frame h

theorem keeps_setWire {w : Nat} {x : Wire} (h : Keeps s t) : Keeps s (setWire w x t) := Keeps.frame h

theorem keeps_setMx {n : Nat} {m : Mx} (h : Keeps s t) : Keeps s (setMx n m t) := Keeps.frame h

theorem keeps_setPort {p : Nat} {x : Port} (h : Keeps s t) : Keeps s (setPort p x t) := Keeps.frame h

theorem keeps_setPageOwner {pg owner : Nat} (h : Keeps s t) : Keeps s (setPageOwner pg owner t) := Keeps.frame h

theorem keeps_setKblock {i : Nat} {b : KBlock} (h : Keeps s t) : Keeps s (setKblock i b t) := Keeps.frame h

theorem keeps_setSlot {i : Nat} {x : Slot} (h : Keeps s t) : Keeps s (setSlot i x t) := Keeps.frame h

theorem keeps_setRackMod {m : Nat} {x : RackMod} (h : Keeps s t) : Keeps s (setRackMod m x t) := Keeps.frame h

/-! ### Status counts -/

theorem keeps_countEnding {f : Func} {st : Status} (h : Keeps s t) : Keeps s (countEnding f st t) := by
  unfold countEnding
  dsimp only
  split
  · exact keeps_bumpFuncBy h
  · exact h

/-! ### Requests of one boundary -/

theorem keeps_noteOrder {o : Order} (h : Keeps s t) : Keeps s (noteOrder o t) := Keeps.frame h

theorem keeps_logCollision {a b : Order} {lost : Bool} (h : Keeps s t) : Keeps s (logCollision a b lost t) :=
  keeps_logAs (keeps_logAs h)

theorem keeps_logPreempted {a : Order} {loser : Option (Func × U32)} (h : Keeps s t) :
    Keeps s (logPreempted a loser t) := by
  unfold logPreempted
  dsimp only
  split
  · exact keeps_logFn h
  · exact keeps_logAs h

theorem keeps_contend {kinds : List Req} {o : Order} (h : Keeps s t) : Keeps s (contend kinds o t) := by
  unfold contend
  split
  · exact keeps_logCollision (keeps_noteOrder h)
  · exact keeps_noteOrder h

/-! ### The banks and the Marl's copies -/

theorem keeps_setColAt {w : Nat} {d : ColData} {poison : Bool} (h : Keeps s t) : Keeps s (setColAt w d poison t) :=
  h.of_fields rfl le_rfl le_rfl (setCol_wf _ _ _)

theorem keeps_flipCol {w n : Nat} (h : Keeps s t) : Keeps s (flipCol w n t) := by
  unfold flipCol
  dsimp only
  split
  · exact h
  · split
    · exact keeps_takeFree (h.of_fields rfl le_rfl le_rfl (setCol_wf _ _ _))
    · exact h.frame

theorem keeps_takeFlips {ws : List Nat} {flips : Flips} (h : Keeps s t) : Keeps s (takeFlips ws flips t) :=
  Keeps.foldl (fun _ _ h1 => keeps_flipCol h1) h

theorem keeps_noteCorrected {c r : Nat} (h : Keeps s t) : Keeps s (noteCorrected c r t) := keeps_countEv (Keeps.frame h)

theorem keeps_noteRead {c r bank row col : Nat} {ws : List Nat} (h : Keeps s t) :
    Keeps s (noteRead c r bank row col ws t) :=
  Keeps.ite (Keeps.frame (Keeps.ite (keeps_noteCorrected h) h)) (Keeps.ite (keeps_noteCorrected h) h)

theorem keeps_noteIssued {c r bank row col : Nat} {data : Wide} {mask : BitVec 128} {poison : Bool} (h : Keeps s t) :
    Keeps s (noteIssued c r bank row col data mask poison t) :=
  keeps_setBc h

theorem keeps_storeUnit {ws : List Nat} {data : Wide} {mask : BitVec 128} {poison : Bool} (h : Keeps s t) :
    Keeps s (storeUnit ws data mask poison t) :=
  Keeps.foldl (fun _ _ h1 => keeps_setColAt h1) h

theorem keeps_writeUnit {c r bank row col : Nat} {data : Wide} {mask : BitVec 128} {poison : Bool} (h : Keeps s t) :
    Keeps s (writeUnit c r bank row col data mask poison t) :=
  keeps_storeUnit (keeps_noteIssued (Keeps.ite h (keeps_noteRead h)))

theorem keeps_putUnit {l : Loc} {data : Wide} {mask : BitVec 128} {poison : Bool} (h : Keeps s t) :
    Keeps s (putUnit l data mask poison t) := by
  unfold putUnit
  dsimp only
  split
  · exact keeps_writeUnit h
  · exact keeps_setBc h

theorem keeps_writeWords {xs : List WordWrite} (h : Keeps s t) : Keeps s (writeWords xs t) := by
  unfold writeWords
  dsimp only
  refine Keeps.foldl ?_ h
  intro _ _ h1
  split
  · exact h1
  · exact Keeps.ite h1 (keeps_putUnit h1)

theorem keeps_setCopy {w : Nat} {c : Copy} (h : Keeps s t) : Keeps s (setCopy w c t) := Keeps.frame h

theorem keeps_dropCopy {w : Nat} (h : Keeps s t) : Keeps s (dropCopy w t) := Keeps.frame h

theorem keeps_markBound {key w : Nat} (h : Keeps s t) : Keeps s (markBound key w t) := by
  unfold markBound
  split
  · exact h
  · exact keeps_setCopy h

theorem keeps_touchBound {key off : Nat} (h : Keeps s t) : Keeps s (touchBound key off t) :=
  Keeps.foldl (fun _ _ h1 => Keeps.ite (Keeps.foldl (fun _ _ h2 => keeps_markBound h2) h1) h1) h

theorem keeps_writeRegion {key off : Nat} {v : SramLine} (h : Keeps s t) : Keeps s (writeRegion key off v t) :=
  keeps_touchBound (Keeps.frame h)

theorem keeps_setRegionCol {key off : Nat} {d : ColData} {mask : BitVec 32} {poison : Bool} (h : Keeps s t) :
    Keeps s (setRegionCol key off d mask poison t) :=
  keeps_writeRegion h

theorem keeps_commitCol {w : Nat} {d : ColData} {mask : BitVec 32} {poison wholeLine : Bool} (h : Keeps s t) :
    Keeps s (commitCol w d mask poison wholeLine t) := by
  unfold commitCol
  dsimp only
  refine Keeps.ite h ?_
  split
  · exact keeps_setRegionCol h
  · split
    · exact keeps_setCopy h
    · exact keeps_setCopy h

theorem keeps_commitLine {ws : List Nat} {d : Line} {mask : BitVec 64} {poison : Bool} (h : Keeps s t) :
    Keeps s (commitLine ws d mask poison t) :=
  keeps_commitCol (keeps_commitCol h)

theorem keeps_writeBackWords {ws : List Nat} (h : Keeps s t) : Keeps s (writeBackWords ws t) :=
  keeps_writeWords (Keeps.foldl (fun _ _ h1 => keeps_dropCopy h1) h)

theorem keeps_writeBackAll {ws : List Nat} (h : Keeps s t) : Keeps s (writeBackAll ws t) := keeps_writeBackWords h

theorem keeps_noteSpan {p : Place} {x : Span} (h : Keeps s t) : Keeps s (noteSpan p x t) := by
  unfold noteSpan
  dsimp only
  split
  · exact Keeps.ite h (keeps_setDesc h)
  · exact h

theorem keeps_scribbleCol {n w : Nat} (h : Keeps s t) : Keeps s (scribbleCol n w t) := by
  unfold scribbleCol
  dsimp only
  have hw := fun b : Bc => Keeps.ite (c := (bc t (wordLoc w).c).writes.isEmpty) h (keeps_setBc (c := (wordLoc w).c) (b := b) h)
  split
  · exact keeps_setRegionCol ((hw _).of_fields rfl le_rfl le_rfl (setCol_wf _ _ _))
  · exact keeps_setCopy ((hw _).of_fields rfl le_rfl le_rfl (setCol_wf _ _ _))
  · exact (hw _).of_fields rfl le_rfl le_rfl (setCol_wf _ _ _)

theorem keeps_scribble {ws : List Nat} (h : Keeps s t) : Keeps s (scribble ws t) :=
  Keeps.ite h (keeps_takeFree (Keeps.foldl (fun _ _ h1 => keeps_scribbleCol h1) h))

theorem keeps_scribbleRegions {keys : List Nat} (h : Keeps s t) : Keeps s (scribbleRegions keys t) :=
  Keeps.ite h (keeps_takeFree (Keeps.frame h))

/-! ### Contexts, flags, wires -/

theorem keeps_putFlag {sp : FlagSpace} {n : Nat} {x : Flag} (h : Keeps s t) : Keeps s (putFlag sp n x t) := by
  unfold putFlag
  dsimp only
  split
  · exact Keeps.frame h
  · exact Keeps.frame h

theorem keeps_endWait {x : CtxNo} (h : Keeps s t) : Keeps s (endWait x t) := by
  unfold endWait
  dsimp only
  split
  · exact Keeps.frame (keeps_setCtx h)
  · exact h

theorem keeps_judgeWaits {sp : FlagSpace} {n : Nat} (h : Keeps s t) : Keeps s (judgeWaits sp n t) := by
  unfold judgeWaits
  dsimp only
  split
  · exact Keeps.foldl (fun _ _ h1 => keeps_endWait h1) h
  · exact Keeps.foldl (fun _ _ h1 => keeps_endWait h1) (keeps_putFlag (keeps_endWait (Keeps.foldl (fun _ _ h1 =>
      keeps_endWait h1) h)))

theorem keeps_setFlag {sp : FlagSpace} {n : Nat} {setter : Fin 8} (h : Keeps s t) : Keeps s (setFlag sp n setter t) :=
  keeps_judgeWaits (keeps_putFlag h)

theorem keeps_clearFlag {sp : FlagSpace} {n : Nat} (h : Keeps s t) : Keeps s (clearFlag sp n t) :=
  keeps_judgeWaits (keeps_putFlag h)

theorem keeps_wipeOne {sp : FlagSpace} {n : Nat} (h : Keeps s t) : Keeps s (wipeOne sp n t) := Keeps.frame (keeps_putFlag h)

theorem keeps_wipeFlag {sp : FlagSpace} {n : Nat} (h : Keeps s t) : Keeps s (wipeFlag sp n t) :=
  Keeps.foldl (fun _ _ h1 => keeps_wipeOne h1) h

theorem keeps_wipeFlags {sp : FlagSpace} {ns : List Nat} (h : Keeps s t) : Keeps s (wipeFlags sp ns t) :=
  Keeps.foldl (fun _ _ h1 => keeps_wipeFlag h1) h

theorem keeps_queueP1 {c : Nat} {k : P1} (h : Keeps s t) : Keeps s (queueP1 c k t) := Keeps.frame (keeps_setBc h)

theorem keeps_releaseWire {w : Fin 8} (h : Keeps s t) : Keeps s (releaseWire w t) :=
  Keeps.foldl (fun _ _ h1 => keeps_endWait h1) (keeps_setWire h)

theorem keeps_arriveWire {w : Fin 8} (h : Keeps s t) : Keeps s (arriveWire w t) :=
  Keeps.ite (keeps_setWire h) (Keeps.ite (keeps_setWire h) (keeps_releaseWire (keeps_setWire h)))

theorem keeps_closeRows {g : Nat} (h : Keeps s t) : Keeps s (closeRows g t) := keeps_setDie h

theorem keeps_stopGrain {g : Nat} {st : GState} {fault pc : Nat} (h : Keeps s t) : Keeps s (stopGrain g st fault pc t) :=
  Keeps.ite (keeps_takeFree (keeps_setDie (keeps_setGrain h))) (keeps_setDie (keeps_setGrain h))

theorem keeps_haltGrain {g : Nat} (h : Keeps s t) : Keeps s (haltGrain g t) :=
  Keeps.ite (keeps_closeRows (keeps_stopGrain (keeps_setGrain h))) h

theorem keeps_settleCtx {x : CtxNo} (h : Keeps s t) : Keeps s (settleCtx x t) := by
  unfold settleCtx
  split
  · refine Keeps.ite ?_ h
    split
    · exact keeps_setDesc h
    · exact h
  · exact h

theorem keeps_dropUnstarted {x : CtxNo} (h : Keeps s t) : Keeps s (dropUnstarted x t) := Keeps.frame h

theorem keeps_haltRuns {x : CtxNo} (h : Keeps s t) : Keeps s (haltRuns x t) :=
  Keeps.foldl (fun _ _ h1 => Keeps.foldl (fun _ _ h2 => Keeps.foldl (fun _ _ h3 => keeps_haltGrain h3) h2) h1) h

theorem keeps_stopCtx {x : CtxNo} (h : Keeps s t) : Keeps s (stopCtx x t) := by
  unfold stopCtx
  dsimp only
  split
  · exact h
  · exact keeps_settleCtx (Keeps.frame (keeps_setCtx (keeps_dropUnstarted (keeps_haltRuns h))))

theorem keeps_addCond {p : Place} {st : Status} (h : Keeps s t) : Keeps s (addCond p st t) := by
  unfold addCond
  split
  · exact keeps_setDesc h
  · exact h

theorem keeps_faultCtx {x : CtxNo} {code : Nat} (h : Keeps s t) : Keeps s (faultCtx x code t) := by
  unfold faultCtx
  dsimp only
  split
  · exact h
  · exact keeps_stopCtx (keeps_logFn (keeps_setCtx (keeps_addCond h)))

theorem keeps_releaseRegion {id : Nat} (h : Keeps s t) : Keeps s (releaseRegion id t) := by
  unfold releaseRegion
  dsimp only
  refine Keeps.ite (Keeps.frame h) ?_
  split
  · exact Keeps.frame h
  · exact h

theorem keeps_leaveWires {x : CtxNo} (h : Keeps s t) : Keeps s (leaveWires x t) :=
  Keeps.foldl (fun _ _ h1 => Keeps.ite (keeps_setWire h1) h1) h

theorem keeps_clearRes {n res : Nat} (h : Keeps s t) : Keeps s (clearRes n res t) :=
  Keeps.ite (keeps_setMx h) (Keeps.ite (keeps_setMx h) (keeps_setMx h))

theorem keeps_freeCtx {x : CtxNo} (h : Keeps s t) : Keeps s (freeCtx x t) := by
  unfold freeCtx
  dsimp only
  split
  · with_reducible exact h
  · with_reducible exact Keeps.frame (keeps_wipeFlags (keeps_leaveWires (keeps_eraseCtx (Keeps.foldl (fun _ _ h1 =>
      keeps_clearRes h1) (Keeps.foldl (fun _ _ h1 => keeps_releaseRegion h1) h)))))

/-! ### Descriptors -/

theorem keeps_endDesc {p : Place} {st : Status} {detail : Nat} (h : Keeps s t) : Keeps s (endDesc p st detail t) := by
  unfold endDesc
  split
  · exact keeps_setDesc h
  · exact h

theorem keeps_noteDetail {p : Place} {detail : Nat} (h : Keeps s t) : Keeps s (noteDetail p detail t) := by
  unfold noteDetail
  split
  · exact keeps_setDesc h
  · exact h

theorem keeps_releasePlace {p : Place} (h : Keeps s t) : Keeps s (releasePlace p t) :=
  Keeps.foldl (fun _ _ h1 => keeps_releaseRegion h1) h

theorem keeps_dropP1 {p : Place} (h : Keeps s t) : Keeps s (dropP1 p t) := by
  unfold dropP1
  dsimp only
  refine Keeps.frame ?_
  split
  · exact keeps_setDesc h
  · exact h

theorem keeps_clipDesc {p : Place} {yes : Bool} (h : Keeps s t) : Keeps s (clipDesc p yes t) := by
  unfold clipDesc
  split
  · exact Keeps.ite (keeps_setDesc h) h
  · exact h

theorem keeps_dropCopyCmd {p : Place} (h : Keeps s t) : Keeps s (dropCopyCmd p t) := Keeps.frame h

theorem keeps_cancelRow {p : Place} {row : Nat} (h : Keeps s t) : Keeps s (cancelRow p row t).1 := by
  unfold cancelRow
  dsimp only
  split
  · split
    · exact keeps_setDesc h
    · exact keeps_bump h
  · split
    · exact keeps_bump h
    · exact Keeps.frame h
  · exact keeps_bump h

theorem keeps_cancelRows {p : Place} (h : Keeps s t) : Keeps s (cancelRows p t).1 := by
  unfold cancelRows
  dsimp only
  split
  · exact h
  · exact Keeps.frame h

theorem keeps_cancelDesc {p : Place} (h : Keeps s t) : Keeps s (cancelDesc p t).1 := by
  unfold cancelDesc
  dsimp only
  split
  · exact keeps_bump h
  · split
    · exact h
    · split
      · exact h
      · split
        · exact keeps_endDesc h
        · exact keeps_endDesc (Keeps.ite (keeps_cancelRows h) h)
        · split
          · split
            · split
              · exact keeps_stopCtx (keeps_addCond (keeps_cancelRows h))
              · exact keeps_addCond h
            · exact keeps_stopCtx (keeps_addCond h)
          · split
            · exact keeps_endDesc h
            · split
              · split
                · exact keeps_addCond h
                · exact keeps_endDesc (keeps_releasePlace (keeps_dropCopyCmd h))
              · exact keeps_addCond h
        · split
          · exact keeps_addCond h
          · exact keeps_addCond h
        · exact keeps_bump h

theorem keeps_buildRecord {p : Place} {d : Desc} (h : Keeps s t) : Keeps s (buildRecord p d t) :=
  Keeps.ite (keeps_countEnding (keeps_setDesc (keeps_setRing h))) (keeps_logFn (keeps_countEnding (keeps_setDesc
    (keeps_setRing h))))

theorem keeps_clearPage {pg : Nat} (h : Keeps s t) : Keeps s (clearPage pg t) :=
  ⟨h.pending, fun hs => clearPage_sound _ _ (h.sound hs)⟩

theorem keeps_dropFetched {f : Func} {k : Nat} (h : Keeps s t) : Keeps s (dropFetched f k t) :=
  keeps_setRing (Keeps.frame h)

theorem keeps_disableRing {f : Func} (h : Keeps s t) : Keeps s (disableRing f t) := keeps_setRing (keeps_dropFetched h)

theorem keeps_needResync {f : Func} (h : Keeps s t) : Keeps s (needResync f t) := Keeps.ite h (keeps_msix (keeps_setRing h))

end Sys2Proof.Machine
end

section
/-! Doorbells, rings, descriptors, links and sequencers keep the queue and soundness. -/

namespace Sys2Proof.Machine

variable {s t : State}

/-! ### Doorbells and rings -/

theorem keeps_ok (h : Keeps s t) : Completes s (ok t) := Keeps.next h

theorem keeps_execWorkDoorbell {pfPage : Bool} {f : Func} {v : U64} (h : Keeps s t) :
    Completes s (execWorkDoorbell pfPage f v t) := by
  unfold execWorkDoorbell
  dsimp only
  refine Completes.ite (keeps_ok h) ?_
  refine Completes.ite (keeps_ok (keeps_bump h)) ?_
  split
  · exact keeps_ok (keeps_bump (keeps_logCollision h))
  · exact Completes.ite (keeps_ok (keeps_bump h)) (keeps_ok (Keeps.ite (keeps_bump (keeps_contend (keeps_setRing h)))
      (keeps_contend (keeps_setRing h))))

theorem keeps_execCancelDoorbell {pfPage : Bool} {f : Func} {v : U64} (h : Keeps s t) :
    Completes s (execCancelDoorbell pfPage f v t) := by
  unfold execCancelDoorbell
  dsimp only
  refine Completes.ite (keeps_ok h) ?_
  refine Completes.ite (keeps_ok (keeps_bump h)) ?_
  split
  · exact keeps_ok (keeps_bump (keeps_logCollision h))
  · split
    · exact keeps_ok (keeps_contend (Keeps.ite (keeps_cancelDesc h) (keeps_cancelRow h)))
    · exact Completes.ite (Completes.ite (keeps_ok (keeps_noteOrder (keeps_setRing h))) (keeps_ok (keeps_bump h)))
        (keeps_ok (keeps_bump h))

theorem keeps_execRingCfgWrite {pfPage : Bool} {f : Func} {hd : Half} {v : U64} (h : Keeps s t) :
    Completes s (execRingCfgWrite pfPage f hd v t) := by
  unfold execRingCfgWrite
  dsimp only
  refine Completes.ite (keeps_ok h) ?_
  refine Completes.ite (keeps_ok (keeps_bump h)) ?_
  refine Completes.ite (keeps_ok (keeps_bump h)) ?_
  refine Completes.ite (keeps_ok (Keeps.ite (keeps_noteOrder (keeps_msix (keeps_disableRing (keeps_setRing h)))) (Keeps.ite
    (keeps_msix (keeps_disableRing (keeps_setRing h))) (keeps_disableRing (keeps_setRing h))))) ?_
  split
  · exact keeps_ok (keeps_logCollision h)
  · exact keeps_ok (keeps_setRing h)

theorem keeps_execRingBaseWrite {pfPage : Bool} {f : Func} {done : Bool} {hd : Half} {v : U64} (h : Keeps s t) :
    Completes s (execRingBaseWrite pfPage f done hd v t) :=
  Completes.ite (keeps_ok h) (Completes.ite (keeps_ok (keeps_bump h)) (keeps_ok (keeps_setRing h)))

theorem keeps_execDoorbellPageBadAccess {pfPage : Bool} {f : Func} {write : Bool} {off size : Nat} (h : Keeps s t) :
    Completes s (execDoorbellPageBadAccess pfPage f write off size t) :=
  Completes.ite (keeps_ok h) (Completes.ite (Completes.ite (keeps_ok h) (keeps_ok (keeps_bump h))) (Completes.ite (keeps_ok
    (keeps_emit h)) (keeps_ok (keeps_emit h))))

theorem keeps_execDescriptorFetchIssue {f : Func} {n : Nat} (h : Keeps s t) :
    Completes s (execDescriptorFetchIssue f n t) := by
  unfold execDescriptorFetchIssue
  dsimp only
  split
  · exact Completes.ite (keeps_ok (keeps_emit (keeps_setRing (Keeps.foldl (fun _ _ h1 => Keeps.frame h1) h)))) (keeps_ok h)
  · exact keeps_ok h

theorem keeps_refuseFetch {f : Func} (h : Keeps s t) : Keeps s (refuseFetch f t) := by
  unfold refuseFetch
  dsimp only
  split
  · exact Keeps.ite (keeps_logFn (keeps_needResync (keeps_setRing (keeps_dropFetched h)))) h
  · exact h

theorem keeps_execDescriptorFetchLand {f : Func} {k : Fin 4} {slots : List (List U64)} {bad : Option (Fin 8)} (h : Keeps s
    t) :
    Completes s (execDescriptorFetchLand f k slots bad t) := by
  unfold execDescriptorFetchLand
  dsimp only
  split
  · exact keeps_ok h
  · refine keeps_ok ?_
    refine keeps_refuseFetch ?_
    refine keeps_setRing ?_
    refine Keeps.foldl ?_ h
    intro _ _ h1
    split
    · exact Keeps.frame h1
    · exact h1

theorem keeps_noteGap {f : Func} {hsn : U32} (h : Keeps s t) : Keeps s (noteGap f hsn t) :=
  Keeps.ite h (keeps_logFn (keeps_setRing h))

theorem keeps_logCancelMet {f : Func} {hsn : U32} (h : Keeps s t) : Keeps s (logCancelMet f hsn t) := by
  unfold logCancelMet
  dsimp only
  split
  · exact keeps_logCollision h
  · exact h

theorem keeps_execDescriptorAccept {f : Func} (h : Keeps s t) : Completes s (execDescriptorAccept f t) := by
  unfold execDescriptorAccept
  dsimp only
  split
  · exact keeps_ok h
  · exact Completes.ite (keeps_ok (keeps_refuseFetch h)) (Completes.ite (keeps_ok (keeps_bump (keeps_setRing
      (keeps_dropFetched h)))) (Completes.ite (keeps_ok h) (keeps_ok (keeps_refuseFetch (keeps_bumpBy (keeps_bumpFuncBy
      (keeps_countEv (Keeps.ite (keeps_logCancelMet (Keeps.frame (keeps_setDesc (keeps_setRing (keeps_noteGap h)))))
      (Keeps.frame (keeps_setDesc (keeps_setRing (keeps_noteGap h))))))))))))

theorem keeps_settleCancels {p : Place} {d : Desc} (h : Keeps s t) : Keeps s (settleCancels p d t) :=
  Keeps.foldl (fun _ _ h1 => Keeps.frame h1) h

theorem keeps_clearTagged {tag : Nat} (h : Keeps s t) : Keeps s (clearTagged tag t) :=
  Keeps.frame (Keeps.foldl (fun _ _ h1 => Keeps.ite h1 (keeps_clearPage h1)) h)

theorem keeps_endFlr {f : Func} (h : Keeps s t) : Keeps s (endFlr f t) :=
  Keeps.ite (keeps_emit (keeps_clearTagged (Keeps.frame h))) h

theorem keeps_undefineWork {d : Desc} (h : Keeps s t) : Keeps s (undefineWork d t) :=
  Keeps.ite (keeps_scribbleRegions (keeps_scribble h)) h

theorem keeps_execDescriptorCompletion {p : Place} (h : Keeps s t) : Completes s (execDescriptorCompletion p t) := by
  unfold execDescriptorCompletion
  dsimp only
  split
  · exact keeps_ok h
  · refine Completes.ite ?_ (keeps_ok h)
    refine keeps_ok ?_
    refine Keeps.ite ?_ ?_
    · refine keeps_endFlr ?_
      refine Keeps.frame ?_
      refine Keeps.ite ?_ ?_
      · refine keeps_bump ?_
        refine keeps_releasePlace ?_
        split
        · exact keeps_freeCtx (Keeps.ite (keeps_freePlace (keeps_settleCancels (keeps_undefineWork h))) (keeps_buildRecord
            (keeps_settleCancels (keeps_undefineWork h))))
        · exact Keeps.ite (keeps_freePlace (keeps_settleCancels (keeps_undefineWork h))) (keeps_buildRecord
            (keeps_settleCancels (keeps_undefineWork h)))
      · refine keeps_releasePlace ?_
        split
        · exact keeps_freeCtx (Keeps.ite (keeps_freePlace (keeps_settleCancels (keeps_undefineWork h))) (keeps_buildRecord
            (keeps_settleCancels (keeps_undefineWork h))))
        · exact Keeps.ite (keeps_freePlace (keeps_settleCancels (keeps_undefineWork h))) (keeps_buildRecord
            (keeps_settleCancels (keeps_undefineWork h)))
    · refine Keeps.frame ?_
      refine Keeps.ite ?_ ?_
      · refine keeps_bump ?_
        refine keeps_releasePlace ?_
        split
        · exact keeps_freeCtx (Keeps.ite (keeps_freePlace (keeps_settleCancels (keeps_undefineWork h))) (keeps_buildRecord
            (keeps_settleCancels (keeps_undefineWork h))))
        · exact Keeps.ite (keeps_freePlace (keeps_settleCancels (keeps_undefineWork h))) (keeps_buildRecord
            (keeps_settleCancels (keeps_undefineWork h)))
      · refine keeps_releasePlace ?_
        split
        · exact keeps_freeCtx (Keeps.ite (keeps_freePlace (keeps_settleCancels (keeps_undefineWork h))) (keeps_buildRecord
            (keeps_settleCancels (keeps_undefineWork h))))
        · exact Keeps.ite (keeps_freePlace (keeps_settleCancels (keeps_undefineWork h))) (keeps_buildRecord
            (keeps_settleCancels (keeps_undefineWork h)))

theorem keeps_execDoneRecordWrite {f : Func} (h : Keeps s t) : Completes s (execDoneRecordWrite f t) := by
  unfold execDoneRecordWrite
  dsimp only
  split
  · exact keeps_ok h
  · exact Completes.ite (keeps_ok h) (keeps_ok (Keeps.ite (keeps_msix (keeps_bumpFuncBy (keeps_countEv (keeps_freePlace
      (Keeps.frame (keeps_emit (keeps_setRing h))))))) (keeps_bumpFuncBy (keeps_countEv (keeps_freePlace (Keeps.frame
      (keeps_emit (keeps_setRing h))))))))

theorem keeps_execHostWriteRejected {f : Func} {kind : HostWriteKind} (h : Keeps s t) :
    Completes s (execHostWriteRejected f kind t) :=
  keeps_ok (keeps_logFn h)

/-! ### Descriptors of the hub -/

theorem keeps_execNop {p : Place} (h : Keeps s t) : Completes s (execNop p t) := by
  unfold execNop
  split
  · exact keeps_ok (keeps_endDesc h)
  · exact keeps_ok h

theorem keeps_execFence {p : Place} (h : Keeps s t) : Completes s (execFence p t) := by
  unfold execFence
  dsimp only
  split
  · exact keeps_ok h
  · exact Completes.ite (keeps_ok (keeps_endDesc h)) (keeps_ok (keeps_setDesc h))

theorem keeps_execFenceWaitsEnd {p : Place} (h : Keeps s t) : Completes s (execFenceWaitsEnd p t) := by
  unfold execFenceWaitsEnd
  split
  · exact Completes.ite (keeps_ok (keeps_endDesc h)) (keeps_ok h)
  · exact keeps_ok h

theorem keeps_orphanOne {q : Place} (h : Keeps s t) : Keeps s (orphanOne q t) := by
  unfold orphanOne
  dsimp only
  split
  · exact h
  · split
    · split
      · exact keeps_stopCtx (keeps_addCond h)
      · exact Keeps.ite (keeps_endDesc (keeps_dropP1 (Keeps.ite (keeps_dropCopyCmd h) h))) (keeps_addCond (keeps_dropP1
          (Keeps.ite (keeps_dropCopyCmd h) h)))
    · exact keeps_addCond h
    · exact keeps_endDesc h

theorem keeps_execResync {p : Place} (h : Keeps s t) : Completes s (execResync p t) := by
  unfold execResync
  dsimp only
  split
  · exact keeps_ok h
  · exact Completes.ite (keeps_ok (keeps_noteOrder (keeps_bumpBy (keeps_setDesc (keeps_setRing (Keeps.foldl (fun _ _ h1 =>
      keeps_orphanOne h1) h)))))) (keeps_ok h)

theorem keeps_cancelTarget {by_ f : Func} {hsn : U32} {row self : Nat} {a : State × List Nat × Nat} (h : Keeps s a.1) :
    Keeps s (cancelTarget by_ f hsn row self a).1 := by
  unfold cancelTarget
  dsimp only
  split
  · exact keeps_bump h
  · split
    · exact h
    · split
      · exact keeps_bump h
      · have hr : ∀ q, Keeps s (if row = 0xFFFF then cancelDesc q (contend [.cancel] (ownOrder (.desc f hsn) .cancel by_ hsn) a.1)
            else cancelRow q row (contend [.cancel] (ownOrder (.desc f hsn) .cancel by_ hsn) a.1)).1 := fun q => by
          split
          · exact keeps_cancelDesc (keeps_contend h)
          · exact keeps_cancelRow (keeps_contend h)
        split
        · exact hr _
        · exact hr _
        · exact hr _

/-- What every step of a fold over a state and a tally keeps, the fold keeps. -/
theorem Keeps.foldl_fst {α β : Type} {g : State × β → α → State × β} {l : List α} {a : State × β}
    (hg : ∀ b i, Keeps s b.1 → Keeps s (g b i).1) (h : Keeps s a.1) : Keeps s (l.foldl g a).1 := by
  induction l generalizing a with
  | nil => exact h
  | cons i l ih => exact ih (hg a i h)

theorem keeps_execCancel {p : Place} (h : Keeps s t) : Completes s (execCancel p t) := by
  unfold execCancel
  dsimp only
  split
  · exact keeps_ok h
  · have ha := fun (d : Desc) (f : Func) (w n : Nat) => Keeps.foldl_fst (l := List.range n) (a := (t, [], 0))
      (fun b i hb => keeps_cancelTarget (by_ := d.func) (f := f) (hsn := BitVec.ofNat 32 (bits w 0 32 + i))
        (row := bits w 32 16) (self := d.acc) hb) h
    split
    · exact keeps_ok (keeps_endDesc (keeps_setDesc (ha _ _ _ _)))
    · exact keeps_ok (ha _ _ _ _)

theorem keeps_execPageGrant {p : Place} (h : Keeps s t) : Completes s (execPageGrant p t) := by
  unfold execPageGrant
  dsimp only
  split
  · exact keeps_ok h
  · refine Completes.ite (keeps_ok (keeps_endDesc h)) ?_
    split
    · exact keeps_ok (keeps_endDesc h)
    · exact keeps_ok (keeps_endDesc (keeps_emit (Keeps.foldl (fun _ _ h1 => keeps_noteOrder (keeps_setPageOwner h1)) h)))

theorem keeps_execPageReturn {p : Place} {list : List U32} (h : Keeps s t) : Completes s (execPageReturn p list t) := by
  unfold execPageReturn
  dsimp only
  split
  · exact keeps_ok h
  · split
    · exact keeps_ok (keeps_logPreempted (keeps_logCollision (keeps_endDesc h)))
    · exact Completes.ite (keeps_ok (Keeps.ite (keeps_endDesc (Keeps.ite (keeps_endDesc h) h)) (Keeps.ite (keeps_endDesc h)
        h))) (keeps_ok (Keeps.foldl (fun _ _ h1 => keeps_noteOrder h1) (keeps_setDesc (Keeps.frame (Keeps.foldl (fun _ _ h1
        => keeps_setPageOwner h1) h)))))

theorem keeps_execPageClear {p : Place} (h : Keeps s t) : Completes s (execPageClear p t) := by
  unfold execPageClear
  dsimp only
  split
  · exact keeps_ok h
  · exact Completes.ite (keeps_ok (keeps_endDesc (Keeps.frame (Keeps.foldl (fun _ _ h1 => Keeps.ite h1 (keeps_clearPage
      h1)) h)))) (keeps_ok h)

theorem keeps_pushP1 {w : Nat} {kind : P1Kind} {pl : Option Place} {x : Option CtxNo} {f : Func} (h : Keeps s t) :
    Keeps s (pushP1 w kind pl x f t) :=
  Keeps.foldl (fun _ _ h1 => keeps_queueP1 h1) h

theorem keeps_execSpread {p : Place} (h : Keeps s t) : Completes s (execSpread p t) := by
  unfold execSpread
  dsimp only
  split
  · exact keeps_ok h
  · exact Completes.ite (keeps_ok (keeps_endDesc h)) (Completes.ite (keeps_ok h) (Completes.ite (keeps_ok (keeps_endDesc
      (keeps_setDesc h))) (keeps_ok (keeps_pushP1 (keeps_setDesc h)))))

theorem keeps_drainCtx {x : CtxNo} (h : Keeps s t) : Keeps s (drainCtx x t) := by
  unfold drainCtx
  split
  · exact keeps_setCtx h
  · exact h

theorem keeps_writeCra {g off : Nat} {bs : List Byte} (h : Keeps s t) : Keeps s (writeCra g off bs t) := keeps_setGrain h

theorem keeps_execGrainRun {p : Place} (h : Keeps s t) : Completes s (execGrainRun p t) := by
  unfold execGrainRun
  dsimp only
  split
  · exact keeps_ok h
  · exact Completes.ite (keeps_ok h) (Completes.ite (keeps_ok (keeps_settleCtx (keeps_drainCtx (keeps_addCond h))))
      (Completes.ite (keeps_ok h) (Completes.ite (keeps_ok (keeps_settleCtx (keeps_drainCtx (keeps_setDesc h)))) (keeps_ok
      (keeps_drainCtx (keeps_pushP1 (keeps_setDesc (Keeps.ite (Keeps.foldl (fun _ _ h1 => keeps_writeCra h1) h) h))))))))

theorem keeps_writeStore {g at_ : Nat} {code : List U32} (h : Keeps s t) : Keeps s (writeStore g at_ code t) :=
  keeps_setGrain h

theorem keeps_execTilthLoad {p : Place} {code : List U32} (h : Keeps s t) : Completes s (execTilthLoad p code t) := by
  unfold execTilthLoad
  dsimp only
  split
  · exact keeps_ok h
  · exact Completes.ite (keeps_ok h) (Completes.ite (keeps_ok (keeps_settleCtx (keeps_drainCtx (keeps_addCond h))))
      (Completes.ite (keeps_ok h) (keeps_ok (keeps_settleCtx (keeps_drainCtx (keeps_setDesc (Keeps.foldl (fun _ _ h1 =>
      keeps_writeStore h1) h)))))))

theorem keeps_execEvcSnap {p : Place} (h : Keeps s t) : Completes s (execEvcSnap p t) := by
  unfold execEvcSnap
  dsimp only
  split
  · exact keeps_ok h
  · exact keeps_ok (keeps_endDesc (Keeps.ite (Keeps.frame (keeps_emit h)) (keeps_emit h)))

/-! ### Module Links and shipments -/

theorem keeps_sendNow {p : PortNo} {o : PktOut} (h : Keeps s t) : Keeps s (sendNow p o t) :=
  keeps_countEv (keeps_emit (keeps_setPort h))

theorem keeps_pump {n : Nat} {p : PortNo} (h : Keeps s t) : Keeps s (pump n p t) := by
  induction n generalizing t with
  | zero => exact h
  | succ k ih =>
    unfold pump
    split
    · exact h
    · exact Keeps.ite (ih (keeps_sendNow (keeps_setPort h))) h

theorem keeps_queueAt {p : PortNo} {o : PktOut} (h : Keeps s t) : Keeps s (queueAt p o t) := keeps_pump (keeps_setPort h)

theorem keeps_originate {dst : Byte} {tag : Place} {k : Pkt} {via : Option Nat} (h : Keeps s t) :
    KeepsSome s (originate dst tag k via t) := by
  unfold originate
  dsimp only
  split
  · exact KeepsSome.none
  · split
    · exact KeepsSome.none
    · exact KeepsSome.some (keeps_queueAt (keeps_clipDesc h))

theorem keeps_reply {dst : Byte} {tag : Place} {k : Pkt} (h : Keeps s t) : Keeps s (reply dst tag k t) :=
  Keeps.getD (keeps_originate h) h

theorem keeps_sendLack {p : PortNo} {nack : Bool} (h : Keeps s t) : Keeps s (sendLack p nack t) :=
  Keeps.ite (keeps_emit (keeps_setPort h)) h

theorem keeps_logPort {p : Nat} (h : Keeps s t) : Keeps s (logPort p t) := keeps_logDev h

theorem keeps_chooseParent (h : Keeps s t) : Keeps s (chooseParent t) := by
  unfold chooseParent
  dsimp only
  split
  · exact Keeps.ite (Keeps.frame h) (Keeps.frame h)
  · exact Keeps.frame h

theorem keeps_enterState {p : Nat} {st : PState} (h : Keeps s t) : Keeps s (enterState p st t) :=
  Keeps.ite h (Keeps.ite (keeps_emit (keeps_chooseParent (keeps_logPort (keeps_setPort (Keeps.frame h)))))
    (keeps_chooseParent (keeps_logPort (keeps_setPort (Keeps.frame h)))))

theorem keeps_enterTrain {p : Nat} (h : Keeps s t) : Keeps s (enterTrain p t) := by
  unfold enterTrain
  dsimp only
  refine keeps_enterState ?_
  split
  · exact Keeps.frame h
  · exact h

theorem keeps_resumePort {p : PortNo} {pl : IdentPl} (h : Keeps s t) : Keeps s (resumePort p pl t) :=
  Keeps.ite (keeps_setPort h) (keeps_setPort h)

theorem keeps_sendHeld {p : PortNo} (h : Keeps s t) : Keeps s (sendHeld p t) := Keeps.foldl (fun _ _ h1 => keeps_emit h1) h

theorem keeps_judgePort {p : PortNo} (h : Keeps s t) : Keeps s (judgePort p t) := by
  unfold judgePort
  dsimp only
  split
  · exact h
  · refine Keeps.ite h ?_
    refine Keeps.ite (keeps_enterState h) ?_
    split
    · refine Keeps.ite (keeps_enterState h) ?_
      refine Keeps.ite (keeps_enterState h) ?_
      split
      · exact keeps_enterState h
      · exact keeps_pump (Keeps.ite (keeps_enterState (Keeps.ite (keeps_setPort h) (keeps_resumePort (keeps_setPort h))))
          (keeps_sendHeld (keeps_enterState (Keeps.ite (keeps_setPort h) (keeps_resumePort (keeps_setPort h))))))
    · exact keeps_enterState h

theorem keeps_replayFrom {p : PortNo} (h : Keeps s t) : Keeps s (replayFrom p t) :=
  keeps_countEv (keeps_sendHeld (keeps_setPort h))

theorem keeps_replayOrTrain {p : PortNo} (h : Keeps s t) : Keeps s (replayOrTrain p t) :=
  Keeps.ite h (Keeps.ite (keeps_enterTrain (keeps_setPort h)) (keeps_replayFrom h))

theorem keeps_takeHeader {p : PortNo} {hd : PktHdr} (h : Keeps s t) : Keeps s (takeHeader p hd t) :=
  keeps_pump (Keeps.ite (keeps_replayOrTrain (keeps_setPort h)) (keeps_setPort h))

theorem keeps_discard {p : PortNo} (h : Keeps s t) : Keeps s (discard p t) := Keeps.ite h (keeps_sendLack h)

theorem keeps_takeTransport {p : PortNo} {h : PktHdr} (ht : Keeps s t) : Keeps s (takeTransport p h t).1 := by
  unfold takeTransport
  dsimp only
  split
  · exact ht
  · split
    · exact keeps_sendLack (keeps_setPort (keeps_takeHeader ht))
    · exact keeps_discard (keeps_takeHeader ht)

theorem keeps_notePanic {p : PortNo} (h : Keeps s t) : Keeps s (notePanic p t) := keeps_setPort h

theorem keeps_giveBack {p : PortNo} {vc : Bool} (h : Keeps s t) : Keeps s (giveBack p vc t) := keeps_setPort h

theorem keeps_stage {p : PortNo} {o : PktOut} (h : Keeps s t) : Keeps s (stage p o t) := keeps_notePanic (keeps_setPort h)

theorem keeps_arrive {p : PortNo} {hd : PktHdr} {k : Pkt} {here : State → State} (hh : ∀ u, Keeps s u → Keeps s (here u))
    (h : Keeps s t) : Keeps s (arrive p hd k here t) := by
  have h1 := keeps_takeTransport (p := p) (h := hd) h
  exact Keeps.ite h1 (Keeps.ite (Keeps.ite (keeps_giveBack (hh _ h1)) (hh _ h1)) (keeps_stage h1))

theorem keeps_dropShip {src : Byte} {tag : Place} (h : Keeps s t) : Keeps s (dropShip src tag t) := Keeps.frame h

theorem keeps_putShip {x : ShipIn} (h : Keeps s t) : Keeps s (putShip x t) := Keeps.frame (keeps_dropShip h)

theorem keeps_judgeShip {x : ShipIn} (h : Keeps s t) : Keeps s (judgeShip x t) := by
  unfold judgeShip
  dsimp only
  split
  · refine Keeps.ite (keeps_reply (keeps_putShip h)) ?_
    split
    · exact keeps_reply (keeps_logCollision (keeps_dropShip h))
    · exact keeps_reply (keeps_dropShip h)
  · exact keeps_reply (keeps_dropShip h)

theorem keeps_openPart {src : Byte} {tag : Place} {flag : BitVec 14} {part : Nat} {last : Bool} {pages : List U32} (h :
    Keeps s t) :
    Keeps s (openPart src tag flag part last pages t) := by
  unfold openPart
  dsimp only
  split
  · exact h
  · exact Keeps.ite (keeps_judgeShip (keeps_putShip h)) (keeps_putShip h)

theorem keeps_execOpenShip {p : PortNo} {hd : PktHdr} {flag : BitVec 14} {part : BitVec 6} {last : Bool} {pages : List U32}
    (h : Keeps s t) :
    Completes s (execOpenShip p hd flag part last pages t) :=
  Completes.ite (keeps_ok (Keeps.ite (keeps_stage (keeps_takeTransport h)) (keeps_takeTransport h))) (keeps_ok
    (keeps_arrive (fun _ h1 => keeps_openPart h1) h))

theorem keeps_writeHere {hd : PktHdr} {page seg : Nat} {data : BitVec 2048} {poison : Bool} (h : Keeps s t) :
    Keeps s (writeHere hd page seg data poison t) := by
  unfold writeHere
  dsimp only
  split
  · exact keeps_bump h
  · exact Keeps.ite (Keeps.foldl (fun _ _ h1 => keeps_reply h1) (keeps_putShip (Keeps.foldl (fun _ _ h1 => keeps_commitLine
      h1) h))) (keeps_putShip (Keeps.foldl (fun _ _ h1 => keeps_commitLine h1) h))

theorem keeps_execWrite {p : PortNo} {hd : PktHdr} {page : BitVec 23} {segment : Byte} {data : BitVec 2048} {poison : Bool}
    (h : Keeps s t) :
    Completes s (execWrite p hd page segment data poison t) :=
  keeps_ok (keeps_arrive (fun _ h1 => keeps_writeHere h1) h)

theorem keeps_remoteSet {n : Nat} (h : Keeps s t) : Keeps s (remoteSet n t).1 := by
  unfold remoteSet
  split
  · split
    · exact keeps_countEv (keeps_setFlag h)
    · exact keeps_bump h
  · exact keeps_bump h

theorem keeps_peerSet {n : Nat} (h : Keeps s t) : Keeps s (peerSet n t).1 := by
  unfold peerSet
  dsimp only
  split
  · exact keeps_logCollision h
  · exact keeps_remoteSet h

theorem keeps_flagHere {hd : PktHdr} {flag : BitVec 14} {ship : Bool} (h : Keeps s t) :
    Keeps s (flagHere hd flag ship t) := by
  unfold flagHere
  dsimp only
  refine Keeps.ite ?_ (keeps_reply (keeps_peerSet h))
  split
  · exact keeps_reply (keeps_bump h)
  · exact keeps_reply (keeps_dropShip (keeps_peerSet (keeps_writeBackAll h)))

theorem keeps_execFlagSetPacket {p : PortNo} {hd : PktHdr} {flag : BitVec 14} {ship : Bool} (h : Keeps s t) :
    Completes s (execFlagSetPacket p hd flag ship t) :=
  keeps_ok (keeps_arrive (fun _ h1 => keeps_flagHere h1) h)

theorem keeps_undefineShip {src : Byte} {tag : Place} (h : Keeps s t) : Keeps s (undefineShip src tag t) := by
  unfold undefineShip
  split
  · exact keeps_scribble h
  · exact h

theorem keeps_execAbort {p : PortNo} {hd : PktHdr} (h : Keeps s t) : Completes s (execAbort p hd t) :=
  keeps_ok (keeps_arrive (fun _ h1 => keeps_dropShip (keeps_undefineShip h1)) h)

theorem keeps_putShipOut {p : Place} {x : ShipOut} (h : Keeps s t) : Keeps s (putShipOut p x t) := by
  unfold putShipOut
  dsimp only
  split
  · exact keeps_setDesc (Keeps.frame h)
  · exact Keeps.frame h

theorem keeps_noteUsed {p : Place} {via : Option Nat} (h : Keeps s t) : Keeps s (noteUsed p via t) := by
  unfold noteUsed
  dsimp only
  split
  · exact h
  · split
    · exact keeps_putShipOut h
    · exact h

theorem keeps_sendEntry {p : Place} {x : ShipOut} {k : Nat} (h : Keeps s t) : Keeps s (sendEntry p x k t) := by
  unfold sendEntry
  dsimp only
  refine Keeps.foldl ?_ (keeps_noteUsed h)
  intro _ _ h1
  refine Keeps.getD ?_ ?_
  · refine keeps_originate ?_
    refine Keeps.ite ?_ h1
    split
    · exact Keeps.frame h1
    · exact h1
  · refine Keeps.ite ?_ h1
    split
    · exact Keeps.frame h1
    · exact h1

theorem keeps_endRemote {p : Place} {st : Status} {detail : Nat} (h : Keeps s t) : Keeps s (endRemote p st detail t) := by
  unfold endRemote
  dsimp only
  split
  · exact h
  · split
    · split
      · exact keeps_settleCtx (keeps_drainCtx (keeps_setCtx (keeps_addCond (keeps_setDesc h))))
      · exact keeps_addCond (keeps_setDesc h)
    · exact keeps_endDesc h

theorem keeps_abortShip {p : Place} {st : Status} (h : Keeps s t) : Keeps s (abortShip p st t) := by
  unfold abortShip
  dsimp only
  split
  · exact keeps_endDesc (Keeps.frame (Keeps.ite (keeps_reply h) h))
  · exact keeps_endDesc h

theorem keeps_sendOpens {p : Place} {x : ShipOut} (h : Keeps s t) : Keeps s (sendOpens p x t) :=
  Keeps.foldl (fun _ _ h1 => Keeps.getD (keeps_originate h1) h1) (keeps_noteUsed h)

theorem keeps_execShip {p : Place} {list : List U64} (h : Keeps s t) : Completes s (execShip p list t) := by
  unfold execShip
  dsimp only
  split
  · exact keeps_ok h
  · exact Completes.ite (keeps_ok (keeps_setDesc h)) (keeps_ok (keeps_sendOpens (Keeps.frame (keeps_setDesc h))))

theorem keeps_openReplyHere {src : Byte} {p : Place} {code : Nat} (h : Keeps s t) :
    Keeps s (openReplyHere src p code t) := by
  unfold openReplyHere
  dsimp only
  split
  · exact Keeps.ite h (Keeps.ite (Keeps.ite (keeps_reply h) h) (Keeps.ite (Keeps.foldl (fun _ _ h1 => keeps_sendEntry h1)
      (Keeps.frame (keeps_setDesc h))) (Keeps.ite (keeps_takeFree (keeps_endDesc h)) (keeps_takeFree (keeps_endDesc h)))))
  · exact Keeps.ite (keeps_reply h) h

theorem keeps_execOpenReply {p : PortNo} {hd : PktHdr} {code : BitVec 2} (h : Keeps s t) :
    Completes s (execOpenReply p hd code t) :=
  keeps_ok (keeps_arrive (fun _ h1 => keeps_openReplyHere h1) h)

theorem keeps_writeAckHere {p : Place} {k : Nat} (h : Keeps s t) : Keeps s (writeAckHere p k t) := by
  unfold writeAckHere
  dsimp only
  split
  · exact h
  · exact Keeps.ite (Keeps.getD (keeps_originate (keeps_putShipOut h)) (keeps_putShipOut h)) (keeps_putShipOut h)

theorem keeps_execWriteAck {p : PortNo} {hd : PktHdr} {entry : BitVec 12} (h : Keeps s t) :
    Completes s (execWriteAck p hd entry t) :=
  keeps_ok (keeps_arrive (fun _ h1 => keeps_writeAckHere h1) h)

theorem keeps_ctxReplyHere {p : Place} {d : Desc} {code : Nat} (h : Keeps s t) : Keeps s (ctxReplyHere p d code t) := by
  unfold ctxReplyHere
  dsimp only
  split
  · exact h
  · split
    · exact h
    · refine keeps_settleCtx ?_
      refine Keeps.ite (keeps_addCond (keeps_noteDetail (keeps_setCtx h))) ?_
      refine Keeps.ite ?_ (keeps_setCtx h)
      split
      · exact keeps_takeFree (keeps_setDesc (keeps_addCond (keeps_setCtx h)))
      · exact keeps_addCond (keeps_setCtx h)

theorem keeps_flagReplyHere {p : Place} {code : Nat} (h : Keeps s t) : Keeps s (flagReplyHere p code t) := by
  unfold flagReplyHere
  dsimp only
  split
  · exact h
  · refine Keeps.ite h ?_
    refine Keeps.ite (keeps_ctxReplyHere h) ?_
    refine Keeps.ite h ?_
    refine Keeps.ite (keeps_endRemote h) ?_
    refine Keeps.ite (keeps_takeFree (keeps_endRemote h)) ?_
    split
    · exact keeps_endRemote h
    · exact keeps_endRemote h

theorem keeps_execFlagReply {p : PortNo} {hd : PktHdr} {code : BitVec 2} (h : Keeps s t) :
    Completes s (execFlagReply p hd code t) :=
  keeps_ok (keeps_arrive (fun _ h1 => keeps_flagReplyHere h1) h)

theorem keeps_rerouteShip {p : Place} {x : ShipOut} (h : Keeps s t) : Keeps s (rerouteShip p x t) :=
  Keeps.ite (keeps_abortShip h) (Keeps.ite (keeps_sendOpens (Keeps.frame h)) (Keeps.ite (Keeps.getD (keeps_originate
    (Keeps.frame h)) (Keeps.frame h)) (Keeps.foldl (fun _ _ h1 => keeps_sendEntry h1) (Keeps.frame h))))

theorem keeps_norouteHere {p : Place} {inPort type : Nat} (h : Keeps s t) : Keeps s (norouteHere p inPort type t) := by
  unfold norouteHere
  dsimp only
  refine Keeps.ite h ?_
  split
  · exact Keeps.ite (keeps_abortShip h) (keeps_rerouteShip h)
  · exact Keeps.ite h (Keeps.ite (keeps_endRemote h) (Keeps.ite (keeps_addCond (keeps_ctxReplyHere h)) h))
  · exact h

theorem keeps_execNoroute {p : PortNo} {hd : PktHdr} {type : BitVec 6} (h : Keeps s t) :
    Completes s (execNoroute p hd type t) :=
  keeps_ok (keeps_arrive (fun _ h1 => keeps_norouteHere h1) h)

theorem keeps_execUnknownPacket {p : PortNo} {hd : PktHdr} {type : BitVec 6} {payload : Bool} (h : Keeps s t) :
    Completes s (execUnknownPacket p hd type payload t) :=
  keeps_ok (Keeps.ite (keeps_bump (Keeps.ite (keeps_giveBack (keeps_takeTransport h)) (keeps_takeTransport h)))
    (keeps_takeTransport h))

theorem keeps_noPath {p : PortNo} {own : Byte} {o : PktOut} (h : Keeps s t) : Keeps s (noPath p own o t) :=
  Keeps.ite (keeps_norouteHere (keeps_bump h)) (keeps_reply (keeps_bump h))

theorem keeps_execPacketForward {p : PortNo} {vc : Bool} (h : Keeps s t) : Completes s (execPacketForward p vc t) := by
  unfold execPacketForward
  dsimp only
  split
  · exact keeps_ok h
  · split
    · split
      · exact keeps_ok (keeps_noPath (keeps_notePanic (keeps_setPort h)))
      · exact keeps_ok (keeps_queueAt (keeps_notePanic (keeps_setPort h)))
    · split
      · exact keeps_ok h
      · refine Completes.ite ?_ ?_
        · split
          · exact keeps_ok (Keeps.ite (keeps_giveBack (keeps_openPart (keeps_notePanic (keeps_setPort h)))) (keeps_openPart
              (keeps_notePanic (keeps_setPort h))))
          · exact keeps_ok (Keeps.ite (keeps_giveBack (keeps_notePanic (keeps_setPort h))) (keeps_notePanic (keeps_setPort
              h)))
        · split
          · exact keeps_ok (keeps_noPath (Keeps.ite (keeps_giveBack (keeps_notePanic (keeps_setPort h))) (keeps_notePanic
              (keeps_setPort h))))
          · exact keeps_ok (keeps_queueAt (Keeps.ite (keeps_giveBack (keeps_notePanic (keeps_setPort h))) (keeps_notePanic
              (keeps_setPort h))))

theorem keeps_checkShips (h : Keeps s t) : Keeps s (checkShips t) := by
  unfold checkShips
  refine Keeps.foldl ?_ h
  intro _ _ h1
  split
  · exact Keeps.ite (keeps_rerouteShip h1) h1
  · exact h1

theorem keeps_execIdent {p : PortNo} {hd : PktHdr} {pl : IdentPl} (h : Keeps s t) : Completes s (execIdent p hd pl t) :=
  Completes.ite (keeps_ok h) (keeps_ok (keeps_checkShips (keeps_judgePort (keeps_setPort h))))

theorem keeps_execLack {p : PortNo} {hd : PktHdr} (h : Keeps s t) : Completes s (execLack p hd t) :=
  Completes.ite (keeps_ok (keeps_takeHeader h)) (keeps_ok h)

theorem keeps_execTsync {p : PortNo} {hd : PktHdr} {pl : TsyncPl} (h : Keeps s t) : Completes s (execTsync p hd pl t) :=
  Completes.ite (keeps_ok h) (Completes.ite (keeps_ok (Keeps.ite (keeps_chooseParent (keeps_setPort h)) (keeps_setPort h)))
    (Completes.ite (keeps_ok (Keeps.frame (Keeps.ite (keeps_chooseParent (keeps_setPort h)) (keeps_setPort h)))) (keeps_ok
    (keeps_logDev (Keeps.frame (Keeps.ite (keeps_chooseParent (keeps_setPort h)) (keeps_setPort h)))))))

theorem keeps_execIdentSendTimer {p : PortNo} (h : Keeps s t) : Completes s (execIdentSendTimer p t) := by
  unfold execIdentSendTimer
  split
  · exact keeps_ok (keeps_emit h)
  · exact keeps_ok (keeps_emit h)
  · exact keeps_ok (keeps_emit h)
  · exact keeps_ok h

theorem keeps_execTsyncSendTimer {p : PortNo} (h : Keeps s t) : Completes s (execTsyncSendTimer p t) :=
  Completes.ite (keeps_ok (keeps_emit h)) (keeps_ok h)

theorem keeps_execSignalDetect {p : PortNo} {polarity reversed : Bool} (h : Keeps s t) :
    Completes s (execSignalDetect p polarity reversed t) :=
  Completes.ite (keeps_ok (keeps_enterTrain (keeps_setPort h))) (keeps_ok h)

theorem keeps_execLossOfSignal {p : PortNo} (h : Keeps s t) : Completes s (execLossOfSignal p t) :=
  keeps_ok (keeps_checkShips (keeps_enterState h))

theorem keeps_execLaneFailure {p : PortNo} {lane : Fin 8} (h : Keeps s t) : Completes s (execLaneFailure p lane t) :=
  keeps_ok (Keeps.ite (keeps_enterTrain (keeps_setPort h)) (keeps_setPort h))

theorem keeps_execReplayTimerExpiry {p : PortNo} (h : Keeps s t) : Completes s (execReplayTimerExpiry p t) :=
  Completes.ite (keeps_ok (keeps_replayOrTrain h)) (keeps_ok h)

theorem keeps_execCodewordErrorLimit {p : PortNo} (h : Keeps s t) : Completes s (execCodewordErrorLimit p t) :=
  Completes.ite (keeps_ok (keeps_enterTrain h)) (keeps_ok h)

theorem keeps_execPacketDiscard {p : PortNo} {why : Discard} {hd : PktHdr} (h : Keeps s t) :
    Completes s (execPacketDiscard p why hd t) := by
  unfold execPacketDiscard
  split
  · exact keeps_ok h
  · exact Completes.ite (keeps_ok (keeps_discard h)) (keeps_ok h)

theorem keeps_setRate {p : Nat} {fallback : Bool} (h : Keeps s t) : Keeps s (setRate p fallback t) :=
  Keeps.ite h (Keeps.ite (keeps_enterTrain (keeps_setPort h)) (keeps_setPort h))

/-! ### Sequencers -/

theorem keeps_execRun {p : Place} {image : List Byte} (h : Keeps s t) : Completes s (execRun p image t) := by
  unfold execRun
  dsimp only
  split
  · exact keeps_ok h
  · exact Completes.ite (keeps_ok (keeps_endDesc h)) (Completes.ite (keeps_ok (keeps_endDesc h)) (keeps_ok (keeps_setDesc
      h)))

theorem keeps_execContextAssign {p : Place} (h : Keeps s t) : Completes s (execContextAssign p t) := by
  unfold execContextAssign
  dsimp only
  split
  · exact keeps_ok h
  · refine Completes.ite ?_ (keeps_ok h)
    split
    · exact keeps_ok h
    · exact keeps_ok (keeps_setDesc (keeps_setCtx (keeps_wipeFlags (Keeps.frame h))))

theorem keeps_keepImage {sq : Nat} {k : Kept} (h : Keeps s t) : Keeps s (keepImage sq k t) := Keeps.frame h

theorem keeps_loadRun {x : CtxNo} {c : Ctx} {d : Desc} {image args : List Byte} (h : Keeps s t) :
    Keeps s (loadRun x c d image args t) := by
  unfold loadRun
  dsimp only
  split
  · exact keeps_faultCtx h
  · exact keeps_moveCtx (keeps_keepImage h)

theorem keeps_serve {x : CtxNo} (h : Keeps s t) : Keeps s (serve x t) := Keeps.frame h

theorem keeps_failOp {x : CtxNo} {code : Nat} (h : Keeps s t) : Keeps s (failOp x code t) := keeps_faultCtx (keeps_serve h)

theorem keeps_goOn {x : CtxNo} {c : Ctx} (h : Keeps s t) : Keeps s (goOn x c t) :=
  keeps_countEv (keeps_clipDesc (keeps_setCtx h))

theorem keeps_issue {x : CtxNo} {c : Ctx} (h : Keeps s t) : Keeps s (issue x c t) := keeps_goOn (keeps_serve h)

theorem keeps_waitFor {x : CtxNo} {c : Ctx} {st : CState} {w : WaitFor} (h : Keeps s t) : Keeps s (waitFor x c st w t) :=
  Keeps.ite (Keeps.frame (keeps_moveCtx (keeps_serve h))) (keeps_moveCtx (keeps_serve h))

theorem keeps_execLoopOpen {x : CtxNo} {count : LoopCount} {body bodyEnd : U32} (h : Keeps s t) :
    Completes s (execLoopOpen x count body bodyEnd t) := by
  unfold execLoopOpen
  split
  · exact keeps_ok h
  · refine Completes.ite (keeps_ok (keeps_failOp h)) ?_
    split
    · exact keeps_ok (keeps_waitFor h)
    · exact Completes.ite (keeps_ok (keeps_issue h)) (keeps_ok (keeps_issue h))

theorem keeps_execBranch {x : CtxNo} {cond : Fin 9} {a : Fin 16} {b : BranchArg} {target : U32} (h : Keeps s t) :
    Completes s (execBranch x cond a b target t) := by
  unfold execBranch
  split
  · exact keeps_ok h
  · split
    · exact keeps_ok (keeps_waitFor h)
    · exact keeps_ok (keeps_waitFor h)
    · exact Completes.ite (keeps_ok (keeps_issue h)) (keeps_ok (keeps_issue h))

theorem keeps_execRet {x : CtxNo} (h : Keeps s t) : Completes s (execRet x t) := by
  unfold execRet
  split
  · exact keeps_ok h
  · split
    · exact keeps_ok (keeps_failOp h)
    · exact keeps_ok (keeps_issue h)

theorem keeps_execValueOp {x : CtxNo} {fn d a b : Fin 16} (h : Keeps s t) : Completes s (execValueOp x fn d a b t) := by
  unfold execValueOp
  split
  · exact keeps_ok h
  · split
    · exact keeps_ok (keeps_waitFor h)
    · exact keeps_ok (keeps_waitFor h)
    · exact keeps_ok (keeps_issue h)

theorem keeps_execGeneratorSet {x : CtxNo} {g : Fin 8} {fld : GenField} {v : ValSrc} (h : Keeps s t) :
    Completes s (execGeneratorSet x g fld v t) := by
  unfold execGeneratorSet
  dsimp only
  split
  · exact keeps_ok h
  · split
    · exact keeps_ok (keeps_waitFor h)
    · exact keeps_ok (keeps_issue h)

theorem keeps_execContextEnd {x : CtxNo} (h : Keeps s t) : Completes s (execContextEnd x t) := by
  unfold execContextEnd
  split
  · exact keeps_ok h
  · exact keeps_ok (keeps_settleCtx (keeps_countEv (keeps_drainCtx (keeps_serve h))))

theorem keeps_takeClaims {x : CtxNo} {p : Push} (h : Keeps s t) : Keeps s (takeClaims x p t) :=
  Keeps.foldl (fun _ _ h1 => Keeps.ite h1 (Keeps.frame h1)) h

theorem keeps_enterPush {x : CtxNo} {c : Ctx} {p : Push} {regs : List (Nat × Nat × Bool)} (h : Keeps s t) :
    Keeps s (enterPush x c p regs t) := by
  unfold enterPush
  dsimp only
  refine Keeps.ite ?_ ?_
  · refine keeps_issue ?_
    refine keeps_takeFree ?_
    split
    · exact keeps_queueP1 (Keeps.frame (keeps_takeClaims (keeps_setQueue h)))
    · exact Keeps.frame (keeps_takeClaims (keeps_setQueue h))
  · refine keeps_issue ?_
    split
    · exact keeps_queueP1 (Keeps.frame (keeps_takeClaims (keeps_setQueue h)))
    · exact Keeps.frame (keeps_takeClaims (keeps_setQueue h))

theorem keeps_doPush {x : CtxNo} {c : Ctx} {p : Push} (h : Keeps s t) : Keeps s (doPush x c p t) := by
  unfold doPush
  split
  · exact keeps_failOp h
  · exact keeps_waitFor h
  · exact keeps_waitFor h
  · exact keeps_waitFor h
  · exact keeps_waitFor h
  · exact keeps_enterPush h

theorem keeps_execCommandPush {x : CtxNo} {cmd : Push} (h : Keeps s t) : Completes s (execCommandPush x cmd t) := by
  unfold execCommandPush
  split
  · exact keeps_ok h
  · exact keeps_ok (keeps_doPush h)

theorem keeps_execCall {x : CtxNo} {routine : Byte} (h : Keeps s t) : Completes s (execCall x routine t) := by
  unfold execCall
  dsimp only
  split
  · exact keeps_ok h
  · refine Completes.ite (keeps_ok (keeps_failOp h)) ?_
    refine Completes.ite (keeps_ok (keeps_failOp h)) ?_
    refine Completes.ite ?_ (keeps_ok (keeps_issue h))
    split
    · exact keeps_ok (keeps_waitFor h)
    · exact Completes.ite (keeps_ok (keeps_issue h)) (keeps_ok (keeps_doPush h))

theorem keeps_claimWire {x : CtxNo} {f : Func} {w : Fin 8} {n : Nat} {mw : Bool} (h : Keeps s t) :
    KeepsSome s (claimWire x f w n mw t) :=
  KeepsSome.ite (KeepsSome.some (keeps_setWire h)) (KeepsSome.ite (KeepsSome.some (Keeps.ite h (keeps_setWire h)))
    KeepsSome.none)

theorem keeps_unwait {x : CtxNo} (h : Keeps s t) : Keeps s (unwait x t) := Keeps.frame h

theorem keeps_execContextWake {x : CtxNo} (h : Keeps s t) : Completes s (execContextWake x t) := by
  unfold execContextWake
  dsimp only
  split
  · exact keeps_ok h
  · split
    · exact keeps_ok (Keeps.ite h (keeps_moveCtx h))
    · exact keeps_ok (Keeps.ite h (keeps_doPush h))
    · exact keeps_ok (Keeps.ite h (keeps_doPush h))
    · exact keeps_ok (keeps_goOn (keeps_unwait h))
    · exact keeps_ok (Keeps.ite (keeps_faultCtx h) h)
    · split
      case h_1 heq => exact keeps_ok (keeps_goOn (keeps_unwait (keeps_claimWire h _ heq)))
      case h_2 => exact keeps_ok h
    · refine Completes.ite ?_ (keeps_ok h)
      split
      · exact keeps_ok (keeps_doPush (keeps_setCtx (keeps_unwait h)))
      · exact keeps_ok (keeps_goOn (keeps_unwait h))
    · exact keeps_ok h

theorem keeps_execContextWatchdogExpiry {x : CtxNo} (h : Keeps s t) : Completes s (execContextWatchdogExpiry x t) := by
  unfold execContextWatchdogExpiry
  dsimp only
  split
  · exact keeps_ok h
  · exact Completes.ite (keeps_ok h) (keeps_ok (keeps_stopCtx (keeps_addCond (keeps_logFn h))))

/-! ### Flag and wire operations -/

theorem keeps_countSet {sp : FlagSpace} {f : Func} (h : Keeps s t) : Keeps s (countSet sp f t) := by
  unfold countSet
  split
  · exact keeps_countEv h
  · exact h

theorem keeps_noteFlagOp {sp : FlagSpace} {n : Nat} {f : Func} {p : Place} (h : Keeps s t) :
    Keeps s (noteFlagOp sp n f p t) := by
  unfold noteFlagOp
  dsimp only
  split
  · exact h
  · split
    · exact Keeps.ite h (keeps_logCollision (keeps_noteOrder h))
    · exact keeps_noteOrder h

theorem keeps_onFlag {x : CtxNo} {sp : FlagSpace} {n : Nat} {wait : Bool} {act : Ctx → Nat → Host.Outcome State Fault Refusal}
    (ha : ∀ c i, Completes s (act c i)) (h : Keeps s t) : Completes s (onFlag x sp n wait t act) := by
  unfold onFlag
  split
  · exact keeps_ok h
  · split
    · exact keeps_ok (keeps_failOp h)
    · exact Completes.ite (keeps_ok (keeps_failOp h)) (ha _ _)

theorem keeps_execFlagSet {x : CtxNo} {sp : FlagSpace} {n : Nat} (h : Keeps s t) : Completes s (execFlagSet x sp n t) :=
  keeps_onFlag (fun _ _ => keeps_ok (keeps_countSet (keeps_setFlag (keeps_noteFlagOp (keeps_issue h))))) h

theorem keeps_execFlagClear {x : CtxNo} {sp : FlagSpace} {n : Nat} (h : Keeps s t) : Completes s (execFlagClear x sp n t) :=
  keeps_onFlag (fun _ _ => keeps_ok (keeps_clearFlag (keeps_noteFlagOp (keeps_issue h)))) h

theorem keeps_execFlagWait {x : CtxNo} {sp : FlagSpace} {n : Nat} {want : Bool} (h : Keeps s t) :
    Completes s (execFlagWait x sp n want t) :=
  keeps_onFlag (fun _ _ => Completes.ite (keeps_ok (keeps_issue h)) (keeps_ok (keeps_waitFor h))) h

theorem keeps_execFlagWaitConsume {x : CtxNo} {sp : FlagSpace} {n : Nat} (h : Keeps s t) :
    Completes s (execFlagWaitConsume x sp n t) :=
  keeps_onFlag (fun _ _ => Completes.ite (keeps_ok (keeps_clearFlag (keeps_issue h))) (keeps_ok (keeps_waitFor h))) h

theorem keeps_execRemoteSignal {x : CtxNo} {n : Nat} {dst : Byte} (h : Keeps s t) : Completes s (execRemoteSignal x n dst t) := by
  unfold execRemoteSignal
  dsimp only
  split
  · exact keeps_ok h
  · split
    · exact keeps_ok (Keeps.ite (keeps_remoteSet (keeps_issue h)) (keeps_addCond (keeps_remoteSet (keeps_issue h))))
    · split
      case h_1 heq =>
        have h2 := keeps_originate (keeps_issue h) _ heq
        split
        · exact keeps_ok (keeps_setCtx h2)
        · exact keeps_ok h2
      case h_2 => exact keeps_ok (keeps_addCond (keeps_issue h))

theorem keeps_execBarrierClaim {x : CtxNo} {w : Fin 8} {n : BitVec 6} {moduleWide : Bool} (h : Keeps s t) :
    Completes s (execBarrierClaim x w n moduleWide t) := by
  unfold execBarrierClaim
  dsimp only
  split
  · exact keeps_ok h
  · split
    case h_1 heq => exact keeps_ok (keeps_issue (keeps_claimWire h _ heq))
    case h_2 => exact keeps_ok (keeps_waitFor h)

theorem keeps_execBarrierArrive {x : CtxNo} {w : Fin 8} (h : Keeps s t) : Completes s (execBarrierArrive x w t) := by
  unfold execBarrierArrive
  split
  · exact keeps_ok h
  · exact Completes.ite (keeps_ok (keeps_arriveWire (keeps_issue h))) (keeps_ok (keeps_failOp h))

theorem keeps_execBarrierArriveWait {x : CtxNo} {w : Fin 8} (h : Keeps s t) :
    Completes s (execBarrierArriveWait x w t) := by
  unfold execBarrierArriveWait
  dsimp only
  split
  · exact keeps_ok h
  · exact Completes.ite (Completes.ite (keeps_ok (keeps_waitFor (keeps_arriveWire (keeps_serve h)))) (keeps_ok (keeps_issue
      (keeps_arriveWire (keeps_serve h))))) (keeps_ok (keeps_failOp h))

theorem keeps_execBarrierWait {x : CtxNo} {w : Fin 8} (h : Keeps s t) : Completes s (execBarrierWait x w t) := by
  unfold execBarrierWait
  split
  · exact keeps_ok h
  · exact Completes.ite (keeps_ok (keeps_waitFor h)) (keeps_ok (keeps_failOp h))

theorem keeps_execModuleWideWireRelease {w : Fin 8} (h : Keeps s t) : Completes s (execModuleWideWireRelease w t) := by
  unfold execModuleWideWireRelease
  dsimp only
  split
  · exact Completes.ite (keeps_ok h) (keeps_ok (keeps_releaseWire h))
  · exact keeps_ok h

theorem keeps_execRealignRequest {x : CtxNo} {k : Fin 16} (h : Keeps s t) : Completes s (execRealignRequest x k t) := by
  unfold execRealignRequest
  split
  · exact keeps_ok h
  · exact Completes.ite (keeps_ok (keeps_issue h)) (keeps_ok (keeps_waitFor h))

theorem keeps_endSignal {p : Place} {x : CtxNo} {st : Status} (h : Keeps s t) : Keeps s (endSignal p x st t) :=
  keeps_settleCtx (keeps_drainCtx (keeps_addCond (Keeps.ite (keeps_noteDetail h) h)))

theorem keeps_execSignal {p : Place} (h : Keeps s t) : Completes s (execSignal p t) := by
  unfold execSignal
  dsimp only
  split
  · exact keeps_ok h
  · refine Completes.ite (keeps_ok h) ?_
    have happly (sp : FlagSpace) (i : Nat) (f : Func) (b : Prop) [Decidable b] :
        Keeps s (if b then countSet sp f (setFlag sp i 2 (noteFlagOp sp i f p t)) else clearFlag sp i (noteFlagOp sp i f p t)) :=
      Keeps.ite (keeps_countSet (keeps_setFlag (keeps_noteFlagOp h))) (keeps_clearFlag (keeps_noteFlagOp h))
    split
    · exact Completes.ite (keeps_ok (keeps_faultCtx h)) (Completes.ite (keeps_ok (keeps_endSignal (happly ..)))
        (keeps_ok (keeps_endSignal h)))
    · exact Completes.ite (keeps_ok (keeps_faultCtx h)) (Completes.ite (keeps_ok (keeps_endSignal (happly ..)))
        (keeps_ok (keeps_endSignal h)))
    · refine Completes.ite (keeps_ok (keeps_endSignal (keeps_remoteSet h))) ?_
      split
      case h_1 heq =>
        have h2 := keeps_originate h _ heq
        split
        · exact keeps_ok (keeps_moveCtx h2)
        · exact keeps_ok h2
      case h_2 => exact keeps_ok (keeps_endSignal h)

/-! ### INSPECT -/

theorem keeps_readLoops (h : Keeps s t) : Keeps s (readLoops t) := Keeps.frame h

theorem keeps_execInspect {p : Place} (h : Keeps s t) : Completes s (execInspect p t) := by
  unfold execInspect
  dsimp only
  split
  · exact keeps_ok h
  · exact keeps_ok (keeps_endDesc (keeps_emit (Keeps.ite (keeps_readLoops h) h)))

/-! ### Pair groups -/

theorem keeps_logRefused {code isl : Nat} {func : Byte} {group : Nat} (h : Keeps s t) :
    Keeps s (logRefused code isl func group t) :=
  keeps_logAs h

theorem keeps_logIf {bad busy : Bool} {isl : Nat} {func : Byte} {group : Nat} (h : Keeps s t) :
    Keeps s (logIf bad busy isl func group t) :=
  Keeps.ite (keeps_logRefused h) (Keeps.ite (keeps_logRefused h) h)

theorem keeps_commitMarlPart (h : Keeps s t) : Keeps s (commitMarlPart t) := keeps_logIf (Keeps.frame h)

theorem keeps_commitTen (h : Keeps s t) : Keeps s (commitTen t) := keeps_logIf (Keeps.frame h)

theorem keeps_noteEarly {f n : Nat} (h : Keeps s t) : Keeps s (noteEarly f n t) := Keeps.frame h

theorem keeps_commitModel (h : Keeps s t) : Keeps s (commitModel t) :=
  keeps_logIf (Keeps.ite (keeps_noteEarly (Keeps.frame h)) (Keeps.frame h))

theorem keeps_commitBcMap (h : Keeps s t) : Keeps s (commitBcMap t) := keeps_logIf (Keeps.frame h)

theorem keeps_clearMoved {old new : Nat × Nat} (h : Keeps s t) : Keeps s (clearMoved old new t) := keeps_wipeFlags h

theorem keeps_setGrnPart {f : Nat} {p : Pair GrnPart} (h : Keeps s t) : Keeps s (setGrnPart f p t) := Keeps.frame h

theorem keeps_setFlagBase {f : Nat} {p : Pair (BitVec 14)} (h : Keeps s t) : Keeps s (setFlagBase f p t) := Keeps.frame h

theorem keeps_takeGrnPart {f : Nat} (h : Keeps s t) : Keeps s (takeGrnPart f t) :=
  keeps_clearMoved (keeps_setFlagBase (keeps_setGrnPart h))

theorem keeps_commitGrnPart (h : Keeps s t) : Keeps s (commitGrnPart t) :=
  keeps_logIf (Keeps.ite (keeps_takeGrnPart (keeps_setGrnPart h)) (Keeps.ite (keeps_setGrnPart h) (keeps_noteEarly
    (keeps_setGrnPart h))))

theorem keeps_commitFlagB (h : Keeps s t) : Keeps s (commitFlagB t) :=
  keeps_logIf (Keeps.ite (keeps_takeGrnPart (keeps_setFlagBase h)) (Keeps.ite (keeps_setFlagBase h) (keeps_noteEarly
    (keeps_setFlagBase h))))

theorem keeps_commitLnkLane (h : Keeps s t) : Keeps s (commitLnkLane t) := keeps_logIf (Keeps.frame h)

theorem keeps_resizeKeep {k : KeepSz} (h : Keeps s t) : Keeps s (resizeKeep k t) := Keeps.frame h

theorem keeps_commitKeep (h : Keeps s t) : Keeps s (commitKeep t) := by
  unfold commitKeep
  dsimp only
  split
  · exact keeps_logRefused (keeps_logCollision (Keeps.frame h))
  · exact keeps_logIf (Keeps.ite (Keeps.frame h) (keeps_noteOrder (keeps_resizeKeep (Keeps.frame h))))

theorem keeps_startChange {setB : Bool} (h : Keeps s t) : Keeps s (startChange setB t) :=
  Keeps.foldl (fun _ _ h1 => Keeps.ite h1 (keeps_setQuad (keeps_setBc h1))) (Keeps.frame h)

theorem keeps_freqWrite {setB : Bool} (h : Keeps s t) : Keeps s (freqWrite setB t) :=
  Keeps.ite (keeps_bump (keeps_bump h)) (Keeps.ite (keeps_bump h) (keeps_startChange (Keeps.frame h)))

theorem keeps_applyPins (h : Keeps s t) : Keeps s (applyPins t) := Keeps.foldl (fun _ _ h1 => keeps_setRate h1) h

theorem keeps_writePortCfg {w : Nat} (h : Keeps s t) : Keeps s (writePortCfg w t) := Keeps.frame h

theorem keeps_writeTrn {w : Nat} (h : Keeps s t) : Keeps s (writeTrn w t) := Keeps.frame h

theorem keeps_writeHub {off w : Nat} (h : Keeps s t) : Keeps s (writeHub off w t) := by
  unfold writeHub
  dsimp only
  split
  · exact Keeps.frame h
  · exact Keeps.frame h
  · exact Keeps.frame h
  · exact Keeps.frame h
  · exact Keeps.frame h
  · exact Keeps.frame h
  · exact Keeps.frame h
  · exact Keeps.frame h
  · exact Keeps.frame h
  · exact Keeps.frame h
  · exact Keeps.frame h
  · exact Keeps.frame h
  · exact Keeps.frame h
  · exact Keeps.frame h
  · exact Keeps.frame h
  · exact Keeps.frame h
  · exact Keeps.frame h
  · exact keeps_setGrnPart h
  · exact keeps_setGrnPart h
  · exact keeps_setGrnPart h
  · exact keeps_setFlagBase h
  · exact Keeps.frame h
  · exact Keeps.frame h
  · exact Keeps.frame h
  · exact h

theorem keeps_writeDev {off w : Nat} (h : Keeps s t) : Keeps s (writeDev off w t) := by
  unfold writeDev
  dsimp only
  split
  · exact Keeps.frame h
  · exact Keeps.frame h
  · exact keeps_freqWrite h
  · exact Keeps.ite h (Keeps.frame h)
  · exact Keeps.ite h (Keeps.frame h)
  · exact Keeps.frame h
  · exact keeps_writePortCfg h
  · exact Keeps.frame h
  · exact keeps_writeTrn h
  · exact Keeps.frame h
  · exact Keeps.frame h
  · exact Keeps.frame h
  · exact Keeps.frame h
  · exact Keeps.frame h
  · exact Keeps.frame h
  · exact Keeps.ite h (Keeps.frame h)
  · exact Keeps.frame h
  · exact Keeps.frame h
  · exact keeps_applyPins (Keeps.frame h)
  · exact Keeps.frame h
  · exact Keeps.frame h
  · exact Keeps.frame h
  · exact Keeps.frame h
  · exact Keeps.frame h
  · exact h

theorem keeps_writeEvcCfg {n w : Nat} (h : Keeps s t) : Keeps s (writeEvcCfg n w t) := Keeps.frame h

theorem keeps_commitAt {off : Nat} (h : Keeps s t) : Keeps s (commitAt off t) := by
  unfold commitAt
  split
  · exact keeps_commitTen h
  · exact keeps_commitModel h
  · exact keeps_commitMarlPart h
  · exact keeps_commitBcMap h
  · exact keeps_commitGrnPart h
  · exact keeps_commitFlagB h
  · exact keeps_commitLnkLane h
  · exact keeps_commitKeep h
  · exact h

end Sys2Proof.Machine
end

section
/-! The Keep region, resets, register writes and start-up keep the queue and soundness. -/

namespace Sys2Proof.Machine

variable {s t : State}

/-! ### The Keep region -/

theorem keeps_drainBc {c : Nat} (h : Keeps s t) : Keeps s (drainBc c t) :=
  Keeps.foldl (fun _ _ h1 => keeps_writeUnit h1) (keeps_setBc h)

theorem keeps_drainBcs (h : Keeps s t) : Keeps s (drainBcs t) := Keeps.foldl (fun _ _ h1 => keeps_drainBc h1) h

theorem keeps_settledBlock {i : Nat} (h : Keeps s t) : Keeps s (settledBlock t i) := keeps_drainBcs (keeps_writeBackAll h)

theorem keeps_commitCopy {i : Nat} (h : Keeps s t) : Keeps s (commitCopy i t) := keeps_setKblock (Keeps.frame h)

theorem keeps_abandonCopies (h : Keeps s t) : Keeps s (abandonCopies t) := Keeps.frame h

theorem keeps_haltGrains (h : Keeps s t) : Keeps s (haltGrains t) := Keeps.foldl (fun _ _ h1 => keeps_haltGrain h1) h

theorem keeps_saveKeep {covers : Nat} {dead : List Nat} (h : Keeps s t) : Keeps s (saveKeep covers dead t) :=
  Keeps.ite (keeps_abandonCopies (keeps_haltGrains h)) (keeps_plogAdd (Keeps.frame (Keeps.foldl (fun _ _ h1 =>
    keeps_commitCopy h1) (keeps_drainBcs (keeps_writeBackAll (keeps_drainBcs (keeps_abandonCopies (keeps_haltGrains
    h))))))))

/-- Bytes stored one by one leave a memory in canonical form. -/
theorem foldl_wf {α : Type} {g : Memory → α → Memory} {l : List α} (hg : ∀ m a, Memory.wf m = true → Memory.wf (g m a) = true)
    {m : Memory} (h : Memory.wf m = true) : Memory.wf (l.foldl g m) = true := by
  induction l generalizing m with
  | nil => exact h
  | cons a l ih => exact ih (hg m a h)

theorem keeps_writeCopy {i : Nat} {e : NandSlot} (h : Keeps s t) : Keeps s (writeCopy i e t) :=
  h.of_fields rfl le_rfl le_rfl (foldl_wf (fun _ _ hm => setByte_wf _ _ _ hm))

theorem keeps_poisonBlock {i : Nat} (h : Keeps s t) : Keeps s (poisonBlock i t) := Keeps.frame h

theorem keeps_restoreBlock {a : State × Nat × Nat} {i : Nat} (h : Keeps s a.1) : Keeps s (restoreBlock a i).1 := by
  unfold restoreBlock
  split
  · exact h
  · exact keeps_setKblock (keeps_writeCopy h)
  · exact keeps_setKblock (keeps_writeCopy h)
  · exact keeps_setKblock (keeps_poisonBlock h)

theorem keeps_restoreKeep (h : Keeps s t) : Keeps s (restoreKeep t) := by
  have hfold (u : State) (hu : Keeps s u) : Keeps s ((nandBlocks u).foldl restoreBlock (u, 0, 0)).1 :=
    Keeps.foldl_fst (fun _ _ hb => keeps_restoreBlock hb) hu
  have h1 := hfold _ (h.of_fields (u := { t with
      bank := { t.bank with mem := t.bank.mem.filter (fun p => !wordWithin t 0 (keepBytes t) (p.1 / 32)),
                            marks := t.bank.marks.filter (fun p => !wordWithin t 0 (keepBytes t) p.1) },
      keep := { t.keep with blocks := [] } }) rfl le_rfl le_rfl (filter_wf _ _))
  have h2 (u : State) (hu : Keeps s u) : Keeps s (match t.keep.record with
      | some x => x.returns.foldl (fun s' pg => clearPage pg s') { u with serve := { u.serve with pages := x.grants } }
      | none => u) := by
    split
    · exact Keeps.foldl (fun _ _ hb => keeps_clearPage hb) hu.frame
    · exact hu
  exact Keeps.ite (h2 _ h1).frame (keeps_logDev (h2 _ h1).frame)

/-! ### Resets -/

theorem keeps_setPhase {ph : Byte} {code : Nat} (h : Keeps s t) : Keeps s (setPhase ph code t) := Keeps.frame h

theorem keeps_warmBanks (h : Keeps s t) : Keeps s (warmBanks t) := by
  unfold warmBanks
  dsimp only
  with_reducible exact Keeps.frame (keeps_drainBcs (keeps_writeBackAll (keeps_haltGrains h)))

theorem keeps_finishReturns (h : Keeps s t) : Keeps s (finishReturns t) :=
  Keeps.frame (Keeps.foldl (fun _ _ h1 => Keeps.ite h1 (keeps_clearPage h1)) h)

theorem keeps_warmSeq (h : Keeps s t) : Keeps s (warmSeq t) := Keeps.frame h

theorem keeps_warmClear (h : Keeps s t) : Keeps s (warmClear t) := by
  unfold warmClear
  dsimp only
  with_reducible exact Keeps.frame (keeps_warmSeq (keeps_finishReturns (keeps_warmBanks h)))

theorem keeps_warmReset (h : Keeps s t) : Keeps s (warmReset t) := by
  unfold warmReset
  dsimp only
  with_reducible exact Keeps.ite h (Keeps.ite (keeps_setPhase (Keeps.frame (keeps_warmClear h))) (keeps_warmClear h))

theorem keeps_coldState (h : Keeps s t) : Keeps s (coldState t) :=
  h.of_fields rfl (Nat.zero_le _) le_rfl fun _ => rfl

theorem keeps_coldReset (h : Keeps s t) : Keeps s (coldReset t) := Keeps.frame (keeps_coldState h)

theorem keeps_powerOff (h : Keeps s t) : Keeps s (powerOff t) := Keeps.frame (keeps_coldState h)

theorem keeps_execConventionalReset (h : Keeps s t) : Completes s (execConventionalReset t) := by
  unfold execConventionalReset
  exact keeps_ok (keeps_warmReset h)

theorem keeps_execFlrPf (h : Keeps s t) : Completes s (execFlrPf t) := by
  unfold execFlrPf
  exact keeps_ok (Keeps.ite (keeps_warmReset h) h)

theorem keeps_execCxlLinkLoss (h : Keeps s t) : Completes s (execCxlLinkLoss t) := by
  unfold execCxlLinkLoss
  dsimp only
  exact Completes.ite (keeps_ok (keeps_warmReset (keeps_logDev (Keeps.frame h)))) (keeps_ok h)

theorem keeps_execIdeIntegrityFailure {mem : Bool} (h : Keeps s t) : Completes s (execIdeIntegrityFailure mem t) := by
  unfold execIdeIntegrityFailure
  dsimp only
  exact Completes.ite (keeps_ok (keeps_warmReset (keeps_logDev (Keeps.frame h)))) (keeps_ok h)

/-! ### Register writes -/

theorem keeps_applyWrite {off size v : Nat} (h : Keeps s t) : Keeps s (applyWrite off size v t) := by
  unfold applyWrite
  dsimp only
  exact Keeps.ite (Keeps.ite (keeps_commitAt h) h) (Keeps.ite (Keeps.ite (keeps_warmReset h) h) (Keeps.ite (Keeps.ite
    (keeps_freqWrite h) h) (Keeps.ite (keeps_writeEvcCfg h) (Keeps.ite (keeps_writeHub h) (keeps_writeDev h)))))

theorem keeps_barWrite {off size v : Nat} (h : Keeps s t) : Keeps s (barWrite off size v t) :=
  Keeps.ite h (Keeps.ite (keeps_bump h) (Keeps.ite h (Keeps.ite (Keeps.ite (Keeps.frame h) (keeps_bump h))
    (keeps_applyWrite h))))

theorem keeps_releaseHeld (h : Keeps s t) : Keeps s (releaseHeld t) :=
  Keeps.foldl (fun _ _ h1 => keeps_applyWrite h1) (Keeps.frame h)

theorem keeps_execRegisterWrite {off size : Nat} {v : U64} (h : Keeps s t) : Completes s (execRegisterWrite off size v t) :=
  keeps_ok (keeps_barWrite h)

theorem keeps_execMarlPartCommit {v : U64} (h : Keeps s t) : Completes s (execMarlPartCommit v t) :=
  keeps_ok (keeps_barWrite h)

theorem keeps_execHubTenCommit {v : U64} (h : Keeps s t) : Completes s (execHubTenCommit v t) := keeps_ok (keeps_barWrite h)

theorem keeps_execHubModelCommit {v : U64} (h : Keeps s t) : Completes s (execHubModelCommit v t) :=
  keeps_ok (keeps_barWrite h)

theorem keeps_execBcMapCommit {v : U64} (h : Keeps s t) : Completes s (execBcMapCommit v t) := keeps_ok (keeps_barWrite h)

theorem keeps_execGrnPartCommit {v : U64} (h : Keeps s t) : Completes s (execGrnPartCommit v t) :=
  keeps_ok (keeps_barWrite h)

theorem keeps_execSynFlagbCommit {v : U64} (h : Keeps s t) : Completes s (execSynFlagbCommit v t) :=
  keeps_ok (keeps_barWrite h)

theorem keeps_execLnkLaneCommit {v : U64} (h : Keeps s t) : Completes s (execLnkLaneCommit v t) :=
  keeps_ok (keeps_barWrite h)

theorem keeps_execKeepCommit {v : U64} (h : Keeps s t) : Completes s (execKeepCommit v t) := keeps_ok (keeps_barWrite h)

theorem keeps_execEvcCfgWrite {n : Fin 16} {hd : Half} {v : U64} (h : Keeps s t) :
    Completes s (execEvcCfgWrite n hd v t) := by
  unfold execEvcCfgWrite
  refine keeps_ok ?_
  split
  · exact keeps_barWrite h
  · exact keeps_barWrite h
  · exact keeps_barWrite h

theorem keeps_execHubResetWrite {v : U64} (h : Keeps s t) : Completes s (execHubResetWrite v t) :=
  keeps_ok (keeps_barWrite h)

theorem keeps_execBcFreqWrite {v : U64} (h : Keeps s t) : Completes s (execBcFreqWrite v t) := keeps_ok (keeps_barWrite h)

/-! ### Start-up and faults -/

theorem keeps_haltStart {code : Nat} (h : Keeps s t) : Keeps s (haltStart code t) :=
  keeps_plogAdd (keeps_logDev (keeps_setPhase h))

theorem keeps_failTest {k code : Nat} (h : Keeps s t) : Keeps s (failTest k code t) :=
  Keeps.ite (Keeps.frame h) (keeps_haltStart h)

theorem keeps_bootSteps (h : Keeps s t) : Keeps s (bootSteps t) :=
  Keeps.ite (keeps_setPhase (Keeps.frame h)) (Keeps.ite (keeps_plogAdd (keeps_setPhase (Keeps.frame (keeps_logDev h))))
    (keeps_haltStart h))

theorem keeps_powerUp {slotId : BitVec 3} {count : U32} (h : Keeps s t) : Keeps s (powerUp slotId count t) :=
  keeps_bootSteps (Keeps.frame h)

theorem keeps_execPowerGood {slotId : BitVec 3} (h : Keeps s t) : Completes s (execPowerGood slotId t) :=
  Completes.ite (keeps_ok h) (keeps_ok (keeps_powerUp h))

theorem keeps_execPerstDeassert (h : Keeps s t) : Completes s (execPerstDeassert t) := keeps_ok (Keeps.frame h)

theorem keeps_execCxlLinkUp {lanes rate : Nat} {flit256 : Bool} (h : Keeps s t) :
    Completes s (execCxlLinkUp lanes rate flit256 t) :=
  Completes.ite (keeps_ok (Keeps.frame h)) (keeps_ok h)

theorem keeps_execMarlSelfTestDone {pass : Bool} (h : Keeps s t) : Completes s (execMarlSelfTestDone pass t) :=
  Completes.ite (Completes.ite (keeps_ok (keeps_releaseHeld (keeps_setPhase (Keeps.frame h)))) (keeps_ok (keeps_failTest
    h))) (keeps_ok h)

theorem keeps_loadPatches (h : Keeps s t) : Keeps s (loadPatches t) :=
  Keeps.foldl (fun _ _ h1 => Keeps.ite (Keeps.frame h1) (keeps_logDev h1)) h

theorem keeps_execIslandSelfTestDone {which : SelfTest} {pass : Bool} (h : Keeps s t) :
    Completes s (execIslandSelfTestDone which pass t) := by
  unfold execIslandSelfTestDone
  dsimp only
  refine Completes.ite (keeps_ok h) ?_
  split
  · exact Completes.ite (keeps_ok h) (Completes.ite (keeps_ok (keeps_releaseHeld (keeps_loadPatches (Keeps.frame h))))
      (keeps_ok (keeps_failTest h)))
  · exact Completes.ite (keeps_ok h) (Completes.ite (keeps_ok (Keeps.frame h)) (keeps_ok (keeps_failTest h)))
  · exact Completes.ite (keeps_ok h) (Completes.ite (keeps_ok (Keeps.frame h)) (keeps_ok (keeps_failTest h)))

theorem keeps_mapOut {g cause : Nat} (h : Keeps s t) : Keeps s (mapOut g cause t) :=
  Keeps.ite h (keeps_plogAdd (keeps_logDev (Keeps.frame (keeps_setDie h))))

theorem keeps_testedDie {failing : List Nat} {c r d : Nat} (h : Keeps s t) : Keeps s (testedDie failing c r d t) :=
  Keeps.foldl (fun _ _ h1 => keeps_setGrain h1) (keeps_setDie h)

theorem keeps_testedDies {failing : List Nat} (h : Keeps s t) : Keeps s (testedDies failing t) :=
  Keeps.foldl (fun _ _ h1 => Keeps.ite (keeps_testedDie h1) h1) h

theorem keeps_execGrainSelfTestDone {failing : List GrainNo} (h : Keeps s t) :
    Completes s (execGrainSelfTestDone failing t) :=
  Completes.ite (Completes.ite (keeps_ok (Keeps.frame h)) (keeps_ok (keeps_setPhase (Keeps.frame (Keeps.foldl (fun _ _ h1
    => keeps_mapOut h1) (keeps_testedDies h)))))) (Completes.ite (keeps_ok (keeps_testedDies h)) (keeps_ok h))

theorem keeps_execMemoryInitDone (h : Keeps s t) : Completes s (execMemoryInitDone t) :=
  Completes.ite (keeps_ok (keeps_setPhase (h.of_fields rfl le_rfl le_rfl (filter_wf _ _)))) (keeps_ok h)

theorem keeps_execKeepRestoreDone (h : Keeps s t) : Completes s (execKeepRestoreDone t) :=
  Completes.ite (keeps_ok (Keeps.frame (keeps_restoreKeep h))) (keeps_ok h)

theorem keeps_endFlrs (h : Keeps s t) : Keeps s (endFlrs t) := Keeps.foldl (fun _ _ h1 => keeps_emit h1) (Keeps.frame h)

theorem keeps_execMediaReady (h : Keeps s t) : Completes s (execMediaReady t) :=
  Completes.ite (keeps_ok (keeps_endFlrs (keeps_setPhase (Keeps.frame h)))) (Completes.ite (keeps_ok (keeps_endFlrs
    (keeps_setPhase (Keeps.frame h)))) (keeps_ok h))

theorem keeps_execFabricReady (h : Keeps s t) : Completes s (execFabricReady t) := by
  unfold execFabricReady
  dsimp only
  split
  · exact keeps_ok h
  · exact Completes.ite (keeps_ok (keeps_emit (keeps_setPhase (Keeps.frame h)))) (keeps_ok h)

theorem keeps_execFabricWaitExpiry {p : PortNo} (h : Keeps s t) : Completes s (execFabricWaitExpiry p t) :=
  Completes.ite (keeps_ok (Keeps.frame h)) (keeps_ok h)

theorem keeps_dropWork (h : Keeps s t) : Keeps s (dropWork t) := by
  unfold dropWork
  dsimp only
  with_reducible exact Keeps.frame (keeps_warmSeq (Keeps.frame (Keeps.foldl (fun _ _ h1 => keeps_needResync h1) h)))

theorem keeps_hubFaultAct {code : Nat} {loc : U16} {row : Nat} {dead : List Nat} (h : Keeps s t) :
    Keeps s (hubFaultAct code loc row dead t) := by
  unfold hubFaultAct
  dsimp only
  with_reducible exact Keeps.ite h (keeps_emit (keeps_plogAdd (keeps_setPhase (Keeps.frame (keeps_dropWork (Keeps.frame
    (keeps_saveKeep (keeps_logDev h))))))))

theorem keeps_execHubFault {code : Fin 4} {location : BitVec 12} {sliceRow : U16} {deadSlices : List (Fin 64)} (h : Keeps s
    t) :
    Completes s (execHubFault code location sliceRow deadSlices t) := by
  unfold execHubFault
  dsimp only
  exact keeps_ok (keeps_hubFaultAct h)

theorem keeps_execPmuWatchdogExpiry (h : Keeps s t) : Completes s (execPmuWatchdogExpiry t) := by
  unfold execPmuWatchdogExpiry
  dsimp only
  exact Completes.ite (keeps_ok h) (Completes.ite (keeps_ok (keeps_haltStart (keeps_logDev h))) (Completes.ite (keeps_ok
    (keeps_hubFaultAct (keeps_logDev h))) (keeps_ok (Keeps.frame (keeps_logDev h)))))

theorem keeps_execPmuFirmwareRestartDone (h : Keeps s t) : Completes s (execPmuFirmwareRestartDone t) :=
  keeps_ok (Keeps.frame h)

theorem keeps_unstage {off : Nat} (h : Keeps s t) : Keeps s (unstage off t) := by
  unfold unstage
  dsimp only
  split
  · exact Keeps.frame h
  · exact Keeps.frame h
  · exact Keeps.frame h
  · exact Keeps.frame h
  · exact Keeps.frame h
  · exact Keeps.frame h
  · exact Keeps.frame h
  · exact keeps_setGrnPart h
  · exact keeps_setGrnPart h
  · exact keeps_setGrnPart h
  · exact keeps_setFlagBase h
  · exact Keeps.frame h
  · exact Keeps.frame h
  · exact Keeps.frame h
  · exact Keeps.frame h
  · exact h

theorem keeps_resetWord {off : Nat} (h : Keeps s t) : Keeps s (resetWord off t) := by
  unfold resetWord
  dsimp only
  refine Keeps.ite (Keeps.ite h (keeps_startChange (Keeps.frame h))) ?_
  refine Keeps.ite (Keeps.frame h) ?_
  refine Keeps.ite (Keeps.frame h) ?_
  split
  · exact keeps_writeDev (keeps_writeHub h)
  · exact h

theorem keeps_faultWord {w : Nat} (h : Keeps s t) : Keeps s (faultWord w t) :=
  Keeps.foldl (fun _ _ h1 => keeps_faultCtx h1) (keeps_logDev (Keeps.frame h))

theorem keeps_sweepWord {off : Nat} (h : Keeps s t) : Keeps s (sweepWord off t) := by
  unfold sweepWord
  dsimp only
  refine Keeps.ite (Keeps.ite (keeps_faultWord h) h) ?_
  split
  · exact Keeps.frame h
  · exact Keeps.ite h (keeps_logDev (keeps_resetWord (keeps_unstage h)))

theorem keeps_execParitySweep {offsets : List Nat} (h : Keeps s t) : Completes s (execParitySweep offsets t) :=
  Completes.ite (keeps_ok (Keeps.foldl (fun _ _ h1 => keeps_sweepWord h1) h)) (keeps_ok h)

end Sys2Proof.Machine
end

section
/-! Dies, grains, Tilth code, bank controllers and the Marl keep the queue and soundness. -/

namespace Sys2Proof.Machine

variable {s t : State}

/-! ### Dies and grains -/

theorem keeps_onRank {c r : Nat} {act : Nat → State → State} (ha : ∀ d u, Keeps s u → Keeps s (act d u)) (h : Keeps s t) :
    Keeps s (onRank c r act t) :=
  Keeps.ite (Keeps.foldl (fun _ d h1 => Keeps.ite (ha d _ h1) h1) h) h

theorem keeps_setCause {c r d bit : Nat} (h : Keeps s t) : Keeps s (setCause c r d bit t) := keeps_setDie h

theorem keeps_openPair {g row : Nat} (h : Keeps s t) : Keeps s (openPair g row t) := keeps_setDie h

theorem keeps_serveDeferred {g n : Nat} (h : Keeps s t) : Keeps s (serveDeferred g n t) := keeps_setDie h

theorem keeps_faultGrain {g code : Nat} (h : Keeps s t) : Keeps s (faultGrain g code t) :=
  Keeps.ite (keeps_stopGrain h) (keeps_closeRows (keeps_stopGrain h))

theorem keeps_fetchCheck {g : Nat} (h : Keeps s t) : Keeps s (fetchCheck g t) := Keeps.ite (keeps_faultGrain h) h

theorem keeps_startGrain {g : Nat} {insn : Option U32} {entry : Nat} (h : Keeps s t) :
    Keeps s (startGrain g insn entry t) :=
  keeps_fetchCheck (keeps_setDie (keeps_setGrain h))

theorem keeps_runDone {f : Func} {c r : Nat} {v : Bool} (h : Keeps s t) : Keeps s (runDone f c r v t) := by
  unfold runDone
  split
  · exact Keeps.ite (keeps_setFlag h) (keeps_clearFlag h)
  · exact h

theorem keeps_startQCmd {c1 : Nat} {k : P1} (h : Keeps s t) : Keeps s (startQCmd c1 k t) := by
  unfold startQCmd
  dsimp only
  split
  · exact keeps_setQueue h
  · exact h

theorem keeps_markIssued {src c1 : Nat} {k : P1} (h : Keeps s t) : Keeps s (markIssued src c1 k t) := by
  unfold markIssued
  dsimp only
  refine keeps_runDone ?_
  refine keeps_countEv ?_
  split
  · exact keeps_clipDesc (keeps_setBc (keeps_startQCmd h))
  · exact keeps_setBc (keeps_startQCmd h)

theorem keeps_faultConds {p : Place} {g : Nat} {poisoned : Bool} (h : Keeps s t) : Keeps s (faultConds p g poisoned t) := by
  unfold faultConds
  dsimp only
  split
  · exact Keeps.frame h
  · exact keeps_addCond (Keeps.ite (keeps_addCond h) h)

theorem keeps_noteFault {c1 : Nat} {k : P1} {g : Nat × Nat} (h : Keeps s t) : Keeps s (noteFault c1 k g t) := by
  unfold noteFault
  dsimp only
  refine Keeps.ite h ?_
  split
  · exact keeps_countEv (keeps_logFn h)
  · split
    · exact keeps_setDesc (keeps_faultConds (keeps_countEv (keeps_logFn h)))
    · exact keeps_faultConds (keeps_countEv (keeps_logFn h))

theorem keeps_finishQCmd {c1 : Nat} {k : P1} {res : Option U32} (h : Keeps s t) : Keeps s (finishQCmd c1 k res t) := by
  unfold finishQCmd
  dsimp only
  split
  · exact keeps_setQueue h
  · exact h

theorem keeps_completeP1 {c1 : Nat} {k : P1} {res : Option U32} (h : Keeps s t) : Keeps s (completeP1 c1 k res t) := by
  unfold completeP1
  dsimp only
  split
  · refine keeps_settleCtx ?_
    refine keeps_finishQCmd ?_
    split
    · refine keeps_setBc ?_
      split
      · exact keeps_runDone (Keeps.foldl (fun _ _ h1 => keeps_noteFault h1) h)
      · exact keeps_runDone (Keeps.foldl (fun _ _ h1 => keeps_noteFault h1) h)
      · exact h
    · split
      · refine keeps_setDesc ?_
        refine keeps_setBc ?_
        split
        · exact keeps_runDone (Keeps.foldl (fun _ _ h1 => keeps_noteFault h1) h)
        · exact keeps_runDone (Keeps.foldl (fun _ _ h1 => keeps_noteFault h1) h)
        · exact h
      · refine keeps_setBc ?_
        split
        · exact keeps_runDone (Keeps.foldl (fun _ _ h1 => keeps_noteFault h1) h)
        · exact keeps_runDone (Keeps.foldl (fun _ _ h1 => keeps_noteFault h1) h)
        · exact h
  · split
    · refine keeps_setBc ?_
      split
      · exact keeps_runDone (Keeps.foldl (fun _ _ h1 => keeps_noteFault h1) h)
      · exact keeps_runDone (Keeps.foldl (fun _ _ h1 => keeps_noteFault h1) h)
      · exact h
    · split
      · refine keeps_setDesc ?_
        refine keeps_setBc ?_
        split
        · exact keeps_runDone (Keeps.foldl (fun _ _ h1 => keeps_noteFault h1) h)
        · exact keeps_runDone (Keeps.foldl (fun _ _ h1 => keeps_noteFault h1) h)
        · exact h
      · refine keeps_setBc ?_
        split
        · exact keeps_runDone (Keeps.foldl (fun _ _ h1 => keeps_noteFault h1) h)
        · exact keeps_runDone (Keeps.foldl (fun _ _ h1 => keeps_noteFault h1) h)
        · exact h

theorem keeps_reapP1 {c r : Nat} (h : Keeps s t) : Keeps s (reapP1 c r t) :=
  Keeps.foldl (fun _ _ h1 => keeps_completeP1 h1) h

/-! ### Tilth code -/

theorem keeps_judged {l : List (Bool × Nat)} {k : TOut} (h : Keeps s t) (hk : KeepsOut s k) : KeepsOut s (judged l t k) := by
  unfold judged
  split
  · exact h
  · exact hk

theorem keeps_finishInsn {g clocks : Nat} {move : Grain → Grain} (h : Keeps s t) : Keeps s (finishInsn g clocks move t) :=
  Keeps.ite (Keeps.ite (keeps_stopGrain (keeps_setGrain h)) (keeps_closeRows (keeps_stopGrain (keeps_setGrain h))))
    (keeps_fetchCheck (keeps_setGrain h))

theorem keeps_boundary {g : Nat} (h : Keeps s t) : Keeps s (boundary g t) :=
  Keeps.ite (keeps_serveDeferred (keeps_setGrain h)) h

theorem keeps_tilthStep {op : Nat} {sem : Nat → Nat → State → TOut} {g : Nat}
    (hi : ∀ w g u, Keeps s u → KeepsOut s (sem w g u)) (h : Keeps s t) : Keeps s (tilthStep op sem g t) := by
  unfold tilthStep
  dsimp only
  split
  · exact h
  · have ho := hi (currentWord (grain t g)) g (boundary g t) (keeps_boundary h)
    split
    case h_1 heq => exact keeps_faultGrain (heq ▸ ho :)
    case h_2 heq => exact h
    case h_3 heq => exact keeps_finishInsn (heq ▸ ho :)
    case h_4 heq => exact keeps_finishInsn (heq ▸ ho :)
    case h_5 heq => exact keeps_finishInsn (heq ▸ ho :)
    case h_6 heq => exact keeps_closeRows (keeps_stopGrain (keeps_setGrain (heq ▸ ho :)))

theorem keeps_pureInsn {faults : Grain → Nat → List (Bool × Nat)} {clocks : Grain → Nat → Nat} {act : Grain → Nat → Grain}
    {w g : Nat} (h : Keeps s t) : KeepsOut s (pureInsn faults clocks act w g t) :=
  keeps_judged h (KeepsOut.next (keeps_setGrain h))

theorem keeps_openFor {g row : Nat} (h : Keeps s t) : Keeps s (openFor g row t) :=
  Keeps.ite h (keeps_openPair (Keeps.ite h (keeps_serveDeferred (keeps_setGrain h))))

theorem keeps_addCorrected {g n : Nat} (h : Keeps s t) : Keeps s (addCorrected g n t) := keeps_setGrain h

theorem keeps_reportBad {g w : Nat} (h : Keeps s t) : Keeps s (reportBad g w t) := Keeps.frame h

theorem keeps_eccFault {g w : Nat} (h : Keeps s t) : KeepsOut s (eccFault g w t) :=
  KeepsOut.fault (keeps_reportBad (keeps_setGrain h))

theorem keeps_withColumns {g row : Nat} {cols : List Nat} {k : State → List Line → TOut}
    (hk : ∀ ds u, Keeps s u → KeepsOut s (k u ds)) (h : Keeps s t) : KeepsOut s (withColumns g row cols t k) := by
  unfold withColumns
  dsimp only
  split
  · exact keeps_eccFault (keeps_openFor h)
  · exact hk _ _ (keeps_addCorrected (keeps_openFor h))

theorem keeps_noteWritten {w : Nat} (h : Keeps s t) : Keeps s (noteWritten w t) := by
  unfold noteWritten
  dsimp only
  split
  · split
    · exact keeps_noteSpan h
    · exact h
  · exact h

theorem keeps_grainWrite {w : Nat} {d : ColData} (h : Keeps s t) : Keeps s (grainWrite w d t) :=
  keeps_noteWritten (keeps_setColAt h)

theorem keeps_insHalt {w g : Nat} (h : Keeps s t) : KeepsOut s (insHalt w g t) := keeps_judged h (KeepsOut.halted h)

theorem keeps_insNop {w g : Nat} (h : Keeps s t) : KeepsOut s (insNop w g t) := keeps_pureInsn h

theorem keeps_insLoop {count : Grain → Nat → Nat} {rsv : List (Nat × Nat)} {w g : Nat} (h : Keeps s t) :
    KeepsOut s (insLoop count rsv w g t) :=
  keeps_judged h (KeepsOut.ite (KeepsOut.skip h) (KeepsOut.next (keeps_setGrain h)))

theorem keeps_insBr {w g : Nat} (h : Keeps s t) : KeepsOut s (insBr w g t) := by
  unfold insBr
  dsimp only
  split
  · exact KeepsOut.ite (KeepsOut.jump h) (KeepsOut.next h)
  · exact KeepsOut.fault h

theorem keeps_insSalu {w g : Nat} (h : Keeps s t) : KeepsOut s (insSalu w g t) := keeps_pureInsn h

theorem keeps_insAddi {w g : Nat} (h : Keeps s t) : KeepsOut s (insAddi w g t) := keeps_pureInsn h

theorem keeps_insOri {w g : Nat} (h : Keeps s t) : KeepsOut s (insOri w g t) := keeps_pureInsn h

theorem keeps_insLui {w g : Nat} (h : Keeps s t) : KeepsOut s (insLui w g t) := keeps_pureInsn h

theorem keeps_insShi {w g : Nat} (h : Keeps s t) : KeepsOut s (insShi w g t) := keeps_pureInsn h

theorem keeps_insSgetv {w g : Nat} (h : Keeps s t) : KeepsOut s (insSgetv w g t) := keeps_pureInsn h

theorem keeps_insVsets {w g : Nat} (h : Keeps s t) : KeepsOut s (insVsets w g t) := keeps_pureInsn h

theorem keeps_insLoadScratch {n clocks : Nat} {rsv : List (Nat × Nat)} {act : Grain → Nat → Nat → Grain} {w g : Nat} (h :
    Keeps s t) :
    KeepsOut s (insLoadScratch n clocks rsv act w g t) :=
  keeps_pureInsn h

theorem keeps_insStoreScratch {n clocks : Nat} {rsv : List (Nat × Nat)} {acc : Bool} {val : Grain → Nat → Nat} {w g : Nat}
    (h : Keeps s t) :
    KeepsOut s (insStoreScratch n clocks rsv acc val w g t) :=
  keeps_pureInsn h

theorem keeps_insVlds {w g : Nat} (h : Keeps s t) : KeepsOut s (insVlds w g t) := keeps_insLoadScratch h

theorem keeps_insVsts {w g : Nat} (h : Keeps s t) : KeepsOut s (insVsts w g t) := keeps_insStoreScratch h

theorem keeps_insSlds {w g : Nat} (h : Keeps s t) : KeepsOut s (insSlds w g t) := keeps_insLoadScratch h

theorem keeps_insSsts {w g : Nat} (h : Keeps s t) : KeepsOut s (insSsts w g t) := keeps_insStoreScratch h

theorem keeps_insAlds {w g : Nat} (h : Keeps s t) : KeepsOut s (insAlds w g t) := keeps_insLoadScratch h

theorem keeps_insAsts {w g : Nat} (h : Keeps s t) : KeepsOut s (insAsts w g t) := keeps_insStoreScratch h

theorem keeps_insSldr {w g : Nat} (h : Keeps s t) : KeepsOut s (insSldr w g t) := keeps_pureInsn h

theorem keeps_insSstr {w g : Nat} (h : Keeps s t) : KeepsOut s (insSstr w g t) := keeps_pureInsn h

theorem keeps_insVldc {w g : Nat} (h : Keeps s t) : KeepsOut s (insVldc w g t) :=
  keeps_judged h (keeps_withColumns (fun _ _ h1 => KeepsOut.next (keeps_setGrain h1)) h)

theorem keeps_storePart {d : Line} {mask : Nat} {ws : List Nat} {g : Nat} {a : State × Option Nat} {side : Nat}
    (h : Keeps s a.1) : Keeps s (storePart d mask ws g a side).1 := by
  unfold storePart
  dsimp only
  split
  · exact h
  · split
    · exact keeps_grainWrite h
    · split
      · exact h
      · exact keeps_grainWrite (keeps_addCorrected h)

theorem keeps_insVstc {w g : Nat} (h : Keeps s t) : KeepsOut s (insVstc w g t) := by
  unfold insVstc
  dsimp only
  refine keeps_judged h ?_
  split
  · exact keeps_eccFault (keeps_setGrain (Keeps.foldl_fst (fun _ _ hb => keeps_storePart hb) (keeps_openFor h)))
  · exact KeepsOut.next (keeps_setGrain (Keeps.foldl_fst (fun _ _ hb => keeps_storePart hb) (keeps_openFor h)))

theorem keeps_insAldc {w g : Nat} (h : Keeps s t) : KeepsOut s (insAldc w g t) :=
  keeps_judged h (keeps_withColumns (fun _ _ h1 => KeepsOut.next (keeps_setGrain h1)) h)

theorem keeps_insAstc {w g : Nat} (h : Keeps s t) : KeepsOut s (insAstc w g t) :=
  keeps_judged h (KeepsOut.next (keeps_setGrain (Keeps.foldl (fun _ _ h1 => keeps_grainWrite h1) (keeps_openFor h))))

theorem keeps_haltCommand {g : Nat} (h : Keeps s t) : Keeps s (haltCommand g t) := by
  unfold haltCommand
  dsimp only
  split
  · exact Keeps.ite (keeps_haltGrain (keeps_takeFree (Keeps.foldl (fun _ _ h1 => keeps_grainWrite h1) h))) (keeps_haltGrain
      h)
  · exact keeps_haltGrain h

theorem keeps_insVop {w g : Nat} (h : Keeps s t) : KeepsOut s (insVop w g t) := keeps_pureInsn h

theorem keeps_insVsplat {w g : Nat} (h : Keeps s t) : KeepsOut s (insVsplat w g t) := keeps_pureInsn h

theorem keeps_insVcmp {w g : Nat} (h : Keeps s t) : KeepsOut s (insVcmp w g t) := keeps_pureInsn h

theorem keeps_insMac {w g : Nat} (h : Keeps s t) : KeepsOut s (insMac w g t) := keeps_pureInsn h

theorem keeps_insMacc {w g : Nat} (h : Keeps s t) : KeepsOut s (insMacc w g t) :=
  keeps_judged h (keeps_withColumns (fun _ _ h1 => KeepsOut.next (keeps_setGrain h1)) h)

theorem keeps_insBpmac {w g : Nat} (h : Keeps s t) : KeepsOut s (insBpmac w g t) :=
  keeps_judged h (keeps_withColumns (fun _ _ h1 => KeepsOut.next (keeps_setGrain h1)) h)

theorem keeps_insAop {w g : Nat} (h : Keeps s t) : KeepsOut s (insAop w g t) := keeps_pureInsn h

theorem keeps_insAhred {w g : Nat} (h : Keeps s t) : KeepsOut s (insAhred w g t) := keeps_pureInsn h

theorem keeps_insSend {w g : Nat} (h : Keeps s t) : KeepsOut s (insSend w g t) := by
  unfold insSend
  dsimp only
  refine keeps_judged h ?_
  split
  · exact KeepsOut.stall
  · exact KeepsOut.ite KeepsOut.stall (KeepsOut.next (keeps_setGrain (keeps_setGrain h)))

theorem keeps_insRecv {w g : Nat} (h : Keeps s t) : KeepsOut s (insRecv w g t) := by
  unfold insRecv
  refine keeps_judged h ?_
  split
  · exact KeepsOut.stall
  · exact KeepsOut.next (keeps_setGrain h)

theorem keeps_insRadd {w g : Nat} (h : Keeps s t) : KeepsOut s (insRadd w g t) := by
  unfold insRadd
  dsimp only
  refine keeps_judged h ?_
  split
  · exact KeepsOut.stall
  · exact KeepsOut.next (keeps_setGrain h)

theorem keeps_execHalt {g : GrainNo} (h : Keeps s t) : Completes s (execHalt g t) :=
  keeps_ok (keeps_tilthStep (fun _ _ _ h1 => keeps_insHalt h1) h)

theorem keeps_execTilthNop {g : GrainNo} (h : Keeps s t) : Completes s (execTilthNop g t) :=
  keeps_ok (keeps_tilthStep (fun _ _ _ h1 => keeps_insNop h1) h)

theorem keeps_execLoopi {g : GrainNo} (h : Keeps s t) : Completes s (execLoopi g t) :=
  keeps_ok (keeps_tilthStep (fun _ _ _ h1 => keeps_insLoop h1) h)

theorem keeps_execLoopr {g : GrainNo} (h : Keeps s t) : Completes s (execLoopr g t) :=
  keeps_ok (keeps_tilthStep (fun _ _ _ h1 => keeps_insLoop h1) h)

theorem keeps_execBr {g : GrainNo} (h : Keeps s t) : Completes s (execBr g t) :=
  keeps_ok (keeps_tilthStep (fun _ _ _ h1 => keeps_insBr h1) h)

theorem keeps_execSalu {g : GrainNo} (h : Keeps s t) : Completes s (execSalu g t) :=
  keeps_ok (keeps_tilthStep (fun _ _ _ h1 => keeps_insSalu h1) h)

theorem keeps_execAddi {g : GrainNo} (h : Keeps s t) : Completes s (execAddi g t) :=
  keeps_ok (keeps_tilthStep (fun _ _ _ h1 => keeps_insAddi h1) h)

theorem keeps_execOri {g : GrainNo} (h : Keeps s t) : Completes s (execOri g t) :=
  keeps_ok (keeps_tilthStep (fun _ _ _ h1 => keeps_insOri h1) h)

theorem keeps_execLui {g : GrainNo} (h : Keeps s t) : Completes s (execLui g t) :=
  keeps_ok (keeps_tilthStep (fun _ _ _ h1 => keeps_insLui h1) h)

theorem keeps_execShi {g : GrainNo} (h : Keeps s t) : Completes s (execShi g t) :=
  keeps_ok (keeps_tilthStep (fun _ _ _ h1 => keeps_insShi h1) h)

theorem keeps_execSgetv {g : GrainNo} (h : Keeps s t) : Completes s (execSgetv g t) :=
  keeps_ok (keeps_tilthStep (fun _ _ _ h1 => keeps_insSgetv h1) h)

theorem keeps_execVsets {g : GrainNo} (h : Keeps s t) : Completes s (execVsets g t) :=
  keeps_ok (keeps_tilthStep (fun _ _ _ h1 => keeps_insVsets h1) h)

theorem keeps_execVldc {g : GrainNo} (h : Keeps s t) : Completes s (execVldc g t) :=
  keeps_ok (keeps_tilthStep (fun _ _ _ h1 => keeps_insVldc h1) h)

theorem keeps_execVstc {g : GrainNo} (h : Keeps s t) : Completes s (execVstc g t) :=
  keeps_ok (keeps_tilthStep (fun _ _ _ h1 => keeps_insVstc h1) h)

theorem keeps_execVlds {g : GrainNo} (h : Keeps s t) : Completes s (execVlds g t) :=
  keeps_ok (keeps_tilthStep (fun _ _ _ h1 => keeps_insVlds h1) h)

theorem keeps_execVsts {g : GrainNo} (h : Keeps s t) : Completes s (execVsts g t) :=
  keeps_ok (keeps_tilthStep (fun _ _ _ h1 => keeps_insVsts h1) h)

theorem keeps_execSlds {g : GrainNo} (h : Keeps s t) : Completes s (execSlds g t) :=
  keeps_ok (keeps_tilthStep (fun _ _ _ h1 => keeps_insSlds h1) h)

theorem keeps_execSsts {g : GrainNo} (h : Keeps s t) : Completes s (execSsts g t) :=
  keeps_ok (keeps_tilthStep (fun _ _ _ h1 => keeps_insSsts h1) h)

theorem keeps_execSldr {g : GrainNo} (h : Keeps s t) : Completes s (execSldr g t) :=
  keeps_ok (keeps_tilthStep (fun _ _ _ h1 => keeps_insSldr h1) h)

theorem keeps_execSstr {g : GrainNo} (h : Keeps s t) : Completes s (execSstr g t) :=
  keeps_ok (keeps_tilthStep (fun _ _ _ h1 => keeps_insSstr h1) h)

theorem keeps_execAlds {g : GrainNo} (h : Keeps s t) : Completes s (execAlds g t) :=
  keeps_ok (keeps_tilthStep (fun _ _ _ h1 => keeps_insAlds h1) h)

theorem keeps_execAsts {g : GrainNo} (h : Keeps s t) : Completes s (execAsts g t) :=
  keeps_ok (keeps_tilthStep (fun _ _ _ h1 => keeps_insAsts h1) h)

theorem keeps_execAldc {g : GrainNo} (h : Keeps s t) : Completes s (execAldc g t) :=
  keeps_ok (keeps_tilthStep (fun _ _ _ h1 => keeps_insAldc h1) h)

theorem keeps_execAstc {g : GrainNo} (h : Keeps s t) : Completes s (execAstc g t) :=
  keeps_ok (keeps_tilthStep (fun _ _ _ h1 => keeps_insAstc h1) h)

theorem keeps_execVop {g : GrainNo} (h : Keeps s t) : Completes s (execVop g t) :=
  keeps_ok (keeps_tilthStep (fun _ _ _ h1 => keeps_insVop h1) h)

theorem keeps_execVsplat {g : GrainNo} (h : Keeps s t) : Completes s (execVsplat g t) :=
  keeps_ok (keeps_tilthStep (fun _ _ _ h1 => keeps_insVsplat h1) h)

theorem keeps_execVcmp {g : GrainNo} (h : Keeps s t) : Completes s (execVcmp g t) :=
  keeps_ok (keeps_tilthStep (fun _ _ _ h1 => keeps_insVcmp h1) h)

theorem keeps_execMac {g : GrainNo} (h : Keeps s t) : Completes s (execMac g t) :=
  keeps_ok (keeps_tilthStep (fun _ _ _ h1 => keeps_insMac h1) h)

theorem keeps_execMacc {g : GrainNo} (h : Keeps s t) : Completes s (execMacc g t) :=
  keeps_ok (keeps_tilthStep (fun _ _ _ h1 => keeps_insMacc h1) h)

theorem keeps_execBpmac {g : GrainNo} (h : Keeps s t) : Completes s (execBpmac g t) :=
  keeps_ok (keeps_tilthStep (fun _ _ _ h1 => keeps_insBpmac h1) h)

theorem keeps_execAop {g : GrainNo} (h : Keeps s t) : Completes s (execAop g t) :=
  keeps_ok (keeps_tilthStep (fun _ _ _ h1 => keeps_insAop h1) h)

theorem keeps_execAhred {g : GrainNo} (h : Keeps s t) : Completes s (execAhred g t) :=
  keeps_ok (keeps_tilthStep (fun _ _ _ h1 => keeps_insAhred h1) h)

theorem keeps_execSend {g : GrainNo} (h : Keeps s t) : Completes s (execSend g t) :=
  keeps_ok (keeps_tilthStep (fun _ _ _ h1 => keeps_insSend h1) h)

theorem keeps_execRecv {g : GrainNo} (h : Keeps s t) : Completes s (execRecv g t) :=
  keeps_ok (keeps_tilthStep (fun _ _ _ h1 => keeps_insRecv h1) h)

theorem keeps_execRadd {g : GrainNo} (h : Keeps s t) : Completes s (execRadd g t) :=
  keeps_ok (keeps_tilthStep (fun _ _ _ h1 => keeps_insRadd h1) h)

theorem keeps_execSeamVectorArrive {g : GrainNo} {down : Bool} (h : Keeps s t) :
    Completes s (execSeamVectorArrive g down t) := by
  unfold execSeamVectorArrive
  dsimp only
  refine keeps_ok ?_
  split
  · exact keeps_setGrain h
  · exact keeps_setGrain h
  · exact h

/-! ### The CA bus -/

theorem keeps_burst {c : Chan} {r : Rank} {parts : List (Option (ColData × Nat))} (h : Keeps s t) :
    Keeps s (burst c r parts t) :=
  Keeps.ite h (Keeps.ite (Keeps.frame (keeps_emit h)) (keeps_emit h))

theorem keeps_bankAccess {c r bank d : Nat} {act : State → State} (ha : ∀ u, Keeps s u → Keeps s (act u)) (h : Keeps s t) :
    Keeps s (bankAccess c r bank d act t) :=
  Keeps.ite (keeps_setCause h) (ha t h)

theorem keeps_setOpen {c r d bank : Nat} {row : Option Nat} (h : Keeps s t) : Keeps s (setOpen c r d bank row t) :=
  keeps_setDie h

theorem keeps_execAct {c : Chan} {r : Rank} {bank : BankNo} {row : RowNo} (h : Keeps s t) :
    Completes s (execAct c r bank row t) :=
  keeps_ok (keeps_onRank (fun _ _ h1 => keeps_bankAccess (fun _ h2 => keeps_setOpen h2) h1) (keeps_countEv h))

theorem keeps_execRd {c : Chan} {r : Rank} {bank : BankNo} {col : ColNo} {ap : Bool} {flips : Flips} (h : Keeps s t) :
    Completes s (execRd c r bank col ap flips t) :=
  keeps_ok (keeps_onRank (fun _ _ h1 => keeps_bankAccess (fun _ h2 => Keeps.ite (keeps_setOpen h2) h2) h1) (keeps_burst
    (keeps_noteRead (keeps_takeFlips h))))

theorem keeps_execWr {c : Chan} {r : Rank} {bank : BankNo} {col : ColNo} {ap poison : Bool} {data : Wide} (h : Keeps s t) :
    Completes s (execWr c r bank col ap poison data t) := by
  unfold execWr
  dsimp only
  refine keeps_ok ?_
  refine keeps_onRank ?_ h
  intro _ _ h1
  refine keeps_bankAccess ?_ h1
  intro _ h2
  refine Keeps.ite ?_ ?_
  · refine keeps_setOpen ?_
    split
    · exact keeps_setColAt h2
    · exact h2
  · split
    · exact keeps_setColAt h2
    · exact h2

theorem keeps_execPre {c : Chan} {r : Rank} {bank : BankNo} {all : Bool} (h : Keeps s t) :
    Completes s (execPre c r bank all t) :=
  keeps_ok (keeps_onRank (fun _ _ h1 => Keeps.foldl (fun _ _ h2 => keeps_bankAccess (fun _ h3 => keeps_setOpen h3) h2) h1)
    h)

theorem keeps_refBank {c r d b : Nat} (h : Keeps s t) : Keeps s (refBank c r d b t) := by
  unfold refBank
  dsimp only
  split
  · exact h
  · exact keeps_setCause h
  · exact Keeps.ite (keeps_setCause h) (keeps_setDie h)

theorem keeps_execRef {c : Chan} {r : Rank} {bank : BankNo} {all : Bool} (h : Keeps s t) :
    Completes s (execRef c r bank all t) :=
  keeps_ok (keeps_onRank (fun _ _ h1 => Keeps.foldl (fun _ _ h2 => keeps_refBank h2) h1) (keeps_countEv h))

theorem keeps_setOwed {c r b : Nat} {v : Int} (h : Keeps s t) : Keeps s (setOwed c r b v t) := keeps_setBc h

theorem keeps_sendRefs {c r b n : Nat} (h : Keeps s t) : Keeps s (sendRefs c r b n t) :=
  keeps_setOwed (Keeps.foldl (fun _ _ h1 => keeps_onRank (fun _ _ h2 => keeps_refBank h2) (keeps_countEv h1)) h)

theorem keeps_forceRefs {c r : Nat} (h : Keeps s t) : Keeps s (forceRefs c r t) :=
  Keeps.foldl (fun _ _ h1 => Keeps.ite (keeps_sendRefs h1) h1) h

theorem keeps_onDies {c r : Nat} {dies : BitVec 4} {f : DieSt → DieSt} (h : Keeps s t) : Keeps s (onDies c r dies f t) :=
  keeps_onRank (fun _ _ h1 => Keeps.ite (keeps_setDie h1) h1) h

theorem keeps_execMrw {c : Chan} {r : Rank} {addr data : Byte} {dies : BitVec 4} (h : Keeps s t) :
    Completes s (execMrw c r addr data dies t) :=
  keeps_ok (keeps_onDies h)

theorem keeps_execMrr {c : Chan} {r : Rank} {addr : Byte} (h : Keeps s t) : Completes s (execMrr c r addr t) :=
  keeps_ok (keeps_burst h)

theorem keeps_execGrainSelfTestStart {c : Chan} {r : Rank} {dies : BitVec 4} (h : Keeps s t) :
    Completes s (execGrainSelfTestStart c r dies t) :=
  keeps_ok (keeps_onDies h)

theorem keeps_execAlertCauseClear {c : Chan} {r : Rank} {dies : BitVec 4} {causes : Byte} (h : Keeps s t) :
    Completes s (execAlertCauseClear c r dies causes t) :=
  keeps_ok (keeps_onDies h)

theorem keeps_execModeChangeEffect {c : Chan} {r : Rank} {d : Die} (h : Keeps s t) :
    Completes s (execModeChangeEffect c r d t) :=
  Completes.ite (keeps_ok (keeps_setDie h)) (keeps_ok h)

theorem keeps_execSre {c : Chan} {r : Rank} (h : Keeps s t) : Completes s (execSre c r t) :=
  keeps_ok (keeps_onRank (fun _ _ h1 => Keeps.ite (keeps_setCause h1) (keeps_setDie h1)) h)

theorem keeps_execSrx {c : Chan} {r : Rank} (h : Keeps s t) : Completes s (execSrx c r t) :=
  keeps_ok (Keeps.ite (Keeps.foldl (fun _ _ h1 => Keeps.ite h1 (keeps_setDie h1)) h) h)

theorem keeps_execZq {c : Chan} {r : Rank} (h : Keeps s t) : Completes s (execZq c r t) := keeps_ok h

theorem keeps_releaseDie {c r d : Nat} (h : Keeps s t) : Keeps s (releaseDie c r d t) :=
  Keeps.ite (Keeps.foldl (fun _ _ h1 => keeps_setGrain h1) (keeps_setDie h)) h

theorem keeps_execResetNRelease {c : Chan} {r : Rank} (h : Keeps s t) : Completes s (execResetNRelease c r t) :=
  keeps_ok (Keeps.ite (Keeps.foldl (fun _ _ h1 => keeps_releaseDie h1) h) h)

theorem keeps_execUndefinedCaCommand {c : Chan} {r : Rank} {cycles : List (BitVec 15)} (h : Keeps s t) :
    Completes s (execUndefinedCaCommand c r cycles t) :=
  keeps_ok (Keeps.ite h (Keeps.ite (keeps_onRank (fun _ _ h1 => keeps_setCause h1) h) (Keeps.ite h (keeps_onRank (fun _ _
    h1 => keeps_setCause (Keeps.ite h1 (keeps_setDie h1))) h))))

theorem keeps_grainCmd {c r : Nat} {act : Nat → Nat → State → State} (ha : ∀ d g u, Keeps s u → Keeps s (act d g u))
    (h : Keeps s t) : Keeps s (grainCmd c r act t) :=
  keeps_onRank (fun d _ h1 => Keeps.ite h1 (Keeps.ite (Keeps.foldl (fun v _ h2 => ha d _ v h2) h1) (keeps_setCause h1))) h

theorem keeps_execSel {c : Chan} {r : Rank} {sel : GrainSel} (h : Keeps s t) : Completes s (execSel c r sel t) :=
  keeps_ok (keeps_onRank (fun _ _ h1 => keeps_setDie h1) h)

theorem keeps_noteActivation {c row port_ r b : Nat} (h : Keeps s t) : Keeps s (noteActivation c row port_ r b t) :=
  Keeps.ite h (Keeps.ite (keeps_setBc h) (keeps_takeFree (Keeps.ite (keeps_setBc h) h)))

theorem keeps_execActg {c : Chan} {r : Rank} {row : RowNo} (h : Keeps s t) : Completes s (execActg c r row t) :=
  Completes.ite (keeps_ok (keeps_countEv h)) (keeps_ok (keeps_grainCmd (fun _ _ _ h1 => keeps_openPair h1) (keeps_countEv
    (Keeps.foldl (fun _ _ h1 => keeps_noteActivation h1) h))))

theorem keeps_execPreg {c : Chan} {r : Rank} (h : Keeps s t) : Completes s (execPreg c r t) :=
  keeps_ok (keeps_grainCmd (fun _ _ _ h1 => keeps_closeRows h1) h)

theorem keeps_execBind {c : Chan} {r : Rank} {lo hi : BitVec 12} {f : Func} (h : Keeps s t) :
    Completes s (execBind c r lo hi f t) :=
  keeps_ok (keeps_grainCmd (fun _ _ _ h1 => keeps_setGrain h1) h)

theorem keeps_noteOwned {c r since : Nat} (h : Keeps s t) : Keeps s (noteOwned c r since t) := keeps_setBc h

theorem keeps_latchStops {c r : Nat} (h : Keeps s t) : Keeps s (latchStops c r t) :=
  keeps_onRank (fun _ _ h1 => Keeps.foldl (fun _ _ h2 => Keeps.ite (keeps_setGrain h2) h2) h1) h

theorem keeps_execHaltg {c : Chan} {r : Rank} (h : Keeps s t) : Completes s (execHaltg c r t) :=
  keeps_ok (keeps_onRank (fun _ _ h1 => Keeps.ite (Keeps.foldl (fun _ _ h2 => keeps_haltCommand h2) h1) (keeps_setCause
    h1)) h)

theorem keeps_execCraw {c : Chan} {r : Rank} {slot : Fin 7} {data : Wide} (h : Keeps s t) :
    Completes s (execCraw c r slot data t) := by
  unfold execCraw
  dsimp only
  refine keeps_ok ?_
  split
  · exact Keeps.ite (keeps_completeP1 (keeps_grainCmd (fun _ _ _ h1 => keeps_writeCra h1) h)) (keeps_grainCmd (fun _ _ _ h1
      => keeps_writeCra h1) h)
  · exact keeps_grainCmd (fun _ _ _ h1 => keeps_writeCra h1) h

theorem keeps_execCrar {c : Chan} {r : Rank} {slot : Fin 8} {grain_ : Fin 16} (h : Keeps s t) :
    Completes s (execCrar c r slot grain_ t) := by
  unfold execCrar
  dsimp only
  refine keeps_ok ?_
  refine Keeps.ite ?_ (keeps_burst h)
  refine Keeps.foldl ?_ (keeps_burst h)
  intro _ _ h1
  split
  · exact keeps_completeP1 h1
  · exact h1

theorem keeps_execTlw {c : Chan} {r : Rank} {index words : Byte} {data : Wide} (h : Keeps s t) :
    Completes s (execTlw c r index words data t) :=
  keeps_ok (keeps_grainCmd (fun _ _ _ h1 => keeps_setGrain h1) h)

theorem keeps_execTlr {c : Chan} {r : Rank} {index : Byte} {grain_ : Fin 16} (h : Keeps s t) :
    Completes s (execTlr c r index grain_ t) :=
  keeps_ok (keeps_burst h)

theorem keeps_statDie {c r d : Nat} (h : Keeps s t) : Keeps s (statDie c r d t) :=
  keeps_setDie (Keeps.foldl (fun _ _ h1 => Keeps.ite (keeps_setGrain h1) h1) h)

theorem keeps_statRank {c : Chan} {r : Rank} (h : Keeps s t) : Keeps s (statRank c r t) :=
  keeps_reapP1 (keeps_onRank (fun _ _ h1 => keeps_statDie h1) (keeps_burst h))

theorem keeps_execStat {c : Chan} {r : Rank} (h : Keeps s t) : Completes s (execStat c r t) := keeps_ok (keeps_statRank h)

theorem keeps_execSpreadEnd {c : Chan} {r : Rank} {grains : BitVec 64} (h : Keeps s t) :
    Completes s (execSpreadEnd c r grains t) :=
  keeps_ok (Keeps.ite (keeps_reapP1 (Keeps.foldl (fun _ _ h1 => keeps_noteOwned h1) (Keeps.foldl (fun _ _ h1 => Keeps.ite
    (keeps_setGrain h1) h1) h))) h)

theorem keeps_parityFault {g : Nat} (h : Keeps s t) : Keeps s (parityFault g t) :=
  Keeps.ite (keeps_mapOut (Keeps.frame (Keeps.ite (keeps_setGrain h) (keeps_faultGrain h)))) (Keeps.frame (Keeps.ite
    (keeps_setGrain h) (keeps_faultGrain h)))

theorem keeps_execGrainStop {g : GrainNo} {parity : Bool} (h : Keeps s t) : Completes s (execGrainStop g parity t) :=
  keeps_ok (Keeps.ite (Keeps.ite (keeps_parityFault h) h) (keeps_serveDeferred (Keeps.ite (keeps_parityFault h) h)))

/-! ### Bank controllers -/

theorem keeps_setLoop {i : Nat} {loc : U16} {active over_ : Bool} {setting : Nat} (h : Keeps s t) :
    Keeps s (setLoop i loc active over_ setting t) :=
  Keeps.ite h (keeps_logDev (Keeps.frame h))

theorem keeps_execRefreshDue {c : Chan} {r : Rank} {bank : BankNo} (h : Keeps s t) :
    Completes s (execRefreshDue c r bank t) := by
  unfold execRefreshDue
  dsimp only
  refine Completes.ite (keeps_ok h) ?_
  refine keeps_ok ?_
  split
  · exact keeps_setOwed h
  · exact keeps_setBc (keeps_sendRefs (keeps_setOwed h))
  · exact Keeps.ite (keeps_setOwed h) (keeps_takeFree (keeps_sendRefs (keeps_setOwed h)))

theorem keeps_execRefreshGuard {c : Chan} {r : Rank} {bank : BankNo} (h : Keeps s t) :
    Completes s (execRefreshGuard c r bank t) := by
  unfold execRefreshGuard
  dsimp only
  refine Completes.ite (keeps_ok h) ?_
  refine keeps_ok ?_
  refine Keeps.foldl (fun _ _ h1 => keeps_haltGrain h1) ?_
  refine Keeps.foldl ?_ h
  intro _ _ h1
  split
  · exact keeps_addCond (keeps_logFn h1)
  · exact keeps_logFn h1

theorem keeps_noteHeat (h : Keeps s t) : Keeps s (noteHeat t) := Keeps.frame h

theorem keeps_execTemperatureRead {c : Chan} {r : Rank} {temps : List Int} (h : Keeps s t) :
    Completes s (execTemperatureRead c r temps t) :=
  Completes.ite (keeps_ok h) (keeps_ok (Keeps.ite (keeps_noteHeat (keeps_setBc (Keeps.foldl (fun _ _ h1 => keeps_setDie h1)
    h))) (keeps_setLoop (keeps_noteHeat (keeps_setBc (Keeps.foldl (fun _ _ h1 => keeps_setDie h1) h))))))

theorem keeps_execNeighbourRefresh {c : Chan} (h : Keeps s t) : Completes s (execNeighbourRefresh c t) := by
  unfold execNeighbourRefresh
  dsimp only
  split
  · exact keeps_ok h
  · exact Completes.ite (keeps_ok h) (keeps_ok (keeps_onRank (fun _ _ h1 => keeps_setOpen h1) (keeps_countEv (keeps_countEv
      (keeps_setBc h)))))

theorem keeps_activate {c r b row port_ : Nat} (h : Keeps s t) : KeepsSome s (activate c r b row port_ t) :=
  KeepsSome.ite (KeepsSome.some h) (KeepsSome.ite KeepsSome.none (KeepsSome.some (keeps_onRank (fun _ _ h1 => keeps_setOpen
    h1) (keeps_countEv (keeps_noteActivation h)))))

theorem keeps_serveWrite {c : Nat} {u : WUnit} (h : Keeps s t) : Keeps s (serveWrite c u t) := by
  unfold serveWrite
  dsimp only
  split
  · exact h
  · split
    case h_1 => exact h
    case h_2 heq => exact keeps_writeUnit (keeps_setBc (keeps_activate h _ heq))

theorem keeps_turnWrites {c : Nat} (h : Keeps s t) : Keeps s (turnWrites c t) :=
  Keeps.ite (keeps_setBc (Keeps.foldl (fun _ _ h1 => Keeps.ite (keeps_serveWrite h1) h1) h)) h

theorem keeps_serveReq {c : Chan} {q : BcReq} (h : Keeps s t) : KeepsSome s (serveReq c q t) := by
  refine KeepsSome.ite KeepsSome.none (KeepsSome.ite (KeepsSome.ite (KeepsSome.some h)
    (KeepsSome.some (keeps_takeFree (keeps_emit h)))) (KeepsSome.ite (KeepsSome.ite KeepsSome.none
    (KeepsSome.some (keeps_turnWrites (keeps_setBc h)))) (KeepsSome.ite (KeepsSome.some (keeps_emit h))
    (KeepsSome.ite KeepsSome.none ?_))))
  split
  case h_1 => exact KeepsSome.none
  case h_2 heq => exact KeepsSome.some (keeps_emit (keeps_noteRead (keeps_takeFlips (keeps_activate h _ heq))))

theorem keeps_noteServed {c port_ : Nat} {panic : Bool} (h : Keeps s t) : Keeps s (noteServed c port_ panic t) :=
  keeps_setBc h

theorem keeps_serveWaiting {c : Chan} {q : Waiting} (h : Keeps s t) : Keeps s (serveWaiting c q t) := by
  unfold serveWaiting
  dsimp only
  split
  case h_1 heq => exact keeps_noteServed (keeps_serveReq (keeps_setBc h) _ heq)
  case h_2 => exact h

theorem keeps_execBcRequestLatch {c : Chan} {req : BcReq} (h : Keeps s t) : Completes s (execBcRequestLatch c req t) :=
  Completes.ite (keeps_ok h) (Completes.ite (keeps_ok (keeps_serveWaiting (keeps_setBc h))) (keeps_ok (Keeps.ite
    (keeps_countEv (keeps_setBc h)) (keeps_setBc h))))

theorem keeps_execThrottleRelease {c : Chan} (h : Keeps s t) : Completes s (execThrottleRelease c t) := by
  unfold execThrottleRelease
  dsimp only
  split
  · exact keeps_ok (keeps_turnWrites h)
  · exact keeps_ok (keeps_serveWaiting (keeps_turnWrites h))

theorem keeps_launch {c : Chan} {r : Rank} {src : Nat} {kind : P1Kind → Bool} {insn : Option U32} {entry : Nat} (h : Keeps
    s t) :
    Keeps s (launch c r src kind insn entry t) := by
  unfold launch
  dsimp only
  split
  · exact Keeps.ite (keeps_grainCmd (fun _ _ _ h1 => keeps_startGrain h1) (keeps_markIssued (keeps_forceRefs (keeps_reapP1
      (keeps_latchStops h))))) (keeps_reapP1 (keeps_latchStops h))
  · exact keeps_countEv (keeps_grainCmd (fun _ _ _ h1 => keeps_startGrain h1) (keeps_reapP1 (keeps_latchStops h)))

theorem keeps_execSprd {c : Chan} {r : Rank} {insn : U32} (h : Keeps s t) : Completes s (execSprd c r insn t) :=
  keeps_ok (keeps_launch h)

theorem keeps_execGrun {c : Chan} {r : Rank} {entry : Fin 2048} (h : Keeps s t) : Completes s (execGrun c r entry t) :=
  keeps_ok (keeps_launch h)

theorem keeps_pollRank {c : Chan} {r : Rank} (h : Keeps s t) : Keeps s (pollRank c r t) :=
  Keeps.ite (keeps_statRank h) (keeps_setBc (keeps_statRank h))

theorem keeps_execStatPoll {c : Chan} {r : Rank} (h : Keeps s t) : Completes s (execStatPoll c r t) :=
  keeps_ok (Keeps.ite (keeps_pollRank h) h)

theorem keeps_execAlertNLow {c : Chan} (h : Keeps s t) : Completes s (execAlertNLow c t) :=
  keeps_ok (Keeps.ite (Keeps.foldl (fun _ _ h1 => keeps_pollRank h1) h) h)

theorem keeps_fenceShips {c r : Nat} (h : Keeps s t) : Keeps s (fenceShips c r t) := by
  unfold fenceShips
  refine Keeps.foldl ?_ h
  intro _ _ h1
  split
  · exact keeps_abortShip h1
  · exact h1

theorem keeps_condP1 {st : Status} {k : P1} (h : Keeps s t) : Keeps s (condP1 st k t) := by
  unfold condP1
  split
  · exact keeps_addCond h
  · exact h

theorem keeps_fenceRank {c r cause : Nat} (h : Keeps s t) : Keeps s (fenceRank c r cause t) :=
  Keeps.foldl (fun _ _ h1 => Keeps.ite (keeps_condP1 h1) (keeps_completeP1 (keeps_condP1 h1))) (keeps_fenceShips
    (keeps_plogAdd (keeps_logDev (keeps_setQuad h))))

theorem keeps_poisonWork {c r : Nat} (h : Keeps s t) : Keeps s (poisonWork c r t) :=
  Keeps.foldl (fun _ _ h1 => keeps_completeP1 (keeps_condP1 (Keeps.foldl (fun _ _ h2 => keeps_setGrain (keeps_haltGrain
    h2)) (keeps_scribble h1)))) h

theorem keeps_execRankFailure {c : Chan} {r : Rank} {cause : RankCause} {dpa : Nat} (h : Keeps s t) :
    Completes s (execRankFailure c r cause dpa t) := by
  unfold execRankFailure
  dsimp only
  refine Completes.ite (keeps_ok h) ?_
  refine Completes.ite ?_ (Completes.ite (keeps_ok (Keeps.ite (keeps_poisonWork (Keeps.frame h)) (Keeps.frame h)))
    (Completes.ite (keeps_ok (keeps_plogAdd (keeps_setQuad (Keeps.ite (keeps_poisonWork (keeps_logDev (Keeps.frame h)))
    (keeps_logDev (Keeps.frame h)))))) (keeps_ok (keeps_fenceRank (Keeps.ite (keeps_poisonWork (keeps_logDev (Keeps.frame
    h))) (keeps_logDev (Keeps.frame h)))))))
  split
  · exact keeps_ok (Keeps.ite (keeps_poisonWork (keeps_logDev (Keeps.frame h))) (keeps_logDev (Keeps.frame h)))
  · exact keeps_ok (keeps_fenceRank (keeps_setQuad (Keeps.ite (keeps_poisonWork (keeps_logDev (Keeps.frame h)))
      (keeps_logDev (Keeps.frame h)))))

theorem keeps_execMigrationStart {q : Quad} (h : Keeps s t) : Completes s (execMigrationStart q t) := by
  unfold execMigrationStart
  dsimp only
  split
  · exact keeps_ok h
  · exact Completes.ite (keeps_ok h) (keeps_ok (keeps_logDev (Keeps.foldl (fun _ _ h1 => keeps_setDie h1) (keeps_setQuad
      h))))

theorem keeps_copyRow {c r c2 bank row : Nat} (h : Keeps s t) : Keeps s (copyRow c r c2 bank row t) :=
  Keeps.foldl (fun _ _ h1 => h1.of_fields rfl le_rfl le_rfl
    (fun hm => foldl_wf (fun _ _ hb => setByte_wf _ _ _ hb) (filter_wf _ _ hm))) h

theorem keeps_moveNames {c r c2 bank row : Nat} (h : Keeps s t) : Keeps s (moveNames c r c2 bank row t) :=
  keeps_setBc (keeps_setBc (Keeps.frame h))

theorem keeps_writeAgain {qn c2 bank row : Nat} (h : Keeps s t) : Keeps s (writeAgain qn c2 bank row t) :=
  Keeps.foldl (fun _ _ h1 => keeps_writeUnit h1) (keeps_setQuad h)

theorem keeps_noteRowRead {c r bank row : Nat} (h : Keeps s t) : Keeps s (noteRowRead c r bank row t) :=
  Keeps.foldl (fun _ _ h1 => keeps_noteRead h1) h

theorem keeps_execMigrationRowCopy {q : Quad} (h : Keeps s t) : Completes s (execMigrationRowCopy q t) := by
  unfold execMigrationRowCopy
  dsimp only
  split
  · exact Completes.ite (keeps_ok h) (keeps_ok (keeps_setQuad (keeps_writeAgain (keeps_moveNames (keeps_copyRow
      (keeps_noteRowRead h))))))
  · exact keeps_ok h

theorem keeps_moveGrain {c r c2 i : Nat} (h : Keeps s t) : Keeps s (moveGrain c r c2 i t) :=
  Keeps.ite (keeps_mapOut (keeps_setGrain h)) (keeps_setGrain (keeps_setGrain h))

theorem keeps_execMigrationComplete {q : Quad} (h : Keeps s t) : Completes s (execMigrationComplete q t) := by
  unfold execMigrationComplete
  dsimp only
  split
  · with_reducible exact Completes.ite (keeps_ok h) (keeps_ok (keeps_plogAdd (keeps_logDev (Keeps.foldl (fun _ _ h1 =>
      keeps_setDie h1) (keeps_setQuad (Keeps.frame (Keeps.foldl (fun _ _ h1 => keeps_moveGrain h1) h)))))))
  · with_reducible exact keeps_ok h

theorem keeps_execBankPatrolScrub {c : Chan} {r : Rank} {bank : BankNo} {row : RowNo} {col : ColNo} {flips : Flips} (h :
    Keeps s t) :
    Completes s (execBankPatrolScrub c r bank row col flips t) :=
  Completes.ite (keeps_ok h) (keeps_ok (Keeps.ite (Keeps.foldl (fun _ _ h1 => keeps_setColAt h1) (keeps_noteRead
    (keeps_takeFlips h))) (keeps_noteRead (keeps_takeFlips h))))

theorem keeps_recordTrn {c : Nat} {v : TrainResult} (h : Keeps s t) : Keeps s (recordTrn c t v) := Keeps.frame h

theorem keeps_setVref {c : Nat} {v : TrainResult} (h : Keeps s t) : Keeps s (setVref c t v) := by
  unfold setVref
  dsimp only
  refine Keeps.ite h ?_
  split
  · exact keeps_onRank (fun _ _ h1 => keeps_setDie h1) h
  · exact Keeps.ite (keeps_setDie h) h
  · exact h

theorem keeps_holdReset {c r : Nat} (h : Keeps s t) : Keeps s (holdReset c r t) :=
  Keeps.foldl (fun _ _ h1 => keeps_setDie h1) h

theorem keeps_trainFail {c : Nat} {v : TrainResult} (h : Keeps s t) : Keeps s (trainFail c t v) := by
  unfold trainFail
  dsimp only
  refine Keeps.ite h ?_
  refine Keeps.ite ?_ (Keeps.ite (Keeps.ite (keeps_holdReset (keeps_plogAdd (keeps_setQuad (keeps_logDev h))))
    (keeps_plogAdd (keeps_setQuad (keeps_logDev h)))) (keeps_fenceRank (Keeps.ite (keeps_holdReset (keeps_logDev h))
    (keeps_logDev h))))
  split
  · exact keeps_fenceRank (keeps_holdReset (keeps_plogAdd (keeps_setQuad (keeps_logDev h))))
  · exact keeps_holdReset (keeps_plogAdd (keeps_setQuad (keeps_logDev h)))

theorem keeps_settleQuad {qn : Nat} (h : Keeps s t) : Keeps s (settleQuad qn t) := by
  unfold settleQuad
  dsimp only
  refine Keeps.ite h ?_
  split
  · exact h
  · exact Keeps.ite (keeps_fenceRank (keeps_setQuad h)) (keeps_plogAdd (keeps_setQuad h))

theorem keeps_wakeRank {c r : Nat} (h : Keeps s t) : Keeps s (wakeRank c r t) :=
  Keeps.ite h (Keeps.foldl (fun _ _ h1 => keeps_releaseDie h1) h)

theorem keeps_bringUp {c r : Nat} (h : Keeps s t) : Keeps s (bringUp c r t) :=
  Keeps.ite h (Keeps.foldl (fun _ _ h1 => keeps_setDie h1) h)

theorem keeps_keepTrainingRow {c r : Nat} (h : Keeps s t) : Keeps s (keepTrainingRow c r t) :=
  Keeps.foldl (fun _ _ h1 => Keeps.foldl (fun _ _ h2 => keeps_setColAt h2) (keeps_noteRead h1)) h

theorem keeps_execBcRelease {c : Chan} {results : List TrainResult} (h : Keeps s t) :
    Completes s (execBcRelease c results t) :=
  Completes.ite (keeps_ok h) (Completes.ite (keeps_ok (keeps_releaseHeld (keeps_settleQuad (keeps_setBc (Keeps.frame
    (Keeps.foldl (fun _ _ h1 => keeps_bringUp h1) (Keeps.foldl (fun _ _ h1 => keeps_trainFail (keeps_setVref
    (keeps_recordTrn h1))) (Keeps.foldl (fun _ _ h1 => keeps_wakeRank h1) h)))))))) (Completes.ite (keeps_ok
    (keeps_releaseHeld (keeps_setBc (Keeps.frame (Keeps.ite h (Keeps.foldl (fun _ _ h1 => keeps_trainFail (keeps_setVref
    (keeps_recordTrn h1))) (Keeps.foldl (fun _ _ h1 => Keeps.ite (keeps_keepTrainingRow h1) h1) h))))))) (keeps_ok h)))

theorem keeps_resumeMig {qn : Nat} (h : Keeps s t) : Keeps s (resumeMig qn t) := Keeps.ite h (keeps_setQuad h)

theorem keeps_moveRank {c r n : Nat} {sp : BitVec 2} (h : Keeps s t) : Keeps s (moveRank c r n sp t) :=
  Keeps.foldl (fun _ _ h1 => keeps_setOwed h1) (Keeps.foldl (fun _ _ h1 => keeps_setDie h1) (keeps_countEv h))

theorem keeps_execFrequencyChangeDone {c : Chan} {good : Bool} (h : Keeps s t) :
    Completes s (execFrequencyChangeDone c good t) :=
  Completes.ite (keeps_ok h) (keeps_ok (keeps_resumeMig (Keeps.ite (Keeps.foldl (fun _ _ h1 => Keeps.ite (keeps_moveRank
    h1) h1) (keeps_setBc h)) (keeps_logDev (Keeps.frame (Keeps.foldl (fun _ _ h1 => Keeps.ite (keeps_moveRank h1) h1)
    (keeps_setBc h)))))))

/-! ### The Marl -/

theorem keeps_setSramLine {q : Quad} {l : Nat} {v : SramLine} (h : Keeps s t) : Keeps s (setSramLine q l v t) := by
  unfold setSramLine
  dsimp only
  split
  · exact keeps_touchBound (Keeps.frame h)
  · exact Keeps.frame h

theorem keeps_commitSram {q : Quad} {l : Nat} {d : Line} {mask : BitVec 64} {poison : Bool} (h : Keeps s t) :
    Keeps s (commitSram q l d mask poison t) :=
  keeps_setSramLine h

theorem keeps_commitTarget {v : MarlTarget} {d : Line} {mask : BitVec 64} {poison : Bool} (h : Keeps s t) :
    Keeps s (commitTarget v d mask poison t) := by
  unfold commitTarget
  split
  · exact keeps_commitSram h
  · exact keeps_commitLine h
  · exact keeps_commitLine h

theorem keeps_execMarlWriteCommit {v : MarlTarget} {data : Line} {mask : BitVec 64} {poison : Bool} (h : Keeps s t) :
    Completes s (execMarlWriteCommit v data mask poison t) :=
  Completes.ite (keeps_ok (keeps_commitTarget h)) (keeps_ok h)

theorem keeps_poisonTarget {v : MarlTarget} (h : Keeps s t) : Keeps s (poisonTarget v t) := by
  unfold poisonTarget
  dsimp only
  split
  · exact keeps_takeFree (Keeps.frame h)
  · refine keeps_takeFree ?_
    split
    · refine Keeps.frame ?_
      split
      · exact Keeps.frame h
      · exact keeps_setCopy h
      · exact h
    · refine keeps_setCopy ?_
      split
      · exact Keeps.frame h
      · exact keeps_setCopy h
      · exact h
    · split
      · exact Keeps.frame h
      · exact keeps_setCopy h
      · exact h

theorem keeps_noteRow {slice row : Nat} (h : Keeps s t) : Keeps s (noteRow slice row t) := by
  unfold noteRow
  dsimp only
  exact Keeps.ite (keeps_logDev (Keeps.frame h)) (Keeps.frame h)

theorem keeps_eccAct {v : MarlTarget} {e : Ecc} (h : Keeps s t) : Keeps s (eccAct v e t) := by
  unfold eccAct
  split
  · exact h
  · exact h
  · exact keeps_logDev (keeps_countEv h)
  · exact keeps_noteRow (keeps_logDev (keeps_countEv (keeps_poisonTarget h)))

theorem keeps_execMarlRead {v : MarlTarget} {ecc : Ecc} (h : Keeps s t) : Completes s (execMarlRead v ecc t) :=
  Completes.ite (keeps_ok (keeps_emit (keeps_eccAct h))) (keeps_ok h)

theorem keeps_execMarlPatrolScrub {v : MarlTarget} {ecc : Ecc} (h : Keeps s t) :
    Completes s (execMarlPatrolScrub v ecc t) :=
  Completes.ite (keeps_ok (keeps_eccAct h)) (keeps_ok h)

theorem keeps_writeBackLine {w : Nat} (h : Keeps s t) : Keeps s (writeBackLine w t) :=
  Keeps.ite (keeps_countEv (keeps_writeBackAll h)) (keeps_writeBackAll h)

theorem keeps_writeBackReady {ws : List Nat} (h : Keeps s t) : Keeps s (writeBackReady ws t) :=
  Keeps.foldl (fun _ _ h1 => Keeps.ite (keeps_writeBackLine h1) h1) h

theorem keeps_execWriteBack {word : Nat} (h : Keeps s t) : Completes s (execWriteBack word t) :=
  Completes.ite (keeps_ok (keeps_writeBackLine h)) (keeps_ok h)

theorem keeps_execPassLaneAgeExpiry {c : Chan} {r : Fin 2} (h : Keeps s t) : Completes s (execPassLaneAgeExpiry c r t) :=
  keeps_ok (Keeps.ite (keeps_writeBackReady h) h)

theorem keeps_execRegionRelease {id : Nat} (h : Keeps s t) : Completes s (execRegionRelease id t) :=
  Completes.ite (keeps_ok (keeps_releaseRegion (keeps_writeBackReady h))) (keeps_ok h)

theorem keeps_execPreCommandWriteBack {c : Chan} (h : Keeps s t) : Completes s (execPreCommandWriteBack c t) := by
  unfold execPreCommandWriteBack
  split
  · exact keeps_ok h
  · exact keeps_ok (keeps_writeBackReady h)

theorem keeps_execMarlPartTakeEffect (h : Keeps s t) : Completes s (execMarlPartTakeEffect t) :=
  Completes.ite (keeps_ok (Keeps.frame h)) (keeps_ok h)

end Sys2Proof.Machine
end

section
/-! The host side, the engines, serving, power and the rack keep the queue and soundness. -/

namespace Sys2Proof.Machine

variable {s t : State}

/-! ### The host side -/

theorem keeps_flrCancel {f : Func} (h : Keeps s t) : Keeps s (flrCancel f t) := by
  unfold flrCancel
  dsimp only
  refine Keeps.foldl (fun _ _ h1 => keeps_freePlace (Keeps.frame h1)) ?_
  refine Keeps.foldl ?_ (Keeps.foldl (fun _ _ h1 => keeps_cancelDesc h1) h)
  intro _ _ h1
  split
  · exact keeps_setDesc h1
  · exact h1

theorem keeps_flrPages {f : Func} (h : Keeps s t) : Keeps s (flrPages f t) :=
  Keeps.frame (Keeps.foldl (fun _ _ h1 => keeps_setPageOwner h1) h)

theorem keeps_flrSync {f : Func} (h : Keeps s t) : Keeps s (flrSync f t) := Keeps.frame (Keeps.ite (keeps_wipeFlags h) h)

theorem keeps_execFlrVf {f : Func} (h : Keeps s t) : Completes s (execFlrVf f t) := by
  unfold execFlrVf
  dsimp only
  with_reducible exact Completes.ite (keeps_ok h) (Completes.ite (keeps_ok (Keeps.frame h)) (Completes.ite (keeps_ok h)
    (keeps_ok (keeps_noteOrder (keeps_endFlr (Keeps.frame (keeps_flrSync (keeps_flrPages (keeps_setRing (keeps_flrCancel
    (keeps_needResync (keeps_disableRing h))))))))))))

theorem keeps_execHdmDecoderCommit {dec : Fin 2} {v : HdmSetting} (h : Keeps s t) :
    Completes s (execHdmDecoderCommit dec v t) :=
  Completes.ite (keeps_ok h) (keeps_ok (Keeps.frame h))

theorem keeps_poisonAnswer {hpa : U64} (h : Keeps s t) : Keeps s (poisonAnswer hpa t) := keeps_takeFree (keeps_emit h)

theorem keeps_strayAnswer {hpa : U64} (h : Keeps s t) : Keeps s (strayAnswer hpa t) := keeps_takeFree (keeps_emit h)

theorem keeps_noteLineRead {ws : List Nat} (h : Keeps s t) : Keeps s (noteLineRead ws t) := by
  unfold noteLineRead
  dsimp only
  split
  · exact keeps_noteRead h
  · exact h

theorem keeps_execCxlMemRead {hpa : U64} (h : Keeps s t) : Completes s (execCxlMemRead hpa t) := by
  unfold execCxlMemRead
  dsimp only
  refine Completes.ite (keeps_ok h) ?_
  refine Completes.ite (keeps_ok (keeps_poisonAnswer h)) ?_
  split
  · exact keeps_ok (keeps_strayAnswer h)
  · exact Completes.ite (keeps_ok (keeps_poisonAnswer h)) (Completes.ite (keeps_ok h) (keeps_ok (keeps_emit
      (keeps_noteLineRead h))))

theorem keeps_commitThrough {ws : List Nat} {d : Line} {mask : BitVec 64} {poison : Bool} {c r : Nat} (h : Keeps s t) :
    Keeps s (commitThrough ws d mask poison c r t) :=
  Keeps.ite (keeps_writeWords h) (keeps_commitLine h)

theorem keeps_execCxlMemWrite {hpa : U64} {data : Line} {mask : BitVec 64} (h : Keeps s t) :
    Completes s (execCxlMemWrite hpa data mask t) := by
  unfold execCxlMemWrite
  dsimp only
  refine Completes.ite (keeps_ok h) ?_
  refine Completes.ite (keeps_ok (keeps_emit h)) ?_
  split
  · exact keeps_ok (keeps_emit h)
  · exact Completes.ite (keeps_ok (keeps_emit (keeps_bump h))) (Completes.ite (keeps_ok (keeps_emit (keeps_bump h)))
      (Completes.ite (keeps_ok (keeps_emit (keeps_bump h))) (Completes.ite (keeps_ok h) (keeps_ok (keeps_emit
      (keeps_commitLine h))))))

/-! ### The mailbox -/

theorem keeps_mbReply {path : MbPath} {code : MbCode} {ext : Nat} {payload : List Byte} (h : Keeps s t) :
    Keeps s (mbReply path code ext payload t) := by
  unfold mbReply
  dsimp only
  split
  · exact keeps_msix (Keeps.frame (keeps_emit h))
  · exact keeps_emit h

theorem keeps_mbRun {path : MbPath} {k : MbClass} {act : State → State} (ha : ∀ u, Keeps s u → Keeps s (act u)) (h : Keeps s t) :
    Completes s (mbRun path k act t) :=
  Completes.ite (keeps_ok h) (Completes.ite (keeps_ok (keeps_mbReply h)) (Completes.ite (keeps_ok (keeps_mbReply h))
    (keeps_ok (ha t h))))

theorem keeps_mbInvalid {path : MbPath} (h : Keeps s t) : Keeps s (mbInvalid path t) := keeps_mbReply h

theorem keeps_mbFree {path : MbPath} {named : List Byte} (h : Keeps s t) : Keeps s (mbFree path named t) :=
  keeps_takeFree (keeps_mbReply h)

theorem keeps_execGetEventRecords {path : MbPath} {log : EvLog} {count : Nat} (h : Keeps s t) :
    Completes s (execGetEventRecords path log count t) :=
  keeps_mbRun (fun _ h1 => keeps_mbReply (h1.of_fields rfl (List.length_map _).le le_rfl id)) h

theorem keeps_execClearEventRecords {path : MbPath} {log : EvLog} {handles : List U16} (h : Keeps s t) :
    Completes s (execClearEventRecords path log handles t) :=
  keeps_mbRun (fun _ h1 => keeps_mbReply (h1.of_fields rfl (List.length_filter_le ..) le_rfl id)) h

theorem keeps_execGetFwInfo {path : MbPath} (h : Keeps s t) : Completes s (execGetFwInfo path t) :=
  keeps_mbRun (fun _ h1 => keeps_mbFree h1) h

theorem keeps_execTransferFw {path : MbPath} {slot : Fin 2} {image : List Byte} (h : Keeps s t) :
    Completes s (execTransferFw path slot image t) :=
  keeps_mbRun (fun _ h1 => Keeps.ite (keeps_mbReply (Keeps.frame h1)) (keeps_mbInvalid h1)) h

theorem keeps_execActivateFw {path : MbPath} {slot : Fin 2} {online : Bool} (h : Keeps s t) :
    Completes s (execActivateFw path slot online t) :=
  keeps_mbRun (fun _ h1 => Keeps.ite (keeps_mbReply h1) (keeps_mbReply (Keeps.frame h1))) h

theorem keeps_execGetTimestamp {path : MbPath} (h : Keeps s t) : Completes s (execGetTimestamp path t) :=
  keeps_mbRun (fun _ h1 => keeps_mbReply h1) h

theorem keeps_execSetTimestamp {path : MbPath} {v : U64} (h : Keeps s t) : Completes s (execSetTimestamp path v t) :=
  keeps_mbRun (fun _ h1 => keeps_mbReply (Keeps.frame h1)) h

theorem keeps_execGetSupportedLogs {path : MbPath} (h : Keeps s t) : Completes s (execGetSupportedLogs path t) :=
  keeps_mbRun (fun _ h1 => keeps_mbFree h1) h

theorem keeps_execGetLog {path : MbPath} {index : Nat} (h : Keeps s t) : Completes s (execGetLog path index t) :=
  keeps_mbRun (fun _ h1 => Keeps.ite (keeps_mbInvalid h1) (keeps_mbReply h1)) h

theorem keeps_execIdentifyMemoryDevice {path : MbPath} (h : Keeps s t) : Completes s (execIdentifyMemoryDevice path t) :=
  keeps_mbRun (fun _ h1 => keeps_mbFree h1) h

theorem keeps_execGetHealthInfo {path : MbPath} (h : Keeps s t) : Completes s (execGetHealthInfo path t) :=
  keeps_mbRun (fun _ h1 => keeps_mbFree h1) h

theorem keeps_execGetPoisonList {path : MbPath} (h : Keeps s t) : Completes s (execGetPoisonList path t) :=
  keeps_mbRun (fun _ h1 => keeps_mbReply h1) h

theorem keeps_execKeepGetInfo {path : MbPath} {payload : List Byte} (h : Keeps s t) :
    Completes s (execKeepGetInfo path payload t) :=
  keeps_mbRun (fun _ h1 => Keeps.ite (keeps_mbInvalid h1) (keeps_mbReply h1)) h

theorem keeps_mbContest {path : MbPath} {o : Obj} {k : Req} {forbidden : Bool} {act : State → State}
    (ha : ∀ u, Keeps s u → Keeps s (act u)) (h : Keeps s t) : Keeps s (mbContest path o k forbidden act t) := by
  have hgo : Keeps s (if forbidden then mbInvalid path t else contend [k] (mbOrder path o k) (act t)) :=
    Keeps.ite (keeps_mbInvalid h) (keeps_contend (ha t h))
  unfold mbContest
  dsimp only
  split
  · exact Keeps.ite (keeps_mbReply (keeps_logPreempted (keeps_logCollision h))) hgo
  · exact hgo

theorem keeps_execKeepSetSize {path : MbPath} {payload : List Byte} (h : Keeps s t) :
    Completes s (execKeepSetSize path payload t) :=
  keeps_mbRun (fun _ h1 => Keeps.ite (keeps_mbInvalid h1) (Keeps.ite (keeps_mbReply (keeps_logAs (Keeps.frame h1)))
    (Keeps.ite (keeps_mbReply (keeps_logAs (Keeps.frame h1))) (keeps_mbContest (fun _ h2 => keeps_mbReply (keeps_resizeKeep
    (Keeps.frame h2))) h1)))) h

theorem keeps_judgeAll (h : Keeps s t) : Keeps s (judgeAll t) :=
  keeps_checkShips (keeps_chooseParent (Keeps.foldl (fun _ _ h1 => keeps_judgePort h1) h))

theorem keeps_execPlanLoad {path : MbPath} {payload : List Byte} (h : Keeps s t) :
    Completes s (execPlanLoad path payload t) :=
  keeps_mbRun (fun _ h1 => Keeps.ite (keeps_mbInvalid h1) (keeps_mbContest (fun _ h2 => keeps_mbReply (keeps_judgeAll
    (Keeps.frame h2))) h1)) h

theorem keeps_execPlanGet {path : MbPath} {payload : List Byte} (h : Keeps s t) :
    Completes s (execPlanGet path payload t) :=
  keeps_mbRun (fun _ h1 => Keeps.ite (keeps_mbInvalid h1) (keeps_mbReply h1)) h

theorem keeps_execRampSet {path : MbPath} {payload : List Byte} (h : Keeps s t) :
    Completes s (execRampSet path payload t) :=
  keeps_mbRun (fun _ h1 => Keeps.ite (keeps_mbInvalid h1) (keeps_mbContest (fun _ h2 => keeps_mbReply (Keeps.frame h2))
    h1)) h

theorem keeps_execRampGet {path : MbPath} {payload : List Byte} (h : Keeps s t) :
    Completes s (execRampGet path payload t) :=
  keeps_mbRun (fun _ h1 => Keeps.ite (keeps_mbInvalid h1) (keeps_mbReply h1)) h

theorem keeps_execUnsupportedMailboxCommand {path : MbPath} {opcode : U16} (h : Keeps s t) :
    Completes s (execUnsupportedMailboxCommand path opcode t) :=
  Completes.ite (keeps_ok h) (keeps_mbRun (fun _ h1 => keeps_mbReply h1) h)

/-! ### SPDM and IDE -/

theorem keeps_doe {ws : List Nat} {bs : List Byte} (h : Keeps s t) : Keeps s (doe ws bs t) := keeps_emit h

theorem keeps_doeFree {ws : List Nat} (h : Keeps s t) : Keeps s (doeFree ws t) := keeps_takeFree (keeps_doe h)

theorem keeps_doeError {code : Nat} (h : Keeps s t) : Keeps s (doeError code t) := keeps_doe h

theorem keeps_spdmRun {before : Bool} {act : State → State} (ha : ∀ u, Keeps s u → Keeps s (act u)) (h : Keeps s t) :
    Completes s (spdmRun before act t) :=
  Completes.ite (keeps_ok h) (Completes.ite (keeps_ok (ha t h)) (keeps_ok (keeps_doeError h)))

theorem keeps_execGetVersion (h : Keeps s t) : Completes s (execGetVersion t) :=
  keeps_spdmRun (fun _ h1 => keeps_doe (Keeps.frame h1)) h

theorem keeps_execGetCapabilities {flags : U32} (h : Keeps s t) : Completes s (execGetCapabilities flags t) :=
  keeps_spdmRun (fun _ h1 => keeps_doeFree (Keeps.frame h1)) h

theorem keeps_execNegotiateAlgorithms {asym hash : U32} (h : Keeps s t) :
    Completes s (execNegotiateAlgorithms asym hash t) :=
  keeps_spdmRun (fun _ h1 => keeps_doe (Keeps.frame h1)) h

theorem keeps_execGetDigests (h : Keeps s t) : Completes s (execGetDigests t) :=
  keeps_spdmRun (fun _ h1 => keeps_doeFree h1) h

theorem keeps_execGetCertificate {slot off len : Nat} (h : Keeps s t) : Completes s (execGetCertificate slot off len t) :=
  keeps_spdmRun (fun _ h1 => Keeps.ite (keeps_doeFree h1) (keeps_doeError h1)) h

theorem keeps_execChallenge {slot : Nat} {nonce : BitVec 256} (h : Keeps s t) : Completes s (execChallenge slot nonce t) :=
  keeps_spdmRun (fun _ h1 => Keeps.ite (keeps_takeFree (keeps_doe h1)) (keeps_doeError h1)) h

theorem keeps_execGetMeasurements {index : Nat} (h : Keeps s t) : Completes s (execGetMeasurements index t) :=
  keeps_spdmRun (fun _ h1 => Keeps.ite (keeps_doe h1) (Keeps.ite (keeps_takeFree (keeps_doe h1)) (Keeps.ite (keeps_takeFree
    (keeps_doe h1)) (keeps_doeError h1)))) h

theorem keeps_execKeyExchange {data : List Byte} (h : Keeps s t) : Completes s (execKeyExchange data t) :=
  keeps_spdmRun (fun _ h1 => keeps_doeFree (Keeps.frame h1)) h

theorem keeps_execFinish {verify : List Byte} (h : Keeps s t) : Completes s (execFinish verify t) :=
  keeps_spdmRun (fun _ h1 => Keeps.ite (keeps_takeFree (keeps_doe (Keeps.frame h1))) (keeps_takeFree (keeps_doeError
    (Keeps.frame h1)))) h

theorem keeps_execEndSession (h : Keeps s t) : Completes s (execEndSession t) :=
  keeps_spdmRun (fun _ h1 => keeps_doe (Keeps.frame h1)) h

theorem keeps_execIdeKm {mem skid : Bool} {key : BitVec 256} (h : Keeps s t) : Completes s (execIdeKm mem skid key t) :=
  keeps_spdmRun (fun _ h1 => keeps_doe (Keeps.frame h1)) h

theorem keeps_execCdatRead (h : Keeps s t) : Completes s (execCdatRead t) :=
  Completes.ite (keeps_ok (keeps_doe h)) (keeps_ok h)

/-! ### Operands of the engines -/

theorem keeps_setTaint {n res : Nat} {yes : Bool} {p : Place} (h : Keeps s t) : Keeps s (setTaint n res yes p t) := by
  unfold setTaint
  dsimp only
  refine Keeps.ite ?_ (keeps_setMx h)
  split
  · exact keeps_logFn (keeps_setMx h)
  · exact keeps_logDev (keeps_setMx h)

theorem keeps_putHead {q : Nat} {k : QCmd} (h : Keeps s t) : Keeps s (putHead q k t) := keeps_setQueue h

theorem keeps_headDone {q : Nat} {k : QCmd} {result : Option U32} (h : Keeps s t) : Keeps s (headDone q k result t) :=
  keeps_putHead h

theorem keeps_clipEngine {n : Nat} {k : QCmd} {srcs : List Src} (h : Keeps s t) : Keeps s (clipEngine n k srcs t) :=
  keeps_clipDesc h

theorem keeps_completeFlag {x : CtxNo} {p : Push} (h : Keeps s t) : Keeps s (completeFlag x p t) := by
  unfold completeFlag
  dsimp only
  split
  · split
    · exact keeps_faultCtx h
    · exact Keeps.ite (keeps_faultCtx h) (keeps_countSet (keeps_setFlag h))
  · exact h

theorem keeps_completeCmd {q : Nat} {k : QCmd} (h : Keeps s t) : Keeps s (completeCmd q k t) := by
  unfold completeCmd
  dsimp only
  split
  · exact keeps_setQueue h
  · split
    · exact keeps_setQueue h
    · refine keeps_settleCtx ?_
      split
      · exact keeps_arriveWire (keeps_completeFlag (Keeps.ite (keeps_takeFree (keeps_setCtx (keeps_setQueue h)))
          (keeps_setCtx (keeps_setQueue h))))
      · exact keeps_completeFlag (Keeps.ite (keeps_takeFree (keeps_setCtx (keeps_setQueue h))) (keeps_setCtx
          (keeps_setQueue h)))

/-! ### Matrix engines -/

theorem keeps_mxDone {q n : Nat} {k : QCmd} {srcs : List Src} {p : Bool} {result : Option U32} (h : Keeps s t) :
    Keeps s (mxDone q n k srcs p result t) :=
  Keeps.ite (keeps_addCond (keeps_headDone (keeps_clipEngine h))) (keeps_headDone (keeps_clipEngine h))

theorem keeps_loadWeights {n : Nat} {k : QCmd} {buf : Nat} {fmt : Fmt} {ecc : Ecc} (h : Keeps s t) :
    Keeps s (loadWeights n k buf fmt ecc t) :=
  keeps_mxDone (keeps_setTaint (keeps_takeFree (keeps_setMx h)))

theorem keeps_execWeightLoad {n : MxNo} {ecc : Ecc} (h : Keeps s t) : Completes s (execWeightLoad n ecc t) := by
  unfold execWeightLoad
  split
  · exact keeps_ok h
  · split
    · exact keeps_ok (keeps_loadWeights h)
    · exact keeps_ok h

theorem keeps_runPass {n : Nat} {k : QCmd} {fa : Fmt} {buf bank : Nat} {start : Bool} {ecc : Ecc} (h : Keeps s t) :
    Keeps s (runPass n k fa buf bank start ecc t) :=
  keeps_mxDone (keeps_countEv (keeps_setTaint (keeps_takeFree (keeps_setMx h))))

theorem keeps_execProductPass {n : MxNo} {ecc : Ecc} (h : Keeps s t) : Completes s (execProductPass n ecc t) := by
  unfold execProductPass
  split
  · exact keeps_ok h
  · split
    · exact keeps_ok (keeps_runPass h)
    · exact keeps_ok h

/-! ### The Slip -/

theorem keeps_commitLines {key : Nat} {p : Bool} {l : Tab (Nat × Nat)} (h : Keeps s t) : Keeps s (commitLines key p l t) :=
  Keeps.foldl (fun _ _ h1 => keeps_commitSram h1) h

theorem keeps_writeOut {n : Nat} {c : SlipCmd} {place : Place} {out : Src} {r : List SlipOut × Nat} {p : Bool} {s0 : State}
    (h : Keeps s t) :
    Keeps s (writeOut n c place out r p s0 t) := by
  unfold writeOut
  dsimp only
  split
  · exact keeps_commitLines h
  · exact keeps_setTaint (keeps_setMx h)
  · exact keeps_setTaint (keeps_setMx h)
  · exact h

theorem keeps_writeMask {n : Nat} {c : SlipCmd} {place : Place} {bits_ : List ((Nat × Nat) × Bool)} {p : Bool} (h : Keeps s
    t) :
    Keeps s (writeMask n c place bits_ p t) := by
  unfold writeMask
  dsimp only
  split
  · exact h
  · exact keeps_setTaint (keeps_setMx h)

theorem keeps_runSlip {n : Nat} {k : QCmd} {c : SlipCmd} {ecc : Ecc} (h : Keeps s t) : Keeps s (runSlip n k c ecc t) :=
  keeps_mxDone (keeps_countEv (keeps_writeMask (keeps_writeOut (keeps_takeFree h))))

theorem keeps_runWord {n : Nat} {k : QCmd} {word : Nat} (h : Keeps s t) : Keeps s (runWord n k word t) :=
  keeps_mxDone (keeps_takeFree h)

theorem keeps_execSlipCommand {n : MxNo} {ecc : Ecc} (h : Keeps s t) : Completes s (execSlipCommand n ecc t) := by
  unfold execSlipCommand
  split
  · exact keeps_ok h
  · split
    · exact keeps_ok (keeps_runSlip h)
    · exact keeps_ok (keeps_runWord h)
    · exact keeps_ok h

/-! ### Layout engines -/

theorem keeps_lyWrite {a : LyAt} {line : Nat} {d : Line} {mask : BitVec 64} {p : Bool} (h : Keeps s t) :
    Keeps s (lyWrite a line d mask p t) := by
  unfold lyWrite
  dsimp only
  split
  · exact keeps_commitSram h
  · exact Keeps.ite h (keeps_commitThrough h)

theorem keeps_lyNote {a : LyAt} {lines : List Nat} (h : Keeps s t) : Keeps s (lyNote a lines t) := by
  unfold lyNote
  split
  · exact h
  · exact Keeps.foldl (fun _ _ h1 => Keeps.ite h1 (keeps_noteLineRead h1)) h

theorem keeps_lyStep {k : QCmd} {step : Nat} {ecc : Ecc} (h : Keeps s t) : Keeps s (lyStep k step ecc t) :=
  keeps_clipDesc (Keeps.ite (keeps_addCond (Keeps.ite (keeps_addCond (Keeps.foldl (fun _ _ h1 => keeps_lyWrite h1)
    (keeps_lyNote (keeps_lyNote (Keeps.frame h))))) (Keeps.foldl (fun _ _ h1 => keeps_lyWrite h1) (keeps_lyNote
    (keeps_lyNote (Keeps.frame h)))))) (Keeps.ite (keeps_addCond (Keeps.foldl (fun _ _ h1 => keeps_lyWrite h1)
    (keeps_lyNote (keeps_lyNote (Keeps.frame h))))) (Keeps.foldl (fun _ _ h1 => keeps_lyWrite h1) (keeps_lyNote
    (keeps_lyNote (Keeps.frame h))))))

theorem keeps_noteCopy {k : QCmd} (h : Keeps s t) : Keeps s (noteCopy k t) := by
  unfold noteCopy
  split
  · exact keeps_noteSpan h
  · exact h

theorem keeps_execLayoutCommand {n : LyNo} (h : Keeps s t) : Completes s (execLayoutCommand n t) := by
  unfold execLayoutCommand
  dsimp only
  split
  · exact keeps_ok h
  · exact Completes.ite (keeps_ok h) (keeps_ok (Keeps.frame (keeps_noteCopy (keeps_putHead h))))

theorem keeps_copyCommitted {p : Place} (h : Keeps s t) : Keeps s (copyCommitted p t) := by
  unfold copyCommitted
  split
  · exact keeps_setDesc h
  · exact h

theorem keeps_execLayoutStep {n : LyNo} {ecc : Ecc} (h : Keeps s t) : Completes s (execLayoutStep n ecc t) := by
  unfold execLayoutStep
  dsimp only
  split
  · with_reducible exact Completes.ite (keeps_ok (Keeps.frame (keeps_putHead (keeps_countEv (keeps_clipDesc (keeps_lyStep
      (Keeps.ite (keeps_copyCommitted h) h))))))) (keeps_ok h)
  · with_reducible exact keeps_ok h

theorem keeps_enterCopy {p : Place} {d : Desc} {q : QueueNo} (h : Keeps s t) : Keeps s (enterCopy p d q t) :=
  keeps_setDesc (Keeps.frame (keeps_setQueue h))

theorem keeps_execCopy {p : Place} (h : Keeps s t) : Completes s (execCopy p t) := by
  unfold execCopy
  dsimp only
  split
  · exact keeps_ok h
  · refine Completes.ite (keeps_ok (keeps_endDesc h)) ?_
    split
    · exact keeps_ok h
    · exact Completes.ite (keeps_ok h) (keeps_ok (keeps_enterCopy (Keeps.frame h)))

/-! ### Ends of engine commands -/

theorem keeps_fillLine {k : QCmd} {dst : Src} {loc : Bool} {line i : Nat} (h : Keeps s t) :
    Keeps s (fillLine k dst loc line i t) := by
  unfold fillLine
  dsimp only
  split
  · exact Keeps.ite (keeps_addCond (Keeps.ite (keeps_addCond (Keeps.ite (keeps_writeRegion (keeps_takeFree (keeps_lyNote
      h))) (keeps_takeFree (keeps_lyNote h)))) (Keeps.ite (keeps_writeRegion (keeps_takeFree (keeps_lyNote h)))
      (keeps_takeFree (keeps_lyNote h))))) (Keeps.ite (keeps_addCond (Keeps.ite (keeps_writeRegion (keeps_takeFree
      (keeps_lyNote h))) (keeps_takeFree (keeps_lyNote h)))) (Keeps.ite (keeps_writeRegion (keeps_takeFree (keeps_lyNote
      h))) (keeps_takeFree (keeps_lyNote h))))
  · exact h

theorem keeps_drainLine {k : QCmd} {key off lim : Nat} {loc : Bool} {line i : Nat} {s0 : State} (h : Keeps s t) :
    Keeps s (drainLine k key off lim loc line i s0 t) :=
  Keeps.ite (keeps_addCond (keeps_noteSpan (Keeps.ite (keeps_addCond h) h))) (Keeps.ite (keeps_noteSpan (Keeps.ite
    (keeps_addCond h) h)) (Keeps.ite (keeps_commitLine (keeps_noteSpan (Keeps.ite (keeps_addCond h) h))) (keeps_noteSpan
    (Keeps.ite (keeps_addCond h) h))))

theorem keeps_drainAll {k : QCmd} {src : Src} {loc : Bool} {line lines : Nat} (h : Keeps s t) :
    Keeps s (drainAll k src loc line lines t) := by
  unfold drainAll
  dsimp only
  split
  · exact Keeps.frame (keeps_writeWords (Keeps.foldl (fun _ _ h1 => keeps_drainLine h1) h))
  · exact h

theorem keeps_bindFill {dst : Src} {loc : Bool} {line lines : Nat} (h : Keeps s t) :
    Keeps s (bindFill dst loc line lines t) := by
  unfold bindFill
  dsimp only
  split
  · refine Keeps.frame ?_
    refine Keeps.foldl ?_ h
    intro _ _ h1
    split
    · exact keeps_setCopy h1
    · exact h1
  · exact h

theorem keeps_bcTransfer {k : QCmd} (h : Keeps s t) : Keeps s (bcTransfer k t) := by
  unfold bcTransfer
  dsimp only
  split
  · exact Keeps.ite (keeps_bindFill (Keeps.foldl (fun _ _ h1 => keeps_fillLine h1) h)) (Keeps.foldl (fun _ _ h1 =>
      keeps_fillLine h1) h)
  · exact keeps_drainAll h
  · exact h

theorem keeps_finishHead {q : QueueNo} {k : QCmd} (h : Keeps s t) : Keeps s (finishHead q k t) :=
  Keeps.ite (keeps_endDesc (keeps_completeCmd h)) (keeps_completeCmd h)

theorem keeps_execEngineCommandComplete {q : QueueNo} (h : Keeps s t) : Completes s (execEngineCommandComplete q t) := by
  unfold execEngineCommandComplete
  split
  · exact keeps_ok h
  · exact Completes.ite (keeps_ok (keeps_finishHead h)) (Completes.ite (keeps_ok (keeps_finishHead (keeps_bcTransfer h)))
      (keeps_ok h))

theorem keeps_logEngine {isl : Nat} {k : QCmd} (h : Keeps s t) : Keeps s (logEngine isl k t) := by
  unfold logEngine
  dsimp only
  split
  · exact keeps_logFn h
  · exact h

theorem keeps_endAffected {k : QCmd} (h : Keeps s t) : Keeps s (endAffected k t) := by
  unfold endAffected
  dsimp only
  split
  · exact keeps_endDesc h
  · refine keeps_stopCtx ?_
    refine keeps_addCond ?_
    refine Keeps.ite ?_ h
    split
    · exact keeps_arriveWire (keeps_completeFlag h)
    · exact keeps_completeFlag h

theorem keeps_resetMx {n : Nat} (h : Keeps s t) : Keeps s (resetMx n t) :=
  Keeps.foldl (fun _ _ h1 => keeps_endAffected h1) (keeps_setMx (Keeps.frame (keeps_setQueue (keeps_setQueue h))))

theorem keeps_resetLy {n : Nat} (h : Keeps s t) : Keeps s (resetLy n t) :=
  Keeps.foldl (fun _ _ h1 => keeps_endAffected h1) (Keeps.frame (keeps_setQueue h))

theorem keeps_haltP1 {c : Nat} {k : P1} (h : Keeps s t) : Keeps s (haltP1 c k t) := by
  unfold haltP1
  dsimp only
  split
  · exact keeps_addCond (Keeps.foldl (fun _ _ h1 => keeps_haltGrain h1) h)
  · exact Keeps.foldl (fun _ _ h1 => keeps_haltGrain h1) h

theorem keeps_fireGrains {c r : Nat} {k : Nat × P1} (h : Keeps s t) : Keeps s (fireGrains c r k t) :=
  keeps_haltP1 (keeps_logFn h)

theorem keeps_execEngineWatchdogExpiry {e : WdEngine} (h : Keeps s t) : Completes s (execEngineWatchdogExpiry e t) := by
  unfold execEngineWatchdogExpiry
  dsimp only
  split
  · refine Completes.ite ?_ (keeps_ok h)
    split
    · exact keeps_ok (keeps_resetMx (keeps_logEngine h))
    · exact keeps_ok h
  · split
    · exact Completes.ite (keeps_ok (keeps_resetLy (keeps_logEngine h))) (keeps_ok h)
    · exact keeps_ok h
  · exact keeps_ok (Keeps.foldl (fun _ _ h1 => keeps_fireGrains h1) h)

theorem keeps_endRunning {p : Place} (h : Keeps s t) : Keeps s (endRunning p t) := by
  unfold endRunning
  dsimp only
  split
  · exact Keeps.ite (Keeps.ite (keeps_endDesc (keeps_setDesc (keeps_dropP1 (Keeps.frame h)))) (keeps_setDesc (keeps_dropP1
      (Keeps.frame h)))) h
  · exact h

theorem keeps_execFlrWorkTimeout {f : Func} (h : Keeps s t) : Completes s (execFlrWorkTimeout f t) := by
  unfold execFlrWorkTimeout
  dsimp only
  split
  · exact keeps_ok h
  · exact Completes.ite (keeps_ok h) (keeps_ok (Keeps.foldl (fun _ _ h1 => keeps_endRunning h1) (Keeps.foldl (fun _ _ h1 =>
      Keeps.foldl (fun _ _ h2 => keeps_haltP1 h2) h1) (Keeps.foldl (fun _ _ h1 => Keeps.ite (keeps_resetLy h1) h1)
      (Keeps.foldl (fun _ _ h1 => Keeps.ite (keeps_resetMx h1) h1) h)))))

/-! ### Serving steps -/

theorem keeps_execServeStep {p : Place} {batch : List (List U64)} (h : Keeps s t) :
    Completes s (execServeStep p batch t) := by
  unfold execServeStep
  dsimp only
  split
  · exact keeps_ok h
  · split
    · exact keeps_ok (keeps_endDesc h)
    · exact Completes.ite (keeps_ok h) (Completes.ite (keeps_ok (keeps_endDesc h)) (Completes.ite (keeps_ok (keeps_endDesc
        h)) (keeps_ok (keeps_bumpFuncBy (keeps_setDesc (Keeps.frame h))))))

theorem keeps_bankPut {line d mask : Nat} (h : Keeps s t) : Keeps s (bankPut line d mask t) :=
  Keeps.ite h (Keeps.ite (keeps_commitLine h) (keeps_writeWords h))

theorem keeps_writeBias {r : List U64} {span i page : Nat} (h : Keeps s t) : Keeps s (writeBias r span i page t) :=
  Keeps.foldl (fun _ _ h1 => Keeps.foldl (fun _ _ h2 => keeps_bankPut h2) h1) h

theorem keeps_rowBias {hd r : List U64} (h : Keeps s t) : Keeps s (rowBias hd r t) :=
  Keeps.ite h (Keeps.foldl (fun _ _ h1 => keeps_writeBias h1) h)

theorem keeps_loadStep {x : CtxNo} {c : Ctx} (h : Keeps s t) : Keeps s (loadStep x c t) := by
  unfold loadStep
  dsimp only
  split
  · exact h
  · split
    · exact keeps_faultCtx h
    · exact keeps_moveCtx (Keeps.foldl (fun _ _ h1 => keeps_rowBias h1) (Keeps.frame h))

theorem keeps_execImageLoadComplete {x : CtxNo} {image args : List Byte} (h : Keeps s t) :
    Completes s (execImageLoadComplete x image args t) := by
  unfold execImageLoadComplete
  split
  · exact keeps_ok h
  · split
    · exact keeps_ok h
    · exact Completes.ite (keeps_ok h) (Completes.ite (keeps_ok (keeps_loadStep h)) (keeps_ok (keeps_loadRun h)))

theorem keeps_appendKv {x : RowIn} (h : Keeps s t) : Keeps s (appendKv x t) :=
  Keeps.foldl (fun _ _ h1 => Keeps.foldl (fun _ _ h2 => Keeps.foldl (fun _ _ h3 => keeps_bankPut h3) h2) h1) h

theorem keeps_execWorkUnitEnd {x : CtxNo} {ended : List (Fin 1024)} (h : Keeps s t) :
    Completes s (execWorkUnitEnd x ended t) := by
  unfold execWorkUnitEnd
  dsimp only
  split
  · exact keeps_ok h
  · split
    · exact keeps_ok (keeps_setDesc (Keeps.foldl (fun _ _ h1 => keeps_appendKv h1) (Keeps.frame h)))
    · exact keeps_ok h

theorem keeps_execRowCommit {p : Place} {row : Fin 1024} (h : Keeps s t) : Completes s (execRowCommit p row t) := by
  unfold execRowCommit
  dsimp only
  split
  · exact keeps_ok h
  · split
    · exact keeps_ok h
    · exact Completes.ite (keeps_ok (Keeps.frame h)) (keeps_ok h)

theorem keeps_noteRowEnd {d : Desc} {p : Nat × RowRun} (h : Keeps s t) : Keeps s (noteRowEnd d t p) :=
  Keeps.ite (Keeps.ite (keeps_bump (keeps_countEnding h)) (keeps_countEnding h)) (keeps_logFn (Keeps.ite (keeps_bump
    (keeps_countEnding h)) (keeps_countEnding h)))

theorem keeps_execOutputTableWrite {p : Place} (h : Keeps s t) : Completes s (execOutputTableWrite p t) := by
  unfold execOutputTableWrite
  dsimp only
  split
  · exact Completes.ite (keeps_ok h) (keeps_ok (keeps_setDesc (Keeps.foldl (fun _ _ h1 => keeps_noteRowEnd h1)
      (keeps_bumpFuncBy (Keeps.frame (keeps_emit h))))))
  · exact keeps_ok h

theorem keeps_execHubModelTakeEffect {f : Func} {slot : Fin 16} (h : Keeps s t) :
    Completes s (execHubModelTakeEffect f slot t) :=
  Completes.ite (keeps_ok h) (keeps_ok (Keeps.frame h))

theorem keeps_execGrnPartTakeEffect {f : Func} (h : Keeps s t) : Completes s (execGrnPartTakeEffect f t) :=
  Completes.ite (keeps_ok h) (Completes.ite (keeps_ok (keeps_takeGrnPart h)) (keeps_ok h))

/-! ### Keep commands -/

theorem keeps_markDirty {i : Nat} (h : Keeps s t) : Keeps s (markDirty i t) := keeps_setKblock h

theorem keeps_replaceSlots {blocks : List Nat} (h : Keeps s t) : Keeps s (replaceSlots blocks t) := Keeps.frame h

theorem keeps_storeLine {p : Place} {line : Nat} {d : Line} {poison : Bool} (h : Keeps s t) :
    Keeps s (storeLine p line d poison t) :=
  Keeps.ite (keeps_addCond h) (Keeps.ite h (Keeps.ite (keeps_addCond (keeps_commitThrough h)) (keeps_commitThrough h)))

theorem keeps_noteSource {p : Place} {line n : Nat} (h : Keeps s t) : Keeps s (noteSource p line n t) :=
  Keeps.ite (keeps_addCond (keeps_lyNote (Keeps.frame h))) (keeps_lyNote (Keeps.frame h))

theorem keeps_keepStore {p : Place} {d : Desc} {blocks : List Nat} {src : List Line} (h : Keeps s t) :
    Keeps s (keepStore p d blocks src t) :=
  Keeps.foldl (fun _ _ h1 => keeps_storeLine h1) (keeps_clipDesc (Keeps.ite (keeps_noteSource (keeps_noteSpan
    (keeps_setDesc (Keeps.foldl (fun _ _ h1 => keeps_markDirty h1) (keeps_replaceSlots h))))) (keeps_noteSpan
    (keeps_setDesc (Keeps.foldl (fun _ _ h1 => keeps_markDirty h1) (keeps_replaceSlots h))))))

theorem keeps_execKeepWrite {p : Place} {src : List Line} (h : Keeps s t) : Completes s (execKeepWrite p src t) := by
  unfold execKeepWrite
  dsimp only
  split
  · exact keeps_ok h
  · refine Completes.ite (keeps_ok h) ?_
    split
    · exact keeps_ok (keeps_logPreempted (keeps_logCollision (keeps_endDesc h)))
    · split
      · exact keeps_ok (keeps_countEv (keeps_endDesc h))
      · exact keeps_ok (keeps_countEv (keeps_endDesc h))
      · exact Completes.ite (keeps_ok h) (keeps_ok (keeps_endDesc (keeps_keepStore (keeps_contend h))))

theorem keeps_keepReadLine {p : Place} {d : Desc} {i : Nat} (h : Keeps s t) : Keeps s (keepReadLine p d i t) :=
  Keeps.ite (keeps_storeLine (Keeps.ite (keeps_addCond (Keeps.ite (keeps_addCond (keeps_clipDesc (keeps_takeFree
    (keeps_lyNote h)))) (keeps_clipDesc (keeps_takeFree (keeps_lyNote h))))) (Keeps.ite (keeps_addCond (keeps_clipDesc
    (keeps_takeFree (keeps_lyNote h)))) (keeps_clipDesc (keeps_takeFree (keeps_lyNote h)))))) (keeps_emit (Keeps.ite
    (keeps_addCond (Keeps.ite (keeps_addCond (keeps_clipDesc (keeps_takeFree (keeps_lyNote h)))) (keeps_clipDesc
    (keeps_takeFree (keeps_lyNote h))))) (Keeps.ite (keeps_addCond (keeps_clipDesc (keeps_takeFree (keeps_lyNote h))))
    (keeps_clipDesc (keeps_takeFree (keeps_lyNote h))))))

theorem keeps_execKeepRead {p : Place} (h : Keeps s t) : Completes s (execKeepRead p t) := by
  unfold execKeepRead
  dsimp only
  split
  · exact keeps_ok h
  · exact Completes.ite (keeps_ok h) (Completes.ite (keeps_ok h) (keeps_ok (keeps_settleCtx (keeps_drainCtx (Keeps.foldl
      (fun _ _ h1 => keeps_keepReadLine h1) h)))))

theorem keeps_endForced (h : Keeps s t) : Keeps s (endForced t) := Keeps.ite (Keeps.frame h) h

theorem keeps_execTrickleCleanTimer {block : Nat} (h : Keeps s t) : Completes s (execTrickleCleanTimer block t) :=
  Completes.ite (keeps_ok (keeps_setKblock h)) (keeps_ok h)

theorem keeps_execKeepCopyCommit {block : Nat} (h : Keeps s t) : Completes s (execKeepCopyCommit block t) :=
  keeps_ok (Keeps.ite (keeps_endForced (keeps_commitCopy h)) h)

theorem keeps_execNandProgramFailure {block : Nat} (h : Keeps s t) : Completes s (execNandProgramFailure block t) :=
  Completes.ite (keeps_ok h) (Completes.ite (keeps_ok (Keeps.frame (keeps_logDev (Keeps.frame h)))) (keeps_ok
    (keeps_setKblock (Keeps.frame (keeps_logDev (Keeps.frame h))))))

/-! ### Power -/

theorem keeps_loseInput {cause minMv covers : Nat} (h : Keeps s t) : Keeps s (loseInput cause minMv covers t) :=
  Keeps.ite h (Keeps.frame (keeps_powerOff (keeps_saveKeep (keeps_logDev (Keeps.frame h)))))

theorem keeps_execPowerLossLatch {cause : Fin 4} {minMv covers : Nat} (h : Keeps s t) :
    Completes s (execPowerLossLatch cause minMv covers t) :=
  keeps_ok (keeps_loseInput h)

theorem keeps_execPowerMeasure {watts predicted : Nat} (h : Keeps s t) : Completes s (execPowerMeasure watts predicted t) :=
  Completes.ite (keeps_ok h) (keeps_ok (Keeps.ite (Keeps.frame h) (keeps_setLoop (Keeps.frame h))))

theorem keeps_execRampInterval (h : Keeps s t) : Completes s (execRampInterval t) :=
  Completes.ite (keeps_ok h) (Completes.ite (keeps_ok (Keeps.frame h)) (keeps_ok (Keeps.frame h)))

theorem keeps_noteClipped {i : Island} {below : Bool} (h : Keeps s t) : Keeps s (noteClipped i below t) := by
  unfold noteClipped
  dsimp only
  split
  · exact Keeps.ite (keeps_setDie h) h
  · exact h

theorem keeps_setClk {no v top : Nat} (h : Keeps s t) : Keeps s (setClk no v top t) := Keeps.frame h

theorem keeps_execThermalSense {isl : Island} {temp : Int} (h : Keeps s t) : Completes s (execThermalSense isl temp t) := by
  unfold execThermalSense
  dsimp only
  split
  · exact keeps_ok h
  · exact Completes.ite (keeps_ok h) (Completes.ite (keeps_ok (keeps_setLoop (keeps_noteClipped (keeps_setClk (Keeps.ite
      (keeps_bump h) h))))) (Completes.ite (keeps_ok (keeps_setLoop (keeps_noteClipped (keeps_setClk (Keeps.ite (keeps_bump
      h) h))))) (keeps_ok h)))

theorem keeps_execVoltageDroop {isl : Island} {ns : Nat} (h : Keeps s t) : Completes s (execVoltageDroop isl ns t) :=
  Completes.ite (keeps_ok h) (Completes.ite (keeps_ok (Keeps.frame h)) (keeps_ok (keeps_setLoop (Keeps.frame h))))

theorem keeps_execChannelFreqLoop (h : Keeps s t) : Completes s (execChannelFreqLoop t) :=
  Completes.ite (keeps_ok (keeps_startChange (keeps_setLoop (Keeps.ite (keeps_bump h) h)))) (Completes.ite (keeps_ok
    (keeps_startChange (keeps_setLoop h))) (keeps_ok h))

theorem keeps_execHoldupVoltageMeasure {mv : Nat} (h : Keeps s t) : Completes s (execHoldupVoltageMeasure mv t) :=
  keeps_ok (Keeps.ite (Keeps.frame h) h)

theorem keeps_measureBank {uf mv : Nat} {cellFault : Bool} (h : Keeps s t) : Keeps s (measureBank uf mv cellFault t) := by
  unfold measureBank
  dsimp only
  exact Keeps.ite (keeps_emit (keeps_plogAdd (keeps_logDev (Keeps.frame h)))) (Keeps.frame h)

theorem keeps_execCapacitanceMeasure {uf mv : Nat} {cellFault : Bool} (h : Keeps s t) :
    Completes s (execCapacitanceMeasure uf mv cellFault t) :=
  keeps_ok (Keeps.ite (keeps_measureBank h) h)

theorem keeps_execHoldupChargeComplete {uf mv : Nat} (h : Keeps s t) : Completes s (execHoldupChargeComplete uf mv t) :=
  keeps_ok (Keeps.ite (keeps_measureBank h) h)

theorem keeps_execThermalTrip {isl : Island} {temp : Int} (h : Keeps s t) : Completes s (execThermalTrip isl temp t) :=
  Completes.ite (keeps_ok h) (keeps_ok (keeps_emit (Keeps.frame (keeps_powerOff (keeps_saveKeep (keeps_plogAdd
    (keeps_logDev h)))))))

/-! ### Tray and rack -/

theorem keeps_slotDead {i : SlotNo} (h : Keeps s t) : Keeps s (slotDead i t) := Keeps.ite (keeps_loseInput h) h

theorem keeps_startRamp {i : SlotNo} {fails : List U64} (h : Keeps s t) : Keeps s (startRamp i fails t) := keeps_setSlot h

theorem keeps_failSlot {i : SlotNo} {cause : Nat} (h : Keeps s t) : Keeps s (failSlot i cause t) :=
  keeps_slotDead (Keeps.ite (keeps_emit (keeps_emit (keeps_setSlot h))) (keeps_emit (keeps_setSlot h)))

theorem keeps_execSlotEnable {i : SlotNo} (h : Keeps s t) : Completes s (execSlotEnable i t) :=
  keeps_ok (Keeps.ite (keeps_startRamp h) h)

theorem keeps_orderRamp {m : Nat} (h : Keeps s t) : Keeps s (orderRamp m t) := keeps_emit h

theorem keeps_orderPlan {m : Nat} (h : Keeps s t) : Keeps s (orderPlan m t) := keeps_emit h

theorem keeps_execInrushComplete {i : SlotNo} {outMv busMv ma : Nat} (h : Keeps s t) :
    Completes s (execInrushComplete i outMv busMv ma t) :=
  Completes.ite (keeps_ok (keeps_orderPlan (keeps_orderRamp (Keeps.ite (keeps_powerUp (keeps_setSlot h)) (keeps_setSlot
    h))))) (keeps_ok h)

theorem keeps_execEfuseFastTrip {i : SlotNo} {ma : Nat} (h : Keeps s t) : Completes s (execEfuseFastTrip i ma t) :=
  keeps_ok (Keeps.ite (keeps_failSlot h) h)

theorem keeps_execEfuseLimitTrip {i : SlotNo} (h : Keeps s t) : Completes s (execEfuseLimitTrip i t) :=
  keeps_ok (Keeps.ite (keeps_failSlot h) h)

theorem keeps_execInrushBudgetExpiry {i : SlotNo} (h : Keeps s t) : Completes s (execInrushBudgetExpiry i t) :=
  keeps_ok (Keeps.ite (keeps_failSlot h) h)

theorem keeps_execBusLowHold {mv : Nat} (h : Keeps s t) : Completes s (execBusLowHold mv t) :=
  Completes.ite (keeps_ok (Keeps.frame h)) (keeps_ok h)

theorem keeps_execBusRecover {mv : Nat} (h : Keeps s t) : Completes s (execBusRecover mv t) :=
  Completes.ite (keeps_ok (Keeps.frame h)) (keeps_ok h)

theorem keeps_execSlotRetry {i : SlotNo} (h : Keeps s t) : Completes s (execSlotRetry i t) :=
  keeps_ok (Keeps.ite (keeps_emit (keeps_startRamp h)) h)

theorem keeps_execSlotOff {i : SlotNo} (h : Keeps s t) : Completes s (execSlotOff i t) :=
  Completes.ite (keeps_ok h) (keeps_ok (keeps_slotDead (keeps_setSlot h)))

theorem keeps_execClearLatch {i : SlotNo} (h : Keeps s t) : Completes s (execClearLatch i t) :=
  keeps_ok (Keeps.ite (keeps_emit (keeps_startRamp h)) h)

theorem keeps_execColdResetOrder (h : Keeps s t) : Completes s (execColdResetOrder t) :=
  keeps_ok (Keeps.ite (keeps_coldReset (keeps_saveKeep h)) h)

theorem keeps_sendCaps (h : Keeps s t) : Keeps s (sendCaps t) :=
  Keeps.foldl (fun _ _ h1 => keeps_orderRamp (keeps_setRackMod h1)) h

theorem keeps_setRates {m rate : Nat} (h : Keeps s t) : Keeps s (setRates m rate t) := keeps_orderRamp (keeps_setRackMod h)

theorem keeps_sendRaises (h : Keeps s t) : Keeps s (sendRaises t) :=
  Keeps.foldl (fun _ _ h1 => keeps_setRates h1) (Keeps.frame h)

theorem keeps_distribute {held : List (Nat × Nat)} (h : Keeps s t) : Keeps s (distribute held t) :=
  Keeps.ite (Keeps.foldl (fun _ _ h1 => keeps_setRates h1) (Keeps.frame h)) (keeps_sendRaises (Keeps.foldl (fun _ _ h1 =>
    keeps_setRates h1) (Keeps.frame h)))

theorem keeps_reportCapacity (h : Keeps s t) : Keeps s (reportCapacity t) := Keeps.ite h (keeps_emit (Keeps.frame h))

theorem keeps_seeModule {x : ModReport} (h : Keeps s t) : Keeps s (seeModule x t) := keeps_setRackMod h

theorem keeps_execCapacityChange {shelves trays : Nat} {seen : List ModReport} (h : Keeps s t) :
    Completes s (execCapacityChange shelves trays seen t) :=
  keeps_ok (keeps_reportCapacity (Keeps.ite (keeps_sendCaps (Keeps.foldl (fun _ _ h1 => keeps_seeModule h1) (Keeps.frame
    h))) (keeps_distribute (keeps_sendCaps (Keeps.foldl (fun _ _ h1 => keeps_seeModule h1) (Keeps.frame h))))))

theorem keeps_execBudgetDistribution {held : List (ModNo × Nat)} (h : Keeps s t) :
    Completes s (execBudgetDistribution held t) :=
  keeps_ok (keeps_distribute h)

theorem keeps_execModuleFence {m : ModNo} {cause : FenceCause} (h : Keeps s t) : Completes s (execModuleFence m cause t) :=
  Completes.ite (keeps_ok h) (keeps_ok (keeps_reportCapacity (keeps_sendCaps (keeps_distribute (keeps_emit
    (keeps_setRackMod (Keeps.ite (keeps_orderRamp (keeps_setRackMod h)) h)))))))

theorem keeps_execGrcRestart {budgetGens planGens : List U32} {seen : List ModReport} (h : Keeps s t) :
    Completes s (execGrcRestart budgetGens planGens seen t) :=
  keeps_ok (keeps_reportCapacity (Keeps.foldl (fun _ _ h1 => keeps_seeModule h1) (Keeps.frame h)))

theorem keeps_execRateLoopCheck {p : PortNo} {corrected symbols uncorrectable codewords : Nat} (h : Keeps s t) :
    Completes s (execRateLoopCheck p corrected symbols uncorrectable codewords t) :=
  Completes.ite (keeps_ok h) (Completes.ite (keeps_ok (keeps_countEv (keeps_countEv h))) (keeps_ok (keeps_setRate
    (keeps_setLoop (keeps_setPort (Keeps.ite (keeps_bump (keeps_countEv (keeps_countEv h))) (keeps_countEv (keeps_countEv
    h))))))))

theorem keeps_execRateRetryTimer {p : PortNo} (h : Keeps s t) : Completes s (execRateRetryTimer p t) :=
  Completes.ite (keeps_ok h) (keeps_ok (keeps_setRate (keeps_setLoop (keeps_setPort h))))

end Sys2Proof.Machine
end

section
/-! Every command and the tick keep the queue and soundness. -/

namespace Sys2Proof.Machine

variable {s t : State}

/-! ### The tick -/

theorem keeps_countLevel {src : Nat} {l : List (Nat × Option Func)} (h : Keeps s t) : Keeps s (countLevel src l t) :=
  Keeps.frame h

theorem keeps_countLevels (h : Keeps s t) : Keeps s (countLevels t) :=
  keeps_countLevel (keeps_countLevel (keeps_countLevel (keeps_countLevel (keeps_countLevel (keeps_countLevel
    (keeps_countLevel h))))))

theorem keeps_holdLoops (h : Keeps s t) : Keeps s (holdLoops t) := Keeps.frame h

theorem keeps_endDroops (h : Keeps s t) : Keeps s (endDroops t) := by
  unfold endDroops
  dsimp only
  split
  · exact h
  · exact Keeps.ite (keeps_setLoop (Keeps.frame h)) (Keeps.frame h)

theorem keeps_grcTick (h : Keeps s t) : Keeps s (grcTick t) :=
  Keeps.ite (keeps_reportCapacity (Keeps.ite (keeps_sendRaises h) h)) (Keeps.ite (keeps_sendRaises h) h)

theorem keeps_tick (h : Keeps s t) : Keeps s (tick t) :=
  Keeps.ite (keeps_endDroops (keeps_holdLoops (keeps_countLevels (Keeps.frame (keeps_grcTick (Keeps.frame h))))))
    (keeps_grcTick (Keeps.frame h))

/-! ### Every command -/

/-- Every command completes, and what it leaves keeps the queue and soundness. -/
theorem completes_exec (i : Instr) (s : State) : Completes s (exec i s) := by
  have h := Keeps.refl s
  cases i with
  | workDoorbell => exact keeps_execWorkDoorbell h
  | cancelDoorbell => exact keeps_execCancelDoorbell h
  | ringCfgWrite => exact keeps_execRingCfgWrite h
  | ringBaseWrite => exact keeps_execRingBaseWrite h
  | doorbellPageBadAccess => exact keeps_execDoorbellPageBadAccess h
  | descriptorFetchIssue => exact keeps_execDescriptorFetchIssue h
  | descriptorFetchLand => exact keeps_execDescriptorFetchLand h
  | descriptorAccept => exact keeps_execDescriptorAccept h
  | nop => exact keeps_execNop h
  | fence => exact keeps_execFence h
  | fenceWaitsEnd => exact keeps_execFenceWaitsEnd h
  | resync => exact keeps_execResync h
  | inspect => exact keeps_execInspect h
  | run => exact keeps_execRun h
  | serveStep => exact keeps_execServeStep h
  | cancel => exact keeps_execCancel h
  | copy => exact keeps_execCopy h
  | spread => exact keeps_execSpread h
  | grainRun => exact keeps_execGrainRun h
  | tilthLoad => exact keeps_execTilthLoad h
  | keepWrite => exact keeps_execKeepWrite h
  | keepRead => exact keeps_execKeepRead h
  | ship => exact keeps_execShip h
  | signal => exact keeps_execSignal h
  | pageGrant => exact keeps_execPageGrant h
  | pageReturn => exact keeps_execPageReturn h
  | pageClear => exact keeps_execPageClear h
  | evcSnap => exact keeps_execEvcSnap h
  | contextAssign => exact keeps_execContextAssign h
  | descriptorCompletion => exact keeps_execDescriptorCompletion h
  | doneRecordWrite => exact keeps_execDoneRecordWrite h
  | flrVf => exact keeps_execFlrVf h
  | hdmDecoderCommit => exact keeps_execHdmDecoderCommit h
  | cxlMemRead => exact keeps_execCxlMemRead h
  | cxlMemWrite => exact keeps_execCxlMemWrite h
  | cxlLinkLoss => exact keeps_execCxlLinkLoss h
  | ideIntegrityFailure => exact keeps_execIdeIntegrityFailure h
  | conventionalReset => exact keeps_execConventionalReset h
  | hubResetWrite => exact keeps_execHubResetWrite h
  | getEventRecords => exact keeps_execGetEventRecords h
  | clearEventRecords => exact keeps_execClearEventRecords h
  | getFwInfo => exact keeps_execGetFwInfo h
  | transferFw => exact keeps_execTransferFw h
  | activateFw => exact keeps_execActivateFw h
  | getTimestamp => exact keeps_execGetTimestamp h
  | setTimestamp => exact keeps_execSetTimestamp h
  | getSupportedLogs => exact keeps_execGetSupportedLogs h
  | getLog => exact keeps_execGetLog h
  | identifyMemoryDevice => exact keeps_execIdentifyMemoryDevice h
  | getHealthInfo => exact keeps_execGetHealthInfo h
  | getPoisonList => exact keeps_execGetPoisonList h
  | keepGetInfo => exact keeps_execKeepGetInfo h
  | keepSetSize => exact keeps_execKeepSetSize h
  | planLoad => exact keeps_execPlanLoad h
  | planGet => exact keeps_execPlanGet h
  | rampSet => exact keeps_execRampSet h
  | rampGet => exact keeps_execRampGet h
  | unsupportedMailboxCommand => exact keeps_execUnsupportedMailboxCommand h
  | getVersion => exact keeps_execGetVersion h
  | getCapabilities flags => exact keeps_execGetCapabilities (flags := flags) h
  | negotiateAlgorithms => exact keeps_execNegotiateAlgorithms h
  | getDigests => exact keeps_execGetDigests h
  | getCertificate => exact keeps_execGetCertificate h
  | challenge => exact keeps_execChallenge h
  | getMeasurements => exact keeps_execGetMeasurements h
  | keyExchange => exact keeps_execKeyExchange h
  | finish => exact keeps_execFinish h
  | endSession => exact keeps_execEndSession h
  | ideKm => exact keeps_execIdeKm h
  | cdatRead => exact keeps_execCdatRead h
  | marlWriteCommit => exact keeps_execMarlWriteCommit h
  | marlRead => exact keeps_execMarlRead h
  | marlPatrolScrub => exact keeps_execMarlPatrolScrub h
  | passLaneAgeExpiry => exact keeps_execPassLaneAgeExpiry h
  | writeBack => exact keeps_execWriteBack h
  | regionRelease => exact keeps_execRegionRelease h
  | preCommandWriteBack => exact keeps_execPreCommandWriteBack h
  | marlPartTakeEffect => exact keeps_execMarlPartTakeEffect h
  | act => exact keeps_execAct h
  | rd => exact keeps_execRd h
  | wr => exact keeps_execWr h
  | pre => exact keeps_execPre h
  | ref => exact keeps_execRef h
  | mrw => exact keeps_execMrw h
  | mrr => exact keeps_execMrr h
  | grainSelfTestStart => exact keeps_execGrainSelfTestStart h
  | alertCauseClear => exact keeps_execAlertCauseClear h
  | modeChangeEffect => exact keeps_execModeChangeEffect h
  | sre => exact keeps_execSre h
  | srx => exact keeps_execSrx h
  | zq c r => exact keeps_execZq (c := c) (r := r) h
  | sel => exact keeps_execSel h
  | actg => exact keeps_execActg h
  | preg => exact keeps_execPreg h
  | sprd => exact keeps_execSprd h
  | grun => exact keeps_execGrun h
  | haltg => exact keeps_execHaltg h
  | stat => exact keeps_execStat h
  | craw => exact keeps_execCraw h
  | crar => exact keeps_execCrar h
  | tlw => exact keeps_execTlw h
  | tlr => exact keeps_execTlr h
  | bind => exact keeps_execBind h
  | undefinedCaCommand => exact keeps_execUndefinedCaCommand h
  | resetNRelease => exact keeps_execResetNRelease h
  | spreadEnd => exact keeps_execSpreadEnd h
  | grainStop => exact keeps_execGrainStop h
  | halt => exact keeps_execHalt h
  | tilthNop => exact keeps_execTilthNop h
  | loopi => exact keeps_execLoopi h
  | loopr => exact keeps_execLoopr h
  | br => exact keeps_execBr h
  | salu => exact keeps_execSalu h
  | addi => exact keeps_execAddi h
  | ori => exact keeps_execOri h
  | lui => exact keeps_execLui h
  | shi => exact keeps_execShi h
  | sgetv => exact keeps_execSgetv h
  | vsets => exact keeps_execVsets h
  | vldc => exact keeps_execVldc h
  | vstc => exact keeps_execVstc h
  | vlds => exact keeps_execVlds h
  | vsts => exact keeps_execVsts h
  | slds => exact keeps_execSlds h
  | ssts => exact keeps_execSsts h
  | sldr => exact keeps_execSldr h
  | sstr => exact keeps_execSstr h
  | alds => exact keeps_execAlds h
  | asts => exact keeps_execAsts h
  | aldc => exact keeps_execAldc h
  | astc => exact keeps_execAstc h
  | vop => exact keeps_execVop h
  | vsplat => exact keeps_execVsplat h
  | vcmp => exact keeps_execVcmp h
  | mac => exact keeps_execMac h
  | macc => exact keeps_execMacc h
  | bpmac => exact keeps_execBpmac h
  | aop => exact keeps_execAop h
  | ahred => exact keeps_execAhred h
  | send => exact keeps_execSend h
  | recv => exact keeps_execRecv h
  | radd => exact keeps_execRadd h
  | seamVectorArrive => exact keeps_execSeamVectorArrive h
  | refreshDue => exact keeps_execRefreshDue h
  | temperatureRead => exact keeps_execTemperatureRead h
  | neighbourRefresh => exact keeps_execNeighbourRefresh h
  | throttleRelease => exact keeps_execThrottleRelease h
  | bcRequestLatch => exact keeps_execBcRequestLatch h
  | statPoll => exact keeps_execStatPoll h
  | alertNLow => exact keeps_execAlertNLow h
  | refreshGuard => exact keeps_execRefreshGuard h
  | bcFreqWrite => exact keeps_execBcFreqWrite h
  | rankFailure => exact keeps_execRankFailure h
  | migrationStart => exact keeps_execMigrationStart h
  | migrationRowCopy => exact keeps_execMigrationRowCopy h
  | migrationComplete => exact keeps_execMigrationComplete h
  | bankPatrolScrub => exact keeps_execBankPatrolScrub h
  | bcRelease => exact keeps_execBcRelease h
  | imageLoadComplete => exact keeps_execImageLoadComplete h
  | commandPush => exact keeps_execCommandPush h
  | loopOpen => exact keeps_execLoopOpen h
  | branch => exact keeps_execBranch h
  | call => exact keeps_execCall h
  | ret => exact keeps_execRet h
  | valueOp => exact keeps_execValueOp h
  | generatorSet => exact keeps_execGeneratorSet h
  | contextEnd => exact keeps_execContextEnd h
  | contextWake => exact keeps_execContextWake h
  | engineCommandComplete => exact keeps_execEngineCommandComplete h
  | contextWatchdogExpiry => exact keeps_execContextWatchdogExpiry h
  | engineWatchdogExpiry => exact keeps_execEngineWatchdogExpiry h
  | flagSet => exact keeps_execFlagSet h
  | flagClear => exact keeps_execFlagClear h
  | flagWait => exact keeps_execFlagWait h
  | flagWaitConsume => exact keeps_execFlagWaitConsume h
  | remoteSignal => exact keeps_execRemoteSignal h
  | barrierClaim => exact keeps_execBarrierClaim h
  | barrierArrive => exact keeps_execBarrierArrive h
  | barrierArriveWait => exact keeps_execBarrierArriveWait h
  | barrierWait => exact keeps_execBarrierWait h
  | moduleWideWireRelease => exact keeps_execModuleWideWireRelease h
  | realignRequest => exact keeps_execRealignRequest h
  | weightLoad => exact keeps_execWeightLoad h
  | productPass => exact keeps_execProductPass h
  | slipCommand => exact keeps_execSlipCommand h
  | layoutCommand => exact keeps_execLayoutCommand h
  | layoutStep => exact keeps_execLayoutStep h
  | workUnitEnd => exact keeps_execWorkUnitEnd h
  | rowCommit => exact keeps_execRowCommit h
  | outputTableWrite => exact keeps_execOutputTableWrite h
  | hubModelTakeEffect => exact keeps_execHubModelTakeEffect h
  | grnPartTakeEffect => exact keeps_execGrnPartTakeEffect h
  | ident _ h1 _ => exact keeps_execIdent (hd := h1) h
  | lack => exact keeps_execLack h
  | tsync _ h1 _ => exact keeps_execTsync (hd := h1) h
  | openShip => exact keeps_execOpenShip h
  | openReply => exact keeps_execOpenReply h
  | write => exact keeps_execWrite h
  | writeAck => exact keeps_execWriteAck h
  | flagSetPacket => exact keeps_execFlagSetPacket h
  | flagReply => exact keeps_execFlagReply h
  | abort => exact keeps_execAbort h
  | noroute => exact keeps_execNoroute h
  | unknownPacket _ _ type _ => exact keeps_execUnknownPacket (type := type) h
  | packetForward => exact keeps_execPacketForward h
  | replayTimerExpiry => exact keeps_execReplayTimerExpiry h
  | codewordErrorLimit => exact keeps_execCodewordErrorLimit h
  | signalDetect => exact keeps_execSignalDetect h
  | lossOfSignal => exact keeps_execLossOfSignal h
  | laneFailure => exact keeps_execLaneFailure h
  | identSendTimer => exact keeps_execIdentSendTimer h
  | tsyncSendTimer => exact keeps_execTsyncSendTimer h
  | rateLoopCheck => exact keeps_execRateLoopCheck h
  | rateRetryTimer => exact keeps_execRateRetryTimer h
  | powerLossLatch => exact keeps_execPowerLossLatch h
  | powerMeasure => exact keeps_execPowerMeasure h
  | rampInterval => exact keeps_execRampInterval h
  | thermalSense => exact keeps_execThermalSense h
  | voltageDroop => exact keeps_execVoltageDroop h
  | channelFreqLoop => exact keeps_execChannelFreqLoop h
  | holdupVoltageMeasure => exact keeps_execHoldupVoltageMeasure h
  | capacitanceMeasure => exact keeps_execCapacitanceMeasure h
  | trickleCleanTimer => exact keeps_execTrickleCleanTimer h
  | keepCopyCommit => exact keeps_execKeepCopyCommit h
  | nandProgramFailure => exact keeps_execNandProgramFailure h
  | thermalTrip => exact keeps_execThermalTrip h
  | holdupChargeComplete => exact keeps_execHoldupChargeComplete h
  | slotEnable => exact keeps_execSlotEnable h
  | inrushComplete => exact keeps_execInrushComplete h
  | efuseFastTrip => exact keeps_execEfuseFastTrip h
  | efuseLimitTrip => exact keeps_execEfuseLimitTrip h
  | inrushBudgetExpiry => exact keeps_execInrushBudgetExpiry h
  | busLowHold => exact keeps_execBusLowHold h
  | busRecover => exact keeps_execBusRecover h
  | slotRetry => exact keeps_execSlotRetry h
  | slotOff => exact keeps_execSlotOff h
  | clearLatch => exact keeps_execClearLatch h
  | coldResetOrder => exact keeps_execColdResetOrder h
  | capacityChange => exact keeps_execCapacityChange h
  | budgetDistribution => exact keeps_execBudgetDistribution h
  | moduleFence => exact keeps_execModuleFence h
  | grcRestart => exact keeps_execGrcRestart h
  | powerGood => exact keeps_execPowerGood h
  | marlSelfTestDone => exact keeps_execMarlSelfTestDone h
  | islandSelfTestDone => exact keeps_execIslandSelfTestDone h
  | grainSelfTestDone => exact keeps_execGrainSelfTestDone h
  | memoryInitDone => exact keeps_execMemoryInitDone h
  | keepRestoreDone => exact keeps_execKeepRestoreDone h
  | mediaReady => exact keeps_execMediaReady h
  | fabricReady => exact keeps_execFabricReady h
  | fabricWaitExpiry => exact keeps_execFabricWaitExpiry h
  | pmuWatchdogExpiry => exact keeps_execPmuWatchdogExpiry h
  | hubFault => exact keeps_execHubFault h
  | paritySweep => exact keeps_execParitySweep h
  | registerWrite => exact keeps_execRegisterWrite h
  | marlPartCommit => exact keeps_execMarlPartCommit h
  | hubTenCommit => exact keeps_execHubTenCommit h
  | hubModelCommit => exact keeps_execHubModelCommit h
  | bcMapCommit => exact keeps_execBcMapCommit h
  | grnPartCommit => exact keeps_execGrnPartCommit h
  | synFlagbCommit => exact keeps_execSynFlagbCommit h
  | lnkLaneCommit => exact keeps_execLnkLaneCommit h
  | keepCommit => exact keeps_execKeepCommit h
  | evcCfgWrite => exact keeps_execEvcCfgWrite h
  | flrPf => exact keeps_execFlrPf h
  | flrWorkTimeout => exact keeps_execFlrWorkTimeout h
  | perstDeassert => exact keeps_execPerstDeassert h
  | cxlLinkUp => exact keeps_execCxlLinkUp h
  | packetDiscard _ _ h1 => exact keeps_execPacketDiscard (hd := h1) h
  | hostWriteRejected _ kind => exact keeps_execHostWriteRejected (kind := kind) h
  | pmuFirmwareRestartDone => exact keeps_execPmuFirmwareRestartDone h
  | frequencyChangeDone => exact keeps_execFrequencyChangeDone h

theorem Completes.eq_next {o : Host.Outcome State Fault Refusal} (h : Completes s o) : ∃ t, o = .next t :=
  h.imp fun _ ht => ht.1

theorem Completes.keeps {o : Host.Outcome State Fault Refusal} (h : Completes s o) (ho : o = .next t) : Keeps s t := by
  obtain ⟨u, hu, hk⟩ := h
  obtain rfl : u = t := by simpa using hu.symm.trans ho
  exact hk

/-- A step keeps soundness: the command at the front of the queue does, and so does the tick on an empty one. -/
theorem sound_of_step (hs : s.sound) (h : step s = .next t) : t.sound := by
  unfold step at h
  split at h
  · obtain rfl : tick s = t := by simpa using h
    exact (keeps_tick (Keeps.refl s)).sound hs
  · exact ((completes_exec _ _).keeps h).sound hs

/-- Settles O3: every command and the tick keep the logs within their sizes and the banks' bytes in canonical form. -/
theorem everyStepKeepsSound : Obligations.EveryStepKeepsSound := fun _ _ hs h => sound_of_step hs h

/-- Settles O4: no operation of a command writes the queue. -/
theorem commandsLeaveQueue : Obligations.CommandsLeaveQueue := fun i s _ h => ((completes_exec i s).keeps h).pending

/-- Settles O5: every arm of exec answers a next state. -/
theorem everyCommandCompletes : Obligations.EveryCommandCompletes := fun i s => (completes_exec i s).eq_next

/-- Settles O1: step is exec of the command at the front, or the tick. -/
theorem stepRunsFrontCommand : Obligations.StepRunsFrontCommand := ⟨fun _ _ _ => rfl, fun _ => rfl⟩

/-- At reset a VF's window is empty. -/
theorem tenOf_reset_of_vf {f : Nat} (h : f ≠ 0) :
    (tenOf State.reset f).inForce.base = (tenOf State.reset f).inForce.limit := by
  simp [tenOf, tget, State.reset, HubRegs.reset, Ten.reset, Pair.at_, h]

theorem reset_sound : State.reset.sound := ⟨rfl, rfl⟩

/-- Settles O2: State.reset holds what the spec gives for reset. -/
theorem resetLeaves : Obligations.ResetLeaves := by
  refine ⟨rfl, rfl, rfl, rfl, rfl, rfl, rfl, rfl, rfl, rfl, fun _ => ⟨rfl, rfl, rfl⟩, rfl, fun _ => rfl, rfl, rfl, rfl, rfl,
    rfl, rfl, rfl, rfl, rfl, ?_, reset_sound⟩
  exact fun _ hf => tenOf_reset_of_vf hf

end Sys2Proof.Machine
end

section
/-! The rules that the proofs about single commands share: what a command that completes yields, what is counted and logged,
and what a write to a ring or a descriptor's place leaves. -/

namespace Sys2Proof.Machine

variable {s t u : State} {i : Instr} {post : State → Prop} {f : Func}

/-! ### A command that completes -/

theorem yields_of_ok (h : exec i s = ok u) (hp : post u) : Yields i s post := ⟨u, h, hp⟩

/-! ### Counters -/

@[simp] theorem fixedCtr_bump_self (k : Nat) : fixedCtr (bump k s) k = satInc (fixedCtr s k) := by
  simp [fixedCtr, bump]

theorem bump_eq (k : Nat) : bump k s = { s with cnt := (bump k s).cnt } := rfl

/-! ### Rings -/

theorem otherRings_setRing (r : Ring) : OtherRings f s (setRing f r s) := fun _ hg => ring_setRing_ne _ _ _ _ hg

theorem otherRings_of_rings (h : OtherRings f s t) (hr : u.rings = t.rings) : OtherRings f s u := fun g hg => by
  rw [← h g hg, ring, ring, hr]

/-! ### The requests of a boundary -/

theorem noted_noteOrder (o : Order) : Noted s (noteOrder o s) := rfl

theorem alone_of_eq {o : Obj} (h : Alone o s) (hl : t.log = s.log) (hc : t.clk = s.clk) : Alone o t :=
  fun a ha => h a (by rwa [ordersNow, now, hl, hc] at ha)

/-! ### Entries of the event log -/

/-- The entry that logAs appends. -/
def logEntry (cls code : Nat) (loc : U16) (func : Byte) (master d0 d1 : Nat) (s : State) : LogEntry :=
  { mtb := now s, cls := BitVec.ofNat 8 cls, code := BitVec.ofNat 8 code, loc := loc, func := func,
    master := BitVec.ofNat 8 master, seq := s.log.seq, data0 := BitVec.ofNat 64 d0, data1 := BitVec.ofNat 64 d1,
    seen := false }

theorem logAs_log (cls code : Nat) (loc : U16) (func : Byte) (master d0 d1 : Nat) :
    (logAs cls code loc func master d0 d1 s).log
      = { s.log with events := lastN 4096 (s.log.events ++ [logEntry cls code loc func master d0 d1 s]),
                     seq := s.log.seq + 1#16 } := by
  simp only [logAs, msix_log]
  split <;> rfl

theorem logged_logAs (cls code : Nat) (loc : U16) (func : Byte) (master d0 d1 : Nat) (hc : u.clk = s.clk)
    (hq : u.log.seq = s.log.seq) : Logged cls code s (logAs cls code loc func master d0 d1 u) := by
  rw [Logged, logAs_log, ← hq]
  refine ⟨⟨logEntry cls code loc func master d0 d1 u, ?_, rfl, rfl, congrArg Clk.mtb hc, rfl⟩, rfl⟩
  simp [getLast?_lastN]

/-- The last two of a bounded log that takes two entries. -/
theorem take_two_reverse_lastN {α : Type} (n : Nat) (l : List α) (a b : α) :
    ((lastN (n + 2) (lastN (n + 2) (l ++ [a]) ++ [b])).reverse).take 2 = [b, a] := by
  simp [lastN, List.take_take]

/-- A collision changes the log, what leaves and what is counted, and nothing else. -/
theorem logCollision_eq (x y : Order) (lost : Bool) :
    logCollision x y lost s
      = { s with out := (logCollision x y lost s).out, log := (logCollision x y lost s).log,
                 cnt := (logCollision x y lost s).cnt } :=
  logged_trans (logAs_eq ..) (logAs_eq ..)

@[simp] theorem logCollision_rings (x y : Order) (lost : Bool) : (logCollision x y lost s).rings = s.rings := by
  simp [logCollision]

theorem contend_of_rival {kinds : List Req} {a o : Order} (h : rival s o.obj kinds = some a) :
    contend kinds o s = logCollision a o false (noteOrder o s) := by
  rw [contend, h]

theorem collided_logCollision (x y : Order) (lost : Bool) (hc : u.clk = s.clk) (hq : u.log.seq = s.log.seq) :
    Collided s (logCollision x y lost u) := by
  have hn : now u = now s := congrArg Clk.mtb hc
  refine ⟨logEntry 0x01 0x00 x.obj.loc x.func x.master (u.log.seq + 1#16).toNat x.hsn.toNat u,
    logEntry 0x01 (if lost then 0x40 else 0x00) y.obj.loc y.func y.master u.log.seq.toNat y.hsn.toNat
      (logAs 0x01 0x00 x.obj.loc x.func x.master (u.log.seq + 1#16).toNat x.hsn.toNat u), ?_, rfl, rfl, hn, ?_, hq, ?_, ?_, ?_⟩
  · rw [logCollision, logAs_log, logAs_log]
    exact take_two_reverse_lastN 4094 _ _ _
  · simp [logEntry, now, hc]
  · simp [logEntry, logAs_log, hq]
  · simp [logEntry, logAs_log]
  · simp [logEntry]

end Sys2Proof.Machine
end

section
/-! Doorbells and ring registers (03 R65, R66; 04 R92 to R100). -/

namespace Sys2Proof.Machine

variable {s : State} {f : Func} {pg : Bool} {v : U64}

/-! ### WORK_DOORBELL -/

theorem epochOk_of_epoch {r : Ring} {e : Nat} (h : r.epoch.toNat = e) : epochOk r 32 e = true := by
  subst h
  rw [epochOk, Nat.mod_eq_of_lt r.epoch.isLt, decide_eq_true rfl, Bool.true_or]

/-- The ring that a doorbell leaves. -/
def rung (r : Ring) (v : U64) : Ring :=
  { r with tail := bits v.toNat 0 16, doneCons := bits v.toNat 16 16, stalled := false, replaced := none }

section
variable (hup : s.boot.relHost = true) (he : (ring s f).epoch.toNat = bits v.toNat 32 32)
    (htail : bits v.toNat 0 16 < workSlots (ring s f)) (hdone : bits v.toNat 16 16 < doneSlots (ring s f))
    (hahead : ((ring s f).tail + workSlots (ring s f) - (ring s f).fetchHead) % workSlots (ring s f)
      ≤ (bits v.toNat 0 16 + workSlots (ring s f) - (ring s f).fetchHead) % workSlots (ring s f))
include hup he htail hdone hahead

/-- A doorbell of the ring's epoch whose tail lies ahead is latched where the ring is enabled or its disable is latched with
it. -/
theorem exec_workDoorbell_of_ahead (hpg : foreignPage pg f = false) (hflr : rival s (.ring f) [.flr] = none)
    (hen : (ring s f).enable = true ∨ (rival s (.ring f) [.disable]).isSome = true) :
    execWorkDoorbell pg f v s
      = ok (contend [.disable, .doorbell] (ownOrder (.ring f) .doorbell f 0#32) (setRing f (rung (ring s f) v) s)) := by
  have hlive : (!(ring s f).enable && (rival s (.ring f) [.disable]).isNone) = false := by
    rcases hen with h | h
    · simp [h]
    · rw [Option.isNone_eq_false_iff.mpr h, Bool.and_false]
  simp [execWorkDoorbell, hostUp, hup, hpg, hflr, hlive, epochOk_of_epoch he, he, Nat.not_le.mpr htail,
    Nat.not_le.mpr hdone, Nat.not_lt.mpr hahead, rung]

theorem yields_workDoorbell (hpg : foreignPage pg f = false) (hen : (ring s f).enable = true) (ha : Alone (.ring f) s) :
    Yields (.workDoorbell pg f v) s fun t =>
      (ring t f).tail = bits v.toNat 0 16 ∧ (ring t f).doneCons = bits v.toNat 16 16 ∧ (ring t f).stalled = false
      ∧ (ring t f).fetchHead = (ring s f).fetchHead ∧ (ring t f).built = (ring s f).built
      ∧ OtherRings f s t ∧ Noted s t ∧ t = { s with rings := t.rings, log := t.log } := by
  have hu := exec_workDoorbell_of_ahead hup he htail hdone hahead hpg (rival_of_alone ha _) (.inl hen)
  rw [contend_of_alone (alone_of_eq ha rfl rfl)] at hu
  have hring : ring (noteOrder (ownOrder (.ring f) .doorbell f 0#32) (setRing f (rung (ring s f) v) s)) f
      = rung (ring s f) v := ring_setRing_self s f _
  refine yields_of_ok hu ?_
  simp only [hring]
  exact ⟨rfl, rfl, rfl, rfl, rfl, otherRings_setRing _, rfl, rfl⟩

theorem yields_workDoorbell_of_disable {a : Order} (hflr : rival s (.ring f) [.flr] = none)
    (hdis : rival s (.ring f) [.disable] = some a) (hriv : rival s (.ring f) [.disable, .doorbell] = some a) :
    Yields (.workDoorbell false f v) s fun t =>
      (ring t f).tail = bits v.toNat 0 16 ∧ (ring t f).enable = (ring s f).enable ∧ Collided s t ∧ OtherRings f s t
      ∧ t = { s with rings := t.rings, log := t.log, out := t.out, cnt := t.cnt } := by
  have hu := exec_workDoorbell_of_ahead hup he htail hdone hahead (pg := false) rfl hflr (.inr (by rw [hdis]; rfl))
  rw [contend_of_rival (a := a) hriv] at hu
  have hring : ring (logCollision a (ownOrder (.ring f) .doorbell f 0#32) false (noteOrder (ownOrder (.ring f) .doorbell f 0#32)
      (setRing f (rung (ring s f) v) s))) f = rung (ring s f) v := by
    simp [ring, noteOrder, setRing]
  refine yields_of_ok hu ?_
  simp only [hring]
  exact ⟨rfl, rfl, collided_logCollision _ _ _ rfl rfl, otherRings_of_rings (otherRings_setRing _) (logCollision_rings ..),
    (logCollision_eq ..).trans (by rw [logCollision_rings]; rfl)⟩

end

/-- A doorbell through another function's page, or of a ring that is disabled, is dropped and counted. -/
theorem yields_workDoorbell_dropped (hup : s.boot.relHost = true)
    (h : foreignPage pg f = true ∨ ((ring s f).enable = false ∧ Alone (.ring f) s)) :
    Yields (.workDoorbell pg f v) s fun t => fixedCtr t 0 = satInc (fixedCtr s 0) ∧ t = { s with cnt := t.cnt } := by
  have hu : execWorkDoorbell pg f v s = ok (bump 0 s) := by
    rcases h with hpg | ⟨hen, ha⟩
    · simp [execWorkDoorbell, hostUp, hup, hpg]
    · simp [execWorkDoorbell, hostUp, hup, hen, rival_of_alone ha]
  exact yields_of_ok hu ⟨fixedCtr_bump_self 0, rfl⟩

/-! ### CANCEL_DOORBELL -/

/-- A cancel of an HSN that is not in flight waits where the HSN is still to come, and is a miss where it is past. -/
theorem exec_cancelDoorbell_of_absent (hup : s.boot.relHost = true) (hpg : foreignPage pg f = false)
    (hen : (ring s f).enable = true) (ha : Alone (.ring f) s) (he : epochOk (ring s f) 16 (bits v.toNat 48 16) = true)
    (hrow : bits v.toNat 32 16 = 0xFFFF) (hfind : findHsn s f (v.extractLsb' 0 32) = none) :
    execCancelDoorbell pg f v s
      = ok (if later (v.extractLsb' 0 32) (ring s f).lastHsn then
          if (ring s f).cancels.length < 16 then
            noteOrder (ownOrder (.desc f (v.extractLsb' 0 32)) .cancel f (v.extractLsb' 0 32))
              (setRing f { ring s f with cancels := (ring s f).cancels ++ [(v.extractLsb' 0 32, 0xFFFF#16)] } s)
          else bump 0 s
        else bump 1 s) := by
  simp [execCancelDoorbell, hostUp, hup, hpg, hen, he, hrow, hfind, rival_of_alone ha]
  split
  · split <;> rfl
  · rfl

theorem yields_cancelDoorbell_early (hup : s.boot.relHost = true) (hpg : foreignPage pg f = false)
    (hen : (ring s f).enable = true) (ha : Alone (.ring f) s) (he : epochOk (ring s f) 16 (bits v.toNat 48 16) = true)
    (hrow : bits v.toNat 32 16 = 0xFFFF) (hfind : findHsn s f (v.extractLsb' 0 32) = none)
    (hlate : later (v.extractLsb' 0 32) (ring s f).lastHsn = true) (hroom : (ring s f).cancels.length < 16) :
    Yields (.cancelDoorbell pg f v) s fun t =>
      (ring t f).cancels = (ring s f).cancels ++ [(v.extractLsb' 0 32, 0xFFFF#16)]
      ∧ OtherRings f s t ∧ Noted s t ∧ t = { s with rings := t.rings, log := t.log } := by
  have hu := exec_cancelDoorbell_of_absent hup hpg hen ha he hrow hfind
  rw [if_pos hlate, if_pos hroom] at hu
  exact yields_of_ok hu ⟨congrArg Ring.cancels (ring_setRing_self s f _), otherRings_setRing _, rfl, rfl⟩

theorem yields_cancelDoorbell_miss (hup : s.boot.relHost = true) (hpg : foreignPage pg f = false)
    (hen : (ring s f).enable = true) (ha : Alone (.ring f) s) (he : epochOk (ring s f) 16 (bits v.toNat 48 16) = true)
    (hrow : bits v.toNat 32 16 = 0xFFFF) (hfind : findHsn s f (v.extractLsb' 0 32) = none)
    (hpast : later (v.extractLsb' 0 32) (ring s f).lastHsn = false) :
    Yields (.cancelDoorbell pg f v) s fun t => fixedCtr t 1 = satInc (fixedCtr s 1) ∧ t = { s with cnt := t.cnt } := by
  have hu := exec_cancelDoorbell_of_absent hup hpg hen ha he hrow hfind
  rw [if_neg (by simp [hpast])] at hu
  exact yields_of_ok hu ⟨fixedCtr_bump_self 1, rfl⟩

/-! ### The ring registers -/

theorem yields_ringCfgWrite_enable (hup : s.boot.relHost = true) (hen : (ring s f).enable = false)
    (hsync : (ring s f).needResync = false) (ha : Alone (.ring f) s) (hw : (ring s f).wsize.toNat ≤ 10)
    (hd : (ring s f).dsize.toNat ≤ 10) (hwsize : bits v.toNat 0 4 = (ring s f).wsize.toNat)
    (hdsize : bits v.toNat 4 4 = (ring s f).dsize.toNat) (hbit : bitAt v.toNat 9 = true) :
    Yields (.ringCfgWrite false f .whole v) s fun t =>
      (ring t f).enable = true ∧ (ring t f).msix = bitAt v.toNat 8 ∧ (ring t f).wbase = (ring s f).wbase
      ∧ (ring t f).tail = (ring s f).tail ∧ OtherRings f s t ∧ t = { s with rings := t.rings } := by
  have hlost : enableLost false f s = none := by
    unfold enableLost
    split
    · rfl
    · exact rival_of_alone ha _
  have hu : execRingCfgWrite false f .whole v s
      = ok (setRing f { ring s f with msix := bitAt v.toNat 8, enable := true } s) := by
    simp [execRingCfgWrite, hostUp, hup, foreignPage, mergeHalf, hwsize, hdsize, hen, hsync, hbit, hlost,
      Nat.not_lt.mpr hw, Nat.not_lt.mpr hd]
  refine yields_of_ok hu ⟨?_, ?_, ?_, ?_, otherRings_setRing _, rfl⟩ <;> rw [ring_setRing_self]

theorem yields_ringBaseWrite (done : Bool) (hup : s.boot.relHost = true) (hen : (ring s f).enable = false)
    (hal : baseAligned v (if done then 32 * doneSlots (ring s f) else 64 * workSlots (ring s f)) = true) :
    Yields (.ringBaseWrite false f done .whole v) s fun t =>
      (if done then (ring t f).dbase else (ring t f).wbase) = v
      ∧ (if done then (ring t f).wbase else (ring t f).dbase) = (if done then (ring s f).wbase else (ring s f).dbase)
      ∧ (ring t f).tail = 0 ∧ (ring t f).fetchHead = 0 ∧ (ring t f).doneIdx = 0 ∧ (ring t f).phase = true
      ∧ OtherRings f s t ∧ t = { s with rings := t.rings } := by
  have hu : execRingBaseWrite false f done .whole v s
      = ok (setRing f (clearIndices (if done then { ring s f with dbase := v } else { ring s f with wbase := v })) s) := by
    simp [execRingBaseWrite, hostUp, hup, foreignPage, mergeHalf, hen, hal]
  refine yields_of_ok hu ⟨?_, ?_, ?_, ?_, ?_, ?_, otherRings_setRing _, rfl⟩ <;> rw [ring_setRing_self] <;> cases done <;> rfl

/-! ### Accesses to a doorbell page -/

theorem yields_pageRead (off : Nat) (hup : s.boot.relHost = true) (hal : off % 8 = 0) :
    Yields (.doorbellPageBadAccess pg f false off 8) s fun t =>
      t.out = s.out ++ [.regData off (BitVec.ofNat 64 (pageReg (ring s f) off))] ∧ t = { s with out := t.out } := by
  have hoff : off / 8 * 8 = off := by omega
  have hv (n : Nat) : BitVec.ofNat 64 (n % 2 ^ 64) = BitVec.ofNat 64 n := BitVec.eq_of_toNat_eq (by simp)
  have hu : execDoorbellPageBadAccess pg f false off 8 s
      = ok (emit (.regData off (BitVec.ofNat 64 (pageReg (ring s f) off))) s) := by
    simp [execDoorbellPageBadAccess, hostUp, hup, hal, hoff, ← hv (pageReg (ring s f) off)]
  exact yields_of_ok hu ⟨rfl, rfl⟩

theorem yields_pageRead_misaligned (off : Nat) (hup : s.boot.relHost = true) (hal : off % 8 ≠ 0) :
    Yields (.doorbellPageBadAccess pg f false off 8) s fun t =>
      t.out = s.out ++ [.regData off 0#64] ∧ t = { s with out := t.out } := by
  have hu : execDoorbellPageBadAccess pg f false off 8 s = ok (emit (.regData off 0#64) s) := by
    simp [execDoorbellPageBadAccess, hostUp, hup, hal]
  exact yields_of_ok hu ⟨rfl, rfl⟩

theorem yields_pageWrite_misaligned (off : Nat) (hup : s.boot.relHost = true) (hal : off % 8 ≠ 0) :
    Yields (.doorbellPageBadAccess pg f true off 8) s fun t =>
      fixedCtr t 0 = satInc (fixedCtr s 0) ∧ t = { s with cnt := t.cnt } := by
  have hu : execDoorbellPageBadAccess pg f true off 8 s = ok (bump 0 s) := by
    simp [execDoorbellPageBadAccess, hostUp, hup, hal]
  exact yields_of_ok hu ⟨fixedCtr_bump_self 0, rfl⟩

/-- Settles O6: each access by the equation of its command. -/
theorem doorbellsAndRingRegistersAct : Obligations.DoorbellsAndRingRegistersAct := by
  unfold Obligations.DoorbellsAndRingRegistersAct
  refine ⟨?ring, ?disabled, ?dropped, ?early, ?miss, ?cfg, ?base, ?read, ?misread, ?miswrite⟩
  case ring =>
    exact fun _ _ _ _ hup hpg hen ha he htail hdone hahead => yields_workDoorbell hup he htail hdone hahead hpg hen ha
  case disabled =>
    exact fun _ _ _ _ hup hflr hdis hriv he htail hdone hahead =>
      yields_workDoorbell_of_disable hup he htail hdone hahead hflr hdis hriv
  case dropped => exact fun _ _ _ _ hup h => yields_workDoorbell_dropped hup h
  case early =>
    exact fun _ _ _ _ hup hpg hen ha he hrow hfind hlate hroom =>
      yields_cancelDoorbell_early hup hpg hen ha he hrow hfind hlate hroom
  case miss =>
    exact fun _ _ _ _ hup hpg hen ha he hrow hfind hpast =>
      yields_cancelDoorbell_miss hup hpg hen ha he hrow hfind hpast
  case cfg =>
    exact fun _ _ _ hup hen hsync ha hw hd hwsize hdsize hbit =>
      yields_ringCfgWrite_enable hup hen hsync ha hw hd hwsize hdsize hbit
  case base => exact fun _ _ done _ hup hen hal => yields_ringBaseWrite done hup hen hal
  case read => exact fun _ _ _ off hup hal => yields_pageRead off hup hal
  case misread => exact fun _ _ _ off hup hal => yields_pageRead_misaligned off hup hal
  case miswrite => exact fun _ _ _ off hup hal => yields_pageWrite_misaligned off hup hal

end Sys2Proof.Machine
end

section
/-! The fetch of descriptors where the table of places lists a place twice. -/

namespace Sys2Proof.Machine
open Sys2Proof.Tests

/-- The ring's place 0 is listed twice: a failed fetch at the fetch head, and behind it an accepted descriptor. -/
def listedTwice : State := { tRing with places := [(0, dFailed), (0, { dFailed with stage := .accepted })] }

theorem headDesc_listedTwice : headDesc listedTwice 1 = some (0, dFailed) := by decide

theorem desc_refuseFetch_listedTwice :
    desc (refuseFetch 1 listedTwice) 0 = some { dFailed with stage := .accepted } := by decide

/-- Refutes O7: where a state lists a place twice, DESCRIPTOR_ACCEPT of the failed fetch drops the first entry of the place, and
the second one is then what the place holds. -/
theorem not_descriptorsAreFetchedAndAccepted : ¬ Obligations.DescriptorsAreFetchedAndAccepted := by
  unfold Obligations.DescriptorsAreFetchedAndAccepted
  rintro ⟨-, -, -, hfailed, -⟩
  obtain ⟨t, ht, -, -, -, -, hgone, -⟩ := hfailed listedTwice 1 0 dFailed headDesc_listedTwice rfl rfl
  obtain rfl : refuseFetch 1 listedTwice = t := by simpa [exec, execDescriptorAccept, headDesc_listedTwice, dFailed, ok] using ht
  exact absurd (desc_refuseFetch_listedTwice.symm.trans hgone) (by decide)

end Sys2Proof.Machine
end

section
/-! Completions and done records (04 R109 to R111, R118, R127). -/

namespace Sys2Proof.Machine

variable {s : State} {f : Func} {p : Place} {d : Desc}

/-! ### What the end of a context and of its regions leaves -/

/-- The rings, the places, the banks and the Marl's copies. -/
def workOf (s : State) : Tab Ring × Tab Desc × Banks × Tab Copy := (s.rings, s.places, s.bank, s.marl.copies)

@[simp] theorem workOf_seq (q : Seq) : workOf { s with seq := q } = workOf s := rfl

theorem workOf_foldl {α : Type} {g : State → α → State} (hg : ∀ u a, workOf (g u a) = workOf u) (l : List α) (s : State) :
    workOf (l.foldl g s) = workOf s :=
  foldl_keeps workOf g hg l s

@[simp] theorem workOf_releaseRegion (id : Nat) : workOf (releaseRegion id s) = workOf s := by
  unfold releaseRegion
  split
  · rfl
  · split <;> rfl

@[simp] theorem workOf_clearRes (n res : Nat) : workOf (clearRes n res s) = workOf s := by
  unfold clearRes
  dsimp only
  split
  · rfl
  · split <;> rfl

@[simp] theorem workOf_leaveWires (x : CtxNo) : workOf (leaveWires x s) = workOf s := by
  refine workOf_foldl (fun u w => ?_) _ s
  dsimp only
  split <;> rfl

@[simp] theorem workOf_wipeFlags (sp : FlagSpace) (ns : List Nat) : workOf (wipeFlags sp ns s) = workOf s := by
  simp [workOf]

@[simp] theorem workOf_eraseCtx (n : Nat) : workOf (eraseCtx n s) = workOf s := rfl

@[simp] theorem workOf_freeCtx (x : CtxNo) : workOf (freeCtx x s) = workOf s := by
  unfold freeCtx
  split
  · rfl
  · simp only [workOf_seq, workOf_wipeFlags, workOf_leaveWires, workOf_eraseCtx]
    rw [workOf_foldl (fun _ _ => workOf_clearRes _ _), workOf_foldl (fun _ _ => workOf_releaseRegion _)]

@[simp] theorem workOf_releasePlace (p : Place) : workOf (releasePlace p s) = workOf s :=
  workOf_foldl (fun _ _ => workOf_releaseRegion _) _ s

/-- What follows a descriptor's record: its context and its regions are released, its shipment is forgotten. -/
def closeWork (p : Place) (d : Desc) (clip : Bool) (s : State) : State :=
  let s1 := match d.ctx with
    | some x => freeCtx x s
    | none => s
  let s2 := releasePlace p s1
  let s3 := if clip then bump 11 s2 else s2
  { s3 with serve := { s3.serve with shipsOut := terase s3.serve.shipsOut p.val, steps := s3.serve.steps } }

@[simp] theorem workOf_closeWork (p : Place) (d : Desc) (clip : Bool) : workOf (closeWork p d clip s) = workOf s := by
  have hctx : workOf (match d.ctx with
      | some x => freeCtx x s
      | none => s) = workOf s := by
    split
    · exact workOf_freeCtx _
    · rfl
  cases clip
  · exact (workOf_releasePlace p).trans hctx
  · exact (workOf_releasePlace p).trans hctx

/-! ### The record -/

theorem statusCode_lt (st : Status) : statusCode st < 2 ^ 8 := by cases st <;> decide

theorem opcodeOf_lt (ws : List U64) : opcodeOf ws < 2 ^ 8 := Nat.mod_lt _ (by decide)

/-- The first word of a record: the status, the opcode, bit 17 and the DSN. -/
theorem recordWord_fields {st op dsn : Nat} {b : Nat} (hst : st < 2 ^ 8) (hop : op < 2 ^ 8) (hb : b = 2 ^ 17 ∨ b = 0)
    (hdsn : dsn < 2 ^ 32) :
    (BitVec.ofNat 64 (st + op * 2 ^ 8 + b + dsn * 2 ^ 32)).toNat / 2 ^ 32 = dsn
    ∧ bits (BitVec.ofNat 64 (st + op * 2 ^ 8 + b + dsn * 2 ^ 32)).toNat 8 8 = op := by
  have hlt : st + op * 2 ^ 8 + b + dsn * 2 ^ 32 < 2 ^ 64 := by omega
  rw [BitVec.toNat_ofNat, Nat.mod_eq_of_lt hlt, bits]
  constructor
  · omega
  · omega

/-- The record that ends a descriptor is the last built of its ring, with the next DSN. -/
theorem buildRecord_rings (p : Place) (d : Desc) :
    ∃ r : DoneRec, (buildRecord p d s).rings
        = (setRing d.func { ring s d.func with lastBuilt := (ring s d.func).lastBuilt + 1#32,
                                               built := (ring s d.func).built ++ [r] } s).rings
      ∧ r.place = p ∧ r.w2 = now s ∧ r.w0.toNat / 2 ^ 32 = ((ring s d.func).lastBuilt + 1#32).toNat
      ∧ r.w1.toNat = d.hsn.toNat + d.epoch.toNat * 2 ^ 32 ∧ bits r.w0.toNat 8 8 = opcodeOf d.words := by
  have hw := recordWord_fields (st := statusCode (chosen d.conds)) (op := opcodeOf d.words)
    (b := if multiOf d.conds || stepDiffers s p (chosen d.conds) then 2 ^ 17 else 0)
    (dsn := ((ring s d.func).lastBuilt + 1#32).toNat) (statusCode_lt _) (opcodeOf_lt _) (by split <;> simp) (BitVec.isLt _)
  refine ⟨{ w0 := BitVec.ofNat 64 (statusCode (chosen d.conds) + opcodeOf d.words * 2 ^ 8
              + (if multiOf d.conds || stepDiffers s p (chosen d.conds) then 2 ^ 17 else 0)
              + ((ring s d.func).lastBuilt + 1#32).toNat * 2 ^ 32),
            w1 := BitVec.ofNat 64 (d.hsn.toNat + d.epoch.toNat * 2 ^ 32), w2 := now s, w3 := detailOf s d,
            quiet := quietOf d.words, place := p }, ?_, rfl, rfl, hw.1, ?_, hw.2⟩
  · unfold buildRecord
    dsimp only
    split <;> simp
  · have := d.hsn.isLt
    have := d.epoch.isLt
    rw [BitVec.toNat_ofNat]
    exact Nat.mod_eq_of_lt (by omega)

theorem buildRecord_places (p : Place) (d : Desc) :
    (buildRecord p d s).places = (setDesc p { d with stage := .built } s).places := by
  unfold buildRecord
  dsimp only
  split <;> simp [setDesc]

/-- Where no CANCEL names the descriptor, its ending settles none. -/
theorem settleCancels_of_unnamed
    (h : ∀ q ∈ s.places, opcodeOf q.2.words = 0x12 → ∀ e ∈ q.2.prog.pages, e / 65536 ≠ d.acc) :
    settleCancels p d s = s := by
  have hnil : s.places.filter (fun q => decide (opcodeOf q.2.words = 0x12) && inFlight q.2
      && q.2.prog.pages.any (fun e => decide (e / 65536 = d.acc))) = [] := by
    refine List.filter_eq_nil_iff.mpr fun q hq hc => ?_
    obtain ⟨⟨hop, -⟩, hany⟩ : (opcodeOf q.2.words = 0x12 ∧ inFlight q.2 = true)
        ∧ ∃ e ∈ q.2.prog.pages, e / 65536 = d.acc := by simpa using hc
    obtain ⟨e, he, hacc⟩ := hany
    exact h q hq hop e he hacc
  simp only [settleCancels, hnil, List.foldl_nil]

/-! ### DESCRIPTOR_COMPLETION -/

/-- The descriptor whose record a completion builds: its statuses and its detail may change, and nothing else. -/
def recorded (s : State) (d : Desc) : Desc :=
  if (d.clipped || islClip s islHost) && decide (d.conds = []) && decide (opcodeOf d.words ≠ 0x11) then
    { d with conds := [.doneClipped] }
  else cancelDetail s d

theorem recorded_keeps :
    (recorded s d).func = d.func ∧ (recorded s d).words = d.words ∧ (recorded s d).hsn = d.hsn
    ∧ (recorded s d).epoch = d.epoch := by
  unfold recorded cancelDetail
  split
  · exact ⟨rfl, rfl, rfl, rfl⟩
  · split <;> exact ⟨rfl, rfl, rfl, rfl⟩

/-- Whether a record tells that its work was clipped. -/
def tellsClip (s : State) (d : Desc) : Bool :=
  (d.clipped || islClip s islHost) && decide (d.conds = []) && decide (opcodeOf d.words ≠ 0x11)

theorem execDescriptorCompletion_of_ended (hp : desc s p = some d) (hst : d.stage = .ended) (hd : d.discard = false)
    (hturn : recordTurn s p d = true) (hstep : tfind s.serve.steps p.val = none)
    (hq : ∀ q ∈ s.places, opcodeOf q.2.words = 0x12 → ∀ e ∈ q.2.prog.pages, e / 65536 ≠ d.acc) :
    execDescriptorCompletion p s
      = ok (closeWork p d (tellsClip s d) (buildRecord p (recorded s d) (undefineWork d s))) := by
  have hset : settleCancels p d (undefineWork d s) = undefineWork d s :=
    settleCancels_of_unnamed (fun q hm => hq q (by simpa using hm))
  have hlive : ¬d.discard = true := by simp [hd]
  simp only [execDescriptorCompletion, hp, if_pos (show d.stage = .ended ∧ recordTurn s p d = true
    ∧ (tfind s.serve.steps p.val).all (fun t => t.sent || d.discard) = true from ⟨hst, hturn, by simp [hstep]⟩), hset,
    if_neg hlive]
  rfl

theorem undefineWork_of_defined (h : endsUndefined d = false) : undefineWork d s = s := by
  simp [undefineWork, h]

theorem yields_descriptorCompletion (hp : desc s p = some d) (hst : d.stage = .ended) (hd : d.discard = false)
    (hturn : recordTurn s p d = true) (hstep : tfind s.serve.steps p.val = none)
    (hq : ∀ q ∈ s.places, opcodeOf q.2.words = 0x12 → ∀ e ∈ q.2.prog.pages, e / 65536 ≠ d.acc) :
    Yields (.descriptorCompletion p) s fun t =>
      (∃ r : DoneRec, (ring t d.func).built = (ring s d.func).built ++ [r] ∧ r.place = p ∧ r.w2 = now s
        ∧ r.w0.toNat / 2 ^ 32 = ((ring s d.func).lastBuilt + 1#32).toNat
        ∧ r.w1.toNat = d.hsn.toNat + d.epoch.toNat * 2 ^ 32 ∧ bits r.w0.toNat 8 8 = bits (opcodeOf d.words) 0 8)
      ∧ (ring t d.func).lastBuilt = (ring s d.func).lastBuilt + 1#32
      ∧ (∃ e, desc t p = some e ∧ e.stage = .built) ∧ (∀ q, q ≠ p → desc t q = desc s q) ∧ OtherRings d.func s t
      ∧ (endsUndefined d = false → t.bank = s.bank ∧ t.marl.copies = s.marl.copies) := by
  refine yields_of_ok (execDescriptorCompletion_of_ended hp hst hd hturn hstep hq) ?_
  generalize ht : closeWork p d (tellsClip s d) (buildRecord p (recorded s d) (undefineWork d s)) = t
  have hwork : workOf t = workOf (buildRecord p (recorded s d) (undefineWork d s)) := ht ▸ workOf_closeWork _ _ _
  obtain ⟨hrings, hplaces, hbank, hcopies⟩ : t.rings = (buildRecord p (recorded s d) (undefineWork d s)).rings
      ∧ t.places = (buildRecord p (recorded s d) (undefineWork d s)).places
      ∧ t.bank = (undefineWork d s).bank ∧ t.marl.copies = (undefineWork d s).marl.copies := by
    simpa [workOf] using hwork
  obtain ⟨hfunc, hwords, hhsn, hepoch⟩ := recorded_keeps (s := s) (d := d)
  obtain ⟨r, hbuilt, hplace, hw2, hdsn, hw1, hop⟩ := buildRecord_rings (s := undefineWork d s) p (recorded s d)
  have hring : ring (undefineWork d s) = ring s := by funext g; simp [ring]
  rw [buildRecord_places] at hplaces
  rw [hbuilt] at hrings
  rw [hfunc, hring] at hrings hdsn
  rw [hhsn, hepoch] at hw1
  rw [hwords] at hop
  have hself : ring t d.func = { ring s d.func with lastBuilt := (ring s d.func).lastBuilt + 1#32,
                                                    built := (ring s d.func).built ++ [r] } := by
    rw [ring, hrings]
    exact ring_setRing_self _ _ _
  refine ⟨⟨r, by rw [hself], hplace, by simpa [now] using hw2, hdsn, hw1, ?_⟩, by rw [hself], ?_, ?_, ?_, ?_⟩
  · rw [hop, bits, Nat.pow_zero, Nat.div_one]
    exact (Nat.mod_eq_of_lt (opcodeOf_lt _)).symm
  · refine ⟨{ recorded s d with stage := .built }, ?_, rfl⟩
    rw [desc, hplaces]
    exact desc_setDesc_self _ _ _
  · intro q hqp
    rw [desc, hplaces]
    exact (desc_setDesc_ne _ _ _ _ hqp).trans (by simp [desc])
  · refine otherRings_of_rings (t := setRing d.func _ (undefineWork d s)) (fun g hg => ?_) hrings
    rw [ring_setRing_ne _ _ _ _ hg, hring]
  · intro hdef
    rw [undefineWork_of_defined hdef] at hbank hcopies
    exact ⟨hbank, hcopies⟩

/-! ### DONE_RECORD_WRITE and HOST_WRITE_REJECTED -/

/-- The state in which a ring's oldest record has been written to its slot. -/
def writtenRecord (f : Func) (x : DoneRec) (rest : List DoneRec) (s : State) : State :=
  let r := ring s f
  let next := (r.doneIdx + 1) % doneSlots r
  let s1 := setRing f { r with built := rest, doneIdx := next, phase := if next = 0 then !r.phase else r.phase,
                               lastDsn := BitVec.ofNat 32 (x.w0.toNat / 2 ^ 32) } s
  let s2 := emit (.hostWrite (r.dbase + BitVec.ofNat 64 (32 * r.doneIdx))
    [BitVec.ofNat 64 (x.w0.toNat + if r.phase then 2 ^ 16 else 0), x.w1, x.w2, x.w3]) s1
  let s3 := freePlace x.place { s2 with serve := { s2.serve with steps := terase s2.serve.steps x.place.val } }
  bumpFuncBy f 1 1 (countEv 0x02 0 (some f) 1 s3)

section
variable {x : DoneRec} {rest : List DoneRec} (hup : s.boot.relHost = true) (hb : (ring s f).built = x :: rest)
    (hroom : ((ring s f).doneIdx + 1) % doneSlots (ring s f) ≠ (ring s f).doneCons)
    (hstep : tfind s.serve.steps x.place.val = none)
include hup hb hroom hstep

theorem yields_doneRecordWrite :
    Yields (.doneRecordWrite f) s fun t =>
      t.out = s.out ++ .hostWrite ((ring s f).dbase + BitVec.ofNat 64 (32 * (ring s f).doneIdx))
          [BitVec.ofNat 64 (x.w0.toNat + if (ring s f).phase then 2 ^ 16 else 0), x.w1, x.w2, x.w3]
        :: (if (ring s f).msix = true ∧ x.quiet = false then [.msix f 0] else [])
      ∧ (ring t f).built = rest ∧ (ring t f).doneIdx = ((ring s f).doneIdx + 1) % doneSlots (ring s f)
      ∧ ((ring t f).phase = (ring s f).phase ↔ ((ring s f).doneIdx + 1) % doneSlots (ring s f) ≠ 0)
      ∧ desc t x.place = none ∧ (∀ q, q ≠ x.place → desc t q = desc s q) ∧ OtherRings f s t := by
  have hring : ¬(((ring s f).doneIdx + 1) % doneSlots (ring s f) = (ring s f).doneCons ∨ False
      ∨ s.boot.relHost = false) := by simp [hroom, hup]
  have hu : execDoneRecordWrite f s = ok (if (ring s f).msix ∧ !x.quiet then msix f 0 (writtenRecord f x rest s)
      else writtenRecord f x rest s) := by
    simp only [execDoneRecordWrite, hb, hstep, Option.any_none, Bool.false_eq_true, hostUp, if_neg hring]
    rfl
  have hself : ring (writtenRecord f x rest s) f
      = { ring s f with built := rest, doneIdx := ((ring s f).doneIdx + 1) % doneSlots (ring s f),
                        phase := if ((ring s f).doneIdx + 1) % doneSlots (ring s f) = 0 then !(ring s f).phase
                          else (ring s f).phase,
                        lastDsn := BitVec.ofNat 32 (x.w0.toNat / 2 ^ 32) } := ring_setRing_self s f _
  refine yields_of_ok hu ?_
  generalize ht : (if (ring s f).msix ∧ !x.quiet then msix f 0 (writtenRecord f x rest s)
    else writtenRecord f x rest s) = t
  have hrings : t.rings = (writtenRecord f x rest s).rings := by rw [← ht]; split <;> rfl
  have hplaces : t.places = terase s.places x.place.val := by rw [← ht]; split <;> rfl
  have hout : t.out = s.out ++ .hostWrite ((ring s f).dbase + BitVec.ofNat 64 (32 * (ring s f).doneIdx))
      [BitVec.ofNat 64 (x.w0.toNat + if (ring s f).phase then 2 ^ 16 else 0), x.w1, x.w2, x.w3]
      :: (if (ring s f).msix = true ∧ x.quiet = false then [.msix f 0] else []) := by
    rw [← ht]
    by_cases h : (ring s f).msix = true ∧ x.quiet = false
    · simp [h, writtenRecord, msix, emit, bumpFuncBy, countEv, setRing]
    · have h' : ¬((ring s f).msix = true ∧ (!x.quiet) = true) := by simpa using h
      rw [if_neg h, if_neg h']
      simp [writtenRecord, emit, bumpFuncBy, countEv, setRing]
  have hringt : ring t f = ring (writtenRecord f x rest s) f := by rw [ring, hrings, ring]
  rw [hringt, hself]
  refine ⟨hout, rfl, rfl, ?_, ?_, ?_, ?_⟩
  · by_cases h : ((ring s f).doneIdx + 1) % doneSlots (ring s f) = 0 <;> simp [h]
  · rw [desc, hplaces]
    exact desc_freePlace_self s x.place
  · intro q hq
    rw [desc, hplaces]
    exact desc_freePlace_ne _ _ _ hq
  · exact otherRings_of_rings (otherRings_setRing _) hrings
end

theorem yields_hostWriteRejected (k : HostWriteKind) :
    Yields (.hostWriteRejected f k) s fun t =>
      (∃ e : LogEntry, t.log.events.getLast? = some e ∧ e.cls = 0x03#8 ∧ e.func = BitVec.ofNat 8 f.val
        ∧ e.mtb = now s ∧ e.seq = s.log.seq)
      ∧ t.log.seq = s.log.seq + 1#16 ∧ (∀ g, ring t g = ring s g)
      ∧ t = { s with log := t.log, out := t.out, cnt := t.cnt } := by
  refine yields_of_ok (u := logFn 0x03 0x30 (locOf 5 f.val) f 0 0 s) rfl ⟨⟨logEntry 0x03 0x30 (locOf 5 f.val)
    (BitVec.ofNat 8 f.val) (masterOf f) 0 0 s, ?_, rfl, rfl, rfl, rfl⟩, ?_, fun g => by simp [ring], logAs_eq ..⟩
  · rw [logFn, logAs_log]
    simp [getLast?_lastN]
  · rw [logFn, logAs_log]

/-- Settles O8: a completion builds its record at once, and what it releases leaves the rings and the places alone. -/
theorem doneRecordsAreWritten : Obligations.DoneRecordsAreWritten := by
  refine ⟨?completion, ?write, ?rejected⟩
  case completion => exact fun _ _ _ hp hst hd hturn hstep hq => yields_descriptorCompletion hp hst hd hturn hstep hq
  case write => exact fun _ _ _ _ hup hb hroom hstep => yields_doneRecordWrite hup hb hroom hstep
  case rejected => exact fun _ _ k => yields_hostWriteRejected k

end Sys2Proof.Machine
end

section
/-! What the descriptors' commands share: the descriptor that a command finds, and the one that it leaves. -/

namespace Sys2Proof.Machine

variable {s t u : State} {p : Place} {d e : Desc}

theorem startable_eq_some {op : Nat} :
    startable s p op = some d ↔ desc s p = some d ∧ d.stage = .accepted ∧ opcodeOf d.words = op ∧ mayStart s d = true := by
  unfold startable
  split
  · next x hx => grind
  · next hx => simp [hx]

theorem desc_of_startable {op : Nat} (h : startable s p op = some d) : desc s p = some d := (startable_eq_some.mp h).1

theorem desc_congr (h : t.places = s.places) (q : Place) : desc t q = desc s q := by rw [desc, desc, h]

theorem becomes_of_places (h : t.places = (setDesc p e s).places) : Becomes p e s t :=
  ⟨(desc_congr h p).trans (desc_setDesc_self s p e), fun q hq => (desc_congr h q).trans (desc_setDesc_ne s p q e hq)⟩

theorem becomes_setDesc (h : u.places = s.places) : Becomes p e s (setDesc p e u) :=
  becomes_of_places (by simp [setDesc, h])

theorem endDesc_eq (h : desc s p = some d) (st : Status) (detail : Nat) :
    endDesc p st detail s
      = setDesc p { d with stage := .ended, conds := addStatus st d.conds, detail := BitVec.ofNat 64 detail } s := by
  rw [endDesc, h]

theorem ended_endDesc (h : desc s p = some d) (hu : u.places = s.places) (st : Status) (detail : Nat) :
    Ended p d st detail s (endDesc p st detail u) := by
  rw [endDesc_eq ((desc_congr hu p).trans h)]
  exact becomes_setDesc hu

theorem endDesc_frame (st : Status) (detail : Nat) :
    endDesc p st detail s = { s with places := (endDesc p st detail s).places } := by
  unfold endDesc
  split <;> rfl

end Sys2Proof.Machine
end

section
/-! The descriptors that HOST carries out itself (04 R108, R119 to R121; 14 R377; 19 R488, R489, R492). -/

namespace Sys2Proof.Machine

variable {s t u : State} {p q : Place} {d e : Desc}

/-! ### NOP and FENCE -/

theorem yields_nop (h : startable s p 0x01 = some d) :
    Yields (.nop p) s fun t => Ended p d .done 0 s t ∧ t = { s with places := t.places } := by
  have hu : execNop p s = ok (endDesc p .done 0 s) := by rw [execNop, h]
  exact yields_of_ok hu ⟨ended_endDesc (desc_of_startable h) rfl _ _, endDesc_frame _ _⟩

theorem yields_fence_of_no_scope (h : startable s p 0x02 = some d) (hsc : bits (wordAt d.words 1) 0 3 = 0) :
    Yields (.fence p) s fun t => Ended p d .done 0 s t ∧ t = { s with places := t.places } := by
  have hu : execFence p s = ok (endDesc p .done 0 s) := by simp [execFence, h, hsc]
  exact yields_of_ok hu ⟨ended_endDesc (desc_of_startable h) rfl _ _, endDesc_frame _ _⟩

theorem yields_fence_of_scope (h : startable s p 0x02 = some d) (hsc : bits (wordAt d.words 1) 0 3 ≠ 0) :
    Yields (.fence p) s fun t =>
      (∃ e, desc t p = some e ∧ e.stage = .running ∧ e.conds = d.conds
        ∧ e.prog.words = (if bitAt (wordAt d.words 1) 2 then dirtyWords s else []))
      ∧ (∀ q, q ≠ p → desc t q = desc s q) ∧ t = { s with places := t.places } := by
  have hu : execFence p s = ok (setDesc p { d with
      stage := .running,
      prog := { d.prog with words := if bitAt (wordAt d.words 1) 2 then dirtyWords s else [],
                            count := (now s).toNat } } s) := by
    simp [execFence, h, hsc]
  exact yields_of_ok hu ⟨⟨_, desc_setDesc_self .., rfl, rfl, rfl⟩, fun q hq => desc_setDesc_ne _ _ _ _ hq, rfl⟩

theorem yields_fenceWaitsEnd (hp : desc s p = some d) (hst : d.stage = .running) (hop : opcodeOf d.words = 0x02)
    (hover : fenceOver s d = true) :
    Yields (.fenceWaitsEnd p) s fun t => Ended p d .done 0 s t ∧ t = { s with places := t.places } := by
  have hu : execFenceWaitsEnd p s = ok (endDesc p .done 0 s) := by simp [execFenceWaitsEnd, hp, hst, hop, hover]
  exact yields_of_ok hu ⟨ended_endDesc hp rfl _ _, endDesc_frame _ _⟩

/-! ### RESYNC -/

@[simp] theorem orphanOne_rings : (orphanOne q s).rings = s.rings := by
  unfold orphanOne
  split
  · rfl
  · split
    · split
      · simp
      · dsimp only
        split <;> (simp; split <;> simp)
    · simp
    · simp

/-- The state in which a RESYNC has ended the earlier descriptors of its ring. -/
def orphaned (d : Desc) (s : State) : State := (placesOf (orphansOf s d)).foldl (fun s' q => orphanOne q s') s

@[simp] theorem orphaned_rings : (orphaned d s).rings = s.rings :=
  foldl_keeps State.rings _ (fun _ _ => orphanOne_rings) _ s

/-- The epoch that a RESYNC gives its ring. -/
def resyncEpoch (d : Desc) (r : Ring) : U32 :=
  if later (BitVec.ofNat 32 (bits (wordAt d.words 1) 0 32)) r.epoch then BitVec.ofNat 32 (bits (wordAt d.words 1) 0 32)
  else r.epoch + 1#32

def resyncedRing (d : Desc) (r : Ring) : Ring :=
  { r with epoch := resyncEpoch d r, replaced := some r.epoch, cancels := [], needResync := false, gaps := 0,
           firstMissing := none }

/-- The RESYNC itself, ended, with what it counted as its detail. -/
def resyncedDesc (d : Desc) (s : State) : Desc :=
  let r := ring s d.func
  { d with stage := .ended, epoch := resyncEpoch d r,
           detail := BitVec.ofNat 64 ((r.firstMissing.getD 0#32).toNat + satNat 16 r.gaps * 2 ^ 32
             + satNat 16 (orphansOf s d).length * 2 ^ 48) }

def resynced (p : Place) (d : Desc) (s : State) : State :=
  let r := ring s d.func
  setDesc p (resyncedDesc d s) (setRing d.func { ring (orphaned d s) d.func with
    epoch := resyncEpoch d r, replaced := some r.epoch, cancels := [], needResync := false, gaps := 0,
    firstMissing := none } (orphaned d s))

theorem yields_resync (hp : desc s p = some d) (hst : d.stage = .accepted) (hop : opcodeOf d.words = 0x03) :
    Yields (.resync p) s fun t =>
      (ring t d.func).epoch = (if later (BitVec.ofNat 32 (bits (wordAt d.words 1) 0 32)) (ring s d.func).epoch
          then BitVec.ofNat 32 (bits (wordAt d.words 1) 0 32) else (ring s d.func).epoch + 1#32)
      ∧ (ring t d.func).replaced = some (ring s d.func).epoch ∧ (ring t d.func).needResync = false
      ∧ (ring t d.func).cancels = [] ∧ (ring t d.func).gaps = 0 ∧ (ring t d.func).firstMissing = none
      ∧ (∃ e, desc t p = some e ∧ e.stage = .ended ∧ e.epoch = (ring t d.func).epoch) ∧ OtherRings d.func s t := by
  have hu : execResync p s = ok (noteOrder (ownOrder (.ring d.func) .resync d.func d.hsn)
      (bumpBy 1 ((ring s d.func).cancels.filter (fun c => decide (c.1 = d.hsn))).length (resynced p d s))) := by
    simp only [execResync, hp, hst, hop, and_self, if_true]
    rfl
  have hself : ring (resynced p d s) d.func = resyncedRing d (ring s d.func) := by
    have hr : ring (orphaned d s) d.func = ring s d.func := by rw [ring, orphaned_rings, ring]
    exact (ring_setRing_self _ _ _).trans (by rw [hr]; rfl)
  refine yields_of_ok hu ?_
  generalize ht : noteOrder _ (bumpBy _ _ (resynced p d s)) = t
  have hring (g : Func) : ring t g = ring (resynced p d s) g := by rw [← ht]; rfl
  simp only [hring, hself]
  refine ⟨rfl, rfl, rfl, rfl, rfl, rfl, ⟨resyncedDesc d s, ?_, rfl, rfl⟩, fun g hg => ?_⟩
  · rw [← ht]
    exact desc_setDesc_self _ _ _
  · rw [hring]
    exact (ring_setRing_ne _ _ _ _ hg).trans (by rw [ring, orphaned_rings, ring])

/-! ### CANCEL -/

/-- The function whose ring a CANCEL names. -/
def cancelFunc (d : Desc) : Func := if d.func.val = 0 then Fin.ofNat 256 (bits (wordAt d.words 1) 48 8) else d.func

/-- A cancel of an accepted descriptor that no other request of the boundary names ends it, and nothing else. -/
theorem cancelTarget_of_accepted {f : Func} {hsn : U32} {by_ : Func} {self : Nat} {l : List Nat × Nat}
    (hfind : findHsn s f hsn = some q) (hq : desc s q = some e) (hacc : e.acc ≠ self) (hst : e.stage = .accepted)
    (hop : opcodeOf e.words ≠ 0x03) (hknown : knownOpcode (opcodeOf e.words) = true) (ha : Alone (.desc f hsn) s) :
    cancelTarget by_ f hsn 0xFFFF self (s, l)
      = (endDesc q .cancelled 0 (noteOrder (ownOrder (.desc f hsn) .cancel by_ hsn) s), l.1 ++ [e.acc * 65536 + 0xFFFF], l.2) := by
  have hq' : desc (noteOrder (ownOrder (.desc f hsn) .cancel by_ hsn) s) q = some e := hq
  simp only [cancelTarget, hfind, hq, if_neg hacc, contend_of_alone (x := ownOrder (.desc f hsn) .cancel by_ hsn) ha, if_true, cancelDesc, hq', if_neg hop, hknown,
    Bool.not_true, Bool.false_eq_true, if_false, hst]

theorem yields_cancel (h : startable s p 0x12 = some d) (hn : bits (wordAt d.words 2) 0 11 = 1)
    (hrow : bits (wordAt d.words 1) 32 16 = 0xFFFF) (hpq : p ≠ q)
    (hfind : findHsn s (cancelFunc d) (BitVec.ofNat 32 (bits (wordAt d.words 1) 0 32)) = some q)
    (hq : desc s q = some e) (hacc : e.acc ≠ d.acc) (hst : e.stage = .accepted) (hop : opcodeOf e.words ≠ 0x03)
    (hknown : knownOpcode (opcodeOf e.words) = true)
    (ha : Alone (.desc (cancelFunc d) (BitVec.ofNat 32 (bits (wordAt d.words 1) 0 32))) s) :
    Yields (.cancel p) s fun t =>
      (∃ x, desc t q = some x ∧ x.stage = .ended ∧ x.conds = addStatus .cancelled e.conds)
      ∧ (∃ x, desc t p = some x ∧ x.stage = .ended ∧ x.detail = 0#64 ∧ x.prog.pages = [e.acc * 65536 + 0xFFFF])
      ∧ (∀ g, ring t g = ring s g) ∧ Noted s t ∧ t = { s with places := t.places, log := t.log } := by
  have hp := desc_of_startable h
  generalize hhsn : BitVec.ofNat 32 (bits (wordAt d.words 1) 0 32) = hsn at hfind ha
  generalize hu : endDesc q .cancelled 0 (noteOrder (ownOrder (.desc (cancelFunc d) hsn) .cancel d.func hsn) s) = u
  have htarget : cancelTarget d.func (cancelFunc d) hsn 0xFFFF d.acc (s, [], 0) = (u, [e.acc * 65536 + 0xFFFF], 0) := by
    rw [cancelTarget_of_accepted hfind hq hacc hst hop hknown ha, hu, List.nil_append]
  have hend : Ended q e .cancelled 0 s u := hu ▸ ended_endDesc hq (by rfl) _ _
  have hframe : u = { s with places := u.places, log := u.log } := by
    rw [← hu, endDesc_frame]
    rfl
  have hpu : desc u p = some d := (hend.2 p hpq).trans hp
  have hexec : execCancel p s = ok (endDesc p .done 0
      (setDesc p { d with prog := { d.prog with pages := [e.acc * 65536 + 0xFFFF] } } u)) := by
    simp only [execCancel, h, hn, hrow, List.range_one, List.foldl_cons, List.foldl_nil, Nat.add_zero, hhsn]
    rw [← cancelFunc, htarget]
    simp only [hpu]
    rfl
  refine yields_of_ok hexec ?_
  rw [endDesc_eq (desc_setDesc_self u p _)]
  refine ⟨⟨{ e with stage := .ended, conds := addStatus .cancelled e.conds, detail := BitVec.ofNat 64 0 }, ?_, rfl, rfl⟩,
    ⟨_, desc_setDesc_self .., rfl, rfl, rfl⟩, fun g => ?_, ?_, ?_⟩
  · rw [desc_setDesc_ne _ _ _ _ hpq.symm, desc_setDesc_ne _ _ _ _ hpq.symm]
    exact hend.1
  · rw [hframe]; rfl
  · rw [← hu, endDesc_frame]
    exact noted_noteOrder _
  · rw [hframe]; rfl

/-! ### INSPECT and EVC_SNAP -/

theorem yields_inspect_of_ring (h : startable s p 0x04 = some d) (hk : bits (wordAt d.words 1) 0 8 = 0x01)
    (hlen : 128 ≤ bits (wordAt d.words 3) 0 32) :
    Yields (.inspect p) s fun t =>
      t.out = s.out ++ [.hostWrite (BitVec.ofNat 64 (wordAt d.words 2))
        ([w64 (0x01 + 64 * 2 ^ 16 + 2 ^ 32), now s, w64 1, 0#64, 0#64, 0#64, 0#64, 0#64]
          ++ ringRecord s (if d.func.val = 0 then Fin.ofNat 256 (bits (wordAt d.words 1) 8 8) else d.func))]
      ∧ Ended p d .done 128 s t ∧ t = { s with places := t.places, out := t.out } := by
  have hn : min 1 ((bits (wordAt d.words 3) 0 32 - 64) / 64) = 1 := by omega
  have hu : execInspect p s = ok (endDesc p .done 128 (emit (.hostWrite (BitVec.ofNat 64 (wordAt d.words 2))
      ([w64 (0x01 + 64 * 2 ^ 16 + 2 ^ 32), now s, w64 1, 0#64, 0#64, 0#64, 0#64, 0#64]
        ++ ringRecord s (if d.func.val = 0 then Fin.ofNat 256 (bits (wordAt d.words 1) 8 8) else d.func))) s)) := by
    simp [execInspect, h, inspectRecords, hk, hn]
  refine yields_of_ok hu ⟨?_, ended_endDesc (desc_of_startable h) (by rfl) _ _, ?_⟩
  · rw [endDesc_frame]; rfl
  · rw [endDesc_frame]; rfl

/-- The counters that a snapshot with clear leaves. -/
def clearedCounters (s : State) (f : Func) : Counters :=
  { s.cnt with cnt := s.cnt.cnt.filter (fun e => !snapOwns s f.val e.1),
               fixed := if f.val = 0 then [] else s.cnt.fixed,
               perFunc := s.cnt.perFunc.filter (fun e => decide (e.1 / 8 ≠ f.val)),
               parity := s.cnt.parity.filter (fun i => !(decide (8 ≤ i ∧ i < 24 ∧ snapOwns s f.val (i - 8))
                                                        || decide (24 ≤ i ∧ f.val = 0))) }

theorem yields_evcSnap (h : startable s p 0x60 = some d) :
    Yields (.evcSnap p) s fun t =>
      t.out = s.out ++ [.hostWrite (BitVec.ofNat 64 (wordAt d.words 1)) (snapshot s d.func)]
      ∧ Ended p d .done 512 s t
      ∧ (bitAt (wordAt d.words 2) 0 = false → t.cnt = s.cnt)
      ∧ (bitAt (wordAt d.words 2) 0 = true → d.func.val = 0 → ∀ i, fixedCtr t i = 0#64)
      ∧ (d.func.val ≠ 0 → t.cnt.fixed = s.cnt.fixed) ∧ t.cnt.cfg = s.cnt.cfg
      ∧ t = { s with places := t.places, out := t.out, cnt := t.cnt } := by
  generalize hu : (if bitAt (wordAt d.words 2) 0 then
      { emit (.hostWrite (BitVec.ofNat 64 (wordAt d.words 1)) (snapshot s d.func)) s with cnt := clearedCounters s d.func }
    else emit (.hostWrite (BitVec.ofNat 64 (wordAt d.words 1)) (snapshot s d.func)) s) = u
  have hexec : execEvcSnap p s = ok (endDesc p .done 512 u) := by
    simp only [execEvcSnap, h, ← hu]
    rfl
  refine yields_of_ok hexec ⟨?_, ended_endDesc (desc_of_startable h) (by rw [← hu]; split <;> rfl) _ _, ?_, ?_, ?_, ?_, ?_⟩ <;>
    rw [endDesc_frame]
  · rw [← hu]; split <;> rfl
  · intro hb
    rw [← hu, if_neg (by simp [hb])]
    rfl
  · intro hb hf i
    rw [← hu, if_pos hb]
    simp [fixedCtr, clearedCounters, hf, tget]
  · intro hf
    rw [← hu]
    split
    · simp [clearedCounters, hf]
    · rfl
  · rw [← hu]; split <;> rfl
  · rw [← hu]; split <;> rfl

/-- Settles O9: each of HOST's own descriptors is one equation of its command. -/
theorem hubDescriptorsEnd : Obligations.HubDescriptorsEnd := by
  refine ⟨?nop, ?fence, ?fenceScope, ?fenceEnd, ?resync, ?cancel, ?inspect, ?snap⟩
  case nop => exact fun _ _ _ h => yields_nop h
  case fence => exact fun _ _ _ h hsc => yields_fence_of_no_scope h hsc
  case fenceScope => exact fun _ _ _ h hsc => yields_fence_of_scope h hsc
  case fenceEnd => exact fun _ _ _ hp hst hop hover => yields_fenceWaitsEnd hp hst hop hover
  case resync => exact fun _ _ _ hp hst hop => yields_resync hp hst hop
  case cancel =>
    exact fun _ _ _ _ _ h hn hrow hpq hfind hq hacc hst hop hknown ha =>
      yields_cancel h hn hrow hpq hfind hq hacc hst hop hknown ha
  case inspect => exact fun _ _ _ h hk hlen => yields_inspect_of_ring h hk hlen
  case snap => exact fun _ _ _ h => yields_evcSnap h

end Sys2Proof.Machine
end

section
/-! Grain descriptors: SPREAD, GRAIN_RUN and TILTH_LOAD (04 Table 4.6, 05 R137). -/

namespace Sys2Proof.Machine

variable {s t u : State} {p q : Place} {d e : Desc} {x : CtxNo}

/-! ### The commands of the bank controllers' queues -/

/-- What every step of a fold keeps, from the first state on. -/
theorem foldl_of_step {α β : Type} {P : β → Prop} {g : β → α → β} (hg : ∀ u a, P u → P (g u a)) {u : β} (h : P u)
    (l : List α) : P (l.foldl g u) :=
  List.foldlRecOn l g h fun u hu a _ => hg u a hu

theorem p1_queueP1 (c : Nat) (k : P1) :
    (bc (queueP1 c k s) c).p1
      = (bc s c).p1 ++ [{ k with dirty := dirtyOfRank s c k.rank, since := now s, num := p1Count s }] :=
  congrArg Bc.p1 (bc_setBc_self s c _)

theorem mem_p1_queueP1 {c j : Nat} {k y : P1} (h : y ∈ (bc s j).p1) : y ∈ (bc (queueP1 c k s) j).p1 := by
  by_cases hj : j = c
  · subst hj
    rw [p1_queueP1]
    exact List.mem_append_left _ h
  · have hne : bc (queueP1 c k s) j = bc s j := bc_setBc_ne s c j _ hj
    rwa [hne]

theorem mem_p1_pushP1_fold {j : Nat} {y : P1} (g : Nat → P1) (l : List Nat) (h : y ∈ (bc s j).p1) :
    y ∈ (bc (l.foldl (fun s' k => queueP1 (k / 4) (g k) s') s) j).p1 :=
  foldl_of_step (P := fun u => y ∈ (bc u j).p1) (fun _ _ hu => mem_p1_queueP1 hu) h l

/-- A command is latched for every rank that the set names. -/
theorem exists_p1_pushP1 (w : Nat) (kind : P1Kind) (pl : Option Place) (x : Option CtxNo) (f : Func) {k : Nat}
    (hk : k ∈ setRankList w) :
    ∃ c ∈ (bc (pushP1 w kind pl x f s) (k / 4)).p1,
      c.rank = k % 4 ∧ c.place = pl ∧ c.ctx = x ∧ c.issued = false ∧ c.kind = kind := by
  rw [pushP1]
  generalize setRankList w = l at hk
  induction l generalizing s with
  | nil => cases hk
  | cons a l ih =>
    rcases List.mem_cons.mp hk with rfl | hk
    · exact ⟨_, mem_p1_pushP1_fold _ l (p1_queueP1 (s := s) _ _ ▸ List.mem_append_right _ (List.mem_singleton.mpr rfl)),
        rfl, rfl, rfl, rfl, rfl⟩
    · exact ih hk

theorem queueP1_frame (c : Nat) (k : P1) :
    queueP1 c k s = { s with ctl := (queueP1 c k s).ctl, seq := (queueP1 c k s).seq } := rfl

theorem pushP1_frame (w : Nat) (kind : P1Kind) (pl : Option Place) (x : Option CtxNo) (f : Func) :
    pushP1 w kind pl x f s
      = { s with ctl := (pushP1 w kind pl x f s).ctl, seq := (pushP1 w kind pl x f s).seq } :=
  foldl_of_step (P := fun u : State => u = { s with ctl := u.ctl, seq := u.seq })
    (g := fun s' k => queueP1 (k / 4) _ s') (fun u k hu => by rw [queueP1_frame, hu]) rfl _

@[simp] theorem pushP1_places (w : Nat) (kind : P1Kind) (pl : Option Place) (x : Option CtxNo) (f : Func) :
    (pushP1 w kind pl x f s).places = s.places := by rw [pushP1_frame]

/-! ### SPREAD -/

section
variable (h : startable s p 0x21 = some d)
include h

theorem yields_spread (hfen : setFenced s (wordAt d.words 1) = false) (hmig : setMigrating s (wordAt d.words 1) = false)
    (hfull : setFull s (wordAt d.words 1) = false) (hskip : setSkipped s (wordAt d.words 1) < setSize (wordAt d.words 1)) :
    Yields (.spread p) s fun t =>
      (∃ e, desc t p = some e ∧ e.stage = .running ∧ e.committed = true ∧ e.prog.ranks = setRankList (wordAt d.words 1)
        ∧ e.prog.run = setSize (wordAt d.words 1) - setSkipped s (wordAt d.words 1)
        ∧ e.prog.skipped = setSkipped s (wordAt d.words 1))
      ∧ (∀ q, q ≠ p → desc t q = desc s q)
      ∧ (∀ k ∈ setRankList (wordAt d.words 1), ∃ c ∈ (bc t (k / 4)).p1, c.rank = k % 4 ∧ c.place = some p
          ∧ c.issued = false ∧ c.kind = .spread (BitVec.ofNat 32 (wordAt d.words 2)) (bits (wordAt d.words 3) 0 16)
              (bitAt (wordAt d.words 3) 16) (bitAt (wordAt d.words 3) 17))
      ∧ t = { s with places := t.places, ctl := t.ctl, seq := t.seq } := by
  generalize hpr : ({ d.prog with
      ranks := setRankList (wordAt d.words 1), run := setSize (wordAt d.words 1) - setSkipped s (wordAt d.words 1),
      skipped := setSkipped s (wordAt d.words 1) } : Progress) = pr
  generalize hkind : P1Kind.spread (BitVec.ofNat 32 (wordAt d.words 2)) (bits (wordAt d.words 3) 0 16)
    (bitAt (wordAt d.words 3) 16) (bitAt (wordAt d.words 3) 17) = kind
  have hu : execSpread p s = ok (pushP1 (wordAt d.words 1) kind (some p) none d.func
      (setDesc p { d with stage := .running, committed := true, prog := pr } s)) := by
    simp only [execSpread, h, hfen, hmig, hfull, Nat.not_le.mpr hskip, Bool.or_self, Bool.false_eq_true, if_false, hpr, hkind]
  obtain ⟨hself, hother⟩ := becomes_of_places (s := s) (p := p)
    (e := { d with stage := .running, committed := true, prog := pr })
    (pushP1_places (s := setDesc p { d with stage := .running, committed := true, prog := pr } s)
      (wordAt d.words 1) kind (some p) none d.func)
  refine yields_of_ok hu ⟨⟨_, hself, rfl, rfl, by rw [← hpr], by rw [← hpr], by rw [← hpr]⟩, hother, fun k hk => ?_, ?_⟩
  · obtain ⟨c, hc, hrank, hplace, -, hiss, hck⟩ := exists_p1_pushP1
      (s := setDesc p { d with stage := .running, committed := true, prog := pr } s) _ kind (some p) none d.func hk
    exact ⟨c, hc, hrank, hplace, hiss, hck⟩
  · rw [pushP1_frame]; rfl

theorem yields_spread_of_fenced (hfen : setFenced s (wordAt d.words 1) = true) :
    Yields (.spread p) s fun t => Ended p d .fenced 0 s t ∧ t = { s with places := t.places } := by
  have hu : execSpread p s = ok (endDesc p .fenced 0 s) := by simp [execSpread, h, hfen]
  exact yields_of_ok hu ⟨ended_endDesc (desc_of_startable h) rfl _ _, endDesc_frame _ _⟩
end

/-! ### Descriptors on a context -/

theorem runningOn_eq_some {op : Nat} :
    runningOn s p op = some (d, x) ↔ desc s p = some d ∧ d.ctx = some x ∧ d.stage = .running ∧ opcodeOf d.words = op := by
  unfold runningOn
  grind

/-- A context that does not drain is not one that drains. -/
theorem not_any_drain (h : (ctx s x.val).all (fun c => decide (c.st ≠ .drain)) = true) :
    (ctx s x.val).any (fun c => decide (c.st = .drain)) = false := by
  cases hc : ctx s x.val <;> simp_all

theorem drainCtx_frame : drainCtx x s = { s with seq := (drainCtx x s).seq } := by
  unfold drainCtx
  split <;> rfl

theorem settleCtx_frame : settleCtx x s = { s with places := (settleCtx x s).places } := by
  unfold settleCtx
  repeat' split
  all_goals rfl

/-- Whatever context there is drains. -/
theorem all_drain_drainCtx : (ctx (drainCtx x s) x.val).all (fun c => decide (c.st = .drain)) = true := by
  unfold drainCtx
  split
  · simp
  · next h => simp [h]

/-! ### GRAIN_RUN -/

theorem writeCra_frame (g off : Nat) (bs : List Byte) :
    writeCra g off bs s = { s with bank := (writeCra g off bs s).bank } := rfl

/-- The arguments of a GRAIN_RUN, in the grains' CRAs where it carries any. -/
def withArguments (d : Desc) (s : State) : State :=
  if bitAt (wordAt d.words 2) 19 then
    (setLive s (wordAt d.words 1)).foldl (fun s' g => writeCra g (32 * bits (wordAt d.words 2) 16 3)
      ((List.range 4).flatMap (fun i => leBytes 8 (wordAt d.words (4 + i)))) s') s
  else s

theorem withArguments_frame : withArguments d s = { s with bank := (withArguments d s).bank } := by
  unfold withArguments
  split
  · exact foldl_of_step (P := fun u : State => u = { s with bank := u.bank }) (fun u g hu => by rw [writeCra_frame, hu]) rfl _
  · rfl

theorem yields_grainRun (h : runningOn s p 0x22 = some (d, x))
    (hctx : (ctx s x.val).all (fun c => decide (c.st ≠ .drain)) = true)
    (hfen : setFenced s (wordAt d.words 1) = false) (hmig : setMigrating s (wordAt d.words 1) = false)
    (hidle : ∀ g ∈ setLive s (wordAt d.words 1), (grain s g).state ≠ .running)
    (hskip : setSkipped s (wordAt d.words 1) < setSize (wordAt d.words 1)) :
    Yields (.grainRun p) s fun t =>
      (∃ e, desc t p = some e ∧ e.stage = d.stage ∧ e.prog.ranks = setRankList (wordAt d.words 1))
      ∧ (∀ q, q ≠ p → desc t q = desc s q)
      ∧ (∀ k ∈ setRankList (wordAt d.words 1), ∃ c ∈ (bc t (k / 4)).p1, c.rank = k % 4 ∧ c.place = some p
          ∧ c.ctx = some x ∧ c.kind = .grun (bits (wordAt d.words 2) 0 11))
      ∧ (ctx t x.val).all (fun c => decide (c.st = .drain)) = true
      ∧ t = { s with places := t.places, ctl := t.ctl, seq := t.seq, bank := t.bank } := by
  generalize he : ({ d with prog := { d.prog with
      ranks := setRankList (wordAt d.words 1), run := setSize (wordAt d.words 1) - setSkipped s (wordAt d.words 1),
      skipped := setSkipped s (wordAt d.words 1) } } : Desc) = e
  generalize hv : pushP1 (wordAt d.words 1) (.grun (bits (wordAt d.words 2) 0 11)) (some p) (some x) d.func
    (setDesc p e (withArguments d s)) = v
  have hu : execGrainRun p s = ok (drainCtx x v) := by
    have hbusy : (setLive s (wordAt d.words 1)).any (fun g => decide ((grain s g).state = .running)) = false := by
      simpa using hidle
    simp only [execGrainRun, h, not_any_drain hctx, hfen, hmig, hbusy, Nat.not_le.mpr hskip, Bool.false_eq_true, or_self,
      if_false, he]
    rw [← hv]
    rfl
  have hplaces : (drainCtx x v).places = (setDesc p e s).places := by
    rw [drainCtx_frame, ← hv, pushP1_places, withArguments_frame]
    rfl
  obtain ⟨hself, hother⟩ := becomes_of_places hplaces
  refine yields_of_ok hu ⟨⟨e, hself, by rw [← he], by rw [← he]⟩, hother, fun k hk => ?_, all_drain_drainCtx, ?_⟩
  · obtain ⟨c, hc, hrank, hplace, hx, -, hkind⟩ := exists_p1_pushP1 (s := setDesc p e (withArguments d s)) _
      (.grun (bits (wordAt d.words 2) 0 11)) (some p) (some x) d.func hk
    have hbc : bc (drainCtx x v) (k / 4) = bc v (k / 4) := by rw [drainCtx_frame]; rfl
    rw [hbc, ← hv]
    exact ⟨c, hc, hrank, hplace, hx, hkind⟩
  · rw [drainCtx_frame, ← hv, pushP1_frame, withArguments_frame]
    rfl

/-! ### TILTH_LOAD -/

theorem writeStore_eq (g at_ : Nat) (code : List U32) :
    writeStore g at_ code s
      = setGrain g { grain s g with
          store := writeRun 0#32 at_ code.length (fun _ => true) (fun i => code.getD i 0#32) (grain s g).store } s := rfl

theorem yields_tilthLoad {code : List U32} {g : Nat} (h : runningOn s p 0x23 = some (d, x))
    (hctx : (ctx s x.val).all (fun c => decide (c.st ≠ .drain)) = true)
    (hfen : setFenced s (wordAt d.words 1) = false) (hmig : setMigrating s (wordAt d.words 1) = false)
    (hlive : setLive s (wordAt d.words 1) = [g]) (hidle : (grain s g).state ≠ .running)
    (hlen : code.length = bits (wordAt d.words 3) 0 12) :
    Yields (.tilthLoad p code) s fun t =>
      (∀ i < code.length, tget 0#32 (grain t g).store (bits (wordAt d.words 3) 16 11 + i) = code.getD i 0#32)
      ∧ (∀ k, (k < bits (wordAt d.words 3) 16 11 ∨ bits (wordAt d.words 3) 16 11 + code.length ≤ k) →
          tget 0#32 (grain t g).store k = tget 0#32 (grain s g).store k)
      ∧ (∀ h, h ≠ g → grain t h = grain s h) ∧ t.bank.mem = s.bank.mem
      ∧ t = { s with places := t.places, seq := t.seq, bank := t.bank } := by
  generalize hdst : bits (wordAt d.words 3) 16 11 = dst
  generalize he : ({ d with prog := { d.prog with
      run := setSize (wordAt d.words 1) - setSkipped s (wordAt d.words 1), skipped := setSkipped s (wordAt d.words 1) } } : Desc) = e
  generalize hv : settleCtx x (drainCtx x (setDesc p e (writeStore g dst code s))) = v
  have hu : execTilthLoad p code s = ok v := by
    simp only [execTilthLoad, h, not_any_drain hctx, hfen, hmig, hlive, List.any_cons, List.any_nil, hidle, decide_false,
      Bool.or_self, Bool.false_eq_true, or_self, if_false, ← hlen, List.take_length, List.foldl_cons, List.foldl_nil,
      hdst, he]
    rw [← hv]
  have hbank : v.bank = (writeStore g dst code s).bank := by
    rw [← hv, settleCtx_frame, drainCtx_frame]
    rfl
  have hgrain (k : Nat) : grain v k = grain (writeStore g dst code s) k := by rw [grain, hbank, grain]
  have hself : grain (writeStore g dst code s) g = { grain s g with
      store := writeRun 0#32 dst code.length (fun _ => true) (fun i => code.getD i 0#32) (grain s g).store } :=
    grain_setGrain_self s g _
  refine yields_of_ok hu ⟨fun i hi => ?_, fun k hk => ?_, fun k hk => ?_, ?_, ?_⟩
  · rw [hgrain, hself]
    exact tget_writeRun_inside _ _ hi _ _ _
  · rw [hgrain, hself]
    exact tget_writeRun_outside _ (by omega) _ _ _
  · rw [hgrain]
    exact grain_setGrain_ne s g k _ hk
  · rw [hbank]; rfl
  · rw [← hv, settleCtx_frame, drainCtx_frame]
    rfl

/-- Settles O10: a set's commands are latched rank by rank, and a load is one run of writes to one grain's store. -/
theorem grainDescriptorsReachTheRanks : Obligations.GrainDescriptorsReachTheRanks := by
  refine ⟨?spread, ?fenced, ?run, ?load⟩
  case spread => exact fun _ _ _ h hfen hmig hfull hskip => yields_spread h hfen hmig hfull hskip
  case fenced => exact fun _ _ _ h hfen => yields_spread_of_fenced h hfen
  case run => exact fun _ _ _ _ h hctx hfen hmig hidle hskip => yields_grainRun h hctx hfen hmig hidle hskip
  case load => exact fun _ _ _ _ _ _ h hctx hfen hmig hlive hidle hlen => yields_tilthLoad h hctx hfen hmig hlive hidle hlen

end Sys2Proof.Machine
end

section
/-! A descriptor that loses to an order of a higher master at the same boundary (04 R123, R124). -/

namespace Sys2Proof.Machine

variable {s t u : State} {p q : Place} {d : Desc}

theorem logged3_logAs_logCollision (cd : Nat) (loc : U16) (func : Byte) (master d0 d1 : Nat) (a x : Order)
    (hl : u.log = s.log) (hc : u.clk = s.clk) :
    Logged3 s (logAs 0x02 cd loc func master d0 d1 (logCollision a x true u)) := by
  obtain ⟨e, he, hcls, hmtb⟩ := logAs_getLast? (logCollision a x true u) 0x02 cd loc func master d0 d1
  refine ⟨?_, e, he, hcls, hmtb.trans ?_⟩
  · simp only [logCollision, logAs_logSeq, BitVec.add_assoc, hl]
    rfl
  · simp only [logCollision, now, logAs_clk, hc]

/-- The state in which a descriptor has lost to an order. -/
def lostTo (a x : Order) (p : Place) (d : Desc) (s : State) : State :=
  logPreempted a (some (d.func, d.hsn)) (logCollision a x true (endDesc p .preempted (preemptDetail a) s))

theorem lostTo_effect (a x : Order) (hp : desc s p = some d) :
    Ended p d .preempted (preemptDetail a) s (lostTo a x p d s) ∧ Logged3 s (lostTo a x p d s)
    ∧ lostTo a x p d s = { s with places := (lostTo a x p d s).places, log := (lostTo a x p d s).log,
                                  out := (lostTo a x p d s).out, cnt := (lostTo a x p d s).cnt } := by
  have hend := ended_endDesc hp rfl .preempted (preemptDetail a)
  have hplaces : (lostTo a x p d s).places = (endDesc p .preempted (preemptDetail a) s).places := by
    simp [lostTo, logPreempted, logCollision]
  refine ⟨⟨(desc_congr hplaces p).trans hend.1, fun q hq => (desc_congr hplaces q).trans (hend.2 q hq)⟩,
    logged3_logAs_logCollision _ _ _ _ _ _ a x (by simp) (by simp), ?_⟩
  have hlog : lostTo a x p d s = { endDesc p .preempted (preemptDetail a) s with
      out := (lostTo a x p d s).out, log := (lostTo a x p d s).log, cnt := (lostTo a x p d s).cnt } :=
    logged_trans (logged_trans (logAs_eq ..) (logAs_eq ..)) (logAs_eq ..)
  generalize lostTo a x p d s = v at hlog hplaces
  exact hlog.trans (by rw [hplaces, endDesc_frame])

end Sys2Proof.Machine
end

section
/-! The pages of a function (14 R374, R375). -/

namespace Sys2Proof.Machine

variable {s t u : State} {p q : Place} {d : Desc}

/-! ### PAGE_GRANT -/

@[simp] theorem noteOrder_serve (o : Order) : (noteOrder o s).serve = s.serve := rfl

theorem pageOwner_congr (h : t.serve = s.serve) (q : Nat) : pageOwner t q = pageOwner s q := by rw [pageOwner, pageOwner, h]

/-- Pages change hands, each as a request of its own. -/
def grantPages (d : Desc) (o : Nat) (l : List Nat) (s : State) : State :=
  l.foldl (fun s' pg => noteOrder (ownOrder (.page pg) .pages d.func d.hsn) (setPageOwner pg o s')) s

theorem pageOwner_grantPages_of_not_mem (o : Nat) {l : List Nat} {q : Nat} (hq : q ∉ l) :
    pageOwner (grantPages d o l s) q = pageOwner s q :=
  read_foldl_of_keeps (read := fun u => pageOwner u q)
    (write := fun u pg => noteOrder (ownOrder (.page pg) .pages d.func d.hsn) (setPageOwner pg o u))
    (fun b hb u => pageOwner_setPageOwner_ne u b q o (fun e => hq (e ▸ hb))) s

theorem pageOwner_grantPages_of_mem (o : Nat) {l : List Nat} {q : Nat} (hq : q ∈ l) :
    pageOwner (grantPages d o l s) q = o := by
  induction l generalizing s with
  | nil => cases hq
  | cons a l ih =>
    by_cases hl : q ∈ l
    · exact ih hl
    · obtain rfl : q = a := (List.mem_cons.mp hq).resolve_right hl
      exact (pageOwner_grantPages_of_not_mem o hl).trans (pageOwner_setPageOwner_self s q o)

/-- Only the serving control changes, and the log by no entry. -/
def PagesMove (s t : State) : Prop := Noted s t ∧ t = { s with serve := t.serve, log := t.log }

theorem pagesMove_grantPages (o : Nat) (l : List Nat) : PagesMove s (grantPages d o l s) := by
  refine foldl_of_step (P := PagesMove s) (fun u pg hu => ?_) ⟨rfl, rfl⟩ l
  obtain ⟨hlog, hu⟩ := hu
  constructor
  · rw [Noted, noteOrder, setPageOwner]
    dsimp only
    rw [hlog]
  · rw [hu]; rfl

section
variable (h : startable s p 0x50 = some d)
include h

theorem yields_pageGrant {g b : Nat}
    (hquota : pagesHeld s (namedFn d) + bits (wordAt d.words 1) 0 13 ≤ pageQuotaOf s (namedFn d))
    (hrun : ((setList (wordAt d.words 2)).filter (setHolds (grainsOf s (namedFn d)))).findSome?
      (fun k => (grantRun s (namedFn d) k (bits (wordAt d.words 1) 0 13)).map (fun n => (k, n))) = some (g, b)) :
    Yields (.pageGrant p) s fun t =>
      (∀ i < bits (wordAt d.words 1) 0 13, pageOwner t (g * 4096 + b + i) = namedFn d + 1)
      ∧ (∀ q, (q < g * 4096 + b ∨ g * 4096 + b + bits (wordAt d.words 1) 0 13 ≤ q) → pageOwner t q = pageOwner s q)
      ∧ t.out = s.out ++ [.hostIds (BitVec.ofNat 64 (wordAt d.words 3))
          ((List.range (bits (wordAt d.words 1) 0 13)).map (fun i => BitVec.ofNat 32 (g * 4096 + b + i)))]
      ∧ Ended p d .done (bits (wordAt d.words 1) 0 13) s t
      ∧ Noted s t ∧ t = { s with places := t.places, out := t.out, serve := t.serve, log := t.log } := by
  generalize hn : bits (wordAt d.words 1) 0 13 = n at hquota hrun
  generalize hv : grantPages d (namedFn d + 1) ((List.range n).map (fun i => g * 4096 + b + i)) s = v
  have hu : execPageGrant p s = ok (endDesc p .done n (emit (.hostIds (BitVec.ofNat 64 (wordAt d.words 3))
      (((List.range n).map (fun i => g * 4096 + b + i)).map (BitVec.ofNat 32))) v)) := by
    simp only [execPageGrant, h, hn, if_neg (Nat.not_lt.mpr hquota), hrun]
    rw [← hv]
    rfl
  obtain ⟨hnoted, hframe⟩ : PagesMove s v := hv ▸ pagesMove_grantPages _ _
  have howner (k : Nat) : pageOwner (endDesc p .done n (emit (.hostIds (BitVec.ofNat 64 (wordAt d.words 3))
      (((List.range n).map (fun i => g * 4096 + b + i)).map (BitVec.ofNat 32))) v)) k = pageOwner v k :=
    pageOwner_congr (by rw [endDesc_frame]; rfl) k
  refine yields_of_ok hu ⟨fun i hi => ?_, fun k hk => ?_, ?_, ended_endDesc (desc_of_startable h) (by rw [hframe]; rfl) _ _,
    ?_, ?_⟩
  · rw [howner, ← hv]
    exact pageOwner_grantPages_of_mem _ (List.mem_map.mpr ⟨i, List.mem_range.mpr hi, rfl⟩)
  · rw [howner, ← hv]
    refine pageOwner_grantPages_of_not_mem _ (fun hm => ?_)
    obtain ⟨i, hi, hik⟩ := List.mem_map.mp hm
    have := List.mem_range.mp hi
    omega
  · rw [endDesc_frame, hframe, List.map_map]
    rfl
  · rw [endDesc_frame]
    exact hnoted
  · rw [endDesc_frame, hframe]
    rfl

theorem yields_pageGrant_of_quota (hquota : pageQuotaOf s (namedFn d) < pagesHeld s (namedFn d) + bits (wordAt d.words 1) 0 13) :
    Yields (.pageGrant p) s fun t => Ended p d .quota 0 s t ∧ t = { s with places := t.places } := by
  have hu : execPageGrant p s = ok (endDesc p .quota 0 s) := by simp [execPageGrant, h, hquota]
  exact yields_of_ok hu ⟨ended_endDesc (desc_of_startable h) rfl _ _, endDesc_frame _ _⟩
end

/-! ### PAGE_RETURN -/

/-- The words of a PAGE_RETURN's list that its count covers. -/
def returnedIds (d : Desc) (l : List U32) : List Nat := (l.take (bits (wordAt d.words 1) 0 13)).map (fun v => v.toNat)

theorem returnedIds_of_length {l : List U32} (h : l.length = bits (wordAt d.words 1) 0 13) :
    returnedIds d l = l.map (fun v => v.toNat) := by
  rw [returnedIds, ← h, List.take_length]

theorem returnedIds_singleton {v : U32} (h : bits (wordAt d.words 1) 0 13 = 1) : returnedIds d [v] = [v.toNat] := by
  rw [returnedIds, h]
  rfl

theorem noteOrders_frame (o : Nat → Order) (l : List Nat) :
    PagesMove s (l.foldl (fun s' v => noteOrder (o v) s') s) := by
  refine foldl_of_step (P := PagesMove s) (fun u pg hu => ?_) ⟨rfl, rfl⟩ l
  obtain ⟨hlog, hu⟩ := hu
  constructor
  · rw [Noted, noteOrder]
    dsimp only
    rw [hlog]
  · rw [hu]; rfl

theorem noteOrders_serve (o : Nat → Order) (l : List Nat) :
    (l.foldl (fun s' v => noteOrder (o v) s') s).serve = s.serve :=
  foldl_keeps State.serve (fun s' v => noteOrder (o v) s') (fun _ _ => rfl) l s

/-- Pages that the pool takes back: none has an owner, and they wait for their clear. -/
def takeBack (p : Place) (l : List Nat) (s : State) : State :=
  let s1 := l.foldl (fun s' pg => setPageOwner pg 0 s') s
  { s1 with serve := { s1.serve with clearing := s1.serve.clearing ++ l.map (fun v => (v, p.val + 1)) } }

theorem takeBack_frame (l : List Nat) : takeBack p l s = { s with serve := (takeBack p l s).serve } := by
  have hfold := foldl_of_step (P := fun u : State => u = { s with serve := u.serve })
    (g := fun s' pg => setPageOwner pg 0 s') (u := s) (fun u pg hu => by rw [setPageOwner, hu]) rfl l
  rw [takeBack, hfold]

theorem pageOwner_takeBack_of_not_mem {l : List Nat} {q : Nat} (hq : q ∉ l) :
    pageOwner (takeBack p l s) q = pageOwner s q :=
  read_foldl_of_keeps (read := fun u => pageOwner u q) (write := fun u pg => setPageOwner pg 0 u)
    (fun b hb u => pageOwner_setPageOwner_ne u b q 0 (fun e => hq (e ▸ hb))) s

theorem pageOwner_takeBack_of_mem {l : List Nat} {q : Nat} (hq : q ∈ l) : pageOwner (takeBack p l s) q = 0 := by
  change pageOwner (l.foldl (fun s' pg => setPageOwner pg 0 s') s) q = 0
  induction l generalizing s with
  | nil => cases hq
  | cons a l ih =>
    by_cases hl : q ∈ l
    · exact ih hl
    · obtain rfl : q = a := (List.mem_cons.mp hq).resolve_right hl
      exact (pageOwner_takeBack_of_not_mem (p := p) (s := setPageOwner q 0 s) hl).trans (pageOwner_setPageOwner_self s q 0)

section
variable (h : startable s p 0x51 = some d)
include h

/-- A PAGE_RETURN whose pages meet no other request is judged by its list alone. -/
theorem execPageReturn_of_alone {l : List U32} (ha : ∀ v ∈ returnedIds d l, Alone (.page v) s) :
    execPageReturn p l s
      = if (returnedIds d l).any (fun v => decide (2 ^ 23 ≤ v))
          ∨ (returnedIds d l).any (fun v => decide (v < 2 ^ 23 ∧ pageOwner s v ≠ namedFn d + 1)) then
          let s1 := if (returnedIds d l).any (fun v => decide (2 ^ 23 ≤ v)) then endDesc p .rsvNonzero 0x18 s else s
          ok (if (returnedIds d l).any (fun v => decide (v < 2 ^ 23 ∧ pageOwner s v ≠ namedFn d + 1)) then
            endDesc p .badTenant 0x18 s1 else s1)
        else ok ((returnedIds d l).foldl (fun s' v => noteOrder (ownOrder (.page v) .pages d.func d.hsn) s')
          (setDesc p { d with stage := .running, prog := { d.prog with
              pages := returnedIds d l, count := (returnedIds d l).length, words := stepsUsing s (returnedIds d l) } }
            (takeBack p (returnedIds d l) s))) := by
  have hnone : (returnedIds d l).findSome? (fun v => rival s (.page v) [.pages] |>.bind (fun a =>
      if a.master < masterOf d.func then some (a, v) else none)) = none :=
    List.findSome?_eq_none_iff.mpr (fun v hv => by rw [rival_of_alone (ha v hv)]; rfl)
  rw [returnedIds] at hnone
  simp only [execPageReturn, h, hnone]
  rfl

theorem yields_pageReturn {l : List U32} (hlen : l.length = bits (wordAt d.words 1) 0 13)
    (hl : ∀ v ∈ l, v.toNat < 2 ^ 23 ∧ pageOwner s v.toNat = namedFn d + 1 ∧ Alone (.page v.toNat) s) :
    Yields (.pageReturn p l) s fun t =>
      (∀ v ∈ l, pageOwner t v.toNat = 0) ∧ (∀ q, (∀ v ∈ l, v.toNat ≠ q) → pageOwner t q = pageOwner s q)
      ∧ (∃ e, desc t p = some e ∧ e.stage = .running ∧ e.prog.pages = l.map (fun v => v.toNat)
          ∧ e.prog.words = stepsUsing s (l.map (fun v => v.toNat)))
      ∧ (∀ q, q ≠ p → desc t q = desc s q) ∧ Noted s t ∧ t = { s with places := t.places, serve := t.serve, log := t.log } := by
  have hids := returnedIds_of_length hlen
  have hu := execPageReturn_of_alone h (l := l) (by rw [hids]; simpa using fun v hv => (hl v hv).2.2)
  rw [hids, if_neg (by
    simp only [List.any_map, List.any_eq_true, Function.comp_apply, decide_eq_true_eq, not_or, not_exists, not_and]
    exact ⟨fun v hv => Nat.not_le.mpr (hl v hv).1, fun v hv _ => not_not.mpr (hl v hv).2.1⟩)] at hu
  generalize hids' : l.map (fun v => v.toNat) = ids at hu ⊢
  generalize hw : setDesc p { d with stage := .running, prog := { d.prog with
    pages := ids, count := ids.length, words := stepsUsing s ids } } (takeBack p ids s) = w at hu
  obtain ⟨hnoted, hframe⟩ : PagesMove w (ids.foldl (fun s' v => noteOrder (ownOrder (.page v) .pages d.func d.hsn) s') w) :=
    noteOrders_frame _ ids
  have hserve := noteOrders_serve (s := w) (fun v => ownOrder (.page v) .pages d.func d.hsn) ids
  generalize ids.foldl (fun s' v => noteOrder (ownOrder (.page v) .pages d.func d.hsn) s') w = v at hu hnoted hframe hserve
  have howner (q : Nat) : pageOwner v q = pageOwner (takeBack p ids s) q := pageOwner_congr (hserve.trans (hw ▸ rfl)) q
  obtain ⟨hself, hother⟩ := becomes_of_places (s := s) (t := v) (p := p) (e := { d with stage := .running, prog := { d.prog with
    pages := ids, count := ids.length, words := stepsUsing s ids } }) (by
      rw [hframe, ← hw, takeBack_frame]
      rfl)
  refine yields_of_ok hu ⟨fun v hv => ?_, fun q hq => ?_, ⟨_, hself, rfl, rfl, rfl⟩, hother, ?_, ?_⟩
  · rw [howner]
    exact pageOwner_takeBack_of_mem (hids' ▸ List.mem_map_of_mem hv)
  · rw [howner]
    refine pageOwner_takeBack_of_not_mem (fun hm => ?_)
    rw [← hids'] at hm
    obtain ⟨v, hv, hvq⟩ := List.mem_map.mp hm
    exact hq v hv hvq
  · rw [Noted, hnoted, ← hw, takeBack_frame]
    rfl
  · rw [hframe, ← hw, takeBack_frame]
    rfl

section
variable {v : U32} (hn : bits (wordAt d.words 1) 0 13 = 1)
include hn

theorem yields_pageReturn_of_alien (hv : v.toNat < 2 ^ 23) (ho : pageOwner s v.toNat ≠ namedFn d + 1)
    (ha : Alone (.page v.toNat) s) :
    Yields (.pageReturn p [v]) s fun t => Ended p d .badTenant 0x18 s t ∧ t = { s with places := t.places } := by
  have hids := returnedIds_singleton (d := d) (v := v) hn
  have hu := execPageReturn_of_alone h (l := [v]) (by rw [hids]; simpa using ha)
  have hu' : execPageReturn p [v] s = ok (endDesc p .badTenant 0x18 s) := by
    have hlt : v.toNat < 8388608 := hv
    rw [hu, hids]
    simp [Nat.not_le.mpr hlt, hlt, ho]
  exact yields_of_ok hu' ⟨ended_endDesc (desc_of_startable h) rfl _ _, endDesc_frame _ _⟩

theorem yields_pageReturn_of_rival {a : Order} (hr : rival s (.page v.toNat) [.pages] = some a)
    (hm : a.master < masterOf d.func) :
    Yields (.pageReturn p [v]) s fun t =>
      Ended p d .preempted (preemptDetail a) s t ∧ (∀ q, pageOwner t q = pageOwner s q) ∧ Logged3 s t
      ∧ t = { s with places := t.places, log := t.log, out := t.out, cnt := t.cnt } := by
  have hids := returnedIds_singleton (d := d) (v := v) hn
  rw [returnedIds] at hids
  have hu : execPageReturn p [v] s = ok (lostTo a (ownOrder (.page v.toNat) .pages d.func d.hsn) p d s) := by
    simp only [execPageReturn, h, hids, List.findSome?_cons, hr, Option.bind_some, if_pos hm]
    rfl
  obtain ⟨hend, hlog, hframe⟩ := lostTo_effect a (ownOrder (.page v.toNat) .pages d.func d.hsn) (desc_of_startable h)
  exact yields_of_ok hu ⟨hend, fun q => pageOwner_congr (by rw [hframe]) q, hlog, hframe⟩
end
end

/-! ### PAGE_CLEAR -/

/-- What stands under a key of a table that keeps some of its keys. -/
theorem tget_filter_key {β : Type} (z : β) (f : Nat → Bool) (m : Tab β) (k : Nat) :
    tget z (m.filter (fun e => f e.1)) k = if f k then tget z m k else z := by
  induction m with
  | nil => simp [tget]
  | cons e m ih =>
    obtain ⟨j, v⟩ := e
    by_cases hj : j = k
    · subst hj
      cases hf : f j <;> simp_all [tget, tfind_cons]
    · cases hf : f j <;> simp_all [tget, tfind_cons]

/-- Whether a page holds a column word. -/
def inPage (s : State) (g w : Nat) : Bool := (pageRuns s g).any (fun r => decide (r ≤ w ∧ w < r + 1024))

theorem byte_clearPage (g a : Nat) :
    Memory.byte (clearPage g s).bank.mem a = if inPage s g (a / 32) then 0#8 else Memory.byte s.bank.mem a := by
  rw [Memory.byte, clearPage]
  refine (tget_filter_key 0#8 (fun k => !inPage s g (k / 32)) s.bank.mem a).trans ?_
  cases inPage s g (a / 32) <;> rfl

theorem yields_pageClear {g : Nat} (hp : desc s p = some d) (hst : d.stage = .running) (hop : opcodeOf d.words = 0x51)
    (hpg : d.prog.pages = [g]) (hw : returnWaits s d = false) (hf : isFenced s (g / 4096 / 128) (g / 4096 / 64 % 2) = false) :
    Yields (.pageClear p) s fun t =>
      (∀ r ∈ pageRuns s g, ∀ a, r * 32 ≤ a → a < (r + 1024) * 32 → Memory.byte t.bank.mem a = 0#8)
      ∧ (∀ a, (∀ r ∈ pageRuns s g, a / 32 < r ∨ r + 1024 ≤ a / 32) → Memory.byte t.bank.mem a = Memory.byte s.bank.mem a)
      ∧ (∀ c ∈ t.serve.clearing, c.2 ≠ p.val + 1) ∧ Ended p d .done d.prog.count s t
      ∧ t = { s with places := t.places, serve := t.serve, bank := t.bank, marl := t.marl } := by
  generalize hv : ({ clearPage g s with serve := { s.serve with
    clearing := s.serve.clearing.filter (fun c => decide (c.2 ≠ p.val + 1)) } } : State) = v
  have hu : execPageClear p s = ok (endDesc p .done d.prog.count v) := by
    simp only [execPageClear, hp, hst, hop, hw, Bool.not_false, and_self, if_true, hpg, List.foldl_cons, List.foldl_nil, hf,
      Bool.false_eq_true, if_false, ← hv]
    rfl
  have hbyte (a : Nat) : Memory.byte (endDesc p .done d.prog.count v).bank.mem a
      = if inPage s g (a / 32) then 0#8 else Memory.byte s.bank.mem a := by
    rw [endDesc_frame, ← hv, ← byte_clearPage]
  refine yields_of_ok hu ⟨fun r hr a hlo hhi => ?_, fun a ha => ?_, fun c hc => ?_, ended_endDesc hp (by rw [← hv]; rfl) _ _, ?_⟩
  · have hin : inPage s g (a / 32) = true :=
      List.any_eq_true.mpr ⟨r, hr, decide_eq_true ⟨by omega, by omega⟩⟩
    rw [hbyte, hin, if_pos rfl]
  · have hout : inPage s g (a / 32) = false :=
      List.any_eq_false.mpr (fun r hr => by
        have := ha r hr
        simp only [decide_eq_true_eq]
        omega)
    rw [hbyte, hout, if_neg Bool.false_ne_true]
  · rw [endDesc_frame, ← hv] at hc
    exact of_decide_eq_true (List.mem_filter.mp hc).2
  · rw [endDesc_frame, ← hv]
    rfl

/-- Settles O11: the pages of a list change hands one by one, and a clear takes a page's bytes out of the banks' table. -/
theorem pagesAreGrantedAndReturned : Obligations.PagesAreGrantedAndReturned := by
  refine ⟨?grant, ?quota, ?give, ?alien, ?lost, ?clear⟩
  case grant => exact fun _ _ _ _ _ h hquota hrun => yields_pageGrant h hquota hrun
  case quota => exact fun _ _ _ h hquota => yields_pageGrant_of_quota h hquota
  case give => exact fun _ _ _ _ h hlen hl => yields_pageReturn h hlen hl
  case alien => exact fun _ _ _ _ h hn hv ho ha => yields_pageReturn_of_alien h hn hv ho ha
  case lost => exact fun _ _ _ _ _ h hn hr hm => yields_pageReturn_of_rival h hn hr hm
  case clear => exact fun _ _ _ _ hp hst hop hpg hw hf => yields_pageClear hp hst hop hpg hw hf

end Sys2Proof.Machine
end

section
/-! Stores to the Keep region and reads of it (16 R433 to R435). -/

namespace Sys2Proof.Machine

variable {s t u : State} {p q : Place} {d : Desc} {x : CtxNo}

/-! ### The work of one descriptor -/

/-- From s to t the rings and the Keep's records stand, and of the descriptors only place p's may change. -/
structure WorksFor (p : Place) (s t : State) : Prop where
  rings : t.rings = s.rings
  keep : t.keep = s.keep
  other : ∀ q, q ≠ p → desc t q = desc s q
  isSome : (desc s p).isSome → (desc t p).isSome

theorem WorksFor.refl (p : Place) (s : State) : WorksFor p s s := ⟨rfl, rfl, fun _ _ => rfl, id⟩

theorem WorksFor.of_fields (h : WorksFor p s t) (hr : u.rings = t.rings) (hk : u.keep = t.keep) (hp : u.places = t.places) :
    WorksFor p s u :=
  ⟨hr.trans h.rings, hk.trans h.keep, fun q hq => (desc_congr hp q).trans (h.other q hq),
    fun hs => by rw [desc_congr hp]; exact h.isSome hs⟩

theorem worksFor_setDesc (h : WorksFor p s t) : WorksFor p s (setDesc p d t) :=
  ⟨h.rings, h.keep, fun q hq => (desc_setDesc_ne t p q d hq).trans (h.other q hq), fun _ => by simp⟩

theorem worksFor_addCond (st : Status) (h : WorksFor p s t) : WorksFor p s (addCond p st t) := by
  unfold addCond
  split
  · exact worksFor_setDesc h
  · exact h

theorem worksFor_noteSpan (sp : Span) (h : WorksFor p s t) : WorksFor p s (noteSpan p sp t) := by
  unfold noteSpan
  split
  · split
    · exact h
    · exact worksFor_setDesc h
  · exact h

theorem worksFor_clipDesc (yes : Bool) (h : WorksFor p s t) : WorksFor p s (clipDesc p yes t) := by
  unfold clipDesc
  split
  · split
    · exact worksFor_setDesc h
    · exact h
  · exact h

theorem worksFor_commitThrough (ws : List Nat) (l : Line) (mask : BitVec 64) (poison : Bool) (c r : Nat)
    (h : WorksFor p s t) : WorksFor p s (commitThrough ws l mask poison c r t) := by
  unfold commitThrough
  split
  · exact h.of_fields (by simp) (by simp) (by simp)
  · exact h.of_fields (by simp) (by simp) (by simp)

theorem worksFor_storeLine (n : Nat) (l : Line) (poison : Bool) (h : WorksFor p s t) :
    WorksFor p s (storeLine p n l poison t) := by
  unfold storeLine
  dsimp only
  split
  · exact worksFor_addCond _ h
  · split
    · exact h
    · split
      · exact worksFor_addCond _ (worksFor_commitThrough _ _ _ _ _ _ h)
      · exact worksFor_commitThrough _ _ _ _ _ _ h

/-! ### KEEP_WRITE -/

theorem kblock_setKblock_ne {i k : Nat} (b : KBlock) (h : k ≠ i) : kblock (setKblock i b s) k = kblock s k :=
  tget_tset_ne _ _ _ _ _ h

/-- Blocks are marked dirty one by one. -/
def markAll (l : List Nat) (s : State) : State := l.foldl (fun s' i => markDirty i s') s

theorem kblock_markAll_of_not_mem {l : List Nat} {k : Nat} (h : k ∉ l) : kblock (markAll l s) k = kblock s k :=
  read_foldl_of_keeps (read := fun u => kblock u k) (write := fun u i => markDirty i u)
    (fun _ hi _ => kblock_setKblock_ne _ (fun e => h (e ▸ hi))) s

theorem kblock_markAll_of_mem {l : List Nat} {k : Nat} (h : k ∈ l) :
    (kblock (markAll l s) k).dirty = true ∧ (kblock (markAll l s) k).copying = false := by
  induction l generalizing s with
  | nil => cases h
  | cons i l ih =>
    by_cases hl : k ∈ l
    · exact ih hl
    · obtain rfl : k = i := (List.mem_cons.mp h).resolve_right hl
      have hk : kblock (markAll (k :: l) s) k = kblock (markDirty k s) k := kblock_markAll_of_not_mem (s := markDirty k s) hl
      rw [hk, markDirty, kblock_setKblock_self]
      exact ⟨rfl, rfl⟩

theorem markAll_frame (l : List Nat) : markAll l s = { s with keep := (markAll l s).keep } :=
  foldl_of_step (P := fun u : State => u = { s with keep := u.keep }) (g := fun s' i => markDirty i s') (u := s)
    (fun u i hu => by rw [markDirty, setKblock, hu]) rfl l

/-- The blocks of a store, marked before its lines are written. -/
def storeBlocks (l : List Nat) (s : State) : State := markAll l (replaceSlots l s)

theorem storeBlocks_frame (l : List Nat) : storeBlocks l s = { s with keep := (storeBlocks l s).keep } := by
  rw [storeBlocks, markAll_frame]
  rfl

theorem worksFor_keepStore_of_host (blocks : List Nat) (src : List Line) (h : bitAt (wordAt d.words 3) 32 = false) :
    WorksFor p (storeBlocks blocks s) (keepStore p d blocks src s) ∧ (desc (keepStore p d blocks src s) p).isSome := by
  have hstart : WorksFor p (setDesc p { d with committed := true } (storeBlocks blocks s)) (keepStore p d blocks src s) := by
    rw [keepStore]
    simp only [h, Bool.false_eq_true, if_false]
    exact foldl_of_step (P := WorksFor p _) (fun u e hu => worksFor_storeLine _ _ _ hu)
      (worksFor_clipDesc _ (worksFor_noteSpan _ (WorksFor.refl p _))) _
  refine ⟨⟨hstart.rings, hstart.keep, fun q hq => (hstart.other q hq).trans (desc_setDesc_ne _ p q _ hq), fun _ => ?_⟩, ?_⟩
  · exact hstart.isSome (by simp)
  · exact hstart.isSome (by simp)

section
variable {src : List Line} (h : startable s p 0x30 = some d) (hrun : s.boot.fwRestarting = false)
include h hrun

theorem yields_keepWrite_of_short (ha : Alone .keep s)
    (hsrc : bitAt (wordAt d.words 3) 32 = true ∨ src.length = bits (wordAt d.words 3) 0 32 / 64)
    (hck : keepCheck s (blocksTouched (wordAt d.words 2) (bits (wordAt d.words 3) 0 32)) = .short) :
    Yields (.keepWrite p src) s fun t =>
      Ended p d .holdupShort (satNat 32 s.pwr.holdup) s t ∧ t = { s with places := t.places, cnt := t.cnt } := by
  have hbad : ¬(s.boot.fwRestarting = true ∨ (!bitAt (wordAt d.words 3) 32) = true
      ∧ src.length ≠ bits (wordAt d.words 3) 0 32 / 64) := by
    rcases hsrc with hb | hl <;> simp [*]
  have hu : execKeepWrite p src s
      = ok (countEv 0x82 0 (some d.func) 1 (endDesc p .holdupShort (satNat 32 s.pwr.holdup) s)) := by
    simp only [execKeepWrite, h, if_neg hbad, rival_of_alone ha, Option.filter_none, hck]
  refine yields_of_ok hu ⟨ended_endDesc (desc_of_startable h) rfl _ _, ?_⟩
  rw [endDesc_frame]
  rfl

theorem yields_keepWrite_of_pass (hhost : bitAt (wordAt d.words 3) 32 = false) (ha : Alone .keep s)
    (hsrc : src.length = bits (wordAt d.words 3) 0 32 / 64)
    (hfree : keepWaits s none (some (wordAt d.words 2 / 64)) (bits (wordAt d.words 3) 0 32 / 64) = false)
    (hck : keepCheck s (blocksTouched (wordAt d.words 2) (bits (wordAt d.words 3) 0 32)) = .pass) :
    Yields (.keepWrite p src) s fun t =>
      (∀ i ∈ blocksTouched (wordAt d.words 2) (bits (wordAt d.words 3) 0 32),
        (kblock t i).dirty = true ∧ (kblock t i).copying = false)
      ∧ (∀ i, i ∉ blocksTouched (wordAt d.words 2) (bits (wordAt d.words 3) 0 32) → kblock t i = kblock s i)
      ∧ (∃ e, desc t p = some e ∧ e.stage = .ended ∧ e.detail = BitVec.ofNat 64 (satNat 32 s.pwr.holdup))
      ∧ (∀ q, q ≠ p → desc t q = desc s q) ∧ (∀ g, ring t g = ring s g) := by
  have hbad : ¬(s.boot.fwRestarting = true ∨ (!bitAt (wordAt d.words 3) 32) = true
      ∧ src.length ≠ bits (wordAt d.words 3) 0 32 / 64) := by simp [hrun, hsrc]
  generalize hbl : blocksTouched (wordAt d.words 2) (bits (wordAt d.words 3) 0 32) = blocks at hck
  generalize hw : noteOrder (ownOrder .keep .keepWrite d.func d.hsn) s = w
  have hu : execKeepWrite p src s = ok (endDesc p .done (satNat 32 s.pwr.holdup) (keepStore p d blocks src w)) := by
    simp only [execKeepWrite, h, if_neg hbad, rival_of_alone ha, Option.filter_none, hbl, hck]
    simp only [hhost, Bool.false_eq_true, if_false, hfree, contend_of_alone (x := ownOrder .keep .keepWrite d.func d.hsn) ha, hw]
  obtain ⟨hworks, hsome⟩ := worksFor_keepStore_of_host (s := w) (p := p) blocks src hhost
  obtain ⟨e, he⟩ := Option.isSome_iff_exists.mp hsome
  generalize keepStore p d blocks src w = v at hu hworks he
  have hkeep (i : Nat) : kblock (endDesc p .done (satNat 32 s.pwr.holdup) v) i = kblock (markAll blocks (replaceSlots blocks w)) i := by
    rw [kblock, endDesc_frame, hworks.keep]
    rfl
  obtain ⟨hself, hother⟩ := ended_endDesc he rfl .done (satNat 32 s.pwr.holdup)
  refine yields_of_ok hu ⟨fun i hi => ?_, fun i hi => ?_, ⟨_, hself, rfl, rfl⟩, fun q hq => ?_, fun g => ?_⟩
  · rw [hkeep]
    exact kblock_markAll_of_mem hi
  · rw [hkeep, kblock_markAll_of_not_mem hi, ← hw]
    rfl
  · rw [hother q hq, hworks.other q hq, storeBlocks_frame, ← hw]
    rfl
  · rw [ring, endDesc_frame, hworks.rings, storeBlocks_frame, ← hw]
    rfl

theorem yields_keepWrite_of_rival {a : Order} (hsrc : src.length = bits (wordAt d.words 3) 0 32 / 64)
    (hr : rival s .keep [.keepSize, .keepCommit] = some a) (hm : a.master < masterOf d.func) :
    Yields (.keepWrite p src) s fun t =>
      Ended p d .preempted (preemptDetail a) s t ∧ Logged3 s t
      ∧ t = { s with places := t.places, log := t.log, out := t.out, cnt := t.cnt } := by
  have hbad : ¬(s.boot.fwRestarting = true ∨ (!bitAt (wordAt d.words 3) 32) = true
      ∧ src.length ≠ bits (wordAt d.words 3) 0 32 / 64) := by simp [hrun, hsrc]
  have hu : execKeepWrite p src s = ok (lostTo a (ownOrder .keep .keepWrite d.func d.hsn) p d s) := by
    have hlost : (some a).filter (fun b => decide (b.master < (ownOrder .keep .keepWrite d.func d.hsn).master)) = some a :=
      Option.filter_some_pos (decide_eq_true hm)
    simp only [execKeepWrite, h, if_neg hbad, hr, hlost]
    rfl
  exact yields_of_ok hu (lostTo_effect a _ (desc_of_startable h))
end

/-! ### KEEP_READ -/

/-- What a read of the banks leaves: the banks, the rings, the contexts and what left the module. -/
def readOf (s : State) : Banks × Tab Ring × Seq × List Out := (s.bank, s.rings, s.seq, s.out)

theorem readOf_lyNote (a : LyAt) (lines : List Nat) : readOf (lyNote a lines s) = readOf s := by
  unfold lyNote
  split
  · rfl
  · refine foldl_keeps readOf _ (fun u l => ?_) lines s
    split
    · rfl
    · unfold noteLineRead
      split
      · simp [readOf]
      · rfl

theorem readOf_addCond (st : Status) : readOf (addCond p st s) = readOf s := by simp [readOf]

theorem yields_keepRead (h : runningOn s p 0x31 = some (d, x))
    (hctx : (ctx s x.val).all (fun c => decide (c.st ≠ .drain)) = true) (hlen : bits (wordAt d.words 3) 0 32 = 64)
    (hhost : bitAt (wordAt d.words 3) 32 = false) (hfree : keepWaits s (some (wordAt d.words 2 / 64)) none 1 = false) :
    Yields (.keepRead p) s fun t =>
      t.out = s.out ++ [.hostWrite (BitVec.ofNat 64 (wordAt d.words 1)) (lineU64s (lyRead s (.bank false 0) (wordAt d.words 2 / 64)).1)]
      ∧ (ctx t x.val).all (fun c => decide (c.st = .drain)) = true ∧ t.bank.mem = s.bank.mem ∧ (∀ g, ring t g = ring s g) := by
  have hu : execKeepRead p s = ok (settleCtx x (drainCtx x (keepReadLine p d 0 s))) := by
    simp [execKeepRead, h, not_any_drain hctx, hlen, hhost, hfree]
  obtain ⟨v, hv, hline⟩ : ∃ v, readOf v = readOf s ∧ keepReadLine p d 0 s
      = emit (.hostWrite (BitVec.ofNat 64 (wordAt d.words 1)) (lineU64s (lyRead s (.bank false 0) (wordAt d.words 2 / 64)).1)) v := by
    simp only [keepReadLine, hhost, Bool.false_eq_true, if_false, Nat.add_zero, Nat.mul_zero]
    refine ⟨_, ?_, rfl⟩
    have hnote := readOf_lyNote (s := s) (.bank false 0) [wordAt d.words 2 / 64]
    have hclip (b : Bool) : readOf (clipDesc p b (takeFree (lyNote (.bank false 0) [wordAt d.words 2 / 64] s))) = readOf s := by
      refine Eq.trans ?_ hnote
      simp [readOf]
    split <;> split <;> simp only [readOf_addCond, hclip]
  rw [hline] at hu
  obtain ⟨hbank, hrings, -, hout⟩ : v.bank = s.bank ∧ v.rings = s.rings ∧ v.seq = s.seq ∧ v.out = s.out := by
    simpa [readOf] using hv
  refine yields_of_ok hu ⟨?_, ?_, ?_, fun g => ?_⟩
  · rw [settleCtx_frame, drainCtx_frame]
    exact congrArg (· ++ _) hout
  · have hc : ∀ w : State, ctx (settleCtx x w) x.val = ctx w x.val := fun w => by rw [settleCtx_frame]; rfl
    rw [hc]
    exact all_drain_drainCtx
  · rw [settleCtx_frame, drainCtx_frame]
    exact congrArg Banks.mem hbank
  · rw [settleCtx_frame, drainCtx_frame, ring]
    exact congrArg (tget _ · g.val) hrings

/-- Settles O12: a store marks its blocks before it writes its lines, and no line touches another place or a ring. -/
theorem keepStoresAreJudged : Obligations.KeepStoresAreJudged := by
  refine ⟨?short, ?pass, ?lost, ?read⟩
  case short => exact fun _ _ _ _ h hrun ha hsrc hck => yields_keepWrite_of_short h hrun ha hsrc hck
  case pass => exact fun _ _ _ _ h hrun hhost ha hsrc hfree hck => yields_keepWrite_of_pass h hrun hhost ha hsrc hfree hck
  case lost => exact fun _ _ _ _ _ h hrun hsrc hr hm => yields_keepWrite_of_rival h hrun hsrc hr hm
  case read => exact fun _ _ _ _ h hctx hlen hhost hfree => yields_keepRead h hctx hlen hhost hfree

end Sys2Proof.Machine
end

section
/-! Work that waits for a context, and the context it gets (09 R248, R253; 13 R344, R348). -/

namespace Sys2Proof.Machine

variable {s t u : State} {p q : Place} {d : Desc}

/-! ### RUN -/

section
variable {im : List Byte} (h : startable s p 0x10 = some d)
include h

theorem yields_run (he : bits (wordAt d.words 2) 24 8 < leAt im 0x1A 2)
    (hq : fpDenied s d.func (imageFp im (bits (wordAt d.words 2) 24 8)) = false) :
    Yields (.run p im) s fun t =>
      (∃ e, desc t p = some e ∧ e.stage = .ctxWait ∧ e.prog.words = imageFp im (bits (wordAt d.words 2) 24 8))
      ∧ (∀ q, q ≠ p → desc t q = desc s q) ∧ t = { s with places := t.places } := by
  have hu : execRun p im s = ok (setDesc p { d with
      stage := .ctxWait, prog := { d.prog with words := imageFp im (bits (wordAt d.words 2) 24 8) } } s) := by
    simp only [execRun, h, if_neg (Nat.not_le.mpr he), hq, Bool.false_eq_true, if_false]
  obtain ⟨hself, hother⟩ := becomes_setDesc (s := s) (u := s) (p := p) rfl
  exact yields_of_ok hu ⟨⟨_, hself, rfl, rfl⟩, hother, rfl⟩

theorem yields_run_of_no_entry (he : leAt im 0x1A 2 ≤ bits (wordAt d.words 2) 24 8) :
    Yields (.run p im) s fun t => Ended p d .rsvNonzero (0x10 + 24 * 2 ^ 8) s t ∧ t = { s with places := t.places } := by
  have hu : execRun p im s = ok (endDesc p .rsvNonzero (0x10 + 256 * 24) s) := by
    simp only [execRun, h, if_pos he]
  exact yields_of_ok hu ⟨ended_endDesc (desc_of_startable h) rfl _ _, endDesc_frame _ _⟩
end

/-! ### STEP -/

/-- A row adds one row to what a batch has been judged to. -/
theorem length_rows_judgeRow (f : Func) (k : Nat) (h : List U64) (before : Nat) (cancel : Bool) (a : Gate) (r : List U64) :
    (judgeRow s f k h before cancel a r).rows.length = a.rows.length + 1 := by
  unfold judgeRow
  dsimp only
  simp only [apply_ite Gate.rows, apply_ite List.length, List.length_append, List.length_singleton, ite_self]

theorem length_rows_judgeBatch (f : Func) (k : Nat) (h : List U64) (cancels : List Nat) (l : List (List U64)) :
    (judgeBatch s f k h cancels l).rows.length = l.length := by
  rw [judgeBatch]
  generalize l.length = n
  induction n with
  | zero => rfl
  | succ n ih =>
    rw [List.range_succ, List.foldl_append, List.foldl_cons, List.foldl_nil, length_rows_judgeRow, ih]

theorem map_getD_range_length {α : Type} (z : α) (l : List α) : (List.range l.length).map (fun i => l.getD i z) = l := by
  refine List.ext_getElem (by simp) (fun i _ hi => ?_)
  simp [hi]

section
variable {b : List (List U64)} (hp : startable s p 0x11 = some d)
include hp

theorem yields_serveStep_of_empty (hm : (modelOf s d.func.val (bits (wordAt d.words 2) 16 4)).inForce = 0#39) :
    Yields (.serveStep p b) s fun t => Ended p d .rsvNonzero (0x10 + 16 * 2 ^ 8) s t ∧ t = { s with places := t.places } := by
  have hman : manifest s d.func.val (bits (wordAt d.words 2) 16 4) = none := by simp [manifest, hm]
  have hu : execServeStep p b s = ok (endDesc p .rsvNonzero (0x10 + 256 * 16) s) := by
    simp only [execServeStep, hp, hman]
  exact yields_of_ok hu ⟨ended_endDesc (desc_of_startable hp) rfl _ _, endDesc_frame _ _⟩

/-- The run of a STEP whose batch has been judged. -/
def stepRunOf (s : State) (d : Desc) (h : List U64) (b : List (List U64)) : StepRun :=
  let k := bits (wordAt d.words 2) 16 4
  let g := judgeBatch s d.func k h d.cancelRows b
  { func := d.func, slot := k, rows := g.rows, finish := (now s).toNat + predict s d.func k g.p g.ps g.t,
    posQuads := g.ps, modelPages := [manWeights h, manWork h], sent := false }

theorem yields_serveStep {h : List U64} (hman : manifest s d.func.val (bits (wordAt d.words 2) 16 4) = some h)
    (hlen : b.length = bits (wordAt d.words 2) 0 11) (hw : tablesWait s d.func b.length = false)
    (hbad : batchBad b = false) (hq : fpDenied s d.func (stepFp h (soundRows s d.func.val h b)) = false) :
    Yields (.serveStep p b) s fun t =>
      (∃ run, tfind t.serve.steps p.val = some run ∧ run.func = d.func ∧ run.rows.length = b.length ∧ run.sent = false)
      ∧ (∃ e, desc t p = some e ∧ e.stage = .ctxWait) ∧ (∀ q, q ≠ p → desc t q = desc s q)
      ∧ t = { s with places := t.places, serve := t.serve, cnt := t.cnt } := by
  have hu : execServeStep p b s = ok (bumpFuncBy d.func 7
      (judgeBatch s d.func (bits (wordAt d.words 2) 16 4) h d.cancelRows b).p
      (setDesc p { d with
          stage := .ctxWait, prog := { d.prog with words := stepFp h (soundRows s d.func.val h b) } }
        { s with serve := { s.serve with steps := tput s.serve.steps p.val (stepRunOf s d h b) } })) := by
    simp only [execServeStep, hp, hman, ← hlen, map_getD_range_length, hw, hbad, hq, Bool.false_eq_true, if_false]
    rfl
  obtain ⟨hself, hother⟩ := becomes_setDesc (s := s) (p := p) (e := { d with
    stage := .ctxWait, prog := { d.prog with words := stepFp h (soundRows s d.func.val h b) } })
    (u := { s with serve := { s.serve with steps := tput s.serve.steps p.val (stepRunOf s d h b) } }) rfl
  exact yields_of_ok hu ⟨⟨stepRunOf s d h b, tfind_tput_self _ _ _, rfl, length_rows_judgeBatch _ _ _ _ _, rfl⟩,
    ⟨_, hself, rfl⟩, hother, rfl⟩
end

/-! ### CONTEXT_ASSIGN -/

/-- The wiping of flags ends no wait and moves no context. -/
theorem ctx_wipeFlags (sp : FlagSpace) (ns : List Nat) (y : Nat) : ctx (wipeFlags sp ns s) y = ctx s y := by
  refine foldl_keeps (fun u => ctx u y) _ (fun u n => ?_) ns s
  refine foldl_keeps (fun u => ctx u y) _ (fun v k => ?_) _ u
  cases sp <;> rfl

theorem yields_contextAssign {x : Nat} {rs : Tab Region} {ks : List (Nat × Nat)} (hp : desc s p = some d)
    (hw : waitsForCtx s d = true)
    (hold : s.places.all (fun q => !(decide (q.2.acc < d.acc) && waitsForCtx s q.2)) = true)
    (hg : grantFor s d = some (x, rs, ks)) :
    Yields (.contextAssign p) s fun t =>
      (∃ c, ctx t x = some c ∧ c.place = p ∧ c.func = d.func ∧ c.regions = ks ∧ c.vals = [] ∧ c.loops = []
        ∧ c.st = (if opcodeOf d.words = 0x10 ∨ opcodeOf d.words = 0x11 then CState.load else CState.run))
      ∧ (∀ y, y ≠ x → ctx t y = ctx s y) ∧ t.marl = { s.marl with regions := rs }
      ∧ (∃ e, desc t p = some e ∧ e.stage = .running ∧ e.ctx = some (Fin.ofNat 32 x))
      ∧ (∀ q, q ≠ p → desc t q = desc s q)
      ∧ t = { s with places := t.places, marl := t.marl, seq := t.seq } := by
  have hold' : s.places.any (fun q => decide (q.2.acc < d.acc) && waitsForCtx s q.2) = false := by
    rw [← Bool.not_eq_true', List.not_any_eq_all_not]
    exact hold
  generalize hv : wipeFlags .loc (ownFlags x) { s with marl := { s.marl with regions := rs } } = v
  have hframe : v = { s with marl := { s.marl with regions := rs }, seq := v.seq } := by
    rw [← hv]
    refine State.ext_fields ?_ ?_ ?_ ?_ ?_ ?_ ?_ ?_ ?_ ?_ ?_ ?_ ?_ ?_ ?_ ?_ ?_ ?_ ?_ ?_ ?_ ?_ ?_ ?_ ?_ ?_ <;> simp
  have hctxs (y : Nat) : ctx v y = ctx s y := by rw [← hv, ctx_wipeFlags]; rfl
  have hu : execContextAssign p s = ok (setDesc p { d with stage := .running, ctx := some (Fin.ofNat 32 x) }
      (setCtx x { Ctx.fresh p d.func ks (now s) with
        st := if opcodeOf d.words = 0x10 ∨ opcodeOf d.words = 0x11 then CState.load else CState.run } v)) := by
    simp only [execContextAssign, hp, hw, hold', Bool.not_false, and_self, if_true, hg, hv]
  obtain ⟨hself, hother⟩ := becomes_setDesc (s := s) (p := p)
    (e := { d with stage := .running, ctx := some (Fin.ofNat 32 x) })
    (u := setCtx x { Ctx.fresh p d.func ks (now s) with
        st := if opcodeOf d.words = 0x10 ∨ opcodeOf d.words = 0x11 then CState.load else CState.run } v) (by rw [hframe]; rfl)
  refine yields_of_ok hu ⟨⟨_, ctx_setCtx_self v x _, rfl, rfl, rfl, rfl, rfl, rfl⟩,
    fun y hy => (ctx_setCtx_ne v x y _ hy).trans (hctxs y), ?_, ⟨_, hself, rfl, rfl⟩, hother, ?_⟩
  · rw [hframe]; rfl
  · rw [hframe]; rfl

/-- Settles O13: the oldest waiting descriptor gets its context, and a batch's rows are judged one by one. -/
theorem workWaitsForAContext : Obligations.WorkWaitsForAContext := by
  refine ⟨?run, ?noEntry, ?empty, ?step, ?assign⟩
  case run => exact fun _ _ _ _ h he hq => yields_run h he hq
  case noEntry => exact fun _ _ _ _ h he => yields_run_of_no_entry h he
  case empty => exact fun _ _ _ _ hp hm => yields_serveStep_of_empty hp hm
  case step => exact fun _ _ _ _ _ hp hman hlen hw hbad hq => yields_serveStep hp hman hlen hw hbad hq
  case assign => exact fun _ _ _ _ _ _ hp hw hold hg => yields_contextAssign hp hw hold hg

end Sys2Proof.Machine
end

section
/-! COPY at its acceptance and at its entry into a layout queue (04 R104, R113; 11 R303, R304). -/

namespace Sys2Proof.Machine

variable {s t u : State} {f : Func} {p q : Place} {d : Desc}

/-! ### The statuses of an acceptance -/

/-- An offence against ownership comes before whatever else the checks found. -/
theorem chosen_admissionConds_of_tenant {ws : List U64} {o : Offence} (c : Bool) (hop : knownOpcode (opcodeOf ws) = true)
    (ho : firstOffence (tenantOffences s f.val ws) = some o) :
    (admissionConds s f ws c).1 ≠ [] ∧ chosen (admissionConds s f ws c).1 = .badTenant
    ∧ (admissionConds s f ws c).2 = offenceDetail o := by
  simp only [admissionConds, hop, ho, Bool.not_true, Bool.false_eq_true, if_false, Option.isSome_some, if_true, and_true]
  generalize (firstOffence (rangeOffences s ws)).isSome = b
  generalize (decide (opcodeOf ws ≠ 0x03 ∧ descQuotaOf s f.val < quotaCount s f + 1)) = a
  cases a <;> cases b <;> cases c <;> decide

theorem firstOffence_copy {ws : List U64} (hop : opcodeOf ws = 0x20)
    (hext : extentOk s f.val (wordAt ws 1) (srcExtent ws) = false) :
    firstOffence (tenantOffences s f.val ws) = some (8, 0) := by
  simp only [tenantOffences, hop, hext, Bool.not_false, badField, if_true]
  cases extentOk s f.val (wordAt ws 2) (dstExtent ws) <;> rfl

/-! ### DESCRIPTOR_ACCEPT -/

/-- The descriptor at the fetch head is one of the table's. -/
theorem mem_of_headDesc (h : headDesc s f = some (p, d)) : ((p.val, d) : Nat × Desc) ∈ s.places ∧ d.func = f := by
  unfold headDesc at h
  dsimp only at h
  split at h
  · next q hq =>
    split at h
    · cases h
      exact ⟨List.mem_of_find?_eq_some hq, by simpa using And.left (by simpa using List.find?_some hq)⟩
    · cases h
  · cases h

theorem refuseFetch_of_no_failed (h : ∀ q ∈ s.places, q.2.func = f → q.2.failed = false) : refuseFetch f s = s := by
  unfold refuseFetch
  split
  · next q d hq =>
    obtain ⟨hm, hf⟩ := mem_of_headDesc hq
    rw [h _ hm hf, if_neg Bool.false_ne_true]
  · rfl

theorem noteGap_places (hsn : U32) : (noteGap f hsn s).places = s.places := by
  unfold noteGap
  dsimp only
  split
  · rfl
  · simp

theorem places_setRing_noteGap (r : Ring) (hsn : U32) : (setRing f r (noteGap f hsn s)).places = s.places :=
  noteGap_places hsn

theorem logCancelMet_places (hsn : U32) : (logCancelMet f hsn s).places = s.places := by
  unfold logCancelMet
  split
  · rw [logCollision_eq]
  · rfl

/-- The pending cancels of a ring that name a descriptor about to be accepted. -/
def cancelsOf (s : State) (f : Func) (d : Desc) : List (U32 × U16) :=
  (ring s f).cancels.filter (fun c => decide (c.1 = hsnOf d.words))

/-- Whether one of them names it whole. -/
def cancelsWhole (s : State) (f : Func) (d : Desc) : Bool :=
  decide (opcodeOf d.words ≠ 0x03) && (cancelsOf s f d).any (fun c => decide (c.2 = 0xFFFF#16))

/-- The landed descriptor as its acceptance leaves it. -/
def acceptedDesc (s : State) (f : Func) (d : Desc) : Desc :=
  let a := admissionConds s f d.words (cancelsWhole s f d)
  { d with stage := if a.1 = [] then .accepted else .ended, hsn := hsnOf d.words, epoch := (ring s f).epoch,
           acc := s.acceptCtr, conds := a.1, detail := a.2,
           cancelRows := (((cancelsOf s f d).filter (fun c => decide (c.2 ≠ 0xFFFF#16))).map (fun c => c.2.toNat)).filter
             (fun i => decide (opcodeOf d.words = 0x11 ∧ i < bits (wordAt d.words 2) 0 11)) }

/-- What an acceptance counts and logs leaves the places as the descriptor's own entry leaves them. -/
theorem places_of_accepted (e : Desc) {w : State} (hw : w.places = s.places) (b : Bool) (hsn : U32) (n k : Nat) :
    (bumpBy 1 n (bumpFuncBy f 0 1 (countEv 0x01 0 (some f) 1 (if b then
        logCancelMet f hsn { setDesc p e w with acceptCtr := k }
      else { setDesc p e w with acceptCtr := k })))).places = (setDesc p e s).places := by
  dsimp only [bumpBy, bumpFuncBy, countEv]
  split
  · rw [logCancelMet_places]
    simp [setDesc, hw]
  · simp [setDesc, hw]

theorem yields_descriptorAccept_of_alien (hhead : headDesc s f = some (p, d)) (hneed : (ring s f).needResync = false)
    (hw : waitsForCommit s f d = false) (hres : resyncDue s f = false)
    (hgood : ∀ q ∈ s.places, q.2.func = f → q.2.failed = false) (hop : opcodeOf d.words = 0x20)
    (hext : extentOk s f.val (wordAt d.words 1) (srcExtent d.words) = false) :
    Yields (.descriptorAccept f) s fun t =>
      ∃ e, desc t p = some e ∧ e.stage = .ended ∧ chosen e.conds = .badTenant ∧ e.detail = 0x08#64 := by
  obtain ⟨hmem, hfunc⟩ := mem_of_headDesc hhead
  have hd : d.failed = false := hgood _ hmem hfunc
  obtain ⟨v, hu, hv⟩ : ∃ v : State, execDescriptorAccept f s = ok (refuseFetch f v)
      ∧ v.places = (setDesc p (acceptedDesc s f d) s).places := by
    simp only [execDescriptorAccept, hhead, if_neg (ne_true_of_eq_false hd), hneed, hw, hres, Bool.false_eq_true, false_and, if_false, Bool.or_self]
    exact ⟨_, rfl, places_of_accepted (acceptedDesc s f d) (places_setRing_noteGap _ _) _ _ _ _⟩
  have hnone : ∀ q ∈ v.places, q.2.func = f → q.2.failed = false := by
    intro q hq hf
    rw [hv] at hq
    rcases mem_tinsert _ _ _ _ hq with rfl | hq
    · exact hd
    · exact hgood q (mem_terase _ _ _ hq).1 hf
  rw [refuseFetch_of_no_failed hnone] at hu
  have hknown : knownOpcode (opcodeOf d.words) = true := by rw [hop]; rfl
  obtain ⟨hne, hchosen, hoff⟩ := chosen_admissionConds_of_tenant (cancelsWhole s f d) hknown (firstOffence_copy hop hext)
  exact yields_of_ok hu ⟨acceptedDesc s f d, (becomes_of_places hv).1, if_neg hne, hchosen, hoff⟩

/-! ### COPY -/

theorem queue_setQueue_ne {a b : Nat} (l : List QCmd) (h : b ≠ a) : queue (setQueue a l s) b = queue s b :=
  tget_tset_ne _ _ _ _ _ h

section
variable (h : startable s p 0x20 = some d)
include h

theorem yields_copy_of_quota (hq : marlQuotaOf s d.func.val < blocksHeld s d.func + 1) :
    Yields (.copy p) s fun t => Ended p d .quota 0 s t ∧ t = { s with places := t.places } := by
  have hu : execCopy p s = ok (endDesc p .quota 0 s) := by simp only [execCopy, h, if_pos hq]
  exact yields_of_ok hu ⟨ended_endDesc (desc_of_startable h) rfl _ _, endDesc_frame _ _⟩

theorem yields_copy {rs : Tab Region} {key : Nat} (hq : blocksHeld s d.func + 1 ≤ marlQuotaOf s d.func.val)
    (hpl : placeRegion s s.marl.regions .staging none (some p) d.func 1 none = some (rs, key))
    (hroom : (queue s (copyQueue s).val).length < 64) :
    Yields (.copy p) s fun t =>
      (∃ k : QCmd, queue t (copyQueue s).val = queue s (copyQueue s).val ++ [k] ∧ k.ctx = none ∧ k.place = p
        ∧ k.words = d.words ∧ k.started = false)
      ∧ (∀ q, q ≠ (copyQueue s).val → queue t q = queue s q)
      ∧ t.marl = { s.marl with regions := rs } ∧ Becomes p { d with stage := .running } s t
      ∧ t = { s with places := t.places, marl := t.marl, seq := t.seq } := by
  have hu : execCopy p s = ok (enterCopy p d (copyQueue s) { s with marl := { s.marl with regions := rs } }) := by
    simp only [execCopy, h, if_neg (Nat.not_lt.mpr hq), hpl, if_neg (Nat.not_le.mpr hroom)]
  exact yields_of_ok hu ⟨⟨_, queue_setQueue_self s _ _, rfl, rfl, rfl, rfl⟩, fun q hq => queue_setQueue_ne (s := s) _ hq, rfl,
    becomes_setDesc rfl, rfl⟩
end

/-- Settles O14: an extent outside the function's ownership comes before every other check, and a queue takes its command at
its end. -/
theorem copiesEnterALayoutQueue : Obligations.CopiesEnterALayoutQueue := by
  refine ⟨?alien, ?quota, ?enter⟩
  case alien =>
    exact fun _ _ _ _ hhead hneed hw hres hgood hop hext =>
      yields_descriptorAccept_of_alien hhead hneed hw hres hgood hop hext
  case quota => exact fun _ _ _ h hq => yields_copy_of_quota h hq
  case enter => exact fun _ _ _ _ _ h hq hpl hroom => yields_copy h hq hpl hroom

end Sys2Proof.Machine
end

section
/-! What the ports of the module links do to the rest of the state: sending, taking an acknowledgement, going to training, and
the arrival of a packet in sequence (15 R393 to R402). -/

namespace Sys2Proof.Machine

variable {s t u : State} {A B : Nat → Prop} {p : PortNo} {q : Nat}

/-! ### Sending -/

/-- A port without its traffic: what it sends, holds, has room for, and owes its far end. -/
def Port.still (x : Port) : Port :=
  { x with txSeq := 0#32, held := [], queue := [], credit0 := 0, credit1 := 0, back0 := 0, back1 := 0, nackSent := false,
           stalls := 0, replays := 0#32 }

/-- From s to t only the traffic of the ports in A moves: what leaves the module and the events' counts move with it. -/
structure Sends (A : Nat → Prop) (s t : State) : Prop where
  frame : t = { s with lnk := { s.lnk with ports := t.lnk.ports }, out := t.out, cnt := { s.cnt with cnt := t.cnt.cnt } }
  still : ∀ q, (port t q).still = (port s q).still
  other : ∀ q, ¬A q → port t q = port s q

namespace Sends

theorem refl (A : Nat → Prop) (s : State) : Sends A s s := ⟨rfl, fun _ => rfl, fun _ _ => rfl⟩

theorem trans (h : Sends A s t) (h' : Sends A t u) : Sends A s u := by
  refine ⟨?_, fun q => (h'.still q).trans (h.still q), fun q hq => (h'.other q hq).trans (h.other q hq)⟩
  have hu := h'.frame
  rw [h.frame] at hu
  exact hu

theorem mono (h : Sends A s t) (hAB : ∀ q, A q → B q) : Sends B s t :=
  ⟨h.frame, h.still, fun q hq => h.other q (fun ha => hq (hAB q ha))⟩

/-- Of no port. -/
theorem anywhere (h : Sends A s t) : Sends (fun _ => True) s t := h.mono fun _ _ => trivial

theorem foldl {α : Type} {g : State → α → State} (hg : ∀ u a, Sends A u (g u a)) (l : List α) (s : State) :
    Sends A s (l.foldl g s) := by
  induction l generalizing s with
  | nil => exact refl A s
  | cons a l ih => exact (hg s a).trans (ih _)

theorem rxNext (h : Sends A s t) (q : Nat) : (port t q).rxNext = (port s q).rxNext :=
  show (port t q).still.rxNext = (port s q).still.rxNext from congrArg Port.rxNext (h.still q)

theorem st (h : Sends A s t) (q : Nat) : (port t q).st = (port s q).st :=
  show (port t q).still.st = (port s q).still.st from congrArg Port.st (h.still q)

theorem portUp (h : Sends A s t) (q : Nat) : portUp t q = portUp s q := by
  rw [Machine.portUp, Machine.portUp, h.st]

end Sends

theorem sends_setPort {y : Port} (h : Sends (· = p.val) s t) (hy : y.still = (port t p.val).still) :
    Sends (· = p.val) s (setPort p.val y t) := by
  refine h.trans ⟨rfl, fun k => ?_, fun k hk => port_setPort_ne t p.val k y hk⟩
  by_cases hk : k = p.val
  · rw [hk, port_setPort_self, hy]
  · rw [port_setPort_ne t p.val k y hk]

theorem sends_emit {o : Out} (h : Sends A s t) : Sends A s (emit o t) := h.trans ⟨rfl, fun _ => rfl, fun _ _ => rfl⟩

theorem sends_countEv {src inst n : Nat} {f : Option Func} (h : Sends A s t) : Sends A s (countEv src inst f n t) :=
  h.trans ⟨rfl, fun _ => rfl, fun _ _ => rfl⟩

theorem sends_sendNow {o : PktOut} (h : Sends (· = p.val) s t) : Sends (· = p.val) s (sendNow p o t) :=
  sends_countEv (sends_emit (sends_setPort h rfl))

theorem sends_pump {n : Nat} (h : Sends (· = p.val) s t) : Sends (· = p.val) s (pump n p t) := by
  induction n generalizing t with
  | zero => exact h
  | succ n ih =>
    rw [pump]
    split
    · exact h
    · split
      · exact ih (sends_sendNow (sends_setPort h rfl))
      · exact h

theorem sends_queueAt {o : PktOut} (h : Sends (· = p.val) s t) : Sends (· = p.val) s (queueAt p o t) :=
  sends_pump (sends_setPort h rfl)

theorem sends_sendLack {nack : Bool} (h : Sends (· = p.val) s t) : Sends (· = p.val) s (sendLack p nack t) := by
  unfold sendLack
  dsimp only
  split
  · exact sends_emit (sends_setPort h rfl)
  · exact h

theorem sends_giveBack {vc : Bool} (h : Sends (· = p.val) s t) : Sends (· = p.val) s (giveBack p vc t) := by
  unfold giveBack
  cases vc <;> exact sends_setPort h rfl

theorem sends_sendHeld (h : Sends A s t) : Sends A s (sendHeld p t) :=
  h.trans (.foldl (fun _ _ => sends_emit (.refl _ _)) _ t)

theorem sends_replayFrom (h : Sends (· = p.val) s t) : Sends (· = p.val) s (replayFrom p t) :=
  sends_countEv (sends_sendHeld (sends_setPort h rfl))

/-- A cause for a replay before the eighth without an advance, or with nothing held. -/
theorem sends_replayOrTrain (h : Sends (· = p.val) s t) (hs : (port t p.val).stalls < 8) :
    Sends (· = p.val) s (replayOrTrain p t) := by
  unfold replayOrTrain
  dsimp only
  split
  · exact h
  · rw [if_neg (Nat.not_le.mpr hs)]
    exact sends_replayFrom h

/-- The port once a header's acknowledgement and credits are taken. -/
def headedPort (h : PktHdr) (x : Port) : Port :=
  { x with held := x.held.filter (fun o => later o.h.seq h.ack),
           stalls := if (x.held.filter (fun o => later o.h.seq h.ack)).length < x.held.length then 0 else x.stalls,
           credit0 := if h.crdVc then x.credit0 else x.credit0 + h.crd.toNat,
           credit1 := if h.crdVc then x.credit1 + h.crd.toNat else x.credit1 }

theorem takeHeader_eq (h : PktHdr) (s : State) :
    takeHeader p h s = pump (headedPort h (port s p.val)).queue.length p
      (if h.nack then replayOrTrain p (setPort p.val (headedPort h (port s p.val)) s)
        else setPort p.val (headedPort h (port s p.val)) s) := rfl

theorem stalls_headedPort (h : PktHdr) (x : Port) : (headedPort h x).stalls ≤ x.stalls := by
  unfold headedPort
  dsimp only
  split
  · exact Nat.zero_le _
  · exact le_rfl

/-- A header that does not send the port to training. -/
theorem sends_takeHeader {h : PktHdr} (hn : h.nack = false ∨ (port s p.val).stalls < 8) :
    Sends (· = p.val) s (takeHeader p h s) := by
  rw [takeHeader_eq]
  refine sends_pump ?_
  have hset : Sends (· = p.val) s (setPort p.val (headedPort h (port s p.val)) s) := sends_setPort (.refl _ s) rfl
  split
  · next hnack =>
    refine sends_replayOrTrain hset ?_
    rw [port_setPort_self]
    exact (stalls_headedPort h _).trans_lt (hn.resolve_left (by simp [hnack]))
  · exact hset

/-! ### Training -/

/-- From s to t the links may go to training too: their log entries, a lane commit and the choice of the parent move with it. -/
structure Trains (s t : State) : Prop where
  frame : t = { s with lnk := { s.lnk with ports := t.lnk.ports, root := t.lnk.root, dist := t.lnk.dist,
                                           parent := t.lnk.parent },
                       out := t.out, cnt := t.cnt, dev := { s.dev with lnkLane := t.dev.lnkLane },
                       log := { t.log with orders := s.log.orders, ordersAt := s.log.ordersAt } }
  rxNext : ∀ q, (port t q).rxNext = (port s q).rxNext
  up : ∀ q, portUp t q = true → portUp s q = true

namespace Trains

theorem of_sends (h : Sends A s t) : Trains s t := by
  refine ⟨?_, h.rxNext, fun q hq => (h.portUp q).symm.trans hq⟩
  rw [h.frame]

theorem trans (h : Trains s t) (h' : Trains t u) : Trains s u := by
  refine ⟨?_, fun q => (h'.rxNext q).trans (h.rxNext q), fun q hq => h.up q (h'.up q hq)⟩
  have hu := h'.frame
  rw [h.frame] at hu
  exact hu

end Trains

theorem chooseParent_frame (s : State) :
    chooseParent s = { s with lnk := { s.lnk with root := (chooseParent s).lnk.root, dist := (chooseParent s).lnk.dist,
                                                  parent := (chooseParent s).lnk.parent } } := by
  unfold chooseParent
  dsimp only
  split
  · split <;> rfl
  · rfl

theorem logPort_frame (q : Nat) (s : State) :
    logPort q s = { s with out := (logPort q s).out, log := (logPort q s).log, cnt := (logPort q s).cnt } := logAs_eq ..

theorem logPort_orders (q : Nat) (s : State) :
    (logPort q s).log.orders = s.log.orders ∧ (logPort q s).log.ordersAt = s.log.ordersAt := by
  rw [logPort, logDev, logAs_log]
  exact ⟨rfl, rfl⟩

/-- What follows a change of a port's state: it is logged, and the parent is chosen again. -/
def announced (q : Nat) (s : State) : State := chooseParent (logPort q s)

theorem announced_frame (q : Nat) (s : State) :
    announced q s = { s with lnk := { s.lnk with root := (announced q s).lnk.root, dist := (announced q s).lnk.dist,
                                                 parent := (announced q s).lnk.parent },
                             out := (announced q s).out, cnt := (announced q s).cnt,
                             log := { (announced q s).log with orders := s.log.orders, ordersAt := s.log.ordersAt } } := by
  obtain ⟨ho, ha⟩ := logPort_orders q s
  have hlog : (logPort q s).log = { (logPort q s).log with orders := s.log.orders, ordersAt := s.log.ordersAt } := by
    rw [← ho, ← ha]
  have hp := logPort_frame q s
  have hc := chooseParent_frame (logPort q s)
  rw [announced]
  generalize logPort q s = v at hlog hp hc
  generalize chooseParent v = w at hc
  rw [hc, hp, hlog]

theorem port_announced (q k : Nat) (s : State) : port (announced q s) k = port s k := by
  rw [port, announced_frame, port]

/-- Entry into training where the port does not train yet. -/
theorem enterState_train (q : Nat) (s : State) (h : (port s q).st ≠ .train) :
    enterState q .train s = announced q (setPort q { port s q with st := .train } s) := by
  unfold enterState announced
  rw [if_neg h]
  simp

theorem trains_enterState_train (q : Nat) (s : State) : Trains s (enterState q .train s) := by
  by_cases h : (port s q).st = .train
  · rw [enterState, if_pos h]
    exact .of_sends (.refl (fun _ => True) s)
  · rw [enterState_train q s h]
    have hport (k : Nat) : port (announced q (setPort q { port s q with st := .train } s)) k
        = if k = q then { port s q with st := .train } else port s k := by
      rw [port_announced]
      split
      · next hk => rw [hk, port_setPort_self]
      · next hk => rw [port_setPort_ne _ _ _ _ hk]
    refine ⟨?_, fun k => ?_, fun k hk => ?_⟩
    · rw [announced_frame]
      rfl
    · rw [hport]
      split
      · next hk => rw [hk]
      · rfl
    · rw [portUp, hport] at hk
      by_cases hkq : k = q
      · rw [if_pos hkq] at hk
        cases hk
      · rwa [if_neg hkq] at hk

theorem trains_enterTrain (q : Nat) (s : State) : Trains s (enterTrain q s) := by
  unfold enterTrain
  dsimp only
  refine Trains.trans ?_ (trains_enterState_train _ _)
  split
  · exact ⟨rfl, fun _ => rfl, fun _ h => h⟩
  · exact ⟨rfl, fun _ => rfl, fun _ h => h⟩

theorem Trains.sends (h : Trains s t) (h' : Sends A t u) : Trains s u := h.trans (.of_sends h')

theorem trains_replayOrTrain (h : Trains s t) : Trains s (replayOrTrain p t) := by
  unfold replayOrTrain
  dsimp only
  split
  · exact h
  · split
    · exact Trains.trans (h.sends (u := setPort p.val { port t p.val with stalls := 0 } t) (sends_setPort (.refl _ t) rfl))
        (trains_enterTrain _ _)
    · exact h.sends (sends_replayFrom (.refl _ t))

theorem trains_takeHeader (h : PktHdr) (s : State) : Trains s (takeHeader p h s) := by
  rw [takeHeader_eq]
  have hset : Trains s (setPort p.val (headedPort h (port s p.val)) s) := .of_sends (sends_setPort (.refl _ s) rfl)
  refine Trains.sends ?_ (sends_pump (.refl _ _))
  split
  · exact trains_replayOrTrain hset
  · exact hset

/-! ### The arrival of a packet in sequence -/

/-- A transport packet has been taken at port p: the next one expected there is the following one. -/
structure Taken (p : PortNo) (s t : State) : Prop where
  frame : t = { s with lnk := { s.lnk with ports := t.lnk.ports, root := t.lnk.root, dist := t.lnk.dist,
                                           parent := t.lnk.parent },
                       out := t.out, cnt := t.cnt, dev := { s.dev with lnkLane := t.dev.lnkLane },
                       log := { t.log with orders := s.log.orders, ordersAt := s.log.ordersAt } }
  rxNext : (port t p.val).rxNext = (port s p.val).rxNext + 1#32
  up : ∀ q, portUp t q = true → portUp s q = true

/-- The port after a packet in sequence. -/
def stepPort (x : Port) : Port := { x with rxNext := x.rxNext + 1#32, nackSent := false }

theorem takeTransport_of_next {h : PktHdr} (hup : portUp s p.val = true) (hseq : h.seq = (port s p.val).rxNext) :
    takeTransport p h s
      = (sendLack p false (setPort p.val (stepPort (port (takeHeader p h s) p.val)) (takeHeader p h s)), true) := by
  simp only [takeTransport, hup, Bool.not_true, Bool.false_eq_true, if_false, hseq, if_true]
  rfl

theorem taken_takeTransport {h : PktHdr} (hup : portUp s p.val = true) (hseq : h.seq = (port s p.val).rxNext) :
    Taken p s (takeTransport p h s).1 := by
  rw [takeTransport_of_next hup hseq]
  have hhead := trains_takeHeader (p := p) h s
  generalize takeHeader p h s = u at hhead ⊢
  have hlack : Trains (setPort p.val (stepPort (port u p.val)) u)
      (sendLack p false (setPort p.val (stepPort (port u p.val)) u)) := .of_sends (sends_sendLack (.refl _ _))
  dsimp only
  generalize sendLack p false (setPort p.val (stepPort (port u p.val)) u) = w at hlack ⊢
  refine ⟨?_, ?_, fun q hq => hhead.up q ?_⟩
  · have hu := hhead.frame
    exact hlack.frame.trans (by rw [hu]; rfl)
  · rw [hlack.rxNext, port_setPort_self]
    exact congrArg (· + 1#32) (hhead.rxNext _)
  · have hset := hlack.up q hq
    by_cases hp : q = p.val
    · rw [hp, portUp, port_setPort_self] at hset
      rw [hp]
      exact hset
    · rwa [portUp, port_setPort_ne _ _ _ _ hp] at hset

/-- A packet in sequence that is addressed to this module acts here; one with a payload gives its buffer back. -/
theorem arrive_of_next {h : PktHdr} (hup : portUp s p.val = true) (hseq : h.seq = (port s p.val).rxNext)
    (hdst : ownPos s = some h.dst) (k : Pkt) (here : State → State) :
    ∃ u, Taken p s u
      ∧ arrive p h k here s = if costs k then giveBack p h.vc (here u) else here u := by
  refine ⟨(takeTransport p h s).1, taken_takeTransport hup hseq, ?_⟩
  have htaken : (takeTransport p h s).2 = true := by rw [takeTransport_of_next hup hseq]
  simp only [arrive, htaken, Bool.not_true, Bool.false_eq_true, if_false, hdst, if_true]

/-! ### Packets that start here -/

/-- Packets of a shipment, which the clipping of a loop marks at their descriptor. -/
def ownPkt (k : Pkt) : Bool :=
  match k with
  | .openShip .. => true
  | .write .. => true
  | .flagSet .. => true
  | _ => false

theorem clipDesc_false (tag : Place) : clipDesc tag false s = s := by
  unfold clipDesc
  split <;> rfl

/-- Without a port, nothing starts; else the packet is queued at one. -/
theorem originate_cases (dst : Byte) (tag : Place) (k : Pkt) (via : Option Nat) (s : State) :
    originate dst tag k via s = none
    ∨ ∃ (r : PortNo) (o : PktOut) (b : Bool), (ownPkt k = false → b = false)
        ∧ originate dst tag k via s = some (queueAt r o (clipDesc tag b s)) := by
  unfold originate
  dsimp only
  split
  · exact .inl rfl
  · split
    · exact .inl rfl
    · refine .inr ⟨_, _, _, fun hk => ?_, rfl⟩
      cases k <;> simp_all [ownPkt]

/-- A reply moves the traffic of its port alone. -/
theorem sends_reply {dst : Byte} {tag : Place} {k : Pkt} (hk : ownPkt k = false) (s : State) :
    Sends (fun _ => True) s (reply dst tag k s) := by
  rw [reply]
  rcases originate_cases dst tag k none s with hn | ⟨r, o, b, hb, ho⟩
  · rw [hn]
    exact .refl _ s
  · rw [ho, hb hk, clipDesc_false]
    exact (sends_queueAt (.refl _ s)).anywhere

end Sys2Proof.Machine
end

section
/-! Shipments at their source (14 R382 to R385, R389; 15 R409 to R411). -/

namespace Sys2Proof.Machine

variable {s t u : State} {pl : Place} {d : Desc}

/-! ### The packets of a shipment -/

/-- From s to t packets of place pl's shipment have been sent: its descriptor may be clipped and has its detail, its record
counts the ports it used and its poison. -/
structure Ships (pl : Place) (s t : State) : Prop where
  frame : t = { s with lnk := { s.lnk with ports := t.lnk.ports }, out := t.out, cnt := { s.cnt with cnt := t.cnt.cnt },
                       places := t.places, serve := { s.serve with shipsOut := t.serve.shipsOut } }
  still : ∀ q, (port t q).still = (port s q).still
  desc : ∀ d, desc s pl = some d → ∃ c n, desc t pl = some { d with clipped := c, detail := n }
  ship : ∀ x, tfind s.serve.shipsOut pl.val = some x →
    ∃ m b, tfind t.serve.shipsOut pl.val = some { x with used := m, poisoned := b }

namespace Ships

theorem refl (pl : Place) (s : State) : Ships pl s s :=
  ⟨rfl, fun _ => rfl, fun d h => ⟨d.clipped, d.detail, h⟩, fun x h => ⟨x.used, x.poisoned, h⟩⟩

theorem trans (h : Ships pl s t) (h' : Ships pl t u) : Ships pl s u := by
  refine ⟨?_, fun q => (h'.still q).trans (h.still q), fun d hd => ?_, fun x hx => ?_⟩
  · have hu := h'.frame
    rw [h.frame] at hu
    exact hu
  · obtain ⟨c, n, hd⟩ := h.desc d hd
    obtain ⟨c', n', hd⟩ := h'.desc _ hd
    exact ⟨c', n', hd⟩
  · obtain ⟨m, b, hx⟩ := h.ship x hx
    obtain ⟨m', b', hx⟩ := h'.ship _ hx
    exact ⟨m', b', hx⟩

theorem foldl {α : Type} {g : State → α → State} (hg : ∀ u a, Ships pl u (g u a)) (l : List α) (s : State) :
    Ships pl s (l.foldl g s) := by
  induction l generalizing s with
  | nil => exact refl pl s
  | cons a l ih => exact (hg s a).trans (ih _)

theorem rxNext (h : Ships pl s t) (q : Nat) : (port t q).rxNext = (port s q).rxNext :=
  show (port t q).still.rxNext = (port s q).still.rxNext from congrArg Port.rxNext (h.still q)

end Ships

theorem ships_of_sends {A : Nat → Prop} (h : Sends A s t) : Ships pl s t := by
  have hp : t.places = s.places := by rw [h.frame]
  have hv : t.serve = s.serve := by rw [h.frame]
  refine ⟨?_, h.still, fun d hd => ⟨d.clipped, d.detail, (desc_congr hp pl).trans hd⟩,
    fun x hx => ⟨x.used, x.poisoned, by rw [hv]; exact hx⟩⟩
  rw [h.frame]

theorem ships_clipDesc (b : Bool) (s : State) : Ships pl s (clipDesc pl b s) := by
  unfold clipDesc
  split
  · next d hd =>
    split
    · refine ⟨rfl, fun _ => rfl, fun e he => ⟨true, d.detail, ?_⟩, fun x h => ⟨x.used, x.poisoned, h⟩⟩
      obtain rfl : d = e := Option.some_inj.mp (hd.symm.trans he)
      exact desc_setDesc_self ..
    · exact .refl pl s
  · exact .refl pl s

theorem ships_originate_getD (dst : Byte) (k : Pkt) (via : Option Nat) (s : State) :
    Ships pl s ((originate dst pl k via s).getD s) := by
  rcases originate_cases dst pl k via s with hn | ⟨r, o, b, -, ho⟩
  · rw [hn]
    exact .refl pl s
  · rw [ho]
    exact (ships_clipDesc b s).trans (ships_of_sends (sends_queueAt (.refl _ _)))

/-- A record of which only the ports used and the poison change. -/
theorem ships_put {x : ShipOut} (hx : tfind s.serve.shipsOut pl.val = some x) (m : BitVec 6) (b : Bool) :
    Ships pl s { s with serve := { s.serve with
      shipsOut := tput s.serve.shipsOut pl.val { x with used := m, poisoned := b } } } := by
  refine ⟨rfl, fun _ => rfl, fun d h => ⟨d.clipped, d.detail, h⟩, fun y hy => ⟨m, b, ?_⟩⟩
  obtain rfl : x = y := Option.some_inj.mp (hx.symm.trans hy)
  exact tfind_tput_self ..

theorem ships_putShipOut {x : ShipOut} (hx : tfind s.serve.shipsOut pl.val = some x) (m : BitVec 6) :
    Ships pl s (putShipOut pl { x with used := m } s) := by
  unfold putShipOut
  dsimp only
  refine (ships_put hx m x.poisoned).trans ?_
  split
  · next d hd =>
    refine ⟨rfl, fun _ => rfl, fun e he => ⟨d.clipped, BitVec.ofNat 64 (shipDetail { x with used := m }), ?_⟩,
      fun y h => ⟨y.used, y.poisoned, h⟩⟩
    obtain rfl : d = e := Option.some_inj.mp (hd.symm.trans he)
    exact desc_setDesc_self ..
  · exact .refl pl _

theorem ships_noteUsed (via : Option Nat) (s : State) : Ships pl s (noteUsed pl via s) := by
  unfold noteUsed
  dsimp only
  split
  · exact .refl pl s
  · next x hx =>
    split
    · exact ships_putShipOut hx _
    · exact .refl pl s

theorem ships_sendOpens (x : ShipOut) (s : State) : Ships pl s (sendOpens pl x s) :=
  (ships_noteUsed _ s).trans (.foldl (fun u k => ships_originate_getD _ k _ u) _ _)

theorem ships_sendEntry (x : ShipOut) (k : Nat) (s : State) : Ships pl s (sendEntry pl x k s) := by
  refine (ships_noteUsed _ s).trans (.foldl (fun u i => ?_) _ _)
  dsimp only
  refine Ships.trans ?_ (ships_originate_getD _ _ _ _)
  split
  · split
    · next y hy => exact ships_put hy y.used true
    · exact .refl pl u
  · exact .refl pl u

/-! ### SHIP -/

/-- The pages of a SHIP's list, source and destination. -/
def shipPairs (l : List U64) : List (Nat × Nat) := l.map (fun v => (bits v.toNat 0 32, bits v.toNat 32 32))

/-- The list of a SHIP names pages of its function alone, none of them fenced. -/
def ShipListOk (s : State) (d : Desc) (l : List U64) : Prop :=
  ∀ v ∈ l, bits v.toNat 0 32 < 2 ^ 23 ∧ bits v.toNat 32 32 < 2 ^ 23 ∧ pageOwner s (bits v.toNat 0 32) = d.func.val + 1
    ∧ isFenced s (bits v.toNat 0 32 / 4096 / 128) (bits v.toNat 0 32 / 4096 / 64 % 2) = false

theorem shipList_checks {l : List U64} (h : ShipListOk s d l) :
    (shipPairs l).any (fun q => decide (pageOwner s q.1 ≠ d.func.val + 1 ∧ q.1 < 2 ^ 23)) = false
    ∧ (shipPairs l).any (fun q => decide (2 ^ 23 ≤ q.1 ∨ 2 ^ 23 ≤ q.2)) = false
    ∧ (shipPairs l).any (fun q => isFenced s (q.1 / 4096 / 128) (q.1 / 4096 / 64 % 2)) = false := by
  simp only [shipPairs, List.any_map, List.any_eq_false, Function.comp_apply, decide_eq_true_eq]
  refine ⟨fun v hv hc => ?_, fun v hv hc => ?_, fun v hv => ?_⟩
  · exact hc.1 (h v hv).2.2.1
  · obtain ⟨h1, h2, -⟩ := h v hv
    omega
  · rw [(h v hv).2.2.2]
    exact Bool.false_ne_true

section
variable {l : List U64} (h : startable s pl 0x40 = some d) (hlen : bits (wordAt d.words 3) 0 13 = l.length)
    (hl : ShipListOk s d l) (hself : ownPos s ≠ some (BitVec.ofNat 8 (bits (wordAt d.words 1) 0 8)))
include h hlen hl hself

theorem yields_ship_of_no_path
    (hpath : pathFor s (BitVec.ofNat 8 (bits (wordAt d.words 1) 0 8)) (BitVec.ofNat 6 (bits (wordAt d.words 1) 24 6)) = false) :
    Yields (.ship pl l) s fun t =>
      Becomes pl { d with stage := .ended, conds := [.linkDown], detail := 0#64 } s t ∧ t = { s with places := t.places } := by
  obtain ⟨halien, hrsv, hfen⟩ := shipList_checks hl
  rw [shipPairs] at halien hrsv hfen
  have hu : execShip pl l s
      = ok (setDesc pl { d with stage := .ended, conds := [.linkDown], detail := BitVec.ofNat 64 0 } s) := by
    simp only [execShip, h, hlen, List.take_length, halien, hrsv, hfen, decide_eq_false hself, hpath, Bool.false_eq_true,
      if_false, Bool.or_self]
    rfl
  exact yields_of_ok hu ⟨becomes_setDesc rfl, rfl⟩

/-- The record with which a shipment starts. -/
def shipStart (d : Desc) (l : List U64) : ShipOut :=
  { dest := BitVec.ofNat 8 (bits (wordAt d.words 1) 0 8), flag := BitVec.ofNat 14 (bits (wordAt d.words 1) 8 14),
    ports := BitVec.ofNat 6 (bits (wordAt d.words 1) 24 6), pairs := shipPairs l, parts := (l.length + 63) / 64,
    opened := false, unacked := List.range (shipPairs l).length, used := 0#6, flagSent := false, poisoned := false }

theorem yields_ship
    (hpath : pathFor s (BitVec.ofNat 8 (bits (wordAt d.words 1) 0 8)) (BitVec.ofNat 6 (bits (wordAt d.words 1) 24 6)) = true) :
    Yields (.ship pl l) s fun t =>
      (∃ x, tfind t.serve.shipsOut pl.val = some x ∧ x.unacked = List.range l.length ∧ x.opened = false ∧ x.flagSent = false
        ∧ x.pairs = l.map (fun v => (bits v.toNat 0 32, bits v.toNat 32 32)))
      ∧ (∃ e, desc t pl = some e ∧ e.stage = .running) ∧ t.bank = s.bank ∧ (∀ g, ring t g = ring s g) := by
  obtain ⟨halien, hrsv, hfen⟩ := shipList_checks hl
  rw [shipPairs] at halien hrsv hfen
  generalize hv : setDesc pl { d with stage := .running } { s with serve := { s.serve with
    shipsOut := tput s.serve.shipsOut pl.val (shipStart d l) } } = v
  have hu : execShip pl l s = ok (sendOpens pl (shipStart d l) v) := by
    simp only [execShip, h, hlen, List.take_length, halien, hrsv, hfen, decide_eq_false hself, hpath, Bool.false_eq_true,
      if_false, if_true, Bool.or_self, ne_eq, not_true_eq_false, ← hv]
    rfl
  obtain ⟨hframe, -, hdesc, hship⟩ := ships_sendOpens (pl := pl) (shipStart d l) v
  generalize sendOpens pl (shipStart d l) v = w at hu hframe hdesc hship
  obtain ⟨m, b, hx⟩ := hship (shipStart d l) (by rw [← hv]; exact tfind_tput_self ..)
  obtain ⟨c, n, hd⟩ := hdesc { d with stage := .running } (by rw [← hv]; exact desc_setDesc_self ..)
  refine yields_of_ok hu ⟨⟨_, hx, ?_, rfl, rfl, rfl⟩, ⟨_, hd, rfl⟩, ?_, fun g => ?_⟩
  · simp [shipStart, shipPairs]
  · rw [hframe, ← hv]
    rfl
  · rw [hframe, ← hv]
    rfl
end

/-! ### The replies -/

/-- Where ports only leave the network, a path that was not there is not there. -/
theorem pathFor_of_taken {p : PortNo} {dst : Byte} (htaken : Taken p s u) (hpath : pathFor s dst 0#6 = false) :
    pathFor u dst 0#6 = false ∧ ∀ own, ownPos u = some own → routeOf u own.toNat dst.toNat false false 0 = none := by
  have hmask : maskPorts 0#6 = [] := by decide
  have hown : ownPos u = ownPos s := by rw [ownPos, htaken.frame, ownPos]
  have hroute : ∀ own, ownPos s = some own → routeOf u own.toNat dst.toNat false false 0 = none := by
    intro own ho
    simp only [pathFor, hmask, ho, Option.isSome_eq_false_iff, Option.isNone_iff_eq_none] at hpath
    rw [routeOf, routeWith, List.find?_eq_none] at hpath ⊢
    exact fun r hr hc => hpath r hr (htaken.up _ hc)
  refine ⟨?_, fun own ho => hroute own (hown ▸ ho)⟩
  simp only [pathFor, hmask, hown]
  cases ho : ownPos s with
  | none => rfl
  | some own => simp [hroute own ho]

section
variable {p : PortNo} {h : PktHdr} {x : ShipOut} (hup : portUp s p.val = true) (hseq : h.seq = (port s p.val).rxNext)
    (hdst : ownPos s = some h.dst) (hx : tfind s.serve.shipsOut h.tag.val = some x)
include hup hseq hdst hx

theorem yields_openReply (hop : x.opened = false) (hd : desc s h.tag = some d) (hst : d.stage = .running) :
    Yields (.openReply p h 0#2) s fun t =>
      (∃ y, tfind t.serve.shipsOut h.tag.val = some y ∧ y.opened = true ∧ y.unacked = x.unacked)
      ∧ (∃ e, desc t h.tag = some e ∧ e.committed = true ∧ e.stage = .running)
      ∧ (port t p.val).rxNext = (port s p.val).rxNext + 1#32 := by
  obtain ⟨u, htaken, harr⟩ := arrive_of_next hup hseq hdst (.openReply 0#2) (openReplyHere h.src h.tag 0)
  have hxu : tfind u.serve.shipsOut h.tag.val = some x := by rw [htaken.frame]; exact hx
  have hdu : desc u h.tag = some d := by rw [htaken.frame]; exact hd
  generalize hv : ({ setDesc h.tag { d with committed := true } u with serve := { u.serve with
    shipsOut := tput u.serve.shipsOut h.tag.val { x with opened := true } } } : State) = v
  have hhere : openReplyHere h.src h.tag 0 u
      = (List.range x.pairs.length).foldl (fun s' k => sendEntry h.tag { x with opened := true } k s') v := by
    simp only [openReplyHere, hxu, hdu, hop, hst, Bool.false_eq_true, if_false, ne_eq, not_true_eq_false, if_true, ← hv]
    rfl
  have hu : execOpenReply p h 0#2 s
      = ok ((List.range x.pairs.length).foldl (fun s' k => sendEntry h.tag { x with opened := true } k s') v) := by
    rw [← hhere]
    exact congrArg ok harr
  have hships : Ships h.tag v ((List.range x.pairs.length).foldl
      (fun s' k => sendEntry h.tag { x with opened := true } k s') v) := .foldl (fun w k => ships_sendEntry _ k w) _ v
  generalize (List.range x.pairs.length).foldl (fun s' k => sendEntry h.tag { x with opened := true } k s') v = w at hu hships
  obtain ⟨m, b, hxw⟩ := hships.ship { x with opened := true } (by rw [← hv]; exact tfind_tput_self ..)
  obtain ⟨c, n, hdw⟩ := hships.desc { d with committed := true } (by rw [← hv]; exact desc_setDesc_self u h.tag _)
  refine yields_of_ok hu ⟨⟨_, hxw, rfl, rfl⟩, ⟨_, hdw, rfl, hst⟩, ?_⟩
  rw [hships.rxNext, ← hv]
  exact htaken.rxNext

theorem yields_writeAck (e : BitVec 12) :
    Yields (.writeAck p h e) s fun t =>
      (∃ y, tfind t.serve.shipsOut h.tag.val = some y ∧ y.unacked = x.unacked.filter (fun i => decide (i ≠ e.toNat))
        ∧ y.flagSent = (x.flagSent || decide (y.unacked = [])))
      ∧ (port t p.val).rxNext = (port s p.val).rxNext + 1#32 := by
  obtain ⟨u, htaken, harr⟩ := arrive_of_next hup hseq hdst (.writeAck e) (writeAckHere h.tag e.toNat)
  have hxu : tfind u.serve.shipsOut h.tag.val = some x := by rw [htaken.frame]; exact hx
  have hu : execWriteAck p h e s = ok (writeAckHere h.tag e.toNat u) := congrArg ok harr
  generalize hun : x.unacked.filter (fun i => decide (i ≠ e.toNat)) = un
  generalize hy : ({ x with unacked := un, flagSent := x.flagSent || (decide (un = []) && !x.flagSent) } : ShipOut) = y
  have hput : tfind (putShipOut h.tag y u).serve.shipsOut h.tag.val = some y := by
    unfold putShipOut
    dsimp only
    split <;> exact tfind_tput_self ..
  have hports : ∀ q, port (putShipOut h.tag y u) q = port u q := fun q => by
    unfold putShipOut
    dsimp only
    split <;> rfl
  have hships : Ships h.tag (putShipOut h.tag y u) (writeAckHere h.tag e.toNat u) := by
    simp only [writeAckHere, hxu, hun, hy]
    split
    · exact ships_originate_getD _ _ _ _
    · exact .refl _ _
  obtain ⟨m, b, hxw⟩ := hships.ship y hput
  refine yields_of_ok hu ⟨⟨_, hxw, ?_, ?_⟩, ?_⟩
  · rw [← hy]
  · rw [← hy]
    cases x.flagSent <;> simp
  · rw [hships.rxNext, hports]
    exact htaken.rxNext

theorem yields_flagReply (hpois : x.poisoned = false) (hd : desc s h.tag = some d) (hst : d.stage = .running)
    (hop : opcodeOf d.words = 0x40) (hctx : d.ctx = none) :
    Yields (.flagReply p h 0#2) s fun t =>
      Ended h.tag d .done (satNat 13 (x.pairs.length - x.unacked.length) + x.used.toNat * 2 ^ 16) s t
      ∧ (port t p.val).rxNext = (port s p.val).rxNext + 1#32 := by
  obtain ⟨u, htaken, harr⟩ := arrive_of_next hup hseq hdst (.flagReply 0#2) (flagReplyHere h.tag 0)
  have hxu : tfind u.serve.shipsOut h.tag.val = some x := by rw [htaken.frame]; exact hx
  have hpu : u.places = s.places := by rw [htaken.frame]
  have hdu : desc u h.tag = some d := (desc_congr hpu _).trans hd
  have hhere : flagReplyHere h.tag 0 u = endDesc h.tag .done (shipDetail x) u := by
    simp [flagReplyHere, hdu, hst, hop, hxu, hpois, endRemote, hctx]
  have hu : execFlagReply p h 0#2 s = ok (endDesc h.tag .done (shipDetail x) u) := by
    rw [← hhere]
    exact congrArg ok harr
  refine yields_of_ok hu ⟨ended_endDesc hd hpu _ _, ?_⟩
  rw [port, endDesc_frame]
  exact htaken.rxNext

theorem yields_noroute (hports : x.ports = 0#6) (hpath : pathFor s x.dest 0#6 = false) (hd : desc s h.tag = some d) :
    Yields (.noroute p h 0x0A#6) s fun t =>
      Ended h.tag d .linkDown (satNat 13 (x.pairs.length - x.unacked.length) + x.used.toNat * 2 ^ 16) s t
      ∧ tfind t.serve.shipsOut h.tag.val = none
      ∧ (port t p.val).rxNext = (port s p.val).rxNext + 1#32 := by
  obtain ⟨u, htaken, harr⟩ := arrive_of_next hup hseq hdst (.noroute 0x0A#6) (norouteHere h.tag p.val 0x0A)
  have hxu : tfind u.serve.shipsOut h.tag.val = some x := by rw [htaken.frame]; exact hx
  have hpu : u.places = s.places := by rw [htaken.frame]
  obtain ⟨hpathu, hroute⟩ := pathFor_of_taken htaken hpath
  have hreply : reply x.dest h.tag .abort u = u := by
    rw [reply, originate.eq_def]
    cases ho : ownPos u with
    | none => rfl
    | some own => simp only [hroute own ho, Option.getD_none]
  have hmask : maskPorts 0#6 = [] := by decide
  have hhere : norouteHere h.tag p.val 0x0A u = endDesc h.tag .linkDown (shipDetail x)
      { u with serve := { u.serve with shipsOut := terase u.serve.shipsOut h.tag.val } } := by
    simp [norouteHere, ownType, hxu, hports, hmask, rerouteShip, hpathu, abortShip, hreply]
  have hu : execNoroute p h 0x0A#6 s = ok (endDesc h.tag .linkDown (shipDetail x)
      { u with serve := { u.serve with shipsOut := terase u.serve.shipsOut h.tag.val } }) := by
    rw [← hhere]
    exact congrArg ok harr
  refine yields_of_ok hu ⟨ended_endDesc hd (by exact hpu) _ _, ?_, ?_⟩
  · rw [endDesc_frame]
    exact tfind_terase_self _ _
  · rw [port, endDesc_frame]
    exact htaken.rxNext
end

/-- Settles O15: a packet in sequence leaves the shipments alone, and what a shipment sends changes no more of its record than
the ports used and the poison. -/
theorem shipmentsLeave : Obligations.ShipmentsLeave := by
  refine ⟨?noPath, ?ship, ?accepted, ?acked, ?flagged, ?unrouted⟩
  case noPath => exact fun _ _ _ _ h hlen hl hself hpath => yields_ship_of_no_path h hlen hl hself hpath
  case ship => exact fun _ _ _ _ h hlen hl hself hpath => yields_ship h hlen hl hself hpath
  case accepted => exact fun _ _ _ _ _ hup hseq hdst hx hop hd hst => yields_openReply hup hseq hdst hx hop hd hst
  case acked => exact fun _ _ _ _ e hup hseq hdst hx => yields_writeAck hup hseq hdst hx e
  case flagged =>
    exact fun _ _ _ _ _ hup hseq hdst hx hpois hd hst hop hctx => yields_flagReply hup hseq hdst hx hpois hd hst hop hctx
  case unrouted => exact fun _ _ _ _ _ hup hseq hdst hx hports hpath hd => yields_noroute hup hseq hdst hx hports hpath hd

end Sys2Proof.Machine
end

section
/-! What operations on flags do to the rest of the state: waits end, and one flag moves (12 R323 to R326). -/

namespace Sys2Proof.Machine

variable {s t u : State} {sp q : FlagSpace} {n m : Nat}

/-! ### Contexts and flags -/

/-- A context apart from what it waits for. -/
def Ctx.awake (c : Ctx) : Ctx := { c with wait := .nothing }

theorem map_awake_setCtx {x y : Nat} {c e : Ctx} (hc : ctx s x = some c) (he : e.awake = c.awake) :
    (ctx (setCtx x e s) y).map Ctx.awake = (ctx s y).map Ctx.awake := by
  by_cases hy : y = x
  · rw [hy, ctx_setCtx_self, hc, Option.map_some, Option.map_some, he]
  · rw [ctx_setCtx_ne s x y e hy]

@[simp] theorem getFlag_putFlag_self (x : Flag) : getFlag (putFlag sp n x s) sp n = x := by
  cases sp <;> simp [getFlag, putFlag, localFlag, sharedFlag]

theorem getFlag_putFlag_ne (x : Flag) (h : (q, m) ≠ (sp, n)) : getFlag (putFlag sp n x s) q m = getFlag s q m := by
  by_cases hq : q = sp
  · have hm : m ≠ n := fun hm => h (by rw [hq, hm])
    subst hq
    cases q <;> exact tget_tset_ne _ _ _ _ _ hm
  · cases sp <;> cases q
    · exact absurd rfl hq
    · rfl
    · rfl
    · exact absurd rfl hq

/-! ### A flag moves and waits on it end -/

/-- What a set of a flag stamps: the setter, the time and the count of sets. -/
def Flag.stamp (f : Flag) : Fin 8 × U64 × U16 := (f.setter, f.setMtb, f.sets)

/-- From s to t flags and the waits on them move alone. -/
structure Wakes (s t : State) : Prop where
  frame : t = { s with seq := { s.seq with ctxs := t.seq.ctxs, waits := t.seq.waits, localF := t.seq.localF,
                                           sharedF := t.seq.sharedF } }
  ctx : ∀ y, (ctx t y).map Ctx.awake = (ctx s y).map Ctx.awake

namespace Wakes

theorem refl (s : State) : Wakes s s := ⟨rfl, fun _ => rfl⟩

theorem trans (h : Wakes s t) (h' : Wakes t u) : Wakes s u := by
  refine ⟨?_, fun y => (h'.ctx y).trans (h.ctx y)⟩
  have hu := h'.frame
  rw [h.frame] at hu
  exact hu

end Wakes

theorem wakes_putFlag {x : Flag} (h : Wakes s t) : Wakes s (putFlag sp n x t) := by
  refine h.trans ?_
  cases sp <;> exact ⟨rfl, fun _ => rfl⟩

theorem wakes_endWait {x : CtxNo} (h : Wakes s t) : Wakes s (endWait x t) := by
  refine h.trans ?_
  unfold endWait
  split
  · next c hc =>
    refine ⟨rfl, fun y => ?_⟩
    exact map_awake_setCtx (e := { c with wait := .nothing }) hc rfl
  · exact .refl t

theorem wakes_endWaits {l : List CtxNo} (h : Wakes s t) : Wakes s (l.foldl (fun u x => endWait x u) t) :=
  foldl_of_step (P := fun u : State => Wakes s u) (g := fun u x => endWait x u) (fun _ _ => wakes_endWait) h l

@[simp] theorem getFlag_endWait (x : CtxNo) : getFlag (endWait x s) q m = getFlag s q m := by
  unfold endWait
  split <;> cases q <;> rfl

@[simp] theorem getFlag_endWaits (l : List CtxNo) : getFlag (l.foldl (fun u x => endWait x u) s) q m = getFlag s q m :=
  foldl_of_step (P := fun u : State => getFlag u q m = getFlag s q m) (g := fun u x => endWait x u)
    (fun _ _ h => (getFlag_endWait _).trans h) rfl l

theorem wakes_judgeWaits (h : Wakes s t) : Wakes s (judgeWaits sp n t) := by
  unfold judgeWaits
  dsimp only
  split
  · exact wakes_endWaits h
  · exact wakes_endWaits (wakes_putFlag (wakes_endWait (wakes_endWaits h)))

theorem getFlag_judgeWaits_ne (h : (q, m) ≠ (sp, n)) : getFlag (judgeWaits sp n s) q m = getFlag s q m := by
  unfold judgeWaits
  dsimp only
  split
  · exact getFlag_endWaits _
  · rw [getFlag_endWaits, getFlag_putFlag_ne _ h, getFlag_endWait, getFlag_endWaits]

/-- A consuming wait may clear the flag; it leaves what the last set stamped. -/
theorem stamp_judgeWaits : (getFlag (judgeWaits sp n s) sp n).stamp = (getFlag s sp n).stamp := by
  unfold judgeWaits
  dsimp only
  split
  · rw [getFlag_endWaits]
  · rw [getFlag_endWaits, getFlag_putFlag_self, getFlag_endWaits]
    rfl

/-- Where no consuming wait takes it, the flag stays as it is. -/
theorem getFlag_judgeWaits_of_uneaten
    (h : (getFlag s sp n).value = true → ∀ x ∈ s.seq.waits, waitsOn s x sp n true true = false) :
    getFlag (judgeWaits sp n s) q m = getFlag s q m := by
  have heater : (if (getFlag s sp n).value then s.seq.waits.find? (fun x => waitsOn s x sp n true true) else none) = none := by
    split
    · next hv => simpa using h hv
    · rfl
  simp only [judgeWaits, heater, getFlag_endWaits]

/-! ### Set and clear -/

theorem wakes_setFlag {k : Fin 8} (h : Wakes s t) : Wakes s (setFlag sp n k t) := wakes_judgeWaits (wakes_putFlag h)

theorem wakes_clearFlag (h : Wakes s t) : Wakes s (clearFlag sp n t) := wakes_judgeWaits (wakes_putFlag h)

theorem getFlag_setFlag_ne {k : Fin 8} (h : (q, m) ≠ (sp, n)) : getFlag (setFlag sp n k s) q m = getFlag s q m := by
  rw [setFlag, getFlag_judgeWaits_ne h, getFlag_putFlag_ne _ h]

theorem getFlag_clearFlag_ne (h : (q, m) ≠ (sp, n)) : getFlag (clearFlag sp n s) q m = getFlag s q m := by
  rw [clearFlag, getFlag_judgeWaits_ne h, getFlag_putFlag_ne _ h]

theorem stamp_setFlag {k : Fin 8} : (getFlag (setFlag sp n k s) sp n).stamp = (k, now s, sat16 (getFlag s sp n).sets) := by
  rw [setFlag, stamp_judgeWaits, getFlag_putFlag_self]
  rfl

theorem setter_setFlag {k : Fin 8} : (getFlag (setFlag sp n k s) sp n).setter = k := congrArg (·.1) stamp_setFlag

theorem setMtb_setFlag {k : Fin 8} : (getFlag (setFlag sp n k s) sp n).setMtb = now s := congrArg (·.2.1) stamp_setFlag

theorem sets_setFlag {k : Fin 8} : (getFlag (setFlag sp n k s) sp n).sets = sat16 (getFlag s sp n).sets :=
  congrArg (·.2.2) stamp_setFlag

theorem seq_waits_putFlag (x : Flag) : (putFlag sp n x s).seq.waits = s.seq.waits := by cases sp <;> rfl

theorem waitsOn_putFlag (x : Flag) (y : CtxNo) (want consume : Bool) :
    waitsOn (putFlag sp n x s) y q m want consume = waitsOn s y q m want consume := by cases sp <;> rfl

theorem getFlag_setFlag_of_uneaten {k : Fin 8} (h : ∀ x ∈ s.seq.waits, waitsOn s x sp n true true = false) :
    getFlag (setFlag sp n k s) sp n
      = { getFlag s sp n with value := true, setter := k, setMtb := now s, sets := sat16 (getFlag s sp n).sets } := by
  rw [setFlag, getFlag_judgeWaits_of_uneaten, getFlag_putFlag_self]
  intro _ x hx
  rw [seq_waits_putFlag] at hx
  rw [waitsOn_putFlag, h x hx]

theorem getFlag_clearFlag :
    getFlag (clearFlag sp n s) sp n
      = { getFlag s sp n with value := false, clearMtb := now s, clears := sat16 (getFlag s sp n).clears } := by
  rw [clearFlag, getFlag_judgeWaits_of_uneaten, getFlag_putFlag_self]
  intro hv
  rw [getFlag_putFlag_self] at hv
  cases hv

end Sys2Proof.Machine
end

section
/-! Numbers as bytes: what masked merges leave of each byte, and the copies of column words that a commit writes
(02 R31, R40, R54). -/

namespace Sys2Proof.Machine

variable {s t u : State} {n w old new mask : Nat}

/-! ### Bytes -/

theorem leNat_cons (x : Byte) (bs : List Byte) : leNat (x :: bs) = x.toNat + 256 * leNat bs := rfl

theorem byte_leNat (bs : List Byte) (i : Nat) : leNat bs / 2 ^ (8 * i) % 256 = (bs.getD i 0#8).toNat := by
  induction bs generalizing i with
  | nil => simp [leNat]
  | cons x bs ih =>
    have hx : x.toNat < 256 := x.isLt
    cases i with
    | zero => simp [leNat_cons]; omega
    | succ i =>
      have hpow : 2 ^ (8 * (i + 1)) = 256 * 2 ^ (8 * i) := by rw [Nat.mul_add, Nat.pow_add, Nat.mul_comm]
      rw [leNat_cons, hpow, ← Nat.div_div_eq_div_mul, List.getD_cons_succ, ← ih i]
      congr 2
      omega

theorem leNat_leBytes (v : Nat) : leNat (leBytes n v) = v % 256 ^ n := by
  induction n generalizing v with
  | zero => simp [leBytes, leNat, Nat.mod_one]
  | succ n ih =>
    have htail : ((List.range n).map Nat.succ).map (fun i => BitVec.ofNat 8 (v / 2 ^ (8 * i))) = leBytes n (v / 256) := by
      rw [leBytes, List.map_map]
      refine List.map_congr_left fun i _ => ?_
      rw [Function.comp_apply, Nat.succ_eq_add_one, Nat.mul_add, Nat.pow_add, Nat.mul_comm, ← Nat.div_div_eq_div_mul]
    rw [leBytes, List.range_succ_eq_map, List.map_cons, htail, leNat_cons, ih, Nat.pow_succ', Nat.mod_mul]
    simp

theorem bitAt_toNat {k : Nat} (m : BitVec k) (i : Nat) : bitAt m.toNat i = m.getLsbD i :=
  (Nat.testBit_eq_decide_div_mod_eq).symm

theorem mergeBytes_lt : mergeBytes n old new mask < 256 ^ n :=
  (leNat_lt _).trans_eq (by rw [List.length_map, List.length_range])

/-- A merge takes each byte from the new value where its mask bit is 1, from the old one where it is 0. -/
theorem byte_mergeBytes {i : Nat} (hi : i < n) :
    mergeBytes n old new mask / 2 ^ (8 * i) % 256 = (if bitAt mask i then new / 2 ^ (8 * i) else old / 2 ^ (8 * i)) % 256 := by
  rw [mergeBytes, byte_leNat]
  simp [List.getD, List.getElem?_map, List.getElem?_range hi]

theorem mergeBytes_of_full (h : ∀ i < n, bitAt mask i = true) : mergeBytes n old new mask = new % 256 ^ n := by
  rw [mergeBytes, ← leNat_leBytes, leBytes]
  refine congrArg leNat (List.map_congr_left fun i hi => ?_)
  rw [h i (List.mem_range.mp hi)]
  rfl

theorem extract_ofNat {v k i : Nat} (hi : i < n) (hk : k = 8 * n) :
    (BitVec.ofNat k v).extractLsb' (8 * i) 8 = BitVec.ofNat 8 (v / 2 ^ (8 * i)) := by
  apply BitVec.eq_of_toNat_eq
  rw [BitVec.extractLsb'_toNat, BitVec.toNat_ofNat, BitVec.toNat_ofNat, Nat.shiftRight_eq_div_pow]
  have hsplit : 2 ^ k = 2 ^ (8 * i) * 2 ^ (8 * (n - i)) := by rw [← Nat.pow_add, hk]; congr 1; omega
  have hdvd : 2 ^ 8 ∣ 2 ^ (8 * (n - i)) := Nat.pow_dvd_pow 2 (by omega)
  rw [hsplit, Nat.mod_mul_right_div_self, Nat.mod_mod_of_dvd _ hdvd]

theorem extract_ofNat_mergeBytes {k i : Nat} (hi : i < n) (hk : k = 8 * n) :
    (BitVec.ofNat k (mergeBytes n old new mask)).extractLsb' (8 * i) 8
      = BitVec.ofNat 8 (if bitAt mask i then new / 2 ^ (8 * i) else old / 2 ^ (8 * i)) := by
  rw [extract_ofNat hi hk]
  apply BitVec.eq_of_toNat_eq
  rw [BitVec.toNat_ofNat, BitVec.toNat_ofNat]
  exact byte_mergeBytes hi

theorem ofNat_div_toNat {k i : Nat} (x : BitVec k) : BitVec.ofNat 8 (x.toNat / 2 ^ (8 * i)) = x.extractLsb' (8 * i) 8 := by
  apply BitVec.eq_of_toNat_eq
  rw [BitVec.toNat_ofNat, BitVec.extractLsb'_toNat, Nat.shiftRight_eq_div_pow]

/-- The bytes of a word after a masked merge (02 R31). -/
theorem extract_mergeBytes {k j i : Nat} (hi : i < n) (hk : k = 8 * n) (x y : BitVec k) (m : BitVec j) :
    (BitVec.ofNat k (mergeBytes n x.toNat y.toNat m.toNat)).extractLsb' (8 * i) 8
      = if m.getLsbD i then y.extractLsb' (8 * i) 8 else x.extractLsb' (8 * i) 8 := by
  rw [extract_ofNat_mergeBytes hi hk, bitAt_toNat]
  split <;> rw [ofNat_div_toNat]

theorem ofNat_mergeBytes_of_full {k : Nat} (hk : k = 8 * n) (y : BitVec k) (h : ∀ i < n, bitAt mask i = true) :
    BitVec.ofNat k (mergeBytes n old y.toNat mask) = y := by
  have hy : y.toNat < 256 ^ n := y.isLt.trans_eq (by rw [hk, Nat.pow_mul])
  rw [mergeBytes_of_full h, Nat.mod_eq_of_lt hy, BitVec.ofNat_toNat, BitVec.setWidth_eq]

/-! ### Copies -/

@[simp] theorem copyOf_setCopy_self (c : Copy) : copyOf (setCopy w c s) w = some c := by simp [copyOf, setCopy]

theorem copyOf_setCopy_ne {v : Nat} (c : Copy) (h : v ≠ w) : copyOf (setCopy w c s) v = copyOf s v :=
  tfind_tput_ne _ _ _ _ h

theorem lineWords_eq (s : State) (loc : Bool) (line : Nat) :
    ∃ a b, lineWords s loc line = [a, b] := by
  cases loc <;> exact ⟨_, _, rfl⟩

/-- The copy after a commit to a word that no region holds (02 R40, R54). -/
def mergedCopy (w : Nat) (d : ColData) (mask : BitVec 32) (poison whole : Bool) (s : State) : Copy :=
  match copyOf s w with
  | some c => { c with data := BitVec.ofNat 256 (mergeBytes 32 c.data.toNat d.toNat mask.toNat), mask := c.mask ||| mask,
                       poison := if whole then poison else c.poison || poison }
  | none => { region := none, data := d, mask := mask, poison := poison, since := now s }

theorem commitCol_of_unbound {d : ColData} {mask : BitVec 32} {poison whole : Bool} (h : bindingOf s w = none) :
    commitCol w d mask poison whole s = if mask = 0#32 then s else setCopy w (mergedCopy w d mask poison whole s) s := by
  simp only [commitCol, h, mergedCopy]
  cases copyOf s w <;> rfl

/-- From s to t commits write the copies of words of ws alone. -/
structure Copies (ws : List Nat) (s t : State) : Prop where
  frame : t = { s with marl := { s.marl with copies := t.marl.copies } }
  other : ∀ w, w ∉ ws → copyOf t w = copyOf s w

namespace Copies

variable {ws vs : List Nat}

theorem refl (s : State) : Copies ws s s := ⟨rfl, fun _ _ => rfl⟩

theorem trans (h : Copies ws s t) (h' : Copies ws t u) : Copies ws s u := by
  refine ⟨?_, fun w hw => (h'.other w hw).trans (h.other w hw)⟩
  have hu := h'.frame
  rw [h.frame] at hu
  exact hu

theorem mono (h : Copies ws s t) (hsub : ∀ w ∈ ws, w ∈ vs) : Copies vs s t :=
  ⟨h.frame, fun w hw => h.other w fun hm => hw (hsub w hm)⟩

theorem bindingOf (h : Copies ws s t) (w : Nat) : bindingOf t w = bindingOf s w := by
  rw [h.frame]
  rfl

theorem lineWords (h : Copies ws s t) (loc : Bool) (line : Nat) : lineWords t loc line = lineWords s loc line := by
  rw [h.frame]
  rfl

end Copies

theorem copies_commitCol {d : ColData} {mask : BitVec 32} {poison whole : Bool} (h : bindingOf s w = none) :
    Copies [w] s (commitCol w d mask poison whole s) := by
  rw [commitCol_of_unbound h]
  split
  · exact .refl s
  · exact ⟨rfl, fun v hv => copyOf_setCopy_ne _ (by simpa using hv)⟩

/-- What a commit leaves in the copy of its own word. -/
theorem copyOf_commitCol {d : ColData} {mask : BitVec 32} {poison whole : Bool} (h : bindingOf s w = none)
    (hmask : mask ≠ 0#32) : copyOf (commitCol w d mask poison whole s) w = some (mergedCopy w d mask poison whole s) := by
  rw [commitCol_of_unbound h, if_neg hmask, copyOf_setCopy_self]

theorem data_mergedCopy_of_full (d : ColData) (poison whole : Bool) :
    (mergedCopy w d (BitVec.allOnes 32) poison whole s).data = d := by
  unfold mergedCopy
  split
  · have hfull : ∀ i < 32, bitAt (BitVec.allOnes 32).toNat i = true := fun i hi => by
      rw [bitAt_toNat, BitVec.getLsbD_allOnes, decide_eq_true hi]
    exact ofNat_mergeBytes_of_full (k := 256) rfl d hfull
  · rfl

theorem mask_mergedCopy_of_full (d : ColData) (poison whole : Bool) :
    (mergedCopy w d (BitVec.allOnes 32) poison whole s).mask = BitVec.allOnes 32 := by
  unfold mergedCopy
  split
  · exact BitVec.or_allOnes
  · rfl

theorem poison_mergedCopy_of_whole (d : ColData) (mask : BitVec 32) (poison : Bool) :
    (mergedCopy w d mask poison true s).poison = poison := by
  unfold mergedCopy
  split <;> rfl

/-- The bytes of a commit's mask stand in the copy. -/
theorem byte_mergedCopy {d : ColData} {mask : BitVec 32} {poison whole : Bool} {i : Nat} (hi : i < 32)
    (hmask : mask.getLsbD i = true) :
    (mergedCopy w d mask poison whole s).mask.getLsbD i = true
      ∧ (mergedCopy w d mask poison whole s).data.extractLsb' (8 * i) 8 = d.extractLsb' (8 * i) 8 := by
  unfold mergedCopy
  split
  · exact ⟨by simp [hmask], by rw [extract_mergeBytes (k := 256) hi rfl, if_pos hmask]⟩
  · exact ⟨hmask, rfl⟩

/-- A line's commit writes the copies of its two words. -/
theorem copies_commitLine {a b : Nat} {d : Line} {mask : BitVec 64} {poison : Bool} (ha : bindingOf s a = none)
    (hb : bindingOf s b = none) : Copies [a, b] s (commitLine [a, b] d mask poison s) := by
  have hfst : Copies [a, b] s (commitCol a (d.extractLsb' 0 256) (mask.extractLsb' 0 32) poison
      (decide (mask = BitVec.allOnes 64)) s) := (copies_commitCol ha).mono (by simp)
  exact hfst.trans ((copies_commitCol ((hfst.bindingOf b).trans hb)).mono (by simp))

/-- The words of a whole line's commit stand in its copies. -/
theorem copyOf_commitLine_of_whole {a b : Nat} {d : Line} {poison : Bool} (ha : bindingOf s a = none)
    (hb : bindingOf s b = none) (hab : a ≠ b) {k : Nat} (hk : k < 2) :
    ∃ c, copyOf (commitLine [a, b] d (BitVec.allOnes 64) poison s) ([a, b].getD k 0) = some c
      ∧ c.data = d.extractLsb' (256 * k) 256 ∧ c.mask = BitVec.allOnes 32 ∧ c.poison = poison := by
  have hlo : (BitVec.allOnes 64).extractLsb' 0 32 = BitVec.allOnes 32 := by decide
  have hhi : (BitVec.allOnes 64).extractLsb' 32 32 = BitVec.allOnes 32 := by decide
  have hne : BitVec.allOnes 32 ≠ 0#32 := by decide
  have hfst : Copies [a] s (commitCol a (d.extractLsb' 0 256) (BitVec.allOnes 32) poison true s) := copies_commitCol ha
  have hb' := (hfst.bindingOf b).trans hb
  simp only [commitLine, hlo, hhi, decide_true, List.getD_cons_zero, List.getD_cons_succ]
  obtain rfl | rfl : k = 0 ∨ k = 1 := by omega
  · refine ⟨_, ((copies_commitCol hb').other a (by simpa using hab)).trans (copyOf_commitCol ha hne),
      data_mergedCopy_of_full .., mask_mergedCopy_of_full .., poison_mergedCopy_of_whole ..⟩
  · exact ⟨_, copyOf_commitCol hb' hne, data_mergedCopy_of_full .., mask_mergedCopy_of_full .., poison_mergedCopy_of_whole ..⟩

end Sys2Proof.Machine
end

section
/-! Shipments at their destination, and the remote set of a flag (14 R383 to R385; 15 R409, R410; 12 R325, R338). -/

namespace Sys2Proof.Machine

variable {s t u v : State} {p : PortNo} {h : PktHdr} {post : State → Prop} {i : Instr} {n f : Nat}

/-! ### Arrival -/

theorem sends_arrive_tail {k : Pkt} : Sends (· = p.val) u (if costs k then giveBack p h.vc u else u) := by
  split
  · exact sends_giveBack (.refl _ u)
  · exact .refl _ u

/-- A transport packet to this module in sequence: what acts on it acts on a state whose port has taken the packet, and a
credit may go back after. Without a nack in its header nothing is logged. -/
theorem yields_arrive {k : Pkt} {here : State → State} (hup : portUp s p.val = true)
    (hseq : h.seq = (port s p.val).rxNext) (hdst : ownPos s = some h.dst) (hi : exec i s = ok (arrive p h k here s))
    (hp : ∀ u v, Taken p s u → (h.nack = false → u.log = s.log) → Sends (· = p.val) (here u) v → post v) :
    Yields i s post := by
  have hquiet : h.nack = false → (takeTransport p h s).1.log = s.log := fun hn => by
    rw [takeTransport_of_next hup hseq]
    have hlog : (takeHeader p h s).log = s.log := by rw [(sends_takeHeader (.inl hn)).frame]
    have hlack := sends_sendLack (nack := false)
      (.refl (· = p.val) (setPort p.val (stepPort (port (takeHeader p h s) p.val)) (takeHeader p h s)))
    rw [hlack.frame]
    exact hlog
  have htaken : (takeTransport p h s).2 = true := by rw [takeTransport_of_next hup hseq]
  refine yields_of_ok hi (hp _ _ (taken_takeTransport hup hseq) hquiet ?_)
  simp only [arrive, htaken, Bool.not_true, Bool.false_eq_true, if_false, hdst, if_true]
  exact sends_arrive_tail

namespace Taken

theorem bank (ht : Taken p s u) : u.bank = s.bank := by rw [ht.frame]

theorem marl (ht : Taken p s u) : u.marl = s.marl := by rw [ht.frame]

theorem flagOwner (ht : Taken p s u) (n : Nat) : flagOwner u n = flagOwner s n := by
  rw [ht.frame]
  rfl

theorem inFlagRange (ht : Taken p s u) (f n : Nat) : inFlagRange u f n = inFlagRange s f n := by
  rw [ht.frame]
  rfl

theorem rival (ht : Taken p s u) (o : Obj) (l : List Req) : rival u o l = rival s o l := by
  rw [Machine.rival, Machine.rival, ordersNow_congr (s := s) (t := u)] <;> rw [ht.frame]

theorem sharedFlag (ht : Taken p s u) (n : Nat) : sharedFlag u n = sharedFlag s n := by
  rw [ht.frame]
  rfl

end Taken

/-! ### OPEN -/

@[simp] theorem putShip_bank (x : ShipIn) : (putShip x s).bank = s.bank := rfl

@[simp] theorem putShip_marl (x : ShipIn) : (putShip x s).marl = s.marl := rfl

@[simp] theorem port_putShip (x : ShipIn) (q : Nat) : port (putShip x s) q = port s q := rfl

/-- The record of a shipment whose one part opens it. -/
def openedShip (h : PktHdr) (flag : BitVec 14) (pages : List U32) : ShipIn :=
  { src := h.src, tag := h.tag, flag := flag, func := 0, pages := pages.map (fun v => v.toNat), parts := 1, accepted := false,
    got := [] }

theorem openPart_of_ok {flag : BitVec 14} {pages : List U32} (hf : f < 256) (howner : flagOwner u flag.toNat = some f)
    (hrange : inFlagRange u f flag.toNat = true) (hpages : ∀ v ∈ pages, v ≠ 0xFFFFFFFF#32 ∧ pageOwner u v.toNat = f + 1) :
    ∃ x y : ShipIn, (x.src = h.src ∧ x.tag = h.tag ∧ x.flag = flag ∧ x.func.val = f ∧ x.accepted = true
        ∧ x.pages = pages.map (fun v => v.toNat))
      ∧ openPart h.src h.tag flag 0 true pages u = reply h.src h.tag (.openReply 0#2) (putShip x (putShip y u)) := by
  have hids : pages.filter (fun v => decide (v ≠ 0xFFFFFFFF#32)) = pages :=
    List.filter_eq_self.mpr fun v hv => decide_eq_true (hpages v hv).1
  have hall : (pages.map (fun v => v.toNat)).all (fun pg => decide (pageOwner u pg = f + 1)) = true := by
    simpa using fun v hv => (hpages v hv).2
  have hopen : openPart h.src h.tag flag 0 true pages u
      = judgeShip (openedShip h flag pages) (putShip (openedShip h flag pages) u) := by
    rw [openPart]
    simp only [if_true, hids, List.nil_append]
    rfl
  have howner' : flagOwner (putShip (openedShip h flag pages) u) flag.toNat = some f := howner
  have hflag : (openedShip h flag pages).flag = flag := rfl
  refine ⟨{ openedShip h flag pages with func := Fin.ofNat 256 f, accepted := true }, openedShip h flag pages,
    ⟨rfl, rfl, rfl, Nat.mod_eq_of_lt hf, rfl, rfl⟩, ?_⟩
  rw [hopen, judgeShip, hflag, howner']
  exact if_pos ⟨hrange, hall⟩

theorem yields_openShip {flag : BitVec 14} {pages : List U32} (hup : portUp s p.val = true)
    (hseq : h.seq = (port s p.val).rxNext) (hdst : ownPos s = some h.dst) (hwaits : openWaits s h.src h.tag 0 = false)
    (howner : flagOwner s flag.toNat = some f) (hf : f < 256) (hrange : inFlagRange s f flag.toNat = true)
    (hpages : ∀ v ∈ pages, v ≠ 0xFFFFFFFF#32 ∧ pageOwner s v.toNat = f + 1) :
    Yields (.openShip p h flag 0#6 true pages) s fun t =>
      (∃ x ∈ t.serve.shipsIn, x.src = h.src ∧ x.tag = h.tag ∧ x.flag = flag ∧ x.func.val = f ∧ x.accepted = true
        ∧ x.pages = pages.map (fun v => v.toNat))
      ∧ (port t p.val).rxNext = (port s p.val).rxNext + 1#32
      ∧ t.bank = s.bank ∧ t.marl = s.marl := by
  have hi : exec (.openShip p h flag 0#6 true pages) s
      = ok (arrive p h (.openShip flag 0#6 true pages) (openPart h.src h.tag flag 0 true pages) s) := by
    show execOpenShip p h flag 0#6 true pages s = _
    have hno : ¬(ownPos s = some h.dst ∧ openWaits s h.src h.tag (0#6).toNat = true) := fun hc => by
      have := hc.2
      simp [hwaits] at this
    rw [execOpenShip, if_neg hno]
    rfl
  refine yields_arrive hup hseq hdst hi fun u v ht _ hv => ?_
  obtain ⟨x, y, hx, heq⟩ := openPart_of_ok (u := u) (h := h) hf ((ht.flagOwner _).trans howner) ((ht.inFlagRange ..).trans hrange)
    fun v hv => ⟨(hpages v hv).1, (pageOwner_congr (by rw [ht.frame]) _).trans (hpages v hv).2⟩
  rw [heq] at hv
  have hall := (sends_reply rfl _).trans hv.anywhere
  refine ⟨⟨x, ?_, hx⟩, ?_, ?_, ?_⟩
  · rw [hall.frame]
    exact List.mem_append_right _ (List.mem_singleton.mpr rfl)
  · rw [hall.rxNext, ← ht.rxNext, port_putShip, port_putShip]
  · have hframe := congrArg State.bank hall.frame
    simpa only [putShip_bank, ht.bank] using hframe
  · have hframe := congrArg State.marl hall.frame
    simpa only [putShip_marl, ht.marl] using hframe

/-! ### WRITE -/

/-- The first m lines of a write of four lines from a bank-local line on, committed. -/
def writtenLines (line : Nat) (data : BitVec 2048) (po : Bool) (m : Nat) (s : State) : State :=
  (List.range m).foldl
    (fun s' i => commitLine (lineWords s' true (line + i)) (data.extractLsb' (512 * i) 512) (BitVec.allOnes 64) po s') s

theorem writtenLines_succ (line : Nat) (data : BitVec 2048) (po : Bool) (m : Nat) (s : State) :
    writtenLines line data po (m + 1) s
      = commitLine (lineWords (writtenLines line data po m s) true (line + m)) (data.extractLsb' (512 * m) 512)
          (BitVec.allOnes 64) po (writtenLines line data po m s) := by
  rw [writtenLines, List.range_succ, List.foldl_append]
  rfl

/-- The column words of the first m lines. -/
def linesWords (s : State) (line m : Nat) : List Nat := (List.range m).flatMap (fun i => lineWords s true (line + i))

theorem mem_linesWords {line m w : Nat} : w ∈ linesWords s line m ↔ ∃ i < m, w ∈ lineWords s true (line + i) := by
  simp [linesWords]

theorem linesWords_succ (line m : Nat) :
    linesWords s line (m + 1) = linesWords s line m ++ lineWords s true (line + m) := by
  simp [linesWords, List.range_succ]

/-- Committed lines whose words are distinct and bound to no region stand in their words' copies (02 R40, R54). -/
theorem copies_writtenLines {line : Nat} {data : BitVec 2048} {po : Bool} {m : Nat}
    (hfree : ∀ w ∈ linesWords s line m, bindingOf s w = none) (hnodup : (linesWords s line m).Nodup) :
    Copies (linesWords s line m) s (writtenLines line data po m s)
    ∧ ∀ i < m, ∀ k < 2, ∃ c, copyOf (writtenLines line data po m s) ((lineWords s true (line + i)).getD k 0) = some c
        ∧ c.data = data.extractLsb' (512 * i + 256 * k) 256 ∧ c.mask = BitVec.allOnes 32 ∧ c.poison = po := by
  induction m with
  | zero => exact ⟨.refl s, fun i hi => absurd hi (Nat.not_lt_zero i)⟩
  | succ m ih =>
    rw [linesWords_succ] at hfree hnodup ⊢
    obtain ⟨hnd, hnl, hdisj⟩ := List.nodup_append.mp hnodup
    obtain ⟨hcop, hold⟩ := ih (fun w hw => hfree w (List.mem_append_left _ hw)) hnd
    obtain ⟨a, b, hab⟩ := lineWords_eq s true (line + m)
    rw [writtenLines_succ, hcop.lineWords, hab]
    generalize writtenLines line data po m s = u at hcop hold ⊢
    have ha : bindingOf u a = none := (hcop.bindingOf a).trans (hfree a (by simp [hab]))
    have hb : bindingOf u b = none := (hcop.bindingOf b).trans (hfree b (by simp [hab]))
    have hlast := copies_commitLine (d := data.extractLsb' (512 * m) 512) (mask := BitVec.allOnes 64) (poison := po) ha hb
    refine ⟨(hcop.mono fun w hw => List.mem_append_left _ hw).trans (hlast.mono fun w hw => List.mem_append_right _ hw),
      fun i hi k hk => ?_⟩
    by_cases him : i = m
    · subst him
      obtain ⟨c, hc, hdata, hrest⟩ := copyOf_commitLine_of_whole (d := data.extractLsb' (512 * i) 512) (poison := po) ha hb
        (by rw [hab] at hnl; simpa using hnl) hk
      refine ⟨c, by rw [hab]; exact hc, hdata.trans ?_, hrest⟩
      ext j hj
      have hin : 256 * k + j < 512 := by omega
      simp [hin, Nat.add_assoc]
    · obtain ⟨c, hc, hrest⟩ := hold i (by omega) k hk
      refine ⟨c, (hlast.other _ fun hw => ?_).trans hc, hrest⟩
      rw [← hab] at hw
      have hmem : (lineWords s true (line + i)).getD k 0 ∈ lineWords s true (line + i) := by
        obtain ⟨x, y, hxy⟩ := lineWords_eq s true (line + i)
        rw [hxy]
        obtain rfl | rfl : k = 0 ∨ k = 1 := by omega
        · simp
        · simp
      exact hdisj _ (mem_linesWords.mpr ⟨i, by omega, hmem⟩) _ hw rfl

/-- A shipment's record once a segment has come. -/
def noteSegment (seg : Nat) (x : ShipIn) : ShipIn := { x with got := if seg ∈ x.got then x.got else seg :: x.got }

/-- A write's effect beside its four lines: the shipment's record, and acknowledgements on their way. -/
theorem writeHere_of_ship {pg seg : Nat} {data : BitVec 2048} {po : Bool} {x : ShipIn} (hship : shipFor u h pg = some x) :
    ∃ y, Sends (fun _ => True) (putShip y (writtenLines (pg * 1024 + seg * 4) data po 4 u)) (writeHere h pg seg data po u) := by
  have heq : writeHere h pg seg data po u
      = if ((noteSegment (pg * 256 + seg) x).got.filter (fun n => decide (n / 256 = pg))).length = 256 then
          (entriesOf x pg).foldl (fun s' i => reply h.src x.tag (.writeAck (BitVec.ofNat 12 i)) s')
            (putShip (noteSegment (pg * 256 + seg) x) (writtenLines (pg * 1024 + seg * 4) data po 4 u))
        else putShip (noteSegment (pg * 256 + seg) x) (writtenLines (pg * 1024 + seg * 4) data po 4 u) := by
    rw [writeHere, hship]
    rfl
  rw [heq]
  refine ⟨noteSegment (pg * 256 + seg) x, ?_⟩
  split
  · exact .foldl (fun _ _ => sends_reply rfl _) _ _
  · exact .refl _ _

theorem yields_write {pg : BitVec 23} {seg : Byte} {data : BitVec 2048} {po : Bool} {x : ShipIn}
    (hup : portUp s p.val = true) (hseq : h.seq = (port s p.val).rxNext) (hdst : ownPos s = some h.dst)
    (hship : shipFor s h pg.toNat = some x)
    (hfree : ∀ w ∈ linesWords s (pg.toNat * 1024 + seg.toNat * 4) 4, bindingOf s w = none)
    (hnodup : (linesWords s (pg.toNat * 1024 + seg.toNat * 4) 4).Nodup) :
    Yields (.write p h pg seg data po) s fun t =>
      (∀ i < 4, ∀ k < 2, ∃ c,
        copyOf t ((lineWords s true (pg.toNat * 1024 + seg.toNat * 4 + i)).getD k 0) = some c
        ∧ c.data = data.extractLsb' (512 * i + 256 * k) 256 ∧ c.mask = BitVec.allOnes 32 ∧ c.poison = po)
      ∧ (∀ w, w ∉ linesWords s (pg.toNat * 1024 + seg.toNat * 4) 4 → copyOf t w = copyOf s w)
      ∧ t.bank = s.bank ∧ (port t p.val).rxNext = (port s p.val).rxNext + 1#32 := by
  refine yields_arrive hup hseq hdst rfl fun u v ht _ hv => ?_
  have hship' : shipFor u h pg.toNat = some x := by rw [shipFor, ht.frame, ← hship, shipFor]
  obtain ⟨y, hw⟩ := writeHere_of_ship (seg := seg.toNat) (data := data) (po := po) hship'
  have hall := hw.trans hv.anywhere
  have hmarl := ht.marl
  have hwords (l : Nat) : lineWords u true l = lineWords s true l := by
    rw [ht.frame]
    rfl
  have hlines : linesWords u (pg.toNat * 1024 + seg.toNat * 4) 4 = linesWords s (pg.toNat * 1024 + seg.toNat * 4) 4 := by
    simp only [linesWords, hwords]
  have hbind (w : Nat) : bindingOf u w = bindingOf s w := by
    rw [ht.frame]
    rfl
  obtain ⟨hcop, hset⟩ := copies_writtenLines (s := u) (line := pg.toNat * 1024 + seg.toNat * 4) (data := data) (po := po)
    (m := 4) (fun w hw => (hbind w).trans (hfree w (hlines ▸ hw))) (by rw [hlines]; exact hnodup)
  have hcopy (w : Nat) : copyOf v w = copyOf (writtenLines (pg.toNat * 1024 + seg.toNat * 4) data po 4 u) w := by
    have hmarl := congrArg State.marl hall.frame
    simp only [copyOf, hmarl, putShip_marl]
  refine ⟨fun i hi k hk => ?_, fun w hw => ?_, ?_, ?_⟩
  · obtain ⟨c, hc, hrest⟩ := hset i hi k hk
    exact ⟨c, by rw [hcopy, ← hwords]; exact hc, hrest⟩
  · rw [hcopy, hcop.other w (by rw [hlines]; exact hw), copyOf, hmarl, copyOf]
  · have hframe := congrArg State.bank hall.frame
    have hlines := congrArg State.bank hcop.frame
    simpa only [putShip_bank, hlines, ht.bank] using hframe
  · have hport : port (writtenLines (pg.toNat * 1024 + seg.toNat * 4) data po 4 u) p.val = port u p.val :=
      by rw [port, hcop.frame, port]
    rw [hall.rxNext, ← ht.rxNext, port_putShip, hport]

/-! ### ABORT -/

/-- What an undefined word leaves alone. -/
theorem bank_scribbleCol (n w : Nat) :
    (scribbleCol n w s).bank.grains = s.bank.grains ∧ (scribbleCol n w s).bank.dies = s.bank.dies := by
  unfold scribbleCol
  dsimp only
  repeat' split
  all_goals simp [setCopy, setBc]

/-- The copies where no line is bound to a region. -/
theorem copyOf_scribbleCol {n w k : Nat} (hb : s.marl.binds = []) (hk : k ≠ w) :
    (scribbleCol n w s).marl.binds = [] ∧ copyOf (scribbleCol n w s) k = copyOf s k := by
  have hbind (u : State) (hu : u.marl = s.marl) : bindingOf u w = none := by rw [bindingOf, hu, hb]; rfl
  unfold scribbleCol
  dsimp only
  rw [hbind _ (by split <;> rfl)]
  split
  · next he => cases he
  · constructor
    · split <;> exact hb
    · rw [copyOf_setCopy_ne _ hk]
      split <;> rfl
  · constructor
    · split <;> exact hb
    · split <;> rfl

theorem bank_scribble (ws : List Nat) :
    (scribble ws s).bank.grains = s.bank.grains ∧ (scribble ws s).bank.dies = s.bank.dies := by
  unfold scribble
  split
  · exact ⟨rfl, rfl⟩
  · exact foldl_of_step
      (P := fun u : State => u.bank.grains = s.bank.grains ∧ u.bank.dies = s.bank.dies)
      (g := fun u w => scribbleCol s.freeCtr w u)
      (fun u w hu => ⟨(bank_scribbleCol _ w).1.trans hu.1, (bank_scribbleCol _ w).2.trans hu.2⟩) ⟨rfl, rfl⟩ ws

theorem copyOf_foldl_scribbleCol {ws : List Nat} {m k : Nat} (hb : s.marl.binds = []) (hk : k ∉ ws) :
    copyOf (ws.foldl (fun u w => scribbleCol m w u) s) k = copyOf s k := by
  induction ws generalizing s with
  | nil => rfl
  | cons w ws ih =>
    obtain ⟨hkw, hkws⟩ := not_or.mp (fun hm => hk (List.mem_cons.mpr hm))
    obtain ⟨hb', hc⟩ := copyOf_scribbleCol (n := m) hb hkw
    rw [List.foldl_cons, ih hb' hkws, hc]

theorem copyOf_scribble {ws : List Nat} {k : Nat} (hb : s.marl.binds = []) (hk : k ∉ ws) :
    copyOf (scribble ws s) k = copyOf s k := by
  unfold scribble
  split
  · rfl
  · exact copyOf_foldl_scribbleCol hb hk

/-- The words of the pages that an open shipment has written. -/
def writtenWords (s : State) (x : ShipIn) : List Nat :=
  (x.pages.filter (fun g => x.got.any (fun n => decide (n / 256 = g)))).flatMap
    (fun g => spanWords s { loc := true, line := g * 1024, lines := 1024 })

theorem undefineShip_eq (src : Byte) (tag : Place) :
    undefineShip src tag s = scribble (((findShip s src tag).map (writtenWords s)).getD []) s := by
  unfold undefineShip
  split
  · next x hx => rw [hx]; rfl
  · next hx => rw [hx]; rfl

theorem writtenWords_of_empty {x : ShipIn} (h : x.got.isEmpty = true) : writtenWords s x = [] := by
  rw [writtenWords, List.isEmpty_iff.mp h]
  simp

theorem not_mem_writtenWords {x : ShipIn} {w : Nat}
    (h : x.pages.all (fun g => decide (w ∉ spanWords s { loc := true, line := g * 1024, lines := 1024 })) = true) :
    w ∉ writtenWords s x := by
  intro hw
  obtain ⟨g, hg, hwg⟩ := List.mem_flatMap.mp hw
  exact of_decide_eq_true (List.all_eq_true.mp h g (List.mem_of_mem_filter hg)) hwg

theorem yields_abort (hup : portUp s p.val = true) (hseq : h.seq = (port s p.val).rxNext)
    (hdst : ownPos s = some h.dst) :
    Yields (.abort p h) s fun t =>
      t.serve.shipsIn = s.serve.shipsIn.filter (fun x => decide (¬(x.src = h.src ∧ x.tag = h.tag)))
      ∧ (port t p.val).rxNext = (port s p.val).rxNext + 1#32
      ∧ ((findShip s h.src h.tag).all (fun x => x.got.isEmpty) = true → t.bank = s.bank ∧ t.marl = s.marl)
      ∧ t.bank.grains = s.bank.grains ∧ t.bank.dies = s.bank.dies
      ∧ (s.marl.binds = [] → ∀ w, (findShip s h.src h.tag).all (fun x => x.pages.all (fun g =>
            decide (w ∉ spanWords s { loc := true, line := g * 1024, lines := 1024 }))) = true → copyOf t w = copyOf s w) := by
  refine yields_arrive hup hseq hdst rfl fun u v ht _ hv => ?_
  have hfind : findShip u h.src h.tag = findShip s h.src h.tag := by rw [findShip, ht.frame, findShip]
  have hspan (x : Span) : spanWords u x = spanWords s x := by
    rw [ht.frame]
    rfl
  have hwords (x : ShipIn) : writtenWords u x = writtenWords s x := by simp only [writtenWords, hspan]
  have hund : undefineShip h.src h.tag u = scribble (((findShip s h.src h.tag).map (writtenWords s)).getD []) u := by
    rw [undefineShip_eq, hfind, show writtenWords u = writtenWords s from funext hwords]
  have hmarl := ht.marl
  have hbank := ht.bank
  have hvbank : v.bank = (undefineShip h.src h.tag u).bank := by rw [hv.frame]; rfl
  have hvmarl : v.marl = (undefineShip h.src h.tag u).marl := by rw [hv.frame]; rfl
  rw [hund] at hvbank hvmarl
  refine ⟨?_, ?_, fun he => ?_, ?_, ?_, fun hb w hw => ?_⟩
  · rw [hv.frame]
    show List.filter _ (undefineShip h.src h.tag u).serve.shipsIn = _
    rw [hund]
    simp only [scribble_keeps]
    rw [ht.frame]
  · rw [hv.rxNext, ← ht.rxNext]
    show (port (undefineShip h.src h.tag u) p.val).rxNext = _
    rw [hund, port, port]
    simp only [scribble_keeps]
  · have hnil : ((findShip s h.src h.tag).map (writtenWords s)).getD [] = [] := by
      cases hx : findShip s h.src h.tag with
      | none => rfl
      | some x => exact writtenWords_of_empty (by simpa [hx] using he)
    rw [hvbank, hvmarl, hnil]
    exact ⟨hbank, hmarl⟩
  · rw [hvbank, (bank_scribble _).1, hbank]
  · rw [hvbank, (bank_scribble _).2, hbank]
  · have hout : w ∉ ((findShip s h.src h.tag).map (writtenWords s)).getD [] := by
      cases hx : findShip s h.src h.tag with
      | none => exact List.not_mem_nil
      | some x => exact not_mem_writtenWords (by simpa [hx] using hw)
    rw [copyOf, hvmarl, ← copyOf, copyOf_scribble (by rw [hmarl, hb]) hout, copyOf, hmarl, copyOf]

/-! ### The remote set of a flag -/

/-- What a remote set leaves where it is applied (12 R325). -/
theorem remoteSet_of_applied (howner : flagOwner s n = some f) (hrange : inFlagRange s f n = true)
    (hword : wordFaulted s .shared n = false) :
    remoteSet n s = (countEv 0x62 0 (some (Fin.ofNat 256 f)) 1 (setFlag .shared n 4 s), true) := by
  simp [remoteSet, howner, hrange, hword]

theorem peerSet_of_alone (howner : flagOwner s n = some f) (hrange : inFlagRange s f n = true)
    (hword : wordFaulted s .shared n = false) (hr : rival s (.flag n) [.flagOp] = none) :
    peerSet n s = (countEv 0x62 0 (some (Fin.ofNat 256 f)) 1 (setFlag .shared n 4 s), 0) := by
  simp [peerSet, howner, hword, hr, remoteSet_of_applied howner hrange hword]

/-- The request of a peer's set. -/
def peerOrder (n : Nat) : Order := { obj := .flag n, req := .flagOp, master := 3, func := 0xFF#8, hsn := 0#32 }

theorem peerSet_of_rival {a : Order} (howner : flagOwner s n = some f) (hrange : inFlagRange s f n = true)
    (hword : wordFaulted s .shared n = false) (hr : rival s (.flag n) [.flagOp] = some a) :
    peerSet n s = (logCollision a (peerOrder n) true s, 2) := by
  simp [peerSet, howner, hrange, hword, hr, peerOrder]

theorem sharedFlag_congr (hseq : t.seq = s.seq) (n : Nat) : sharedFlag t n = sharedFlag s n := by
  rw [sharedFlag, sharedFlag, hseq]

theorem yields_flagSetPacket {flag : BitVec 14} (hup : portUp s p.val = true) (hseq : h.seq = (port s p.val).rxNext)
    (hdst : ownPos s = some h.dst) (howner : flagOwner s flag.toNat = some f)
    (hrange : inFlagRange s f flag.toNat = true) (hword : wordFaulted s .shared flag.toNat = false)
    (ha : Alone (.flag flag.toNat) s) :
    Yields (.flagSetPacket p h flag false) s fun t =>
      (sharedFlag t flag.toNat).setter = 4 ∧ (sharedFlag t flag.toNat).setMtb = now s
      ∧ (sharedFlag t flag.toNat).sets = sat16 (sharedFlag s flag.toNat).sets
      ∧ ((∀ x ∈ s.seq.waits, waitsOn s x .shared flag.toNat true true = false) → (sharedFlag t flag.toNat).value = true)
      ∧ (∀ n, n ≠ flag.toNat → sharedFlag t n = sharedFlag s n)
      ∧ (port t p.val).rxNext = (port s p.val).rxNext + 1#32 ∧ t.bank = s.bank := by
  refine yields_arrive hup hseq hdst rfl fun u v ht _ hv => ?_
  have hword' : wordFaulted u .shared flag.toNat = false := by rw [wordFaulted, ht.frame, ← hword, wordFaulted]
  have hr : rival u (.flag flag.toNat) [.flagOp] = none := (ht.rival ..).trans (rival_of_alone ha _)
  have hhere : flagHere h flag false u
      = reply h.src h.tag (.flagReply 0#2) (countEv 0x62 0 (some (Fin.ofNat 256 f)) 1 (setFlag .shared flag.toNat 4 u)) := by
    rw [flagHere, if_neg Bool.false_ne_true,
      peerSet_of_alone ((ht.flagOwner _).trans howner) ((ht.inFlagRange ..).trans hrange) hword' hr]
  rw [hhere] at hv
  have hsent := (sends_reply rfl _).trans hv.anywhere
  have hset : Wakes u (setFlag .shared flag.toNat 4 u) := wakes_setFlag (.refl u)
  have hflag (n : Nat) : sharedFlag v n = getFlag (setFlag .shared flag.toNat 4 u) .shared n :=
    sharedFlag_congr (by rw [hsent.frame]; rfl) n
  have hold (n : Nat) : getFlag u .shared n = sharedFlag s n := ht.sharedFlag n
  have hseq' : u.seq = s.seq := by rw [ht.frame]
  refine ⟨?_, ?_, ?_, fun hw => ?_, fun n hn => ?_, ?_, ?_⟩
  · rw [hflag, setter_setFlag]
  · rw [hflag, setMtb_setFlag, now, ht.frame, now]
  · rw [hflag, sets_setFlag, hold]
  · rw [hflag, getFlag_setFlag_of_uneaten fun x hx => ?_]
    rw [waitsOn, ctx, hseq', ← ctx, ← waitsOn]
    exact hw x (by rwa [hseq'] at hx)
  · rw [hflag, getFlag_setFlag_ne (by simpa using hn), hold]
  · rw [hsent.rxNext, ← ht.rxNext, port, countEv, hset.frame, port]
  · rw [hsent.frame]
    show (setFlag .shared flag.toNat 4 u).bank = s.bank
    rw [hset.frame, ht.frame]

theorem yields_flagSetPacket_of_rival {flag : BitVec 14} {a : Order} (hup : portUp s p.val = true)
    (hseq : h.seq = (port s p.val).rxNext) (hnack : h.nack = false) (hdst : ownPos s = some h.dst)
    (howner : flagOwner s flag.toNat = some f) (hrange : inFlagRange s f flag.toNat = true)
    (hword : wordFaulted s .shared flag.toNat = false) (hr : rival s (.flag flag.toNat) [.flagOp] = some a) :
    Yields (.flagSetPacket p h flag false) s fun t =>
      (∀ n, sharedFlag t n = sharedFlag s n) ∧ Collided s t
      ∧ (port t p.val).rxNext = (port s p.val).rxNext + 1#32 ∧ t.bank = s.bank := by
  refine yields_arrive hup hseq hdst rfl fun u v ht hlog hv => ?_
  have hword' : wordFaulted u .shared flag.toNat = false := by rw [wordFaulted, ht.frame, ← hword, wordFaulted]
  have hhere : flagHere h flag false u
      = reply h.src h.tag (.flagReply 2#2) (logCollision a (peerOrder flag.toNat) true u) := by
    rw [flagHere, if_neg Bool.false_ne_true, peerSet_of_rival ((ht.flagOwner _).trans howner)
      ((ht.inFlagRange ..).trans hrange) hword' ((ht.rival ..).trans hr)]
  rw [hhere] at hv
  have hsent := (sends_reply rfl _).trans hv.anywhere
  have hcol : Collided s (logCollision a (peerOrder flag.toNat) true u) :=
    collided_logCollision _ _ _ (by rw [ht.frame]) (by rw [hlog hnack])
  refine ⟨fun n => ?_, ?_, ?_, ?_⟩
  · refine (sharedFlag_congr ?_ n).trans (ht.sharedFlag n)
    rw [hsent.frame, logCollision_eq]
  · rw [Collided, hsent.frame]
    exact hcol
  · rw [hsent.rxNext, ← ht.rxNext, port, logCollision_eq, port]
  · rw [hsent.frame]
    show (logCollision a (peerOrder flag.toNat) true u).bank = s.bank
    rw [logCollision_eq, ht.frame]

/-- Settles O16: what acts on a packet acts after its port has taken it, and touches its shipment's record, the copies of its
words or its flag alone. -/
theorem shipmentsArrive : Obligations.ShipmentsArrive := by
  refine ⟨?opens, ?writes, ?aborts, ?sets, ?loses⟩
  case opens => exact fun _ _ _ _ _ _ hup hseq hdst hw ho hf hr hp => yields_openShip hup hseq hdst hw ho hf hr hp
  case writes => exact fun _ _ _ _ _ _ _ _ hup hseq hdst hs hfree hnd => yields_write hup hseq hdst hs hfree hnd
  case aborts => exact fun _ _ _ hup hseq hdst => yields_abort hup hseq hdst
  case sets => exact fun _ _ _ _ _ hup hseq hdst ho hr hw ha => yields_flagSetPacket hup hseq hdst ho hr hw ha
  case loses =>
    exact fun _ _ _ _ _ _ hup hseq hn hdst ho hr hw ha => yields_flagSetPacket_of_rival hup hseq hn hdst ho hr hw ha

end Sys2Proof.Machine
end

section
/-! What ends a context: descriptors take a status, a draining context settles, and one that faults stops (09 R276, R277). -/

namespace Sys2Proof.Machine

variable {s t u : State} {p q : Place} {d : Desc} {x : CtxNo} {c : Ctx}

/-! ### Statuses of descriptors -/

theorem mem_addStatus {st : Status} {l : List Status} (h : st ≠ .done) : st ∈ addStatus st l := by
  unfold addStatus
  split
  · next hd => exact hd.resolve_left h
  · simp

theorem addStatus_done (l : List Status) : addStatus .done l = l := if_pos (.inl rfl)

theorem addCond_of_desc (st : Status) (h : desc s p = some d) :
    addCond p st s = setDesc p { d with conds := addStatus st d.conds } s := by rw [addCond, h]

theorem addCond_frame (st : Status) : addCond p st s = { s with places := (addCond p st s).places } := by
  unfold addCond
  split <;> rfl

theorem noteDetail_of_desc (n : Nat) (h : desc s p = some d) :
    noteDetail p n s = setDesc p { d with detail := BitVec.ofNat 64 n } s := by rw [noteDetail, h]

theorem noteDetail_frame (n : Nat) : noteDetail p n s = { s with places := (noteDetail p n s).places } := by
  unfold noteDetail
  split <;> rfl

/-! ### Settling -/

/-- Settling may end the context's descriptor: no descriptor changes but in its stage. -/
theorem desc_settleCtx (h : desc s q = some d) : ∃ g, desc (settleCtx x s) q = some { d with stage := g } := by
  unfold settleCtx
  split
  · split
    · split
      · next c _ _ _ e he =>
        by_cases hq : q = c.place
        · subst hq
          rw [h] at he
          cases he
          exact ⟨_, desc_setDesc_self ..⟩
        · exact ⟨d.stage, (desc_setDesc_ne s c.place q _ hq).trans h⟩
      · exact ⟨d.stage, h⟩
    · exact ⟨d.stage, h⟩
  · exact ⟨d.stage, h⟩

@[simp] theorem ctx_settleCtx (y : Nat) : ctx (settleCtx x s) y = ctx s y := by simp [ctx]

theorem drainCtx_of_ctx (h : ctx s x.val = some c) :
    drainCtx x s = setCtx x.val { c with st := .drain, since := now s } s := by rw [drainCtx, h]

/-! ### Stopping and faulting -/

/-- The state of a stopped context before it settles. -/
def haltedCtx (x : CtxNo) (c : Ctx) (s : State) : State :=
  let t := setCtx x.val { c with st := .drain, wait := .nothing, since := now s, sets := 0 } (dropUnstarted x (haltRuns x s))
  { t with seq := { t.seq with waits := t.seq.waits.filter (fun y => decide (y ≠ x)) } }

theorem stopCtx_of_ctx (h : ctx s x.val = some c) : stopCtx x s = settleCtx x (haltedCtx x c s) := by
  rw [stopCtx, h]
  rfl

theorem seq_haltedCtx :
    (haltedCtx x c s).seq
      = { s.seq with queues := (dropUnstarted x s).seq.queues,
                     ctxs := tput s.seq.ctxs x.val { c with st := .drain, wait := .nothing, since := now s, sets := 0 },
                     waits := s.seq.waits.filter (fun y => decide (y ≠ x)) } := by
  simp [haltedCtx, setCtx, dropUnstarted]

theorem ctx_haltedCtx_self :
    ctx (haltedCtx x c s) x.val = some { c with st := .drain, wait := .nothing, since := now s, sets := 0 } := by
  rw [ctx, seq_haltedCtx, tfind_tput_self]

theorem ctx_haltedCtx_ne {y : Nat} (hy : y ≠ x.val) : ctx (haltedCtx x c s) y = ctx s y := by
  rw [ctx, seq_haltedCtx, tfind_tput_ne _ _ _ _ hy, ctx]

theorem places_haltedCtx : (haltedCtx x c s).places = s.places := by simp [haltedCtx]

/-- The state of a faulted context before it stops. -/
def faultedCtx (x : CtxNo) (c : Ctx) (code : Nat) (s : State) : State :=
  logFn 0x03 0x2E (locOf 6 x.val) c.func code (((desc s c.place).map (fun d => d.hsn.toNat)).getD 0)
    (setCtx x.val { c with seqFault := some (BitVec.ofNat 8 code) } (addCond c.place .seqFault s))

theorem faultCtx_of_ctx (code : Nat) (h : ctx s x.val = some c) : faultCtx x code s = stopCtx x (faultedCtx x c code s) := by
  rw [faultCtx, h]
  dsimp only [faultedCtx]
  cases desc s c.place <;> rfl

theorem seq_faultedCtx (code : Nat) :
    (faultedCtx x c code s).seq
      = { s.seq with ctxs := tput s.seq.ctxs x.val { c with seqFault := some (BitVec.ofNat 8 code) } } := by
  simp [faultedCtx, setCtx]

theorem places_faultedCtx (code : Nat) : (faultedCtx x c code s).places = (addCond c.place .seqFault s).places := by
  simp [faultedCtx]

theorem faultCtx_eq (code : Nat) (h : ctx s x.val = some c) :
    faultCtx x code s
      = settleCtx x (haltedCtx x { c with seqFault := some (BitVec.ofNat 8 code) } (faultedCtx x c code s)) := by
  rw [faultCtx_of_ctx code h, stopCtx_of_ctx]
  rw [ctx, seq_faultedCtx, tfind_tput_self]

theorem ctx_faultCtx_self (code : Nat) (h : ctx s x.val = some c) :
    ctx (faultCtx x code s) x.val
      = some { c with seqFault := some (BitVec.ofNat 8 code), st := .drain, wait := .nothing,
                      since := now (faultedCtx x c code s), sets := 0 } := by
  rw [faultCtx_eq code h, ctx_settleCtx, ctx_haltedCtx_self]

theorem ctx_faultCtx_ne {y : Nat} (code : Nat) (h : ctx s x.val = some c) (hy : y ≠ x.val) :
    ctx (faultCtx x code s) y = ctx s y := by
  rw [faultCtx_eq code h, ctx_settleCtx, ctx_haltedCtx_ne hy, ctx, seq_faultedCtx, tfind_tput_ne _ _ _ _ hy, ctx]

theorem desc_faultCtx (code : Nat) (h : ctx s x.val = some c) (hd : desc s c.place = some d) :
    ∃ e, desc (faultCtx x code s) c.place = some e ∧ Status.seqFault ∈ e.conds := by
  have hhalt : desc (haltedCtx x { c with seqFault := some (BitVec.ofNat 8 code) } (faultedCtx x c code s)) c.place
      = some { d with conds := addStatus .seqFault d.conds } := by
    rw [desc_congr places_haltedCtx, desc_congr (places_faultedCtx code), addCond_of_desc _ hd, desc_setDesc_self]
  obtain ⟨g, hg⟩ := desc_settleCtx (x := x) hhalt
  rw [faultCtx_eq code h]
  exact ⟨_, hg, mem_addStatus (by decide)⟩

/-- A context that faults keeps its values, its loops and its position (09 R277). -/
theorem seqFaults_faultCtx (code : Nat) (h : ctx s x.val = some c) : SeqFaults x c code s (faultCtx x code s) :=
  ⟨⟨_, ctx_faultCtx_self code h, rfl, rfl, rfl, rfl, rfl⟩, fun _ hd => desc_faultCtx code h hd,
    fun _ hy => ctx_faultCtx_ne code h hy⟩

/-- A fault touches no flag. -/
theorem getFlag_faultCtx (code : Nat) (sp : FlagSpace) (n : Nat) : getFlag (faultCtx x code s) sp n = getFlag s sp n := by
  cases h : ctx s x.val with
  | none => rw [faultCtx, h]
  | some c =>
    have hseq : (faultCtx x code s).seq
        = (haltedCtx x { c with seqFault := some (BitVec.ofNat 8 code) } (faultedCtx x c code s)).seq := by
      rw [faultCtx_eq code h]
      simp only [settleCtx_keeps]
    rw [seq_haltedCtx, seq_faultedCtx] at hseq
    cases sp <;> simp only [getFlag, localFlag, sharedFlag, hseq]

end Sys2Proof.Machine
end

section
/-! SIGNAL: local and shared flags, and the flags of other modules (12 R324, R325, R339; 14 R387). -/

namespace Sys2Proof.Machine

variable {s t u v : State} {p q : Place} {d : Desc} {x : CtxNo} {c : Ctx} {n : Nat}

/-! ### The end of a SIGNAL -/

theorem endSignal_frame (st : Status) :
    endSignal p x st s = { s with seq := (endSignal p x st s).seq, places := (endSignal p x st s).places } := by
  unfold endSignal
  rw [settleCtx_frame, drainCtx_frame, addCond_frame]
  split
  · rw [noteDetail_frame]
  · rfl

theorem all_drain_endSignal (st : Status) :
    (ctx (endSignal p x st s) x.val).all (fun c => decide (c.st = .drain)) = true := by
  rw [endSignal, ctx_settleCtx]
  exact all_drain_drainCtx

theorem seq_endSignal (st : Status) : (endSignal p x st s).seq = { s.seq with ctxs := (endSignal p x st s).seq.ctxs } := by
  have hseq (w : State) : (drainCtx x w).seq = { w.seq with ctxs := (drainCtx x w).seq.ctxs } := by
    unfold drainCtx
    split <;> rfl
  have hnote : (noteDetail p 0x08 s).seq = s.seq := by rw [noteDetail_frame]
  unfold endSignal
  simp only [settleCtx_keeps]
  rw [hseq]
  split
  · simp only [addCond_keeps, hnote]
  · simp only [addCond_keeps]

/-- The end of a SIGNAL touches no flag. -/
theorem getFlag_endSignal (st : Status) (sp : FlagSpace) : getFlag (endSignal p x st s) sp n = getFlag s sp n := by
  cases sp
  · rw [getFlag, localFlag, seq_endSignal st, getFlag, localFlag]
  · rw [getFlag, sharedFlag, seq_endSignal st, getFlag, sharedFlag]

theorem sharedFlag_endSignal (st : Status) : sharedFlag (endSignal p x st s) n = sharedFlag s n :=
  getFlag_endSignal st .shared

theorem localFlag_endSignal (st : Status) : localFlag (endSignal p x st s) n = localFlag s n := getFlag_endSignal st .loc

/-- The status and the detail word that a SIGNAL ends with. -/
theorem desc_endSignal {st : Status} (hd : desc s p = some d) (hst : st ≠ .done) :
    ∃ e, desc (endSignal p x st s) p = some e ∧ st ∈ e.conds ∧ (st = .badTenant → e.detail = 0x08#64) := by
  have hplaces (w : State) : (drainCtx x w).places = w.places := by rw [drainCtx_frame]
  have hcond : ∃ e, desc (addCond p st (if st = .badTenant then noteDetail p 0x08 s else s)) p = some e ∧ st ∈ e.conds
      ∧ (st = .badTenant → e.detail = 0x08#64) := by
    by_cases hb : st = .badTenant
    · rw [if_pos hb, noteDetail_of_desc _ hd, addCond_of_desc _ (desc_setDesc_self ..)]
      exact ⟨_, desc_setDesc_self .., mem_addStatus hst, fun _ => rfl⟩
    · rw [if_neg hb, addCond_of_desc _ hd]
      exact ⟨_, desc_setDesc_self .., mem_addStatus hst, fun h => absurd h hb⟩
  obtain ⟨e, he, hmem, hdet⟩ := hcond
  obtain ⟨g, hg⟩ := desc_settleCtx (x := x) (s := drainCtx x _) ((desc_congr (hplaces _) p).trans he)
  exact ⟨_, hg, hmem, hdet⟩

/-! ### A flag of this module -/

/-- The flag operation of a SIGNAL. -/
def signalled (sp : FlagSpace) (i : Nat) (set_ : Bool) (d : Desc) (p : Place) (s : State) : State :=
  if set_ then countSet sp d.func (setFlag sp i 2 (noteFlagOp sp i d.func p s)) else clearFlag sp i (noteFlagOp sp i d.func p s)

theorem yields_signal_shared {post : State → Prop} (h : runningOn s p 0x41 = some (d, x))
    (hctx : (ctx s x.val).all (fun c => decide (c.st ≠ .drain)) = true) (hsp : bits (wordAt d.words 1) 16 2 = 1)
    (hword : wordFaulted s .shared (bits (wordAt d.words 1) 0 14) = false)
    (hrange : inFlagRange s d.func.val (bits (wordAt d.words 1) 0 14) = true)
    (hp : post (endSignal p x .done
      (signalled .shared (bits (wordAt d.words 1) 0 14) (decide (bits (wordAt d.words 1) 18 2 = 0)) d p s))) :
    Yields (.signal p) s post := by
  refine yields_of_ok ?_ hp
  show execSignal p s = _
  simp only [execSignal, h, not_any_drain hctx, Bool.false_eq_true, if_false, hsp, hword, hrange, if_true]
  rfl

theorem yields_signal_local {post : State → Prop} {i : Nat} (h : runningOn s p 0x41 = some (d, x))
    (hctx : (ctx s x.val).all (fun c => decide (c.st ≠ .drain)) = true) (hsp : bits (wordAt d.words 1) 16 2 = 0)
    (hi : i = 48 * bits (wordAt d.words 1) 20 2 + bits (wordAt d.words 1) 0 14) (hword : wordFaulted s .loc i = false)
    (htarget : (ctx s (8 * bits (wordAt d.words 1) 20 2 + bits (wordAt d.words 1) 0 14 / 6)).any
      (fun c => decide (c.func = d.func)) = true)
    (hp : post (endSignal p x .done (signalled .loc i (decide (bits (wordAt d.words 1) 18 2 = 0)) d p s))) :
    Yields (.signal p) s post := by
  refine yields_of_ok ?_ hp
  show execSignal p s = _
  simp only [execSignal, h, not_any_drain hctx, Bool.false_eq_true, if_false, hsp, ← hi, hword, htarget, if_true]
  rfl

theorem noteFlagOp_of_alone (f : Func) (ha : Alone (.flag n) s) :
    noteFlagOp .shared n f p s
      = noteOrder (ownOrder (.flag n) .flagOp f (((desc s p).map (fun d => d.hsn)).getD 0#32)) s := by
  simp only [noteFlagOp, rival_of_alone ha]

theorem sharedFlag_eq_getFlag : sharedFlag s n = getFlag s .shared n := rfl

theorem localFlag_eq_getFlag : localFlag s n = getFlag s .loc n := rfl

theorem yields_signal_set (h : runningOn s p 0x41 = some (d, x))
    (hctx : (ctx s x.val).all (fun c => decide (c.st ≠ .drain)) = true) (hsp : bits (wordAt d.words 1) 16 2 = 1)
    (hop : bits (wordAt d.words 1) 18 2 = 0) (ha : Alone (.flag (bits (wordAt d.words 1) 0 14)) s)
    (hword : wordFaulted s .shared (bits (wordAt d.words 1) 0 14) = false)
    (hrange : inFlagRange s d.func.val (bits (wordAt d.words 1) 0 14) = true) :
    Yields (.signal p) s fun t =>
      (sharedFlag t (bits (wordAt d.words 1) 0 14)).setter = 2
      ∧ (sharedFlag t (bits (wordAt d.words 1) 0 14)).sets = sat16 (sharedFlag s (bits (wordAt d.words 1) 0 14)).sets
      ∧ (∀ n, n ≠ bits (wordAt d.words 1) 0 14 → sharedFlag t n = sharedFlag s n)
      ∧ (∀ n, localFlag t n = localFlag s n)
      ∧ (ctx t x.val).all (fun c => decide (c.st = .drain)) = true
      ∧ Noted s t ∧ t = { s with seq := t.seq, places := t.places, cnt := t.cnt, log := t.log } := by
  refine yields_signal_shared h hctx hsp hword hrange ?_
  generalize bits (wordAt d.words 1) 0 14 = n at ha ⊢
  rw [hop, decide_eq_true rfl, signalled, if_pos rfl, noteFlagOp_of_alone _ ha]
  generalize ownOrder (.flag n) .flagOp d.func (((desc s p).map (fun d => d.hsn)).getD 0#32) = o
  have hset := wakes_setFlag (sp := .shared) (n := n) (k := 2) (.refl (noteOrder o s))
  have hflag (sp : FlagSpace) (m : Nat) :
      getFlag (endSignal p x .done (countSet .shared d.func (setFlag .shared n 2 (noteOrder o s)))) sp m
        = getFlag (setFlag .shared n 2 (noteOrder o s)) sp m := by
    rw [getFlag_endSignal]
    cases sp <;> rfl
  have hold (sp : FlagSpace) (m : Nat) : getFlag (noteOrder o s) sp m = getFlag s sp m := by cases sp <;> rfl
  refine ⟨?_, ?_, fun m hm => ?_, fun m => ?_, all_drain_endSignal .done, ?_, ?_⟩
  · rw [sharedFlag_eq_getFlag, hflag, setter_setFlag]
  · rw [sharedFlag_eq_getFlag, hflag, sets_setFlag, hold, sharedFlag_eq_getFlag]
  · rw [sharedFlag_eq_getFlag, hflag, getFlag_setFlag_ne (by simpa using hm), hold, sharedFlag_eq_getFlag]
  · rw [localFlag_eq_getFlag, hflag, getFlag_setFlag_ne (by simp), hold, localFlag_eq_getFlag]
  · rw [Noted, endSignal_frame, countSet, countEv, hset.frame]
    rfl
  · rw [endSignal_frame, countSet, countEv, hset.frame]
    rfl

theorem yields_signal_clear (h : runningOn s p 0x41 = some (d, x))
    (hctx : (ctx s x.val).all (fun c => decide (c.st ≠ .drain)) = true) (hsp : bits (wordAt d.words 1) 16 2 = 1)
    (hop : bits (wordAt d.words 1) 18 2 ≠ 0) (ha : Alone (.flag (bits (wordAt d.words 1) 0 14)) s)
    (hword : wordFaulted s .shared (bits (wordAt d.words 1) 0 14) = false)
    (hrange : inFlagRange s d.func.val (bits (wordAt d.words 1) 0 14) = true) :
    Yields (.signal p) s fun t =>
      (sharedFlag t (bits (wordAt d.words 1) 0 14)).value = false
      ∧ (sharedFlag t (bits (wordAt d.words 1) 0 14)).clears = sat16 (sharedFlag s (bits (wordAt d.words 1) 0 14)).clears
      ∧ (∀ n, n ≠ bits (wordAt d.words 1) 0 14 → sharedFlag t n = sharedFlag s n)
      ∧ (ctx t x.val).all (fun c => decide (c.st = .drain)) = true
      ∧ Noted s t ∧ t = { s with seq := t.seq, places := t.places, log := t.log } := by
  refine yields_signal_shared h hctx hsp hword hrange ?_
  generalize bits (wordAt d.words 1) 0 14 = n at ha ⊢
  rw [decide_eq_false hop, signalled, if_neg Bool.false_ne_true, noteFlagOp_of_alone _ ha]
  generalize ownOrder (.flag n) .flagOp d.func (((desc s p).map (fun d => d.hsn)).getD 0#32) = o
  have hclear := wakes_clearFlag (sp := .shared) (n := n) (.refl (noteOrder o s))
  have hold (m : Nat) : getFlag (noteOrder o s) .shared m = sharedFlag s m := rfl
  refine ⟨?_, ?_, fun m hm => ?_, all_drain_endSignal .done, ?_, ?_⟩
  · rw [sharedFlag_endSignal, sharedFlag_eq_getFlag, getFlag_clearFlag]
  · rw [sharedFlag_endSignal, sharedFlag_eq_getFlag, getFlag_clearFlag, hold]
  · rw [sharedFlag_endSignal, sharedFlag_eq_getFlag, getFlag_clearFlag_ne (by simpa using hm), hold]
  · rw [Noted, endSignal_frame, hclear.frame]
    rfl
  · rw [endSignal_frame, hclear.frame]
    rfl

theorem wakes_signalled_local {i : Nat} (b : Bool) : Wakes s (signalled .loc i b d p s) := by
  unfold signalled
  split
  · exact wakes_setFlag (.refl s)
  · exact wakes_clearFlag (.refl s)

theorem getFlag_signalled_local_ne {i m : Nat} {sp : FlagSpace} (b : Bool) (h : (sp, m) ≠ (.loc, i)) :
    getFlag (signalled .loc i b d p s) sp m = getFlag s sp m := by
  unfold signalled
  split
  · exact getFlag_setFlag_ne h
  · exact getFlag_clearFlag_ne h

theorem yields_signal_loc {i : Nat} (h : runningOn s p 0x41 = some (d, x))
    (hctx : (ctx s x.val).all (fun c => decide (c.st ≠ .drain)) = true) (hsp : bits (wordAt d.words 1) 16 2 = 0)
    (hi : i = 48 * bits (wordAt d.words 1) 20 2 + bits (wordAt d.words 1) 0 14) (hword : wordFaulted s .loc i = false)
    (htarget : (ctx s (8 * bits (wordAt d.words 1) 20 2 + bits (wordAt d.words 1) 0 14 / 6)).any
      (fun c => decide (c.func = d.func)) = true) :
    Yields (.signal p) s fun t =>
      (bits (wordAt d.words 1) 18 2 = 0 → (localFlag t i).setter = 2 ∧ (localFlag t i).sets = sat16 (localFlag s i).sets)
      ∧ (bits (wordAt d.words 1) 18 2 ≠ 0 → (localFlag t i).value = false
          ∧ (localFlag t i).clears = sat16 (localFlag s i).clears)
      ∧ (∀ n, n ≠ i → localFlag t n = localFlag s n) ∧ (∀ n, sharedFlag t n = sharedFlag s n)
      ∧ (ctx t x.val).all (fun c => decide (c.st = .drain)) = true
      ∧ t = { s with seq := t.seq, places := t.places } := by
  refine yields_signal_local h hctx hsp hi hword htarget ⟨fun hop => ?_, fun hop => ?_, fun m hm => ?_, fun m => ?_,
    all_drain_endSignal .done, ?_⟩
  · rw [localFlag_endSignal, localFlag_eq_getFlag, hop, decide_eq_true rfl]
    exact ⟨setter_setFlag, sets_setFlag⟩
  · rw [localFlag_endSignal, localFlag_eq_getFlag, decide_eq_false hop]
    rw [signalled, if_neg Bool.false_ne_true, getFlag_clearFlag]
    exact ⟨rfl, rfl⟩
  · rw [localFlag_endSignal]
    exact getFlag_signalled_local_ne (sp := .loc) _ (by simpa using hm)
  · rw [sharedFlag_endSignal]
    exact getFlag_signalled_local_ne (sp := .shared) _ (by simp)
  · rw [endSignal_frame, (wakes_signalled_local _).frame]

theorem yields_signal_badTenant (h : runningOn s p 0x41 = some (d, x))
    (hctx : (ctx s x.val).all (fun c => decide (c.st ≠ .drain)) = true)
    (hbad : (bits (wordAt d.words 1) 16 2 = 1 ∧ wordFaulted s .shared (bits (wordAt d.words 1) 0 14) = false
        ∧ inFlagRange s d.func.val (bits (wordAt d.words 1) 0 14) = false)
      ∨ (bits (wordAt d.words 1) 16 2 = 0
        ∧ wordFaulted s .loc (48 * bits (wordAt d.words 1) 20 2 + bits (wordAt d.words 1) 0 14) = false
        ∧ (ctx s (8 * bits (wordAt d.words 1) 20 2 + bits (wordAt d.words 1) 0 14 / 6)).any
            (fun c => decide (c.func = d.func)) = false)) :
    Yields (.signal p) s fun t =>
      (∀ n, sharedFlag t n = sharedFlag s n) ∧ (∀ n, localFlag t n = localFlag s n)
      ∧ (∃ e, desc t p = some e ∧ Status.badTenant ∈ e.conds ∧ e.detail = 0x08#64)
      ∧ (ctx t x.val).all (fun c => decide (c.st = .drain)) = true
      ∧ t = { s with seq := t.seq, places := t.places } := by
  have hu : execSignal p s = ok (endSignal p x .badTenant s) := by
    rcases hbad with ⟨hsp, hword, hrange⟩ | ⟨hsp, hword, htarget⟩
    · simp only [execSignal, h, not_any_drain hctx, Bool.false_eq_true, if_false, hsp, hword, hrange]
    · simp only [execSignal, h, not_any_drain hctx, Bool.false_eq_true, if_false, hsp, hword, htarget]
  obtain ⟨e, he, hmem, hdet⟩ := desc_endSignal (x := x) (st := .badTenant) (runningOn_eq_some.mp h).1 (by decide)
  exact yields_of_ok hu ⟨fun _ => sharedFlag_endSignal _, fun _ => localFlag_endSignal _, ⟨e, he, hmem, hdet rfl⟩,
    all_drain_endSignal _, endSignal_frame _⟩

/-! ### A flag of another module -/

/-- Along a path, a packet starts here. -/
theorem originate_of_path {dst own : Byte} (k : Pkt) (hown : ownPos s = some own) (hpath : pathFor s dst 0#6 = true) :
    ∃ (r : PortNo) (o : PktOut) (b : Bool), originate dst p k none s = some (queueAt r o (clipDesc p b s)) := by
  have hmask : maskPorts 0#6 = [] := by decide
  simp only [pathFor, hmask, hown, Option.isSome_iff_exists] at hpath
  obtain ⟨⟨r, dt, ww⟩, hr⟩ := hpath
  unfold originate
  rw [hown]
  dsimp only
  rw [hr]
  exact ⟨_, _, _, rfl⟩

theorem originate_of_no_path {dst : Byte} (k : Pkt) (hpath : pathFor s dst 0#6 = false) : originate dst p k none s = none := by
  have hmask : maskPorts 0#6 = [] := by decide
  unfold originate
  split
  · rfl
  · next own hown =>
    simp only [pathFor, hmask, hown, Option.isSome_eq_false_iff, Option.isNone_iff_eq_none] at hpath
    simp only [hpath]

/-- Outside this module's two spaces. -/
theorem execSignal_remote (h : runningOn s p 0x41 = some (d, x))
    (hctx : (ctx s x.val).all (fun c => decide (c.st ≠ .drain)) = true) (hsp : 2 ≤ bits (wordAt d.words 1) 16 2) :
    execSignal p s
      = if ownPos s = some (BitVec.ofNat 8 (bits (wordAt d.words 2) 0 8)) then
          ok (endSignal p x (if (remoteSet (bits (wordAt d.words 1) 0 14) s).2 then .done else .badTenant)
            (remoteSet (bits (wordAt d.words 1) 0 14) s).1)
        else
          match originate (BitVec.ofNat 8 (bits (wordAt d.words 2) 0 8)) p
            (.flagSet (BitVec.ofNat 14 (bits (wordAt d.words 1) 0 14)) false) none s with
          | some s1 => ok (match ctx s1 x.val with
              | some c => moveCtx x.val { c with sets := 1 } .drain s1
              | none => s1)
          | none => ok (endSignal p x .linkDown s) := by
  simp only [execSignal, h, not_any_drain hctx, Bool.false_eq_true, if_false]
  split
  · omega
  · omega
  · rfl

theorem yields_signal_remote {own : Byte} (h : runningOn s p 0x41 = some (d, x)) (hc : ctx s x.val = some c)
    (hst : c.st ≠ .drain) (hsp : 2 ≤ bits (wordAt d.words 1) 16 2) (hown : ownPos s = some own)
    (hdst : own ≠ BitVec.ofNat 8 (bits (wordAt d.words 2) 0 8))
    (hpath : pathFor s (BitVec.ofNat 8 (bits (wordAt d.words 2) 0 8)) 0#6 = true) :
    Yields (.signal p) s fun t =>
      (∃ y, ctx t x.val = some y ∧ y.st = .drain ∧ y.sets = 1)
      ∧ (∃ e, desc t p = some e ∧ e.stage = .running ∧ e.conds = d.conds)
      ∧ (∀ n, sharedFlag t n = sharedFlag s n) ∧ (∀ n, localFlag t n = localFlag s n) ∧ t.bank = s.bank
      ∧ t.marl = s.marl ∧ (∀ g, ring t g = ring s g) := by
  obtain ⟨r, o, b, ho⟩ := originate_of_path (p := p)
    (.flagSet (BitVec.ofNat 14 (bits (wordAt d.words 1) 0 14)) false) hown hpath
  have hships := (ships_clipDesc (pl := p) b s).trans (ships_of_sends (sends_queueAt (p := r) (o := o) (.refl _ _)))
  have hne : ownPos s ≠ some (BitVec.ofNat 8 (bits (wordAt d.words 2) 0 8)) := by simpa [hown] using hdst
  have hu : execSignal p s
      = ok (moveCtx x.val { c with sets := 1 } .drain (queueAt r o (clipDesc p b s))) := by
    rw [execSignal_remote h (by simp [hc, hst]) hsp, if_neg hne, ho]
    generalize queueAt r o (clipDesc p b s) = w at hships ⊢
    have hcw : ctx w x.val = some c := by rw [ctx, hships.frame]; exact hc
    simp only [hcw]
  generalize queueAt r o (clipDesc p b s) = w at hships hu
  obtain ⟨hd, -, hrun, -⟩ := runningOn_eq_some.mp h
  obtain ⟨k, m, hdw⟩ := hships.desc d hd
  refine yields_of_ok hu ⟨⟨_, ctx_setCtx_self .., rfl, rfl⟩, ⟨_, hdw, hrun, rfl⟩, fun m => ?_, fun m => ?_, ?_, ?_, fun g => ?_⟩
  all_goals rw [hships.frame]
  all_goals rfl

theorem yields_signal_noPath (h : runningOn s p 0x41 = some (d, x))
    (hctx : (ctx s x.val).all (fun c => decide (c.st ≠ .drain)) = true) (hsp : 2 ≤ bits (wordAt d.words 1) 16 2)
    (hne : ownPos s ≠ some (BitVec.ofNat 8 (bits (wordAt d.words 2) 0 8)))
    (hpath : pathFor s (BitVec.ofNat 8 (bits (wordAt d.words 2) 0 8)) 0#6 = false) :
    Yields (.signal p) s fun t =>
      (∃ e, desc t p = some e ∧ Status.linkDown ∈ e.conds) ∧ (∀ n, sharedFlag t n = sharedFlag s n)
      ∧ (ctx t x.val).all (fun c => decide (c.st = .drain)) = true
      ∧ t = { s with seq := t.seq, places := t.places } := by
  have hu : execSignal p s = ok (endSignal p x .linkDown s) := by
    rw [execSignal_remote h hctx hsp, if_neg hne, originate_of_no_path _ hpath]
  obtain ⟨e, he, hmem, -⟩ := desc_endSignal (x := x) (st := .linkDown) (runningOn_eq_some.mp h).1 (by decide)
  exact yields_of_ok hu ⟨⟨e, he, hmem⟩, fun _ => sharedFlag_endSignal _, all_drain_endSignal _, endSignal_frame _⟩

theorem yields_signal_own {f : Nat} (h : runningOn s p 0x41 = some (d, x))
    (hctx : (ctx s x.val).all (fun c => decide (c.st ≠ .drain)) = true) (hsp : 2 ≤ bits (wordAt d.words 1) 16 2)
    (hown : ownPos s = some (BitVec.ofNat 8 (bits (wordAt d.words 2) 0 8)))
    (howner : flagOwner s (bits (wordAt d.words 1) 0 14) = some f)
    (hrange : inFlagRange s f (bits (wordAt d.words 1) 0 14) = true)
    (hword : wordFaulted s .shared (bits (wordAt d.words 1) 0 14) = false) :
    Yields (.signal p) s fun t =>
      (sharedFlag t (bits (wordAt d.words 1) 0 14)).setter = 4
      ∧ (sharedFlag t (bits (wordAt d.words 1) 0 14)).sets = sat16 (sharedFlag s (bits (wordAt d.words 1) 0 14)).sets
      ∧ (∀ n, n ≠ bits (wordAt d.words 1) 0 14 → sharedFlag t n = sharedFlag s n)
      ∧ (ctx t x.val).all (fun c => decide (c.st = .drain)) = true
      ∧ t = { s with seq := t.seq, places := t.places, cnt := t.cnt } := by
  have hu : execSignal p s = ok (endSignal p x .done
      (countEv 0x62 0 (some (Fin.ofNat 256 f)) 1 (setFlag .shared (bits (wordAt d.words 1) 0 14) 4 s))) := by
    rw [execSignal_remote h hctx hsp, if_pos hown, remoteSet_of_applied howner hrange hword]
    rfl
  refine yields_of_ok hu ?_
  generalize bits (wordAt d.words 1) 0 14 = n
  have hset := wakes_setFlag (sp := .shared) (n := n) (k := 4) (.refl s)
  have hflag (m : Nat) : sharedFlag (endSignal p x .done (countEv 0x62 0 (some (Fin.ofNat 256 f)) 1 (setFlag .shared n 4 s))) m
      = getFlag (setFlag .shared n 4 s) .shared m := sharedFlag_endSignal .done
  refine ⟨?_, ?_, fun m hm => ?_, all_drain_endSignal _, ?_⟩
  · rw [hflag, setter_setFlag]
  · rw [hflag, sets_setFlag, sharedFlag_eq_getFlag]
  · rw [hflag, getFlag_setFlag_ne (by simpa using hm), sharedFlag_eq_getFlag]
  · rw [endSignal_frame, countEv, hset.frame]

/-! ### A faulted word -/

theorem yields_signal_faulted (h : runningOn s p 0x41 = some (d, x)) (hc : ctx s x.val = some c) (hst : c.st ≠ .drain)
    (hplace : c.place = p)
    (hword : (bits (wordAt d.words 1) 16 2 = 1 ∧ wordFaulted s .shared (bits (wordAt d.words 1) 0 14) = true)
      ∨ (bits (wordAt d.words 1) 16 2 = 0
        ∧ wordFaulted s .loc (48 * bits (wordAt d.words 1) 20 2 + bits (wordAt d.words 1) 0 14) = true)) :
    Yields (.signal p) s fun t =>
      (∃ e, desc t p = some e ∧ Status.seqFault ∈ e.conds)
      ∧ (∃ y, ctx t x.val = some y ∧ y.st = .drain ∧ y.seqFault = some 0x19#8)
      ∧ (∀ n, sharedFlag t n = sharedFlag s n) ∧ (∀ n, localFlag t n = localFlag s n) := by
  have hno : (ctx s x.val).any (fun c => decide (c.st = .drain)) = false := by simp [hc, hst]
  have hu : execSignal p s = ok (faultCtx x 0x19 s) := by
    rcases hword with ⟨hsp, hf⟩ | ⟨hsp, hf⟩
    · simp only [execSignal, h, hno, Bool.false_eq_true, if_false, hsp, hf, if_true]
    · simp only [execSignal, h, hno, Bool.false_eq_true, if_false, hsp, hf, if_true]
  refine yields_of_ok hu ⟨?_, ⟨_, ctx_faultCtx_self 0x19 hc, rfl, rfl⟩, fun n => getFlag_faultCtx 0x19 .shared n,
    fun n => getFlag_faultCtx 0x19 .loc n⟩
  rw [← hplace]
  exact desc_faultCtx 0x19 hc (hplace ▸ (runningOn_eq_some.mp h).1)

/-- Settles O17: by the space that the SIGNAL names, and by what it may do there. -/
theorem signalsSetFlags : Obligations.SignalsSetFlags := by
  refine ⟨?set, ?clear, ?loc, ?bad, ?remote, ?noPath, ?own, ?faulted⟩
  case set => exact fun _ _ _ _ h hc hsp hop ha hw hr => yields_signal_set h hc hsp hop ha hw hr
  case clear => exact fun _ _ _ _ h hc hsp hop ha hw hr => yields_signal_clear h hc hsp hop ha hw hr
  case loc => exact fun _ _ _ _ _ h hc hsp hi hw ht => yields_signal_loc h hc hsp hi hw ht
  case bad => exact fun _ _ _ _ h hc hb => yields_signal_badTenant h hc hb
  case remote => exact fun _ _ _ _ _ _ h hc hst hsp ho hd hp => yields_signal_remote h hc hst hsp ho hd hp
  case noPath => exact fun _ _ _ _ h hc hsp hne hp => yields_signal_noPath h hc hsp hne hp
  case own => exact fun _ _ _ _ _ h hc hsp ho how hr hw => yields_signal_own h hc hsp ho how hr hw
  case faulted => exact fun _ _ _ _ _ h hc hst hpl hw => yields_signal_faulted h hc hst hpl hw

end Sys2Proof.Machine
end

section
/-! Ports train, judge IDENT packets and send them (15 R393 to R405, R412). -/

namespace Sys2Proof.Machine

variable {s t u : State} {p : PortNo} {q : Nat} {st : PState}

/-! ### A port's state -/

/-- From s to t one port moves, as the change is logged and the parent is chosen again. -/
structure PortMoves (q : Nat) (s t : State) : Prop where
  frame : t = { s with lnk := { s.lnk with ports := t.lnk.ports, root := t.lnk.root, dist := t.lnk.dist,
                                           parent := t.lnk.parent },
                       log := t.log, out := t.out, cnt := t.cnt, boot := { s.boot with portWaived := t.boot.portWaived } }
  other : ∀ k, k ≠ q → port t k = port s k

namespace PortMoves

theorem refl (q : Nat) (s : State) : PortMoves q s s := ⟨rfl, fun _ _ => rfl⟩

theorem trans (h : PortMoves q s t) (h' : PortMoves q t u) : PortMoves q s u := by
  refine ⟨?_, fun k hk => (h'.other k hk).trans (h.other k hk)⟩
  have hu := h'.frame
  rw [h.frame] at hu
  exact hu

end PortMoves

theorem portMoves_setPort {x : Port} (h : PortMoves q s t) : PortMoves q s (setPort q x t) :=
  h.trans ⟨rfl, fun k hk => port_setPort_ne t q k x hk⟩

theorem portMoves_emit {o : Out} (h : PortMoves q s t) : PortMoves q s (emit o t) := h.trans ⟨rfl, fun _ _ => rfl⟩

theorem portMoves_of_sends (h : PortMoves p.val s t) (h' : Sends (· = p.val) t u) : PortMoves p.val s u := by
  refine h.trans ⟨?_, fun k hk => h'.other k hk⟩
  rw [h'.frame]

/-- Whether a state carries packets. -/
def PState.carries (st : PState) : Bool := decide (st = .up ∨ st = .degraded)

/-- A port that has entered a state: its packets go back to staging unless it carries or trains. -/
def enteredPort (st : PState) (x : Port) : Port := { (if st.carries || decide (st = .train) then x else restage x) with st := st }

theorem enteredPort_train (x : Port) : enteredPort .train x = { x with st := .train } := by simp [enteredPort]

/-- A port that leaves DOWN and TRAIN has not stayed there (18 R470). -/
def waivedFor (q : Nat) (st : PState) (s : State) : State :=
  { s with boot := { s.boot with
      portWaived := if st = .down ∨ st = .train then s.boot.portWaived else s.boot.portWaived &&& ~~~(1#6 <<< q) } }

/-- A port's entry into a state, before an IDENT goes out. -/
def entered (q : Nat) (st : PState) (s : State) : State :=
  announced q (setPort q (enteredPort st (port s q)) (waivedFor q st s))

theorem enterState_of_ne (h : (port s q).st ≠ st) :
    enterState q st s
      = if st.carries then
          emit (.packet (Fin.ofNat 6 q) localHdr (.ident (ownIdent (entered q st s) (Fin.ofNat 6 q)))) (entered q st s)
        else entered q st s := by
  rw [enterState, if_neg h]
  rfl

theorem port_entered (k : Nat) : port (entered q st s) k = if k = q then enteredPort st (port s q) else port s k := by
  rw [entered, port_announced]
  split
  · next hk => rw [hk, port_setPort_self]
  · next hk =>
    rw [port_setPort_ne _ _ _ _ hk]
    rfl

theorem port_enterState_of_ne (h : (port s q).st ≠ st) (k : Nat) :
    port (enterState q st s) k = if k = q then enteredPort st (port s q) else port s k := by
  rw [enterState_of_ne h, ← port_entered]
  split <;> rfl

theorem boot_enterState (h : (port s q).st ≠ st) : (enterState q st s).boot = (waivedFor q st s).boot := by
  have hb : (entered q st s).boot = (waivedFor q st s).boot := by
    rw [entered, announced_frame]
    rfl
  rw [enterState_of_ne h]
  split <;> exact hb

theorem portMoves_enterState (h : PortMoves q s t) : PortMoves q s (enterState q st t) := by
  refine h.trans ?_
  by_cases hst : (port t q).st = st
  · rw [enterState, if_pos hst]
    exact .refl q t
  · refine ⟨?_, fun k hk => by rw [port_enterState_of_ne hst, if_neg hk]⟩
    have hframe : PortMoves q t (entered q st t) := by
      refine ⟨?_, fun k hk => by rw [port_entered, if_neg hk]⟩
      rw [entered, announced_frame]
      rfl
    rw [enterState_of_ne hst]
    split
    · exact (portMoves_emit hframe).frame
    · exact hframe.frame

/-- What stands at a port that enters a state it is not in or leaves its packets as they are. -/
theorem st_enterState : (port (enterState q st s) q).st = st := by
  by_cases hst : (port s q).st = st
  · rw [enterState, if_pos hst, hst]
  · rw [port_enterState_of_ne hst, if_pos rfl, enteredPort]

theorem ident_enterState : (port (enterState q st s) q).ident = (port s q).ident := by
  by_cases hst : (port s q).st = st
  · rw [enterState, if_pos hst]
  · rw [port_enterState_of_ne hst, if_pos rfl, enteredPort]
    split <;> rfl

/-! ### Training -/

/-- A port's entry into TRAIN changes its state alone; a waiting lane commit takes effect. -/
theorem enterTrain_frame :
    enterTrain q s = { s with lnk := (enterTrain q s).lnk, dev := (enterTrain q s).dev, log := (enterTrain q s).log,
                              out := (enterTrain q s).out, cnt := (enterTrain q s).cnt } := by
  rw [(trains_enterTrain q s).frame]

theorem port_enterTrain (h : (port s q).st ≠ .train) (k : Nat) :
    port (enterTrain q s) k = if k = q then { port s q with st := .train } else port s k := by
  have hsame : ∃ w, (∀ k, port w k = port s k) ∧ enterTrain q s = enterState q .train w := by
    unfold enterTrain
    dsimp only
    split
    · refine ⟨_, ?_, rfl⟩
      exact fun _ => rfl
    · exact ⟨s, fun _ => rfl, rfl⟩
  obtain ⟨w, hw, he⟩ := hsame
  rw [he, port_enterState_of_ne (by rwa [hw]), hw, hw, enteredPort_train]

theorem yields_signalDetect {pol rev : Bool} (hrel : s.boot.relLk = true) (hst : (port s p.val).st = .down) :
    Yields (.signalDetect p pol rev) s fun t =>
      (port t p.val).st = .train ∧ (port t p.val).ident = none ∧ (port t p.val).good = 0xFF#8
      ∧ (port t p.val).polarity = pol ∧ (port t p.val).reversed = rev
      ∧ (∀ q, q ≠ p.val → port t q = port s q)
      ∧ t = { s with lnk := t.lnk, dev := t.dev, log := t.log, out := t.out, cnt := t.cnt } := by
  refine yields_of_ok (if_pos ⟨hrel, hst⟩) ?_
  generalize hx : { port s p.val with good := 0xFF#8, ident := none, polarity := pol, reversed := rev } = x
  have hne : (port (setPort p.val x s) p.val).st ≠ .train := by rw [port_setPort_self, ← hx]; simp [hst]
  have hself : port (enterTrain p.val (setPort p.val x s)) p.val = { x with st := .train } := by
    rw [port_enterTrain hne, if_pos rfl, port_setPort_self]
  refine ⟨?_, ?_, ?_, ?_, ?_, fun q hq => ?_, ?_⟩
  · rw [hself]
  · rw [hself, ← hx]
  · rw [hself, ← hx]
  · rw [hself, ← hx]
  · rw [hself, ← hx]
  · rw [port_enterTrain hne, if_neg hq, port_setPort_ne _ _ _ _ hq]
  · rw [enterTrain_frame]
    rfl

theorem ne_train_of_portUp (h : portUp s q = true) : (port s q).st ≠ .train := by
  intro hst
  rw [portUp, hst] at h
  cases h

theorem yields_laneFailure {k : Fin 8} (hup : portUp s p.val = true) :
    Yields (.laneFailure p k) s fun t =>
      (port t p.val).st = .train ∧ (port t p.val).good = (port s p.val).good &&& ~~~(1#8 <<< k.val)
      ∧ (port t p.val).held = (port s p.val).held ∧ (∀ q, q ≠ p.val → port t q = port s q)
      ∧ t = { s with lnk := t.lnk, dev := t.dev, log := t.log, out := t.out, cnt := t.cnt } := by
  refine yields_of_ok (congrArg ok (if_pos hup)) ?_
  generalize hx : { port s p.val with good := (port s p.val).good &&& ~~~(1#8 <<< k.val) } = x
  have hne : (port (setPort p.val x s) p.val).st ≠ .train := by
    rw [port_setPort_self, ← hx]
    exact ne_train_of_portUp hup
  have hself : port (enterTrain p.val (setPort p.val x s)) p.val = { x with st := .train } := by
    rw [port_enterTrain hne, if_pos rfl, port_setPort_self]
  refine ⟨by rw [hself], by rw [hself, ← hx], by rw [hself, ← hx], fun q hq => ?_, ?_⟩
  · rw [port_enterTrain hne, if_neg hq, port_setPort_ne _ _ _ _ hq]
  · rw [enterTrain_frame]
    rfl

theorem yields_codewordErrorLimit (hup : portUp s p.val = true) :
    Yields (.codewordErrorLimit p) s fun t =>
      (port t p.val).st = .train ∧ (port t p.val).held = (port s p.val).held ∧ (∀ q, q ≠ p.val → port t q = port s q)
      ∧ t = { s with lnk := t.lnk, dev := t.dev, log := t.log, out := t.out, cnt := t.cnt } := by
  have hne := ne_train_of_portUp hup
  refine yields_of_ok (if_pos hup) ⟨?_, ?_, fun q hq => by rw [port_enterTrain hne, if_neg hq], enterTrain_frame⟩
  · rw [port_enterTrain hne, if_pos rfl]
  · rw [port_enterTrain hne, if_pos rfl]

/-! ### Loss of signal -/

theorem checkShips_of_none (h : s.serve.shipsOut = []) : checkShips s = s := by rw [checkShips, h]; rfl

theorem yields_lossOfSignal (hships : s.serve.shipsOut = []) :
    Yields (.lossOfSignal p) s fun t =>
      (port t p.val).st = .down ∧ (∀ q, q ≠ p.val → port t q = port s q)
      ∧ (portUp s p.val = true → (port t p.val).held = [] ∧ (port t p.val).queue = []
          ∧ (port t p.val).restaged = (port s p.val).restaged ++ (port s p.val).held ++ (port s p.val).queue
          ∧ (port t p.val).staged = (port s p.val).staged)
      ∧ t = { s with lnk := t.lnk, log := t.log, out := t.out, cnt := t.cnt } := by
  have hmoves : PortMoves p.val s (enterState p.val .down s) := portMoves_enterState (.refl p.val s)
  have hnone : (enterState p.val .down s).serve.shipsOut = [] := by rw [hmoves.frame]; exact hships
  have hboot : (enterState p.val .down s).boot = s.boot := by
    by_cases hst : (port s p.val).st = .down
    · rw [enterState, if_pos hst]
    · rw [boot_enterState hst]
      simp [waivedFor]
  refine yields_of_ok (congrArg ok (checkShips_of_none hnone)) ⟨st_enterState, hmoves.other, fun hup => ?_, ?_⟩
  · have hst : (port s p.val).st ≠ .down := fun hst => by
      rw [portUp, hst] at hup
      cases hup
    rw [port_enterState_of_ne hst, if_pos rfl]
    exact ⟨rfl, rfl, rfl, rfl⟩
  · have hframe := hmoves.frame
    generalize enterState p.val .down s = u at hframe hboot
    rw [hframe, hboot]

/-! ### The timers -/

theorem yields_identSendTimer (h : (port s p.val).st = .train ∨ (port s p.val).st = .quarantine ∨ (port s p.val).st = .looped) :
    Yields (.identSendTimer p) s fun t =>
      t.out = s.out ++ [.packet p localHdr (.ident (ownIdent s p))] ∧ t = { s with out := t.out } := by
  have hu : execIdentSendTimer p s = ok (emit (.packet p localHdr (.ident (ownIdent s p))) s) := by
    rcases h with h | h | h <;> simp only [execIdentSendTimer, h]
  exact yields_of_ok hu ⟨rfl, rfl⟩

theorem yields_tsyncSendTimer (hup : portUp s p.val = true) :
    Yields (.tsyncSendTimer p) s fun t =>
      (∃ pl : TsyncPl, t.out = s.out ++ [.packet p localHdr (.tsync pl)] ∧ pl.tx = now s ∧ pl.root = s.lnk.root
        ∧ pl.dist = s.lnk.dist)
      ∧ t = { s with out := t.out } :=
  yields_of_ok (if_pos hup) ⟨⟨_, rfl, rfl, rfl, rfl⟩, rfl⟩

/-! ### IDENT -/

/-- The state in which a port has stored an IDENT. -/
def heard (p : PortNo) (pl : IdentPl) (s : State) : State :=
  setPort p.val { port s p.val with ident := some pl, farGood := pl.laneOk } s

theorem portMoves_heard (pl : IdentPl) : PortMoves p.val s (heard p pl s) := portMoves_setPort (.refl p.val s)

/-- An IDENT is judged at a port that is not DOWN; without a shipment under way that is all. -/
theorem yields_ident {h : PktHdr} {pl : IdentPl} {post : State → Prop} (hst : (port s p.val).st ≠ .down)
    (hships : s.serve.shipsOut = []) (hmoves : PortMoves p.val s (judgePort p (heard p pl s)))
    (hp : post (judgePort p (heard p pl s))) : Yields (.ident p h pl) s post := by
  have hnone : (judgePort p (heard p pl s)).serve.shipsOut = [] := by rw [hmoves.frame]; exact hships
  have hu : execIdent p h pl s = ok (judgePort p (heard p pl s)) := by
    rw [execIdent, if_neg hst]
    exact congrArg ok (checkShips_of_none hnone)
  exact yields_of_ok hu hp

theorem port_heard (pl : IdentPl) : port (heard p pl s) p.val = { port s p.val with ident := some pl, farGood := pl.laneOk } :=
  port_setPort_self ..

theorem judgePort_of_own {pl : IdentPl} (hst : (port s p.val).st ≠ .down) (hserial : pl.serial = Config.serial) :
    judgePort p (heard p pl s) = enterState p.val .looped (heard p pl s) := by
  simp only [judgePort, port_heard, if_neg hst, hserial, if_true]

theorem judgePort_of_no_plan {pl : IdentPl} (hst : (port s p.val).st ≠ .down) (hserial : pl.serial ≠ Config.serial)
    (hplan : s.lnk.plan = none) : judgePort p (heard p pl s) = enterState p.val .quarantine (heard p pl s) := by
  have hplan' : (heard p pl s).lnk.plan = none := hplan
  simp only [judgePort, port_heard, if_neg hst, if_neg hserial, hplan']

/-- An IDENT that sends its port to a state in which it does not carry. -/
theorem yields_ident_enters {h : PktHdr} {pl : IdentPl} (hst : (port s p.val).st ≠ .down) (hships : s.serve.shipsOut = [])
    (hj : judgePort p (heard p pl s) = enterState p.val st (heard p pl s)) :
    Yields (.ident p h pl) s fun t =>
      (port t p.val).st = st ∧ (port t p.val).ident = some pl ∧ (∀ q, q ≠ p.val → port t q = port s q)
      ∧ t = { s with lnk := t.lnk, log := t.log, out := t.out, cnt := t.cnt,
                     boot := { s.boot with portWaived := t.boot.portWaived } } := by
  have hmoves : PortMoves p.val s (enterState p.val st (heard p pl s)) := portMoves_enterState (portMoves_heard pl)
  refine yields_ident hst hships (hj ▸ hmoves) ?_
  rw [hj]
  refine ⟨st_enterState, ?_, hmoves.other, ?_⟩
  · rw [ident_enterState, port_heard]
  · have hframe := hmoves.frame
    generalize enterState p.val st (heard p pl s) = u at hframe
    rw [hframe]

/-! ### A port that meets its plan -/

theorem mem_out_sendHeld {o : Out} (h : o ∈ s.out) : o ∈ (sendHeld p s).out :=
  foldl_of_step (P := fun u : State => o ∈ u.out) (g := fun u (x : PktOut) => emit (.packet p x.h x.k) u)
    (fun _ _ hu => List.mem_append_left _ hu) h (port s p.val).held

theorem mem_out_pump {o : Out} {n : Nat} (h : o ∈ s.out) : o ∈ (pump n p s).out := by
  induction n generalizing s with
  | zero => exact h
  | succ n ih =>
    rw [pump]
    split
    · exact h
    · split
      · exact ih (List.mem_append_left _ h)
      · exact h

theorem resumePort_eq (pl : IdentPl) : ∃ x : Port, resumePort p pl s = setPort p.val x s ∧ x.st = (port s p.val).st
    ∧ x.lanes = (port s p.val).lanes ∧ x.first = (port s p.val).first := by
  unfold resumePort
  dsimp only
  split
  · exact ⟨_, rfl, rfl, rfl, rfl⟩
  · exact ⟨_, rfl, rfl, rfl, rfl⟩

/-- Lanes of a port, which its traffic leaves. -/
theorem lanes_of_sends {A : Nat → Prop} (h : Sends A s t) (k : Nat) :
    (port t k).st = (port s k).st ∧ (port t k).lanes = (port s k).lanes ∧ (port t k).first = (port s k).first :=
  ⟨h.st k, show (port t k).still.lanes = (port s k).still.lanes from congrArg Port.lanes (h.still k),
    show (port t k).still.first = (port s k).still.first from congrArg Port.first (h.still k)⟩

theorem lanes_enterState (h : (port s q).st ≠ st) :
    (port (enterState q st s) q).lanes = (port s q).lanes ∧ (port (enterState q st s) q).first = (port s q).first := by
  rw [port_enterState_of_ne h, if_pos rfl, enteredPort]
  split <;> exact ⟨rfl, rfl⟩

/-- A port that joins: on its lanes it resumes, enters its state and sends what it held. -/
def portJoined (p : PortNo) (pl : IdentPl) (n k : Nat) (st : PState) (s : State) : State :=
  sendHeld p (enterState p.val st (resumePort p pl (setPort p.val { port s p.val with lanes := n, first := k } s)))

/-- A training port that joins comes up on its lanes, and sends its own IDENT. -/
theorem portJoined_of_train {n k : Nat} (pl : IdentPl) (hx : (port s p.val).st = .train) (hst : st.carries = true) :
    PortMoves p.val s (portJoined p pl n k st s) ∧ (port (portJoined p pl n k st s) p.val).st = st
      ∧ (port (portJoined p pl n k st s) p.val).lanes = n ∧ (port (portJoined p pl n k st s) p.val).first = k
      ∧ (∃ i, Out.packet p localHdr (.ident i) ∈ (portJoined p pl n k st s).out)
      ∧ (portJoined p pl n k st s).boot.portWaived.getLsbD p.val = false := by
  have hne : st ≠ .down ∧ st ≠ .train := by cases st <;> simp_all [PState.carries]
  obtain ⟨y, hy, hyst, hylanes, hyfirst⟩ :=
    resumePort_eq (p := p) (s := setPort p.val { port s p.val with lanes := n, first := k } s) pl
  rw [port_setPort_self] at hyst hylanes hyfirst
  rw [portJoined, hy]
  have hmoves : PortMoves p.val s (setPort p.val y (setPort p.val { port s p.val with lanes := n, first := k } s)) :=
    portMoves_setPort (portMoves_setPort (.refl p.val s))
  have hself : port (setPort p.val y (setPort p.val { port s p.val with lanes := n, first := k } s)) p.val = y :=
    port_setPort_self ..
  generalize setPort p.val y (setPort p.val { port s p.val with lanes := n, first := k } s) = w at hmoves hself
  have hnew : (port w p.val).st ≠ st := by rw [hself, hyst, hx]; exact hne.2.symm
  have hsends : Sends (· = p.val) (enterState p.val st w) (sendHeld p (enterState p.val st w)) := sends_sendHeld (.refl _ _)
  obtain ⟨hst', hlanes', hfirst'⟩ := lanes_of_sends hsends p.val
  obtain ⟨hlanes, hfirst⟩ := lanes_enterState hnew
  refine ⟨portMoves_of_sends (portMoves_enterState hmoves) hsends, ?_, ?_, ?_, ?_, ?_⟩
  · rw [hst', st_enterState]
  · rw [hlanes', hlanes, hself, hylanes]
  · rw [hfirst', hfirst, hself, hyfirst]
  · refine ⟨ownIdent (entered p.val st w) (Fin.ofNat 6 p.val), mem_out_sendHeld ?_⟩
    rw [enterState_of_ne hnew, if_pos hst, show Fin.ofNat 6 p.val = p from Fin.ext (Nat.mod_eq_of_lt p.isLt)]
    exact List.mem_append_right _ (List.mem_singleton.mpr rfl)
  · have hboot : (sendHeld p (enterState p.val st w)).boot = (enterState p.val st w).boot := by rw [hsends.frame]
    rw [hboot, boot_enterState hnew, waivedFor]
    simp [hne.1, hne.2]

section
variable {h : PktHdr} {pl : IdentPl} {plan : Plan} {e : PlanPort} {g : Nat × Nat} (htrain : (port s p.val).st = .train)
    (hserial : pl.serial ≠ Config.serial) (hplan : s.lnk.plan = some plan) (hentry : planPort s p.val = some e)
    (hen : e.enabled = true) (hrack : pl.rackId = plan.rackId) (hpos : pl.pos = e.far) (hport : pl.port = e.farPort)
    (hgroup : pickGroup (port s p.val).good pl.laneOk (min (lnkLaneOf s p.val).inForce.lanes.toNat e.lanes) = some g)
include htrain hserial hplan hentry hen hrack hpos hport hgroup

theorem judgePort_of_partner :
    judgePort p (heard p pl s)
      = pump (port (portJoined p pl g.1 g.2 (if g.1 < e.lanes then .degraded else .up) (heard p pl s)) p.val).queue.length p
          (portJoined p pl g.1 g.2 (if g.1 < e.lanes then .degraded else .up) (heard p pl s)) := by
  have hplan' : (heard p pl s).lnk.plan = some plan := hplan
  have hentry' : planPort (heard p pl s) p.val = some e := hentry
  have hlane : lnkLaneOf (heard p pl s) p.val = lnkLaneOf s p.val := rfl
  have hdown : (port s p.val).st ≠ .down := by simp [htrain]
  have hup : portUp (heard p pl s) p.val = false := by simp [portUp, port_heard, htrain]
  have hok : ¬(pl.rackId ≠ plan.rackId ∨ pl.pos ≠ e.far ∨ pl.port ≠ e.farPort) := by simp [hrack, hpos, hport]
  simp only [judgePort, port_heard, if_neg hdown, if_neg hserial, hplan', hentry', hen, Bool.not_true, Bool.false_eq_true,
    if_false, if_neg hok, hlane, hgroup, hup, portJoined]

theorem yields_ident_joins (hships : s.serve.shipsOut = []) :
    Yields (.ident p h pl) s fun t =>
      (port t p.val).st = (if g.1 < e.lanes then .degraded else .up) ∧ (port t p.val).lanes = g.1
      ∧ (port t p.val).first = g.2 ∧ (∀ q, q ≠ p.val → port t q = port s q)
      ∧ (∃ x, Out.packet p localHdr (.ident x) ∈ t.out) ∧ t.boot.portWaived.getLsbD p.val = false
      ∧ t = { s with lnk := t.lnk, log := t.log, out := t.out, cnt := t.cnt,
                     boot := { s.boot with portWaived := t.boot.portWaived } } := by
  have hj := judgePort_of_partner htrain hserial hplan hentry hen hrack hpos hport hgroup
  have hcarries : (if g.1 < e.lanes then PState.degraded else .up).carries = true := by split <;> rfl
  generalize (if g.1 < e.lanes then PState.degraded else .up) = st at hj hcarries ⊢
  have hheard : (port (heard p pl s) p.val).st = .train := by rw [port_heard]; exact htrain
  obtain ⟨hmoves, hst, hlanes, hfirst, ⟨i, hi⟩, hwaived⟩ := portJoined_of_train (n := g.1) (k := g.2) pl hheard hcarries
  generalize portJoined p pl g.1 g.2 st (heard p pl s) = w at hj hmoves hst hlanes hfirst hi hwaived
  have hpump : Sends (· = p.val) w (pump (port w p.val).queue.length p w) := sends_pump (.refl _ w)
  obtain ⟨hst', hlanes', hfirst'⟩ := lanes_of_sends hpump p.val
  have hall : PortMoves p.val s (pump (port w p.val).queue.length p w) :=
    portMoves_of_sends ((portMoves_heard pl).trans hmoves) hpump
  refine yields_ident (by simp [htrain]) hships (hj ▸ hall) ?_
  rw [hj]
  refine ⟨hst'.trans hst, hlanes'.trans hlanes, hfirst'.trans hfirst, hall.other, ⟨i, mem_out_pump hi⟩, ?_, ?_⟩
  · rw [hpump.frame]
    exact hwaived
  · have hframe := hall.frame
    generalize pump (port w p.val).queue.length p w = v at hframe
    rw [hframe]
end

/-- Settles O18: what an entry into a state changes, and the entries that signals, failures and IDENT packets cause. -/
theorem portsTrain : Obligations.PortsTrain := by
  refine ⟨?signal, ?loss, ?lane, ?codeword, ?identTimer, ?tsyncTimer, ?own, ?noPlan, ?joins⟩
  case signal => exact fun _ _ _ _ hrel hst => yields_signalDetect hrel hst
  case loss => exact fun _ _ hships => yields_lossOfSignal hships
  case lane => exact fun _ _ _ hup => yields_laneFailure hup
  case codeword => exact fun _ _ hup => yields_codewordErrorLimit hup
  case identTimer => exact fun _ _ h => yields_identSendTimer h
  case tsyncTimer => exact fun _ _ hup => yields_tsyncSendTimer hup
  case own => exact fun _ _ _ _ hst hs hships => yields_ident_enters hst hships (judgePort_of_own hst hs)
  case noPlan => exact fun _ _ _ _ hst hs hp hships => yields_ident_enters hst hships (judgePort_of_no_plan hst hs hp)
  case joins =>
    exact fun _ _ _ _ _ _ _ htrain hships hs hp he hen hr hpos hport hg =>
      yields_ident_joins htrain hs hp he hen hr hpos hport hg hships

end Sys2Proof.Machine
end

section
/-! Link packets: acknowledgement, TSYNC, replay, discard, unknown types and forwarding (15 R397 to R400, R407, R411 to R413). -/

namespace Sys2Proof.Machine

variable {s t u : State} {p q : PortNo} {h : PktHdr}

/-! ### Acknowledgement -/

/-- Sending from a queue adds to what the port holds. -/
theorem held_pump (n : Nat) : ∃ new, (port (pump n p s) p.val).held = (port s p.val).held ++ new := by
  induction n generalizing s with
  | zero => exact ⟨[], (List.append_nil _).symm⟩
  | succ n ih =>
    rw [pump]
    split
    · exact ⟨[], (List.append_nil _).symm⟩
    · next o rest _ =>
      split
      · obtain ⟨new, hnew⟩ := ih (s := sendNow p o (setPort p.val { port s p.val with queue := rest } s))
        have hsent : ∃ y, (port (sendNow p o (setPort p.val { port s p.val with queue := rest } s)) p.val).held
            = (port s p.val).held ++ [y] := by
          unfold sendNow
          dsimp only
          rw [port_setPort_self, countEv, emit]
          exact ⟨_, congrArg Port.held (port_setPort_self ..)⟩
        obtain ⟨y, hy⟩ := hsent
        exact ⟨[y] ++ new, by rw [hnew, hy, List.append_assoc]⟩
      · exact ⟨[], (List.append_nil _).symm⟩

theorem port_sendHeld (k : Nat) : port (sendHeld p s) k = port s k :=
  foldl_of_step (P := fun u : State => port u k = port s k) (g := fun u (x : PktOut) => emit (.packet p x.h x.k) u)
    (fun _ _ hu => hu) rfl (port s p.val).held

theorem out_sendHeld : (sendHeld p s).out = s.out ++ (port s p.val).held.map (fun o => Out.packet p o.h o.k) := by
  rw [sendHeld]
  generalize (port s p.val).held = l
  induction l generalizing s with
  | nil => exact (List.append_nil _).symm
  | cons o l ih =>
    rw [List.foldl_cons, ih, List.map_cons]
    simp [emit]

theorem port_replayFrom :
    port (replayFrom p s) p.val
      = { port s p.val with replays := (port s p.val).replays + 1#32, stalls := (port s p.val).stalls + 1 } := by
  show port (sendHeld p _) p.val = _
  rw [port_sendHeld, port_setPort_self]

theorem held_replayOrTrain (hs : (port s p.val).stalls < 8) :
    (port (replayOrTrain p s) p.val).held = (port s p.val).held := by
  unfold replayOrTrain
  dsimp only
  split
  · rfl
  · rw [if_neg (Nat.not_le.mpr hs), port_replayFrom]

theorem held_takeHeader (hn : h.nack = false ∨ (port s p.val).stalls < 8) :
    ∃ new, (port (takeHeader p h s) p.val).held = (port s p.val).held.filter (fun o => later o.h.seq h.ack) ++ new := by
  rw [takeHeader_eq]
  have hset : port (setPort p.val (headedPort h (port s p.val)) s) p.val = headedPort h (port s p.val) := port_setPort_self ..
  have hheld : (headedPort h (port s p.val)).held = (port s p.val).held.filter (fun o => later o.h.seq h.ack) := rfl
  rw [← hheld]
  split
  · next hnack =>
    have hstalls : (port (setPort p.val (headedPort h (port s p.val)) s) p.val).stalls < 8 := by
      rw [hset]
      exact (stalls_headedPort h _).trans_lt (hn.resolve_left (by simp [hnack]))
    obtain ⟨new, hnew⟩ := held_pump (p := p) (s := replayOrTrain p (setPort p.val (headedPort h (port s p.val)) s))
      (headedPort h (port s p.val)).queue.length
    exact ⟨new, by rw [hnew, held_replayOrTrain hstalls, hset]⟩
  · obtain ⟨new, hnew⟩ := held_pump (p := p) (s := setPort p.val (headedPort h (port s p.val)) s)
      (headedPort h (port s p.val)).queue.length
    exact ⟨new, by rw [hnew, hset]⟩

theorem sends_frame {A : Nat → Prop} (hs : Sends A s t) : t = { s with lnk := t.lnk, out := t.out, cnt := t.cnt } := by
  rw [hs.frame]

theorem yields_lack (hup : portUp s p.val = true) (hn : h.nack = false ∨ (port s p.val).stalls < 8) :
    Yields (.lack p h) s fun t =>
      (∃ new, (port t p.val).held = (port s p.val).held.filter (fun o => later o.h.seq h.ack) ++ new)
      ∧ (port t p.val).rxNext = (port s p.val).rxNext ∧ (∀ q, q ≠ p.val → port t q = port s q)
      ∧ t = { s with lnk := t.lnk, out := t.out, cnt := t.cnt } := by
  have hs : Sends (· = p.val) s (takeHeader p h s) := sends_takeHeader hn
  exact yields_of_ok (if_pos hup) ⟨held_takeHeader hn, hs.rxNext _, fun q hq => hs.other q hq, sends_frame hs⟩

/-! ### TSYNC -/

/-- The state in which a port has taken a TSYNC, and the parent is chosen again where it carries. -/
def tsynced (p : PortNo) (pl : TsyncPl) (s : State) : State :=
  let t := setPort p.val { port s p.val with lastTsync := some (pl, now s), offset := tsyncOffset pl (now s) } s
  if portUp s p.val then chooseParent t else t

theorem tsynced_frame (p : PortNo) (pl : TsyncPl) (s : State) :
    tsynced p pl s = { s with lnk := (tsynced p pl s).lnk } := by
  unfold tsynced
  dsimp only
  split
  · rw [chooseParent_frame]
    rfl
  · rfl

theorem port_tsynced (pl : TsyncPl) (k : Nat) :
    port (tsynced p pl s) k
      = port (setPort p.val { port s p.val with lastTsync := some (pl, now s), offset := tsyncOffset pl (now s) } s) k := by
  unfold tsynced
  dsimp only
  split
  · generalize setPort p.val { port s p.val with lastTsync := some (pl, now s), offset := tsyncOffset pl (now s) } s = v
    rw [port, chooseParent_frame, port]
  · rfl

theorem yields_tsync {pl : TsyncPl} (hst : portUp s p.val = true ∨ (port s p.val).st = .quarantine) :
    Yields (.tsync p h pl) s fun t =>
      (port t p.val).lastTsync = some (pl, now s) ∧ (port t p.val).offset = tsyncOffset pl (now s)
      ∧ (t.lnk.parent = some p → s.boot.fabricReady = true → t.clk.slew = tsyncOffset pl (now s))
      ∧ (t.lnk.parent ≠ some p → t.clk = s.clk)
      ∧ (∀ q, q ≠ p.val → port t q = port s q)
      ∧ t = { s with lnk := t.lnk, clk := t.clk, log := t.log, out := t.out, cnt := t.cnt } := by
  have hok : (!(portUp s p.val || decide ((port s p.val).st = .quarantine))) = false := by
    rcases hst with h | h <;> simp [h]
  have hself := port_tsynced (p := p) (s := s) pl p.val
  have hother (q : Nat) (hq : q ≠ p.val) : port (tsynced p pl s) q = port s q := by
    rw [port_tsynced, port_setPort_ne _ _ _ _ hq]
  rw [port_setPort_self] at hself
  have hframe := tsynced_frame p pl s
  have hexec : exec (.tsync p h pl) s
      = if (tsynced p pl s).lnk.parent ≠ some p then ok (tsynced p pl s)
        else if (tsynced p pl s).boot.fabricReady ∨ (tsynced p pl s).clk.stepped then
          ok { tsynced p pl s with clk := { (tsynced p pl s).clk with slew := tsyncOffset pl (now s) } }
        else
          ok (logDev 0x06 (pstateCode (port s p.val).st) (locOf 4 p.val) (now s).toNat
            (BitVec.ofInt 64 ((now s).toInt + tsyncOffset pl (now s))).toNat
            { tsynced p pl s with clk := { (tsynced p pl s).clk with
                mtb := BitVec.ofInt 64 ((now s).toInt + tsyncOffset pl (now s)), stepped := true, slew := 0 } }) := by
    show execTsync p h pl s = _
    simp only [execTsync, hok, Bool.false_eq_true, if_false]
    rfl
  generalize tsynced p pl s = v at hself hother hframe hexec
  by_cases hpar : v.lnk.parent = some p
  · rw [if_neg (by simpa using hpar)] at hexec
    by_cases hready : v.boot.fabricReady ∨ v.clk.stepped
    · rw [if_pos hready] at hexec
      refine yields_of_ok hexec ⟨?_, ?_, fun _ _ => rfl, fun hno => absurd hpar hno, hother, ?_⟩
      · exact congrArg Port.lastTsync hself
      · exact congrArg Port.offset hself
      · rw [hframe]
    · rw [if_neg hready] at hexec
      have hnot : ¬s.boot.fabricReady = true := fun hs => hready (.inl (by rw [hframe]; exact hs))
      refine yields_of_ok hexec ?_
      rw [logDev, logAs_eq]
      refine ⟨?_, ?_, fun _ hs => absurd hs hnot, fun hno => absurd hpar hno, hother, ?_⟩
      · exact congrArg Port.lastTsync hself
      · exact congrArg Port.offset hself
      · rw [hframe]
  · rw [if_pos hpar] at hexec
    refine yields_of_ok hexec ⟨?_, ?_, fun hno => absurd hno hpar, fun _ => ?_, hother, ?_⟩
    · rw [hself]
    · rw [hself]
    · rw [hframe]
    · rw [hframe]

/-! ### Replay and discard -/

theorem yields_replayTimerExpiry (hup : portUp s p.val = true) (hheld : (port s p.val).held ≠ [])
    (hstalls : (port s p.val).stalls < 8) :
    Yields (.replayTimerExpiry p) s fun t =>
      t.out = s.out ++ (port s p.val).held.map (fun o => Out.packet p o.h o.k)
      ∧ (port t p.val).stalls = (port s p.val).stalls + 1 ∧ (port t p.val).replays = (port s p.val).replays + 1#32
      ∧ (port t p.val).held = (port s p.val).held ∧ t = { s with lnk := t.lnk, out := t.out, cnt := t.cnt } := by
  have hreplay : replayOrTrain p s = replayFrom p s := by
    simp only [replayOrTrain, if_neg hheld, if_neg (Nat.not_le.mpr hstalls)]
  have hu : execReplayTimerExpiry p s = ok (replayFrom p s) := by
    rw [← hreplay]
    exact if_pos ⟨hup, hheld⟩
  refine yields_of_ok hu ⟨?_, ?_, ?_, ?_, sends_frame (sends_replayFrom (p := p) (.refl _ s))⟩
  · show (sendHeld p _).out = _
    rw [out_sendHeld, port_setPort_self]
    rfl
  · rw [port_replayFrom]
  · rw [port_replayFrom]
  · rw [port_replayFrom]

theorem yields_packetDiscard {why : Discard} (hwhy : why ≠ .linkLocalCrc) (hup : portUp s p.val = true)
    (hnack : (port s p.val).nackSent = false) :
    Yields (.packetDiscard p why h) s fun t =>
      (∃ k : PktHdr, t.out = s.out ++ [.packet p k .lack] ∧ k.nack = true ∧ k.ack = (port s p.val).rxNext - 1#32)
      ∧ (port t p.val).nackSent = true ∧ (port t p.val).rxNext = (port s p.val).rxNext
      ∧ t = { s with lnk := t.lnk, out := t.out } := by
  have hdiscard : discard p s = sendLack p true s := if_neg (by simp [hnack])
  have hu : execPacketDiscard p why h s = ok (sendLack p true s) := by
    cases why with
    | linkLocalCrc => exact absurd rfl hwhy
    | _ => simp only [execPacketDiscard, hup, if_true, hdiscard]
  refine yields_of_ok hu ?_
  have hlack := sends_sendLack (nack := true) (.refl (· = p.val) s)
  have hnext := hlack.rxNext p.val
  rw [sendLack] at hnext ⊢
  simp only [hup, if_true] at hnext ⊢
  refine ⟨⟨_, rfl, rfl, rfl⟩, ?_, hnext, rfl⟩
  simp [emit, port, setPort]

/-! ### Unknown types -/

theorem yields_unknownPacket {ty : BitVec 6} {pay : Bool} (hup : portUp s p.val = true)
    (hseq : h.seq = (port s p.val).rxNext) (hn : h.nack = false ∨ (port s p.val).stalls < 8) :
    Yields (.unknownPacket p h ty pay) s fun t =>
      (port t p.val).rxNext = (port s p.val).rxNext + 1#32 ∧ fixedCtr t 7 = satInc (fixedCtr s 7)
      ∧ t = { s with lnk := t.lnk, out := t.out, cnt := t.cnt } := by
  have hhead : Sends (· = p.val) s (takeHeader p h s) := sends_takeHeader hn
  generalize hw : setPort p.val (stepPort (port (takeHeader p h s) p.val)) (takeHeader p h s) = w
  have hrx : (port w p.val).rxNext = (port s p.val).rxNext + 1#32 := by
    rw [← hw, port_setPort_self, stepPort, hhead.rxNext]
  have hwframe : w = { s with lnk := w.lnk, out := w.out, cnt := { s.cnt with cnt := w.cnt.cnt } } := by
    rw [← hw, hhead.frame]
    rfl
  have hlack : Sends (· = p.val) w (sendLack p false w) := sends_sendLack (.refl _ w)
  have htail : Sends (· = p.val) w (if pay then giveBack p h.vc (sendLack p false w) else sendLack p false w) := by
    split
    · exact sends_giveBack hlack
    · exact hlack
  have hu : execUnknownPacket p h ty pay s
      = ok (bump 7 (if pay then giveBack p h.vc (sendLack p false w) else sendLack p false w)) := by
    rw [execUnknownPacket, takeTransport_of_next hup hseq, hw]
    rfl
  generalize (if pay then giveBack p h.vc (sendLack p false w) else sendLack p false w) = v at htail hu
  refine yields_of_ok hu ⟨?_, ?_, ?_⟩
  · exact (htail.rxNext _).trans hrx
  · rw [fixedCtr_bump_self, fixedCtr, htail.frame, hwframe, fixedCtr]
  · rw [bump, htail.frame, hwframe]

/-! ### Forwarding -/

/-- The state in which a staged packet has left its buffer, with the credit it gives back. -/
def unstaged (p : PortNo) (vc : Bool) (o : PktOut) (s : State) : State :=
  let t := notePanic p (setPort p.val { port s p.val with staged := (port s p.val).staged.erase o } s)
  if costs o.k then giveBack p vc t else t

theorem port_setPort (a k : Nat) (x : Port) : port (setPort a x s) k = if k = a then x else port s k := by
  split
  · next hk => rw [hk, port_setPort_self]
  · next hk => rw [port_setPort_ne _ _ _ _ hk]

theorem giveBack_frame (vc : Bool) :
    giveBack p vc s = { s with lnk := { s.lnk with ports := (giveBack p vc s).lnk.ports } } := rfl

theorem notePanic_frame : notePanic p s = { s with lnk := { s.lnk with ports := (notePanic p s).lnk.ports } } := rfl

theorem unstaged_frame (vc : Bool) (o : PktOut) :
    unstaged p vc o s = { s with lnk := { s.lnk with ports := (unstaged p vc o s).lnk.ports } } := by
  have hport : (setPort p.val { port s p.val with staged := (port s p.val).staged.erase o } s)
      = { s with lnk := { s.lnk with ports := (setPort p.val
          { port s p.val with staged := (port s p.val).staged.erase o } s).lnk.ports } } := rfl
  unfold unstaged
  dsimp only
  generalize setPort p.val { port s p.val with staged := (port s p.val).staged.erase o } s = v at hport
  have hpanic := notePanic_frame (p := p) (s := v)
  generalize notePanic p v = w at hpanic
  rw [hport] at hpanic
  split
  · rw [giveBack_frame, hpanic]
  · rw [hpanic]

theorem port_notePanic :
    ∃ pa, ∀ k, port (notePanic p s) k = if k = p.val then { port s p.val with panic := pa } else port s k :=
  ⟨_, fun k => port_setPort p.val k _⟩

theorem port_giveBack (vc : Bool) :
    ∃ b0 b1, ∀ k, port (giveBack p vc s) k = if k = p.val then { port s p.val with back0 := b0, back1 := b1 } else port s k := by
  unfold giveBack
  cases vc
  · exact ⟨_, _, fun k => port_setPort p.val k { port s p.val with back0 := (port s p.val).back0 + 1 }⟩
  · exact ⟨_, _, fun k => port_setPort p.val k { port s p.val with back1 := (port s p.val).back1 + 1 }⟩

/-- The port then: what it sends with is as it was. -/
theorem port_unstaged (vc : Bool) (o : PktOut) :
    ∃ (pa : Bool) (b0 b1 : Nat), ∀ k, port (unstaged p vc o s) k
      = if k = p.val then
          { port s p.val with staged := (port s p.val).staged.erase o, panic := pa, back0 := b0, back1 := b1 }
        else port s k := by
  unfold unstaged
  dsimp only
  obtain ⟨pa, hpa⟩ :=
    port_notePanic (p := p) (s := setPort p.val { port s p.val with staged := (port s p.val).staged.erase o } s)
  simp only [port_setPort, if_true] at hpa
  generalize notePanic p (setPort p.val { port s p.val with staged := (port s p.val).staged.erase o } s) = v at hpa
  split
  · obtain ⟨b0, b1, hb⟩ := port_giveBack (p := p) (s := v) vc
    refine ⟨pa, b0, b1, fun k => ?_⟩
    rw [hb, hpa, hpa, if_pos rfl]
    split <;> rfl
  · refine ⟨pa, (port s p.val).back0, (port s p.val).back1, fun k => ?_⟩
    rw [hpa]
    split <;> rfl

theorem out_sendNow (o : PktOut) :
    (sendNow q o s).out
      = s.out ++ [.packet q { o.h with seq := (port s q.val).txSeq, ack := (port s q.val).rxNext - 1#32, nack := false } o.k] :=
  rfl

/-- At a port with nothing queued, a packet that may go is sent. -/
theorem queueAt_of_empty {o : PktOut} (hq : (port s q.val).queue = []) (hgo : mayGo s q o = true) :
    (queueAt q o s).out
      = s.out ++ [.packet q { o.h with seq := (port s q.val).txSeq, ack := (port s q.val).rxNext - 1#32, nack := false } o.k] := by
  have hgo' : mayGo (setPort q.val { port s q.val with queue := [o] } s) q o = true := by
    rw [mayGo, portUp] at hgo ⊢
    simpa only [port_setPort_self] using hgo
  have hsend : queueAt q o s
      = sendNow q o (setPort q.val { port s q.val with queue := [] } (setPort q.val { port s q.val with queue := [o] } s)) := by
    simp only [queueAt, hq, List.nil_append, pump, port_setPort_self, hgo', if_true, List.length_nil]
  rw [hsend, out_sendNow, port_setPort_self]
  rfl

section
variable {vc : Bool} {o : PktOut} {own : Byte} (hre : (port s p.val).restaged = [])
    (hfind : (port s p.val).staged.find? (fun x => decide (x.h.vc = vc) && forwardable s own x) = some o)
    (hown : ownPos s = some own) (hdst : o.h.dst ≠ own)
include hre hfind hown hdst

theorem yields_packetForward {dt ww : Bool}
    (hroute : routeOf s own.toNat o.h.dst.toNat o.h.detour o.h.wrongWay p.val = some (q.val, dt, ww))
    (hqueue : (port s q.val).queue = [])
    (hgo : mayGo s q { o with h := { o.h with vc := vcOf own.toNat q.val (some p.val) vc } } = true) :
    Yields (.packetForward p vc) s fun t =>
      (∃ k : PktHdr, t.out = s.out ++ [.packet q k o.k] ∧ k.dst = o.h.dst ∧ k.src = o.h.src ∧ k.tag = o.h.tag
        ∧ k.detour = dt ∧ k.wrongWay = ww ∧ k.seq = (port s q.val).txSeq)
      ∧ (port t p.val).staged = (port s p.val).staged.erase o ∧ t = { s with lnk := t.lnk, out := t.out, cnt := t.cnt } := by
  have hq : Fin.ofNat 6 q.val = q := Fin.ext (Nat.mod_eq_of_lt q.isLt)
  have hnone : (port s p.val).restaged.find? (fun o => decide (o.h.vc = vc)) = none := by rw [hre]; rfl
  have hu : execPacketForward p vc s
      = ok (queueAt q { h := { o.h with vc := vcOf own.toNat q.val (some p.val) vc, detour := dt, wrongWay := ww }, k := o.k }
          (unstaged p vc o s)) := by
    simp only [execPacketForward, hown, hnone, hfind, if_neg hdst, hroute, hq, unstaged]
  have hframe := unstaged_frame (p := p) (s := s) vc o
  obtain ⟨pa, b0, b1, hport⟩ := port_unstaged (p := p) (s := s) vc o
  generalize unstaged p vc o s = v at hu hframe hport
  have hsame : (port v q.val).queue = [] ∧ (port v q.val).txSeq = (port s q.val).txSeq
      ∧ mayGo v q { h := { o.h with vc := vcOf own.toNat q.val (some p.val) vc, detour := dt, wrongWay := ww }, k := o.k } = true := by
    rw [mayGo, portUp] at hgo ⊢
    rw [hport]
    split
    · next hqp =>
      rw [hqp] at hqueue hgo ⊢
      exact ⟨hqueue, rfl, hgo⟩
    · exact ⟨hqueue, rfl, hgo⟩
  obtain ⟨hnil, hseq, hmay⟩ := hsame
  have hsends : Sends (· = q.val) v
      (queueAt q { h := { o.h with vc := vcOf own.toNat q.val (some p.val) vc, detour := dt, wrongWay := ww }, k := o.k } v) :=
    sends_queueAt (.refl _ v)
  have hout := queueAt_of_empty hnil hmay
  rw [show v.out = s.out by rw [hframe]] at hout
  refine yields_of_ok hu ⟨⟨_, hout, rfl, rfl, rfl, rfl, rfl, hseq⟩, ?_, ?_⟩
  · have hst : (port _ p.val).still.staged = (port v p.val).still.staged := congrArg Port.staged (hsends.still p.val)
    refine Eq.trans hst ?_
    rw [hport, if_pos rfl]
    rfl
  · rw [sends_frame hsends, hframe]

theorem yields_packetForward_of_no_path (hsrc : o.h.src ≠ own)
    (hroute : routeOf s own.toNat o.h.dst.toNat o.h.detour o.h.wrongWay p.val = none) :
    Yields (.packetForward p vc) s fun t => fixedCtr t 8 = satInc (fixedCtr s 8) ∧ t.bank = s.bank := by
  have hu : execPacketForward p vc s
      = ok (reply o.h.src o.h.tag (.noroute (BitVec.ofNat 6 (pktType o.k))) (bump 8 (unstaged p vc o s))) := by
    have hnone : (port s p.val).restaged.find? (fun o => decide (o.h.vc = vc)) = none := by rw [hre]; rfl
    simp only [execPacketForward, hown, hnone, hfind, if_neg hdst, hroute, noPath, if_neg hsrc, unstaged]
  have hframe := unstaged_frame (p := p) (s := s) vc o
  generalize unstaged p vc o s = v at hu hframe
  have hsends := sends_reply (dst := o.h.src) (tag := o.h.tag) (k := .noroute (BitVec.ofNat 6 (pktType o.k))) rfl (bump 8 v)
  refine yields_of_ok hu ⟨?_, ?_⟩
  · have hctr : fixedCtr v 8 = fixedCtr s 8 := by rw [fixedCtr, hframe, fixedCtr]
    rw [← hctr, ← fixedCtr_bump_self, fixedCtr, hsends.frame, fixedCtr]
  · rw [hsends.frame, bump, hframe]
end

/-- Settles O19: by what each kind of packet does to its port, and what the sends that follow it leave. -/
theorem linkPacketsAreHandled : Obligations.LinkPacketsAreHandled := by
  refine ⟨?lack, ?tsync, ?replay, ?discard, ?unknown, ?forward, ?noPath⟩
  case lack => exact fun _ _ _ hup hn => yields_lack hup hn
  case tsync => exact fun _ _ _ _ hst => yields_tsync hst
  case replay => exact fun _ _ hup hh hs => yields_replayTimerExpiry hup hh hs
  case discard => exact fun _ _ _ _ hw hup hn => yields_packetDiscard hw hup hn
  case unknown => exact fun _ _ _ _ _ hup hseq hn => yields_unknownPacket hup hseq hn
  case forward => exact fun _ _ _ _ _ _ _ _ hre hf ho hd hr hq hg => yields_packetForward hre hf ho hd hr hq hg
  case noPath => exact fun _ _ _ _ _ hre hf ho hd hs hr => yields_packetForward_of_no_path hre hf ho hd hs hr

end Sys2Proof.Machine
end

section
/-! Resets: a VF's FLR, and the warm reset of the whole module (03 R78, R79, R91; 18 R474, R475, Tables 18.4, 18.5). -/

namespace Sys2Proof.Machine

/-! ### Tables in canonical form -/

section
variable {β γ : Type}

theorem tfind_map (g : Nat → β → γ) (t : Tab β) (k : Nat) :
    tfind (t.map (fun p => (p.1, g p.1 p.2))) k = (tfind t k).map (g k) := by
  induction t with
  | nil => rfl
  | cons p t ih =>
    obtain ⟨j, v⟩ := p
    rw [List.map_cons, tfind_cons, tfind_cons]
    split
    · next hj => rw [hj]; rfl
    · exact ih

theorem tfind_eq_none_of_tabove {t : Tab β} {k : Nat} (h : tabove k t) : tfind t k = none := by
  induction t with
  | nil => rfl
  | cons p t ih =>
    have hp : k < p.1 := h p List.mem_cons_self
    rw [tfind_cons, if_neg (by omega)]
    exact ih fun q hq => h q (List.mem_cons_of_mem _ hq)

theorem tfind_of_mem {t : Tab β} {k : Nat} {v : β} (h : trising t = true) (hm : (k, v) ∈ t) : tfind t k = some v := by
  induction t with
  | nil => cases hm
  | cons p t ih =>
    obtain ⟨j, w⟩ := p
    obtain ⟨habove, hrise⟩ := (trising_cons j w t).mp h
    rw [tfind_cons]
    rcases List.mem_cons.mp hm with he | hm
    · cases he
      exact if_pos rfl
    · have hj : j < k := habove (k, v) hm
      rw [if_neg (by omega)]
      exact ih hrise hm

theorem mem_of_tfind {t : Tab β} {k : Nat} {v : β} (h : tfind t k = some v) : (k, v) ∈ t := by
  induction t with
  | nil => cases h
  | cons p t ih =>
    rw [tfind_cons] at h
    split at h
    · next hj => cases h; rw [← hj]; exact List.mem_cons_self
    · exact List.mem_cons_of_mem _ (ih h)

theorem tfind_filter {t : Tab β} (f : Nat × β → Bool) (h : trising t = true) (k : Nat) :
    tfind (t.filter f) k = (tfind t k).filter (fun v => f (k, v)) := by
  induction t with
  | nil => rfl
  | cons p t ih =>
    obtain ⟨j, w⟩ := p
    obtain ⟨habove, hrise⟩ := (trising_cons j w t).mp h
    have hnone : j = k → tfind (t.filter f) k = none := fun hj =>
      tfind_eq_none_of_tabove fun q hq => hj ▸ habove q (List.mem_of_mem_filter hq)
    by_cases hj : j = k
    · subst hj
      cases hf : f (j, w)
      · rw [List.filter_cons_of_neg (by simp [hf]), hnone rfl, tfind_cons, if_pos rfl]
        simp [Option.filter, hf]
      · rw [List.filter_cons_of_pos hf, tfind_cons, tfind_cons, if_pos rfl, if_pos rfl]
        simp [Option.filter, hf]
    · rw [tfind_cons, if_neg hj, ← ih hrise]
      cases hf : f (j, w)
      · rw [List.filter_cons_of_neg (by simp [hf])]
      · rw [List.filter_cons_of_pos hf, tfind_cons, if_neg hj]

/-- A table of every function's values. -/
theorem tget_map_range (z : β) (g : Nat → β) {n k : Nat} (hk : k < n) :
    tget z ((List.range n).map (fun i => (i, g i))) k = g k := by
  have hfind : ∀ l : List Nat, k ∈ l → tfind (l.map (fun i => (i, g i))) k = some (g k) := by
    intro l hl
    induction l with
    | nil => cases hl
    | cons j l ih =>
      rw [List.map_cons, tfind_cons]
      split
      · next hj => rw [hj]
      · next hj => exact ih ((List.mem_cons.mp hl).resolve_left (fun h => hj h.symm))
  rw [tget, hfind _ (List.mem_range.mpr hk)]
  rfl
end

variable {s t u : State} {f : Func} {p : Place} {d : Desc}

/-! ### The banks at a warm reset -/

/-- What the steps on the grains, the banks and the Marl leave alone. -/
def offBanks (s : State) : Log × Serve × KeepSt × Fw × List Nat := (s.log, s.serve, s.keep, s.fw, s.bank.mappedOut)

theorem offBanks_eq (hl : t.log = s.log) (hs : t.serve = s.serve) (hk : t.keep = s.keep) (hf : t.fw = s.fw)
    (hb : t.bank.mappedOut = s.bank.mappedOut) : offBanks t = offBanks s := by
  rw [offBanks, hl, hs, hk, hf, hb, offBanks]

theorem offBanks_foldl {α : Type} {g : State → α → State} (hg : ∀ u a, offBanks (g u a) = offBanks u) (l : List α) (s : State) :
    offBanks (l.foldl g s) = offBanks s :=
  foldl_keeps offBanks g hg l s

theorem mappedOut_setDie (i : Nat) (x : DieSt) : (setDie i x s).bank.mappedOut = s.bank.mappedOut := rfl

theorem mappedOut_setGrain (g : Nat) (x : Grain) : (setGrain g x s).bank.mappedOut = s.bank.mappedOut := rfl

theorem mappedOut_haltGrain (g : Nat) : (haltGrain g s).bank.mappedOut = s.bank.mappedOut := by
  unfold haltGrain
  split
  · rw [closeRows, mappedOut_setDie, stopGrain]
    dsimp only
    split
    · rw [takeFree_bank, mappedOut_setDie, mappedOut_setGrain, mappedOut_setGrain]
    · rw [mappedOut_setDie, mappedOut_setGrain, mappedOut_setGrain]
  · rfl

theorem offBanks_haltGrain (g : Nat) : offBanks (haltGrain g s) = offBanks s := by
  refine offBanks_eq ?_ ?_ ?_ ?_ ?_
  · simp
  · simp
  · simp
  · simp
  · exact mappedOut_haltGrain g

theorem offBanks_haltGrains : offBanks (haltGrains s) = offBanks s := offBanks_foldl (fun _ _ => offBanks_haltGrain _) _ s

theorem offBanks_storeUnit (ws : List Nat) (data : Wide) (mask : BitVec 128) (poison : Bool) :
    offBanks (storeUnit ws data mask poison s) = offBanks s := by
  refine offBanks_foldl (fun u d => ?_) _ s
  rfl

theorem offBanks_writeUnit (c r bank row col : Nat) (data : Wide) (mask : BitVec 128) (poison : Bool) :
    offBanks (writeUnit c r bank row col data mask poison s) = offBanks s := by
  unfold writeUnit
  dsimp only
  rw [offBanks_storeUnit]
  split
  · exact offBanks_eq (by simp) (by simp) (by simp) (by simp) (by simp)
  · exact offBanks_eq (by simp) (by simp) (by simp) (by simp) (by simp)

theorem offBanks_putUnit (l : Loc) (data : Wide) (mask : BitVec 128) (poison : Bool) :
    offBanks (putUnit l data mask poison s) = offBanks s := by
  unfold putUnit
  dsimp only
  split
  · exact offBanks_writeUnit ..
  · rfl

theorem offBanks_writeWords (xs : List WordWrite) : offBanks (writeWords xs s) = offBanks s := by
  refine offBanks_foldl (fun u i => ?_) _ s
  split
  · rfl
  · dsimp only
    split
    · rfl
    · exact offBanks_putUnit ..

theorem offBanks_writeBackAll (ws : List Nat) : offBanks (writeBackAll ws s) = offBanks s := by
  rw [writeBackAll, writeBackWords]
  dsimp only
  rw [offBanks_writeWords]
  refine offBanks_foldl (fun u w => ?_) _ s
  rfl

theorem offBanks_drainBcs : offBanks (drainBcs s) = offBanks s := by
  refine offBanks_foldl (fun u c => ?_) _ s
  unfold drainBc
  dsimp only
  rw [offBanks_foldl (fun _ _ => offBanks_writeUnit ..)]
  rfl

theorem offBanks_warmBanks : offBanks (warmBanks s) = offBanks s := by
  have hdrain : offBanks (drainBcs (writeBackAll (passWords s) (haltGrains s))) = offBanks s := by
    rw [offBanks_drainBcs, offBanks_writeBackAll, offBanks_haltGrains]
  rw [← hdrain, warmBanks]
  generalize drainBcs (writeBackAll (passWords s) (haltGrains s)) = u
  rfl

theorem marl_warmBanks : (warmBanks s).marl.copies = [] ∧ (warmBanks s).marl.regions = [] := by
  rw [warmBanks]
  generalize drainBcs (writeBackAll (passWords s) (haltGrains s)) = u
  exact ⟨rfl, rfl⟩

/-- The pages of ended PAGE_RETURNs are cleared, and nothing else moves. -/
theorem offBanks_finishReturns :
    (finishReturns s).log = s.log ∧ (finishReturns s).serve.pages = s.serve.pages ∧ (finishReturns s).keep = s.keep
      ∧ (finishReturns s).fw = s.fw ∧ (finishReturns s).bank.mappedOut = s.bank.mappedOut
      ∧ (s.marl.copies = [] → (finishReturns s).marl.copies = []) ∧ (finishReturns s).marl.regions = s.marl.regions := by
  have hstep : ∀ (u : State) (pg : Nat),
      u.log = s.log ∧ u.serve = s.serve ∧ u.keep = s.keep ∧ u.fw = s.fw ∧ u.bank.mappedOut = s.bank.mappedOut
        ∧ (s.marl.copies = [] → u.marl.copies = []) ∧ u.marl.regions = s.marl.regions →
      (clearPage pg u).log = s.log ∧ (clearPage pg u).serve = s.serve ∧ (clearPage pg u).keep = s.keep
        ∧ (clearPage pg u).fw = s.fw ∧ (clearPage pg u).bank.mappedOut = s.bank.mappedOut
        ∧ (s.marl.copies = [] → (clearPage pg u).marl.copies = []) ∧ (clearPage pg u).marl.regions = s.marl.regions := by
    intro u pg ⟨hl, hs, hk, hf, hb, hc, hr⟩
    exact ⟨hl, hs, hk, hf, hb, fun h => by simp [clearPage, hc h], hr⟩
  obtain ⟨hl, hs, hk, hf, hb, hc, hr⟩ := foldl_of_step
    (P := fun u : State => u.log = s.log ∧ u.serve = s.serve ∧ u.keep = s.keep ∧ u.fw = s.fw
      ∧ u.bank.mappedOut = s.bank.mappedOut ∧ (s.marl.copies = [] → u.marl.copies = []) ∧ u.marl.regions = s.marl.regions)
    (g := fun u pg => if isFenced u (pg / 4096 / 128) (pg / 4096 / 64 % 2) then u else clearPage pg u)
    (fun u pg hu => by
      split
      · exact hu
      · exact hstep u pg hu) ⟨rfl, rfl, rfl, rfl, rfl, id, rfl⟩ (s.serve.clearing.map (fun p => p.1))
  have hpages := congrArg Serve.pages hs
  exact ⟨hl, hpages, hk, hf, hb, hc, hr⟩

/-! ### The warm reset -/

/-- The tenant windows in force stand, and what was staged is gone (18 Table 18.5). -/
theorem tenOf_warm {h : HubRegs} (hten : trising h.ten = true) (n : Nat) :
    tget (Ten.reset n) h.warm.ten n = (tget (Ten.reset n) h.ten n).discard := by
  have hwarm : h.warm.ten
      = (h.ten.filter (fun p => decide (p.2.discard ≠ Ten.reset p.1))).map (fun p => (p.1, p.2.discard)) :=
    List.filter_map
  have hmap := tfind_map (fun _ (v : Pair Ten) => v.discard) (h.ten.filter (fun p => decide (p.2.discard ≠ Ten.reset p.1))) n
  rw [hwarm, tget, hmap, tfind_filter _ hten, tget]
  cases tfind h.ten n with
  | none => rfl
  | some v =>
    by_cases hv : v.discard = Ten.reset n
    · simp [Option.filter, hv]
    · simp [Option.filter, hv]

/-- The state of a ready module after its warm reset. -/
def warmed (s : State) : State :=
  setPhase 0x0A#8 0 { warmClear s with boot := { (warmClear s).boot with
    mediaReady := false, fabricReady := false, relHost := false, relMarl := false, relBc := 0#16, relSeq := false,
    relLay := false, relMx := 0#4, relLk := false, portWaived := 0#6 } }

theorem warmable_iff : warmable s = true ↔
    mayWarm s = true ∧ s.boot.relHost = true ∧ s.boot.mediaReady = true ∧ s.boot.phase ≠ 0x0A#8 ∧ trising s.hub.ten = true := by
  simp [warmable, and_assoc]

theorem warmReset_of_warmable (h : warmable s = true) : warmReset s = warmed s := by
  obtain ⟨hmay, hhost, hmedia, hphase, -⟩ := warmable_iff.mp h
  simp only [warmReset, hmay, hhost, hmedia, decide_eq_false hphase, Bool.not_true, Bool.or_self, Bool.false_eq_true, if_false,
    if_true]
  rfl

/-- What the pass over the grains, the banks and the pages leaves of the state that a warm reset keeps. -/
theorem kept_of_warmed :
    (warmed s).log = s.log ∧ (warmed s).serve.pages = s.serve.pages ∧ (warmed s).keep = s.keep ∧ (warmed s).fw = s.fw
      ∧ (warmed s).bank.mappedOut = s.bank.mappedOut ∧ (warmed s).marl.copies = [] ∧ (warmed s).marl.regions = [] := by
  obtain ⟨hl, hs, hk, hf, hb, hc, hr⟩ := offBanks_finishReturns (s := warmBanks s)
  obtain ⟨hcopies, hregions⟩ := marl_warmBanks (s := s)
  have hoff := offBanks_warmBanks (s := s)
  simp only [offBanks, Prod.mk.injEq] at hoff
  obtain ⟨hl', hs', hk', hf', hb'⟩ := hoff
  unfold warmed warmClear
  generalize finishReturns (warmBanks s) = v at hl hs hk hf hb hc hr ⊢
  exact ⟨hl.trans hl', hs.trans (congrArg Serve.pages hs'), hk.trans hk', hf.trans hf', hb.trans hb', hc hcopies,
    hr.trans hregions⟩

theorem ring_warmed : ring (warmed s) f = warmRing (ring s f) :=
  tget_map_range Ring.reset (fun n => warmRing (tget Ring.reset s.rings n)) f.isLt

theorem mem_warmSignals (h : (ring s f).needResync = false) : Out.msix f 1 ∈ (warmed s).out := by
  refine List.mem_append_right _ (List.mem_map.mpr ⟨f.val, List.mem_filter.mpr ⟨List.mem_range.mpr f.isLt, ?_⟩, ?_⟩)
  · exact congrArg Bool.not h
  · exact congrArg (Out.msix · 1) (Fin.ext (Nat.mod_eq_of_lt f.isLt))

theorem warmReset_warmed (hten : trising s.hub.ten = true) : WarmReset s (warmed s) := by
  obtain ⟨-, hpages, hkeep, hfw, hout, hcopies, hregions⟩ := kept_of_warmed (s := s)
  refine ⟨rfl, rfl, rfl, rfl, fun f => ?_, rfl, rfl, rfl, rfl, hcopies, hregions, fun _ => rfl, rfl, rfl, fun n => ?_, rfl,
    hpages, hkeep, hfw, hout⟩
  · rw [ring_warmed]
    exact ⟨rfl, rfl, rfl, rfl, rfl, rfl, mem_warmSignals⟩
  · have hten' : tenOf (warmed s) n = (tenOf s n).discard := tenOf_warm hten n
    rw [hten']
    exact ⟨rfl, rfl⟩

theorem warmReset_of (h : warmable s = true) : WarmReset s (warmReset s) := by
  rw [warmReset_of_warmable h]
  exact warmReset_warmed (warmable_iff.mp h).2.2.2.2

/-- A warm reset of a state that only logged something and lost a link or a key is one of the state before. -/
theorem warmReset_of_logged {v : State} {c : Cxl} (h : warmable s = true)
    (hv : v = { s with cxl := c, out := v.out, log := v.log, cnt := v.cnt }) :
    WarmReset s (warmReset v) ∧ (warmReset v).log = v.log ∧ (warmReset v).cxl = (warmed v).cxl := by
  have hwarm : warmable v = true := by
    rw [← h, hv]
    rfl
  have hreset := warmReset_of hwarm
  refine ⟨?_, ?_, ?_⟩
  · have hring (f : Func) : ring v f = ring s f := by rw [ring, hv, ring]
    have hten (n : Nat) : tenOf v n = tenOf s n := by rw [tenOf, hv, tenOf]
    have hplan : v.lnk = s.lnk := by rw [hv]
    have hserve : v.serve = s.serve := by rw [hv]
    have hkeep : v.keep = s.keep := by rw [hv]
    have hfw : v.fw = s.fw := by rw [hv]
    have hbank : v.bank = s.bank := by rw [hv]
    simpa only [WarmReset, hring, hten, hplan, hserve, hkeep, hfw, hbank] using hreset
  · rw [warmReset_of_warmable hwarm]
    exact kept_of_warmed.1
  · rw [warmReset_of_warmable hwarm]

theorem yields_hubResetWrite {v : U64} (h : warmable s = true) (hbit : bitAt v.toNat 0 = true) :
    Yields (.hubResetWrite v) s (WarmReset s) := by
  have hhost : hostUp s = true := (warmable_iff.mp h).2.1
  have hmod : v.toNat % 18446744073709551616 = v.toNat := Nat.mod_eq_of_lt v.isLt
  have hu : execHubResetWrite v s = ok (warmReset s) := by
    simp [execHubResetWrite, barWrite, hhost, regStaged, regRo, blockUp, applyWrite, isCommit, mergedWord, hmod, hbit]
  exact yields_of_ok hu (warmReset_of h)

theorem yields_cxlLinkLoss (h : warmable s = true) (hup : s.cxl.up = true) :
    Yields .cxlLinkLoss s fun t => WarmReset s t ∧ Logged 0x03 0x31 s t := by
  have hu : execCxlLinkLoss s = ok (warmReset (logDev 0x03 0x31 (locOf 0 0) 0 0 { s with cxl := { s.cxl with up := false } })) :=
    if_pos hup
  obtain ⟨hreset, hlog, -⟩ := warmReset_of_logged (v := logDev 0x03 0x31 (locOf 0 0) 0 0 { s with cxl := { s.cxl with up := false } })
    (c := { s.cxl with up := false }) h (logAs_eq ..)
  refine yields_of_ok hu ⟨hreset, ?_⟩
  rw [Logged, hlog]
  exact logged_logAs _ _ _ _ _ _ _ rfl rfl

theorem yields_ideIntegrityFailure {mem : Bool} (h : warmable s = true)
    (hkey : (if mem then s.cxl.ideMem else s.cxl.ideIo).key.isSome = true) :
    Yields (.ideIntegrityFailure mem) s fun t =>
      WarmReset s t ∧ Logged 0x03 0x32 s t ∧ (if mem then t.cxl.ideMem else t.cxl.ideIo) = { Ide.reset with failed := true }
      ∧ (if mem then t.cxl.ideIo else t.cxl.ideMem).failed = (if mem then s.cxl.ideIo else s.cxl.ideMem).failed
      ∧ t.cxl.ideIo.key = none ∧ t.cxl.ideMem.key = none := by
  generalize hc : (if mem then { s.cxl with ideMem := { Ide.reset with failed := true } }
    else { s.cxl with ideIo := { Ide.reset with failed := true } }) = c
  have hu : execIdeIntegrityFailure mem s = ok (warmReset (logDev 0x03 0x32 (locOf 0 0) 0 0 { s with cxl := c })) := by
    rw [execIdeIntegrityFailure, if_pos hkey, ← hc]
  have hv := logAs_eq (s := { s with cxl := c }) (cls := 0x03) (cd := 0x32) (loc := locOf 0 0) (func := 0xFF#8) (master := 3)
    (d0 := 0) (d1 := 0)
  obtain ⟨hreset, hlog, hcxl⟩ := warmReset_of_logged (v := logDev 0x03 0x32 (locOf 0 0) 0 0 { s with cxl := c }) (c := c) h
    (logAs_eq ..)
  have hkept : (logDev 0x03 0x32 (locOf 0 0) 0 0 { s with cxl := c }).cxl = c := by rw [logDev, logAs_eq]
  have hlogged : Logged 0x03 0x32 s (logDev 0x03 0x32 (locOf 0 0) 0 0 { s with cxl := c }) :=
    logged_logAs _ _ _ _ _ _ _ rfl rfl
  generalize logDev 0x03 0x32 (locOf 0 0) 0 0 { s with cxl := c } = v at *
  have hio : (warmed v).cxl.ideIo = { Ide.reset with failed := v.cxl.ideIo.failed } := rfl
  have hmem : (warmed v).cxl.ideMem = { Ide.reset with failed := v.cxl.ideMem.failed } := rfl
  refine yields_of_ok hu ⟨hreset, by rw [Logged, hlog]; exact hlogged, ?_⟩
  rw [hcxl, hio, hmem, hkept, ← hc]
  cases mem
  · exact ⟨rfl, rfl, rfl, rfl⟩
  · exact ⟨rfl, rfl, rfl, rfl⟩

theorem yields_flrPf (h : warmable s = true) : Yields .flrPf s (WarmReset s) :=
  yields_of_ok (congrArg ok (if_pos (warmable_iff.mp h).2.1)) (warmReset_of h)

/-! ### FLR of a VF -/

/-- From s to t the rings and the ownership of pages stand. -/
structure Rests (s t : State) : Prop where
  rings : t.rings = s.rings
  pages : t.serve.pages = s.serve.pages

namespace Rests

theorem refl (s : State) : Rests s s := ⟨rfl, rfl⟩

theorem of_fields (h : Rests s t) (hr : u.rings = t.rings) (hp : u.serve.pages = t.serve.pages) : Rests s u :=
  ⟨hr.trans h.rings, hp.trans h.pages⟩

theorem of_serve (h : Rests s t) (hr : u.rings = t.rings) (hp : u.serve = t.serve) : Rests s u :=
  h.of_fields hr (congrArg Serve.pages hp)

theorem foldl {α : Type} {g : State → α → State} (hg : ∀ u a, Rests s u → Rests s (g u a)) (l : List α) (h : Rests s t) :
    Rests s (l.foldl g t) :=
  foldl_of_step (P := fun u : State => Rests s u) hg h l

end Rests

theorem rests_endDesc (st : Status) (n : Nat) (h : Rests s t) : Rests s (endDesc p st n t) := by
  refine h.of_serve ?_ ?_ <;> rw [endDesc_frame]

theorem rests_addCond (st : Status) (h : Rests s t) : Rests s (addCond p st t) := by
  refine h.of_serve ?_ ?_ <;> rw [addCond_frame]

theorem rests_stopCtx (x : CtxNo) (h : Rests s t) : Rests s (stopCtx x t) := h.of_serve (by simp) (by simp)

theorem rests_cancelRows (h : Rests s t) : Rests s (cancelRows p t).1 := by
  unfold cancelRows
  split
  · exact h
  · exact h.of_fields rfl rfl

theorem rests_releasePlace (h : Rests s t) : Rests s (releasePlace p t) := by
  refine Rests.foldl (fun u r hu => ?_) _ h
  unfold releaseRegion
  split
  · exact hu.of_fields rfl rfl
  · split
    · exact hu.of_fields rfl rfl
    · exact hu

/-- Ending a descriptor by its commit point touches neither. -/
theorem rests_cancelDesc (h : Rests s t) : Rests s (cancelDesc p t).1 := by
  unfold cancelDesc
  dsimp only
  split
  · exact h.of_fields rfl rfl
  · split
    · exact h
    · split
      · exact h
      · split
        · exact rests_endDesc _ _ h
        · split
          · exact rests_endDesc _ _ (rests_cancelRows h)
          · exact rests_endDesc _ _ h
        · split
          · split
            · split
              · exact rests_stopCtx _ (rests_addCond _ (rests_cancelRows h))
              · exact rests_addCond _ h
            · exact rests_stopCtx _ (rests_addCond _ h)
          · split
            · exact rests_endDesc _ _ h
            · split
              · split
                · exact rests_addCond _ h
                · exact rests_endDesc _ _ (rests_releasePlace (h.of_fields rfl rfl))
              · exact rests_addCond _ h
        · split
          · exact rests_addCond _ h
          · exact rests_addCond _ h
        · exact h.of_fields rfl rfl

theorem rests_flrCancel : Rests s (flrCancel f s) := by
  unfold flrCancel
  dsimp only
  refine Rests.foldl (fun u q hu => ?_) _ ?_
  · exact hu.of_fields rfl rfl
  refine Rests.foldl (fun u q hu => ?_) _ (Rests.foldl (fun u q hu => rests_cancelDesc hu) _ (.refl s))
  split
  · exact hu.of_fields rfl rfl
  · exact hu

theorem rests_flrSync (h : Rests s t) : Rests s (flrSync f t) := by
  unfold flrSync
  dsimp only
  split
  · exact h.of_serve (by simp) (by simp)
  · exact h.of_fields rfl rfl

theorem rests_endFlr (h : Rests s t) : Rests s (endFlr f t) := by
  unfold endFlr
  split
  · unfold clearTagged emit
    dsimp only
    have hclear : Rests s (((t.serve.clearing.filter (fun c => decide (c.2 = 1025 + f.val))).map (fun c => c.1)).foldl
        (fun u pg => if isFenced u (pg / 4096 / 128) (pg / 4096 / 64 % 2) then u else clearPage pg u)
        { t with cxl := { t.cxl with flrs := terase t.cxl.flrs f.val } }) := by
      refine Rests.foldl (fun u pg hu => ?_) _ (h.of_fields rfl rfl)
      split
      · exact hu
      · exact hu.of_fields rfl rfl
    exact hclear.of_fields rfl rfl
  · exact h

/-! The ownership of a function's pages. -/

/-- The pages of a function. -/
def pagesOf (f : Func) (s : State) : List Nat := (s.serve.pages.filter (fun p => decide (p.2 = f.val + 1))).map (fun p => p.1)

theorem mem_pagesOf (h : trising s.serve.pages = true) (g : Nat) : g ∈ pagesOf f s ↔ pageOwner s g = f.val + 1 := by
  simp only [pagesOf, List.mem_map, List.mem_filter, decide_eq_true_eq]
  constructor
  · rintro ⟨⟨k, v⟩, ⟨hm, hv⟩, hk⟩
    subst hk
    rw [pageOwner, tget, tfind_of_mem h hm, Option.getD_some]
    exact hv
  · intro ho
    rw [pageOwner, tget] at ho
    cases hfind : tfind s.serve.pages g with
    | none => rw [hfind] at ho; cases ho
    | some v =>
      rw [hfind, Option.getD_some] at ho
      exact ⟨(g, v), ⟨mem_of_tfind hfind, ho⟩, rfl⟩

theorem pageOwner_foldl_setPageOwner (l : List Nat) (o g : Nat) :
    pageOwner (l.foldl (fun u pg => setPageOwner pg o u) s) g = if g ∈ l then o else pageOwner s g := by
  induction l generalizing s with
  | nil => simp
  | cons k l ih =>
    rw [List.foldl_cons, ih]
    by_cases hl : g ∈ l
    · simp [hl]
    · rw [if_neg hl]
      by_cases hk : g = k
      · subst hk
        simp [pageOwner, setPageOwner]
      · rw [if_neg (by simp [hl, hk]), pageOwner, setPageOwner, tget_tset_ne _ _ _ _ _ hk, pageOwner]

theorem rings_flrPages : (flrPages f s).rings = s.rings :=
  foldl_keeps State.rings (fun u pg => setPageOwner pg 0 u) (fun _ _ => rfl) (pagesOf f s) s

theorem pageOwner_flrPages (h : trising s.serve.pages = true) (g : Nat) :
    pageOwner (flrPages f s) g = if pageOwner s g = f.val + 1 then 0 else pageOwner s g := by
  have hfold : pageOwner (flrPages f s) g = pageOwner ((pagesOf f s).foldl (fun u pg => setPageOwner pg 0 u) s) g := rfl
  rw [hfold, pageOwner_foldl_setPageOwner]
  simp only [mem_pagesOf h]

theorem ring_emit (o : Out) (g : Func) : ring (emit o s) g = ring s g := rfl

/-! The ring of an FLR's function before its work ends. -/

theorem ring_needResync_ne {g : Func} (hother : g ≠ f) : ring (needResync f s) g = ring s g := by
  unfold needResync
  dsimp only
  split
  · rfl
  · rw [msix, ring_emit, ring_setRing_ne _ _ _ _ hother]

theorem ring_disableRing_ne {g : Func} (hother : g ≠ f) : ring (disableRing f s) g = ring s g := by
  unfold disableRing dropFetched
  dsimp only
  rw [ring_setRing_ne _ _ _ _ hother, ring_setRing_ne _ _ _ _ hother]
  rfl

theorem enable_disableRing : (ring (disableRing f s) f).enable = false := by
  unfold disableRing
  dsimp only
  rw [ring_setRing_self]

theorem ring_needResync_self :
    (ring (needResync f s) f).enable = (ring s f).enable ∧ (ring (needResync f s) f).needResync = true := by
  unfold needResync
  dsimp only
  split
  · next hn => exact ⟨rfl, hn⟩
  · rw [msix, ring_emit, ring_setRing_self]
    exact ⟨rfl, rfl⟩

theorem serve_needResync : (needResync f s).serve = s.serve := by
  unfold needResync
  dsimp only
  split
  · rfl
  · rw [msix, emit, setRing]

theorem serve_disableRing : (disableRing f s).serve = s.serve := by
  unfold disableRing dropFetched
  dsimp only
  rw [setRing, setRing]

theorem yields_flrVf (hf : f.val ≠ 0) (hphase : s.boot.phase ≠ 0x0A#8) (hhost : s.boot.relHost = true)
    (hrise : trising s.serve.pages = true) :
    Yields (.flrVf f) s fun t =>
      (ring t f).enable = false ∧ (ring t f).needResync = true ∧ (ring t f).built = [] ∧ OtherRings f s t
      ∧ (∀ g, pageOwner s g = f.val + 1 → pageOwner t g = 0)
      ∧ (∀ g, pageOwner s g ≠ f.val + 1 → pageOwner t g = pageOwner s g) := by
  obtain ⟨hen, hneed⟩ := ring_needResync_self (f := f) (s := disableRing f s)
  rw [enable_disableRing] at hen
  have hother (g : Func) (hg : g ≠ f) : ring (needResync f (disableRing f s)) g = ring s g := by
    rw [ring_needResync_ne hg, ring_disableRing_ne hg]
  have hserve : (needResync f (disableRing f s)).serve = s.serve := by rw [serve_needResync, serve_disableRing]
  have hhost' : (!hostUp s) = false := by rw [hostUp, hhost]; rfl
  generalize hv : needResync f (disableRing f s) = v at hen hneed hother hserve
  have hcancel := rests_flrCancel (f := f) (s := v)
  generalize hw : flrCancel f v = w at hcancel
  have hringw (g : Func) : ring w g = ring v g := by rw [ring, hcancel.rings, ring]
  generalize hx : setRing f { ring w f with built := [], lastBuilt := (ring w f).lastDsn } w = x
  have hringx : ring x f = { ring w f with built := [], lastBuilt := (ring w f).lastDsn } := by rw [← hx, ring_setRing_self]
  have hpagesx : x.serve.pages = s.serve.pages := by rw [← hx]; exact hcancel.pages.trans (congrArg Serve.pages hserve)
  have hownerx (g : Nat) : pageOwner x g = pageOwner s g := by rw [pageOwner, hpagesx, pageOwner]
  generalize hy : flrSync f (flrPages f x) = y
  have hsync : Rests (flrPages f x) y := hy ▸ rests_flrSync (.refl _)
  have hu : exec (.flrVf f) s = ok (noteOrder (pfOrder (.ring f) .flr 0#32)
      (endFlr f { y with cxl := { y.cxl with flrs := tput y.cxl.flrs f.val (now y) } })) := by
    show execFlrVf f s = _
    simp only [execFlrVf, if_neg hf, if_neg hphase, hhost', Bool.false_eq_true, if_false, hv, hw, hx, hy]
  have hall : Rests (flrPages f x) (endFlr f { y with cxl := { y.cxl with flrs := tput y.cxl.flrs f.val (now y) } }) :=
    rests_endFlr (hsync.of_fields rfl rfl)
  generalize endFlr f { y with cxl := { y.cxl with flrs := tput y.cxl.flrs f.val (now y) } } = z at hu hall
  have hring (g : Func) : ring (noteOrder (pfOrder (.ring f) .flr 0#32) z) g = ring x g := by
    show ring z g = ring x g
    rw [ring, hall.rings, rings_flrPages, ring]
  have howner (g : Nat) : pageOwner (noteOrder (pfOrder (.ring f) .flr 0#32) z) g
      = if pageOwner s g = f.val + 1 then 0 else pageOwner s g := by
    show pageOwner z g = _
    rw [← hownerx, ← pageOwner_flrPages (by rw [hpagesx]; exact hrise), pageOwner, hall.pages, pageOwner]
  refine yields_of_ok hu ⟨?_, ?_, ?_, fun g hg => ?_, fun g hg => ?_, fun g hg => ?_⟩
  · rw [hring, hringx, hringw]
    exact hen
  · rw [hring, hringx, hringw]
    exact hneed
  · rw [hring, hringx]
  · rw [hring, ← hx, ring_setRing_ne _ _ _ _ hg, hringw, hother g hg]
  · rw [howner, if_pos hg]
  · rw [howner, if_neg hg]

/-! ### The time limit of an FLR -/

theorem addStatus_addStatus (st : Status) (l : List Status) : addStatus st (addStatus st l) = addStatus st l := by
  by_cases h : st = .done
  · rw [h, addStatus_done, addStatus_done]
  · exact if_pos (.inr (mem_addStatus h))

/-- Hub-handled work with no grain command left ends with WATCHDOG. -/
theorem endRunning_of_idle (hd : desc s p = some d) (hst : d.stage = .running) (hctx : d.ctx = none)
    (hop : opcodeOf d.words ≠ 0x51) (hbcs : s.ctl.bcs = []) :
    (∃ e, desc (endRunning p s) p = some e ∧ e.stage = .ended ∧ e.conds = addStatus .watchdog d.conds)
      ∧ (endRunning p s).bank = s.bank := by
  generalize hv : dropP1 p { s with serve := { s.serve with shipsOut := terase s.serve.shipsOut p.val } } = v
  have hbank : v.bank = s.bank := by rw [← hv]; simp
  have hp1 (c : Nat) : (bc v c).p1 = [] := by
    have hb : v.ctl.bcs = [] := by
      rw [← hv, dropP1]
      dsimp only
      split <;> simp [hbcs]
    rw [bc, hb]
    rfl
  have hleft : d.prog.ranks.filter (fun n => (bc v (n / 4)).p1.any (fun k => decide (k.place = some p ∧ k.rank = n % 4))) = [] := by
    simp [hp1]
  have hend : endRunning p s = endDesc p .watchdog 0
      (setDesc p { d with prog := { d.prog with ranks := [] }, conds := addStatus .watchdog d.conds } v) := by
    simp only [endRunning, hd, hst, hctx, hop, hv, hleft, Option.isNone_none, ne_eq, not_false_eq_true, and_self, if_true]
  rw [hend, endDesc_eq (desc_setDesc_self ..)]
  exact ⟨⟨_, desc_setDesc_self .., rfl, addStatus_addStatus ..⟩, hbank⟩

theorem yields_flrWorkTimeout {w : U64} (hw : tfind s.cxl.flrs f.val = some w) (hlate : w.toNat + 50000000 ≤ (now s).toNat)
    (hplaces : s.places = [(p.val, d)]) (hqueues : s.seq.queues = []) (hbcs : s.ctl.bcs = []) (hfunc : d.func = f)
    (hdis : d.discard = true) (hst : d.stage = .running) (hctx : d.ctx = none) (hop : opcodeOf d.words ≠ 0x51) :
    Yields (.flrWorkTimeout f) s fun t =>
      (∃ e, desc t p = some e ∧ e.stage = .ended ∧ e.conds = addStatus .watchdog d.conds) ∧ t.bank = s.bank := by
  have hholds (q : Nat) : holdsWork s f q = false := by
    rw [holdsWork, queue, hqueues]
    rfl
  have hp1 (c : Nat) : (bc s c).p1 = [] := by
    rw [bc, hbcs]
    rfl
  have hmx : (List.range 4).foldl
      (fun s' n => if holdsWork s' f n || holdsWork s' f (4 + n) then resetMx n s' else s') s = s :=
    List.foldl_fixed' (fun n => by simp [hholds]) _
  have hly : (List.range 2).foldl (fun s' n => if holdsWork s' f (8 + n) then resetLy n s' else s') s = s :=
    List.foldl_fixed' (fun n => by simp [hholds]) _
  have hbc : (List.range 16).foldl (fun s' c => ((bc s' c).p1.filter (fun k => k.issued && decide (k.func = f))).foldl
      (fun s'' k => haltP1 c k s'') s') s = s :=
    List.foldl_fixed' (fun c => by simp [hp1]) _
  have hmine : placesOf (s.places.filter (fun q => decide (q.2.func = f) && q.2.discard)) = [p] := by
    rw [hplaces]
    simp [placesOf, hfunc, hdis, p.isLt]
  have hu : exec (.flrWorkTimeout f) s = ok (endRunning p s) := by
    show execFlrWorkTimeout f s = _
    simp only [execFlrWorkTimeout, hw, if_neg (Nat.not_lt.mpr hlate), hmx, hly, hbc, hmine]
    rfl
  have hd : desc s p = some d := by rw [desc, hplaces, tfind_cons, if_pos rfl]
  exact yields_of_ok hu (endRunning_of_idle hd hst hctx hop hbcs)

/-- Settles O20: an FLR ends its function's work and gives its pages back; each warm cause leads to one warm reset. -/
theorem resetsEndWork : Obligations.ResetsEndWork := by
  refine ⟨?flr, ?timeout, ?conventional, ?pf, ?hub, ?loss, ?ide⟩
  case flr => exact fun _ _ hf hp hh hr => yields_flrVf hf hp hh hr
  case timeout =>
    exact fun _ _ _ _ _ hw hl hp hq hb hf hd hst hc hop => yields_flrWorkTimeout hw hl hp hq hb hf hd hst hc hop
  case conventional => exact fun _ h => yields_of_ok rfl (warmReset_of h)
  case pf => exact fun _ h => yields_flrPf h
  case hub => exact fun _ _ h hbit => yields_hubResetWrite h hbit
  case loss => exact fun _ h hup => yields_cxlLinkLoss h hup
  case ide => exact fun _ _ h hk => yields_ideIntegrityFailure h hk

end Sys2Proof.Machine
end

section
/-! The host's side: HDM decoders, CXL.mem, the link's training and CDAT (03 R43, R60, R63, R67 to R72). -/

namespace Sys2Proof.Machine

variable {s t u : State} {hpa : U64} {a : Nat}

/-! ### HDM decoders -/

theorem yields_hdmDecoderCommit {k : Fin 2} {v : HdmSetting} (hhost : s.boot.relHost = true)
    (hopen : (if k.val = 0 then s.cxl.hdm0 else s.cxl.hdm1).committed = false) :
    Yields (.hdmDecoderCommit k v) s fun t =>
      (let h := if k.val = 0 then t.cxl.hdm0 else t.cxl.hdm1
       h.set = v ∧ h.committed = hdmOk s k v ∧ h.error = !(hdmOk s k v))
      ∧ (if k.val = 0 then t.cxl.hdm1 = { s.cxl.hdm1 with committed := s.cxl.hdm1.committed && hdmOk s k v }
        else t.cxl.hdm0 = s.cxl.hdm0)
      ∧ t = { s with cxl := t.cxl } := by
  have hgo : ¬(!hostUp s || ((if k.val = 0 then s.cxl.hdm0 else s.cxl.hdm1).committed
      && (if k.val = 0 then s.cxl.hdm0 else s.cxl.hdm1).set.lock)) = true := by
    rw [hopen, hostUp, hhost, Bool.false_and]
    decide
  refine yields_of_ok (if_neg hgo) ?_
  by_cases hk : k.val = 0
  · simp only [hk, if_true, and_self]
  · simp only [hk, if_false, and_self]

theorem hdmDecoderCommit_of_locked {k : Fin 2} {v : HdmSetting}
    (hcom : (if k.val = 0 then s.cxl.hdm0 else s.cxl.hdm1).committed = true)
    (hlock : (if k.val = 0 then s.cxl.hdm0 else s.cxl.hdm1).set.lock = true) : exec (.hdmDecoderCommit k v) s = .next s :=
  if_pos (by rw [hcom, hlock, Bool.and_self, Bool.or_true])

/-! ### Reads -/

theorem noteRead_frame (c r bank row col : Nat) (ws : List Nat) :
    noteRead c r bank row col ws s
      = { s with cnt := (noteRead c r bank row col ws s).cnt, ctl := (noteRead c r bank row col ws s).ctl } := by
  unfold noteRead noteCorrected countEv
  dsimp only
  repeat' split
  all_goals rfl

theorem noteLineRead_frame (ws : List Nat) :
    noteLineRead ws s = { s with cnt := (noteLineRead ws s).cnt, ctl := (noteLineRead ws s).ctl } := by
  unfold noteLineRead
  split
  · rw [noteRead_frame]
  · rfl

section
variable (hup : s.cxl.up = true)
include hup

theorem yields_cxlMemRead (hmap : hpaMap s hpa = some a) (hserved : memServed s = true)
    (hpop : isUnpop s (lineRank s false (a / 64)).1 (lineRank s false (a / 64)).2 = false)
    (hfen : isFenced s (lineRank s false (a / 64)).1 (lineRank s false (a / 64)).2 = false)
    (hwait : readWaits s (lineWords s false (a / 64)) = false) :
    Yields (.cxlMemRead hpa) s fun t =>
      t.out = s.out ++ [.memData hpa (marlLine s (lineWords s false (a / 64))).1 (marlLine s (lineWords s false (a / 64))).2]
      ∧ t.bank = s.bank ∧ t.marl = s.marl ∧ t = { s with out := t.out, cnt := t.cnt, ctl := t.ctl } := by
  have hu : execCxlMemRead hpa s = ok (emit (.memData hpa (marlLine s (lineWords s false (a / 64))).1
      (marlLine s (lineWords s false (a / 64))).2) (noteLineRead (lineWords s false (a / 64)) s)) := by
    simp only [execCxlMemRead, hup, hserved, hmap, hpop, hfen, hwait, Bool.not_true, Bool.or_self, Bool.false_eq_true, if_false]
  refine yields_of_ok hu ?_
  have hframe := noteLineRead_frame (s := s) (lineWords s false (a / 64))
  generalize noteLineRead (lineWords s false (a / 64)) s = v at hframe
  rw [hframe]
  exact ⟨rfl, rfl, rfl, rfl⟩

theorem cxlMemRead_of_waiting (hmap : hpaMap s hpa = some a) (hserved : memServed s = true)
    (hpop : isUnpop s (lineRank s false (a / 64)).1 (lineRank s false (a / 64)).2 = false)
    (hfen : isFenced s (lineRank s false (a / 64)).1 (lineRank s false (a / 64)).2 = false)
    (hwait : readWaits s (lineWords s false (a / 64)) = true) : exec (.cxlMemRead hpa) s = .next s := by
  show execCxlMemRead hpa s = ok s
  simp only [execCxlMemRead, hup, hserved, hmap, hpop, hfen, hwait, Bool.not_true, Bool.or_self, Bool.false_eq_true, if_false,
    if_true]

theorem yields_cxlMemRead_of_unserved (hserved : memServed s = false) :
    Yields (.cxlMemRead hpa) s fun t =>
      (∃ d, t.out = s.out ++ [.memData hpa d true]) ∧ t = { s with out := t.out, freeCtr := t.freeCtr } := by
  have hu : execCxlMemRead hpa s = ok (poisonAnswer hpa s) := by
    simp only [execCxlMemRead, hup, hserved, Bool.not_true, Bool.not_false, Bool.false_eq_true, if_false, if_true]
  exact yields_of_ok hu ⟨⟨_, rfl⟩, rfl⟩

theorem yields_cxlMemRead_of_unmapped (hserved : memServed s = true) (hmap : hpaMap s hpa = none) :
    Yields (.cxlMemRead hpa) s fun t =>
      (∃ d po, t.out = s.out ++ [.memData hpa d po]) ∧ t = { s with out := t.out, freeCtr := t.freeCtr } := by
  have hu : execCxlMemRead hpa s = ok (strayAnswer hpa s) := by
    simp only [execCxlMemRead, hup, hserved, hmap, Bool.not_true, Bool.false_eq_true, if_false]
  exact yields_of_ok hu ⟨⟨_, _, rfl⟩, rfl⟩

/-! ### Writes -/

variable {data : Line} {mask : BitVec 64}

theorem yields_cxlMemWrite_of_unmapped (hserved : memServed s = true) (hmap : hpaMap s hpa = none) :
    Yields (.cxlMemWrite hpa data mask) s fun t => t.out = s.out ++ [.memDone hpa] ∧ t = { s with out := t.out } := by
  have hu : execCxlMemWrite hpa data mask s = ok (emit (.memDone hpa) s) := by
    simp only [execCxlMemWrite, hup, hserved, hmap, Bool.not_true, Bool.false_eq_true, if_false]
  exact yields_of_ok hu ⟨rfl, rfl⟩

theorem yields_cxlMemWrite_of_unserved (hserved : memServed s = false) :
    Yields (.cxlMemWrite hpa data mask) s fun t => t.out = s.out ++ [.memDone hpa] ∧ t = { s with out := t.out } := by
  have hu : execCxlMemWrite hpa data mask s = ok (emit (.memDone hpa) s) := by
    simp only [execCxlMemWrite, hup, hserved, Bool.not_true, Bool.not_false, Bool.false_eq_true, if_false, if_true]
  exact yields_of_ok hu ⟨rfl, rfl⟩

theorem yields_cxlMemWrite_of_keep (hmap : hpaMap s hpa = some a) (hserved : memServed s = true) (hkeep : inKeep s a = true) :
    Yields (.cxlMemWrite hpa data mask) s fun t =>
      t.out = s.out ++ [.memDone hpa] ∧ fixedCtr t 2 = satInc (fixedCtr s 2) ∧ t = { s with out := t.out, cnt := t.cnt } := by
  have hu : execCxlMemWrite hpa data mask s = ok (emit (.memDone hpa) (bump 2 s)) := by
    simp only [execCxlMemWrite, hup, hserved, hmap, hkeep, Bool.not_true, Bool.false_eq_true, if_false, if_true]
  exact yields_of_ok hu ⟨rfl, fixedCtr_bump_self 2, rfl⟩

end

/-- The bytes that a line's commit writes stand in the copies of its words. -/
theorem byte_commitLine {v w : Nat} {data : Line} {mask : BitVec 64} {poison : Bool} {k b : Nat} (hv : bindingOf s v = none)
    (hw : bindingOf s w = none) (hvw : v ≠ w) (hk : k < 2) (hb : b < 32) (hmask : mask.getLsbD (32 * k + b) = true) :
    ∃ c, copyOf (commitLine [v, w] data mask poison s) ([v, w].getD k 0) = some c ∧ c.mask.getLsbD b = true
      ∧ c.data.extractLsb' (8 * b) 8 = data.extractLsb' (256 * k + 8 * b) 8 := by
  have hbit : (mask.extractLsb' (32 * k) 32).getLsbD b = true := by simp [hb, hmask]
  have hne : mask.extractLsb' (32 * k) 32 ≠ 0#32 := fun h0 => by
    rw [h0] at hbit
    simp at hbit
  have hbyte : (data.extractLsb' (256 * k) 256).extractLsb' (8 * b) 8 = data.extractLsb' (256 * k + 8 * b) 8 := by
    ext j hj
    have hin : 8 * b + j < 256 := by omega
    simp [hin, Nat.add_assoc]
  have hfst : Copies [v] s (commitCol v (data.extractLsb' 0 256) (mask.extractLsb' 0 32) poison
      (decide (mask = BitVec.allOnes 64)) s) := copies_commitCol hv
  have hw' := (hfst.bindingOf w).trans hw
  simp only [commitLine, List.getD_cons_zero, List.getD_cons_succ]
  obtain rfl | rfl : k = 0 ∨ k = 1 := by omega
  · obtain ⟨hm, hd⟩ := byte_mergedCopy (s := s) (w := v) (d := data.extractLsb' 0 256) (mask := mask.extractLsb' 0 32)
      (poison := poison) (whole := decide (mask = BitVec.allOnes 64)) hb hbit
    exact ⟨_, ((copies_commitCol hw').other v (by simpa using hvw)).trans (copyOf_commitCol hv hne), hm, hd.trans hbyte⟩
  · generalize commitCol v (data.extractLsb' 0 256) (mask.extractLsb' 0 32) poison (decide (mask = BitVec.allOnes 64)) s = u
      at hw'
    obtain ⟨hm, hd⟩ := byte_mergedCopy (s := u) (w := w) (d := data.extractLsb' 256 256) (mask := mask.extractLsb' 32 32)
      (poison := poison) (whole := decide (mask = BitVec.allOnes 64)) hb hbit
    exact ⟨_, copyOf_commitCol hw' hne, hm, hd.trans hbyte⟩

theorem yields_cxlMemWrite {data : Line} {mask : BitVec 64} (hup : s.cxl.up = true) (hmap : hpaMap s hpa = some a)
    (hserved : memServed s = true) (hkeep : inKeep s a = false)
    (hpop : isUnpop s (lineRank s false (a / 64)).1 (lineRank s false (a / 64)).2 = false)
    (hfen : isFenced s (lineRank s false (a / 64)).1 (lineRank s false (a / 64)).2 = false)
    (hnodup : (lineWords s false (a / 64)).Nodup) (hfree : ∀ w ∈ lineWords s false (a / 64), bindingOf s w = none)
    (hheld : storeHeld s (lineRank s false (a / 64)).1 (lineRank s false (a / 64)).2 (lineWords s false (a / 64)) = false)
    (hchange : (lineWords s false (a / 64)).any (fun w => (bc s (wordLoc w).c).changing) = false) :
    Yields (.cxlMemWrite hpa data mask) s fun t =>
      (∀ k < 2, ∀ b < 32, mask.getLsbD (32 * k + b) = true →
        ∃ c, copyOf t ((lineWords s false (a / 64)).getD k 0) = some c ∧ c.mask.getLsbD b = true
          ∧ c.data.extractLsb' (8 * b) 8 = data.extractLsb' (256 * k + 8 * b) 8)
      ∧ (∀ w, w ∉ lineWords s false (a / 64) → copyOf t w = copyOf s w) ∧ t.out = s.out ++ [.memDone hpa]
      ∧ t = { s with marl := { s.marl with copies := t.marl.copies }, out := t.out } := by
  have hu : execCxlMemWrite hpa data mask s
      = ok (emit (.memDone hpa) (commitLine (lineWords s false (a / 64)) data mask false s)) := by
    simp only [execCxlMemWrite, hup, hserved, hmap, hkeep, hpop, hfen, hheld, hchange, Bool.not_true, Bool.or_self,
      Bool.false_eq_true, if_false]
  refine yields_of_ok hu ?_
  obtain ⟨v, w, hvw⟩ := lineWords_eq s false (a / 64)
  rw [hvw] at hnodup hfree ⊢
  have hv := hfree v (by simp)
  have hw := hfree w (by simp)
  have hcop := copies_commitLine (d := data) (mask := mask) (poison := false) hv hw
  refine ⟨fun k hk b hb hm => byte_commitLine hv hw (by simpa using hnodup) hk hb hm, fun x hx => hcop.other x hx, ?_, ?_⟩
  · rw [emit, hcop.frame]
  · rw [emit, hcop.frame]

/-! ### The link and CDAT -/

theorem yields_cxlLinkUp {n r : Nat} {fl : Bool} (hhost : s.boot.relHost = true) (hperst : s.cxl.perst = false)
    (hn : n = 16 ∨ n = 8) (hr : r = 64 ∨ r = 32 ∨ r = 16) :
    Yields (.cxlLinkUp n r fl) s fun t =>
      t.cxl.up = true ∧ t.cxl.lanes = n ∧ t.cxl.flit256 = fl ∧ t.cxl.rate = (if r = 64 ∧ fl = false then 32 else r)
      ∧ t = { s with cxl := { s.cxl with up := true, lanes := n, rate := t.cxl.rate, flit256 := fl } } := by
  have hboot : { s.boot with relHost := true } = s.boot := by rw [← hhost]
  have hu : execCxlLinkUp n r fl s
      = ok { s with cxl := { s.cxl with up := true, lanes := n, flit256 := fl, rate := if r = 64 ∧ fl = false then 32 else r } } := by
    rw [execCxlLinkUp, if_pos (by simp [hostUp, hhost, hperst, hn, hr]), hboot]
  exact yields_of_ok hu ⟨rfl, rfl, rfl, rfl, rfl⟩

/-- Settles O21: each access by what the link, the decoders and the ranks let it do. -/
theorem hostReachesMemory : Obligations.HostReachesMemory := by
  refine ⟨?commit, ?locked, ?read, ?waits, ?poison, ?stray, ?write, ?keep, ?dropped, ?perst, ?linkUp, ?cdat⟩
  case commit => exact fun _ _ _ hh ho => yields_hdmDecoderCommit hh ho
  case locked => exact fun _ _ _ hc hl => hdmDecoderCommit_of_locked hc hl
  case read => exact fun _ _ _ hup hm hs hp hf hw => yields_cxlMemRead hup hm hs hp hf hw
  case waits => exact fun _ _ _ hup hm hs hp hf hw => cxlMemRead_of_waiting hup hm hs hp hf hw
  case poison => exact fun _ _ hup hs => yields_cxlMemRead_of_unserved hup hs
  case stray =>
    exact fun _ _ hup hs hm =>
      ⟨yields_cxlMemRead_of_unmapped hup hs hm, fun _ _ => yields_cxlMemWrite_of_unmapped hup hs hm⟩
  case write =>
    exact fun _ _ _ _ _ hup hm hs hk hp hf hnd hfree hheld hc => yields_cxlMemWrite hup hm hs hk hp hf hnd hfree hheld hc
  case keep => exact fun _ _ _ _ _ hup hm hs hk => yields_cxlMemWrite_of_keep hup hm hs hk
  case dropped => exact fun _ _ _ _ hup hs => yields_cxlMemWrite_of_unserved hup hs
  case perst => exact fun _ => yields_of_ok rfl rfl
  case linkUp => exact fun _ _ _ _ hh hp hn hr => yields_cxlLinkUp hh hp hn hr
  case cdat => exact fun _ hup => yields_of_ok (if_pos hup) ⟨rfl, rfl⟩

end Sys2Proof.Machine
end

section
/-! The mailbox commands that report events, the persistent fault log, health and poison (19 R491, 18 R481, 08 R230). -/

namespace Sys2Proof.Machine

variable {s : State} {path : MbPath}

theorem yields_getEventRecords (log : EvLog) (n : Nat) (ha : mbAnswers path .health s = true) :
    Yields (.getEventRecords path log n) s fun t =>
      Replied path .success 0 ((oldestEntries s log (min 31 n)).flatMap entryBytes) s t
      ∧ t.log.events.map (fun e => { e with seen := true }) = s.log.events.map (fun e => { e with seen := true })
      ∧ t.log.seq = s.log.seq ∧ t.log.plog = s.log.plog ∧ t = { s with out := t.out, cxl := t.cxl, log := t.log } := by
  refine yields_of_mbRun (show exec _ s = execGetEventRecords path log n s from rfl) ha ?_
  refine ⟨replied_mbReply rfl rfl, ?_, ?_⟩
  · simp only [mbReply_keeps, List.map_map]
    refine List.map_congr_left fun e _ => ?_
    rw [Function.comp_apply]
    split <;> rfl
  · cases path <;> exact ⟨rfl, rfl, rfl⟩

theorem yields_clearEventRecords (log : EvLog) (hs : List U16) (ha : mbAnswers path .health s = true) :
    Yields (.clearEventRecords path log hs) s fun t =>
      Replied path .success 0 [] s t
      ∧ (∀ e, e ∈ t.log.events ↔ e ∈ s.log.events ∧ ¬(evLogOf e = log ∧ e.seq ∈ hs))
      ∧ t.log.seq = s.log.seq ∧ t.log.plog = s.log.plog ∧ t = { s with out := t.out, cxl := t.cxl, log := t.log } := by
  refine yields_of_mbRun (show exec _ s = execClearEventRecords path log hs s from rfl) ha ?_
  refine ⟨replied_mbReply rfl rfl, fun e => ?_, ?_⟩
  · simp only [mbReply_keeps, List.mem_filter, Bool.not_eq_true', Bool.and_eq_false_iff, decide_eq_false_iff_not, not_and_or]
  · cases path <;> exact ⟨rfl, rfl, rfl⟩

theorem yields_getLog {i : Nat} (ha : mbAnswers path .health s = true) (hi : i ≤ s.log.plog.length) :
    Yields (.getLog path i) s fun t =>
      Replied path .success 0 (((s.log.plog.drop i).take 170).flatMap plogBytes) s t ∧ t = { s with out := t.out, cxl := t.cxl } :=
  yields_mbReply (show exec _ s = execGetLog path i s from rfl) ha (if_neg (Nat.not_lt.mpr hi))

theorem yields_getPoisonList (ha : mbAnswers path .other s = true) :
    Yields (.getPoisonList path) s fun t =>
      (∃ b, Replied path .success 0 (b :: leBytes 2 (min 254 (poisonUnits s).dedup.length)
        ++ ((poisonUnits s).dedup.take 254).flatMap (fun a => leBytes 8 a ++ leBytes 4 2)) s t)
      ∧ t = { s with out := t.out, cxl := t.cxl } := by
  refine (yields_mbReply (show exec _ s = execGetPoisonList path s from rfl) ha rfl).imp fun t ⟨hr, ht⟩ => ?_
  rw [List.length_take] at hr
  exact ⟨⟨_, hr⟩, ht⟩

/-- Settles O22: each report is one answer, and the two commands on the event records move their marks and the records alone. -/
theorem mailboxReportsTheLogs : Obligations.MailboxReportsTheLogs := by
  refine ⟨?get, ?clear, ?log, ?supported, ?health, ?poison⟩
  case get => exact fun _ _ log n ha => yields_getEventRecords log n ha
  case clear => exact fun _ _ log hs ha => yields_clearEventRecords log hs ha
  case log => exact fun _ _ _ ha hi => yields_getLog ha hi
  case supported =>
    intro s path ha
    refine (yields_mbFree (path := path) (k := .health) (named := []) rfl ha rfl).imp fun t ⟨hr, ht⟩ => ?_
    exact ⟨⟨_, hr⟩, ht⟩
  case health =>
    intro s path ha
    refine (yields_mbFree (path := path) (k := .health) (named := []) rfl ha rfl).imp fun t ⟨hr, ht⟩ => ?_
    exact ⟨⟨_, hr⟩, ht⟩
  case poison => exact fun _ _ ha => yields_getPoisonList ha

end Sys2Proof.Machine
end

section
/-! SPDM over DOE and IDE key management (03 R79, R80; the order of the requests and the codes: log entry 9). -/

namespace Sys2Proof.Machine

variable {s : State} {i : Instr} {before : Bool} {act : State → State} {post : State → Prop}

/-- A request in order over a link that is up is answered. -/
theorem yields_spdm (hi : exec i s = spdmRun before act s) (hup : s.cxl.up = true) (hb : before = true) (hp : post (act s)) :
    Yields i s post :=
  yields_of_ok (hi.trans (by rw [spdmRun, hup, hb]; rfl)) hp

theorem yields_getCapabilities_early {fl : U32} (hup : s.cxl.up = true) (hv : s.spdm.version = false) :
    Yields (.getCapabilities fl) s fun t => t.out = s.out ++ [.doe [0x7F#64, 0x04#64] []] ∧ t = { s with out := t.out } := by
  have hu : execGetCapabilities fl s = ok (doeError 0x04 s) := by rw [execGetCapabilities, spdmRun, hup, hv]; rfl
  exact yields_of_ok hu ⟨rfl, rfl⟩

theorem yields_getCertificate {o n : Nat} (hup : s.cxl.up = true) (ha : s.spdm.algs = true) :
    Yields (.getCertificate 0 o n) s fun t =>
      (∃ w b, t.out = s.out ++ [.doe (0x02#64 :: w) b]) ∧ t = { s with out := t.out, freeCtr := s.freeCtr + 1 } :=
  yields_spdm (show exec _ s = execGetCertificate 0 o n s from rfl) hup ha ⟨⟨_, _, rfl⟩, rfl⟩

theorem yields_challenge {nonce : BitVec 256} (hup : s.cxl.up = true) (ha : s.spdm.algs = true) :
    Yields (.challenge 0 nonce) s fun t =>
      (∃ w b, t.out = s.out ++ [.doe (0x03#64 :: w) (leBytes 32 nonce.toNat ++ b)])
      ∧ t = { s with out := t.out, freeCtr := s.freeCtr + 1 } :=
  yields_spdm (show exec _ s = execChallenge 0 nonce s from rfl) hup ha ⟨⟨_, _, rfl⟩, rfl⟩

theorem yields_getMeasurements {k : Nat} (hup : s.cxl.up = true) (ha : s.spdm.algs = true) (hlo : 1 ≤ k) (hhi : k ≤ 5) :
    Yields (.getMeasurements k) s fun t =>
      t.out = s.out ++ [.doe [0x60#64, 1#64] (measured s k)] ∧ t = { s with out := t.out, freeCtr := s.freeCtr + 1 } := by
  refine yields_spdm (show exec _ s = execGetMeasurements k s from rfl) hup ha ?_
  rw [if_neg (by omega), if_pos hhi]
  exact ⟨rfl, rfl⟩

/-- A handshake that verifies opens the session; one that does not leaves what stood. -/
theorem yields_finish {b : List Byte} (hup : s.cxl.up = true) (he : s.spdm.exchanged = true) :
    Yields (.finish b) s fun t =>
      t.spdm = { s.spdm with exchanged := false, session := Config.spdmFinishOk s.freeCtr b || s.spdm.session }
      ∧ t = { s with out := t.out, spdm := t.spdm, freeCtr := s.freeCtr + 1 } := by
  refine yields_spdm (show exec _ s = execFinish b s from rfl) hup he ?_
  cases hok : Config.spdmFinishOk s.freeCtr b
  · rw [if_neg Bool.false_ne_true]
    exact ⟨rfl, rfl⟩
  · rw [if_pos rfl]
    exact ⟨rfl, rfl⟩

theorem yields_ideKm {mem skid : Bool} {key : BitVec 256} (hup : s.cxl.up = true) (hs : s.spdm.session = true) :
    Yields (.ideKm mem skid key) s fun t =>
      t.cxl = (if mem then { s.cxl with ideMem := { key := some key, skid := skid, failed := false } }
        else { s.cxl with ideIo := { key := some key, skid := false, failed := false } })
      ∧ t = { s with out := t.out, cxl := t.cxl } := by
  have hu : execIdeKm mem skid key s = ok (doe [0x66, bitIf mem 0] [] { s with
      cxl := if mem then { s.cxl with ideMem := { key := some key, skid := mem && skid, failed := false } }
        else { s.cxl with ideIo := { key := some key, skid := mem && skid, failed := false } } }) := by
    simp only [execIdeKm, spdmRun, hup, hs]
    rfl
  refine yields_of_ok hu ?_
  cases mem
  · exact ⟨rfl, rfl⟩
  · exact ⟨rfl, rfl⟩

/-- Settles O25: each request in its order moves one step of the session, and its answer is the only other effect. -/
theorem spdmSessionsKeyTheLink : Obligations.SpdmSessionsKeyTheLink := by
  refine ⟨?version, ?caps, ?early, ?algs, ?digests, ?cert, ?challenge, ?measure, ?exchange, ?finish, ?close, ?ide⟩
  case version => exact fun s hup => yields_spdm (show exec _ s = execGetVersion s from rfl) hup rfl ⟨rfl, rfl, rfl⟩
  case caps =>
    exact fun s fl hup hv => yields_spdm (show exec _ s = execGetCapabilities fl s from rfl) hup hv ⟨rfl, ⟨_, rfl⟩, rfl⟩
  case early => exact fun _ _ hup hv => yields_getCapabilities_early hup hv
  case algs =>
    exact fun s a h hup hc => yields_spdm (show exec _ s = execNegotiateAlgorithms a h s from rfl) hup hc ⟨rfl, ⟨_, rfl⟩, rfl⟩
  case digests => exact fun s hup ha => yields_spdm (show exec _ s = execGetDigests s from rfl) hup ha ⟨⟨_, rfl⟩, rfl⟩
  case cert => exact fun _ _ _ hup ha => yields_getCertificate hup ha
  case challenge => exact fun _ _ hup ha => yields_challenge hup ha
  case measure => exact fun _ _ hup ha hlo hhi => yields_getMeasurements hup ha hlo hhi
  case exchange =>
    exact fun s b hup ha => yields_spdm (show exec _ s = execKeyExchange b s from rfl) hup ha ⟨rfl, ⟨_, _, rfl⟩, rfl⟩
  case finish => exact fun _ _ hup he => yields_finish hup he
  case close => exact fun s hup hs => yields_spdm (show exec _ s = execEndSession s from rfl) hup hs ⟨rfl, rfl, rfl⟩
  case ide => exact fun _ _ _ _ hup hs => yields_ideKm hup hs

end Sys2Proof.Machine
end

section
/-! Accesses to the Marl: a write's bytes in quadrant space, in a bound region or in the copies of a bank line; what a read
gives, and what its check bits log (02 R40 to R43, R53, R54). -/

namespace Sys2Proof.Machine

variable {s t u : State}

/-! ### Bits of a merge, and a line as two words of bytes -/

theorem leNat_append (a b : List Byte) : leNat (a ++ b) = leNat a + 256 ^ a.length * leNat b := by
  induction a with
  | nil => simp [leNat]
  | cons x a ih =>
    rw [List.cons_append, leNat_cons, leNat_cons, ih, List.length_cons, Nat.pow_succ']
    ring

theorem testBit_of_byte (v j : Nat) : v.testBit j = (v / 2 ^ (8 * (j / 8)) % 256).testBit (j % 8) := by
  have hsplit : 8 * (j / 8) + j % 8 = j := Nat.div_add_mod j 8
  have hlt : j % 8 < 8 := Nat.mod_lt _ (by decide)
  rw [show (256 : Nat) = 2 ^ 8 from rfl, Nat.testBit_mod_two_pow, decide_eq_true hlt, Bool.true_and, Nat.testBit_div_two_pow,
    Nat.add_comm, hsplit]

/-- A merge takes each bit from the new value where the mask bit of its byte is 1, from the old one where it is 0. -/
theorem testBit_mergeBytes {n old new mask j : Nat} (hj : j < 8 * n) :
    (mergeBytes n old new mask).testBit j = if bitAt mask (j / 8) then new.testBit j else old.testBit j := by
  rw [testBit_of_byte, byte_mergeBytes (by omega)]
  split <;> rw [← testBit_of_byte]

/-- Two merges of whole words, one above the other, leave the line of both words. -/
theorem ofNat_mergeBytes_halves (x d : Line) :
    BitVec.ofNat 512 (mergeBytes 64
      (BitVec.ofNat 512 (mergeBytes 64 x.toNat ((d.extractLsb' 0 256).toNat * 2 ^ (8 * 0))
        ((BitVec.allOnes 32).toNat * 2 ^ 0))).toNat
      ((d.extractLsb' 256 256).toNat * 2 ^ (8 * 32)) ((BitVec.allOnes 32).toNat * 2 ^ 32)) = d := by
  apply BitVec.eq_of_getLsbD_eq
  intro j hj
  have hmask : ∀ i, bitAt ((BitVec.allOnes 32).toNat * 2 ^ i) (j / 8) = decide (i ≤ j / 8 ∧ j / 8 < i + 32) := by
    intro i
    rw [bitAt, ← Nat.testBit_eq_decide_div_mod_eq, Nat.testBit_mul_two_pow, BitVec.testBit_toNat, BitVec.getLsbD_allOnes]
    by_cases hi : i ≤ j / 8
    · simp only [hi, decide_true, Bool.true_and, true_and]
      exact decide_eq_decide.mpr (by omega)
    · simp [hi]
  have hofNat : ∀ v, (BitVec.ofNat 512 v).getLsbD j = v.testBit j := fun v => by
    rw [BitVec.getLsbD_ofNat, decide_eq_true hj, Bool.true_and]
  rw [hofNat, testBit_mergeBytes (by omega), hmask, BitVec.testBit_toNat, hofNat, testBit_mergeBytes (by omega), hmask,
    Nat.testBit_mul_two_pow, Nat.testBit_mul_two_pow, BitVec.testBit_toNat, BitVec.testBit_toNat, BitVec.getLsbD_extractLsb', BitVec.getLsbD_extractLsb']
  by_cases hlow : j / 8 < 32
  · have hj' : j < 256 := by omega
    simp [hlow, hj', show ¬ 32 ≤ j / 8 by omega]
  · have hj' : 256 ≤ j := by omega
    simp [hj', show 32 ≤ j / 8 by omega, show j / 8 < 64 by omega, show j - 256 < 256 by omega,
      show 256 + (j - 256) = j by omega]

theorem ofNat_leNat_halves (d : Line) :
    BitVec.ofNat 512 (leNat (leBytes 32 (d.extractLsb' 0 256).toNat ++ (leBytes 32 (d.extractLsb' 256 256).toNat ++ []))) = d := by
  have hlo : (d.extractLsb' 0 256).toNat < 256 ^ 32 := (d.extractLsb' 0 256).isLt
  have hhi : (d.extractLsb' 256 256).toNat < 256 ^ 32 := (d.extractLsb' 256 256).isLt
  have hd : d.toNat < 2 ^ 256 * 2 ^ 256 := d.isLt.trans_eq (Nat.pow_add 2 256 256)
  rw [List.append_nil, leNat_append, leNat_leBytes, leNat_leBytes, Nat.mod_eq_of_lt hlo, Nat.mod_eq_of_lt hhi, length_leBytes]
  apply BitVec.eq_of_toNat_eq
  rw [BitVec.toNat_ofNat, BitVec.extractLsb'_toNat, BitVec.extractLsb'_toNat, Nat.shiftRight_zero, Nat.shiftRight_eq_div_pow,
    show (256 : Nat) ^ 32 = 2 ^ 256 by norm_num, Nat.mod_eq_of_lt (Nat.div_lt_of_lt_mul hd), Nat.mod_add_div,
    Nat.mod_eq_of_lt d.isLt]

/-! ### Lines of quadrant space and of regions -/

/-- From s to t the tables of lines and of copies change, and nothing else. -/
def InMarl (s t : State) : Prop := t = { s with marl := { s.marl with sram := t.marl.sram, copies := t.marl.copies } }

theorem InMarl.trans (h : InMarl s t) (h' : InMarl t u) : InMarl s u := by
  rw [InMarl] at h h' ⊢
  rw [h] at h'
  exact h'

/-- From s to t copies are made, and nothing else changes. -/
def InCopies (s t : State) : Prop := t = { s with marl := { s.marl with copies := t.marl.copies } }

theorem InCopies.inMarl (h : InCopies s t) : InMarl s t := by
  rw [InMarl]
  have hsram : t.marl.sram = s.marl.sram := by rw [show t = _ from h]
  rw [hsram]
  exact h

theorem inCopies_markBound (key w : Nat) (h : InCopies s t) : InCopies s (markBound key w t) := by
  unfold markBound
  split
  · exact h
  · rw [InCopies, show t = _ from h]
    rfl

theorem inCopies_touchBound (key off : Nat) (s : State) : InCopies s (touchBound key off s) := by
  refine foldl_of_step (P := InCopies s) (fun u b hu => ?_) (show InCopies s s from rfl) _
  split
  · exact foldl_of_step (P := InCopies s) (fun _ w hv => inCopies_markBound key w hv) hu _
  · exact hu

theorem touchBound_of_no_binds (key off : Nat) (h : s.marl.binds = []) : touchBound key off s = s := by
  rw [touchBound, h]
  rfl

theorem sramKey_ne {q q' : Quad} {l l' : Nat} (hl : l < 737280) (hl' : l' < 737280) (h : q' ≠ q ∨ l' ≠ l) :
    sramKey q' l' ≠ sramKey q l := by
  intro he
  simp only [sramKey] at he
  exact h.elim (fun hq => hq (Fin.ext (by omega))) (fun hne => hne (by omega))

/-- The line as put in the table, before the bound bank line is marked. -/
def putSram (q : Quad) (l : Nat) (v : SramLine) (s : State) : State :=
  { s with marl := { s.marl with sram := tset SramLine.zero s.marl.sram (sramKey q l) v } }

theorem inCopies_setSramLine (q : Quad) (l : Nat) (v : SramLine) (s : State) :
    InCopies (putSram q l v s) (setSramLine q l v s) := by
  unfold setSramLine
  dsimp only
  split
  · exact inCopies_touchBound ..
  · rfl

theorem sramLine_of_inCopies (h : InCopies s t) (q : Quad) (l : Nat) : sramLine t q l = sramLine s q l := by
  rw [show t = _ from h]
  rfl

theorem sramLine_setSramLine_self (q : Quad) (l : Nat) (v : SramLine) (s : State) : sramLine (setSramLine q l v s) q l = v :=
  (sramLine_of_inCopies (inCopies_setSramLine q l v s) q l).trans (tget_tset_self ..)

theorem sramLine_setSramLine_ne {q q' : Quad} {l l' : Nat} (v : SramLine) (s : State) (h : sramKey q' l' ≠ sramKey q l) :
    sramLine (setSramLine q l v s) q' l' = sramLine s q' l' :=
  (sramLine_of_inCopies (inCopies_setSramLine q l v s) q' l').trans (tget_tset_ne _ _ _ _ _ h)

theorem inMarl_setSramLine (q : Quad) (l : Nat) (v : SramLine) (s : State) : InMarl s (setSramLine q l v s) :=
  InMarl.trans (t := putSram q l v s) rfl (inCopies_setSramLine q l v s).inMarl

theorem copies_setSramLine_of_no_binds (q : Quad) (l : Nat) (v : SramLine) (h : s.marl.binds = []) :
    (setSramLine q l v s).marl.copies = s.marl.copies := by
  unfold setSramLine
  dsimp only
  split
  · exact congrArg (fun u => u.marl.copies) (touchBound_of_no_binds (s := putSram q l v s) _ _ h)
  · rfl

/-- A write to quadrant space: its bytes, its poison, and every other line as it was (02 R31, R54). -/
theorem yields_marlWriteCommit_quad {q : Quad} {l : Nat} {data : Line} {mask : BitVec 64} {po : Bool}
    (hup : s.boot.relMarl = true) (hl : l < 737280) :
    Yields (.marlWriteCommit (.quadLine q l) data mask po) s fun t =>
      (∀ b < 64, (sramLine t q l).data.extractLsb' (8 * b) 8
        = if mask.getLsbD b then data.extractLsb' (8 * b) 8 else (sramLine s q l).data.extractLsb' (8 * b) 8)
      ∧ (mask = BitVec.allOnes 64 → (sramLine t q l).poison = po)
      ∧ (mask ≠ BitVec.allOnes 64 → (sramLine s q l).poison = true → (sramLine t q l).poison = true)
      ∧ (∀ q' l', l' < 737280 → (q' ≠ q ∨ l' ≠ l) → sramLine t q' l' = sramLine s q' l')
      ∧ (s.marl.binds = [] → t.marl.copies = s.marl.copies)
      ∧ t = { s with marl := { s.marl with sram := t.marl.sram, copies := t.marl.copies } } := by
  have hok : targetOk (.quadLine q l) = true := decide_eq_true hl
  have hu : execMarlWriteCommit (.quadLine q l) data mask po s = ok (commitSram q l data mask po s) := by
    simp only [execMarlWriteCommit, hup, hok]
    rfl
  refine yields_of_ok hu ?_
  unfold commitSram
  dsimp only
  refine ⟨fun b hb => ?_, fun hm => ?_, fun hm hp => ?_, fun q' l' hl' hne => ?_, fun hb => ?_, inMarl_setSramLine ..⟩
  · rw [sramLine_setSramLine_self, extract_mergeBytes (k := 512) hb rfl]
  · rw [sramLine_setSramLine_self, decide_eq_true hm, if_pos rfl]
  · rw [sramLine_setSramLine_self, decide_eq_false hm, if_neg Bool.false_ne_true, hp, Bool.true_or]
  · exact sramLine_setSramLine_ne _ _ (sramKey_ne hl hl' hne)
  · exact copies_setSramLine_of_no_binds _ _ _ hb

/-! ### A bank line bound to a region -/

theorem readRegion_of_inCopies (h : InCopies s t) (key off : Nat) : readRegion t key off = readRegion s key off := by
  rw [show t = _ from h]
  rfl

theorem inMarl_writeRegion (key off : Nat) (v : SramLine) (s : State) : InMarl s (writeRegion key off v s) :=
  InMarl.trans (t := putSram (regionLine s key off).1 (regionLine s key off).2 v s) rfl (inCopies_touchBound ..).inMarl

/-- Two bytes of one line of 64 bytes are read alike. -/
theorem readRegion_congr {key off off' : Nat} (h : off' / 64 = off / 64) : readRegion s key off' = readRegion s key off := by
  have hl : regionLine s key off' = regionLine s key off := by
    unfold regionLine
    split
    · exact Prod.ext rfl (by dsimp only; omega)
    · rfl
  rw [readRegion, hl, readRegion]

theorem readRegion_writeRegion (key off : Nat) (v : SramLine) (s : State) :
    readRegion (writeRegion key off v s) key off = v :=
  (readRegion_of_inCopies (inCopies_touchBound ..) key off).trans (tget_tset_self ..)

theorem bindingOf_of_inMarl (h : InMarl s t) (w : Nat) : bindingOf t w = bindingOf s w := by
  rw [show t = _ from h]
  rfl

theorem lineWords_of_inMarl (h : InMarl s t) (loc : Bool) (l : Nat) : lineWords t loc l = lineWords s loc l := by
  rw [show t = _ from h]
  rfl

theorem commitCol_of_bound {w : Nat} {d : ColData} {mask : BitVec 32} {po : Bool} {b : Bind × Nat} (hm : mask ≠ 0#32)
    (hb : bindingOf s w = some b) : commitCol w d mask po true s = setRegionCol b.1.region b.2 d mask po s := by
  simp only [commitCol, if_neg hm, hb]
  rfl

theorem marlCol_of_bound {w : Nat} {b : Bind × Nat} (hb : bindingOf s w = some b) :
    marlCol s w = regionCol s b.1.region b.2 := by
  rw [marlCol, hb]

/-- The line after both words of a bound bank line are committed. -/
theorem readRegion_setRegionCol_halves {key off : Nat} (hoff : off % 64 = 0) (d : Line) (po : Bool) (s : State) :
    readRegion (setRegionCol key (off + 32) (d.extractLsb' 256 256) (BitVec.allOnes 32) po
      (setRegionCol key off (d.extractLsb' 0 256) (BitVec.allOnes 32) po s)) key (off + 32) = { data := d, poison := po } := by
  have hlow : off % 64 = 0 := hoff
  have hhigh : (off + 32) % 64 = 32 := by omega
  have hfst : readRegion (setRegionCol key off (d.extractLsb' 0 256) (BitVec.allOnes 32) po s) key (off + 32) = _ :=
    (readRegion_congr (by omega)).trans (readRegion_writeRegion ..)
  generalize setRegionCol key off (d.extractLsb' 0 256) (BitVec.allOnes 32) po s = u at hfst
  rw [setRegionCol, hfst, readRegion_writeRegion, hlow, hhigh, ofNat_mergeBytes_halves]

theorem inMarl_setRegionCol (key off : Nat) (d : ColData) (mask : BitVec 32) (po : Bool) (s : State) :
    InMarl s (setRegionCol key off d mask po s) := inMarl_writeRegion ..

theorem bindingOf_of_only {b : Bind} {w l k : Nat} (hb : s.marl.binds = [b]) (hloc : b.loc = false) (hlo : b.line ≤ l)
    (hhi : l < b.line + b.lines) (hk : k < 2) (hw : wordAddr s false w = 64 * l + 32 * k) :
    bindingOf s w = some (b, b.off + 64 * (l - b.line) + 32 * k) := by
  have hline : (64 * l + 32 * k) / 64 = l := by omega
  have hcov : bindCovers s b w = true := by
    simp only [bindCovers, hloc, hw, hline]
    exact decide_eq_true ⟨hlo, hhi⟩
  have haddr : b.off + (64 * l + 32 * k - 64 * b.line) = b.off + 64 * (l - b.line) + 32 * k := by omega
  rw [bindingOf, hb, List.find?_cons_of_pos (p := fun b => bindCovers s b w) hcov, Option.map_some, hloc, hw, haddr]

/-- A whole line written to a bound bank line stands in the region, and is what a read returns (02 R43). -/
theorem yields_marlWriteCommit_bound {l : Nat} {data : Line} {po : Bool} {b : Bind}
    (hup : s.boot.relMarl = true) (hl : l < 2 ^ 33) (hb : s.marl.binds = [b]) (hloc : b.loc = false) (hlo : b.line ≤ l)
    (hhi : l < b.line + b.lines) (hoff : b.off % 64 = 0)
    (haddr : ∀ k < 2, wordAddr s false ((lineWords s false l).getD k 0) = 64 * l + 32 * k) :
    Yields (.marlWriteCommit (.dpaLine l) data (BitVec.allOnes 64) po) s fun t =>
      readTarget t (.dpaLine l) = (data, po) ∧ readRegion t b.region (b.off + 64 * (l - b.line)) = { data := data, poison := po }
      ∧ t = { s with marl := { s.marl with sram := t.marl.sram, copies := t.marl.copies } } := by
  obtain ⟨v, w, hvw⟩ := lineWords_eq s false l
  have hv := bindingOf_of_only hb hloc hlo hhi (by decide) (haddr 0 (by decide))
  have hw := bindingOf_of_only hb hloc hlo hhi (by decide) (haddr 1 (by decide))
  rw [hvw] at hv hw
  have halign : (b.off + 64 * (l - b.line)) % 64 = 0 := by omega
  generalize hbase : b.off + 64 * (l - b.line) = off at hv hw halign
  have hmask : (BitVec.allOnes 32) ≠ 0#32 := by decide
  have hlow : (BitVec.allOnes 64).extractLsb' 0 32 = BitVec.allOnes 32 := by decide
  have hhigh : (BitVec.allOnes 64).extractLsb' 32 32 = BitVec.allOnes 32 := by decide
  have hu : execMarlWriteCommit (.dpaLine l) data (BitVec.allOnes 64) po s
      = ok (setRegionCol b.region (off + 32) (data.extractLsb' 256 256) (BitVec.allOnes 32) po
          (setRegionCol b.region off (data.extractLsb' 0 256) (BitVec.allOnes 32) po s)) := by
    have hok : targetOk (.dpaLine l) = true := decide_eq_true hl
    have hw' := (bindingOf_of_inMarl (inMarl_setRegionCol b.region off (data.extractLsb' 0 256) (BitVec.allOnes 32) po s) w).trans hw
    simp only [execMarlWriteCommit, hup, hok, commitTarget, commitLine, hvw, hlow, hhigh, decide_true]
    exact congrArg ok ((congrArg _ (commitCol_of_bound hmask hv)).trans (commitCol_of_bound hmask hw'))
  refine yields_of_ok hu ?_
  have hread := readRegion_setRegionCol_halves (key := b.region) halign data po s
  have hin := (inMarl_setRegionCol b.region off (data.extractLsb' 0 256) (BitVec.allOnes 32) po s).trans
    (inMarl_setRegionCol b.region (off + 32) (data.extractLsb' 256 256) (BitVec.allOnes 32) po _)
  generalize setRegionCol b.region (off + 32) _ _ _ _ = t at hread hin
  have hread0 : readRegion t b.region off = { data := data, poison := po } := (readRegion_congr (by omega)).trans hread
  refine ⟨?_, hread0, hin⟩
  have hv' := (bindingOf_of_inMarl hin v).trans hv
  have hw' := (bindingOf_of_inMarl hin w).trans hw
  have hmod0 : off % 64 = 0 := halign
  have hmod1 : (off + 32) % 64 = 32 := by omega
  have hcol0 : marlCol t v = (data.extractLsb' 0 256, po) := by
    rw [marlCol_of_bound hv', regionCol]
    simp only [Nat.mul_zero, hread0, hmod0]
  have hcol1 : marlCol t w = (data.extractLsb' 256 256, po) := by
    rw [marlCol_of_bound hw', regionCol]
    simp only [Nat.mul_one, hread, hmod1]
  rw [readTarget, lineWords_of_inMarl hin, hvw, marlLine]
  simp only [List.map_cons, List.map_nil, List.flatMap_cons, List.flatMap_nil, hcol0, hcol1, ofNat_leNat_halves, List.any_cons,
    List.any_nil, Bool.or_false, Bool.or_self]

/-- A whole line written to a bank line that no region holds stands in the copies of its words (02 R40). -/
theorem yields_marlWriteCommit_unbound {l : Nat} {data : Line} {po : Bool} (hup : s.boot.relMarl = true) (hl : l < 2 ^ 33)
    (hnd : (lineWords s false l).Nodup) (hfree : ∀ w ∈ lineWords s false l, bindingOf s w = none) :
    Yields (.marlWriteCommit (.dpaLine l) data (BitVec.allOnes 64) po) s fun t =>
      (∀ k < 2, ∃ c, copyOf t ((lineWords s false l).getD k 0) = some c ∧ c.data = data.extractLsb' (256 * k) 256
        ∧ c.mask = BitVec.allOnes 32 ∧ c.poison = po)
      ∧ (∀ w, w ∉ lineWords s false l → copyOf t w = copyOf s w)
      ∧ t = { s with marl := { s.marl with copies := t.marl.copies } } := by
  have hok : targetOk (.dpaLine l) = true := decide_eq_true hl
  have hu : execMarlWriteCommit (.dpaLine l) data (BitVec.allOnes 64) po s
      = ok (commitLine (lineWords s false l) data (BitVec.allOnes 64) po s) := by
    simp only [execMarlWriteCommit, hup, hok]
    rfl
  refine yields_of_ok hu ?_
  obtain ⟨v, w, hvw⟩ := lineWords_eq s false l
  rw [hvw] at hnd hfree ⊢
  have hv := hfree v (by simp)
  have hw := hfree w (by simp)
  have hcop := copies_commitLine (d := data) (mask := BitVec.allOnes 64) (poison := po) hv hw
  exact ⟨fun k hk => copyOf_commitLine_of_whole hv hw (by simpa using hnd) hk, hcop.other, hcop.frame⟩

/-! ### Reads and the check bits -/

/-- The last entry of the log stays behind one more. -/
theorem mem_events_logDev {e : LogEntry} (h : s.log.events.getLast? = some e) (cls code : Nat) (loc : U16) (d0 d1 : Nat) :
    e ∈ (logDev cls code loc d0 d1 s).log.events := by
  obtain ⟨es, hes⟩ := List.getLast?_eq_some_iff.mp h
  rw [logDev, logAs_log, hes]
  simp [lastN]

/-- What stays through the noting of a row's error. -/
theorem noteRow_frame (slice row : Nat) (s : State) :
    (noteRow slice row s).marl.sram = s.marl.sram ∧ (noteRow slice row s).bank = s.bank := by
  unfold noteRow
  dsimp only
  split
  · rw [logDev_marl, logDev_bank]
    exact ⟨rfl, rfl⟩
  · exact ⟨rfl, rfl⟩

theorem mem_events_noteRow {e : LogEntry} (slice row : Nat) (h : s.log.events.getLast? = some e) :
    e ∈ (noteRow slice row s).log.events := by
  unfold noteRow
  dsimp only
  split
  · refine mem_events_logDev ?_ _ _ _ _ _
    exact h
  · exact List.mem_of_getLast? h

/-- A quadrant line with an uncorrectable error: poisoned, and the error the last entry logged before the row's own. -/
theorem eccAct_uncorrectable (q : Quad) (l : Nat) (s : State) :
    (sramLine (eccAct (.quadLine q l) .uncorrectable s) q l).poison = true
      ∧ (∃ e ∈ (eccAct (.quadLine q l) .uncorrectable s).log.events, e.cls = 0x03#8 ∧ e.code = 0x21#8)
      ∧ (eccAct (.quadLine q l) .uncorrectable s).bank = s.bank := by
  have hact : eccAct (.quadLine q l) .uncorrectable s
      = noteRow (16 * q.val + l / 4 % 15) (l / 4 / 15) (logDev 0x03 0x21 (locOf 7 (16 * q.val + l / 4 % 15))
          (l / 4 / 15 % 65536) 0 (countEv 0x11 ((16 * q.val + l / 4 % 15) / 16) none 1 (poisonTarget (.quadLine q l) s))) := rfl
  rw [hact]
  generalize 16 * q.val + l / 4 % 15 = slice
  generalize hc : countEv 0x11 (slice / 16) none 1 (poisonTarget (.quadLine q l) s) = u
  obtain ⟨hsram, hbank⟩ := noteRow_frame slice (l / 4 / 15) (logDev 0x03 0x21 (locOf 7 slice) (l / 4 / 15 % 65536) 0 u)
  have hu : u.marl.sram = (poisonTarget (.quadLine q l) s).marl.sram ∧ u.bank = s.bank := by
    rw [← hc, countEv_marl, countEv_bank]
    exact ⟨rfl, rfl⟩
  refine ⟨?_, ?_, ?_⟩
  · rw [sramLine, hsram, logDev_marl, hu.1]
    exact congrArg SramLine.poison (tget_tset_self ..)
  · obtain ⟨e, he, hcls, hcode, -⟩ := (logged_logAs 0x03 0x21 (locOf 7 slice) 0xFF#8 4 (l / 4 / 15 % 65536) 0
      (s := u) rfl rfl).1
    exact ⟨e, mem_events_noteRow _ _ he, hcls, hcode⟩
  · rw [hbank, logDev_bank, hu.2]

theorem yields_marlRead_uncorrectable {q : Quad} {l : Nat} (hup : s.boot.relMarl = true) (hl : l < 737280) :
    Yields (.marlRead (.quadLine q l) .uncorrectable) s fun t =>
      (sramLine t q l).poison = true ∧ (∃ d, t.out.getLast? = some (.marlData (.quadLine q l) d true))
      ∧ (∃ e ∈ t.log.events, e.cls = 0x03#8 ∧ e.code = 0x21#8) ∧ t.bank = s.bank := by
  have hok : targetOk (.quadLine q l) = true := decide_eq_true hl
  have hu : execMarlRead (.quadLine q l) .uncorrectable s
      = ok (emit (.marlData (.quadLine q l) (sramLine (eccAct (.quadLine q l) .uncorrectable s) q l).data
          (sramLine (eccAct (.quadLine q l) .uncorrectable s) q l).poison) (eccAct (.quadLine q l) .uncorrectable s)) := by
    simp only [execMarlRead, hup, hok]
    rfl
  refine yields_of_ok hu ?_
  obtain ⟨hpoison, hlog, hbank⟩ := eccAct_uncorrectable q l s
  generalize eccAct (.quadLine q l) .uncorrectable s = u at hpoison hlog hbank ⊢
  rw [hpoison]
  exact ⟨hpoison, ⟨_, List.getLast?_concat⟩, hlog, hbank⟩

theorem yields_marlPatrolScrub_corrected {q : Quad} {l : Nat} (hup : s.boot.relMarl = true) (hl : l < 737280) :
    Yields (.marlPatrolScrub (.quadLine q l) .corrected) s fun t =>
      Logged 0x03 0x20 s t ∧ t.marl = s.marl ∧ t.bank = s.bank := by
  have hok : targetOk (.quadLine q l) = true := decide_eq_true hl
  have hu : execMarlPatrolScrub (.quadLine q l) .corrected s
      = ok (logDev 0x03 0x20 (locOf 7 (16 * q.val + l / 4 % 15)) (l / 4 / 15 % 65536) 0
          (countEv 0x10 ((16 * q.val + l / 4 % 15) / 16) none 1 s)) := by
    simp only [execMarlPatrolScrub, hup, hok]
    rfl
  refine yields_of_ok hu ⟨logged_logAs _ _ _ _ _ _ _ (countEv_clk ..) (congrArg Log.seq (countEv_log ..)), ?_, ?_⟩
  · rw [logDev_marl, countEv_marl]
  · rw [logDev_bank, countEv_bank]

/-- Settles O26: a commit puts its bytes at the line's one owner, and a read or the scrub acts on what the check bits gave. -/
theorem marlAccessesCommitAndRead : Obligations.MarlAccessesCommitAndRead := by
  refine ⟨?quad, ?bound, ?unbound, ?clean, ?uncorrectable, ?scrub⟩
  case quad => exact fun _ _ _ _ _ _ hup hl => yields_marlWriteCommit_quad hup hl
  case bound =>
    exact fun _ _ _ _ _ _ hup hl hb hloc hlo hhi hoff _ haddr => yields_marlWriteCommit_bound hup hl hb hloc hlo hhi hoff haddr
  case unbound => exact fun _ _ _ _ hup hl hnd hfree => yields_marlWriteCommit_unbound hup hl hnd hfree
  case clean =>
    intro s x hup hok
    have hu : execMarlRead x .clean s = ok (emit (.marlData x (readTarget s x).1 (readTarget s x).2) s) := by
      simp only [execMarlRead, hup, hok]
      rfl
    exact yields_of_ok hu ⟨rfl, rfl⟩
  case uncorrectable => exact fun _ _ _ hup hl => yields_marlRead_uncorrectable hup hl
  case scrub => exact fun _ _ _ hup hl => yields_marlPatrolScrub_corrected hup hl

end Sys2Proof.Machine
end

section
/-! A pending commit of MARL_PART where a port's link staging holds data: staging is a region to wait for (02 R34, R37). -/

namespace Sys2Proof.Machine
open Sys2Proof.Tests

/-- No region stands in the table, a packet waits in the staging of port 0, and a commit of MARL_PART is pending. -/
def stagedAndPending : State :=
  { tStaged with hub := { tStaged.hub with marlPart := { tStaged.hub.marlPart with waiting := some { bc := 4#5, lk := 8#6 } } } }

theorem noRegions_stagedAndPending : noRegions stagedAndPending = false := by decide

/-- Refutes O28: MARL_PART_TAKE_EFFECT waits for the links' staging too, so with no region in the table but a packet staged at
a port the pending commit goes on waiting. -/
theorem not_pendingCommitsTakeEffect : ¬ Obligations.PendingCommitsTakeEffect := by
  unfold Obligations.PendingCommitsTakeEffect
  rintro ⟨hpart, -, -⟩
  obtain ⟨t, ht, -, htaken, -⟩ := hpart stagedAndPending { bc := 4#5, lk := 8#6 } rfl rfl
  obtain rfl : stagedAndPending = t := by
    simpa [exec, execMarlPartTakeEffect, noRegions_stagedAndPending, ok] using ht
  exact absurd htaken (by decide)

end Sys2Proof.Machine
end

section
/-! Commits of the pair groups: judged by their rules, then in force at once, pending, or refused and logged (20 R502 to
R504). -/

namespace Sys2Proof.Machine

variable {s t u : State} {v : U64}

/-! ### A write of a commit register -/

theorem barWrite_commit {off : Nat} (hhost : s.boot.relHost = true) (hal : off % 8 = 0) (hreg : regStaged s off ≠ none)
    (hro : regRo off = false) (hup : blockUp s off = true) (hc : isCommit off = true) (hbit : bitAt v.toNat 0 = true) :
    barWrite off 8 v.toNat s = commitAt off s := by
  have hmod : v.toNat % 2 ^ 64 = v.toNat := Nat.mod_eq_of_lt v.isLt
  have happly : applyWrite off 8 v.toNat s = commitAt off s := by
    simp only [applyWrite, hal, Nat.sub_zero, hc, mergedWord, if_pos, hmod, hbit]
  rw [barWrite, hostUp, hhost, hal, Nat.sub_zero, if_neg (by simp), if_neg (by simp [hreg]), hro, if_neg Bool.false_ne_true, hup,
    if_neg (by simp), happly]

theorem yields_barCommit {i : Instr} {off : Nat} {post : State → Prop} (hi : exec i s = ok (barWrite off 8 v.toNat s))
    (hhost : s.boot.relHost = true) (hal : off % 8 = 0) (hreg : regStaged s off ≠ none) (hro : regRo off = false)
    (hup : blockUp s off = true) (hc : isCommit off = true) (hbit : bitAt v.toNat 0 = true) (hp : post (commitAt off s)) :
    Yields i s post :=
  yields_of_ok (hi.trans (congrArg ok (barWrite_commit hhost hal hreg hro hup hc hbit))) hp

/-! ### The judgement of a group -/

theorem inForce_judge {α : Type} (p : Pair α) : InForce p (p.judge false false true) := ⟨rfl, rfl, rfl, rfl, rfl, rfl⟩

theorem refused_judge {α : Type} (busy now_ : Bool) (p : Pair α) : Refused p (p.judge true busy now_) := ⟨rfl, rfl, rfl, rfl⟩

/-- A commit that waits and takes effect at the same boundary is in force. -/
theorem inForce_take_judge {α : Type} (p : Pair α) : InForce p (p.judge false false false).take := ⟨rfl, rfl, rfl, rfl, rfl, rfl⟩

theorem logIf_of_passed {isl group : Nat} {func : Byte} : logIf false false isl func group s = s := rfl

theorem logged_logIf {isl group : Nat} {func : Byte} (busy : Bool) (hc : u.clk = s.clk) (hq : u.log.seq = s.log.seq) :
    Logged 0x08 0x23 s (logIf true busy isl func group u) :=
  logged_logAs _ _ _ _ _ _ _ hc hq

theorem tget_tset_ne_of {β : Type} [DecidableEq β] (d d' : β) (t : Tab β) (v : β) {k j : Nat} (h : j ≠ k) :
    tget d' (tset d t k v) j = tget d' t j := by
  by_cases hv : v = d <;> simp [tset, tget, hv, tfind_terase_ne _ _ _ h, tfind_tput_ne _ _ _ _ h]

/-! ### MARL_PART, HUB_TEN, HUB_MODEL, BC_MAP -/

theorem yields_marlPartCommit (hhost : s.boot.relHost = true) (hmarl : s.boot.relMarl = true) (hbit : bitAt v.toNat 0 = true)
    (hreg : noRegions s = true) (hb4 : 4 ≤ s.hub.marlPart.staged.bc.toNat) (hb16 : s.hub.marlPart.staged.bc.toNat ≤ 16)
    (hl8 : 8 ≤ s.hub.marlPart.staged.lk.toNat) (hl32 : s.hub.marlPart.staged.lk.toNat ≤ 32) :
    Yields (.marlPartCommit v) s fun t =>
      InForce s.hub.marlPart t.hub.marlPart ∧ t = { s with hub := { s.hub with marlPart := t.hub.marlPart } } := by
  refine yields_barCommit rfl hhost rfl (by simp [regStaged]) (by decide) hmarl (by decide) hbit ?_
  have hcommit : commitAt 0x1010 s
      = { s with hub := { s.hub with marlPart := s.hub.marlPart.judge false false true } } := by
    have hgood : decide (s.hub.marlPart.staged.bc.toNat < 4 ∨ 16 < s.hub.marlPart.staged.bc.toNat
        ∨ s.hub.marlPart.staged.lk.toNat < 8 ∨ 32 < s.hub.marlPart.staged.lk.toNat) = false := decide_eq_false (by omega)
    rw [show commitAt 0x1010 s = commitMarlPart s from rfl, commitMarlPart, hgood, hreg, logIf_of_passed]
  rw [hcommit]
  exact ⟨inForce_judge _, rfl⟩

/-- The state with a judged record of HUB_TEN. -/
def putTen (f : Nat) (p : Pair Ten) (s : State) : State := { s with hub := { s.hub with ten := tset (Ten.reset f) s.hub.ten f p } }

theorem tenOf_putTen_self (f : Nat) (p : Pair Ten) (s : State) : tenOf (putTen f p s) f = p := tget_tset_self ..

theorem tenOf_putTen_ne {f g : Nat} (p : Pair Ten) (s : State) (h : g ≠ f) : tenOf (putTen f p s) g = tenOf s g :=
  tget_tset_ne_of _ _ _ _ h

theorem commitTen_of {bad : Bool} (hbad : decide ((tenOf s s.hub.tenSel.toNat).staged.limit < (tenOf s s.hub.tenSel.toNat).staged.base
      ∨ 2048 < (tenOf s s.hub.tenSel.toNat).staged.limit.toNat) = bad) :
    commitAt 0x0058 s = logIf bad false islHost (BitVec.ofNat 8 s.hub.tenSel.toNat) 1
      (putTen s.hub.tenSel.toNat ((tenOf s s.hub.tenSel.toNat).judge bad false true) s) := by
  rw [show commitAt 0x0058 s = commitTen s from rfl, commitTen, hbad, putTen]

theorem yields_hubTenCommit (hhost : s.boot.relHost = true) (hbit : bitAt v.toNat 0 = true)
    (hle : (tenOf s s.hub.tenSel.toNat).staged.base ≤ (tenOf s s.hub.tenSel.toNat).staged.limit)
    (hlim : (tenOf s s.hub.tenSel.toNat).staged.limit.toNat ≤ 2048) :
    Yields (.hubTenCommit v) s fun t =>
      InForce (tenOf s s.hub.tenSel.toNat) (tenOf t s.hub.tenSel.toNat)
      ∧ (∀ f, f ≠ s.hub.tenSel.toNat → tenOf t f = tenOf s f) ∧ t = { s with hub := { s.hub with ten := t.hub.ten } } := by
  refine yields_barCommit rfl hhost rfl (by simp [regStaged]) (by decide) rfl (by decide) hbit ?_
  rw [commitTen_of (bad := false) (decide_eq_false (by bv_omega)), logIf_of_passed]
  refine ⟨?_, fun f hf => tenOf_putTen_ne _ _ hf, rfl⟩
  rw [tenOf_putTen_self]
  exact inForce_judge _

theorem yields_hubTenCommit_refused (hhost : s.boot.relHost = true) (hbit : bitAt v.toNat 0 = true)
    (hlt : (tenOf s s.hub.tenSel.toNat).staged.limit < (tenOf s s.hub.tenSel.toNat).staged.base) :
    Yields (.hubTenCommit v) s fun t =>
      Refused (tenOf s s.hub.tenSel.toNat) (tenOf t s.hub.tenSel.toNat) ∧ Logged 0x08 0x23 s t
      ∧ (∀ f, f ≠ s.hub.tenSel.toNat → tenOf t f = tenOf s f) := by
  refine yields_barCommit rfl hhost rfl (by simp [regStaged]) (by decide) rfl (by decide) hbit ?_
  rw [commitTen_of (bad := true) (decide_eq_true (Or.inl hlt))]
  have hten (u : State) (isl : Nat) (func : Byte) (f : Nat) : tenOf (logIf true false isl func 1 u) f = tenOf u f := by
    rw [tenOf, logIf, if_pos rfl, logRefused, logAs_hub, tenOf]
  refine ⟨?_, logged_logIf false rfl rfl, fun f hf => (hten _ _ _ f).trans (tenOf_putTen_ne _ _ hf)⟩
  rw [hten, tenOf_putTen_self]
  exact refused_judge _ _ _

/-- The state with a judged record of HUB_MODEL. -/
def putModel (f k : Nat) (p : Pair (BitVec 39)) (s : State) : State :=
  { s with hub := { s.hub with model := tset (Pair.at_ 0#39) s.hub.model (f * 16 + k) p } }

theorem modelOf_putModel_self (f k : Nat) (p : Pair (BitVec 39)) (s : State) : modelOf (putModel f k p s) f k = p :=
  tget_tset_self ..

theorem yields_hubModelCommit (hhost : s.boot.relHost = true) (hbit : bitAt v.toNat 0 = true)
    (hidle : stepNames s s.hub.modelFn.toNat s.hub.modelSlot.toNat = false)
    (hgood : (modelOf s s.hub.modelFn.toNat s.hub.modelSlot.toNat).staged = 0#39
      ∨ ((modelOf s s.hub.modelFn.toNat s.hub.modelSlot.toNat).staged.toNat % 4096 = 0
        ∧ inWindow s s.hub.modelFn.toNat (modelOf s s.hub.modelFn.toNat s.hub.modelSlot.toNat).staged.toNat 1 = true)) :
    Yields (.hubModelCommit v) s fun t =>
      InForce (modelOf s s.hub.modelFn.toNat s.hub.modelSlot.toNat) (modelOf t s.hub.modelFn.toNat s.hub.modelSlot.toNat)
      ∧ t = { s with hub := { s.hub with model := t.hub.model } } := by
  refine yields_barCommit rfl hhost rfl (by simp [regStaged]) (by decide) rfl (by decide) hbit ?_
  have hbad : (decide ((modelOf s s.hub.modelFn.toNat s.hub.modelSlot.toNat).staged.toNat ≠ 0)
      && (decide ((modelOf s s.hub.modelFn.toNat s.hub.modelSlot.toNat).staged.toNat % 4096 ≠ 0)
        || !inWindow s s.hub.modelFn.toNat (modelOf s s.hub.modelFn.toNat s.hub.modelSlot.toNat).staged.toNat 1)) = false := by
    rcases hgood with hzero | ⟨halign, hwin⟩
    · rw [hzero]
      rfl
    · rw [halign, hwin]
      simp
  have hcommit : commitAt 0x0090 s = putModel s.hub.modelFn.toNat s.hub.modelSlot.toNat
      ((modelOf s s.hub.modelFn.toNat s.hub.modelSlot.toNat).judge false false true) s := by
    rw [show commitAt 0x0090 s = commitModel s from rfl, commitModel]
    dsimp only
    rw [hbad, hidle]
    rfl
  rw [hcommit]
  refine ⟨?_, rfl⟩
  rw [modelOf_putModel_self]
  exact inForce_judge _

theorem yields_bcMapCommit (hhost : s.boot.relHost = true) (hbc : s.boot.relBc = 0xFFFF#16) (hbit : bitAt v.toNat 0 = true)
    (h0 : s.cxl.hdm0.committed = false) (h1 : s.cxl.hdm1.committed = false)
    (hgood : s.dev.bcMap.staged.order = 3#2 ∨ s.dev.bcMap.staged.ranks = 0xFFFFFFFF#32) :
    Yields (.bcMapCommit v) s fun t =>
      InForce s.dev.bcMap t.dev.bcMap ∧ t = { s with dev := { s.dev with bcMap := t.dev.bcMap } } := by
  refine yields_barCommit rfl hhost rfl (by simp [regStaged]) (by decide) (decide_eq_true hbc) (by decide) hbit ?_
  have hcommit : commitAt 0x2010 s = { s with dev := { s.dev with bcMap := s.dev.bcMap.judge false false true } } := by
    have hmap : decide (s.dev.bcMap.staged.order ≠ 3#2 ∧ s.dev.bcMap.staged.ranks ≠ 0xFFFFFFFF#32) = false :=
      decide_eq_false (by tauto)
    rw [show commitAt 0x2010 s = commitBcMap s from rfl, commitBcMap, h0, h1, hmap]
    rfl
  rw [hcommit]
  exact ⟨inForce_judge _, rfl⟩

theorem yields_bcMapCommit_refused (hhost : s.boot.relHost = true) (hbc : s.boot.relBc = 0xFFFF#16)
    (hbit : bitAt v.toNat 0 = true) (hcommitted : s.cxl.hdm0.committed = true ∨ s.cxl.hdm1.committed = true) :
    Yields (.bcMapCommit v) s fun t => Refused s.dev.bcMap t.dev.bcMap ∧ Logged 0x08 0x23 s t := by
  refine yields_barCommit rfl hhost rfl (by simp [regStaged]) (by decide) (decide_eq_true hbc) (by decide) hbit ?_
  have hcommit : commitAt 0x2010 s = logIf true false (islBc 0) 0xFF#8 3
      { s with dev := { s.dev with bcMap := s.dev.bcMap.judge true false true } } := by
    have hbad : (s.cxl.hdm0.committed || s.cxl.hdm1.committed) = true := Bool.or_eq_true_iff.mpr hcommitted
    rw [show commitAt 0x2010 s = commitBcMap s from rfl, commitBcMap, hbad]
    rfl
  rw [hcommit]
  refine ⟨?_, logged_logIf false rfl rfl⟩
  rw [logIf, if_pos rfl, logRefused, logAs_dev]
  exact refused_judge false true s.dev.bcMap

/-! ### GRN_PART and SYN_FLAGB -/

theorem wipeFlags_frame (sp : FlagSpace) (ns : List Nat) (s : State) :
    wipeFlags sp ns s = { s with seq := (wipeFlags sp ns s).seq } := by
  refine foldl_of_step (P := fun u : State => u = { s with seq := u.seq }) (fun u n hu => ?_) rfl ns
  refine foldl_of_step (P := fun u : State => u = { s with seq := u.seq }) (fun w k hw => ?_) hu _
  rw [hw]
  cases sp <;> rfl

theorem grnPartOf_setGrnPart_self (f : Nat) (p : Pair GrnPart) (s : State) : grnPartOf (setGrnPart f p s) f = p := tget_tset_self ..

theorem grnPartOf_setGrnPart_ne {f k : Nat} (p : Pair GrnPart) (s : State) (h : k ≠ f) :
    grnPartOf (setGrnPart f p s) k = grnPartOf s k := tget_tset_ne_of _ _ _ _ h

theorem flagBaseOf_setFlagBase_self (f : Nat) (p : Pair (BitVec 14)) (s : State) : flagBaseOf (setFlagBase f p s) f = p :=
  tget_tset_self ..

theorem flagBaseOf_setFlagBase_ne {f k : Nat} (p : Pair (BitVec 14)) (s : State) (h : k ≠ f) :
    flagBaseOf (setFlagBase f p s) k = flagBaseOf s k := tget_tset_ne _ _ _ _ _ h

/-- The pending values of a partition taken: its two records, every other function's as they were, and flags wiped. -/
theorem takeGrnPart_frame (f : Nat) (s : State) :
    takeGrnPart f s = { s with hub := (takeGrnPart f s).hub, seq := (takeGrnPart f s).seq }
      ∧ (takeGrnPart f s).hub = (setFlagBase f (flagBaseOf s f).take (setGrnPart f (grnPartOf s f).take s)).hub := by
  unfold takeGrnPart clearMoved
  dsimp only
  generalize hw : setFlagBase f (flagBaseOf s f).take (setGrnPart f (grnPartOf s f).take s) = w
  have hfw : w = { s with hub := w.hub } := by rw [← hw]; rfl
  generalize blockMinus _ _ ++ blockMinus _ _ = ns
  have hfr := wipeFlags_frame .shared ns w
  generalize wipeFlags .shared ns w = z at hfr
  refine ⟨?_, by rw [hfr]⟩
  rw [hfr, hfw]

theorem grnPartOf_takeGrnPart (f k : Nat) (s : State) :
    grnPartOf (takeGrnPart f s) k = if k = f then (grnPartOf s f).take else grnPartOf s k := by
  have hw : grnPartOf (takeGrnPart f s) k = grnPartOf (setGrnPart f (grnPartOf s f).take s) k := by
    rw [grnPartOf, (takeGrnPart_frame f s).2]
    rfl
  rw [hw]
  split
  · next hk => rw [hk, grnPartOf_setGrnPart_self]
  · next hk => exact grnPartOf_setGrnPart_ne _ _ hk

theorem flagBaseOf_takeGrnPart (f k : Nat) (s : State) :
    flagBaseOf (takeGrnPart f s) k = if k = f then (flagBaseOf s f).take else flagBaseOf s k := by
  rw [flagBaseOf, (takeGrnPart_frame f s).2]
  split
  · next hk => rw [hk]; exact flagBaseOf_setFlagBase_self _ _ _
  · next hk => exact flagBaseOf_setFlagBase_ne _ _ hk

theorem yields_grnPartCommit {f : Nat} {g : GrnPart} (hhost : s.boot.relHost = true) (hbit : bitAt v.toNat 0 = true)
    (hf : f = s.hub.grnSel.toNat) (hg : (grnPartOf s f).staged = g) (hidle : grainWork s f = false)
    (hrange : g.lo ≤ g.hi ∨ setSize g.set.toNat = 0) (hshare : setShared s f g.set.toNat = false)
    (hquota : (pairsOf g.set.toNat).length ≤ g.flagQ.toNat)
    (hblock : blockBad s f ((flagBlock s f).1, g.flagQ.toNat) g.set.toNat = false) :
    Yields (.grnPartCommit v) s fun t =>
      InForce (grnPartOf s f) (grnPartOf t f) ∧ (∀ k, k ≠ f → grnPartOf t k = grnPartOf s k)
      ∧ t = { s with hub := t.hub, seq := t.seq } := by
  refine yields_barCommit rfl hhost rfl (by simp [regStaged]) (by decide) rfl (by decide) hbit ?_
  have hcommit : commitAt 0x3020 s = takeGrnPart f (setGrnPart f ((grnPartOf s f).judge false false false) s) := by
    have hord : decide (setSize g.set.toNat ≠ 0 ∧ g.hi < g.lo) = false :=
      decide_eq_false fun ⟨hne, hlt⟩ => hrange.elim (fun hle => by bv_omega) hne
    rw [show commitAt 0x3020 s = commitGrnPart s from rfl, commitGrnPart, ← hf, hg, hord, hshare, hblock, hidle, decide_eq_false (show ¬ g.flagQ.toNat < _ by omega)]
    rfl
  rw [hcommit]
  refine ⟨?_, fun k hk => ?_, ?_⟩
  · rw [grnPartOf_takeGrnPart, if_pos rfl, grnPartOf_setGrnPart_self]
    exact inForce_take_judge _
  · rw [grnPartOf_takeGrnPart, if_neg hk, grnPartOf_setGrnPart_ne _ _ hk]
  · exact (takeGrnPart_frame _ _).1

theorem yields_synFlagbCommit {f : Nat} (hhost : s.boot.relHost = true) (hseq : s.boot.relSeq = true)
    (hbit : bitAt v.toNat 0 = true) (hf : f = s.hub.grnSel.toNat) (hidle : grainWork s f = false)
    (hblock : blockBad s f ((flagBaseOf s f).staged.toNat, (flagBlock s f).2) (grainsOf s f) = false) :
    Yields (.synFlagbCommit v) s fun t =>
      InForce (flagBaseOf s f) (flagBaseOf t f) ∧ (∀ k, k ≠ f → flagBaseOf t k = flagBaseOf s k)
      ∧ t = { s with hub := t.hub, seq := t.seq } := by
  refine yields_barCommit rfl hhost rfl (by simp [regStaged]) (by decide) hseq (by decide) hbit ?_
  have hcommit : commitAt 0x4008 s = takeGrnPart f (setFlagBase f ((flagBaseOf s f).judge false false false) s) := by
    rw [show commitAt 0x4008 s = commitFlagB s from rfl, commitFlagB, ← hf, hblock, hidle]
    rfl
  rw [hcommit]
  refine ⟨?_, fun k hk => ?_, ?_⟩
  · rw [flagBaseOf_takeGrnPart, if_pos rfl, flagBaseOf_setFlagBase_self]
    exact inForce_take_judge _
  · rw [flagBaseOf_takeGrnPart, if_neg hk, flagBaseOf_setFlagBase_ne _ _ hk]
  · exact (takeGrnPart_frame _ _).1

/-! ### LNK_LANE and KEEP -/

theorem yields_lnkLaneCommit {k : Nat} (hhost : s.boot.relHost = true) (hlk : s.boot.relLk = true)
    (hbit : bitAt v.toNat 0 = true) (hk : k = s.dev.lnkSel.toNat)
    (hlanes : (lnkLaneOf s k).staged.lanes = 2#4 ∨ (lnkLaneOf s k).staged.lanes = 4#4 ∨ (lnkLaneOf s k).staged.lanes = 8#4)
    (hnodup : ((List.range (lnkLaneOf s k).staged.lanes.toNat).map
      (fun i => bits (lnkLaneOf s k).staged.map.toNat (3 * i) 3)).Nodup) :
    Yields (.lnkLaneCommit v) s fun t =>
      (lnkLaneOf t k).waiting = some (lnkLaneOf s k).staged ∧ (lnkLaneOf t k).inForce = (lnkLaneOf s k).inForce
      ∧ (lnkLaneOf t k).mismatch = false ∧ t = { s with dev := { s.dev with lnkLane := t.dev.lnkLane } } := by
  refine yields_barCommit rfl hhost rfl (by simp [regStaged]) (by decide) hlk (by decide) hbit ?_
  have hcommit : commitAt 0x5018 s = { s with dev := { s.dev with
      lnkLane := tset LnkLane.reset s.dev.lnkLane k ((lnkLaneOf s k).judge false false false) } } := by
    have hcount : decide ((lnkLaneOf s k).staged.lanes.toNat ∉ [2, 4, 8]) = false := by
      rcases hlanes with h | h | h <;> rw [h] <;> rfl
    rw [show commitAt 0x5018 s = commitLnkLane s from rfl, commitLnkLane]
    dsimp only
    rw [← hk, hcount, decide_eq_false (not_not_intro hnodup)]
    rfl
  rw [hcommit]
  have hself : ∀ p, lnkLaneOf { s with dev := { s.dev with lnkLane := tset LnkLane.reset s.dev.lnkLane k p } } k = p :=
    fun _ => tget_tset_self ..
  rw [hself]
  exact ⟨rfl, rfl, rfl, rfl⟩

theorem yields_keepCommit (hhost : s.boot.relHost = true) (hbit : bitAt v.toNat 0 = true)
    (hgood : keepBad s.dev.keep.staged = false) (hidle : keepBusy s = false) (halone : Alone .keep s) :
    Yields (.keepCommit v) s fun t =>
      InForce s.dev.keep t.dev.keep ∧ (∀ e ∈ t.keep.blocks, e.1 < s.dev.keep.staged.size.toNat * 4096)
      ∧ Noted s t ∧ t = { s with dev := { s.dev with keep := t.dev.keep }, keep := t.keep, log := t.log } := by
  refine yields_barCommit rfl hhost rfl (by simp [regStaged]) (by decide) rfl (by decide) hbit ?_
  have hcommit : commitAt 0x7010 s = noteOrder (pfOrder .keep .keepCommit 0#32) (resizeKeep s.dev.keep.staged
      { s with dev := { s.dev with keep := s.dev.keep.judge false false true } }) := by
    rw [show commitAt 0x7010 s = commitKeep s from rfl, commitKeep]
    dsimp only
    rw [rival_of_alone halone, hgood, hidle]
    rfl
  rw [hcommit]
  exact ⟨⟨rfl, rfl, rfl, rfl, rfl, rfl⟩, fun e he => of_decide_eq_true (List.mem_filter.mp he).2, rfl, rfl⟩

/-- A commit that the GRC's order of the same boundary beats: three entries, and the staging as in force or pending. -/
theorem yields_keepCommit_preempted {a : Order} (hhost : s.boot.relHost = true) (hbit : bitAt v.toNat 0 = true)
    (hrival : rival s .keep [.keepSize] = some a) (hmaster : a.master = 0) :
    Yields (.keepCommit v) s fun t =>
      t.dev.keep.inForce = s.dev.keep.inForce ∧ t.dev.keep.waiting = s.dev.keep.waiting ∧ t.dev.keep.preempted = true
      ∧ t.dev.keep.mismatch = false ∧ t.dev.keep.staged = s.dev.keep.waiting.getD s.dev.keep.inForce
      ∧ t.log.seq = s.log.seq + 3#16
      ∧ t = { s with dev := { s.dev with keep := t.dev.keep }, log := t.log, out := t.out, cnt := t.cnt } := by
  refine yields_barCommit rfl hhost rfl (by simp [regStaged]) (by decide) rfl (by decide) hbit ?_
  have hcommit : commitAt 0x7010 s = logRefused 0x40 islPmu 0xFF#8 7 (logCollision a (pfOrder .keep .keepCommit 0#32) true
      { s with dev := { s.dev with keep := s.dev.keep.lose } }) := by
    rw [show commitAt 0x7010 s = commitKeep s from rfl, commitKeep]
    dsimp only
    rw [hrival, Option.filter_some, if_pos (decide_eq_true hmaster)]
  have hlogged := logged_trans (logCollision_eq a (pfOrder .keep .keepCommit 0#32) true
    (s := { s with dev := { s.dev with keep := s.dev.keep.lose } })) (logAs_eq _ 0x08 0x40 (locOf 3 islPmu) 0xFF#8 1 7 0)
  have hseq : (logRefused 0x40 islPmu 0xFF#8 7 (logCollision a (pfOrder .keep .keepCommit 0#32) true
      { s with dev := { s.dev with keep := s.dev.keep.lose } })).log.seq = s.log.seq + 3#16 := by
    rw [logRefused, logAs_logSeq, logCollision, logAs_logSeq, logAs_logSeq, BitVec.add_assoc, BitVec.add_assoc]
    rfl
  rw [hcommit]
  rw [← logRefused] at hlogged
  generalize logRefused 0x40 islPmu 0xFF#8 7 (logCollision a (pfOrder .keep .keepCommit 0#32) true
      { s with dev := { s.dev with keep := s.dev.keep.lose } }) = w at hlogged hseq
  have hkeep : w.dev.keep = s.dev.keep.lose := by rw [hlogged]
  refine ⟨by rw [hkeep]; rfl, by rw [hkeep]; rfl, by rw [hkeep]; rfl, by rw [hkeep]; rfl, by rw [hkeep]; rfl, hseq, ?_⟩
  rw [hkeep]
  exact hlogged

/-- Settles O30: each group's commit is judged by its own rules, and what passes is in force, pending or beaten as the group has it. -/
theorem commitsTakeEffect : Obligations.CommitsTakeEffect := by
  refine ⟨?marl, ?ten, ?tenRefused, ?model, ?map, ?mapRefused, ?grn, ?flagb, ?lane, ?keep, ?preempted⟩
  case marl => exact fun _ _ hhost hmarl hbit hreg h4 h16 h8 h32 => yields_marlPartCommit hhost hmarl hbit hreg h4 h16 h8 h32
  case ten => exact fun _ _ hhost hbit hle hlim => yields_hubTenCommit hhost hbit hle hlim
  case tenRefused => exact fun _ _ hhost hbit hlt => yields_hubTenCommit_refused hhost hbit hlt
  case model => exact fun _ _ hhost hbit hidle hgood => yields_hubModelCommit hhost hbit hidle hgood
  case map => exact fun _ _ hhost hbc hbit h0 h1 hgood => yields_bcMapCommit hhost hbc hbit h0 h1 hgood
  case mapRefused => exact fun _ _ hhost hbc hbit hc => yields_bcMapCommit_refused hhost hbc hbit hc
  case grn =>
    exact fun _ _ _ _ hhost hbit hf hg hidle hrange hshare hquota hblock =>
      yields_grnPartCommit hhost hbit hf hg hidle hrange hshare hquota hblock
  case flagb => exact fun _ _ _ hhost hseq hbit hf hidle hblock => yields_synFlagbCommit hhost hseq hbit hf hidle hblock
  case lane => exact fun _ _ _ hhost hlk hbit hk hlanes hnodup => yields_lnkLaneCommit hhost hlk hbit hk hlanes hnodup
  case keep => exact fun _ _ hhost hbit hgood hidle halone => yields_keepCommit hhost hbit hgood hidle halone
  case preempted => exact fun _ _ _ hhost hbit hrival hmaster => yields_keepCommit_preempted hhost hbit hrival hmaster

end Sys2Proof.Machine
end

section
/-! The start of the module: power good and its first steps, memory initialisation, the restore of the Keep region, Media
Ready and fabric ready (18 R466 to R473). -/

namespace Sys2Proof.Machine

variable {s t : State}

/-! ### Power good -/

theorem execPowerGood_of_unpowered {k : BitVec 3} (h : s.boot.powered = false) :
    execPowerGood k s = ok (powerUp k (s.boot.powerOnCount + 1#32) s) := by
  rw [execPowerGood, h]
  rfl

/-- The module with its rails up, before the first step. -/
def risen (k : BitVec 3) (n : U32) (s : State) : State :=
  { s with boot := { s.boot with powered := true, slotId := k, powerOnCount := n }, pwr := { s.pwr with lost := false, trip := false } }

theorem powerUp_eq (k : BitVec 3) (n : U32) (s : State) : powerUp k n s = bootSteps (risen k n s) := rfl

theorem bootSteps_of_valid (h : slotValid s s.fw.active = true) :
    bootSteps s = setPhase 0x04#8 0 { s with boot := { s.boot with fwSlot := s.fw.active, relHost := true, relLk := true } } := by
  rw [bootSteps, h]
  rfl

theorem bootSteps_of_none_valid (h : ∀ k, slotValid s k = false) : bootSteps s = haltStart 0x01 s := by
  rw [bootSteps, h, h]
  rfl

theorem yields_powerGood {k : BitVec 3} (hoff : s.boot.powered = false) (hslot : slotValid s s.fw.active = true) :
    Yields (.powerGood k) s fun t =>
      t.boot.phase = 0x04#8 ∧ t.boot.powered = true ∧ t.boot.slotId = k ∧ t.boot.relHost = true ∧ t.boot.relLk = true
      ∧ t.boot.fwSlot = s.fw.active ∧ t.boot.powerOnCount = s.boot.powerOnCount + 1#32
      ∧ t = { s with boot := t.boot, pwr := { s.pwr with lost := false, trip := false } } := by
  refine yields_of_ok (execPowerGood_of_unpowered hoff) ?_
  rw [powerUp_eq, bootSteps_of_valid (s := risen k _ s) hslot]
  exact ⟨rfl, rfl, rfl, rfl, rfl, rfl, rfl, rfl⟩

theorem yields_powerGood_of_none {k : BitVec 3} (hoff : s.boot.powered = false) (h1 : slotValid s true = false)
    (h0 : slotValid s false = false) :
    Yields (.powerGood k) s fun t =>
      t.boot.phase = 0x0E#8 ∧ t.boot.code = 0x01#8 ∧ Logged 0x03 0x01 s t ∧ t.fw = s.fw ∧ t.bank = s.bank := by
  refine yields_of_ok (execPowerGood_of_unpowered hoff) ?_
  have hnone : ∀ j, slotValid s j = false := Bool.rec h0 h1
  rw [powerUp_eq, bootSteps_of_none_valid (s := risen k _ s) hnone, haltStart]
  refine ⟨?_, ?_, ?_, ?_, ?_⟩
  · exact congrArg Boot.phase (logDev_boot ..)
  · exact congrArg Boot.code (logDev_boot ..)
  · exact logged_logAs _ _ _ _ _ _ _ rfl rfl
  · exact logDev_fw ..
  · exact logDev_bank ..

/-- Settles O31: the active slot's steps, or the halt that no valid slot leaves. -/
theorem coldStartBegins : Obligations.ColdStartBegins :=
  ⟨fun _ _ hoff hslot => yields_powerGood hoff hslot, fun _ _ hoff h1 h0 => yields_powerGood_of_none hoff h1 h0⟩

/-! ### Memory initialisation, restore, Media Ready, fabric ready -/

/-- The bytes of a memory that keeps the words of a range. -/
theorem byte_filter_words (f : Nat → Bool) (m : Memory) (a : Nat) :
    Memory.byte (m.filter (fun p => f (p.1 / 32))) a = if f (a / 32) then Memory.byte m a else 0#8 :=
  tget_filter_key 0#8 (fun k => f (k / 32)) m a

theorem yields_memoryInitDone (hph : s.boot.phase = 0x06#8) :
    Yields .memoryInitDone s fun t =>
      t.boot.phase = 0x07#8 ∧ t.boot.memInit = true
      ∧ (∀ a, wordWithin s 0 (keepBytes s) (a / 32) = false → Memory.byte t.bank.mem a = 0#8)
      ∧ (∀ a, wordWithin s 0 (keepBytes s) (a / 32) = true → Memory.byte t.bank.mem a = Memory.byte s.bank.mem a)
      ∧ t = { s with boot := t.boot, bank := { s.bank with mem := t.bank.mem, marks := t.bank.marks } } := by
  have hu := show execMemoryInitDone s = ok _ from if_pos hph
  refine yields_of_ok hu ⟨rfl, rfl, fun a ha => ?_, fun a ha => ?_, rfl⟩
  · exact (byte_filter_words (wordWithin s 0 (keepBytes s)) _ _).trans (by rw [ha]; rfl)
  · exact (byte_filter_words (wordWithin s 0 (keepBytes s)) _ _).trans (by rw [ha]; rfl)

theorem nandBlocks_of_empty (h : s.keep.nand = []) : nandBlocks s = [] := by rw [nandBlocks, h]; rfl

/-- The restore where the NAND holds no copy and the bank no record: the region is zeroed and nothing was stale or bad. -/
theorem restoreKeep_of_empty (hnand : s.keep.nand = []) (hrec : s.keep.record = none) :
    restoreKeep s = { s with
      bank := { s.bank with mem := s.bank.mem.filter (fun p => !wordWithin s 0 (keepBytes s) (p.1 / 32)),
                            marks := s.bank.marks.filter (fun p => !wordWithin s 0 (keepBytes s) p.1) },
      keep := { s.keep with blocks := [] }, dev := { s.dev with restoreStat := 1#64, restoreMtb := 0#64 } } := by
  have hstat : 1 + bitIf (none : Option SaveRec).isSome 1 + satNat 32 (0 + 0) * 4 + satNat 16 0 * 2 ^ 34 = 1 := by norm_num [bitIf, satNat]
  simp only [restoreKeep, nandBlocks_of_empty, hnand, hrec, List.foldl_nil, Option.map_none, Option.getD_none, hstat,
    and_self, if_true]

theorem yields_keepRestoreDone (hph : s.boot.phase = 0x07#8) (hnot : s.boot.keepRestored = false) (hnand : s.keep.nand = [])
    (hrec : s.keep.record = none) :
    Yields .keepRestoreDone s fun t =>
      t.boot.keepRestored = true ∧ t.dev.restoreStat = 1#64 ∧ t.keep.blocks = []
      ∧ (∀ a, wordWithin s 0 (keepBytes s) (a / 32) = true → Memory.byte t.bank.mem a = 0#8)
      ∧ (∀ a, wordWithin s 0 (keepBytes s) (a / 32) = false → Memory.byte t.bank.mem a = Memory.byte s.bank.mem a) := by
  have hu := show execKeepRestoreDone s = ok _ from if_pos ⟨hph, hnot⟩
  refine yields_of_ok hu ?_
  rw [restoreKeep_of_empty hnand hrec]
  refine ⟨rfl, rfl, rfl, fun a ha => ?_, fun a ha => ?_⟩
  · exact (byte_filter_words (fun w => !wordWithin s 0 (keepBytes s) w) _ _).trans (by rw [ha]; rfl)
  · exact (byte_filter_words (fun w => !wordWithin s 0 (keepBytes s) w) _ _).trans (by rw [ha]; rfl)

/-- The FLRs that complete leave through the link and are no longer kept. -/
theorem endFlrs_frame (s : State) : endFlrs s = { s with cxl := { s.cxl with flrs := [] }, out := (endFlrs s).out } := by
  refine foldl_of_step (P := fun u : State => u = { s with cxl := { s.cxl with flrs := [] }, out := u.out })
    (fun u q hu => ?_) rfl s.cxl.flrs
  rw [hu]
  rfl

theorem yields_mediaReady_cold (hph : s.boot.phase = 0x07#8) (hkeep : s.boot.keepRestored = true) (hseq : s.boot.relSeq = true)
    (hlay : s.boot.relLay = true) (hmx : s.boot.relMx = 0xF#4) :
    Yields .mediaReady s fun t =>
      t.boot.mediaReady = true ∧ t.boot.phase = 0x08#8 ∧ t.cxl = { s.cxl with flrs := [] }
      ∧ t = { s with boot := t.boot, cxl := t.cxl, out := t.out } := by
  have hu := show execMediaReady s = ok _ from if_pos ⟨hph, hkeep, hseq, hlay, hmx⟩
  refine yields_of_ok hu ?_
  rw [endFlrs_frame]
  exact ⟨rfl, rfl, rfl, rfl⟩

theorem yields_mediaReady_warm (hph : s.boot.phase = 0x0A#8) (hbc : s.boot.relBc = 0xFFFF#16) :
    Yields .mediaReady s fun t =>
      t.boot.mediaReady = true ∧ t.boot.phase = 0x08#8 ∧ t.boot.relHost = true ∧ t.boot.relMarl = true ∧ t.boot.relSeq = true
      ∧ t.boot.relLay = true ∧ t.boot.relMx = 0xF#4 ∧ t.boot.relLk = true
      ∧ t = { s with boot := t.boot, cxl := t.cxl, out := t.out, lnk := { s.lnk with plan := t.lnk.plan } } := by
  have hcold : ¬ (s.boot.phase = 0x07#8 ∧ s.boot.keepRestored = true ∧ s.boot.relSeq = true ∧ s.boot.relLay = true
      ∧ s.boot.relMx = 0xF#4) := fun h => absurd (hph.symm.trans h.1) (by decide)
  have hu := show execMediaReady s = ok _ from (if_neg hcold).trans (if_pos ⟨hph, hbc⟩)
  refine yields_of_ok hu ?_
  rw [endFlrs_frame]
  exact ⟨rfl, rfl, rfl, rfl, rfl, rfl, rfl, rfl, rfl⟩

theorem yields_fabricReady {pl : Plan} (hpl : s.lnk.plan = some pl) (hph : s.boot.phase = 0x08#8)
    (hstep : s.clk.stepped = true)
    (hports : ((List.range 6).all (fun p => !((pl.ports[p]?).any (fun e => e.enabled)) || portSettled s p)) = true) :
    Yields .fabricReady s fun t =>
      t.boot.fabricReady = true ∧ t.boot.phase = 0x09#8 ∧ t.out = s.out ++ [.sideband .fabricReady 1#64]
      ∧ t = { s with boot := t.boot, out := t.out } := by
  have hall : ((List.range 6).filter (fun p => (pl.ports[p]?).any (fun e => e.enabled))).all (portSettled s) = true := by
    rw [List.all_filter]
    exact hports
  have hu : execFabricReady s = ok (emit (.sideband .fabricReady 1#64)
      (setPhase 0x09#8 0 { s with boot := { s.boot with fabricReady := true } })) := by
    simp only [execFabricReady, hpl, hall, hph, hstep, true_or, and_self, if_true]
  exact yields_of_ok hu ⟨rfl, rfl, rfl, rfl⟩

theorem yields_fabricWaitExpiry {p : PortNo} {pl : Plan} {e : PlanPort} (hlk : s.boot.relLk = true)
    (hpl : s.lnk.plan = some pl) (he : pl.ports[p.val]? = some e) (hen : e.enabled = true)
    (hst : (port s p.val).st = .down ∨ (port s p.val).st = .train) :
    Yields (.fabricWaitExpiry p) s fun t =>
      t.boot.portWaived = s.boot.portWaived ||| (1#6 <<< p.val)
      ∧ t = { s with boot := { s.boot with portWaived := t.boot.portWaived } } := by
  have hplan : (s.lnk.plan.any fun pl => (pl.ports[p.val]?).any fun e => e.enabled) = true := by
    rw [hpl, Option.any_some, he, Option.any_some, hen]
  have hu := show execFabricWaitExpiry p s = ok _ from if_pos ⟨hlk, hplan, hst⟩
  exact yields_of_ok hu ⟨rfl, rfl⟩

/-- Settles O33: each step of the start has its phase, and leaves the next step's. -/
theorem theModuleBecomesReady : Obligations.TheModuleBecomesReady := by
  refine ⟨?init, ?restore, ?cold, ?warm, ?fabric, ?waived⟩
  case init => exact fun _ hph => yields_memoryInitDone hph
  case restore => exact fun _ hph hnot hnand hrec => yields_keepRestoreDone hph hnot hnand hrec
  case cold => exact fun _ hph hkeep hseq hlay hmx => yields_mediaReady_cold hph hkeep hseq hlay hmx
  case warm => exact fun _ hph hbc => yields_mediaReady_warm hph hbc
  case fabric => exact fun _ _ hpl hph hstep hports => yields_fabricReady hpl hph hstep hports
  case waived => exact fun _ _ _ _ hlk hpl he hen hst => yields_fabricWaitExpiry hlk hpl he hen hst

end Sys2Proof.Machine
end

section
/-! What the bank commands need: numbers as digits, the column words of a memory, the open rows of a rank, and a command at
every die of it (07 R186 to R206). -/

namespace Sys2Proof.Machine

variable {s t u : State} {c r : Nat}

/-! ### Folds that write under a condition -/

theorem read_foldl_if {σ α β : Type} {read : σ → β} {write : σ → α → σ} {C : α → Prop} [DecidablePred C] {v : β}
    (h : ∀ u p, read (write u p) = if C p then v else read u) (l : List α) (u : σ) :
    read (l.foldl write u) = if ∃ p ∈ l, C p then v else read u := by
  induction l generalizing u with
  | nil => rw [List.foldl_nil, if_neg (by rintro ⟨p, hp, -⟩; cases hp)]
  | cons p l ih =>
    rw [List.foldl_cons, ih, h]
    by_cases hp : C p
    · rw [if_pos hp, ite_self, if_pos ⟨p, List.mem_cons_self, hp⟩]
    · rw [if_neg hp]
      exact ite_congr (by simp [hp]) (fun _ => rfl) (fun _ => rfl)

/-! ### Digits -/

/-- The number whose digits in base 2^m are f 0, f 1 and on. -/
def digits (m : Nat) (f : Nat → Nat) (n : Nat) : Nat := (List.range n).foldl (fun a d => a + f d * 2 ^ (m * d)) 0

theorem digits_succ (m : Nat) (f : Nat → Nat) (n : Nat) : digits m f (n + 1) = digits m f n + f n * 2 ^ (m * n) := by
  rw [digits, List.range_succ, List.foldl_append]
  rfl

theorem digits_lt {m n : Nat} {f : Nat → Nat} (hf : ∀ d, f d < 2 ^ m) : digits m f n < 2 ^ (m * n) := by
  induction n with
  | zero => exact Nat.lt_of_lt_of_eq Nat.zero_lt_one (by rw [Nat.mul_zero, Nat.pow_zero])
  | succ n ih =>
    rw [digits_succ, Nat.mul_succ, Nat.pow_add]
    calc digits m f n + f n * 2 ^ (m * n) < 2 ^ (m * n) + f n * 2 ^ (m * n) := Nat.add_lt_add_right ih _
      _ = (f n + 1) * 2 ^ (m * n) := by ring
      _ ≤ 2 ^ m * 2 ^ (m * n) := Nat.mul_le_mul_right _ (hf n)
      _ = 2 ^ (m * n) * 2 ^ m := Nat.mul_comm _ _

theorem digits_div_mod {m n e : Nat} {f : Nat → Nat} (hf : ∀ d, f d < 2 ^ m) (he : e < n) :
    digits m f n / 2 ^ (m * e) % 2 ^ m = f e := by
  induction n with
  | zero => cases he
  | succ n ih =>
    rw [digits_succ]
    by_cases hen : e = n
    · subst hen
      rw [Nat.add_mul_div_right _ _ (Nat.two_pow_pos _), Nat.div_eq_of_lt (digits_lt hf), Nat.zero_add, Nat.mod_eq_of_lt (hf e)]
    · have hpow : 2 ^ (m * n) = 2 ^ (m * (n - e - 1)) * 2 ^ m * 2 ^ (m * e) := by
        rw [← Nat.pow_add, ← Nat.pow_add, ← Nat.mul_succ, ← Nat.mul_add]
        congr 2
        omega
      rw [hpow, ← Nat.mul_assoc, Nat.add_mul_div_right _ _ (Nat.two_pow_pos _), ← Nat.mul_assoc, Nat.add_mul_mod_self_right,
        ih (by omega)]

theorem extract_ofNat_digits {m n k e : Nat} {f : Nat → Nat} (hf : ∀ d, f d < 2 ^ m) (he : e < n) (hk : k = m * n) :
    ((BitVec.ofNat k (digits m f n)).extractLsb' (m * e) m).toNat = f e := by
  rw [BitVec.extractLsb'_toNat, BitVec.toNat_ofNat, hk, Nat.mod_eq_of_lt (digits_lt hf), Nat.shiftRight_eq_div_pow,
    digits_div_mod hf he]

/-! ### Column words of a memory -/

theorem byte_setBytes_inside (m : Memory) (a : Nat) (bs : List Byte) {i : Nat} (hi : i < bs.length) :
    Memory.byte (Memory.setBytes m a bs) (a + i) = bs[i] := by
  induction bs generalizing m a i with
  | nil => cases hi
  | cons b bs ih =>
    rw [Memory.setBytes]
    cases i with
    | zero => exact (byte_setBytes_outside _ _ _ _ (Or.inl (Nat.lt_add_one a))).trans (byte_setByte_self ..)
    | succ i =>
      have hi' : i < bs.length := Nat.lt_of_succ_lt_succ hi
      rw [show a + (i + 1) = a + 1 + i by omega, ih _ _ hi', List.getElem_cons_succ]

theorem bytes_congr {m m' : Memory} {a n : Nat} (h : ∀ i < n, Memory.byte m' (a + i) = Memory.byte m (a + i)) :
    Memory.bytes m' a n = Memory.bytes m a n :=
  List.map_congr_left fun i hi => h i (List.mem_range.mp hi)

theorem bytes_setBytes_self (m : Memory) (a : Nat) (bs : List Byte) : Memory.bytes (Memory.setBytes m a bs) a bs.length = bs := by
  refine List.ext_getElem (by simp [Memory.bytes]) fun i h _ => ?_
  have hi : i < bs.length := by simpa [Memory.bytes] using h
  simp only [Memory.bytes, List.getElem_map, List.getElem_range]
  exact byte_setBytes_inside m a bs hi

@[simp] theorem col_setCol_self (m : Memory) (w : Nat) (d : ColData) : Memory.col (Memory.setCol m w d) w = d := by
  have hbytes : Memory.bytes (Memory.setCol m w d) (w * 32) 32 = leBytes 32 d.toNat := by
    have h := bytes_setBytes_self m (w * 32) (leBytes 32 d.toNat)
    rwa [length_leBytes] at h
  have hd : d.toNat < 256 ^ 32 := d.isLt
  rw [Memory.col, hbytes, leNat_leBytes, Nat.mod_eq_of_lt hd, BitVec.ofNat_toNat, BitVec.setWidth_eq]

theorem col_setCol_ne (m : Memory) {w v : Nat} (d : ColData) (h : v ≠ w) :
    Memory.col (Memory.setCol m w d) v = Memory.col m v := by
  have hout : ∀ i < 32, Memory.byte (Memory.setCol m w d) (v * 32 + i) = Memory.byte m (v * 32 + i) := fun i hi =>
    byte_setBytes_outside _ _ _ _ (by rw [length_leBytes]; omega)
  rw [Memory.col, bytes_congr hout, Memory.col]

theorem markOf_setColAt_self (w : Nat) (d : ColData) (po : Bool) (s : State) :
    markOf (setColAt w d po s) w = { poison := po, flips := 0 } := tget_tset_self ..

theorem markOf_setColAt_ne {w v : Nat} (d : ColData) (po : Bool) (s : State) (h : v ≠ w) :
    markOf (setColAt w d po s) v = markOf s v := tget_tset_ne _ _ _ _ _ h

/-! ### The column words of a unit -/

section
variable {bank row col d e : Nat}

/-- The column word of die d at a place of its rank. -/
def dieWord (c r bank row col d : Nat) : Nat := locWord { c := c, r := r, d := d, bank := bank, row := row, col := col }

theorem unitWords_eq (c r bank row col : Nat) : unitWords c r bank row col = (List.range 4).map (dieWord c r bank row col) := rfl

theorem mem_unitWords {w : Nat} : w ∈ unitWords c r bank row col ↔ ∃ d < 4, w = dieWord c r bank row col d := by
  simp [unitWords_eq, eq_comm]

theorem dieWord_inj : dieWord c r bank row col d = dieWord c r bank row col e ↔ d = e := by
  simp only [dieWord, locWord]
  omega

theorem d_wordLoc_dieWord (hd : d < 4) (hb : bank < 32) (hr : row < 65536) (hc : col < 64) :
    (wordLoc (dieWord c r bank row col d)).d = d := by
  simp only [dieWord, locWord, wordLoc]
  omega

theorem row_wordLoc_dieWord (hr : row < 65536) (hc : col < 64) : (wordLoc (dieWord c r bank row col d)).row = row := by
  simp only [dieWord, locWord, wordLoc]
  omega

end

/-! ### A command at every die of a rank -/

/-- The open rows with one bank's row set, or the bank closed. -/
def rowPut (bank : Nat) (v : Option Nat) (rows : Tab Nat) : Tab Nat :=
  match v with
  | some n => tput (terase rows bank) bank n
  | none => terase rows bank

theorem tfind_rowPut (bank b : Nat) (v : Option Nat) (rows : Tab Nat) :
    tfind (rowPut bank v rows) b = if b = bank then v else tfind rows b := by
  by_cases hb : b = bank
  · subst hb
    rw [if_pos rfl]
    cases v with
    | none => exact tfind_terase_self ..
    | some n => exact tfind_tput_self ..
  · rw [if_neg hb]
    cases v with
    | none => exact tfind_terase_ne _ _ _ hb
    | some n => exact (tfind_tput_ne _ _ _ _ hb).trans (tfind_terase_ne _ _ _ hb)

theorem setOpen_eq (d bank : Nat) (v : Option Nat) (u : State) :
    setOpen c r d bank v u = changeDie c r (fun _ x => { x with openRows := rowPut bank v x.openRows }) u d := by
  cases v <;> rfl

theorem bankOwned_of_grains (h : t.bank.grains = s.bank.grains) (d b : Nat) : bankOwned t c r d b = bankOwned s c r d b := by
  rw [bankOwned, bankOwn, grain, h, bankOwned, bankOwn, grain]

theorem bankAccess_of_free {bank d : Nat} {act : State → State} (h : bankOwned s c r d bank = false) :
    bankAccess c r bank d act s = act s := by
  rw [bankAccess, h, if_neg Bool.false_ne_true]

theorem bankFree_iff {bank : Nat} : bankFree s c r bank = true ↔ ∀ d < 4, bankOwned s c r d bank = false := by
  simp [bankFree]

/-- What a step at one die of a rank leaves alone that the rank's commands go by: the die goes on hearing, and the owner of
every bank stays. -/
structure KeepsHearing (c r : Nat) (s t : State) : Prop where
  hears : ∀ e, dieHears (die t (dieNo c r e)) = dieHears (die s (dieNo c r e))
  grains : t.bank.grains = s.bank.grains

namespace KeepsHearing

theorem refl (s : State) : KeepsHearing c r s s := ⟨fun _ => rfl, rfl⟩

theorem trans (h : KeepsHearing c r s t) (h' : KeepsHearing c r t u) : KeepsHearing c r s u :=
  ⟨fun e => (h'.hears e).trans (h.hears e), h'.grains.trans h.grains⟩

theorem of_dies (hd : t.bank.dies = s.bank.dies) (hg : t.bank.grains = s.bank.grains) : KeepsHearing c r s t :=
  ⟨fun e => by rw [die, hd, die], hg⟩

theorem foldl {α : Type} {act : State → α → State} (h : ∀ u p, KeepsHearing c r u (act u p)) (l : List α) (s : State) :
    KeepsHearing c r s (l.foldl act s) :=
  foldl_of_step (P := KeepsHearing c r s) (fun u p hu => hu.trans (h u p)) (refl s) l

theorem changeDie {F : Nat → DieSt → DieSt} (hF : ∀ d x, dieHears (F d x) = dieHears x) (u : State) (d : Nat) :
    KeepsHearing c r u (changeDie c r F u d) := by
  refine ⟨fun e => ?_, rfl⟩
  rw [die_changeDie]
  split
  · exact hF e _
  · rfl

theorem setOpen (bank : Nat) (v : Option Nat) (d : Nat) (u : State) : KeepsHearing c r u (setOpen c r d bank v u) := by
  rw [setOpen_eq]
  refine changeDie ?_ u d
  exact fun _ _ => rfl

theorem bankAccess {bank d : Nat} {act : State → State} (h : KeepsHearing c r s (act s)) :
    KeepsHearing c r s (bankAccess c r bank d act s) := by
  unfold Machine.bankAccess
  split
  · exact changeDie (F := fun _ x => { x with cause := x.cause ||| 1#8 <<< 2 }) (fun _ _ => rfl) s d
  · exact h

end KeepsHearing

/-- Where every die hears, the rank carries a command out die by die, each in a state that goes by the same owners. -/
theorem onRank_of_hears {act : Nat → State → State} {step : State → Nat → State} (h : rankHears s c r = true)
    (hact : ∀ u, KeepsHearing c r s u → ∀ d < 4, act d u = step u d) (hstep : ∀ u d, KeepsHearing c r u (step u d)) :
    onRank c r act s = (List.range 4).foldl step s := by
  obtain ⟨he, hears⟩ := rankHears_iff.mp h
  exact onRank_eq_foldl (inv := KeepsHearing c r s) he (.refl s) fun u hu d hd =>
    ⟨(hu.hears d).trans (hears d hd), hact u hu d hd, hu.trans (hstep u d)⟩

/-! ### Open rows -/

theorem openRow_setOpen (d bank : Nat) (v : Option Nat) (u : State) (e b : Nat) :
    openRow (setOpen c r d bank v u) c r e b = if e = d ∧ b = bank then v else openRow u c r e b := by
  rw [setOpen_eq, openRow, die_changeDie]
  by_cases he : e = d
  · rw [if_pos he, tfind_rowPut]
    simp only [he, true_and, openRow]
  · rw [if_neg he, if_neg fun h => he h.1, openRow]

theorem diesOnly_setOpen {d : Nat} (hd : d < 4) (bank : Nat) (v : Option Nat) (u : State) :
    DiesOnly c r u (setOpen c r d bank v u) := diesOnly_setDie hd _

/-- One bank's row set at every die. -/
theorem openRow_foldl_setOpen (bank : Nat) (v : Option Nat) (s : State) {e : Nat} (he : e < 4) (b : Nat) :
    openRow ((List.range 4).foldl (fun u d => setOpen c r d bank v u) s) c r e b
      = if b = bank then v else openRow s c r e b := by
  rw [read_foldl_if (read := fun u => openRow u c r e b) (fun u d => openRow_setOpen d bank v u e b)]
  refine ite_congr (propext ⟨?_, fun hb => ⟨e, List.mem_range.mpr he, rfl, hb⟩⟩) (fun _ => rfl) (fun _ => rfl)
  rintro ⟨d, -, -, hb⟩
  exact hb

theorem diesOnly_foldl_setOpen (bank : Nat) (v : Option Nat) (s : State) :
    DiesOnly c r s ((List.range 4).foldl (fun u d => setOpen c r d bank v u) s) :=
  diesOnly_foldl fun u _ hd => diesOnly_setOpen (List.mem_range.mp hd) bank v u

end Sys2Proof.Machine
end

section
/-! The bank commands at a rank's dies: ACT and PRE, RD and WR, REF (07 R186 to R206). -/

namespace Sys2Proof.Machine

variable {s t u : State} {c : Chan} {r : Rank}

/-! ### Folds over distinct writes, and folds in ascending order -/

/-- What one member's write makes of P, the other members leaving P before it and Q after it. -/
theorem foldl_at_mem {σ α : Type} {P Q : σ → Prop} {write : σ → α → σ} {l : List α} {q : α}
    (hbefore : ∀ p ∈ l, p ≠ q → ∀ u, P u → P (write u p)) (hat : ∀ u, P u → Q (write u q))
    (hafter : ∀ p ∈ l, p ≠ q → ∀ u, Q u → Q (write u p)) (hnodup : l.Nodup) (hq : q ∈ l) {u : σ} (hu : P u) :
    Q (l.foldl write u) := by
  obtain ⟨l₁, l₂, rfl⟩ := List.append_of_mem hq
  obtain ⟨hne, -⟩ := List.nodup_cons.mp (List.nodup_middle.mp hnodup)
  have hP : P (l₁.foldl write u) := List.foldlRecOn l₁ write hu fun v hv p hp =>
    hbefore p (by simp [hp]) (fun e => hne (e ▸ List.mem_append_left _ hp)) v hv
  rw [List.foldl_append, List.foldl_cons]
  exact List.foldlRecOn l₂ write (hat _ hP) fun v hv p hp =>
    hafter p (by simp [hp]) (fun e => hne (e ▸ List.mem_append_right _ hp)) v hv

theorem foldl_range_congr {σ : Type} {f g : σ → Nat → σ} {inv : Nat → σ → Prop} {n : Nat} {u : σ} (h0 : inv 0 u)
    (h : ∀ d < n, ∀ v, inv d v → f v d = g v d ∧ inv (d + 1) (g v d)) :
    (List.range n).foldl f u = (List.range n).foldl g u := by
  suffices hboth : ∀ m ≤ n, (List.range m).foldl f u = (List.range m).foldl g u ∧ inv m ((List.range m).foldl g u) from
    (hboth n le_rfl).1
  intro m hm
  induction m with
  | zero => exact ⟨rfl, h0⟩
  | succ m ih =>
    obtain ⟨heq, hinv⟩ := ih (by omega)
    obtain ⟨hstep, hnext⟩ := h m (by omega) _ hinv
    rw [List.range_succ, List.foldl_append, List.foldl_append, heq]
    exact ⟨hstep, hnext⟩

/-! ### ACT and PRE -/

theorem rankHears_countEv (src inst : Nat) (f : Option Func) (n : Nat) (c r : Nat) :
    rankHears (countEv src inst f n s) c r = rankHears s c r := by
  simp only [rankHears, die, countEv_bank]

theorem yields_act {bank : BankNo} {row : RowNo} (hh : rankHears s c r = true) (hf : bankFree s c r bank = true) :
    Yields (.act c r bank row) s fun t =>
      (∀ d < 4, openRow t c r d bank = some row.val ∧ ∀ b, b ≠ bank.val → openRow t c r d b = openRow s c r d b)
      ∧ DiesOnly c r s t := by
  have hu : execAct c r bank row s
      = ok ((List.range 4).foldl (fun u d => setOpen c r d bank (some row.val) u) (countEv 0x20 c none 1 s)) := by
    refine congrArg ok (onRank_of_hears ((rankHears_countEv ..).trans hh) (fun u hu d hd => ?_) fun u d => .setOpen _ _ d u)
    exact bankAccess_of_free ((bankOwned_of_grains hu.grains d bank).trans (bankFree_iff.mp hf d hd))
  refine yields_of_ok hu ⟨fun d hd => ⟨?_, fun b hb => ?_⟩, (diesOnly_countEv ..).trans (diesOnly_foldl_setOpen ..)⟩
  · rw [openRow_foldl_setOpen _ _ _ hd, if_pos rfl]
  · rw [openRow_foldl_setOpen _ _ _ hd, if_neg hb]
    rfl

/-- On banks that grains own, every die ignores the command, with BANK_OWNED (07 R206). -/
theorem yields_act_of_owned {bank : BankNo} {row : RowNo} (hh : rankHears s c r = true)
    (hown : ∀ d < 4, bankOwned s c r d bank = true) :
    Yields (.act c r bank row) s fun t =>
      (∀ d < 4, (die t (dieNo c r d)).openRows = (die s (dieNo c r d)).openRows
        ∧ (die t (dieNo c r d)).cause = (die s (dieNo c r d)).cause ||| 4#8)
      ∧ DiesOnly c r s t := by
  have hu : execAct c r bank row s = ok ((List.range 4).foldl (changeDie c r (fun _ x => { x with cause := x.cause ||| 4#8 }))
      (countEv 0x20 c none 1 s)) := by
    refine congrArg ok (onRank_of_hears ((rankHears_countEv ..).trans hh) (fun u hu d hd => ?_) fun u d => ?_)
    · have hd' : bankOwned u c r d bank = true := (bankOwned_of_grains hu.grains d bank).trans (hown d hd)
      rw [bankAccess, hd', if_pos rfl]
      rfl
    · refine .changeDie ?_ u d
      exact fun _ _ => rfl
  obtain ⟨hdie, honly⟩ := foldl_changeDie (c := c) (r := r) (fun _ x => { x with cause := x.cause ||| 4#8 })
    (countEv 0x20 c none 1 s)
  refine yields_of_ok hu ⟨fun d hd => ?_, (diesOnly_countEv ..).trans honly⟩
  rw [hdie d hd]
  exact ⟨rfl, rfl⟩

/-- The banks that a command of one bank or of all names. -/
def namedBanks (all : Bool) (bank : Nat) : List Nat := if all then List.range 32 else [bank]

theorem mem_namedBanks {all : Bool} {bank : BankNo} {b : Nat} : b ∈ namedBanks all bank ↔ b < 32 ∧ (all = true ∨ b = bank.val) := by
  have hbank : bank.val < 32 := bank.isLt
  unfold namedBanks
  split
  · next hall => simp [hall]
  · next hall =>
    simp only [List.mem_singleton, hall, false_or, Bool.false_eq_true]
    exact ⟨fun h => ⟨h ▸ hbank, h⟩, fun h => h.2⟩

theorem nodup_namedBanks (all : Bool) (bank : Nat) : (namedBanks all bank).Nodup := by
  unfold namedBanks
  split
  · exact List.nodup_range
  · exact List.nodup_singleton _

/-- Several banks of one die are closed. -/
def closeBanks (c r : Nat) (banks : List Nat) (u : State) (d : Nat) : State :=
  banks.foldl (fun v b => setOpen c r d b none v) u

theorem openRow_closeBanks (banks : List Nat) (u : State) (d e b : Nat) :
    openRow (closeBanks c r banks u d) c r e b = if e = d ∧ b ∈ banks then none else openRow u c r e b := by
  rw [closeBanks, read_foldl_if (read := fun u => openRow u c r e b) (C := fun k => e = d ∧ b = k)
    fun v k => openRow_setOpen d k none v e b]
  exact ite_congr (propext (by simp [and_comm])) (fun _ => rfl) (fun _ => rfl)

theorem yields_pre {bank : BankNo} {all : Bool} (hh : rankHears s c r = true)
    (hf : ∀ b < 32, (all = true ∨ b = bank.val) → bankFree s c r b = true) :
    Yields (.pre c r bank all) s fun t =>
      (∀ d < 4, ∀ b, openRow t c r d b = if b < 32 ∧ (all = true ∨ b = bank.val) then none else openRow s c r d b)
      ∧ DiesOnly c r s t := by
  have hu : execPre c r bank all s = ok ((List.range 4).foldl (closeBanks c r (namedBanks all bank)) s) := by
    refine congrArg ok (onRank_of_hears hh (fun u hu d hd => ?_) fun u d => .foldl (fun v b => .setOpen b none d v) _ u)
    refine foldl_congr_of_inv (inv := KeepsHearing c r s) _ (fun v hv b hb => ?_) hu
    obtain ⟨hlt, hnamed⟩ := mem_namedBanks.mp hb
    exact ⟨bankAccess_of_free ((bankOwned_of_grains hv.grains d b).trans (bankFree_iff.mp (hf b hlt hnamed) d hd)),
      hv.trans (.setOpen b none d v)⟩
  refine yields_of_ok hu ⟨fun d hd b => ?_, diesOnly_foldl fun u e he =>
    diesOnly_foldl fun v b _ => diesOnly_setOpen (List.mem_range.mp he) b none v⟩
  rw [read_foldl_if (read := fun u => openRow u c r d b) (C := fun e => d = e ∧ b ∈ namedBanks all bank)
    fun u e => openRow_closeBanks _ u e d b]
  refine ite_congr (propext ?_) (fun _ => rfl) (fun _ => rfl)
  rw [← mem_namedBanks]
  exact ⟨fun ⟨_, _, _, hb⟩ => hb, fun hb => ⟨d, List.mem_range.mpr hd, rfl, hb⟩⟩

/-! ### The precharge that an access asks for -/

/-- A bank is closed at every die where the access asks for it. -/
def precharged (c r bank : Nat) (ap : Bool) (u : State) : State :=
  if ap then (List.range 4).foldl (fun v d => setOpen c r d bank none v) u else u

theorem onRank_precharge {bank : Nat} {ap : Bool} (hh : rankHears s c r = true) (hf : bankFree s c r bank = true) :
    onRank c r (fun d v => bankAccess c r bank d (fun w => if ap then setOpen c r d bank none w else w) v) s
      = precharged c r bank ap s := by
  have hfree : ∀ u, KeepsHearing c r s u → ∀ d < 4, bankOwned u c r d bank = false := fun u hu d hd =>
    (bankOwned_of_grains hu.grains d bank).trans (bankFree_iff.mp hf d hd)
  cases ap with
  | true =>
    have hclose := onRank_of_hears (act := fun d v => bankAccess c r bank d (fun w => setOpen c r d bank none w) v)
      (step := fun u d => setOpen c r d bank none u) hh (fun u hu d hd => bankAccess_of_free (hfree u hu d hd))
      fun u d => .setOpen _ _ d u
    rw [precharged, if_pos rfl, ← hclose]
    simp only [if_true]
  | false =>
    have hid := onRank_of_hears (act := fun d v => bankAccess c r bank d (fun w => w) v) (step := fun u _ => u) hh
      (fun u hu d hd => bankAccess_of_free (hfree u hu d hd)) fun u _ => .refl u
    rw [List.foldl_fixed' (fun _ => rfl)] at hid
    rw [precharged, if_neg Bool.false_ne_true]
    simpa only [Bool.false_eq_true, if_false] using hid

theorem openRow_precharged {bank d row : Nat} (ap : Bool) (hd : d < 4) (h : openRow u c r d bank = some row) :
    openRow (precharged c r bank ap u) c r d bank = if ap = true then none else some row := by
  cases ap with
  | true => rw [precharged, if_pos rfl, if_pos rfl, openRow_foldl_setOpen _ _ _ hd, if_pos rfl]
  | false => exact h

theorem diesOnly_precharged (bank : Nat) (ap : Bool) (u : State) : DiesOnly c r u (precharged c r bank ap u) := by
  cases ap with
  | true =>
    rw [precharged, if_pos rfl]
    exact diesOnly_foldl_setOpen ..
  | false =>
    rw [precharged, if_neg Bool.false_ne_true]
    exact .refl u

/-! ### RD: the burst of four dies -/

theorem openWord_of_open {d bank col row : Nat} (hown : bankOwned s c r d bank = false) (hrow : openRow s c r d bank = some row) :
    openWord s c r d bank col = some (dieWord c r bank row col d) := by
  rw [openWord, hown, hrow]
  rfl

section
variable {bank col row : Nat} (hh : rankHears s c r = true) (hf : bankFree s c r bank = true)
  (hrow : ∀ d < 4, openRow s c r d bank = some row)
include hh hf hrow

theorem rdWords_of_open : rdWords s c r bank col = unitWords c r bank row col := by
  obtain ⟨he, hears⟩ := rankHears_iff.mp hh
  rw [rdWords, unitWords_eq, ← List.filterMap_eq_map]
  refine List.filterMap_congr fun d hd => ?_
  have hd4 := List.mem_range.mp hd
  rw [he, hears d hd4, openWord_of_open (bankFree_iff.mp hf d hd4) (hrow d hd4)]
  rfl

theorem answers_of_open (get : Nat → ColData × Nat) :
    answers s c r (fun d => (openWord s c r d bank col).map fun w => get w)
      = (List.range 4).map (fun d => some (get (dieWord c r bank row col d))) := by
  obtain ⟨he, hears⟩ := rankHears_iff.mp hh
  refine List.map_congr_left fun d hd => ?_
  have hd4 := List.mem_range.mp hd
  simp only [he, hears d hd4, openWord_of_open (bankFree_iff.mp hf d hd4) (hrow d hd4), Bool.and_self, if_true, Option.map_some]

end

/-- Four dies that all drive the lines put their data and their codes on the bus. -/
theorem burst_of_driven (get : Nat → ColData × Nat) (s : State) :
    burst c r ((List.range 4).map (fun d => some (get d))) s
      = emit (.caData c r (BitVec.ofNat 1024 (digits 256 (fun d => (get d).1.toNat) 4))
          (BitVec.ofNat 8 (digits 2 (fun d => (get d).2 % 4) 4))) s := rfl

theorem chkOf_lt (s : State) (w : Nat) : chkOf s w < 4 := by
  have hflips := (markOf s w).flips.isLt
  rw [chkOf]
  split <;> omega

/-- The state from which a read's burst leaves: what the read finds is noted. -/
theorem burstOf_digits {get : Nat → ColData × Nat} {part : Nat → ColData} {chk : Nat → Nat}
    (hout : t.out = s.out ++ [.caData c r (BitVec.ofNat 1024 (digits 256 (fun d => (get d).1.toNat) 4))
      (BitVec.ofNat 8 (digits 2 (fun d => (get d).2 % 4) 4))])
    (hpart : ∀ d < 4, (get d).1 = part d) (hchk : ∀ d < 4, (get d).2 = chk d ∧ chk d < 4) : BurstOf c r part chk s t := by
  refine ⟨_, _, hout, fun d hd => ⟨?_, ?_⟩⟩
  · refine BitVec.eq_of_toNat_eq ?_
    rw [extract_ofNat_digits (fun e => (get e).1.isLt) hd rfl, hpart d hd]
  · obtain ⟨heq, hlt⟩ := hchk d hd
    rw [extract_ofNat_digits (m := 2) (f := fun e => (get e).2 % 4) (fun e => Nat.mod_lt (get e).2 (by decide : 0 < 4)) hd rfl, heq, Nat.mod_eq_of_lt hlt]

theorem noteRead_counts (c r bank row col : Nat) (ws : List Nat) (s : State) :
    noteRead c r bank row col ws s
      = { s with cnt := { s.cnt with cnt := (noteRead c r bank row col ws s).cnt.cnt },
                 ctl := { s.ctl with corrected := (noteRead c r bank row col ws s).ctl.corrected,
                                     bad := (noteRead c r bank row col ws s).ctl.bad } } := by
  unfold noteRead noteCorrected countEv
  dsimp only
  repeat' split
  all_goals rfl

theorem flipCol_zero (w : Nat) (s : State) : flipCol w 0 s = s := rfl

theorem takeFlips_nil (ws : List Nat) (s : State) : takeFlips ws [] s = s := List.foldl_fixed' (fun w => flipCol_zero w s) ws

/-- What RD leaves, from the state in which the flips it finds are in place. -/
def afterRd (c : Chan) (r : Rank) (bank row col : Nat) (ap : Bool) (v : State) : State :=
  precharged c r bank ap
    (emit (.caData c r (BitVec.ofNat 1024 (digits 256 (fun d => (Memory.col v.bank.mem (dieWord c r bank row col d)).toNat) 4))
        (BitVec.ofNat 8 (digits 2 (fun d => chkOf v (dieWord c r bank row col d) % 4) 4)))
      (noteRead c r bank (wordLoc (dieWord c r bank row col 0)).row col (unitWords c r bank row col) v))

theorem execRd_of_open {bank : BankNo} {col : ColNo} {ap : Bool} {flips : Flips} {row : Nat}
    (hh : rankHears s c r = true) (hf : bankFree s c r bank = true) (hrow : ∀ d < 4, openRow s c r d bank = some row)
    {v : State} (hv : takeFlips (unitWords c r bank row col) flips s = v) (hdies : v.bank.dies = s.bank.dies)
    (hgrains : v.bank.grains = s.bank.grains) :
    execRd c r bank col ap flips s = ok (afterRd c r bank row col ap v) := by
  have hkeep : ∀ w : State, w.bank = v.bank → rankHears w c r = true ∧ bankFree w c r bank = true
      ∧ ∀ d < 4, openRow w c r d bank = some row := by
    intro w hw
    have hdie : ∀ i, die w i = die s i := fun i => by rw [die, hw, hdies, die]
    refine ⟨?_, ?_, fun d hd => ?_⟩
    · simpa only [rankHears, hdie] using hh
    · exact bankFree_iff.mpr fun d hd => (bankOwned_of_grains (by rw [hw, hgrains]) d bank).trans (bankFree_iff.mp hf d hd)
    · rw [openRow, hdie, ← openRow, hrow d hd]
  obtain ⟨hhv, hfv, hrowv⟩ := hkeep v rfl
  have hans := answers_of_open (col := col.val) hhv hfv hrowv fun w => (Memory.col v.bank.mem w, chkOf v w)
  have hburst := burst_of_driven (c := c) (r := r)
    (fun d => (Memory.col v.bank.mem (dieWord c r bank row col d), chkOf v (dieWord c r bank row col d)))
    (noteRead c r bank (wordLoc (dieWord c r bank row col 0)).row col (unitWords c r bank row col) v)
  have hhead : (((unitWords c r bank row col).head?).map fun w => (wordLoc w).row).getD 0
      = (wordLoc (dieWord c r bank row col 0)).row := rfl
  have hbank : (noteRead c r bank (wordLoc (dieWord c r bank row col 0)).row col (unitWords c r bank row col) v).bank = v.bank := by
    rw [noteRead_counts]
  obtain ⟨hhw, hfw, -⟩ := hkeep (emit (.caData c r
      (BitVec.ofNat 1024 (digits 256 (fun d => (Memory.col v.bank.mem (dieWord c r bank row col d)).toNat) 4))
      (BitVec.ofNat 8 (digits 2 (fun d => chkOf v (dieWord c r bank row col d) % 4) 4)))
    (noteRead c r bank (wordLoc (dieWord c r bank row col 0)).row col (unitWords c r bank row col) v)) hbank
  have hpre := onRank_precharge (ap := ap) hhw hfw
  unfold execRd
  dsimp only
  rw [rdWords_of_open hh hf hrow, hv, hans, hhead, hburst, hpre]
  rfl

theorem afterRd_frame (bank row col : Nat) (ap : Bool) (v : State) :
    OtherDies c r v (afterRd c r bank row col ap v)
    ∧ afterRd c r bank row col ap v = { v with
        out := v.out ++ [.caData c r
          (BitVec.ofNat 1024 (digits 256 (fun d => (Memory.col v.bank.mem (dieWord c r bank row col d)).toNat) 4))
          (BitVec.ofNat 8 (digits 2 (fun d => chkOf v (dieWord c r bank row col d) % 4) 4))],
        bank := { v.bank with dies := (afterRd c r bank row col ap v).bank.dies },
        cnt := { v.cnt with cnt := (afterRd c r bank row col ap v).cnt.cnt },
        ctl := { v.ctl with corrected := (afterRd c r bank row col ap v).ctl.corrected,
                            bad := (afterRd c r bank row col ap v).ctl.bad } } := by
  unfold afterRd
  have hnote := noteRead_counts c r bank (wordLoc (dieWord c r bank row col 0)).row col (unitWords c r bank row col) v
  generalize noteRead c r bank (wordLoc (dieWord c r bank row col 0)).row col (unitWords c r bank row col) v = w at hnote ⊢
  generalize BitVec.ofNat 1024 (digits 256 (fun d => (Memory.col v.bank.mem (dieWord c r bank row col d)).toNat) 4) = data
  generalize BitVec.ofNat 8 (digits 2 (fun d => chkOf v (dieWord c r bank row col d) % 4) 4) = code
  obtain ⟨hother, hframe⟩ := diesOnly_precharged (c := c) (r := r) bank ap (emit (.caData c r data code) w)
  generalize precharged c r bank ap (emit (.caData c r data code) w) = z at hother hframe ⊢
  refine ⟨fun i hi => (hother i hi).trans ?_, ?_⟩
  · rw [hnote]
    rfl
  · rw [hframe, hnote]
    rfl

theorem yields_rd {bank : BankNo} {col : ColNo} {ap : Bool} {row : Nat} (hh : rankHears s c r = true)
    (hf : bankFree s c r bank = true) (hrow : ∀ d < 4, openRow s c r d bank = some row) :
    Yields (.rd c r bank col ap []) s fun t =>
      BurstOf c r
        (fun d => Memory.col s.bank.mem (locWord { c := c, r := r, d := d, bank := bank, row := row, col := col }))
        (fun d => chkOf s (locWord { c := c, r := r, d := d, bank := bank, row := row, col := col })) s t
      ∧ (∀ d < 4, openRow t c r d bank = if ap = true then none else some row)
      ∧ OtherDies c r s t
      ∧ t = { s with out := t.out, bank := { s.bank with dies := t.bank.dies }, cnt := { s.cnt with cnt := t.cnt.cnt },
                     ctl := { s.ctl with corrected := t.ctl.corrected, bad := t.ctl.bad } } := by
  refine yields_of_ok (execRd_of_open hh hf hrow (takeFlips_nil _ s) rfl rfl) ?_
  obtain ⟨hother, hframe⟩ := afterRd_frame (c := c) (r := r) bank row col ap s
  have hopen : ∀ d < 4, openRow (afterRd c r bank row col ap s) c r d bank = if ap = true then none else some row := by
    intro d hd
    refine openRow_precharged ap hd ?_
    rw [← hrow d hd, openRow, die, noteRead_counts]
    rfl
  generalize afterRd c r bank row col ap s = t at hother hframe hopen
  refine ⟨burstOf_digits (get := fun d => (Memory.col s.bank.mem (dieWord c r bank row col d), chkOf s (dieWord c r bank row col d)))
    (by rw [hframe]) (fun _ _ => rfl) (fun d _ => ⟨rfl, chkOf_lt s _⟩), hopen, hother, ?_⟩
  rw [hframe]

/-! ### RD: the flips that it finds -/

theorem flipCol_frame (w n : Nat) (s : State) :
    flipCol w n s = { s with
      freeCtr := (flipCol w n s).freeCtr,
      bank := { s.bank with mem := (flipCol w n s).bank.mem, marks := (flipCol w n s).bank.marks } } := by
  unfold flipCol
  dsimp only
  repeat' split
  all_goals rfl

theorem takeFlips_frame (ws : List Nat) (flips : Flips) (s : State) :
    takeFlips ws flips s = { s with
      freeCtr := (takeFlips ws flips s).freeCtr,
      bank := { s.bank with mem := (takeFlips ws flips s).bank.mem, marks := (takeFlips ws flips s).bank.marks } } := by
  refine foldl_of_step (P := fun u : State => u = { s with
    freeCtr := u.freeCtr,
    bank := { s.bank with mem := u.bank.mem, marks := u.bank.marks } })
    (fun u w hu => ?_) rfl ws
  rw [flipCol_frame, hu]

theorem flipCol_other {v w : Nat} (n : Nat) (s : State) (h : v ≠ w) :
    Memory.col (flipCol w n s).bank.mem v = Memory.col s.bank.mem v ∧ markOf (flipCol w n s) v = markOf s v := by
  unfold flipCol
  dsimp only
  split
  · exact ⟨rfl, rfl⟩
  · split
    · exact ⟨col_setCol_ne _ _ h, tget_tset_ne _ _ _ _ _ h⟩
    · exact ⟨rfl, tget_tset_ne _ _ _ _ _ h⟩

/-- A clean word read with f flipped bits is marked with them, and keeps its data up to one. -/
theorem flipCol_of_clean {w : Nat} (f : Fin 3) (h : markOf s w = Mark.clean) :
    markOf (flipCol w f.val s) w = { poison := false, flips := f }
      ∧ (f.val < 2 → Memory.col (flipCol w f.val s).bank.mem w = Memory.col s.bank.mem w) := by
  have hclean : Mark.clean.flips.val = 0 := rfl
  have hmark : ∀ k : Nat, k = f.val → ({ Mark.clean with flips := Fin.ofNat 3 k } : Mark) = { poison := false, flips := f } := by
    rintro k rfl
    rw [Fin.ofNat_val_eq_self]
    rfl
  have hk : min 2 (0 + f.val) = f.val := by omega
  unfold flipCol
  simp only [h, hclean, hk]
  split
  · next h0 =>
    have hf : f = 0 := Fin.ext h0
    rw [h, hf]
    exact ⟨rfl, fun _ => rfl⟩
  · split
    · next h2 => exact ⟨(tget_tset_self ..).trans (hmark _ rfl), fun hlt => absurd h2.2 (by omega)⟩
    · exact ⟨(tget_tset_self ..).trans (hmark _ rfl), fun _ => rfl⟩

section
variable {bank : BankNo} {col : ColNo} {row : Nat} {flips : Flips}

theorem takeFlips_other {w : Nat} (h : w ∉ unitWords c r bank row col) :
    Memory.col (takeFlips (unitWords c r bank row col) flips s).bank.mem w = Memory.col s.bank.mem w
      ∧ markOf (takeFlips (unitWords c r bank row col) flips s) w = markOf s w := by
  rw [takeFlips]
  refine List.foldlRecOn (motive := fun u : State => Memory.col u.bank.mem w = Memory.col s.bank.mem w ∧ markOf u w = markOf s w)
    _ _ ⟨rfl, rfl⟩ fun u ⟨hcol, hmark⟩ v hv => ?_
  obtain ⟨hcol', hmark'⟩ := flipCol_other (flips.getD (wordLoc v).d 0).val u fun e => h (Eq.mpr (congrArg (· ∈ unitWords c r bank row col) e) hv)
  exact ⟨hcol'.trans hcol, hmark'.trans hmark⟩

theorem nodup_unitWords (c r bank row col : Nat) : (unitWords c r bank row col).Nodup :=
  List.nodup_range.map fun _ _ h => dieWord_inj.mp h

theorem takeFlips_at {d : Nat} (hd : d < 4) (hrow : row < 65536)
    (hclean : markOf s (dieWord c r bank row col d) = Mark.clean) :
    markOf (takeFlips (unitWords c r bank row col) flips s) (dieWord c r bank row col d)
        = { poison := false, flips := flips.getD d 0 }
      ∧ ((flips.getD d 0).val < 2 → Memory.col (takeFlips (unitWords c r bank row col) flips s).bank.mem (dieWord c r bank row col d)
          = Memory.col s.bank.mem (dieWord c r bank row col d)) := by
  have hdie : (wordLoc (dieWord c r bank row col d)).d = d := d_wordLoc_dieWord hd bank.isLt hrow col.isLt
  generalize hw : dieWord c r bank row col d = w at hclean hdie ⊢
  have hmem : w ∈ unitWords c r bank row col := mem_unitWords.mpr ⟨d, hd, hw.symm⟩
  rw [takeFlips]
  refine foldl_at_mem
    (P := fun u : State => markOf u w = Mark.clean ∧ Memory.col u.bank.mem w = Memory.col s.bank.mem w)
    (Q := fun u : State => markOf u w = { poison := false, flips := flips.getD d 0 }
      ∧ ((flips.getD d 0).val < 2 → Memory.col u.bank.mem w = Memory.col s.bank.mem w))
    (fun v _ hne u ⟨hmark, hcol⟩ => ?_) (fun u ⟨hmark, hcol⟩ => ?_) (fun v _ hne u ⟨hmark, hcol⟩ => ?_)
    (nodup_unitWords ..) hmem ⟨hclean, rfl⟩
  · obtain ⟨hcol', hmark'⟩ := flipCol_other (flips.getD (wordLoc v).d 0).val u hne.symm
    exact ⟨hmark'.trans hmark, hcol'.trans hcol⟩
  · obtain ⟨hmark', hcol'⟩ := flipCol_of_clean (flips.getD d 0) hmark
    rw [hdie]
    exact ⟨hmark', fun hlt => (hcol' hlt).trans hcol⟩
  · obtain ⟨hcol', hmark'⟩ := flipCol_other (flips.getD (wordLoc v).d 0).val u hne.symm
    exact ⟨hmark'.trans hmark, fun hlt => hcol'.trans (hcol hlt)⟩

end

theorem chkOf_of_mark {w : Nat} {f : Fin 3} (h : markOf s w = { poison := false, flips := f }) : chkOf s w = f.val := by
  rw [chkOf, h]
  rfl

theorem isSome_bad_noteRead {bank row col : Nat} {ws : List Nat} {w : Nat} (hw : w ∈ ws) (h : chkOf s w = 2) :
    (tfind (noteRead c r bank row col ws s).ctl.bad (4 * c.val + r.val)).isSome = true := by
  have hany : (ws.any fun w => decide (chkOf s w = 2)) = true := List.any_eq_true.mpr ⟨w, hw, decide_eq_true h⟩
  rw [noteRead]
  dsimp only
  rw [hany, if_pos rfl]
  simp

theorem yields_rd_flips {bank : BankNo} {col : ColNo} {ap : Bool} {flips : Flips} {row : Nat} (hh : rankHears s c r = true)
    (hf : bankFree s c r bank = true) (hrow : ∀ d < 4, openRow s c r d bank = some row) (hlt : row < 65536)
    (hclean : ∀ w ∈ unitWords c r bank row col, markOf s w = Mark.clean) :
    Yields (.rd c r bank col ap flips) s fun t =>
      (∃ (v : Wide) (k : BitVec 8), t.out = s.out ++ [.caData c r v k] ∧ ∀ d < 4,
        (k.extractLsb' (2 * d) 2).toNat = (flips.getD d 0).val ∧ ((flips.getD d 0).val < 2 →
          v.extractLsb' (256 * d) 256 =
            Memory.col s.bank.mem (locWord { c := c, r := r, d := d, bank := bank, row := row, col := col })))
      ∧ (∀ w, w ∉ unitWords c r bank row col →
          Memory.col t.bank.mem w = Memory.col s.bank.mem w ∧ markOf t w = markOf s w)
      ∧ ((∃ d < 4, flips.getD d 0 = 2) → (tfind t.ctl.bad (4 * c.val + r.val)).isSome = true) := by
  have hfl := takeFlips_frame (unitWords c r bank row col) flips s
  have hother : ∀ w, w ∉ unitWords c r bank row col → _ := fun w hw => takeFlips_other (s := s) (flips := flips) hw
  have hat : ∀ d < 4, _ := fun d hd => takeFlips_at (flips := flips) hd hlt (hclean _ (mem_unitWords.mpr ⟨d, hd, rfl⟩))
  generalize hv : takeFlips (unitWords c r bank row col) flips s = v at hfl hother hat
  refine yields_of_ok (execRd_of_open hh hf hrow hv (by rw [hfl]) (by rw [hfl])) ?_
  have hchk : ∀ d < 4, chkOf v (dieWord c r bank row col d) = (flips.getD d 0).val := fun d hd => chkOf_of_mark (hat d hd).1
  have hbad : (∃ d < 4, flips.getD d 0 = 2) →
      (tfind (afterRd c r bank row col ap v).ctl.bad (4 * c.val + r.val)).isSome = true := by
    rintro ⟨d, hd, h2⟩
    rw [afterRd, (diesOnly_precharged ..).2]
    refine isSome_bad_noteRead (mem_unitWords.mpr ⟨d, hd, rfl⟩) ?_
    rw [hchk d hd, h2]
    rfl
  obtain ⟨-, hframe⟩ := afterRd_frame (c := c) (r := r) bank row col ap v
  generalize afterRd c r bank row col ap v = t at hframe hbad
  obtain ⟨w, k, hout, hburst⟩ := burstOf_digits (s := v) (t := t)
    (get := fun d => (Memory.col v.bank.mem (dieWord c r bank row col d), chkOf v (dieWord c r bank row col d)))
    (by rw [hframe]) (fun _ _ => rfl) (fun d _ => ⟨rfl, chkOf_lt v _⟩)
  refine ⟨⟨w, k, ?_, fun d hd => ?_⟩, fun x hx => ?_, hbad⟩
  · rw [hout, hfl]
  · obtain ⟨hdata, hcode⟩ := hburst d hd
    exact ⟨hcode.trans (hchk d hd), fun h2 => hdata.trans ((hat d hd).2 h2)⟩
  · obtain ⟨hcol, hmark⟩ := hother x hx
    rw [markOf, hframe]
    exact ⟨hcol, hmark⟩

/-! ### WR -/

/-- A die stores its part of the data, and closes the bank where the command asks for it. -/
def storeDie (c r bank row col : Nat) (ap po : Bool) (data : Wide) (u : State) (d : Nat) : State :=
  let v := setColAt (dieWord c r bank row col d) (data.extractLsb' (256 * d) 256) po u
  if ap then setOpen c r d bank none v else v

section
variable {bank row col : Nat} {ap po : Bool} {data : Wide}

theorem storeDie_bank (u : State) (d : Nat) :
    (storeDie c r bank row col ap po data u d).bank.mem
        = Memory.setCol u.bank.mem (dieWord c r bank row col d) (data.extractLsb' (256 * d) 256)
      ∧ (storeDie c r bank row col ap po data u d).bank.marks
        = tset Mark.clean u.bank.marks (dieWord c r bank row col d) { poison := po, flips := 0 } := by
  cases ap with
  | true => exact ⟨rfl, rfl⟩
  | false => exact ⟨rfl, rfl⟩

theorem col_storeDie (u : State) (d w : Nat) :
    Memory.col (storeDie c r bank row col ap po data u d).bank.mem w
      = if w = dieWord c r bank row col d then data.extractLsb' (256 * d) 256 else Memory.col u.bank.mem w := by
  rw [(storeDie_bank u d).1]
  split
  · next h => rw [h, col_setCol_self]
  · next h => exact col_setCol_ne _ _ h

theorem markOf_storeDie (u : State) (d w : Nat) :
    markOf (storeDie c r bank row col ap po data u d) w
      = if w = dieWord c r bank row col d then { poison := po, flips := 0 } else markOf u w := by
  rw [markOf, (storeDie_bank u d).2]
  split
  · next h => rw [h, tget_tset_self]
  · next h => exact tget_tset_ne _ _ _ _ _ h

theorem openRow_storeDie (u : State) (d e b : Nat) :
    openRow (storeDie c r bank row col ap po data u d) c r e b
      = if ap = true ∧ e = d ∧ b = bank then none else openRow u c r e b := by
  cases ap with
  | true =>
    simp only [storeDie, if_true, true_and]
    exact openRow_setOpen d bank none _ e b
  | false =>
    rw [if_neg fun h => Bool.false_ne_true h.1]
    rfl

theorem keepsHearing_storeDie (u : State) (d : Nat) : KeepsHearing c r u (storeDie c r bank row col ap po data u d) := by
  have hcol : KeepsHearing c r u (setColAt (dieWord c r bank row col d) (data.extractLsb' (256 * d) 256) po u) := .of_dies rfl rfl
  cases ap with
  | true => exact hcol.trans (.setOpen bank none d _)
  | false => exact hcol

theorem storeDie_frame {d : Nat} (hd : d < 4) (u : State) :
    OtherDies c r u (storeDie c r bank row col ap po data u d)
      ∧ storeDie c r bank row col ap po data u d = { u with bank := (storeDie c r bank row col ap po data u d).bank } := by
  cases ap with
  | true =>
    refine ⟨fun i hi => ?_, rfl⟩
    exact (diesOnly_setOpen (c := c) (r := r) hd bank none
      (setColAt (dieWord c r bank row col d) (data.extractLsb' (256 * d) 256) po u)).1 i hi
  | false => exact ⟨fun _ _ => rfl, rfl⟩

end

theorem execWr_of_open {bank : BankNo} {col : ColNo} {ap po : Bool} {data : Wide} {row : Nat} (hh : rankHears s c r = true)
    (hf : bankFree s c r bank = true) (hrow : ∀ d < 4, openRow s c r d bank = some row) :
    execWr c r bank col ap po data s = ok ((List.range 4).foldl (storeDie c r bank row col ap po data) s) := by
  obtain ⟨he, hears⟩ := rankHears_iff.mp hh
  refine congrArg ok ?_
  rw [onRank, if_pos he]
  refine foldl_range_congr
    (inv := fun n u => KeepsHearing c r s u ∧ ∀ e, n ≤ e → openRow u c r e bank = openRow s c r e bank)
    ⟨.refl s, fun _ _ => rfl⟩ fun d hd u ⟨hkeep, hopen⟩ => ⟨?_, hkeep.trans (keepsHearing_storeDie u d), fun e he => ?_⟩
  · have hown := (bankOwned_of_grains hkeep.grains d bank).trans (bankFree_iff.mp hf d hd)
    rw [if_pos ((hkeep.hears d).trans (hears d hd)), bankAccess_of_free hown]
    simp only [openWord_of_open hown ((hopen d le_rfl).trans (hrow d hd))]
    rfl
  · rw [openRow_storeDie, if_neg fun h => by omega, hopen e (by omega)]

theorem yields_wr {bank : BankNo} {col : ColNo} {ap po : Bool} {data : Wide} {row : Nat} (hh : rankHears s c r = true)
    (hf : bankFree s c r bank = true) (hrow : ∀ d < 4, openRow s c r d bank = some row) :
    Yields (.wr c r bank col ap po data) s fun t =>
      (∀ d < 4, let w := locWord { c := c, r := r, d := d, bank := bank, row := row, col := col }
        Memory.col t.bank.mem w = data.extractLsb' (256 * d) 256 ∧ markOf t w = { poison := po, flips := 0 })
      ∧ (∀ w, w ∉ unitWords c r bank row col →
          Memory.col t.bank.mem w = Memory.col s.bank.mem w ∧ markOf t w = markOf s w)
      ∧ (∀ d < 4, openRow t c r d bank = if ap = true then none else some row)
      ∧ OtherDies c r s t ∧ t = { s with bank := t.bank } := by
  refine yields_of_ok (execWr_of_open hh hf hrow) ⟨fun d hd => ⟨?_, ?_⟩, fun w hw => ⟨?_, ?_⟩, fun d hd => ?_, ?_, ?_⟩
  · refine read_foldl_of_mem (read := fun u : State => Memory.col u.bank.mem (dieWord c r bank row col d))
      (F := fun _ => data.extractLsb' (256 * d) 256) (fun u => ?_) (fun e _ hne u => ?_) List.nodup_range (List.mem_range.mpr hd) s
    · rw [col_storeDie, if_pos rfl]
    · rw [col_storeDie, if_neg fun h => hne (dieWord_inj.mp h).symm]
  · refine read_foldl_of_mem (read := fun u : State => markOf u (dieWord c r bank row col d))
      (F := fun _ => { poison := po, flips := 0 }) (fun u => ?_) (fun e _ hne u => ?_) List.nodup_range (List.mem_range.mpr hd) s
    · rw [markOf_storeDie, if_pos rfl]
    · rw [markOf_storeDie, if_neg fun h => hne (dieWord_inj.mp h).symm]
  · refine read_foldl_of_keeps (read := fun u : State => Memory.col u.bank.mem w) (fun e he u => ?_) s
    rw [col_storeDie, if_neg fun h => hw (mem_unitWords.mpr ⟨e, List.mem_range.mp he, h⟩)]
  · refine read_foldl_of_keeps (read := fun u : State => markOf u w) (fun e he u => ?_) s
    rw [markOf_storeDie, if_neg fun h => hw (mem_unitWords.mpr ⟨e, List.mem_range.mp he, h⟩)]
  · rw [read_foldl_if (read := fun u => openRow u c r d bank) (C := fun e => ap = true ∧ d = e ∧ bank.val = bank.val)
      fun u e => openRow_storeDie u e d bank, hrow d hd]
    refine ite_congr (propext ⟨fun ⟨_, _, hap, _⟩ => hap, fun hap => ⟨d, List.mem_range.mpr hd, hap, rfl, rfl⟩⟩)
      (fun _ => rfl) (fun _ => rfl)
  · refine List.foldlRecOn (motive := OtherDies c r s) _ _ (fun _ _ => rfl) fun u hu e he i hi => ?_
    exact ((storeDie_frame (List.mem_range.mp he) u).1 i hi).trans (hu i hi)
  · refine List.foldlRecOn (motive := fun u : State => u = { s with bank := u.bank }) _ _ rfl fun u hu e he => ?_
    rw [(storeDie_frame (List.mem_range.mp he) u).2, hu]

/-! ### REF -/

/-- REF at one bank of a die, as the die keeps it (07 R205, R206). -/
def refreshed (o : Own) (b : Nat) (x : DieSt) : DieSt :=
  match o with
  | .controller => x
  | .blind => { x with cause := x.cause ||| 1#8 <<< 2 }
  | .polled =>
    if 4 ≤ tget 0 x.deferred b then { x with cause := x.cause ||| 1#8 <<< 3 }
    else { x with deferred := tset 0 x.deferred b (tget 0 x.deferred b + 1) }

theorem dieHears_refreshed (o : Own) (b : Nat) (x : DieSt) : dieHears (refreshed o b x) = dieHears x := by
  unfold refreshed
  split
  · rfl
  · rfl
  · split <;> rfl

theorem refBank_eq (d b : Nat) (u : State) :
    refBank c r d b u = if bankOwn u c r d b = .controller then u
      else changeDie c r (fun _ x => refreshed (bankOwn u c r d b) b x) u d := by
  unfold refBank changeDie refreshed
  cases bankOwn u c r d b with
  | controller => rfl
  | blind => rfl
  | polled =>
    dsimp only
    split <;> rfl

theorem keepsHearing_refBank (d b : Nat) (u : State) : KeepsHearing c r u (refBank c r d b u) := by
  rw [refBank_eq]
  split
  · exact .refl u
  · refine .changeDie (fun _ x => ?_) u d
    exact dieHears_refreshed _ b x

theorem diesOnly_refBank {d : Nat} (hd : d < 4) (b : Nat) (u : State) : DiesOnly c r u (refBank c r d b u) := by
  rw [refBank_eq]
  split
  · exact .refl u
  · exact diesOnly_setDie hd _

theorem die_refBank (d b : Nat) (u : State) (e : Nat) :
    die (refBank c r d b u) (dieNo c r e)
      = if e = d then refreshed (bankOwn u c r d b) b (die u (dieNo c r e)) else die u (dieNo c r e) := by
  rw [refBank_eq]
  split
  · next h =>
    rw [h]
    split <;> rfl
  · exact die_changeDie _ _ _ _

/-- REF at the banks named, die by die. -/
def refreshBanks (c r : Nat) (banks : List Nat) (u : State) (d : Nat) : State := banks.foldl (fun v b => refBank c r d b v) u

theorem keepsHearing_refreshBanks (banks : List Nat) (u : State) (d : Nat) :
    KeepsHearing c r u (refreshBanks c r banks u d) := .foldl (fun v b => keepsHearing_refBank d b v) _ u

theorem die_refreshBanks (banks : List Nat) (u : State) (d e : Nat) :
    die (refreshBanks c r banks u d) (dieNo c r e)
      = if e = d then banks.foldl (fun x b => refreshed (bankOwn u c r d b) b x) (die u (dieNo c r e)) else die u (dieNo c r e) := by
  unfold refreshBanks
  induction banks generalizing u with
  | nil => simp
  | cons b banks ih =>
    have hown : ∀ k, bankOwn (refBank c r d b u) c r d k = bankOwn u c r d k := fun k => by
      rw [bankOwn, grain, (keepsHearing_refBank (c := c) (r := r) d b u).grains, bankOwn, grain]
    rw [List.foldl_cons, ih, List.foldl_cons, die_refBank]
    simp only [hown]
    split <;> rfl

section
variable {own : Nat → Own} {banks : List Nat} {x : DieSt} {b : Nat}

theorem deferred_refreshed_self (o : Own) (b : Nat) (x : DieSt) :
    tget 0 (refreshed o b x).deferred b
      = tget 0 x.deferred b + if o = .polled ∧ tget 0 x.deferred b < 4 then 1 else 0 := by
  unfold refreshed
  split
  · simp
  · simp
  · split
    · next h => rw [if_neg (by omega)]; rfl
    · next h => rw [tget_tset_self, if_pos ⟨rfl, by omega⟩]

theorem deferred_refreshed_ne (o : Own) {k : Nat} (h : b ≠ k) (x : DieSt) :
    tget 0 (refreshed o k x).deferred b = tget 0 x.deferred b := by
  unfold refreshed
  split
  · rfl
  · rfl
  · split
    · rfl
    · exact tget_tset_ne 0 x.deferred k b (tget 0 x.deferred k + 1) h

theorem cause_refreshed {i : Nat} (o : Own) (k : Nat) (h : x.cause.getLsbD i = true) : (refreshed o k x).cause.getLsbD i = true := by
  unfold refreshed
  split
  · exact h
  · exact (BitVec.getLsbD_or ..).trans (by rw [h, Bool.true_or])
  · split
    · exact (BitVec.getLsbD_or ..).trans (by rw [h, Bool.true_or])
    · exact h

theorem openRows_refreshed (o : Own) (k : Nat) (x : DieSt) : (refreshed o k x).openRows = x.openRows := by
  unfold refreshed
  split
  · rfl
  · rfl
  · split <;> rfl

theorem deferred_foldl_refreshed (hnd : banks.Nodup) :
    tget 0 (banks.foldl (fun x b => refreshed (own b) b x) x).deferred b
      = tget 0 x.deferred b + if b ∈ banks ∧ own b = .polled ∧ tget 0 x.deferred b < 4 then 1 else 0 := by
  by_cases hb : b ∈ banks
  · rw [read_foldl_of_mem (read := fun y : DieSt => tget 0 y.deferred b)
      (F := fun n => n + if own b = .polled ∧ n < 4 then 1 else 0) (fun y => deferred_refreshed_self (own b) b y)
      (fun k _ hne y => deferred_refreshed_ne (own k) hne.symm y) hnd hb]
    simp only [hb, true_and]
  · rw [read_foldl_of_keeps (read := fun y : DieSt => tget 0 y.deferred b) fun k hk y =>
      deferred_refreshed_ne (own k) (fun e : b = k => hb (e.symm ▸ hk)) y]
    simp [hb]

theorem cause_foldl_refreshed_blind (hnd : banks.Nodup) (hb : b ∈ banks) (hown : own b = .blind) :
    (banks.foldl (fun x b => refreshed (own b) b x) x).cause.getLsbD 2 = true := by
  refine foldl_at_mem (P := fun _ => True) (Q := fun y : DieSt => y.cause.getLsbD 2 = true) (fun _ _ _ _ _ => trivial)
    (fun y _ => ?_) (fun k _ _ y hy => cause_refreshed (own k) k hy) hnd hb trivial
  rw [hown]
  exact (BitVec.getLsbD_or ..).trans (Bool.or_true _)

theorem cause_foldl_refreshed_polled (hnd : banks.Nodup) (hb : b ∈ banks) (hown : own b = .polled)
    (hfull : 4 ≤ tget 0 x.deferred b) : (banks.foldl (fun x b => refreshed (own b) b x) x).cause.getLsbD 3 = true := by
  refine foldl_at_mem (P := fun y : DieSt => 4 ≤ tget 0 y.deferred b) (Q := fun y : DieSt => y.cause.getLsbD 3 = true)
    (fun k _ hne y hy => (deferred_refreshed_ne (own k) hne.symm y).symm ▸ hy) (fun y hy => ?_)
    (fun k _ _ y hy => cause_refreshed (own k) k hy) hnd hb hfull
  rw [hown, refreshed, if_pos hy]
  exact (BitVec.getLsbD_or ..).trans (Bool.or_true _)

end

theorem yields_ref {bank : BankNo} {all : Bool} (hh : rankHears s c r = true) :
    Yields (.ref c r bank all) s fun t =>
      (∀ d < 4, ∀ b < 32, tget 0 (die t (dieNo c r d)).deferred b =
        tget 0 (die s (dieNo c r d)).deferred b
          + if (all = true ∨ b = bank.val) ∧ bankOwn s c r d b = .polled ∧ tget 0 (die s (dieNo c r d)).deferred b < 4
            then 1 else 0)
      ∧ (∀ d < 4, ∀ b < 32, (all = true ∨ b = bank.val) → bankOwn s c r d b = .blind →
          (die t (dieNo c r d)).cause.getLsbD 2 = true)
      ∧ (∀ d < 4, ∀ b < 32, (all = true ∨ b = bank.val) → bankOwn s c r d b = .polled →
          4 ≤ tget 0 (die s (dieNo c r d)).deferred b → (die t (dieNo c r d)).cause.getLsbD 3 = true)
      ∧ (∀ d < 4, (die t (dieNo c r d)).openRows = (die s (dieNo c r d)).openRows)
      ∧ DiesOnly c r s t := by
  have hu : execRef c r bank all s
      = ok ((List.range 4).foldl (refreshBanks c r (namedBanks all bank)) (countEv 0x21 c none 1 s)) :=
    congrArg ok (onRank_of_hears ((rankHears_countEv ..).trans hh) (fun _ _ _ _ => rfl)
      fun u d => keepsHearing_refreshBanks _ u d)
  have hdie : ∀ d < 4, die ((List.range 4).foldl (refreshBanks c r (namedBanks all bank)) (countEv 0x21 c none 1 s)) (dieNo c r d)
      = (namedBanks all bank).foldl (fun x b => refreshed (bankOwn s c r d b) b x) (die s (dieNo c r d)) := by
    intro d hd
    have hstart : KeepsHearing c r s (countEv 0x21 c none 1 s) := .of_dies rfl rfl
    refine foldl_at_mem
      (P := fun u => KeepsHearing c r s u ∧ die u (dieNo c r d) = die s (dieNo c r d))
      (Q := fun u => die u (dieNo c r d)
        = (namedBanks all bank).foldl (fun x b => refreshed (bankOwn s c r d b) b x) (die s (dieNo c r d)))
      (fun e _ hne u ⟨hkeep, hsame⟩ => ⟨hkeep.trans (keepsHearing_refreshBanks _ u e), ?_⟩) (fun u ⟨hkeep, hsame⟩ => ?_)
      (fun e _ hne u hu => ?_) List.nodup_range (List.mem_range.mpr hd) ⟨hstart, rfl⟩
    · rw [die_refreshBanks, if_neg hne.symm, hsame]
    · have hown : ∀ b, bankOwn u c r d b = bankOwn s c r d b := fun b => by
        rw [bankOwn, grain, hkeep.grains, bankOwn, grain]
      rw [die_refreshBanks, if_pos rfl, hsame]
      simp only [hown]
    · rw [die_refreshBanks, if_neg hne.symm, hu]
  have honly : DiesOnly c r s ((List.range 4).foldl (refreshBanks c r (namedBanks all bank)) (countEv 0x21 c none 1 s)) :=
    (diesOnly_countEv ..).trans (diesOnly_foldl fun u d hd =>
      diesOnly_foldl fun v b _ => diesOnly_refBank (List.mem_range.mp hd) b v)
  have hnd := nodup_namedBanks all bank.val
  refine yields_of_ok hu ⟨fun d hd b hb => ?_, fun d hd b hb hnamed hown => ?_, fun d hd b hb hnamed hown hfull => ?_,
    fun d hd => ?_, honly⟩
  · rw [hdie d hd, deferred_foldl_refreshed (own := bankOwn s c r d) hnd]
    refine congrArg _ (ite_congr (propext ?_) (fun _ => rfl) (fun _ => rfl))
    rw [mem_namedBanks]
    exact ⟨fun ⟨⟨_, hn⟩, hrest⟩ => ⟨hn, hrest⟩, fun ⟨hn, hrest⟩ => ⟨⟨hb, hn⟩, hrest⟩⟩
  · rw [hdie d hd]
    exact cause_foldl_refreshed_blind hnd (mem_namedBanks.mpr ⟨hb, hnamed⟩) hown
  · rw [hdie d hd]
    exact cause_foldl_refreshed_polled hnd (mem_namedBanks.mpr ⟨hb, hnamed⟩) hown hfull
  · rw [hdie d hd]
    exact read_foldl_of_keeps (read := fun y : DieSt => y.openRows) (fun k _ y => openRows_refreshed _ k y) _

/-- Settles O35: where every die hears, a bank command is the same change at each die, unless a grain owns the bank there. -/
theorem banksTakeCommands : Obligations.BanksTakeCommands := by
  refine ⟨?act, ?owned, ?pre, ?rd, ?flips, ?wr, ?ref⟩
  case act => exact fun _ _ _ _ _ hh hf => yields_act hh hf
  case owned => exact fun _ _ _ _ _ hh hown => yields_act_of_owned hh hown
  case pre => exact fun _ _ _ _ _ hh hf => yields_pre hh hf
  case rd => exact fun _ _ _ _ _ _ _ hh hf hrow => yields_rd hh hf hrow
  case flips => exact fun _ _ _ _ _ _ _ _ hh hf hrow hlt hclean => yields_rd_flips hh hf hrow hlt hclean
  case wr => exact fun _ _ _ _ _ _ _ _ _ hh hf hrow _ => yields_wr hh hf hrow
  case ref => exact fun _ _ _ _ _ hh => yields_ref hh

end Sys2Proof.Machine
end

section
/-! Commands that start and stop grains: what they change of the grain they act on and of its die, and a rank's selected grains
taken one after the other (07 R191 to R203). -/

namespace Sys2Proof.Machine

variable {s t u : State} {c r d g : Nat}

/-! ### What a step at one grain leaves -/

theorem tfind_terase_of_none {β : Type} {t : Tab β} {k b : Nat} (h : tfind t b = none) : tfind (terase t k) b = none := by
  by_cases hb : b = k
  · rw [hb, tfind_terase_self]
  · rw [tfind_terase_ne _ _ _ hb, h]

/-- What a die judges the commands of its grains by, and what stays of it while its grains start and stop. -/
def dieGate (x : DieSt) : U16 × Tab Byte × Bool × Bool × Bool × Bool × Bool :=
  (x.sel, x.mr, x.stDone, x.selfTest, x.inReset, x.selfRefresh, x.ready)

/-- The die of a grain. -/
def dieOf (g : Nat) : Nat := dieNo (grainCoord g).1 (grainCoord g).2.1 (grainCoord g).2.2.1

theorem dieOf_grainAt (he : rankExists c r = true) (hc : c < 16) (hd : d < 4) (hg : g < 16) :
    dieOf (grainAt c r d g) = dieNo c r d := by
  rw [dieOf, grainCoord_grainAt he hc hd hg]

/-- A die goes on judging its grains' commands as it did; its status and cause bits stay set, its closed banks closed. -/
structure DieStays (x y : DieSt) : Prop where
  gate : dieGate y = dieGate x
  changed : ∀ j, x.changed.getLsbD j = true → y.changed.getLsbD j = true
  cause : ∀ j, x.cause.getLsbD j = true → y.cause.getLsbD j = true
  rows : ∀ b, tfind x.openRows b = none → tfind y.openRows b = none

theorem DieStays.refl (x : DieSt) : DieStays x x := ⟨rfl, fun _ h => h, fun _ h => h, fun _ h => h⟩

theorem DieStays.trans {x y z : DieSt} (h : DieStays x y) (h' : DieStays y z) : DieStays x z :=
  ⟨h'.gate.trans h.gate, fun j hj => h'.changed j (h.changed j hj), fun j hj => h'.cause j (h.cause j hj),
    fun b hb => h'.rows b (h.rows b hb)⟩

/-- From s to t one grain has changed, and its die in nothing that its commands are judged by. -/
structure OnGrain (g : Nat) (s t : State) : Prop where
  stays : ∀ i, DieStays (die s i) (die t i)
  grains : ∀ k, k ≠ g → grain t k = grain s k
  dies : ∀ i, i ≠ dieOf g → die t i = die s i
  clk : t.clk = s.clk

namespace OnGrain

theorem gate (h : OnGrain g s t) (i : Nat) : dieGate (die t i) = dieGate (die s i) := (h.stays i).gate

theorem refl (s : State) : OnGrain g s s := ⟨fun _ => .refl _, fun _ _ => rfl, fun _ _ => rfl, rfl⟩

theorem trans (h : OnGrain g s t) (h' : OnGrain g t u) : OnGrain g s u :=
  ⟨fun i => (h.stays i).trans (h'.stays i), fun k hk => (h'.grains k hk).trans (h.grains k hk),
    fun i hi => (h'.dies i hi).trans (h.dies i hi), h'.clk.trans h.clk⟩

theorem of_bank (hg : t.bank.grains = s.bank.grains) (hd : t.bank.dies = s.bank.dies) (hc : t.clk = s.clk) : OnGrain g s t := by
  have hdie : ∀ i, die t i = die s i := fun i => by rw [die, hd, die]
  exact ⟨fun i => hdie i ▸ .refl _, fun k _ => by rw [grain, hg, grain], fun i _ => hdie i, hc⟩

theorem takeFree : OnGrain g s (takeFree s) := of_bank rfl rfl rfl

theorem setGrain (x : Grain) : OnGrain g s (setGrain g x s) :=
  ⟨fun _ => .refl _, fun k hk => grain_setGrain_ne s g k x hk, fun _ _ => rfl, rfl⟩

theorem setDie {x : DieSt} (h : DieStays (die s (dieOf g)) x) : OnGrain g s (setDie (dieOf g) x s) := by
  refine ⟨fun i => ?_, fun _ _ => rfl, fun i hi => die_setDie_ne _ _ _ _ hi, rfl⟩
  by_cases hi : i = dieOf g
  · rw [hi, die_setDie_self]
    exact h
  · rw [die_setDie_ne _ _ _ _ hi]
    exact .refl _

theorem closeRows : OnGrain g s (closeRows g s) :=
  setDie ⟨rfl, fun _ h => h, fun _ h => h, fun _ h => tfind_terase_of_none (tfind_terase_of_none h)⟩

theorem stopGrain (st : GState) (fault pc : Nat) : OnGrain g s (stopGrain g st fault pc s) := by
  unfold Machine.stopGrain
  dsimp only
  have hset : ∀ (x : Grain) (y : DieSt), DieStays (die s (dieOf g)) y →
      OnGrain g s (Machine.setDie (dieOf g) y (Machine.setGrain g x s)) := fun x y hy => (setGrain x).trans (setDie hy)
  have hdie : DieStays (die s (dieOf g)) { die s (dieOf g) with
      changed := (die s (dieOf g)).changed ||| (1#16 <<< (grainCoord g).2.2.2),
      cause := if st = .faulted then (die s (dieOf g)).cause ||| 0x10#8 else (die s (dieOf g)).cause } := by
    refine ⟨rfl, fun j hj => ?_, fun j hj => ?_, fun _ h => h⟩
    · exact (BitVec.getLsbD_or ..).trans (by rw [hj, Bool.true_or])
    · dsimp only
      split
      · rw [BitVec.getLsbD_or, hj, Bool.true_or]
      · exact hj
  split
  · exact (hset _ _ hdie).trans takeFree
  · exact hset _ _ hdie

theorem faultGrain (code : Nat) : OnGrain g s (faultGrain g code s) := by
  unfold Machine.faultGrain
  dsimp only
  split
  · exact stopGrain _ _ _
  · exact (stopGrain _ _ _).trans closeRows

theorem fetchCheck : OnGrain g s (fetchCheck g s) := by
  unfold Machine.fetchCheck
  dsimp only
  split
  · exact faultGrain _
  · exact refl s

end OnGrain

/-- A grain as SPRD or GRUN starts it, on a die that is ready or not. -/
def started (ready : Bool) (at_ : U64) (insn : Option U32) (entry : Nat) (x : Grain) : Grain :=
  { x with state := .running, fault := 0#8, faultPc := 0#11, runClocks := 0#32, craMtb := at_, pc := entry,
           insn := insn, loop0 := none, loop1 := none, accReady := [], unclocked := ready,
           own := if insn.isSome && !ready then .blind else .polled }

/-- The state in which a started grain's first word is checked. -/
def putStarted (g : Nat) (insn : Option U32) (entry : Nat) (s : State) : State :=
  setDie (dieOf g) { die s (dieOf g) with changed := (die s (dieOf g)).changed ||| (1#16 <<< (grainCoord g).2.2.2) }
    (setGrain g (started (die s (dieOf g)).ready (now s) insn entry (grain s g)) s)

theorem startGrain_eq (g : Nat) (insn : Option U32) (entry : Nat) (s : State) :
    startGrain g insn entry s = fetchCheck g (putStarted g insn entry s) := rfl

theorem grain_putStarted (g : Nat) (insn : Option U32) (entry : Nat) (s : State) :
    grain (putStarted g insn entry s) g = started (die s (dieOf g)).ready (now s) insn entry (grain s g) :=
  grain_setGrain_self ..

namespace OnGrain

theorem putStarted (insn : Option U32) (entry : Nat) : OnGrain g s (putStarted g insn entry s) := by
  refine (setGrain _).trans (setDie ⟨rfl, fun j hj => ?_, fun _ h => h, fun _ h => h⟩)
  exact (BitVec.getLsbD_or ..).trans (by rw [show (die s (dieOf g)).changed.getLsbD j = true from hj, Bool.true_or])

theorem startGrain (insn : Option U32) (entry : Nat) : OnGrain g s (startGrain g insn entry s) := by
  rw [startGrain_eq]
  exact (putStarted insn entry).trans fetchCheck

theorem haltGrain : OnGrain g s (haltGrain g s) := by
  unfold Machine.haltGrain
  split
  · exact ((setGrain _).trans (stopGrain _ _ _)).trans closeRows
  · exact refl s

end OnGrain

theorem noteWritten_frame (w : Nat) (s : State) : (noteWritten w s).bank = s.bank ∧ (noteWritten w s).clk = s.clk := by
  unfold noteWritten noteSpan
  dsimp only
  repeat' split
  all_goals exact ⟨rfl, rfl⟩

theorem grainWrite_frame (w : Nat) (x : ColData) (s : State) :
    (grainWrite w x s).bank.grains = s.bank.grains ∧ (grainWrite w x s).bank.dies = s.bank.dies
      ∧ (grainWrite w x s).clk = s.clk := by
  obtain ⟨hbank, hclk⟩ := noteWritten_frame w (setColAt w x false s)
  rw [grainWrite, hbank, hclk]
  exact ⟨rfl, rfl, rfl⟩

/-- A halt command stops the grain after it has stored what its slots so far wrote. -/
theorem haltCommand_eq (g : Nat) (s : State) :
    ∃ v, haltCommand g s = haltGrain g v ∧ v.bank.grains = s.bank.grains ∧ v.bank.dies = s.bank.dies ∧ v.clk = s.clk := by
  unfold haltCommand
  dsimp only
  split
  · next t _ _ =>
    split
    · refine ⟨_, rfl, ?_⟩
      refine foldl_of_step (P := fun v : State => v.bank.grains = s.bank.grains ∧ v.bank.dies = s.bank.dies ∧ v.clk = s.clk)
        (fun v w ⟨hg, hd, hc⟩ => ?_) ⟨rfl, rfl, rfl⟩ _
      obtain ⟨hg', hd', hc'⟩ := grainWrite_frame w (Memory.col t.bank.mem w) v
      exact ⟨hg'.trans hg, hd'.trans hd, hc'.trans hc⟩
    · exact ⟨s, rfl, rfl, rfl, rfl⟩
  · exact ⟨s, rfl, rfl, rfl, rfl⟩

theorem OnGrain.haltCommand : OnGrain g s (haltCommand g s) := by
  obtain ⟨v, hv, hg, hd, hc⟩ := haltCommand_eq g s
  rw [hv]
  exact (of_bank hg hd hc).trans haltGrain

/-! ### The selected grains of a rank, one after the other -/

theorem selected_of_gate (h : dieGate (die t (dieNo c r d)) = dieGate (die s (dieNo c r d))) :
    selected t c r d = selected s c r d := by
  have hsel : (die t (dieNo c r d)).sel = (die s (dieNo c r d)).sel := congrArg Prod.fst h
  have hmr : (die t (dieNo c r d)).mr = (die s (dieNo c r d)).mr := congrArg (fun p => p.2.1) h
  simp only [selected, mrOut, mrStored, hsel, hmr]

theorem dieHears_of_gate {x y : DieSt} (h : dieGate y = dieGate x) : dieHears y = dieHears x := by
  have hreset : y.inReset = x.inReset := congrArg (fun p => p.2.2.2.2.1) h
  have hsleep : y.selfRefresh = x.selfRefresh := congrArg (fun p => p.2.2.2.2.2.1) h
  rw [dieHears, hreset, hsleep, dieHears]

theorem ready_of_gate {x y : DieSt} (h : dieGate y = dieGate x) : y.ready = x.ready := congrArg (fun p => p.2.2.2.2.2.2) h

/-- From s to u the grains of dies below n may have been acted on, and no other. -/
structure Untouched (c r n : Nat) (s u : State) : Prop where
  gate : ∀ i, dieGate (die u i) = dieGate (die s i)
  grains : ∀ e, n ≤ e → ∀ k < 16, grain u (grainAt c r e k) = grain s (grainAt c r e k)
  clk : u.clk = s.clk

/-- A command that acts on the selected grains of each die acts on those of the rank one after the other. -/
theorem onRank_of_grains {body : Nat → State → State} {act : Nat → Nat → State → State} (hh : rankHears s c r = true)
    (hact : ∀ d g u, OnGrain (grainAt c r d g) u (act d g u))
    (hbody : ∀ d < 4, ∀ u, Untouched c r d s u → body d u = (selected s c r d).foldl (fun v g => act d g v) u) :
    onRank c r body s = (selectedGrains s c r).foldl (fun u p => act p.1 p.2 u) s := by
  obtain ⟨he, hears⟩ := rankHears_iff.mp hh
  simp only [selectedGrains, List.foldl_flatMap, List.foldl_map]
  rw [onRank, if_pos he]
  refine foldl_range_congr (inv := fun n u => Untouched c r n s u) ⟨fun _ => rfl, fun _ _ _ _ => rfl, rfl⟩
    fun d hd u hu => ⟨?_, ?_⟩
  · rw [if_pos ((dieHears_of_gate (hu.gate _)).trans (hears d hd)), hbody d hd u hu]
  · refine List.foldlRecOn (motive := Untouched c r (d + 1) s) _ _
      ⟨hu.gate, fun e hn k hk => hu.grains e (by omega) k hk, hu.clk⟩ fun v hv g hg => ?_
    have htouch := hact d g v
    refine ⟨fun i => (htouch.gate i).trans (hv.gate i), fun e hn k hk => ?_, htouch.clk.trans hv.clk⟩
    refine (htouch.grains _ fun h => ?_).trans (hv.grains e hn k hk)
    obtain ⟨hed, -⟩ := (grainAt_inj hk (lt_of_mem_selected hg)).mp h
    omega

/-- A state in which grain g of die d is still as it was, and its die judges as it did. -/
structure AsBefore (c r d g : Nat) (s u : State) : Prop where
  gate : ∀ i, dieGate (die u i) = dieGate (die s i)
  grain : grain u (grainAt c r d g) = grain s (grainAt c r d g)
  clk : u.clk = s.clk

/-- What the command does to one selected grain stands at the end, where the command at the others leaves it. -/
theorem foldl_selected {act : Nat → Nat → State → State} {Q : State → Prop} (hact : ∀ d g u, OnGrain (grainAt c r d g) u (act d g u))
    (hd : d < 4) (hg : g ∈ selected s c r d) (hself : ∀ u, AsBefore c r d g s u → Q (act d g u))
    (hkeep : ∀ p ∈ selectedGrains s c r, p ≠ (d, g) → ∀ u, Q u → Q (act p.1 p.2 u)) :
    Q ((selectedGrains s c r).foldl (fun u p => act p.1 p.2 u) s) := by
  refine foldl_at_mem (P := AsBefore c r d g s) (Q := Q) (fun p hp hne u hu => ?_) hself hkeep (nodup_selectedGrains s c r)
    (mem_selectedGrains.mpr ⟨hd, hg⟩) ⟨fun _ => rfl, rfl, rfl⟩
  have htouch := hact p.1 p.2 u
  refine ⟨fun i => (htouch.gate i).trans (hu.gate i), (htouch.grains _ fun h => hne ?_).trans hu.grain, htouch.clk.trans hu.clk⟩
  obtain ⟨-, hsel⟩ := mem_selectedGrains.mp hp
  obtain ⟨hde, hgk⟩ := (grainAt_inj (lt_of_mem_selected hg) (lt_of_mem_selected hsel)).mp h
  exact Prod.ext hde.symm hgk.symm

/-- The same of a property of the grain alone. -/
theorem grain_foldl_selected {act : Nat → Nat → State → State} {Q : Grain → Prop}
    (hact : ∀ d g u, OnGrain (grainAt c r d g) u (act d g u)) (hd : d < 4) (hg : g ∈ selected s c r d)
    (hself : ∀ u, AsBefore c r d g s u → Q (grain (act d g u) (grainAt c r d g))) :
    Q (grain ((selectedGrains s c r).foldl (fun u p => act p.1 p.2 u) s) (grainAt c r d g)) := by
  refine foldl_selected (Q := fun u => Q (grain u (grainAt c r d g))) hact hd hg hself fun p hp hne u hu => ?_
  rw [(hact p.1 p.2 u).grains _ fun h => hne ?_]
  · exact hu
  · obtain ⟨-, hsel⟩ := mem_selectedGrains.mp hp
    obtain ⟨hde, hgk⟩ := (grainAt_inj (lt_of_mem_selected hg) (lt_of_mem_selected hsel)).mp h
    exact Prod.ext hde.symm hgk.symm

theorem otherDies_foldl_selected {act : Nat → Nat → State → State} (hact : ∀ d g u, OnGrain (grainAt c r d g) u (act d g u))
    (he : rankExists c r = true) (hc : c < 16) : OtherDies c r s ((selectedGrains s c r).foldl (fun u p => act p.1 p.2 u) s) := by
  refine List.foldlRecOn (motive := OtherDies c r s) _ _ (fun _ _ => rfl) fun u hu p hp i hi => ?_
  obtain ⟨hd, hg⟩ := mem_selectedGrains.mp hp
  refine ((hact p.1 p.2 u).dies i fun h => hi p.1 hd ?_).trans (hu i hi)
  rw [h, dieOf_grainAt he hc hd (lt_of_mem_selected hg)]

/-- A grain command that every die takes. -/
theorem grainCmd_of_takes {act : Nat → Nat → State → State} (h : grainsTake s c r = true)
    (hact : ∀ d g u, OnGrain (grainAt c r d g) u (act d (grainAt c r d g) u)) :
    grainCmd c r act s = (selectedGrains s c r).foldl (fun u p => act p.1 (grainAt c r p.1 p.2) u) s := by
  refine onRank_of_grains (act := fun d g u => act d (grainAt c r d g) u) (rankHears_of_grainsTake h) hact fun d hd u hu => ?_
  obtain ⟨hdone, htest, haccepts⟩ := dieAccepts_of_grainsTake h hd
  have hsel := selected_of_gate (hu.gate (dieNo c r d))
  have hdone' : (die u (dieNo c r d)).stDone = true := (congrArg (fun p => p.2.2.1) (hu.gate (dieNo c r d))).trans hdone
  have htest' : (die u (dieNo c r d)).selfTest = false := (congrArg (fun p => p.2.2.2.1) (hu.gate (dieNo c r d))).trans htest
  have hall : ((selected s c r d).all fun g => decide ((grain u (grainAt c r d g)).state ≠ .running
      ∧ (grain u (grainAt c r d g)).own = .controller))
      = (selected s c r d).all fun g => decide ((grain s (grainAt c r d g)).state ≠ .running
        ∧ (grain s (grainAt c r d g)).own = .controller) :=
    by
      rw [Bool.eq_iff_iff, List.all_eq_true, List.all_eq_true]
      exact forall₂_congr fun g hg => by rw [hu.grains d le_rfl g (lt_of_mem_selected hg)]
  have haccepts' : dieAccepts u c r d = !(selected s c r d).isEmpty := by
    rw [← haccepts, dieAccepts, dieAccepts, hsel, hall, hdone', htest', hdone, htest]
  simp only [hdone', htest', hsel, haccepts']
  by_cases hnone : selected s c r d = []
  · simp [hnone]
  · simp [hnone]

/-! ### SPRD and GRUN with no work of P1 at the rank -/

theorem reapP1_of_idle (h : p1At s c r = []) : reapP1 c r s = s := by
  rw [reapP1, h]
  rfl

theorem onRank_of_step {P : State → Prop} {act : Nat → State → State} (h : ∀ d u, P u → P (act d u)) (hs : P s) :
    P (onRank c r act s) := by
  unfold onRank
  split
  · refine foldl_of_step (P := P) (fun u d hu => ?_) hs _
    split
    · exact h d u hu
    · exact hu
  · exact hs

/-- From s to t banks of grains have gone back to the controller, and nothing else has changed. -/
structure Returned (s t : State) : Prop where
  frame : t = { s with bank := { s.bank with grains := t.bank.grains } }
  grains : ∀ k, ({ grain t k with own := .controller } : Grain) = { grain s k with own := .controller }

namespace Returned

theorem refl (s : State) : Returned s s := ⟨rfl, fun _ => rfl⟩

theorem setGrain (h : Returned s t) (g : Nat) (o : Own) : Returned s (setGrain g { grain t g with own := o } t) := by
  refine ⟨?_, fun k => ?_⟩
  · rw [h.frame]
    rfl
  · by_cases hk : k = g
    · subst hk
      rw [grain_setGrain_self, ← h.grains k]
    · rw [grain_setGrain_ne _ _ _ _ hk, h.grains]

theorem die (h : Returned s t) (i : Nat) : die t i = die s i := by
  rw [h.frame]
  rfl

theorem p1At (h : Returned s t) : p1At t c r = p1At s c r := by
  rw [h.frame]
  rfl

theorem clk (h : Returned s t) : t.clk = s.clk := by rw [h.frame]

theorem vec (h : Returned s t) (k : Nat) : (grain t k).vec = (grain s k).vec := (congrArg Grain.vec (h.grains k) :)

theorem scal (h : Returned s t) (k : Nat) : (grain t k).scal = (grain s k).scal := (congrArg Grain.scal (h.grains k) :)

theorem store (h : Returned s t) (k : Nat) : (grain t k).store = (grain s k).store := (congrArg Grain.store (h.grains k) :)

end Returned

theorem returned_latchStops (c r : Nat) (s : State) : Returned s (latchStops c r s) := by
  refine onRank_of_step (P := Returned s) (fun d u hu => ?_) (.refl s)
  refine foldl_of_step (P := Returned s) (fun v g hv => ?_) hu _
  dsimp only
  split
  · exact hv.setGrain _ _
  · exact hv

/-- With no command of P1 at the rank, a SPRD or GRUN starts the selected grains at once. -/
theorem launch_of_idle {c : Chan} {r : Rank} (h : p1At s c r = []) (src : Nat) (kind : P1Kind → Bool) (insn : Option U32) (entry : Nat) :
    launch c r src kind insn entry s
      = countEv src c none 1 (grainCmd c r (fun _ g u => startGrain g insn entry u) (latchStops c r s)) := by
  have hidle : p1At (latchStops c r s) c r = [] := (returned_latchStops c r s).p1At.trans h
  have hmatch : matchP1 (latchStops c r s) c r kind = none := by rw [matchP1, hidle]; rfl
  unfold launch
  dsimp only
  rw [reapP1_of_idle hidle, hmatch]

/-- Where no selected grain owns a bank, none stops at the boundary. -/
theorem latchStops_of_takes (h : grainsTake s c r = true) : latchStops c r s = s := by
  obtain ⟨he, hears⟩ := rankHears_iff.mp (rankHears_of_grainsTake h)
  simp only [grainsTake, Bool.and_eq_true, List.all_eq_true, List.mem_range, decide_eq_true_eq] at h
  obtain ⟨-, hdies⟩ := h
  have hstep := onRank_eq_foldl (s := s) (c := c) (r := r) (inv := fun u => u = s) (step := fun u _ => u)
    (act := fun d s' => (selected s' c r d).foldl (fun t g =>
      let x := grain t (grainAt c r d g)
      if x.own = .polled ∧ x.state ≠ .running ∧ x.craMtb = now t ∧ deferredOf t (grainAt c r d g) = 0 then
        setGrain (grainAt c r d g) { x with own := .controller } t
      else t) s') he rfl fun u hu d hd => ?_
  · exact hstep.trans (List.foldl_fixed' (fun _ => rfl) _)
  · subst hu
    refine ⟨hears d hd, ?_, rfl⟩
    obtain ⟨-, hsel⟩ := hdies d hd
    refine List.foldlRecOn (motive := fun v => v = u) _ _ rfl fun v hv g hg => ?_
    subst hv
    obtain ⟨-, hown⟩ := hsel g hg
    exact if_neg fun hpolled => absurd (hown.symm.trans hpolled.1) (by decide)

end Sys2Proof.Machine
end

section
/-! SPRD and GRUN, HALTG and STAT, the end of a Spread, and a parity error at a grain (05 R154 to R159, 07 R191 to R208). -/

namespace Sys2Proof.Machine

variable {s t u : State} {c : Chan} {r : Rank} {d g : Nat}

/-! ### Starts -/

theorem onGrain_startAt (insn : Option U32) (entry : Nat) :
    ∀ d g u, OnGrain (grainAt c r d g) u (startGrain (grainAt c r d g) insn entry u) := fun _ _ _ => .startGrain insn entry

/-- What SPRD or GRUN leaves, with no command of P1 at the rank: the selected grains started one after the other. -/
def launched (c : Chan) (r : Rank) (src : Nat) (insn : Option U32) (entry : Nat) (s : State) : State :=
  countEv src c none 1 ((selectedGrains s c r).foldl (fun u p => startGrain (grainAt c r p.1 p.2) insn entry u) s)

theorem launch_of_takes (h : p1At s c r = []) (hg : grainsTake (latchStops c r s) c r = true) (src : Nat)
    (kind : P1Kind → Bool) (insn : Option U32) (entry : Nat) :
    launch c r src kind insn entry s = launched c r src insn entry (latchStops c r s) := by
  rw [launch_of_idle h, grainCmd_of_takes (act := fun _ g u => startGrain g insn entry u) hg (onGrain_startAt insn entry)]
  rfl

theorem otherDies_launched (he : rankExists c r = true) (src : Nat) (insn : Option U32) (entry : Nat) :
    OtherDies c r s (launched c r src insn entry s) :=
  otherDies_foldl_selected (onGrain_startAt insn entry) he c.isLt

section
variable (he : rankExists c r = true) (hd : d < 4) (hg : g ∈ selected s c r d)
include he hd hg

/-- A selected grain is started where its first word is one a grain can start with. -/
theorem grain_launched {insn : Option U32} {entry : Nat}
    (hword : ∀ x : Grain, x = grain s (grainAt c r d g) →
      majorKnown (majorOf (currentWord (started (die s (dieNo c r d)).ready (now s) insn entry x))) = true
      ∧ ¬ (insn.isSome = true ∧ majorOf (currentWord (started (die s (dieNo c r d)).ready (now s) insn entry x)) ∈ [0x01, 0x03, 0x04, 0x05]))
    (src : Nat) :
    grain (launched c r src insn entry s) (grainAt c r d g)
      = started (die s (dieNo c r d)).ready (now s) insn entry (grain s (grainAt c r d g)) := by
  refine grain_foldl_selected (Q := fun y => y = started (die s (dieNo c r d)).ready (now s) insn entry (grain s (grainAt c r d g)))
    (onGrain_startAt insn entry) hd hg fun u hu => ?_
  have hput : grain (putStarted (grainAt c r d g) insn entry u) (grainAt c r d g)
      = started (die s (dieNo c r d)).ready (now s) insn entry (grain s (grainAt c r d g)) := by
    rw [grain_putStarted, dieOf_grainAt he c.isLt hd (lt_of_mem_selected hg), ready_of_gate (hu.gate _), hu.grain, now, hu.clk, now]
  obtain ⟨hknown, hnot⟩ := hword _ rfl
  rw [startGrain_eq, fetchCheck, hput, if_neg]
  · exact hput
  · rintro ⟨-, hbad | hbad⟩
    · exact absurd (hknown.symm.trans hbad) (by decide)
    · exact hnot hbad

theorem changed_launched (src : Nat) (insn : Option U32) (entry : Nat) :
    (die (launched c r src insn entry s) (dieNo c r d)).changed.getLsbD g = true := by
  have hg16 := lt_of_mem_selected hg
  refine foldl_selected (act := fun d g u => startGrain (grainAt c r d g) insn entry u)
    (Q := fun u => (die u (dieNo c r d)).changed.getLsbD g = true) (onGrain_startAt insn entry) hd hg (fun u _ => ?_)
    fun p _ _ u hu => ((onGrain_startAt insn entry p.1 p.2 u).stays _).changed g hu
  rw [startGrain_eq]
  refine (OnGrain.fetchCheck.stays _).changed g ?_
  rw [← dieOf_grainAt he c.isLt hd hg16, putStarted, die_setDie_self, grainCoord_grainAt he c.isLt hd hg16]
  exact (BitVec.getLsbD_or ..).trans (by simp [hg16])

end

theorem yields_sprd {insn : U32} (hg : grainsTake (latchStops c r s) c r = true) (hp : p1At s c r = [])
    (hknown : majorKnown (majorOf insn.toNat) = true) (hnot : majorOf insn.toNat ∉ [0x01, 0x03, 0x04, 0x05]) :
    Yields (.sprd c r insn) s fun t =>
      (∀ d < 4, ∀ g ∈ selected s c r d, let x := grain t (grainAt c r d g)
        x.state = .running ∧ x.insn = some insn ∧ x.runClocks = 0#32 ∧ x.craMtb = now s
        ∧ x.own = (if (die s (dieNo c r d)).ready then .polled else .blind)
        ∧ x.vec = (grain s (grainAt c r d g)).vec ∧ x.scal = (grain s (grainAt c r d g)).scal)
      ∧ (∀ d < 4, ∀ g ∈ selected s c r d, (die t (dieNo c r d)).changed.getLsbD g = true)
      ∧ OtherDies c r s t := by
  obtain ⟨he, -⟩ := rankHears_iff.mp (rankHears_of_grainsTake hg)
  have hret := returned_latchStops c r s
  have hu : execSprd c r insn s = ok (launched c r 0x30 (some insn) 0 (latchStops c r s)) :=
    congrArg ok (launch_of_takes hp hg ..)
  generalize latchStops c r s = v at hg hret hu
  have hsel : ∀ d, selected v c r d = selected s c r d := fun d => selected_of_gate (congrArg dieGate (hret.die _))
  refine yields_of_ok hu ⟨fun d hd g hmem => ?_, fun d hd g hmem => ?_, fun i hi => ?_⟩
  · have hmem' : g ∈ selected v c r d := (hsel d).symm ▸ hmem
    rw [grain_launched (insn := some insn) (entry := 0) he hd hmem' (fun x _ => ⟨hknown, fun h => hnot h.2⟩), hret.die]
    refine ⟨rfl, rfl, rfl, congrArg Clk.mtb hret.clk, ?_, hret.vec _, hret.scal _⟩
    cases hready : (die s (dieNo c r d)).ready <;> rfl
  · exact changed_launched he hd ((hsel d).symm ▸ hmem) _ _ _
  · exact (otherDies_launched he _ _ _ i hi).trans (hret.die i)

theorem cause_stopGrain_faulted (g fault pc : Nat) (s : State) :
    (die (stopGrain g .faulted fault pc s) (dieOf g)).cause.getLsbD 4 = true := by
  have hbit : ∀ x : Byte, (x ||| 0x10#8).getLsbD 4 = true := fun x => by rw [BitVec.getLsbD_or]; exact Bool.or_true _
  unfold stopGrain
  dsimp only
  split
  · exact (congrArg (fun y : DieSt => y.cause.getLsbD 4) (die_setDie_self ..)).trans (hbit _)
  · exact (congrArg (fun y : DieSt => y.cause.getLsbD 4) (die_setDie_self ..)).trans (hbit _)

theorem cause_faultGrain (g code : Nat) (s : State) : (die (faultGrain g code s) (dieOf g)).cause.getLsbD 4 = true := by
  unfold faultGrain
  dsimp only
  split
  · exact cause_stopGrain_faulted ..
  · exact (OnGrain.closeRows.stays _).cause 4 (cause_stopGrain_faulted ..)

/-- An undefined word, or one that no Spread may carry, faults every selected grain (05 R134, 06 R163). -/
theorem yields_sprd_undefined {insn : U32} (hg : grainsTake s c r = true) (hp : p1At s c r = [])
    (hbad : majorKnown (majorOf insn.toNat) = false ∨ majorOf insn.toNat ∈ [0x01, 0x03, 0x04, 0x05]) :
    Yields (.sprd c r insn) s fun t =>
      (∀ d < 4, ∀ g ∈ selected s c r d, (grain t (grainAt c r d g)).state = .faulted
        ∧ (grain t (grainAt c r d g)).fault = 1#8 ∧ (die t (dieNo c r d)).cause.getLsbD 4 = true) := by
  obtain ⟨he, -⟩ := rankHears_iff.mp (rankHears_of_grainsTake hg)
  have hstill := latchStops_of_takes hg
  have hu : execSprd c r insn s = ok (launched c r 0x30 (some insn) 0 s) := by
    refine congrArg ok ((launch_of_takes hp (hstill.symm ▸ hg) ..).trans ?_)
    rw [hstill]
  have hfault : ∀ g u, startGrain g (some insn) 0 u = faultGrain g 0x01 (putStarted g (some insn) 0 u) := fun g u => by
    rw [startGrain_eq]
    refine if_pos ⟨?_, ?_⟩
    · rw [grain_putStarted]
      rfl
    · rw [grain_putStarted]
      exact hbad.imp_right fun h => ⟨rfl, h⟩
  refine yields_of_ok hu fun d hd g hmem => ?_
  have hg16 := lt_of_mem_selected hmem
  have hgrain := grain_foldl_selected (Q := fun y => y.state = .faulted ∧ y.fault = 1#8) (onGrain_startAt (some insn) 0) hd hmem
    fun u _ => by
      obtain ⟨hst, hcode, -⟩ := faults_faultGrain (grainAt c r d g) 0x01 (putStarted (grainAt c r d g) (some insn) 0 u)
      rw [hfault]
      exact ⟨hst, hcode⟩
  refine ⟨hgrain.1, hgrain.2, ?_⟩
  refine foldl_selected (act := fun d g u => startGrain (grainAt c r d g) (some insn) 0 u)
    (Q := fun u => (die u (dieNo c r d)).cause.getLsbD 4 = true) (onGrain_startAt (some insn) 0) hd hmem (fun u _ => ?_)
    fun p _ _ u hu => ((onGrain_startAt (some insn) 0 p.1 p.2 u).stays _).cause 4 hu
  rw [hfault, ← dieOf_grainAt he c.isLt hd hg16]
  exact cause_faultGrain ..

theorem yields_grun {entry : Fin 2048} (hg : grainsTake (latchStops c r s) c r = true) (hp : p1At s c r = [])
    (hknown : ∀ d < 4, ∀ g ∈ selected s c r d,
      majorKnown (majorOf (tget 0#32 (grain s (grainAt c r d g)).store entry).toNat) = true) :
    Yields (.grun c r entry) s fun t =>
      (∀ d < 4, ∀ g ∈ selected s c r d, let x := grain t (grainAt c r d g)
        x.state = .running ∧ x.insn = none ∧ x.pc = entry.val ∧ x.own = .polled ∧ x.runClocks = 0#32
        ∧ x.craMtb = now s ∧ x.loop0 = none ∧ x.loop1 = none ∧ x.vec = (grain s (grainAt c r d g)).vec)
      ∧ OtherDies c r s t := by
  obtain ⟨he, -⟩ := rankHears_iff.mp (rankHears_of_grainsTake hg)
  have hret := returned_latchStops c r s
  have hu : execGrun c r entry s = ok (launched c r 0x31 none entry.val (latchStops c r s)) :=
    congrArg ok (launch_of_takes hp hg ..)
  generalize latchStops c r s = v at hg hret hu
  have hsel : ∀ d, selected v c r d = selected s c r d := fun d => selected_of_gate (congrArg dieGate (hret.die _))
  refine yields_of_ok hu ⟨fun d hd g hmem => ?_, fun i hi => ?_⟩
  · have hmem' : g ∈ selected v c r d := (hsel d).symm ▸ hmem
    have hstore : (grain v (grainAt c r d g)).store = (grain s (grainAt c r d g)).store  := hret.store _
    have hword : majorKnown (majorOf (tget 0#32 (grain v (grainAt c r d g)).store entry.val).toNat) = true := by
      rw [hstore]
      exact hknown d hd g hmem
    rw [grain_launched (insn := none) (entry := entry.val) he hd hmem' (fun x hx => ⟨by rw [hx]; exact hword, fun h => Bool.false_ne_true h.1⟩)]
    exact ⟨rfl, rfl, rfl, rfl, rfl, congrArg Clk.mtb hret.clk, rfl, rfl, hret.vec _⟩
  · exact (otherDies_launched he _ _ _ i hi).trans (hret.die i)

/-! ### HALTG -/

theorem haltGrain_of_running (h : (grain u g).state = .running) :
    (grain (haltGrain g u) g).state = .stopped ∧ (grain (haltGrain g u) g).fault = 0#8
      ∧ (grain (haltGrain g u) g).vec = (grain u g).vec := by
  rw [haltGrain, if_pos h, grain_closeRows, grain_stopGrain_self, grain_setGrain_self]
  exact ⟨rfl, rfl, rfl⟩

theorem openRows_closeRows (g : Nat) (u : State) :
    tfind (die (closeRows g u) (dieOf g)).openRows (2 * (grainCoord g).2.2.2) = none
      ∧ tfind (die (closeRows g u) (dieOf g)).openRows (2 * (grainCoord g).2.2.2 + 1) = none := by
  rw [closeRows, ← dieOf, die_setDie_self]
  exact ⟨tfind_terase_of_none (tfind_terase_self ..), tfind_terase_self ..⟩

theorem yields_haltg (hh : rankHears s c r = true)
    (hrun : ∀ d < 4, (die s (dieNo c r d)).stDone = true ∧ ∀ g ∈ selected s c r d, (grain s (grainAt c r d g)).state = .running) :
    Yields (.haltg c r) s fun t =>
      (∀ d < 4, ∀ g ∈ selected s c r d, (grain t (grainAt c r d g)).state = .stopped
        ∧ (grain t (grainAt c r d g)).fault = 0#8 ∧ (grain t (grainAt c r d g)).vec = (grain s (grainAt c r d g)).vec
        ∧ openRow t c r d (2 * g) = none ∧ openRow t c r d (2 * g + 1) = none)
      ∧ OtherDies c r s t := by
  obtain ⟨he, -⟩ := rankHears_iff.mp hh
  have hact : ∀ d g u, OnGrain (grainAt c r d g) u (haltCommand (grainAt c r d g) u) := fun _ _ _ => .haltCommand
  have hu : execHaltg c r s = ok ((selectedGrains s c r).foldl (fun u p => haltCommand (grainAt c r p.1 p.2) u) s) := by
    refine congrArg ok (onRank_of_grains (act := fun d g u => haltCommand (grainAt c r d g) u) hh hact fun d hd u hu => ?_)
    have hdone : (die u (dieNo c r d)).stDone = true :=
      (congrArg (fun p => p.2.2.1) (hu.gate (dieNo c r d))).trans (hrun d hd).1
    rw [hdone, if_pos rfl, selected_of_gate (hu.gate _)]
  refine yields_of_ok hu ⟨fun d hd g hg => ?_, otherDies_foldl_selected hact he c.isLt⟩
  have hg16 := lt_of_mem_selected hg
  have hhalt : ∀ u, AsBefore c r d g s u → ∃ v, haltCommand (grainAt c r d g) u = haltGrain (grainAt c r d g) v
      ∧ grain v (grainAt c r d g) = grain s (grainAt c r d g) := fun u hu => by
    obtain ⟨v, hv, hgr, -⟩ := haltCommand_eq (grainAt c r d g) u
    exact ⟨v, hv, by rw [grain, hgr, ← grain, hu.grain]⟩
  have hrows : ∀ b, b = 2 * g ∨ b = 2 * g + 1 →
      openRow ((selectedGrains s c r).foldl (fun u p => haltCommand (grainAt c r p.1 p.2) u) s) c r d b = none := by
    intro b hb
    refine foldl_selected (act := fun d g u => haltCommand (grainAt c r d g) u) (Q := fun u => openRow u c r d b = none) hact hd hg
      (fun u hu => ?_) fun p _ _ u hu => ((hact p.1 p.2 u).stays _).rows b hu
    obtain ⟨v, hv, hsame⟩ := hhalt u hu
    have hvrun : (grain v (grainAt c r d g)).state = .running := hsame ▸ (hrun d hd).2 g hg
    have hclosed := openRows_closeRows (grainAt c r d g)
      (stopGrain (grainAt c r d g) .stopped 0 0 (setGrain (grainAt c r d g) { (grain v (grainAt c r d g)) with unclocked := true } v))
    rw [grainCoord_grainAt he c.isLt hd hg16, dieOf_grainAt he c.isLt hd hg16] at hclosed
    rw [hv, haltGrain, if_pos hvrun, openRow]
    rcases hb with rfl | rfl
    · exact hclosed.1
    · exact hclosed.2
  have hgrain := grain_foldl_selected (act := fun d g u => haltCommand (grainAt c r d g) u)
    (Q := fun y => y.state = .stopped ∧ y.fault = 0#8 ∧ y.vec = (grain s (grainAt c r d g)).vec) hact hd hg fun u hu => by
      obtain ⟨v, hv, hsame⟩ := hhalt u hu
      rw [hv, ← hsame]
      exact haltGrain_of_running (hsame ▸ (hrun d hd).2 g hg)
  obtain ⟨hst, hfault, hvec⟩ := hgrain
  exact ⟨hst, hfault, hvec, hrows _ (Or.inl rfl), hrows _ (Or.inr rfl)⟩

/-! ### STAT -/

/-- A grain's banks go back where it shows stopped and has no refresh deferred (07 R203). -/
def givenBack (n : Nat) (x : Grain) : Grain :=
  if x.own = .polled ∧ x.state ≠ .running ∧ n = 0 then { x with own := .controller } else x

/-- The grains of a die whose banks a STAT returns. -/
def backAt (c r d : Nat) (u : State) (g : Nat) : State :=
  if (grain u (grainAt c r d g)).own = .polled ∧ (grain u (grainAt c r d g)).state ≠ .running
      ∧ deferredOf u (grainAt c r d g) = 0 then
    setGrain (grainAt c r d g) { (grain u (grainAt c r d g)) with own := .controller } u
  else u

theorem statDie_eq (c r d : Nat) (u : State) :
    statDie c r d u = setDie (dieNo c r d)
      { die ((List.range 16).foldl (backAt c r d) u) (dieNo c r d) with changed := 0#16, clipped := false }
      ((List.range 16).foldl (backAt c r d) u) := rfl

theorem backAt_frame (c r d : Nat) (u : State) (g : Nat) :
    backAt c r d u g = { u with bank := { u.bank with grains := (backAt c r d u g).bank.grains } } := by
  unfold backAt
  split <;> rfl

theorem grain_backAt (c r d : Nat) (u : State) (g k : Nat) :
    grain (backAt c r d u g) k = if k = grainAt c r d g then givenBack (deferredOf u k) (grain u k) else grain u k := by
  unfold backAt givenBack
  by_cases hk : k = grainAt c r d g
  · subst hk
    rw [if_pos rfl]
    split
    · exact grain_setGrain_self ..
    · rfl
  · rw [if_neg hk]
    split
    · exact grain_setGrain_ne _ _ _ _ hk
    · rfl

/-- What a STAT's latch at one die leaves of another state's reads. -/
structure LatchedAt (c r d : Nat) (s t : State) : Prop where
  frame : t = { s with bank := { s.bank with grains := t.bank.grains, dies := t.bank.dies } }
  die : ∀ i, die t i = if i = dieNo c r d then { Machine.die s i with changed := 0#16, clipped := false } else Machine.die s i
  grain : ∀ e, ∀ g < 16, Machine.grain t (grainAt c r e g)
    = if e = d then givenBack (deferredOf s (grainAt c r e g)) (Machine.grain s (grainAt c r e g))
      else Machine.grain s (grainAt c r e g)

theorem latchedAt_statDie (c r d : Nat) (u : State) : LatchedAt c r d u (statDie c r d u) := by
  have hfold : (List.range 16).foldl (backAt c r d) u
      = { u with bank := { u.bank with grains := ((List.range 16).foldl (backAt c r d) u).bank.grains } } :=
    foldl_of_step (P := fun v : State => v = { u with bank := { u.bank with grains := v.bank.grains } })
      (fun v g hv => by rw [backAt_frame, hv]) rfl _
  have hgrain : ∀ e, ∀ g < 16, grain ((List.range 16).foldl (backAt c r d) u) (grainAt c r e g)
      = if e = d then givenBack (deferredOf u (grainAt c r e g)) (grain u (grainAt c r e g)) else grain u (grainAt c r e g) := by
    intro e g hg
    split
    · next hed =>
      subst hed
      refine foldl_at_mem
        (P := fun v : State => v.bank.dies = u.bank.dies ∧ grain v (grainAt c r e g) = grain u (grainAt c r e g))
        (Q := fun v : State => grain v (grainAt c r e g) = givenBack (deferredOf u (grainAt c r e g)) (grain u (grainAt c r e g)))
        (fun k hk hne v ⟨hdies, hsame⟩ => ⟨?_, ?_⟩) (fun v ⟨hdies, hsame⟩ => ?_) (fun k hk hne v hv => ?_) List.nodup_range
        (List.mem_range.mpr hg) ⟨rfl, rfl⟩
      · rw [backAt_frame, hdies]
      · rw [grain_backAt, if_neg fun h => hne ((grainAt_inj hg (List.mem_range.mp hk)).mp h).2.symm, hsame]
      · rw [grain_backAt, if_pos rfl, hsame, deferredOf, die, hdies, ← die, ← deferredOf]
      · rw [grain_backAt, if_neg fun h => hne ((grainAt_inj hg (List.mem_range.mp hk)).mp h).2.symm, hv]
    · next hed =>
      refine read_foldl_of_keeps (read := fun v => grain v (grainAt c r e g)) (fun k hk v => ?_) u
      rw [grain_backAt, if_neg fun h => hed ((grainAt_inj hg (List.mem_range.mp hk)).mp h).1]
  rw [statDie_eq]
  generalize (List.range 16).foldl (backAt c r d) u = v at hfold hgrain
  refine ⟨?_, fun i => ?_, hgrain⟩
  · rw [hfold]
    rfl
  · have hdie : die v i = die u i := by rw [hfold]; rfl
    split
    · next hi => rw [hi, die_setDie_self, ← hi, hdie]
    · next hi => rw [die_setDie_ne _ _ _ _ hi, hdie]

theorem LatchedAt.deferredOf (h : LatchedAt c r d s t) (k : Nat) : deferredOf t k = deferredOf s k := by
  have hdef : ∀ i, (Machine.die t i).deferred = (Machine.die s i).deferred := fun i => by
    rw [h.die]
    split <;> rfl
  rw [Machine.deferredOf, Machine.deferredOf, hdef]

theorem LatchedAt.dieHears (h : LatchedAt c r d s t) (i : Nat) : dieHears (Machine.die t i) = dieHears (Machine.die s i) := by
  rw [h.die]
  split <;> rfl

/-- STAT's latch at every die of a rank. -/
theorem onRank_statDie (hh : rankHears s c r = true) :
    onRank c r (fun d t => statDie c r d t) s = (List.range 4).foldl (fun u d => statDie c r d u) s := by
  obtain ⟨he, hears⟩ := rankHears_iff.mp hh
  refine onRank_eq_foldl (inv := fun u => ∀ i, dieHears (die u i) = dieHears (die s i)) he (fun _ => rfl)
    fun u hu d hd => ⟨(hu _).trans (hears d hd), rfl, fun i => ?_⟩
  exact ((latchedAt_statDie c r d u).dieHears i).trans (hu i)

theorem foldl_statDie (s : State) :
    (∀ d < 4, ∀ g < 16, grain ((List.range 4).foldl (fun u d => statDie c r d u) s) (grainAt c r d g)
      = givenBack (deferredOf s (grainAt c r d g)) (grain s (grainAt c r d g)))
    ∧ (∀ d < 4, (die ((List.range 4).foldl (fun u d => statDie c r d u) s) (dieNo c r d)).changed = 0#16
      ∧ (die ((List.range 4).foldl (fun u d => statDie c r d u) s) (dieNo c r d)).clipped = false)
    ∧ (List.range 4).foldl (fun u d => statDie c r d u) s = { s with
        bank := { s.bank with grains := ((List.range 4).foldl (fun u d => statDie c r d u) s).bank.grains,
                              dies := ((List.range 4).foldl (fun u d => statDie c r d u) s).bank.dies } } := by
  refine ⟨fun d hd g hg => ?_, fun d hd => ?_, ?_⟩
  · refine foldl_at_mem
      (P := fun v => deferredOf v (grainAt c r d g) = deferredOf s (grainAt c r d g)
        ∧ grain v (grainAt c r d g) = grain s (grainAt c r d g))
      (Q := fun v => grain v (grainAt c r d g) = givenBack (deferredOf s (grainAt c r d g)) (grain s (grainAt c r d g)))
      (fun e _ hne v ⟨hdef, hsame⟩ => ⟨?_, ?_⟩) (fun v ⟨hdef, hsame⟩ => ?_) (fun e _ hne v hv => ?_) List.nodup_range
      (List.mem_range.mpr hd) ⟨rfl, rfl⟩
    · rw [(latchedAt_statDie c r e v).deferredOf, hdef]
    · rw [(latchedAt_statDie c r e v).grain d g hg, if_neg hne.symm, hsame]
    · rw [(latchedAt_statDie c r d v).grain d g hg, if_pos rfl, hsame, hdef]
    · rw [(latchedAt_statDie c r e v).grain d g hg, if_neg hne.symm, hv]
  · refine foldl_at_mem (P := fun _ => True)
      (Q := fun v => (die v (dieNo c r d)).changed = 0#16 ∧ (die v (dieNo c r d)).clipped = false)
      (fun _ _ _ _ _ => trivial) (fun v _ => ?_) (fun e _ hne v hv => ?_) List.nodup_range (List.mem_range.mpr hd) trivial
    · rw [(latchedAt_statDie c r d v).die, if_pos rfl]
      exact ⟨rfl, rfl⟩
    · rw [(latchedAt_statDie c r e v).die, if_neg fun h => hne (dieNo_inj.mp h).symm]
      exact hv
  · refine foldl_of_step (P := fun u : State => u = { s with bank := { s.bank with grains := u.bank.grains, dies := u.bank.dies } })
      (fun u d hu => ?_) rfl _
    rw [(latchedAt_statDie c r d u).frame, hu]

theorem statCode_lt (s : State) (g : Nat) : statCode s g < 2 ^ 2 := by
  unfold statCode
  dsimp only
  split
  · decide
  · cases (grain s g).state <;> decide

/-- Above its 32 low bits a status word holds multiples of 2^32. -/
theorem statBits_eq (n ch temp z : Nat) (held pend : Bool) :
    n + ch * 2 ^ 32 + bitIf held 48 + bitIf pend 49 + temp * 2 ^ 56 + z * 2 ^ 128
      = 2 ^ 32 * (ch + bitIf held 16 + bitIf pend 17 + temp * 2 ^ 24 + z * 2 ^ 96) + n := by
  simp only [bitIf]
  split <;> split <;> ring

/-- The two bits of a grain in the status word of its die (07 Table 7.4). -/
theorem extract_statWord (s : State) (c r d : Nat) (hg : g < 16) :
    ((statWord s c r d).extractLsb' (2 * g) 2).toNat = statCode s (grainAt c r d g) := by
  have hcodes : ∀ k, statCode s (grainAt c r d k) < 2 ^ 2 := fun k => statCode_lt s _
  have hlt := digits_lt (n := 16) hcodes
  have hdig := digits_div_mod (n := 16) hcodes hg
  have hsum : ∃ m, statWord s c r d = BitVec.ofNat 256 (2 ^ 32 * m + digits 2 (fun k => statCode s (grainAt c r d k)) 16) := by
    have hfold : (List.range 16).foldl (fun n k => n + statCode s (grainAt c r d k) * 4 ^ k) 0
        = digits 2 (fun k => statCode s (grainAt c r d k)) 16 := by
      refine List.foldl_ext _ _ _ fun n k _ => ?_
      rw [Nat.pow_mul]
    rw [← hfold]
    exact ⟨_, congrArg (BitVec.ofNat 256) (statBits_eq _ _ _ _ _ _)⟩
  obtain ⟨m, hm⟩ := hsum
  rw [hm, ← hdig]
  generalize digits 2 (fun k => statCode s (grainAt c r d k)) 16 = n at hlt
  apply Nat.eq_of_testBit_eq
  intro j
  rw [BitVec.testBit_toNat, BitVec.getLsbD_extractLsb', BitVec.getLsbD_ofNat, Nat.testBit_mod_two_pow, Nat.testBit_div_two_pow]
  by_cases hj : j < 2
  · have hbit : 2 * g + j < 32 := by omega
    rw [Nat.testBit_two_pow_mul_add _ hlt, if_pos hbit]
    have h256 : j + 2 * g < 256 := by omega
    simp only [hj, h256, decide_true, Bool.true_and, Nat.add_comm]
  · simp [hj]

theorem p1At_congr (h : t.ctl = s.ctl) (c r : Nat) : p1At t c r = p1At s c r := by
  have hbc : ∀ k, bc t k = bc s k := fun k => by rw [bc, h, bc]
  have hphys : ∀ k j, physRank t k j = physRank s k j := fun k j => by rw [physRank, quadMap, h, physRank, quadMap]
  simp only [p1At, hphys, hbc]

theorem yields_stat (hh : rankHears s c r = true) (hp : p1At s c r = []) :
    Yields (.stat c r) s fun t =>
      (∀ d < 4, ∀ g < 16, (grain t (grainAt c r d g)).own =
        if (grain s (grainAt c r d g)).own = .polled ∧ (grain s (grainAt c r d g)).state ≠ .running
            ∧ deferredOf s (grainAt c r d g) = 0 then .controller else (grain s (grainAt c r d g)).own)
      ∧ (∀ d < 4, (die t (dieNo c r d)).changed = 0#16 ∧ (die t (dieNo c r d)).clipped = false)
      ∧ (∃ (v : Wide) (k : BitVec 8), t.out = s.out ++ [.caData c r v k]
          ∧ ∀ d < 4, ∀ g < 16, (v.extractLsb' (256 * d + 2 * g) 2).toNat = statCode s (grainAt c r d g)) := by
  obtain ⟨he, hears⟩ := rankHears_iff.mp hh
  have hans : answers s c r (fun d => some (statWord s c r d, 0)) = (List.range 4).map (fun d => some (statWord s c r d, 0)) :=
    List.map_congr_left fun d hd => by rw [he, hears d (List.mem_range.mp hd)]; rfl
  generalize hv : emit (.caData c r (BitVec.ofNat 1024 (digits 256 (fun d => (statWord s c r d).toNat) 4))
    (BitVec.ofNat 8 (digits 2 (fun _ => 0 % 4) 4))) s = v
  have hvs : v = { s with out := s.out ++ [.caData c r (BitVec.ofNat 1024 (digits 256 (fun d => (statWord s c r d).toNat) 4))
    (BitVec.ofNat 8 (digits 2 (fun _ => 0 % 4) 4))] } := by rw [← hv]; rfl
  obtain ⟨hgrain, hdie, hframe⟩ := foldl_statDie (c := c) (r := r) v
  have hu : execStat c r s = ok ((List.range 4).foldl (fun u d => statDie c r d u) v) := by
    have hhv : rankHears v c r = true := by
      rw [hvs]
      exact hh
    have hidle : p1At ((List.range 4).foldl (fun u d => statDie c r d u) v) c r = [] :=
      (p1At_congr (by rw [hframe, hvs]) c r).trans hp
    refine congrArg ok ?_
    rw [statRank, hans, burst_of_driven (fun d => (statWord s c r d, 0)), hv, onRank_statDie hhv, reapP1_of_idle hidle]
  have hsame : ∀ k, grain v k = grain s k ∧ deferredOf v k = deferredOf s k := fun k => by
    rw [hvs]
    exact ⟨rfl, rfl⟩
  generalize (List.range 4).foldl (fun u d => statDie c r d u) v = t at hgrain hdie hframe hu
  refine yields_of_ok hu ⟨fun d hd g hg => ?_, hdie, ?_⟩
  · rw [hgrain d hd g hg, (hsame _).1, (hsame _).2, givenBack]
    exact apply_ite Grain.own _ _ _
  · obtain ⟨w, k, hout, hburst⟩ := burstOf_digits (s := s) (t := t) (get := fun d => (statWord s c r d, 0))
      (part := statWord s c r) (chk := fun _ => 0) (by rw [hframe, hvs]) (fun _ _ => rfl) (fun _ _ => ⟨rfl, by decide⟩)
    refine ⟨w, k, hout, fun d hd g hg => ?_⟩
    have hnest : w.extractLsb' (256 * d + 2 * g) 2 = (w.extractLsb' (256 * d) 256).extractLsb' (2 * g) 2 := by
      apply BitVec.eq_of_getLsbD_eq
      intro j hj
      have hin : 2 * g + j < 256 := by omega
      simp only [BitVec.getLsbD_extractLsb', hj, hin, decide_true, Bool.true_and, Nat.add_assoc]
    rw [hnest, (hburst d hd).1, extract_statWord s c r d hg]

/-! ### The end of a lockstep Spread -/

/-- A grain whose banks a lockstep Spread held gives them back, unless it runs on. -/
def afterSpread (x : Grain) : Grain :=
  if x.own = .blind ∧ (x.state ≠ .running ∨ majorOf (currentWord x) ∈ [0x30, 0x31, 0x32]) then { x with own := .controller } else x

/-- The banks of one grain at the end of a Spread. -/
def endAt (c r : Nat) (u : State) (i : Nat) : State :=
  let g := grainAt c r (i / 16) (i % 16)
  if (grain u g).own = .blind ∧ ((grain u g).state ≠ .running ∨ majorOf (currentWord (grain u g)) ∈ [0x30, 0x31, 0x32]) then
    setGrain g { (grain u g) with own := .controller } u
  else u

theorem grain_endAt (c r : Nat) (u : State) (i k : Nat) :
    grain (endAt c r u i) k = if k = grainAt c r (i / 16) (i % 16) then afterSpread (grain u k) else grain u k := by
  unfold endAt afterSpread
  dsimp only
  by_cases hk : k = grainAt c r (i / 16) (i % 16)
  · subst hk
    rw [if_pos rfl]
    split
    · exact grain_setGrain_self ..
    · rfl
  · rw [if_neg hk]
    split
    · exact grain_setGrain_ne _ _ _ _ hk
    · rfl

theorem yields_spreadEnd {grains : BitVec 64} (he : rankExists c r = true) (hp : p1At s c r = []) :
    Yields (.spreadEnd c r grains) s fun t =>
      (∀ d < 4, ∀ g < 16, grain t (grainAt c r d g) =
        let x := grain s (grainAt c r d g)
        if grains.getLsbD (16 * d + g) = true ∧ x.own = .blind
            ∧ (x.state ≠ .running ∨ majorOf (currentWord x) ∈ [0x30, 0x31, 0x32]) then { x with own := .controller } else x)
      ∧ (∀ h, (∀ d < 4, ∀ g < 16, h ≠ grainAt c r d g) → grain t h = grain s h)
      ∧ t = { s with bank := { s.bank with grains := t.bank.grains } } := by
  have hframe : ∀ l : List Nat, l.foldl (endAt c r) s = { s with bank := { s.bank with grains := (l.foldl (endAt c r) s).bank.grains } } := by
    refine fun l => foldl_of_step (P := fun u : State => u = { s with bank := { s.bank with grains := u.bank.grains } })
      (fun u i hu => ?_) rfl l
    rw [endAt]
    dsimp only
    split
    · rw [hu]
      rfl
    · exact hu
  have hu : execSpreadEnd c r grains s
      = ok (((List.range 64).filter (fun i => grains.getLsbD i)).foldl (endAt c r) s) := by
    have hidle := (p1At_congr (congrArg State.ctl (hframe ((List.range 64).filter (fun i => grains.getLsbD i)))) c.val r.val).trans hp
    unfold execSpreadEnd
    dsimp only
    have hnone : lockstepOn s c r = [] := by rw [lockstepOn, hp]; rfl
    rw [hnone, if_pos he]
    exact congrArg ok (reapP1_of_idle hidle)
  have hidx : ∀ i ∈ (List.range 64).filter (fun i => grains.getLsbD i), i / 16 < 4 ∧ i % 16 < 16 ∧ grains.getLsbD i = true := by
    intro i hi
    obtain ⟨hlt, hbit⟩ := List.mem_filter.mp hi
    have hlt' := List.mem_range.mp hlt
    exact ⟨by omega, by omega, hbit⟩
  refine yields_of_ok hu ⟨fun d hd g hg => ?_, fun k hk => ?_, hframe _⟩
  · have hother : ∀ i, i ≠ 16 * d + g → ∀ u : State, grain (endAt c r u i) (grainAt c r d g) = grain u (grainAt c r d g) := by
      intro i hi u
      rw [grain_endAt, if_neg fun h => hi ?_]
      obtain ⟨hdi, hgi⟩ := (grainAt_inj hg (Nat.mod_lt i (by decide))).mp h
      omega
    by_cases hbit : grains.getLsbD (16 * d + g) = true
    · have hmem : 16 * d + g ∈ (List.range 64).filter (fun i => grains.getLsbD i) :=
        List.mem_filter.mpr ⟨List.mem_range.mpr (by omega), hbit⟩
      have hdiv : (16 * d + g) / 16 = d := by omega
      have hmod : (16 * d + g) % 16 = g := by omega
      rw [read_foldl_of_mem (read := fun u => grain u (grainAt c r d g)) (F := afterSpread)
        (fun u => by rw [grain_endAt, hdiv, hmod, if_pos rfl]) (fun i _ hne u => hother i hne u) (List.nodup_range.filter _) hmem]
      simp only [hbit, true_and, afterSpread]
    · have hnot : 16 * d + g ∉ (List.range 64).filter (fun i => grains.getLsbD i) := fun h => hbit (hidx _ h).2.2
      rw [read_foldl_of_keeps (read := fun u => grain u (grainAt c r d g)) fun i hi u => hother i (fun h => hnot (h ▸ hi)) u]
      exact (if_neg fun h => hbit h.1).symm
  · refine read_foldl_of_keeps (read := fun u => grain u k) (fun i hi u => ?_) s
    obtain ⟨hd, hg, -⟩ := hidx i hi
    rw [grain_endAt, if_neg (hk _ hd _ hg)]

/-! ### A parity error at a grain -/

theorem grain_mapOut (g cause k : Nat) (u : State) : grain (mapOut g cause u) k = grain u k := by
  unfold mapOut
  split
  · rfl
  · dsimp only
    rw [grain, plogAdd_bank, logDev_bank]
    rfl

theorem mem_mappedOut_mapOut (g cause : Nat) (u : State) : g ∈ (mapOut g cause u).bank.mappedOut := by
  unfold mapOut
  split
  · next h => exact h
  · dsimp only
    rw [plogAdd_bank, logDev_bank]
    simp

theorem mappedOut_stopGrain (g : Nat) (st : GState) (fault pc : Nat) (u : State) :
    (stopGrain g st fault pc u).bank.mappedOut = u.bank.mappedOut ∧ (stopGrain g st fault pc u).bank.parityOnce = u.bank.parityOnce := by
  unfold stopGrain
  dsimp only
  split <;> exact ⟨rfl, rfl⟩

theorem faultGrain_frame (g code : Nat) (u : State) :
    (faultGrain g code u).bank.mappedOut = u.bank.mappedOut ∧ (faultGrain g code u).bank.parityOnce = u.bank.parityOnce
      ∧ (faultGrain g code u).bank.mem = u.bank.mem := by
  have hmem : ∀ pc, (stopGrain g .faulted code pc u).bank.mem = u.bank.mem := fun pc => (stopGrain_frame g .faulted code pc u).1
  unfold faultGrain
  dsimp only
  split
  · exact ⟨(mappedOut_stopGrain ..).1, (mappedOut_stopGrain ..).2, hmem _⟩
  · exact ⟨(mappedOut_stopGrain ..).1, (mappedOut_stopGrain ..).2, hmem _⟩

/-- A grain that a parity error has faulted: its deferred refreshes are run, and its state stays. -/
theorem yields_grainStop {g : GrainNo} {post : State → Prop} (hhit : (grain s g.val).state = .running ∨ undefNow s g = true)
    (hst : (grain (parityFault g s) g).state = .faulted) (hp : post (serveDeferred g 1 (parityFault g s))) :
    Yields (.grainStop g true) s post := by
  have hu : execGrainStop g true s = ok (serveDeferred g 1 (parityFault g s)) := by
    have hstruck : (if true = true ∧ ((grain s g).state = .running ∨ undefNow s g = true) then parityFault g s else s)
        = parityFault g s := if_pos ⟨rfl, hhit⟩
    unfold execGrainStop
    dsimp only
    rw [hstruck, hst]
    rfl
  exact yields_of_ok hu hp

/-- The parity error noted against the grain, its fault recorded. -/
def parityNoted (g : Nat) (u s : State) : State :=
  { u with bank := { u.bank with parityOnce := u.bank.parityOnce.filter (fun p => decide (p.1 ≠ g)) ++ [(g, now s)] } }

theorem parityFault_eq (g : Nat) (s : State) :
    parityFault g s
      = if s.bank.parityOnce.any (fun p => decide (p.1 = g ∧ (now s - p.2).toNat ≤ 86400000000000)) then
          mapOut g 1 (parityNoted g (if undefNow s g then setGrain g { (grain s g) with fault := 7#8 } s else faultGrain g 0x07 s) s)
        else parityNoted g (if undefNow s g then setGrain g { (grain s g) with fault := 7#8 } s else faultGrain g 0x07 s) s := rfl

theorem grain_parityFault (g : Nat) (s : State) :
    grain (parityFault g s) g
      = if undefNow s g then { (grain s g) with fault := 7#8 } else grain (faultGrain g 0x07 s) g := by
  have hnote : ∀ u, grain (parityNoted g u s) g = grain u g := fun _ => rfl
  rw [parityFault_eq]
  split
  · rw [grain_mapOut, hnote]
    split
    · exact grain_setGrain_self ..
    · rfl
  · rw [hnote]
    split
    · exact grain_setGrain_self ..
    · rfl

theorem not_undefNow_of_running (h : (grain s g).state = .running) : undefNow s g = false :=
  decide_eq_false fun ⟨hf, _⟩ => absurd (h.symm.trans hf) (by decide)

theorem grain_parityFault_of_running (h : (grain s g).state = .running) :
    (grain (parityFault g s) g).state = .faulted ∧ (grain (parityFault g s) g).fault = 7#8 := by
  obtain ⟨hst, hcode, -⟩ := faults_faultGrain g 0x07 s
  rw [grain_parityFault, not_undefNow_of_running h, if_neg Bool.false_ne_true]
  exact ⟨hst, hcode⟩

theorem yields_grainStop_first {g : GrainNo} (hrun : (grain s g.val).state = .running)
    (hnone : ∀ p ∈ s.bank.parityOnce, p.1 ≠ g.val) :
    Yields (.grainStop g true) s fun t =>
      (grain t g.val).state = .faulted ∧ (grain t g.val).fault = 7#8 ∧ (g.val, now s) ∈ t.bank.parityOnce
      ∧ t.bank.mappedOut = s.bank.mappedOut ∧ t.bank.mem = s.bank.mem := by
  obtain ⟨hst, hcode⟩ := grain_parityFault_of_running hrun
  refine yields_grainStop (Or.inl hrun) hst ⟨hst, hcode, ?_⟩
  have hagain : s.bank.parityOnce.any (fun p => decide (p.1 = g.val ∧ (now s - p.2).toNat ≤ 86400000000000)) = false := by
    rw [List.any_eq_false]
    exact fun p hp h => hnone p hp (of_decide_eq_true h).1
  obtain ⟨hmap, -, hmem⟩ := faultGrain_frame g 0x07 s
  rw [parityFault_eq, hagain, if_neg Bool.false_ne_true, not_undefNow_of_running hrun, if_neg Bool.false_ne_true]
  exact ⟨List.mem_append_right _ List.mem_cons_self, hmap, hmem⟩

theorem yields_grainStop_second {g : GrainNo} (hrun : (grain s g.val).state = .running)
    (hmem : (g.val, now s) ∈ s.bank.parityOnce) :
    Yields (.grainStop g true) s fun t => (grain t g.val).state = .faulted ∧ g.val ∈ t.bank.mappedOut := by
  obtain ⟨hst, -⟩ := grain_parityFault_of_running hrun
  refine yields_grainStop (Or.inl hrun) hst ⟨hst, ?_⟩
  have hagain : s.bank.parityOnce.any (fun p => decide (p.1 = g.val ∧ (now s - p.2).toNat ≤ 86400000000000)) = true := by
    rw [List.any_eq_true]
    exact ⟨_, hmem, decide_eq_true ⟨rfl, by rw [BitVec.sub_self]; decide⟩⟩
  rw [parityFault_eq, hagain, if_pos rfl]
  exact mem_mappedOut_mapOut ..

theorem yields_grainStop_undefined {g : GrainNo} (hf : (grain s g.val).state = .faulted) (hcode : (grain s g.val).fault = 1#8)
    (hat : (grain s g.val).craMtb = now s) :
    Yields (.grainStop g true) s fun t => (grain t g.val).state = .faulted ∧ (grain t g.val).fault = 7#8 := by
  have hundef : undefNow s g = true := decide_eq_true ⟨hf, hcode, hat⟩
  have hgrain : grain (parityFault g s) g = { (grain s g.val) with fault := 7#8 } := by
    rw [grain_parityFault, hundef, if_pos rfl]
  refine yields_grainStop (Or.inr hundef) (by rw [hgrain]; exact hf) ?_
  have hkeep : grain (serveDeferred g 1 (parityFault g s)) g = grain (parityFault g s) g := rfl
  rw [hkeep, hgrain]
  exact ⟨hf, rfl⟩

/-- Settles O38: starts, halts, STAT and the end of a Spread act on the selected grains one by one, a parity error on its grain. -/
theorem grainsRunAndStop : Obligations.GrainsRunAndStop := by
  refine ⟨?sprd, ?undefined, ?grun, ?haltg, ?stat, ?spreadEnd, ?first, ?second, ?undef⟩
  case sprd => exact fun _ _ _ _ hg hp hknown hnot => yields_sprd hg hp hknown hnot
  case undefined => exact fun _ _ _ _ hg hp hbad => yields_sprd_undefined hg hp hbad
  case grun => exact fun _ _ _ _ hg hp hknown => yields_grun hg hp hknown
  case haltg => exact fun _ _ _ hh hrun => yields_haltg hh hrun
  case stat => exact fun _ _ _ hh hp => yields_stat hh hp
  case spreadEnd => exact fun _ _ _ _ he hp => yields_spreadEnd he hp
  case first => exact fun _ _ hrun hnone => yields_grainStop_first hrun hnone
  case second => exact fun _ _ hrun hmem => yields_grainStop_second hrun hmem
  case undef => exact fun _ _ hf hcode hat => yields_grainStop_undefined hf hcode hat

end Sys2Proof.Machine
end

section
/-! Tilth's scalar instructions: one register, or one lane of a vector register, gets a value (06 R166, R167). -/

namespace Sys2Proof.Machine

variable {s : State} {g : GrainNo} {w op : Nat} {v : U32}

/-! ### Instructions that write their own grain alone -/

theorem judged_of_passed {l : List (Bool × Nat)} (h : ∀ p ∈ l, p.1 = false) (s : State) (k : TOut) : judged l s k = k := by
  have hnone : l.find? (fun p => p.1) = none := List.find?_eq_none.mpr fun p hp => by simp [h p hp]
  rw [judged, hnone]

/-- An instruction that only writes its own grain does so, and the grain goes on. -/
theorem yields_of_pure {judges : Grain → Nat → List (Bool × Nat)} {act : Grain → Nat → Grain} {i : Instr}
    (hi : exec i s = .next (tilthStep op (pureInsn judges (fun _ _ => 1) act) g s)) (ha : atWord op w g s = true)
    (hok : ∀ p ∈ judges (grain s g) w, p.1 = false) (hrun : SameRun (act (grain s g) w) (grain s g))
    (hk : nextKnown (grain s g) (grain s g).pc = true) :
    Yields i s (Did g 1 (act (grain s g) w) s) := by
  refine ⟨_, hi, did_of_next ha ?_ hrun hk⟩
  rw [pureInsn]
  exact judged_of_passed hok _ _

theorem sameRun_setS (x : Grain) (k : Nat) (v : U32) : SameRun (x.setS k v) x := ⟨rfl, rfl, rfl, rfl, rfl⟩

theorem sameRun_setV (x : Grain) (k : Nat) (v : Line) : SameRun (x.setV k v) x := ⟨rfl, rfl, rfl, rfl, rfl⟩

theorem rsvSet_of_zero {lo len : Nat} (h : bits w lo len = 0) : rsvSet w [(lo, len)] = false := by
  simp [rsvSet, h]

/-- One judgement passed is all of a list of one. -/
theorem forall_mem_one {p : Bool × Nat} (h : p.1 = false) : ∀ q ∈ [p], q.1 = false := by
  simpa using h

/-! ### Scalar values -/

theorem saluValue_of_lt {x : Grain} (h : bits w 8 6 < 0x10) :
    saluValue x w = salu (bits w 8 6) (sreg x (bits w 18 4)) (sreg x (bits w 14 4)) := by
  unfold saluValue
  split
  · omega
  · omega
  · rfl

theorem saluValue_of_index {x : Grain} {l : GLoop} (h : bits w 8 6 = 0x10) (hl : x.loop0 = some l) :
    saluValue x w = some (BitVec.ofNat 32 l.index) := by
  unfold saluValue
  rw [h, hl]
  rfl

theorem yields_salu (ha : atWord 0x08 w g s = true) (h0 : bits w 0 8 = 0) (hv : saluValue (grain s g) w = some v)
    (hk : nextKnown (grain s g) (grain s g).pc = true) :
    Yields (.salu g) s (Did g 1 (withS (grain s g) (bits w 22 4) v) s) := by
  have hok : ∀ p ∈ [((saluValue (grain s g) w).isNone, 0x01), (rsvSet w [(0, 8)], 0x02)], p.1 = false := by
    simp [hv, rsvSet_of_zero h0]
  have hyields := yields_of_pure (show exec (.salu g) s = .next (tilthStep 0x08 insSalu g s) from rfl) ha hok (sameRun_setS ..) hk
  rwa [hv] at hyields

/-- The high part of LUI: 22 bits, ten places up. -/
theorem ofNat_mul_1024 (n : Nat) : BitVec.ofNat 32 (n * 1024) = BitVec.ofNat 32 n <<< 10 := by
  apply BitVec.eq_of_toNat_eq
  rw [BitVec.toNat_shiftLeft, BitVec.toNat_ofNat, BitVec.toNat_ofNat, Nat.shiftLeft_eq, Nat.mod_mul_mod]

theorem yields_lui (ha : atWord 0x0B w g s = true) (hk : nextKnown (grain s g) (grain s g).pc = true) :
    Yields (.lui g) s (Did g 1 (withS (grain s g) (bits w 22 4) (BitVec.ofNat 32 (bits w 0 22) <<< 10)) s) := by
  rw [← ofNat_mul_1024]
  exact yields_of_pure (show exec (.lui g) s = .next (tilthStep 0x0B insLui g s) from rfl) ha (by simp) (sameRun_setS ..) hk

theorem yields_shi (ha : atWord 0x0C w g s = true) (h5 : bits w 5 11 = 0) (hty : bits w 16 2 ≠ 3)
    (hk : nextKnown (grain s g) (grain s g).pc = true) :
    Yields (.shi g) s (Did g 1 (withS (grain s g) (bits w 22 4)
      (if bits w 16 2 = 0 then sreg (grain s g) (bits w 18 4) <<< bits w 0 5
       else if bits w 16 2 = 1 then sreg (grain s g) (bits w 18 4) >>> bits w 0 5
       else (sreg (grain s g) (bits w 18 4)).sshiftRight (bits w 0 5))) s) := by
  have hok : ∀ p ∈ [(decide (bits w 16 2 = 3), 0x01), (rsvSet w [(5, 11)], 0x02)], p.1 = false := by
    simp [hty, rsvSet_of_zero h5]
  have hyields := yields_of_pure (show exec (.shi g) s = .next (tilthStep 0x0C insShi g s) from rfl) ha hok (sameRun_setS ..) hk
  generalize bits w 16 2 = k at hyields hty ⊢
  match k with
  | 0 => exact hyields
  | 1 => exact hyields
  | k + 2 =>
    rw [if_neg (by omega), if_neg (by omega)]
    exact hyields

theorem yields_shi_undefined (ha : atWord 0x0C w g s = true) (hty : bits w 16 2 = 3) :
    Yields (.shi g) s (Faults g 0x01 s) := by
  have hs : insShi w g s = .fault 0x01 s := by
    rw [insShi, pureInsn, decide_eq_true hty]
    exact judged_true ..
  refine ⟨tilthStep 0x0C insShi g s, rfl, ?_⟩
  rw [tilthStep_of_fault ha hs]
  exact faults_faultGrain ..

/-! ### One lane of a vector -/

theorem extract_ofWLanes (l : List U32) {i : Nat} (hi : i < 16) : (ofWLanes l).extractLsb' (32 * i) 32 = l.getD i 0#32 := by
  have hget : (l.map (fun x => x.toNat)).getD i 0 = (l.getD i 0#32).toNat := by
    simp only [List.getD_eq_getElem?_getD, List.getElem?_map]
    cases l[i]? <;> rfl
  rw [ofWLanes, extractLsb'_ofNat_unlanes (by omega), hget, BitVec.ofNat_toNat, BitVec.setWidth_eq]

theorem getD_wLanes (x : Line) {i : Nat} (hi : i < 16) : (wLanes x).getD i 0#32 = x.extractLsb' (32 * i) 32 := by
  rw [← ofNat_lanes_getD (n := 16) hi]
  simp only [wLanes, List.getD_eq_getElem?_getD, List.getElem?_map]
  cases (lanes 16 32 x.toNat)[i]? <;> rfl

theorem length_wLanes (x : Line) : (wLanes x).length = 16 := by simp [wLanes, lanes]

theorem bits_lt (w lo len : Nat) : bits w lo len < 2 ^ len := Nat.mod_lt _ (Nat.two_pow_pos len)

theorem yields_vsets (ha : atWord 0x0E w g s = true) (h0 : bits w 0 14 = 0)
    (hk : nextKnown (grain s g) (grain s g).pc = true) :
    Yields (.vsets g) s (fun t => ∃ v : Line,
      Did g 1 (withV (grain s g) (bits w 22 4) v) s t
      ∧ v.extractLsb' (32 * bits w 14 4) 32 = sreg (grain s g) (bits w 18 4)
      ∧ ∀ i < 16, i ≠ bits w 14 4 → v.extractLsb' (32 * i) 32 = (vreg (grain s g) (bits w 22 4)).extractLsb' (32 * i) 32) := by
  have hlane : bits w 14 4 < 16 := bits_lt w 14 4
  have hyields := yields_of_pure (show exec (.vsets g) s = .next (tilthStep 0x0E insVsets g s) from rfl) ha
    (forall_mem_one (rsvSet_of_zero h0)) (sameRun_setV ..) hk
  refine hyields.imp fun t ht => ⟨_, ht, ?_, fun i hi hne => ?_⟩
  · rw [extract_ofWLanes _ hlane, List.getD_eq_getElem?_getD, List.getElem?_set_self (by rw [length_wLanes]; exact hlane),
      Option.getD_some]
  · rw [extract_ofWLanes _ hi, List.getD_eq_getElem?_getD, List.getElem?_set_ne hne.symm, ← List.getD_eq_getElem?_getD,
      getD_wLanes _ hi]

/-- Settles O40: each scalar instruction is one write of its grain's registers, judged by its reserved bits and its function. -/
theorem tilthScalars : Obligations.TilthScalars := by
  refine ⟨?salu, ?index, ?addi, ?ori, ?lui, ?shi, ?shiUndefined, ?sgetv, ?vsets⟩
  case salu => exact fun _ _ _ _ ha h0 hlt hv hk => yields_salu ha h0 ((saluValue_of_lt hlt).trans hv) hk
  case index => exact fun _ _ _ _ ha h0 hfn hl hk => yields_salu ha h0 (saluValue_of_index hfn hl) hk
  case addi =>
    exact fun s g _ ha hk => yields_of_pure (show exec (.addi g) s = .next (tilthStep 0x09 insAddi g s) from rfl) ha (by simp)
      (sameRun_setS ..) hk
  case ori =>
    exact fun s g _ ha hk => yields_of_pure (show exec (.ori g) s = .next (tilthStep 0x0A insOri g s) from rfl) ha (by simp)
      (sameRun_setS ..) hk
  case lui => exact fun _ _ _ ha hk => yields_lui ha hk
  case shi => exact fun _ _ _ ha h5 hty hk => yields_shi ha h5 hty hk
  case shiUndefined => exact fun _ _ _ ha hty => yields_shi_undefined ha hty
  case sgetv =>
    exact fun s g _ ha h0 hk => yields_of_pure (show exec (.sgetv g) s = .next (tilthStep 0x0D insSgetv g s) from rfl) ha
      (forall_mem_one (rsvSet_of_zero h0)) (sameRun_setS ..) hk
  case vsets => exact fun _ _ _ ha h0 hk => yields_vsets ha h0 hk

end Sys2Proof.Machine
end

section
/-! Refreshes that come due, the guard, neighbour refreshes, and the temperatures of a rank (07 R205 to R208, 08 R221 to R225). -/

namespace Sys2Proof.Machine

variable {s t u : State} {c : Chan} {r : Rank} {bank : BankNo}

/-! ### What a bank owes -/

theorem owedOf_setOwed_self (c r b : Nat) (v : Int) (s : State) : owedOf (setOwed c r b v s) c r b = v := by
  simp [owedOf, setOwed]

theorem owedOf_setOwed_ne (c r : Nat) {b k : Nat} (h : k ≠ b) (v : Int) (s : State) :
    owedOf (setOwed c r b v s) c r k = owedOf s c r k := by
  have hkey : r * 32 + k ≠ r * 32 + b := by omega
  simp [owedOf, setOwed, tget_tset_ne _ _ _ _ _ hkey]

theorem owedOf_congr (h : t.ctl = s.ctl) (c r b : Nat) : owedOf t c r b = owedOf s c r b := by rw [owedOf, bc, h, owedOf, bc]

theorem otherBcs_setBc (c : Nat) (x : Bc) (s : State) : OtherBcs c s (setBc c x s) := fun k hk => bc_setBc_ne s c k x hk

theorem diesOnly_refreshOnce (c : Chan) (r : Rank) (b : Nat) (u : State) :
    DiesOnly c r u (onRank c r (fun d t => refBank c r d b t) (countEv 0x21 c none 1 u)) := by
  refine (diesOnly_countEv 0x21 c none 1).trans ?_
  rw [onRank]
  split
  · refine diesOnly_foldl fun v d hd => ?_
    split
    · exact diesOnly_refBank (List.mem_range.mp hd) b v
    · exact .refl v
  · exact .refl _

theorem sendRefs_eq (c : Chan) (r : Rank) (b n : Nat) (s : State) :
    ∃ u, DiesOnly c r s u ∧ sendRefs c r b n s = setOwed c r b (owedOf s c r b - n) u := by
  have hdies : DiesOnly c r s ((List.range n).foldl
      (fun s' _ => onRank c r (fun d t => refBank c r d b t) (countEv 0x21 c none 1 s')) s) :=
    diesOnly_foldl fun u _ _ => diesOnly_refreshOnce c r b u
  refine ⟨_, hdies, ?_⟩
  rw [sendRefs]
  generalize (List.range n).foldl
      (fun s' _ => onRank c r (fun d t => refBank c r d b t) (countEv 0x21 c none 1 s')) s = v at hdies ⊢
  rw [← owedOf_congr (s := s) (t := v) (by rw [hdies.2])]

/-- The BC sends at least what is owed, and runs at most 8 ahead. -/
theorem refsNow_bounds (s : State) (due : Int) : due ≤ refsNow s due ∧ (-8 ≤ due → refsNow s due ≤ due + 8) := by
  rw [refsNow]
  omega

theorem yields_refreshDue (hrel : s.boot.relBc.getLsbD c.val = true) (hup : rankUp s c r = true)
    (hown : rankBankOwn s c r bank = .controller) (hask : bankAsked s c r bank = false) :
    Yields (.refreshDue c r bank) s fun t =>
      owedOf t c r bank ≤ min 0 (owedOf s c r bank + 1) ∧ (-9 ≤ owedOf s c r bank → -8 ≤ owedOf t c r bank)
      ∧ (∀ b, b ≠ bank.val → b < 32 → owedOf t c r b = owedOf s c r b) ∧ SameArray s t := by
  obtain ⟨u, hdies, hsend⟩ := sendRefs_eq c r bank (refsNow s (min 8 (owedOf s c r bank + 1)))
    (setOwed c r bank (min 8 (owedOf s c r bank + 1)) s)
  rw [owedOf_setOwed_self] at hsend
  have hu : execRefreshDue c r bank s = ok (takeFree (setOwed c r bank
      (min 8 (owedOf s c r bank + 1) - refsNow s (min 8 (owedOf s c r bank + 1))) u)) := by
    simp [execRefreshDue, hrel, hup, hown, hask, hsend]
  obtain ⟨-, hframe⟩ := hdies
  have hctl : u.ctl = (setOwed c r bank (min 8 (owedOf s c r bank + 1)) s).ctl := by rw [hframe]
  have hbank : u.bank.mem = s.bank.mem ∧ u.bank.marks = s.bank.marks := by
    rw [hframe]
    exact ⟨rfl, rfl⟩
  obtain ⟨hleast, hahead⟩ := refsNow_bounds s (min 8 (owedOf s c r bank + 1))
  refine ⟨_, hu, ?_, fun h9 => ?_, fun b hb _ => ?_, hbank⟩
  · rw [owedOf_congr (takeFree_ctl ..), owedOf_setOwed_self]
    omega
  · rw [owedOf_congr (takeFree_ctl ..), owedOf_setOwed_self]
    have := hahead (by omega)
    omega
  · rw [owedOf_congr (takeFree_ctl ..), owedOf_setOwed_ne _ _ hb, owedOf_congr hctl, owedOf_setOwed_ne _ _ hb]

/-- What a refresh that is only noted leaves. -/
theorem owes_setOwed (v : Int) (s : State) :
    owedOf (setOwed c r bank v s) c r bank = v ∧ (∀ i, die (setOwed c r bank v s) i = die s i)
    ∧ OtherBcs c s (setOwed c r bank v s)
    ∧ setOwed c r bank v s = { s with ctl := { s.ctl with bcs := (setOwed c r bank v s).ctl.bcs } } :=
  ⟨owedOf_setOwed_self .., fun _ => rfl, otherBcs_setBc c _ s, rfl⟩

theorem yields_refreshDue_asked (hrel : s.boot.relBc.getLsbD c.val = true) (hup : rankUp s c r = true)
    (hown : rankBankOwn s c r bank = .controller) (hask : bankAsked s c r bank = true) (h7 : owedOf s c r bank < 7) :
    Yields (.refreshDue c r bank) s fun t =>
      owedOf t c r bank = owedOf s c r bank + 1 ∧ (∀ i, die t i = die s i) ∧ OtherBcs c s t
      ∧ t = { s with ctl := { s.ctl with bcs := t.ctl.bcs } } := by
  have hdue : min 8 (owedOf s c r bank + 1) = owedOf s c r bank + 1 := by omega
  have hless : owedOf s c r bank + 1 < 8 := by omega
  have hu : execRefreshDue c r bank s = ok (setOwed c r bank (owedOf s c r bank + 1) s) := by
    simp [execRefreshDue, hrel, hup, hown, hask, hdue, hless]
  exact ⟨_, hu, owes_setOwed ..⟩

theorem yields_refreshDue_blind (hrel : s.boot.relBc.getLsbD c.val = true) (hup : rankUp s c r = true)
    (hown : rankBankOwn s c r bank = .blind) :
    Yields (.refreshDue c r bank) s fun t =>
      owedOf t c r bank = min 8 (owedOf s c r bank + 1) ∧ (∀ i, die t i = die s i) ∧ OtherBcs c s t
      ∧ t = { s with ctl := { s.ctl with bcs := t.ctl.bcs } } := by
  have hu : execRefreshDue c r bank s = ok (setOwed c r bank (min 8 (owedOf s c r bank + 1)) s) := by
    simp [execRefreshDue, hrel, hup, hown]
  exact ⟨_, hu, owes_setOwed ..⟩

/-! ### The guard -/

theorem desc_addCond (p q : Place) (st : Status) (s : State) :
    desc (addCond p st s) q
      = if q = p then (desc s q).map (fun e => { e with conds := addStatus st e.conds }) else desc s q := by
  cases hd : desc s p with
  | none =>
    have hsame : addCond p st s = s := by rw [addCond, hd]
    rw [hsame]
    split
    · next h => rw [h, hd, Option.map_none]
    · rfl
  | some e =>
    rw [addCond_of_desc st hd]
    split
    · next h => rw [h, desc_setDesc_self, hd, Option.map_some]
    · next h => exact desc_setDesc_ne s p q _ h

/-- The run of a P1 command ends with WATCHDOG, and is logged. -/
def guardRun (c r : Nat) (u : State) (k : Nat × P1) : State :=
  match k.2.place with
  | some p => addCond p .watchdog (logFn 0x04 0x03 (locOf 2 (4 * c + r)) k.2.func 0
      (((k.2.place.bind (desc u)).map (fun d => d.hsn.toNat)).getD 0) u)
  | none => logFn 0x04 0x03 (locOf 2 (4 * c + r)) k.2.func 0
      (((k.2.place.bind (desc u)).map (fun d => d.hsn.toNat)).getD 0) u

theorem desc_guardRun (c r : Nat) (u : State) (k : Nat × P1) (p : Place) :
    desc (guardRun c r u k) p = if k.2.place = some p
      then (desc u p).map (fun e => { e with conds := addStatus .watchdog e.conds }) else desc u p := by
  unfold guardRun
  generalize (((k.2.place.bind (desc u)).map (fun d => d.hsn.toNat)).getD 0) = hsn
  have hlog : desc (logFn 0x04 0x03 (locOf 2 (4 * c + r)) k.2.func 0 hsn u) p = desc u p := desc_congr (logFn_places ..) p
  cases k.2.place with
  | none => exact hlog.trans (if_neg (by simp)).symm
  | some q =>
    show desc (addCond q .watchdog _) p = _
    rw [desc_addCond, hlog]
    exact if_congr ⟨fun h => h ▸ rfl, fun h => (Option.some.inj h).symm⟩ rfl rfl

theorem bank_guardRun (c r : Nat) (u : State) (k : Nat × P1) : (guardRun c r u k).bank = u.bank := by
  unfold guardRun
  cases k.2.place with
  | none => exact logFn_bank ..
  | some q =>
    show (addCond q .watchdog _).bank = _
    rw [addCond_frame, logFn_bank]

theorem haltGrain_frame (g : Nat) (s : State) :
    SameArray s (haltGrain g s) ∧ (haltGrain g s).places = s.places := by
  rw [haltGrain]
  split
  · obtain ⟨hmem, hmarks, hframe⟩ := stopGrain_frame g .stopped 0 0 (setGrain g { (grain s g) with unclocked := true } s)
    generalize stopGrain g .stopped 0 0 (setGrain g { (grain s g) with unclocked := true } s) = v at hmem hmarks hframe
    exact ⟨⟨hmem, hmarks⟩, by rw [closeRows, hframe]; rfl⟩
  · exact ⟨⟨rfl, rfl⟩, rfl⟩

/-- The grains of a bank that a run owns. -/
def ownedAt (s : State) (c r bank : Nat) : List Nat :=
  ((List.range 4).map (fun d => grainAt c r d (bank / 2))).filter (fun g => decide ((grain s g).own = .polled))

theorem mem_ownedAt {g bank : Nat} : g ∈ ownedAt s c r bank ↔ ∃ d < 4, grainAt c r d (bank / 2) = g ∧ (grain s g).own = .polled := by
  constructor
  · intro h
    obtain ⟨hmem, hown⟩ := List.mem_filter.mp h
    obtain ⟨d, hd, rfl⟩ := List.mem_map.mp hmem
    exact ⟨d, List.mem_range.mp hd, rfl, of_decide_eq_true hown⟩
  · rintro ⟨d, hd, rfl, hown⟩
    exact List.mem_filter.mpr ⟨List.mem_map.mpr ⟨d, List.mem_range.mpr hd, rfl⟩, decide_eq_true hown⟩

/-- The issued P1 commands whose work is at a grain of a bank. -/
def runsAt (s : State) (c r bank : Nat) : List (Nat × P1) :=
  (p1At s c r).filter (fun k => k.2.issued && (p1Grains s k.1 k.2).any (fun g => decide (g ∈ ownedAt s c r bank)))

def guarded (c r bank : Nat) (s : State) : State :=
  (ownedAt s c r bank).foldl (fun u g => haltGrain g u) ((runsAt s c r bank).foldl (guardRun c r) s)

theorem execRefreshGuard_of_owing (hown : rankBankOwn s c r bank = .polled) (h8 : 8 ≤ owedOf s c r bank) :
    execRefreshGuard c r bank s = ok (guarded c r bank s) := by
  rw [execRefreshGuard, if_neg (by simp [hown, h8])]
  rfl

theorem bank_foldl_guardRun (c r : Nat) (l : List (Nat × P1)) (s : State) : (l.foldl (guardRun c r) s).bank = s.bank :=
  foldl_keeps State.bank _ (bank_guardRun c r) l s

theorem foldl_haltGrain_frame (l : List Nat) (s : State) :
    SameArray s (l.foldl (fun u g => haltGrain g u) s) ∧ (l.foldl (fun u g => haltGrain g u) s).places = s.places := by
  refine foldl_of_step (P := fun v => SameArray s v ∧ v.places = s.places) (g := fun u g => haltGrain g u) ?_ ⟨⟨rfl, rfl⟩, rfl⟩ l
  rintro v g ⟨⟨hmem, hmarks⟩, hplaces⟩
  obtain ⟨⟨hmem', hmarks'⟩, hplaces'⟩ := haltGrain_frame g v
  exact ⟨⟨hmem'.trans hmem, hmarks'.trans hmarks⟩, hplaces'.trans hplaces⟩

/-- What holds before an element's turn and is kept turns at it into what is kept from then on. -/
theorem foldl_after_mem {σ α : Type} {P Q : σ → Prop} {write : σ → α → σ} {l : List α} {q : α}
    (hP : ∀ p u, P u → P (write u p)) (hat : ∀ u, P u → Q (write u q)) (hQ : ∀ p u, Q u → Q (write u p)) (hq : q ∈ l)
    {u : σ} (hu : P u) : Q (l.foldl write u) := by
  obtain ⟨l₁, l₂, rfl⟩ := List.append_of_mem hq
  rw [List.foldl_append, List.foldl_cons]
  exact foldl_of_step (fun v p hv => hQ p v hv) (hat _ (foldl_of_step (fun v p hv => hP p v hv) hu l₁)) l₂

/-- A halt stops a running grain and leaves a stopped one stopped. -/
theorem stopped_haltGrain {g : Nat} {u : State} (h : (grain u g).state = .running ∨ (grain u g).state = .stopped) :
    (grain (haltGrain g u) g).state = .stopped := by
  obtain hrun | hstop := h
  · exact (haltGrain_of_running hrun).1
  · rw [haltGrain, if_neg (by rw [hstop]; decide)]
    exact hstop

theorem grain_haltGrain_cases {g k : Nat} {u : State} (h : (grain u g).state = .running ∨ (grain u g).state = .stopped) :
    (grain (haltGrain k u) g).state = .running ∨ (grain (haltGrain k u) g).state = .stopped := by
  by_cases hk : g = k
  · subst hk
    exact .inr (stopped_haltGrain h)
  · rw [OnGrain.haltGrain.grains g hk]
    exact h

theorem state_guarded {g : Nat} (hg : g ∈ ownedAt s c r bank) (hrun : (grain s g).state = .running) :
    (grain (guarded c r bank s) g).state = .stopped := by
  have hstart : grain ((runsAt s c r bank).foldl (guardRun c r) s) g = grain s g := by
    rw [grain, bank_foldl_guardRun, grain]
  rw [guarded]
  refine foldl_after_mem (write := fun u g => haltGrain g u)
    (P := fun u => (grain u g).state = .running ∨ (grain u g).state = .stopped)
    (Q := fun u => (grain u g).state = .stopped) (fun k u hu => grain_haltGrain_cases hu) (fun u hu => stopped_haltGrain hu)
    (fun k u hu => ?_) hg (.inl ((congrArg Grain.state hstart).trans hrun))
  by_cases hk : g = k
  · subst hk
    exact stopped_haltGrain (.inr hu)
  · rw [OnGrain.haltGrain.grains g hk]
    exact hu

theorem conds_guarded {k : Nat × P1} (hk : k ∈ runsAt s c r bank) {p : Place} (hp : k.2.place = some p) {e : Desc}
    (he : desc s p = some e) : ∃ e', desc (guarded c r bank s) p = some e' ∧ .watchdog ∈ e'.conds := by
  have hplaces := (foldl_haltGrain_frame (ownedAt s c r bank) ((runsAt s c r bank).foldl (guardRun c r) s)).2
  rw [guarded, desc_congr hplaces]
  refine foldl_after_mem (P := fun u => ∃ e', desc u p = some e')
    (Q := fun u => ∃ e', desc u p = some e' ∧ .watchdog ∈ e'.conds) ?_ ?_ ?_ hk ⟨e, he⟩
  · rintro j u ⟨e', he'⟩
    rw [desc_guardRun, he']
    split
    · exact ⟨_, rfl⟩
    · exact ⟨e', rfl⟩
  · rintro u ⟨e', he'⟩
    rw [desc_guardRun, he', if_pos hp]
    exact ⟨_, rfl, mem_addStatus (by decide)⟩
  · rintro j u ⟨e', he', hw⟩
    rw [desc_guardRun, he']
    split
    · exact ⟨_, rfl, mem_addStatus (by decide)⟩
    · exact ⟨e', rfl, hw⟩

theorem yields_refreshGuard (hown : rankBankOwn s c r bank = .polled) (h8 : 8 ≤ owedOf s c r bank)
    (hrun : ∀ d < 4, (grain s (grainAt c r d (bank / 2))).own = .polled → (grain s (grainAt c r d (bank / 2))).state = .running) :
    Yields (.refreshGuard c r bank) s fun t =>
      (∀ d < 4, (grain s (grainAt c r d (bank / 2))).own = .polled →
        (grain t (grainAt c r d (bank / 2))).state = .stopped) ∧ SameArray s t
      ∧ ∀ k ∈ p1At s c r, k.2.issued = true → (∃ d < 4, grainAt c r d (bank / 2) ∈ p1Grains s k.1 k.2
          ∧ (grain s (grainAt c r d (bank / 2))).own = .polled) → ∀ p, k.2.place = some p →
        ∀ e, desc s p = some e → ∃ e', desc t p = some e' ∧ .watchdog ∈ e'.conds := by
  refine ⟨guarded c r bank s, execRefreshGuard_of_owing hown h8, fun d hd ho => ?_, ?_, ?_⟩
  · exact state_guarded (mem_ownedAt.mpr ⟨d, hd, rfl, ho⟩) (hrun d hd ho)
  · obtain ⟨hmem, hmarks⟩ := (foldl_haltGrain_frame (ownedAt s c r bank) ((runsAt s c r bank).foldl (guardRun c r) s)).1
    have hbank := bank_foldl_guardRun c r (runsAt s c r bank) s
    exact ⟨hmem.trans (congrArg Banks.mem hbank), hmarks.trans (congrArg Banks.marks hbank)⟩
  · rintro k hk hissued ⟨d, hd, hgrain, ho⟩ p hp e he
    refine conds_guarded (List.mem_filter.mpr ⟨hk, ?_⟩) hp he
    rw [hissued, Bool.true_and]
    exact List.any_eq_true.mpr ⟨_, hgrain, decide_eq_true (mem_ownedAt.mpr ⟨d, hd, rfl, ho⟩)⟩

/-! ### Neighbour refreshes -/

theorem yields_neighbourRefresh {r b row : Nat} {rest : List (Nat × Nat × Nat)} (hnbr : (bc s c).nbr = (r, b, row) :: rest)
    (hown : rankBankOwn s c r b = .controller) (hh : rankHears s c r = true) :
    Yields (.neighbourRefresh c) s fun t =>
      bc t c = { (bc s c) with nbr := rest } ∧ OtherBcs c s t ∧ (∀ d < 4, openRow t c r d b = none) ∧ SameArray s t := by
  have hcounted : ∃ cnt, countEv 0x22 c none 1 (countEv 0x20 c none (nearRows row).length (setBc c { bc s c with nbr := rest } s))
      = { setBc c { bc s c with nbr := rest } s with cnt := cnt } := ⟨_, rfl⟩
  obtain ⟨cnt, hcnt⟩ := hcounted
  have hu : execNeighbourRefresh c s = ok (onRank c r (fun d t => setOpen c r d b none t)
      { setBc c { bc s c with nbr := rest } s with cnt := cnt }) := by
    simp only [execNeighbourRefresh, hnbr, hown, ne_eq, not_true_eq_false, if_false, hcnt]
  have hself := bc_setBc_self s c { bc s c with nbr := rest }
  have hother := otherBcs_setBc c { bc s c with nbr := rest } s
  have hbank : (setBc c { bc s c with nbr := rest } s).bank = s.bank := rfl
  generalize setBc c { bc s c with nbr := rest } s = w at hu hself hother hbank
  have hhw : rankHears { w with cnt := cnt } c r = true := by
    have hdie : ∀ i, die { w with cnt := cnt } i = die s i := fun i => by rw [die, hbank, die]
    rw [rankHears]
    simp only [hdie]
    exact hh
  rw [onRank_of_hears (step := fun u d => setOpen c r d b none u) hhw (fun _ _ _ _ => rfl)
    (fun u d => .setOpen b none d u)] at hu
  obtain ⟨-, hframe⟩ := diesOnly_foldl_setOpen (c := c) (r := r) b none { w with cnt := cnt }
  have hrow := fun d (hd : d < 4) => openRow_foldl_setOpen (c := c) (r := r) b none { w with cnt := cnt } hd b
  generalize (List.range 4).foldl (fun u d => setOpen c r d b none u) { w with cnt := cnt } = t at hu hframe hrow
  have hbc : ∀ k, bc t k = bc w k := fun k => by
    rw [hframe]
    rfl
  refine ⟨t, hu, (hbc c).trans hself, fun k hk => (hbc k).trans (hother k hk), fun d hd => (hrow d hd).trans (if_pos rfl), ?_⟩
  rw [SameArray, hframe, ← hbank]
  exact ⟨rfl, rfl⟩

/-! ### Temperatures -/

/-- A die with its temperature read, its TEMP cause raised where it reaches its limit (07 R208). -/
def tempRead (temp : Int) (x : DieSt) : DieSt :=
  { x with
    temp := tempByte temp
    cause := if decide ((mrStored x 0x07).toInt ≤ temp) then x.cause ||| 0x20#8 else x.cause }

/-- The dies of a rank with their temperatures read. -/
def heated (c r : Nat) (temps : List Int) (s : State) : State :=
  (List.range 4).foldl (changeDie c r (fun d x => tempRead (temps.getD d 0) x)) s

/-- Which ranks of a channel are refreshed twice as often, once rank r has read its temperatures. -/
def halvedBy (r : Nat) (temps : List Int) (h : BitVec 3) : BitVec 3 :=
  if temps.any (fun t => decide (83 ≤ t)) then h ||| 1#3 <<< r
  else if temps.all (fun t => decide (t ≤ 80)) then h &&& ~~~(1#3 <<< r) else h

/-- Only the power domain, the log and what a log entry signals may have changed. -/
def OnlyNoted (s t : State) : Prop := t.bank = s.bank ∧ t.ctl = s.ctl

theorem onlyNoted_setLoop (i : Nat) (loc : U16) (active over_ : Bool) (setting : Nat) (s : State) :
    OnlyNoted s (setLoop i loc active over_ setting s) := by
  unfold setLoop
  dsimp only
  split
  · exact ⟨rfl, rfl⟩
  · exact ⟨logDev_bank .., logDev_ctl ..⟩

theorem OnlyNoted.trans (h : OnlyNoted s t) (h' : OnlyNoted t u) : OnlyNoted s u := ⟨h'.1.trans h.1, h'.2.trans h.2⟩

/-- The controller's halved ranks set, the heat noted, and the refresh loop set where they changed. -/
def halvingNoted (c : Nat) (h : BitVec 3) (v : State) : State :=
  let s2 := noteHeat (setBc c { bc v c with halved := h } v)
  if h = (bc v c).halved then s2
  else setLoop 2 (locOf 3 (islBc c)) ((List.range 16).any (fun k => decide ((bc s2 k).halved ≠ 0#3))) false
    (if h = 0#3 then 0 else 1) s2

theorem onlyNoted_halvingNoted (c : Nat) (h : BitVec 3) (v : State) :
    OnlyNoted (setBc c { bc v c with halved := h } v) (halvingNoted c h v) := by
  unfold halvingNoted
  generalize setBc c { bc v c with halved := h } v = w
  have hheat : OnlyNoted w (noteHeat w) := ⟨rfl, rfl⟩
  dsimp only
  split
  · exact hheat
  · exact hheat.trans (onlyNoted_setLoop ..)

theorem execTemperatureRead_of_up {temps : List Int} (hrel : s.boot.relBc.getLsbD c.val = true) (hup : rankUp s c r = true)
    (h4 : temps.length = 4) :
    execTemperatureRead c r temps s
      = ok (halvingNoted c (halvedBy r temps (bc (heated c r temps s) c).halved) (heated c r temps s)) := by
  rw [execTemperatureRead, hrel, hup, decide_eq_false (by simp [h4])]
  rfl

/-- What a rank's temperatures leave: they stand at its dies, and its refresh rate follows them. -/
theorem yields_temperatureRead {temps : List Int} (hrel : s.boot.relBc.getLsbD c.val = true) (hup : rankUp s c r = true)
    (h4 : temps.length = 4) :
    Yields (.temperatureRead c r temps) s fun t =>
      (∀ d < 4, (die t (dieNo c r d)).temp = tempByte (temps.getD d 0))
      ∧ (bc t c).halved = halvedBy r temps (bc s c).halved ∧ OtherDies c r s t ∧ OtherBcs c s t ∧ SameArray s t := by
  obtain ⟨hdie, hother, hframe⟩ := foldl_changeDie (c := c) (r := r) (fun d x => tempRead (temps.getD d 0) x) s
  refine ⟨_, execTemperatureRead_of_up hrel hup h4, ?_⟩
  rw [← heated] at hdie hother hframe
  generalize heated c r temps s = v at hdie hother hframe ⊢
  have hbcs : ∀ k, bc v k = bc s k := fun k => by rw [hframe]; rfl
  obtain ⟨hbank, hctl⟩ := onlyNoted_halvingNoted c (halvedBy r temps (bc v c).halved) v
  generalize halvingNoted c (halvedBy r temps (bc v c).halved) v = t at hbank hctl ⊢
  have hd : ∀ i, die t i = die v i := fun i => by rw [die, hbank]; rfl
  have hb : ∀ k, bc t k = bc (setBc c { bc v c with halved := halvedBy r temps (bc v c).halved } v) k := fun k => by
    rw [bc, hctl, ← bc]
  refine ⟨fun d hlt => ?_, ?_, fun i hi => (hd i).trans (hother i hi), fun k hk => ?_, ?_⟩
  · rw [hd, hdie d hlt, tempRead]
  · rw [hb, bc_setBc_self, hbcs]
  · rw [hb, bc_setBc_ne _ _ _ _ hk, hbcs]
  · rw [SameArray, hbank, hframe]
    exact ⟨rfl, rfl⟩

theorem halvedBy_of_hot {temps : List Int} (h : temps.any (fun x => decide (83 ≤ x)) = true) (r : Rank) (x : BitVec 3) :
    (halvedBy r temps x).getLsbD r = true := by
  rw [halvedBy, if_pos h]
  simp

theorem halvedBy_of_cool {temps : List Int} (h : temps.all (fun x => decide (x ≤ 80)) = true) (r : Rank) (x : BitVec 3) (k : Nat) :
    (halvedBy r temps x).getLsbD k = (x.getLsbD k && decide (k ≠ r)) := by
  have hnot : ¬ temps.any (fun x => decide (83 ≤ x)) = true := by
    rw [List.any_eq_true]
    rintro ⟨y, hy, hhot⟩
    have hcool := List.all_eq_true.mp h y hy
    simp only [decide_eq_true_eq] at hhot hcool
    omega
  rw [halvedBy, if_neg hnot, if_pos h]
  by_cases hk : k < 3
  · by_cases hr : k = r
    · subst hr
      simp
    · have : ¬ (r.val ≤ k ∧ k - r = 0) := by omega
      simp [hk, hr]
      omega
  · simp [BitVec.getLsbD_of_ge x k (by omega)]

/-- Settles O45: what is owed bounds what a refresh sends; the guard halts the grains that stand in its way; the temperatures
decide the refresh rate. -/
theorem refreshFollowsTemperature : Obligations.RefreshFollowsTemperature := by
  refine ⟨?due, ?asked, ?blind, ?guard, ?neighbour, ?hot, ?cool⟩
  case due => exact fun _ _ _ _ hrel hup hown hask => yields_refreshDue hrel hup hown hask
  case asked => exact fun _ _ _ _ hrel hup hown hask h7 => yields_refreshDue_asked hrel hup hown hask h7
  case blind => exact fun _ _ _ _ hrel hup hown => yields_refreshDue_blind hrel hup hown
  case guard => exact fun _ _ _ _ _ hown h8 hrun => yields_refreshGuard hown h8 hrun
  case neighbour => exact fun _ _ _ _ _ _ hnbr hown hh => yields_neighbourRefresh hnbr hown hh
  case hot =>
    intro s c r temps hrel hup h4 hrange hhot
    refine (yields_temperatureRead hrel hup h4).imp fun t ht => ?_
    obtain ⟨htemp, hhalved, hdies, hbcs, harray⟩ := ht
    refine ⟨fun d hd => ?_, ?_, hdies, hbcs, harray⟩
    · have hmem : temps.getD d 0 ∈ temps := by
        rw [List.getD_eq_getElem _ _ (by omega)]
        exact List.getElem_mem _
      obtain ⟨hlo, hhi⟩ := hrange _ hmem
      rw [htemp d hd, tempByte, BitVec.toInt_ofInt]
      exact Int.bmod_eq_of_le (by omega) (by omega)
    · rw [hhalved]
      exact halvedBy_of_hot hhot r _
  case cool =>
    intro s c r temps hrel hup h4 hcool
    refine (yields_temperatureRead hrel hup h4).imp fun t ht => ?_
    obtain ⟨-, hhalved, -⟩ := ht
    refine ⟨?_, fun k hk => ?_⟩
    · rw [hhalved, halvedBy_of_cool hcool]
      simp
    · rw [hhalved, halvedBy_of_cool hcool, decide_eq_true hk, Bool.and_true]

end Sys2Proof.Machine
end

section
/-! The patrol scrub of one unit (08 R229), and the longest run of a training sweep (08 R213). -/

namespace Sys2Proof.Machine

variable {s t u : State} {c : Chan} {r : Rank} {bank : BankNo} {row : RowNo} {col : ColNo} {flips : Flips}

/-! ### The patrol scrub -/

theorem flipCol_of_few {w n : Nat} (h0 : n ≠ 0) (hn : (markOf s w).flips.val + n ≤ 1) :
    flipCol w n s = { s with bank := { s.bank with
      marks := tset Mark.clean s.bank.marks w { markOf s w with flips := Fin.ofNat 3 (min 2 ((markOf s w).flips.val + n)) } } } := by
  have hfew : ¬ ((markOf s w).flips.val < 2 ∧ min 2 ((markOf s w).flips.val + n) = 2) := by omega
  rw [flipCol, if_neg h0, if_neg hfew]

/-- A word that is read with at most one flipped bit keeps its data, and its code counts the bit. -/
theorem flipCol_of_single {w n : Nat} (hp : (markOf s w).poison = false) (hn : (markOf s w).flips.val + n ≤ 1) :
    chkOf (flipCol w n s) w = (markOf s w).flips.val + n ∧ (flipCol w n s).bank.mem = s.bank.mem := by
  have hchk : ∀ u : State, (markOf u w).poison = false → chkOf u w = (markOf u w).flips.val := fun u hu => by
    rw [chkOf, hu, if_neg Bool.false_ne_true]
  by_cases h0 : n = 0
  · subst h0
    exact ⟨hchk s hp, rfl⟩
  · have hmark := congrArg (fun u => markOf u w) (flipCol_of_few h0 hn)
    have hmem := congrArg (fun u : State => u.bank.mem) (flipCol_of_few h0 hn)
    simp only [markOf, tget_tset_self] at hmark
    refine ⟨?_, hmem⟩
    rw [hchk _ ((congrArg Mark.poison hmark).trans hp)]
    refine (congrArg (fun m : Mark => m.flips.val) hmark).trans ?_
    show min 2 ((markOf s w).flips.val + n) % 3 = _
    omega

theorem takeFlips_of_single {d : Nat} (hd : d < 4) (hp : (markOf s (dieWord c r bank row col d)).poison = false)
    (hn : (markOf s (dieWord c r bank row col d)).flips.val + (flips.getD d 0).val ≤ 1) :
    chkOf (takeFlips (unitWords c r bank row col) flips s) (dieWord c r bank row col d)
        = (markOf s (dieWord c r bank row col d)).flips.val + (flips.getD d 0).val
      ∧ Memory.col (takeFlips (unitWords c r bank row col) flips s).bank.mem (dieWord c r bank row col d)
        = Memory.col s.bank.mem (dieWord c r bank row col d) := by
  have hdie : (wordLoc (dieWord c r bank row col d)).d = d := d_wordLoc_dieWord hd bank.isLt row.isLt col.isLt
  generalize hw : dieWord c r bank row col d = w at hp hn hdie ⊢
  have hmem : w ∈ unitWords c r bank row col := mem_unitWords.mpr ⟨d, hd, hw.symm⟩
  rw [takeFlips]
  refine foldl_at_mem
    (P := fun u : State => markOf u w = markOf s w ∧ Memory.col u.bank.mem w = Memory.col s.bank.mem w)
    (Q := fun u : State => chkOf u w = (markOf s w).flips.val + (flips.getD d 0).val
      ∧ Memory.col u.bank.mem w = Memory.col s.bank.mem w)
    (fun v _ hne u ⟨hmark, hcol⟩ => ?_) (fun u ⟨hmark, hcol⟩ => ?_) (fun v _ hne u ⟨hchk, hcol⟩ => ?_)
    (nodup_unitWords ..) hmem ⟨rfl, rfl⟩
  · obtain ⟨hcol', hmark'⟩ := flipCol_other (flips.getD (wordLoc v).d 0).val u hne.symm
    exact ⟨hmark'.trans hmark, hcol'.trans hcol⟩
  · rw [hdie]
    obtain ⟨hchk, hsame⟩ := flipCol_of_single (s := u) (w := w) (n := (flips.getD d 0).val) (by rw [hmark]; exact hp)
      (by rw [hmark]; exact hn)
    exact ⟨by rw [hchk, hmark], by rw [hsame, hcol]⟩
  · obtain ⟨hcol', hmark'⟩ := flipCol_other (flips.getD (wordLoc v).d 0).val u hne.symm
    exact ⟨by rw [chkOf, hmark', ← chkOf, hchk], hcol'.trans hcol⟩

/-- The words of a unit written back with the data that they hold. -/
def writtenBack (ws : List Nat) (s : State) : State := ws.foldl (fun s' w => setColAt w (Memory.col s'.bank.mem w) false s') s

theorem writtenBack_at {ws : List Nat} {w : Nat} (hnd : ws.Nodup) (hw : w ∈ ws) :
    chkOf (writtenBack ws s) w = 0 ∧ Memory.col (writtenBack ws s).bank.mem w = Memory.col s.bank.mem w := by
  refine foldl_at_mem (P := fun u : State => Memory.col u.bank.mem w = Memory.col s.bank.mem w)
    (Q := fun u : State => chkOf u w = 0 ∧ Memory.col u.bank.mem w = Memory.col s.bank.mem w)
    (fun v _ hne u hcol => ?_) (fun u hcol => ?_) (fun v _ hne u ⟨hchk, hcol⟩ => ?_) hnd hw rfl
  · exact (col_setCol_ne _ _ hne.symm).trans hcol
  · exact ⟨by rw [chkOf, markOf_setColAt_self]; rfl, (col_setCol_self ..).trans hcol⟩
  · exact ⟨by rw [chkOf, markOf_setColAt_ne _ _ _ hne.symm, ← chkOf, hchk], (col_setCol_ne _ _ hne.symm).trans hcol⟩

theorem markOf_writtenBack_of_notMem {ws : List Nat} {w : Nat} (hw : w ∉ ws) : markOf (writtenBack ws s) w = markOf s w :=
  read_foldl_of_keeps (read := fun u => markOf u w) (fun _ hv _ => markOf_setColAt_ne _ _ _ fun h => hw (h ▸ hv)) s

theorem unitQueue_of_unwritten {l : Loc} (h : (bc s l.c).writes.any (fun u => wunitAt u l) = false) : unitQueue s l = [] := by
  rw [unitQueue, List.filter_eq_nil_iff]
  intro u hu hat
  exact absurd (List.any_eq_true.mpr ⟨u, hu, hat⟩) (by rw [h]; exact Bool.false_ne_true)

theorem yields_bankPatrolScrub (hrel : s.boot.relBc.getLsbD c.val = true) (hup : rankUp s c r = true)
    (hown : rankBankOwn s c r bank = .controller) (hchange : (bc s c).changing = false)
    (hw : (bc s c).writes.any (fun u => wunitAt u { c := c, r := r, d := 0, bank := bank, row := row, col := col }) = false)
    (hfew : ∀ d < 4, (markOf s (dieWord c r bank row col d)).poison = false
      ∧ (markOf s (dieWord c r bank row col d)).flips.val + (flips.getD d 0).val ≤ 1)
    (hone : ∃ d < 4, (markOf s (dieWord c r bank row col d)).flips.val + (flips.getD d 0).val = 1) :
    Yields (.bankPatrolScrub c r bank row col flips) s fun t =>
      (∀ w ∈ unitWords c r bank row col, chkOf t w = 0 ∧ Memory.col t.bank.mem w = Memory.col s.bank.mem w)
      ∧ (∀ w, w ∉ unitWords c r bank row col → markOf t w = markOf s w) := by
  have hread := fun d (hd : d < 4) => takeFlips_of_single (flips := flips) hd (hfew d hd).1 (hfew d hd).2
  have hother := fun w (h : w ∉ unitWords c r bank row col) => (takeFlips_other (s := s) (flips := flips) h).2
  have hframe := takeFlips_frame (unitWords c r bank row col) flips s
  have hu : execBankPatrolScrub c r bank row col flips s = ok (writtenBack (unitWords c r bank row col)
      (noteRead c r bank row col (unitWords c r bank row col) (takeFlips (unitWords c r bank row col) flips s))) := by
    have htakes : bankTakes s { c := c, r := r, d := 0, bank := bank, row := row, col := col } = true := by
      simp [bankTakes, hchange, hown]
    have hany : (unitWords c r bank row col).any
        (fun w => decide (chkOf (takeFlips (unitWords c r bank row col) flips s) w = 1)) = true := by
      obtain ⟨d, hd, h1⟩ := hone
      exact List.any_eq_true.mpr ⟨_, mem_unitWords.mpr ⟨d, hd, rfl⟩, decide_eq_true ((hread d hd).1.trans h1)⟩
    have hgood : unitBad (takeFlips (unitWords c r bank row col) flips s) (unitWords c r bank row col) = false := by
      rw [unitBad, List.any_eq_false]
      intro w hmem
      obtain ⟨d, hd, rfl⟩ := mem_unitWords.mp hmem
      rw [(hread d hd).1]
      have := (hfew d hd).2
      simp only [decide_eq_true_eq]
      omega
    have hqueue : unitQueue (takeFlips (unitWords c r bank row col) flips s)
        { c := c, r := r, d := 0, bank := bank, row := row, col := col } = [] := by
      refine unitQueue_of_unwritten ?_
      rw [hframe]
      exact hw
    simp only [execBankPatrolScrub, hrel, hup, htakes, hany, hgood, hqueue, Bool.not_true, Bool.or_self, Bool.false_eq_true,
      if_false, Bool.not_false, decide_true, Bool.and_self, if_true]
    rfl
  have hnote := noteRead_frame (s := takeFlips (unitWords c r bank row col) flips s) c r bank row col (unitWords c r bank row col)
  generalize noteRead c r bank row col (unitWords c r bank row col) (takeFlips (unitWords c r bank row col) flips s) = v at hu hnote
  have hbank : v.bank = (takeFlips (unitWords c r bank row col) flips s).bank := by rw [hnote]
  refine ⟨_, hu, fun w hmem => ?_, fun w hnot => ?_⟩
  · obtain ⟨hchk, hcol⟩ := writtenBack_at (s := v) (nodup_unitWords c r bank row col) hmem
    obtain ⟨d, hd, rfl⟩ := mem_unitWords.mp hmem
    exact ⟨hchk, by rw [hcol, hbank, (hread d hd).2]⟩
  · rw [markOf_writtenBack_of_notMem hnot, markOf, hbank, ← markOf, hother w hnot]

/-! ### The longest run of a sweep -/

/-- What a sweep has found after n steps: the best run so far, and the run that ends here. -/
structure Swept (pass : Nat → Bool) (n : Nat) (best cur : Nat × Nat) : Prop where
  within : best.1 + best.2 ≤ n
  passes : ∀ i, best.1 ≤ i → i < best.1 + best.2 → pass i = true
  longest : ∀ a m, a + m ≤ n → (∀ i, a ≤ i → i < a + m → pass i = true) → m < best.2 ∨ (m = best.2 ∧ (0 < m → best.1 ≤ a))
  ends : 0 < cur.2 → cur.1 + cur.2 = n
  run : ∀ i, cur.1 ≤ i → i < cur.1 + cur.2 → pass i = true
  suffix : ∀ a, a ≤ n → (∀ i, a ≤ i → i < n → pass i = true) → n ≤ a + cur.2

/-- The run that ends one step later. -/
def longer (n : Nat) (cur : Nat × Nat) : Nat × Nat := if cur.2 = 0 then (n, 1) else (cur.1, cur.2 + 1)

theorem longer_ends {n : Nat} {cur : Nat × Nat} (h : 0 < cur.2 → cur.1 + cur.2 = n) :
    (longer n cur).2 = cur.2 + 1 ∧ (longer n cur).1 + (longer n cur).2 = n + 1 := by
  unfold longer
  split <;> simp <;> omega

theorem swept_pass {pass : Nat → Bool} {n : Nat} {best cur : Nat × Nat} (h : Swept pass n best cur) (hn : pass n = true) :
    Swept pass (n + 1) (if best.2 < (longer n cur).2 then longer n cur else best) (longer n cur) := by
  obtain ⟨hlen, hends⟩ := longer_ends h.ends
  have hrun : ∀ i, (longer n cur).1 ≤ i → i < (longer n cur).1 + (longer n cur).2 → pass i = true := by
    intro i hlo hhi
    by_cases hi : i = n
    · rw [hi, hn]
    · have hpos : 0 < cur.2 := by omega
      have hstart : (longer n cur).1 = cur.1 := by rw [longer, if_neg (by omega)]
      exact h.run i (by omega) (by have := h.ends hpos; omega)
  have hsuffix : ∀ a, a ≤ n + 1 → (∀ i, a ≤ i → i < n + 1 → pass i = true) → n + 1 ≤ a + (longer n cur).2 := by
    intro a ha hall
    by_cases han : a = n + 1
    · omega
    · have := h.suffix a (by omega) fun i hlo hhi => hall i hlo (by omega)
      omega
  have hwithin := h.within
  split
  · next hmore =>
    refine ⟨by omega, hrun, fun a m ham hall => ?_, fun _ => hends, hrun, hsuffix⟩
    by_cases hold : a + m ≤ n
    · have := h.longest a m hold hall
      omega
    · have := hsuffix a (by omega) fun i hlo hhi => hall i hlo (by omega)
      omega
  · next hless =>
    refine ⟨by omega, h.passes, fun a m ham hall => ?_, fun _ => hends, hrun, hsuffix⟩
    by_cases hold : a + m ≤ n
    · exact h.longest a m hold hall
    · have := hsuffix a (by omega) fun i hlo hhi => hall i hlo (by omega)
      omega

theorem swept_fail {pass : Nat → Bool} {n : Nat} {best cur : Nat × Nat} (h : Swept pass n best cur) (hn : pass n = false) :
    Swept pass (n + 1) best (0, 0) := by
  have hwithin := h.within
  have hnot : ∀ a, a ≤ n → ¬ ∀ i, a ≤ i → i < n + 1 → pass i = true := fun a ha hall =>
    absurd ((hall n ha (by omega)).symm.trans hn) (by decide)
  refine ⟨by omega, h.passes, fun a m ham hall => ?_, fun h0 => absurd h0 (by decide), fun i _ hi => absurd hi (by omega), ?_⟩
  · by_cases hold : a + m ≤ n
    · exact h.longest a m hold hall
    · by_cases hm : m = 0
      · omega
      · exact absurd (fun i hlo hhi => hall i hlo (by omega)) (hnot a (by omega))
  · intro a ha hall
    by_cases han : a = n + 1
    · omega
    · exact absurd hall (hnot a (by omega))

/-- One step of the sweep. -/
def sweepStep (pass : Nat → Bool) (a : (Nat × Nat) × (Nat × Nat)) (i : Nat) : (Nat × Nat) × (Nat × Nat) :=
  if pass i then (if a.1.2 < (longer i a.2).2 then longer i a.2 else a.1, longer i a.2) else (a.1, (0, 0))

theorem swept_foldl (pass : Nat → Bool) (n : Nat) :
    Swept pass n ((List.range n).foldl (sweepStep pass) ((0, 0), (0, 0))).1 ((List.range n).foldl (sweepStep pass) ((0, 0), (0, 0))).2 := by
  induction n with
  | zero =>
    refine ⟨by simp, fun i _ hi => absurd hi (by simp), fun a m ham _ => ?_, fun h => absurd h (by simp), fun i _ hi => absurd hi (by simp), ?_⟩
    · right
      exact ⟨by simp; omega, fun _ => Nat.zero_le _⟩
    · intro a _ _
      exact Nat.zero_le _
  | succ n ih =>
    rw [List.range_succ, List.foldl_append, List.foldl_cons, List.foldl_nil]
    generalize (List.range n).foldl (sweepStep pass) ((0, 0), (0, 0)) = acc at ih ⊢
    unfold sweepStep
    cases hp : pass n with
    | true => exact swept_pass ih hp
    | false => exact swept_fail ih hp

theorem longestRun_eq (pass : Nat → Bool) (n : Nat) :
    longestRun pass n = ((List.range n).foldl (sweepStep pass) ((0, 0), (0, 0))).1 := rfl

theorem longestRun_is_longest (pass : Nat → Bool) (n : Nat) :
    (longestRun pass n).1 + (longestRun pass n).2 ≤ n
    ∧ (∀ i, (longestRun pass n).1 ≤ i → i < (longestRun pass n).1 + (longestRun pass n).2 → pass i = true)
    ∧ ∀ a m, a + m ≤ n → (∀ i, a ≤ i → i < a + m → pass i = true) →
        m < (longestRun pass n).2 ∨ (m = (longestRun pass n).2 ∧ (0 < m → (longestRun pass n).1 ≤ a)) := by
  have h := swept_foldl pass n
  rw [longestRun_eq]
  exact ⟨h.within, h.passes, h.longest⟩

end Sys2Proof.Machine
end

section
/-! The release of a bank controller, its training records, and the end of a frequency change (08 R213, R215, R246, Table 8.5). -/

namespace Sys2Proof.Machine

variable {s t u : State} {c : Chan} {r : Rank} {d : Nat}

/-! ### What a fence leaves of the registers -/

/-- The registers of the devices and the held writes are as they were. -/
def RegsStay (s t : State) : Prop := t.dev = s.dev ∧ t.cnt.held = s.cnt.held

namespace RegsStay

theorem refl (s : State) : RegsStay s s := ⟨rfl, rfl⟩

theorem trans (h : RegsStay s t) (h' : RegsStay t u) : RegsStay s u := ⟨h'.1.trans h.1, h'.2.trans h.2⟩

theorem foldl {α : Type} {act : State → α → State} (h : ∀ u p, RegsStay u (act u p)) (l : List α) (s : State) :
    RegsStay s (l.foldl act s) :=
  foldl_of_step (P := RegsStay s) (fun u p hu => hu.trans (h u p)) (refl s) l

theorem of_places (h : t = { s with places := t.places }) : RegsStay s t := by
  rw [h]
  exact ⟨rfl, rfl⟩

theorem of_wakes (h : Wakes s t) : RegsStay s t := by
  rw [h.frame]
  exact ⟨rfl, rfl⟩

end RegsStay

theorem regsStay_logAs (cls code : Nat) (loc : U16) (func : Byte) (master d0 d1 : Nat) (s : State) :
    RegsStay s (logAs cls code loc func master d0 d1 s) := by
  unfold logAs
  dsimp only
  split <;> exact ⟨rfl, rfl⟩

theorem regsStay_addCond (p : Place) (st : Status) (s : State) : RegsStay s (addCond p st s) := .of_places (addCond_frame st)

theorem regsStay_condP1 (st : Status) (k : P1) (s : State) : RegsStay s (condP1 st k s) := by
  unfold condP1
  split
  · exact regsStay_addCond ..
  · exact .refl s

theorem regsStay_abortShip (p : Place) (st : Status) (s : State) : RegsStay s (abortShip p st s) := by
  have hend : ∀ n u, RegsStay u (endDesc p st n u) := fun n u => .of_places (endDesc_frame st n)
  have hreply : ∀ dst, RegsStay s (reply dst p .abort s) := fun dst => by
    rw [(sends_reply (k := .abort) rfl s).frame]
    exact ⟨rfl, rfl⟩
  unfold abortShip
  split
  · next x _ =>
    dsimp only
    have hopen : RegsStay s (if x.opened = true then reply x.dest p .abort s else s) := by
      split
      · exact hreply _
      · exact .refl s
    exact hopen.trans (hend _ _)
  · exact hend 0 s

theorem regsStay_fenceShips (c r : Nat) (s : State) : RegsStay s (fenceShips c r s) := by
  refine RegsStay.foldl (fun u x => ?_) _ s
  split
  · exact regsStay_abortShip ..
  · exact .refl u

theorem regsStay_runDone (f : Func) (c r : Nat) (v : Bool) (s : State) : RegsStay s (runDone f c r v s) := by
  unfold runDone
  split
  · split
    · exact .of_wakes (wakes_setFlag (.refl s))
    · exact .of_wakes (wakes_clearFlag (.refl s))
  · exact .refl s

theorem regsStay_faultConds (p : Place) (g : Nat) (poisoned : Bool) (s : State) : RegsStay s (faultConds p g poisoned s) := by
  unfold faultConds
  split
  · exact ⟨rfl, rfl⟩
  · refine RegsStay.trans ?_ (regsStay_addCond ..)
    split
    · exact regsStay_addCond ..
    · exact .refl s

theorem regsStay_noteFault (c1 : Nat) (k : P1) (g : Nat × Nat) (s : State) : RegsStay s (noteFault c1 k g s) := by
  have hnoted : ∀ hsn, RegsStay s (countEv 0x32 c1 (some k.func) 1
      (logFn 0x03 0x26 (locOf 1 g.2) k.func ((grain s g.2).fault.toNat + (grain s g.2).faultPc.toNat * 2 ^ 8) hsn s)) :=
    fun hsn => (regsStay_logAs ..).trans ⟨rfl, rfl⟩
  unfold noteFault
  dsimp only
  split
  · exact .refl s
  · split
    · exact hnoted _
    · split
      · exact ((hnoted _).trans (regsStay_faultConds ..)).trans ⟨rfl, rfl⟩
      · exact (hnoted _).trans (regsStay_faultConds ..)

theorem regsStay_finishQCmd (c1 : Nat) (k : P1) (res : Option U32) (s : State) : RegsStay s (finishQCmd c1 k res s) := by
  unfold finishQCmd
  dsimp only
  split <;> exact ⟨rfl, rfl⟩

/-- The grains of a command report their faults, and its run-done flag is set. -/
theorem regsStay_reported (c1 : Nat) (k : P1) (s : State) :
    RegsStay s (runDone k.func c1 k.rank true ((p1Pairs s c1 k).foldl (fun s' g => noteFault c1 k g s') s)) :=
  (RegsStay.foldl (fun u g => regsStay_noteFault c1 k g u) _ s).trans (regsStay_runDone ..)

/-- The first part of a P1 command's end: its grains have reported. -/
def reportedP1 (c1 : Nat) (k : P1) (s : State) : State :=
  match k.kind with
  | .spread _ _ _ _ => runDone k.func c1 k.rank true ((p1Pairs s c1 k).foldl (fun s' g => noteFault c1 k g s') s)
  | .grun _ => runDone k.func c1 k.rank true ((p1Pairs s c1 k).foldl (fun s' g => noteFault c1 k g s') s)
  | _ => s

/-- The second part: the command has left its controller, and its descriptor knows. -/
def leftP1 (c1 : Nat) (k : P1) (s : State) : State :=
  let s1 := setBc c1 { bc s c1 with p1 := (bc s c1).p1.filter (fun j => decide (j.num ≠ k.num)) } s
  match k.place with
  | none => s1
  | some p =>
    match desc s1 p with
    | some d =>
      let ranks := d.prog.ranks.filter (fun n => decide (n ≠ 4 * c1 + k.rank))
      let over_ := decide (k.ctx = none) && ranks.isEmpty && decide (d.stage = .running)
      setDesc p { d with prog := { d.prog with ranks := ranks }, stage := if over_ then .ended else d.stage } s1
    | none => s1

theorem completeP1_eq (c1 : Nat) (k : P1) (res : Option U32) (s : State) :
    completeP1 c1 k res s
      = match k.ctx with
        | some x => settleCtx x (finishQCmd c1 k res (leftP1 c1 k (reportedP1 c1 k s)))
        | none => leftP1 c1 k (reportedP1 c1 k s) := rfl

theorem regsStay_reportedP1 (c1 : Nat) (k : P1) (s : State) : RegsStay s (reportedP1 c1 k s) := by
  unfold reportedP1
  split
  · exact regsStay_reported ..
  · exact regsStay_reported ..
  · exact .refl s

theorem regsStay_leftP1 (c1 : Nat) (k : P1) (s : State) : RegsStay s (leftP1 c1 k s) := by
  unfold leftP1
  dsimp only
  split
  · exact ⟨rfl, rfl⟩
  · split <;> exact ⟨rfl, rfl⟩

theorem regsStay_completeP1 (c1 : Nat) (k : P1) (res : Option U32) (s : State) : RegsStay s (completeP1 c1 k res s) := by
  have hleft : RegsStay s (leftP1 c1 k (reportedP1 c1 k s)) := (regsStay_reportedP1 ..).trans (regsStay_leftP1 ..)
  rw [completeP1_eq]
  cases k.ctx with
  | none => exact hleft
  | some x => exact (hleft.trans (regsStay_finishQCmd ..)).trans (.of_places settleCtx_frame)

theorem regsStay_fenceRank (c r cause : Nat) (s : State) : RegsStay s (fenceRank c r cause s) := by
  have hlogged : ∀ u : State, RegsStay u (plogAdd (locOf 2 (4 * c + r)) cause (logDev 0x03 0x2B (locOf 2 (4 * c + r)) cause 0 u)) :=
    fun u => (regsStay_logAs ..).trans ⟨rfl, rfl⟩
  have hstep : ∀ u (j : P1), RegsStay u (if j.issued then condP1 .fenced j u else completeP1 c j none (condP1 .fenced j u)) := by
    intro u j
    split
    · exact regsStay_condP1 ..
    · exact (regsStay_condP1 ..).trans (regsStay_completeP1 ..)
  have hquad : ∀ q, RegsStay s (setQuad (c / 4) q s) := fun _ => ⟨rfl, rfl⟩
  exact (((hquad _).trans (hlogged _)).trans (regsStay_fenceShips ..)).trans (RegsStay.foldl hstep _ _)

theorem regsStay_settleQuad (qn : Nat) (s : State) : RegsStay s (settleQuad qn s) := by
  have hquad : ∀ u q, RegsStay u (setQuad qn q u) := fun _ _ => ⟨rfl, rfl⟩
  unfold settleQuad
  dsimp only
  split
  · exact .refl s
  · split
    · exact .refl s
    · split
      · exact (hquad ..).trans (regsStay_fenceRank ..)
      · exact ⟨rfl, rfl⟩

/-! ### The dies of a rank as they come up -/

/-- Only the dies and the grains of a rank may have changed. -/
structure RankWork (c r : Nat) (s t : State) : Prop where
  other : OtherDies c r s t
  frame : t = { s with bank := { s.bank with dies := t.bank.dies, grains := t.bank.grains } }

namespace RankWork

theorem refl {c r : Nat} (s : State) : RankWork c r s s := ⟨fun _ _ => rfl, rfl⟩

theorem trans {c r : Nat} (h : RankWork c r s t) (h' : RankWork c r t u) : RankWork c r s u := by
  refine ⟨fun i hi => (h'.other i hi).trans (h.other i hi), h'.frame.trans ?_⟩
  rw [h.frame]

end RankWork

/-- A die out of reset (07 R210). -/
def released (x : DieSt) : DieSt := if x.inReset then { DieSt.reset with inReset := false } else x

/-- The grains of a die are cleared. -/
def clearGrains (c r d : Nat) (s : State) : State :=
  (List.range 16).foldl (fun s' g => setGrain (grainAt c r d g) (grain s' (grainAt c r d g)).cleared s') s

theorem rankWork_clearGrains (c r d : Nat) (s : State) : RankWork c r s (clearGrains c r d s) :=
  List.foldlRecOn (motive := RankWork c r s) _ _ (.refl s) fun _ hu _ _ => hu.trans ⟨fun _ _ => rfl, rfl⟩

theorem die_clearGrains (c r d i : Nat) (s : State) : die (clearGrains c r d s) i = die s i :=
  foldl_keeps (fun u => die u i) (fun s' g => setGrain (grainAt c r d g) (grain s' (grainAt c r d g)).cleared s') (fun _ _ => rfl) _ s

theorem releaseDie_eq (c r d : Nat) (s : State) :
    releaseDie c r d s = if (die s (dieNo c r d)).inReset
      then clearGrains c r d (setDie (dieNo c r d) { DieSt.reset with inReset := false } s) else s := rfl

theorem die_releaseDie (c r d e : Nat) (s : State) :
    die (releaseDie c r d s) (dieNo c r e) = if e = d then released (die s (dieNo c r e)) else die s (dieNo c r e) := by
  rw [releaseDie_eq]
  split
  · next h =>
    rw [die_clearGrains]
    split
    · next he => rw [he, die_setDie_self, released, if_pos h]
    · next he => exact die_setDie_ne _ _ _ _ fun hne => he (dieNo_inj.mp hne)
  · next h =>
    split
    · next he => rw [he, released, if_neg h]
    · rfl

theorem rankWork_releaseDie {c r d : Nat} (hd : d < 4) (s : State) : RankWork c r s (releaseDie c r d s) := by
  rw [releaseDie_eq]
  split
  · have hdie : RankWork c r s (setDie (dieNo c r d) { DieSt.reset with inReset := false } s) :=
      ⟨fun i hi => die_setDie_ne _ _ _ _ (hi d hd), rfl⟩
    exact hdie.trans (rankWork_clearGrains ..)
  · exact .refl s

theorem rankWork_wakeRank (c r : Nat) (s : State) : RankWork c r s (wakeRank c r s) := by
  unfold wakeRank
  split
  · exact .refl s
  · exact List.foldlRecOn _ _ (.refl s) fun u hu d hd => hu.trans (rankWork_releaseDie (List.mem_range.mp hd) u)

theorem die_wakeRank {c r : Nat} (he : rankExists c r = true) (hr : rankRetired s c r = false) (hd : d < 4) :
    die (wakeRank c r s) (dieNo c r d) = released (die s (dieNo c r d)) := by
  rw [wakeRank, he, hr, if_neg (by decide)]
  refine read_foldl_of_mem (read := fun u => die u (dieNo c r d)) (q := d) (fun u => ?_) (fun e _ hne u => ?_) List.nodup_range
    (List.mem_range.mpr hd) s
  · rw [die_releaseDie, if_pos rfl]
  · rw [die_releaseDie, if_neg hne.symm]

/-- The bits of a die's grains that are mapped out, as mode registers 0x22 and 0x23 hold them. -/
def mappedByte (out : List Nat) (c r d k : Nat) : Byte :=
  BitVec.ofNat 8 ((List.range 8).foldl (fun n g => if grainAt c r d (8 * k + g) ∈ out then n + 2 ^ g else n) 0)

/-- A die after training (R246): its mapped-out grains are written and its self-test begins. -/
def broughtUp (s : State) (c r d : Nat) (x : DieSt) : DieSt :=
  startSelfTest (atSpeed s.dev.runA (mrPut 0x22 (mappedByte s.bank.mappedOut c r d 0)
    (mrPut 0x23 (mappedByte s.bank.mappedOut c r d 1) x)))

theorem bringUp_eq (c r : Nat) (s : State) :
    bringUp c r s
      = if !rankExists c r || rankRetired s c r || decide ((quadMap s (c / 4)).failed.map (fun k => k.val) = some (quadRank c r))
        then s else (List.range 4).foldl (changeDie c r (fun d x => broughtUp s c r d x)) s := rfl

theorem rankWork_bringUp (c r : Nat) (s : State) : RankWork c r s (bringUp c r s) := by
  rw [bringUp_eq]
  split
  · exact .refl s
  · exact List.foldlRecOn _ _ (.refl s) fun u hu d hd => hu.trans
      ⟨fun i hi => die_setDie_ne _ _ _ _ (hi d (List.mem_range.mp hd)), rfl⟩

theorem die_bringUp {c r : Nat} (he : rankExists c r = true) (hr : rankRetired s c r = false)
    (hf : (quadMap s (c / 4)).failed = none) (hd : d < 4) :
    die (bringUp c r s) (dieNo c r d) = broughtUp s c r d (die s (dieNo c r d)) := by
  rw [bringUp_eq, he, hr, hf, if_neg (by simp)]
  exact (foldl_changeDie _ s).1 d hd

/-! ### The settings of a die that has come up -/

/-- A speed point is written to mode register 0x02 alone, beside the point that a change goes back to. -/
theorem atSpeed_frame (sp : BitVec 2) (x : DieSt) :
    atSpeed sp x = { x with speed := sp, mr := (atSpeed sp x).mr }
    ∧ (∀ a, a ≠ 0x02 → a ≠ 0x102 → mrStored (atSpeed sp x) a = mrStored x a)
    ∧ mrStored (atSpeed sp x) 0x02 = sp.setWidth 8 := by
  have hmask : sp.setWidth 8 &&& mrMask 0x02 = sp.setWidth 8 := by
    revert sp
    decide
  have hw : mrWrite 0x02 (sp.setWidth 8) x
      = if sp.setWidth 8 ≠ 3#8 then { mrPut 0x02 (sp.setWidth 8) x with mr := tset 2#8 (mrPut 0x02 (sp.setWidth 8) x).mr 0x102 (sp.setWidth 8) }
        else mrPut 0x02 (sp.setWidth 8) x := by
    rw [mrWrite, if_neg (by decide), if_neg (by decide), if_neg (by decide)]
    dsimp only
    rw [hmask]
    by_cases h3 : sp.setWidth 8 = 3#8
    · rw [if_neg fun h => h.2 h3, if_neg fun h => absurd (h.1 : (2 : Nat) = 4) (by decide), if_neg fun h => h h3]
    · rw [if_pos ⟨rfl, h3⟩, if_pos h3]
  have hput : ∀ a, a ≠ 0x02 → mrStored (mrPut 0x02 (sp.setWidth 8) x) a = mrStored x a := fun a ha =>
    tget_tset_ne_of _ _ _ _ ha
  have hself : mrStored (mrPut 0x02 (sp.setWidth 8) x) 0x02 = sp.setWidth 8 := tget_tset_self ..
  rw [atSpeed, hw]
  split
  · refine ⟨rfl, fun a ha hb => ?_, ?_⟩
    · exact (tget_tset_ne_of _ _ _ _ hb).trans (hput a ha)
    · exact (tget_tset_ne_of _ _ _ _ (by decide)).trans hself
  · exact ⟨rfl, fun a ha _ => hput a ha, hself⟩

theorem getLsbD_mappedByte (out : List Nat) (c r d k : Nat) {g : Nat} (hg : g < 8) :
    (mappedByte out c r d k).getLsbD g = decide (grainAt c r d (8 * k + g) ∈ out) := by
  have hdigits : (List.range 8).foldl (fun n g => if grainAt c r d (8 * k + g) ∈ out then n + 2 ^ g else n) 0
      = digits 1 (fun g => if grainAt c r d (8 * k + g) ∈ out then 1 else 0) 8 := by
    rw [digits]
    congr 1
    funext n e
    split <;> simp
  have hbit := digits_div_mod (m := 1) (n := 8) (e := g) (f := fun g => if grainAt c r d (8 * k + g) ∈ out then 1 else 0)
    (fun e => by split <;> decide) hg
  rw [mappedByte, hdigits, BitVec.getLsbD_ofNat, Nat.testBit_eq_decide_div_mod_eq]
  simp only [hg, decide_true, Bool.true_and, Nat.one_mul] at hbit ⊢
  rw [show (2 : Nat) ^ 1 = 2 from rfl] at hbit
  rw [hbit]
  split <;> simp_all

/-- What a die that was out of reset keeps and takes when it is brought up. -/
theorem broughtUp_frame (s : State) (c r d : Nat) (x : DieSt) :
    (broughtUp s c r d x).inReset = x.inReset ∧ (broughtUp s c r d x).selfTest = true
    ∧ (broughtUp s c r d x).stDone = false ∧ (broughtUp s c r d x).speed = s.dev.runA := by
  rw [broughtUp, (atSpeed_frame _ _).1]
  exact ⟨rfl, rfl, rfl, rfl⟩

theorem mrStored_mrPut_ne {a b : Nat} (h : a ≠ b) (v : Byte) (x : DieSt) : mrStored (mrPut b v x) a = mrStored x a :=
  tget_tset_ne_of _ _ _ _ h

theorem mrStored_mrPut_self (b : Nat) (v : Byte) (x : DieSt) : mrStored (mrPut b v x) b = v := tget_tset_self ..

theorem mrOut_broughtUp (s : State) (c r d : Nat) (x : DieSt) {g : Nat} (hg : g < 16) :
    mrOut (broughtUp s c r d x) g = decide (grainAt c r d g ∈ s.bank.mappedOut) := by
  have hstart : ∀ (y : DieSt) a, a ≠ 0x20 → a ≠ 0x21 → mrStored (startSelfTest y) a = mrStored y a := fun y a h0 h1 =>
    (mrStored_mrPut_ne h0 ..).trans (mrStored_mrPut_ne h1 ..)
  have hreg : mrStored (broughtUp s c r d x) (0x22 + g / 8) = mappedByte s.bank.mappedOut c r d (g / 8) := by
    rw [broughtUp, hstart _ _ (by omega) (by omega), (atSpeed_frame _ _).2.1 _ (by omega) (by omega)]
    by_cases h8 : g < 8
    · rw [show g / 8 = 0 by omega]
      exact mrStored_mrPut_self ..
    · rw [show g / 8 = 1 by omega]
      exact (mrStored_mrPut_ne (by decide) ..).trans (mrStored_mrPut_self ..)
  rw [mrOut, hreg, getLsbD_mappedByte _ _ _ _ _ (by omega), Nat.div_add_mod]

/-! ### The release of a bank controller -/

/-- A controller is released, and starts as at reset. -/
def bcUp (c : Nat) (s : State) : State :=
  setBc c Bc.reset { s with boot := { s.boot with relBc := s.boot.relBc ||| (1#16 <<< c) } }

/-- One sweep's record is taken, with the references and the failure that follow from it. -/
def trainStep (c : Nat) (s : State) (x : TrainResult) : State := trainFail c (setVref c (recordTrn c s x) x) x

def wokenUp (c : Nat) (s : State) : State := [0, 1, 2].foldl (fun s' r => wakeRank c r s') s

def allUp (c : Nat) (s : State) : State := [0, 1, 2].foldl (fun s' r => bringUp c r s') s

theorem execBcRelease_cold {results : List TrainResult} (hrel : s.boot.relBc.getLsbD c.val = false) (hph : s.boot.phase = 0x05#8) :
    execBcRelease c results s
      = ok (releaseHeld (settleQuad (c / 4) (bcUp c (allUp c (results.foldl (trainStep c) (wokenUp c s)))))) := by
  rw [execBcRelease, hrel, if_neg Bool.false_ne_true]
  dsimp only
  rw [if_pos hph]
  rfl

theorem releaseHeld_of_none (h : s.cnt.held = []) : releaseHeld s = s := by
  have hcnt : ({ s with cnt := { s.cnt with held := [] } } : State) = s := by rw [← h]
  rw [releaseHeld, h]
  exact hcnt

/-- What a pass over the ranks of a channel leaves alone. -/
def RanksOnly (s t : State) : Prop := t = { s with bank := { s.bank with dies := t.bank.dies, grains := t.bank.grains } }

theorem RanksOnly.trans (h : RanksOnly s t) (h' : RanksOnly t u) : RanksOnly s u := by
  rw [RanksOnly] at h h' ⊢
  refine h'.trans ?_
  rw [h]

theorem RanksOnly.foldl {act : State → Nat → State} (h : ∀ u r, RanksOnly u (act u r)) (l : List Nat) (s : State) :
    RanksOnly s (l.foldl act s) :=
  foldl_of_step (P := RanksOnly s) (fun u p hu => hu.trans (h u p)) (show RanksOnly s s from rfl) l

theorem ranksOnly_wokenUp (c : Nat) (s : State) : RanksOnly s (wokenUp c s) :=
  .foldl (fun u r => (rankWork_wakeRank c r u).frame) _ s

theorem ranksOnly_allUp (c : Nat) (s : State) : RanksOnly s (allUp c s) :=
  .foldl (fun u r => (rankWork_bringUp c r u).frame) _ s

theorem rankRetired_congr (h : t.ctl = s.ctl) (c r : Nat) : rankRetired t c r = rankRetired s c r := by
  rw [rankRetired, isFenced, quadMap, h, rankRetired, isFenced, quadMap]

theorem dieNo_ne_of_rank {r r' d e : Nat} (c : Nat) (hr : r ≠ r') (hd : d < 4) (he : e < 4) : dieNo c r d ≠ dieNo c r' e := by
  rw [dieNo, dieNo]
  omega

/-- A die after a pass over the ranks is what the pass over its own rank makes of it. -/
theorem die_foldl_ranks {act : Nat → State → State} {F : DieSt → DieSt} (hwork : ∀ k u, RankWork c k u (act k u)) (hd : d < 4)
    (hself : ∀ u, RanksOnly s u → die (act r u) (dieNo c r d) = F (die u (dieNo c r d))) :
    die ([0, 1, 2].foldl (fun u k => act k u) s) (dieNo c r d) = F (die s (dieNo c r d)) := by
  have hother : ∀ k u, k ≠ r.val → die (act k u) (dieNo c r d) = die u (dieNo c r d) := fun k u hk =>
    (hwork k u).other _ fun e he => dieNo_ne_of_rank c.val hk.symm hd he
  have hmem : r.val ∈ [0, 1, 2] := by
    have := r.isLt
    simp only [List.mem_cons, List.not_mem_nil, or_false]
    omega
  refine (foldl_at_mem (P := fun u => RanksOnly s u ∧ die u (dieNo c r d) = die s (dieNo c r d))
    (Q := fun u => die u (dieNo c r d) = F (die s (dieNo c r d))) (fun k _ hk u hu => ?_) (fun u hu => ?_)
    (fun k _ hk u hu => (hother k u hk).trans hu) (by decide) hmem ⟨rfl, rfl⟩)
  · exact ⟨hu.1.trans (hwork k u).frame, (hother k u hk).trans hu.2⟩
  · rw [hself u hu.1, hu.2]

theorem settleQuad_of_none {qn : Nat} (h : (quadMap s qn).failed = none) : settleQuad qn s = s := by
  simp only [settleQuad, h, ite_self]

theorem getLsbD_relBc_bcUp (c : Chan) (s : State) : (bcUp c s).boot.relBc.getLsbD c.val = true := by
  have hbit : (bcUp c s).boot.relBc = s.boot.relBc ||| (1#16 <<< c.val) := rfl
  rw [hbit]
  simp

theorem yields_bcRelease (hrel : s.boot.relBc.getLsbD c.val = false) (hph : s.boot.phase = 0x05#8) (he : rankExists c r = true)
    (hr : rankRetired s c r = false) (hd : d < 4) (hreset : (die s (dieNo c r d)).inReset = true)
    (hf : (quadMap s (c / 4)).failed = none) (hheld : s.cnt.held = []) :
    Yields (.bcRelease c []) s fun t =>
      t.boot.relBc.getLsbD c.val = true ∧ bc t c = Bc.reset ∧ (die t (dieNo c r d)).inReset = false
      ∧ (die t (dieNo c r d)).selfTest = true ∧ (die t (dieNo c r d)).stDone = false
      ∧ (die t (dieNo c r d)).speed = s.dev.runA
      ∧ (∀ g < 16, mrOut (die t (dieNo c r d)) g = decide (grainAt c r d g ∈ s.bank.mappedOut)) ∧ SameArray s t := by
  have hwoken := ranksOnly_wokenUp c s
  have hwake : die (wokenUp c s) (dieNo c r d) = released (die s (dieNo c r d)) :=
    die_foldl_ranks (fun k u => rankWork_wakeRank c k u) hd fun u hu => die_wakeRank he (by rw [rankRetired_congr (by rw [hu])]; exact hr) hd
  rw [released, if_pos hreset] at hwake
  have hbase := execBcRelease_cold (results := []) hrel hph
  rw [List.foldl_nil] at hbase
  generalize wokenUp c s = v at hwoken hwake hbase
  have hctl : v.ctl = s.ctl := by rw [hwoken]
  have hup : die (allUp c v) (dieNo c r d) = broughtUp v c r d (die v (dieNo c r d)) := by
    refine die_foldl_ranks (fun k u => rankWork_bringUp c k u) hd fun u hu => ?_
    have huctl : u.ctl = s.ctl := by rw [hu, hctl]
    rw [die_bringUp he ((rankRetired_congr huctl ..).trans hr) (by rw [quadMap, huctl]; exact hf) hd, broughtUp, hu, broughtUp]
  have hall := ranksOnly_allUp c v
  generalize allUp c v = w at hup hall hbase
  have hwctl : w.ctl = s.ctl := by rw [hall, hctl]
  have hwbank : (broughtUp v c r d : DieSt → DieSt) = broughtUp s c r d := by
    funext x
    rw [broughtUp, hwoken, broughtUp]
  rw [hwake, hwbank] at hup
  have hfail : (quadMap (bcUp c w) (c / 4)).failed = none := by
    have hquads : (bcUp c w).ctl.quads = s.ctl.quads :=
      (show (bcUp c w).ctl.quads = w.ctl.quads from rfl).trans (congrArg Ctl.quads hwctl)
    rw [quadMap, hquads]
    exact hf
  have hnone : (bcUp c w).cnt.held = [] := by
    have hcnt : w.cnt = s.cnt := by rw [hall, hwoken]
    exact (congrArg Counters.held hcnt).trans hheld
  rw [settleQuad_of_none hfail, releaseHeld_of_none hnone] at hbase
  have hdie : die (bcUp c w) (dieNo c r d) = broughtUp s c r d { DieSt.reset with inReset := false } := hup
  obtain ⟨hin, htest, hdone, hspeed⟩ := broughtUp_frame s c r d { DieSt.reset with inReset := false }
  have hmem : w.bank.mem = s.bank.mem ∧ w.bank.marks = s.bank.marks := by
    rw [hall, hwoken]
    exact ⟨rfl, rfl⟩
  refine ⟨bcUp c w, hbase, getLsbD_relBc_bcUp c w, bc_setBc_self .., ?_⟩
  rw [hdie]
  exact ⟨hin, htest, hdone, hspeed, fun g hg => mrOut_broughtUp s c r d _ hg, hmem⟩

/-! ### A sweep's record -/

/-- The record that a passing read sweep leaves: its edges, their centre and the reference it was read with. -/
def sweptTrn (x : TrainResult) (o : Trn) : Trn :=
  { o with
    left := BitVec.ofNat 7 (sweepLeft x)
    right := BitVec.ofNat 7 (sweepRight x)
    centre := BitVec.ofNat 7 ((sweepLeft x + sweepRight x) / 2)
    rvref := x.rvref
    pass := true }

theorem trainStep_of_read {x : TrainResult} (hstep : x.step = 2) (hpass : trainPass x = true) (c : Nat) (s : State) :
    trainStep c s x = recordTrn c s x := by
  have hval : x.step.val = 2 := by rw [hstep]; rfl
  have hvref : ∀ u, setVref c u x = u := fun u => by
    unfold setVref
    split
    · rfl
    · split <;> simp_all
  have hkeep : ∀ u, trainFail c u x = u := fun u => by
    unfold trainFail
    rw [hpass]
    rfl
  rw [trainStep, hvref, hkeep]

theorem trnOf_recordTrn {x : TrainResult} (hstep : x.step = 2) (hpass : trainPass x = true) (c : Nat) (s : State) :
    trnOf (recordTrn c s x) (c + 16 * x.rank.val + 64 * x.lane.val + bitIf x.setB 9)
      = sweptTrn x (trnOf s (c + 16 * x.rank.val + 64 * x.lane.val + bitIf x.setB 9)) := by
  have hval : x.step.val = 2 := by rw [hstep]; rfl
  rw [trnOf, recordTrn]
  dsimp only
  rw [tget_tset_self, hpass, hval]
  rfl

theorem yields_bcRelease_trained {x : TrainResult} (hrel : s.boot.relBc.getLsbD c.val = false) (hph : s.boot.phase = 0x05#8)
    (hheld : s.cnt.held = []) (hstep : x.step = 2) (hpass : trainPass x = true) :
    Yields (.bcRelease c [x]) s fun t =>
      trnOf t (c.val + 16 * x.rank.val + 64 * x.lane.val + bitIf x.setB 9) =
        { (trnOf s (c.val + 16 * x.rank.val + 64 * x.lane.val + bitIf x.setB 9)) with
          left := BitVec.ofNat 7 (sweepLeft x), right := BitVec.ofNat 7 (sweepRight x),
          centre := BitVec.ofNat 7 ((sweepLeft x + sweepRight x) / 2), rvref := x.rvref, pass := true } := by
  have hbase := execBcRelease_cold (results := [x]) hrel hph
  rw [List.foldl_cons, List.foldl_nil, trainStep_of_read hstep hpass] at hbase
  have hrecord := trnOf_recordTrn hstep hpass c.val (wokenUp c s)
  have hheld' : (recordTrn c (wokenUp c s) x).cnt.held = [] := by
    have hcnt : (wokenUp c s).cnt = s.cnt := by rw [ranksOnly_wokenUp c s]
    exact (congrArg Counters.held hcnt).trans hheld
  have htrn : trnOf (wokenUp c s) (c.val + 16 * x.rank.val + 64 * x.lane.val + bitIf x.setB 9)
      = trnOf s (c.val + 16 * x.rank.val + 64 * x.lane.val + bitIf x.setB 9) := by
    rw [trnOf, ranksOnly_wokenUp c s, trnOf]
  rw [htrn] at hrecord
  generalize recordTrn c (wokenUp c s) x = v at hbase hrecord hheld'
  have hstay : RegsStay v (settleQuad (c / 4) (bcUp c (allUp c v))) := by
    refine RegsStay.trans ?_ (regsStay_settleQuad ..)
    have hall : RegsStay v (allUp c v) := by
      rw [ranksOnly_allUp c v]
      exact ⟨rfl, rfl⟩
    exact hall.trans ⟨rfl, rfl⟩
  generalize settleQuad (c / 4) (bcUp c (allUp c v)) = w at hbase hstay
  obtain ⟨hdev, hcnt⟩ := hstay
  rw [releaseHeld_of_none (hcnt.trans hheld')] at hbase
  have ht : trnOf w (c.val + 16 * x.rank.val + 64 * x.lane.val + bitIf x.setB 9)
      = sweptTrn x (trnOf s (c.val + 16 * x.rank.val + 64 * x.lane.val + bitIf x.setB 9)) := by
    rw [← hrecord, trnOf, hdev, trnOf]
  exact ⟨w, hbase, ht⟩

/-! ### The end of a frequency change -/

/-- A die at its new speed point, its rows closed. -/
def moved (sp : BitVec 2) (x : DieSt) : DieSt := { atSpeed sp x with openRows := [] }

/-- What the move of a channel's ranks leaves: the controller's owed counts, the dies and the counters alone change. -/
structure Moves (c : Nat) (s t : State) : Prop where
  owner : ∃ v, bc t c = { bc s c with debt := v }
  others : OtherBcs c s t
  frame : t = { s with
    bank := { s.bank with dies := t.bank.dies }
    cnt := { s.cnt with cnt := t.cnt.cnt }
    ctl := { s.ctl with bcs := t.ctl.bcs } }

namespace Moves

theorem refl {c : Nat} (s : State) : Moves c s s := ⟨⟨_, rfl⟩, fun _ _ => rfl, rfl⟩

theorem trans {c : Nat} (h : Moves c s t) (h' : Moves c t u) : Moves c s u := by
  obtain ⟨v, hv⟩ := h.owner
  obtain ⟨v', hv'⟩ := h'.owner
  refine ⟨⟨v', by rw [hv', hv]⟩, fun k hk => (h'.others k hk).trans (h.others k hk), h'.frame.trans ?_⟩
  rw [h.frame]

theorem of_dies {c r : Nat} (h : DiesOnly c r s t) : Moves c s t := by
  obtain ⟨-, hframe⟩ := h
  have hbc : ∀ k, bc t k = bc s k := fun k => by rw [hframe]; rfl
  refine ⟨⟨(bc s c).debt, hbc c⟩, fun k _ => hbc k, hframe.trans ?_⟩
  rw [hframe]

theorem setOwed (c r b : Nat) (v : Int) (s : State) : Moves c s (setOwed c r b v s) :=
  ⟨⟨_, bc_setBc_self ..⟩, otherBcs_setBc c _ s, rfl⟩

end Moves

/-- The dies of a rank at their new speed point. -/
def diesMoved (c r n : Nat) (sp : BitVec 2) (s : State) : State :=
  (List.range 4).foldl (changeDie c r (fun _ x => moved sp x)) (countEv 0x21 c none n s)

/-- As many REFs as were sent come off what each bank owes. -/
def owedLess (c r n : Nat) (s : State) : State :=
  (List.range 32).foldl (fun t b => setOwed c r b (owedOf t c r b - (n : Int)) t) s

theorem moveRank_eq (c r n : Nat) (sp : BitVec 2) (s : State) : moveRank c r n sp s = owedLess c r n (diesMoved c r n sp s) := rfl

theorem moves_owedLess (c r n : Nat) (s : State) : Moves c s (owedLess c r n s) := by
  unfold owedLess
  exact foldl_of_step (P := Moves c s) (g := fun t b => setOwed c r b (owedOf t c r b - (n : Int)) t)
    (fun u b hu => hu.trans (.setOwed ..)) (.refl s) _

theorem die_owedLess (c r n i : Nat) (s : State) : die (owedLess c r n s) i = die s i :=
  foldl_keeps (fun u => die u i) (fun t b => setOwed c r b (owedOf t c r b - (n : Int)) t) (fun _ _ => rfl) _ s

theorem diesMoved_spec (c r n : Nat) (sp : BitVec 2) (s : State) :
    (∀ d < 4, die (diesMoved c r n sp s) (dieNo c r d) = moved sp (die s (dieNo c r d)))
    ∧ DiesOnly c r s (diesMoved c r n sp s) := by
  obtain ⟨hdie, honly⟩ := foldl_changeDie (c := c) (r := r) (fun _ x => moved sp x) (countEv 0x21 c none n s)
  exact ⟨hdie, (diesOnly_countEv ..).trans honly⟩

theorem moves_moveRank (c r n : Nat) (sp : BitVec 2) (s : State) : Moves c s (moveRank c r n sp s) := by
  rw [moveRank_eq]
  exact (Moves.of_dies (diesMoved_spec c r n sp s).2).trans (moves_owedLess ..)

theorem die_moveRank (c r n : Nat) (sp : BitVec 2) (hd : d < 4) (s : State) :
    die (moveRank c r n sp s) (dieNo c r d) = moved sp (die s (dieNo c r d)) := by
  rw [moveRank_eq, die_owedLess]
  exact (diesMoved_spec c r n sp s).1 d hd

theorem die_moveRank_of_other {i : Nat} (c r n : Nat) (sp : BitVec 2) (s : State) (hi : ∀ d < 4, i ≠ dieNo c r d) :
    die (moveRank c r n sp s) i = die s i := by
  rw [moveRank_eq, die_owedLess]
  exact (diesMoved_spec c r n sp s).2.1 i hi

/-- The ranks of a channel that are up move to a speed point. -/
def ranksMoved (c n : Nat) (sp : BitVec 2) (s : State) : State :=
  [0, 1, 2].foldl (fun s' r => if rankUp s' c r then moveRank c r n sp s' else s') s

theorem moves_ifUp (c n : Nat) (sp : BitVec 2) (r : Nat) (u : State) :
    Moves c u (if rankUp u c r then moveRank c r n sp u else u) := by
  split
  · exact moves_moveRank ..
  · exact .refl u

theorem moves_ranksMoved (c n : Nat) (sp : BitVec 2) (s : State) : Moves c s (ranksMoved c n sp s) :=
  foldl_of_step (P := Moves c s) (g := fun s' r => if rankUp s' c r then moveRank c r n sp s' else s')
    (fun u r hu => hu.trans (moves_ifUp c n sp r u)) (.refl s) _

theorem rankUp_congr (h : t.ctl.quads = s.ctl.quads) (c r : Nat) : rankUp t c r = rankUp s c r := by
  rw [rankUp, rankRetired, isFenced, quadMap, h, rankUp, rankRetired, isFenced, quadMap]

theorem die_ranksMoved (n : Nat) (sp : BitVec 2) (hup : rankUp s c r = true) (hd : d < 4) :
    die (ranksMoved c n sp s) (dieNo c r d) = moved sp (die s (dieNo c r d)) := by
  have hother : ∀ k u, k ≠ r.val → die (if rankUp u c k then moveRank c k n sp u else u) (dieNo c r d) = die u (dieNo c r d) := by
    intro k u hk
    split
    · exact die_moveRank_of_other c k n sp u fun e he => dieNo_ne_of_rank c.val hk.symm hd he
    · rfl
  have hmem : r.val ∈ [0, 1, 2] := by
    have := r.isLt
    simp only [List.mem_cons, List.not_mem_nil, or_false]
    omega
  refine foldl_at_mem (P := fun u => Moves c s u ∧ die u (dieNo c r d) = die s (dieNo c r d))
    (Q := fun u => die u (dieNo c r d) = moved sp (die s (dieNo c r d))) (fun k _ hk u hu => ?_) (fun u hu => ?_)
    (fun k _ hk u hu => (hother k u hk).trans hu) (by decide) hmem ⟨.refl s, rfl⟩
  · exact ⟨hu.1.trans (moves_ifUp c n sp k u), (hother k u hk).trans hu.2⟩
  · have hu1 : rankUp u c r = true := (rankUp_congr (by rw [hu.1.frame]) _ _).trans hup
    rw [if_pos hu1, die_moveRank _ _ _ _ hd, hu.2]

/-- The change is over, and the controller goes by a set. -/
def settled (c : Nat) (setB : Bool) (s : State) : State := setBc c { bc s c with changing := false, setB := setB } s

theorem resumeMig_frame (qn : Nat) (s : State) :
    resumeMig qn s = { s with ctl := { s.ctl with quads := (resumeMig qn s).ctl.quads } } := by
  unfold resumeMig
  dsimp only
  split <;> rfl

section
variable (hc : (bc s c).changing = true) (hq : chanQuiet s c = true)
include hc hq

theorem execFrequencyChangeDone_good :
    execFrequencyChangeDone c true s
      = ok (resumeMig (c / 4) (ranksMoved c 1 (if s.dev.freq then s.dev.runB else s.dev.runA) (settled c s.dev.freq s))) := by
  rw [execFrequencyChangeDone]
  dsimp only
  rw [hc, hq, if_neg (by decide)]
  rfl

/-- The moved state, the new set marked invalid and the failure logged. -/
theorem execFrequencyChangeDone_bad :
    ∃ u, Moves c (settled c (bc s c).setB s) u
      ∧ execFrequencyChangeDone c false s = ok (resumeMig (c / 4) (logDev 0x03 0x2C (locOf 3 (islBc c)) (bitIf s.dev.freq 0) 0
          { u with dev := { u.dev with aInvalid := u.dev.aInvalid || !s.dev.freq, bInvalid := u.dev.bInvalid || s.dev.freq } })) := by
  refine ⟨ranksMoved c 2 (if (bc s c).setB then s.dev.runB else s.dev.runA) (settled c (bc s c).setB s), moves_ranksMoved .., ?_⟩
  rw [execFrequencyChangeDone]
  dsimp only
  rw [hc, hq, if_neg (by decide)]
  rfl

end

theorem yields_frequencyChangeDone_good (hc : (bc s c).changing = true) (hq : chanQuiet s c = true) (hup : rankUp s c r = true)
    (hd : d < 4) :
    Yields (.frequencyChangeDone c true) s fun t =>
      (bc t c).changing = false ∧ (bc t c).setB = s.dev.freq
      ∧ (die t (dieNo c r d)).openRows = [] ∧ (die t (dieNo c r d)).speed = (if s.dev.freq then s.dev.runB else s.dev.runA)
      ∧ mrRead (die t (dieNo c r d)) 0x02 = (if s.dev.freq then s.dev.runB else s.dev.runA).setWidth 8
      ∧ OtherBcs c s t ∧ SameArray s t ∧ t.dev = s.dev := by
  have hexec := execFrequencyChangeDone_good hc hq
  have hmoves := moves_ranksMoved c 1 (if s.dev.freq then s.dev.runB else s.dev.runA) (settled c s.dev.freq s)
  have hdie : die (ranksMoved c 1 (if s.dev.freq then s.dev.runB else s.dev.runA) (settled c s.dev.freq s)) (dieNo c r d)
      = moved (if s.dev.freq then s.dev.runB else s.dev.runA) (die s (dieNo c r d)) :=
    die_ranksMoved (s := settled c s.dev.freq s) 1 _ hup hd
  generalize hsp : (if s.dev.freq then s.dev.runB else s.dev.runA) = sp at hexec hmoves hdie ⊢
  generalize ranksMoved c 1 sp (settled c s.dev.freq s) = u at hexec hmoves hdie
  have hresume := resumeMig_frame (c / 4) u
  generalize resumeMig (c / 4) u = t at hexec hresume
  obtain ⟨v, hv⟩ := hmoves.owner
  have hbc : bc t c = { bc s c with debt := v, changing := false, setB := s.dev.freq } := by
    rw [hresume]
    refine hv.trans ?_
    rw [settled, bc_setBc_self]
  have hdt : die t (dieNo c r d) = moved sp (die s (dieNo c r d)) := by
    rw [hresume]
    exact hdie
  obtain ⟨hframe, -, hmr⟩ := atSpeed_frame sp (die s (dieNo c r d))
  refine ⟨t, hexec, ?_, ?_, ?_, ?_, ?_, fun k hk => ?_, ?_, ?_⟩
  · rw [hbc]
  · rw [hbc]
  · rw [hdt, moved]
  · rw [hdt, moved, hframe]
  · rw [hdt]
    exact hmr
  · have hother := (hmoves.others k hk).trans (bc_setBc_ne s c k _ hk)
    rw [hresume]
    exact hother
  · rw [SameArray, hresume, hmoves.frame]
    exact ⟨rfl, rfl⟩
  · rw [hresume, hmoves.frame]
    rfl

theorem yields_frequencyChangeDone_bad (hc : (bc s c).changing = true) (hq : chanQuiet s c = true) :
    Yields (.frequencyChangeDone c false) s fun t =>
      (bc t c).changing = false ∧ (bc t c).setB = (bc s c).setB
      ∧ (if s.dev.freq then t.dev.bInvalid = true else t.dev.aInvalid = true) ∧ Logged 3 0x2C s t ∧ SameArray s t := by
  obtain ⟨u, hmoves, hexec⟩ := execFrequencyChangeDone_bad hc hq
  generalize hw : ({ u with dev := { u.dev with aInvalid := u.dev.aInvalid || !s.dev.freq, bInvalid := u.dev.bInvalid || s.dev.freq } } : State) = w at hexec
  have hlogged : Logged 3 0x2C s (logDev 0x03 0x2C (locOf 3 (islBc c)) (bitIf s.dev.freq 0) 0 w) := by
    refine logged_logAs (u := w) 3 0x2C _ _ _ _ _ ?_ ?_
    · rw [← hw, hmoves.frame]
      rfl
    · rw [← hw, hmoves.frame]
      rfl
  have hbank : (logDev 0x03 0x2C (locOf 3 (islBc c)) (bitIf s.dev.freq 0) 0 w).bank = w.bank := logDev_bank ..
  have hctl : (logDev 0x03 0x2C (locOf 3 (islBc c)) (bitIf s.dev.freq 0) 0 w).ctl = w.ctl := logDev_ctl ..
  have hdev : (logDev 0x03 0x2C (locOf 3 (islBc c)) (bitIf s.dev.freq 0) 0 w).dev = w.dev := logDev_dev ..
  generalize logDev 0x03 0x2C (locOf 3 (islBc c)) (bitIf s.dev.freq 0) 0 w = x at hexec hlogged hbank hctl hdev
  have hresume := resumeMig_frame (c / 4) x
  generalize resumeMig (c / 4) x = t at hexec hresume
  obtain ⟨v, hv⟩ := hmoves.owner
  have hbc : bc t c = { bc s c with debt := v, changing := false } := by
    have hbcs : t.ctl.bcs = u.ctl.bcs := by rw [hresume, hctl, ← hw]
    rw [bc, hbcs, ← bc, hv, settled, bc_setBc_self]
  have hdevs : t.dev = { s.dev with aInvalid := s.dev.aInvalid || !s.dev.freq, bInvalid := s.dev.bInvalid || s.dev.freq } := by
    rw [hresume, hdev, ← hw, hmoves.frame]
    rfl
  have hbanks : t.bank = u.bank := by rw [hresume, hbank, ← hw]
  refine ⟨t, hexec, ?_, ?_, ?_, ?_, ?_⟩
  · rw [hbc]
  · rw [hbc]
  · rw [hdevs]
    cases s.dev.freq <;> simp
  · rw [hresume]
    exact hlogged
  · rw [SameArray, hbanks, hmoves.frame]
    exact ⟨rfl, rfl⟩

/-- Settles O48: the scrub writes back what it corrected, the release brings up the dies of the ranks, the record holds the
longest run, and a change of frequency moves every rank that is up. -/
theorem controllersComeUp : Obligations.ControllersComeUp := by
  refine ⟨?scrub, ?release, ?train, longestRun_is_longest, ?good, ?bad⟩
  case scrub =>
    exact fun _ _ _ _ _ _ _ hrel hup hown hchange hw hfew hone => yields_bankPatrolScrub hrel hup hown hchange hw hfew hone
  case release => exact fun _ _ _ d hrel hph he hr hreset hf hheld => yields_bcRelease hrel hph he hr d.isLt hreset hf hheld
  case train => exact fun _ _ _ hrel hph hheld hstep hpass => yields_bcRelease_trained hrel hph hheld hstep hpass
  case good => exact fun _ _ _ d hc hq hup => yields_frequencyChangeDone_good hc hq hup d.isLt
  case bad => exact fun _ _ hc hq => yields_frequencyChangeDone_bad hc hq

end Sys2Proof.Machine
end

section
/-! The operations of a context: what an issue, a wait and a fault leave (09 R249 to R251, R277); image load and the end of a
context (09 R272, 12 R335). -/

namespace Sys2Proof.Machine

variable {s t u : State} {x : CtxNo} {c : Ctx}

/-! ### One operation -/

theorem ctx_of_running (h : running s x = some c) : ctx s x.val = some c ∧ c.st = .run := by
  rw [running] at h
  split at h
  · rw [inRun] at h
    split at h
    · next e he =>
      split at h
      · next hrun =>
        cases h
        exact ⟨he, hrun⟩
      · cases h
    · cases h
  · cases h

theorem clipDesc_frame (p : Place) (yes : Bool) (s : State) : clipDesc p yes s = { s with places := (clipDesc p yes s).places } := by
  unfold clipDesc
  split
  · split <;> rfl
  · rfl

/-- A context goes on: it is stored, and only its descriptor's mark and the counters may move with it. -/
theorem goOn_frame (x : CtxNo) (c : Ctx) (s : State) :
    ∃ n, goOn x c s = { setCtx x.val { c with since := n } s with
      places := (goOn x c s).places
      cnt := { s.cnt with cnt := (goOn x c s).cnt.cnt } } ∧ ((ctx s x.val).any (fun o => decide (o.st = .run)) = true → n = c.since) := by
  refine ⟨if (ctx s x.val).any (fun o => decide (o.st = .run)) then c.since else now s, ?_, fun h => if_pos h⟩
  have hclip := clipDesc_frame c.place (islClip s islSeq)
    (setCtx x.val { c with since := if (ctx s x.val).any (fun o => decide (o.st = .run)) then c.since else now s } s)
  unfold goOn
  dsimp only
  rw [hclip]
  rfl

/-- An operation of a running context is issued, and the context stands as c. -/
theorem issued_issue {o : Ctx} (h : running s x = some o) (c : Ctx) : Issued x c s (issue x c s) ∧ CtxOnly s (issue x c s) := by
  obtain ⟨hctx, hrun⟩ := ctx_of_running h
  obtain ⟨n, hframe, hn⟩ := goOn_frame x c (serve x s)
  have hran : (ctx (serve x s) x.val).any (fun o => decide (o.st = .run)) = true := by
    rw [show ctx (serve x s) x.val = some o from hctx]
    exact decide_eq_true hrun
  rw [hn hran, ← issue] at hframe
  generalize issue x c s = v at hframe ⊢
  have hctxs : ∀ k, ctx v k = ctx (setCtx x.val c (serve x s)) k := fun k => by rw [hframe]; rfl
  refine ⟨⟨(hctxs _).trans (ctx_setCtx_self ..), fun y hy => (hctxs y).trans (ctx_setCtx_ne _ _ _ _ hy)⟩, ?_⟩
  rw [CtxOnly, hframe]
  rfl

theorem seqFaults_failOp {code : Nat} (h : running s x = some c) : SeqFaults x c code s (failOp x code s) :=
  seqFaults_faultCtx (s := serve x s) code (ctx_of_running h).1

/-- A context that waits enters its wait and does nothing else. -/
theorem waits_waitFor (st : CState) (w : WaitFor) : Waits x c st w s (waitFor x c st w s) := by
  have hctxs : ∀ k, ctx (waitFor x c st w s) k = ctx (moveCtx x.val { c with wait := w } st (serve x s)) k := fun k => by
    unfold waitFor
    dsimp only
    split <;> rfl
  refine ⟨(hctxs _).trans (ctx_setCtx_self ..), fun y hy => (hctxs y).trans (ctx_setCtx_ne _ _ _ _ hy), fun hst => ?_⟩
  simp [waitFor, hst]

theorem desc_waitFor (st : CState) (w : WaitFor) (q : Place) : desc (waitFor x c st w s) q = desc s q := by
  unfold waitFor
  dsimp only
  split <;> rfl

/-! ### Image load -/

variable {d : Desc} {image args : List Byte}

/-- The image that a RUN names, as its sequencer keeps it. -/
def imageKept (image : List Byte) (d : Desc) : Kept :=
  { id := BitVec.ofNat 64 (leAt image 0x10 8), len := bits (wordAt d.words 2) 0 24, func := d.func }

theorem execImageLoadComplete_of_run (hc : ctx s x.val = some c) (hst : c.st = .load) (hd : desc s c.place = some d)
    (hop : opcodeOf d.words = 0x10) : execImageLoadComplete x image args s = ok (loadRun x c d image args s) := by
  simp [execImageLoadComplete, hc, hst, hd, hop]

theorem mem_kept_keepImage (sq : Nat) (k : Kept) (s : State) : k ∈ tget [] (keepImage sq k s).seq.kept sq := by
  have hkept : tget [] (keepImage sq k s).seq.kept sq
      = let l := (tget [] s.seq.kept sq).filter (fun y => decide (y ≠ k)) ++ [k]
        l.drop (l.length - 8) := tget_tset_self ..
  rw [hkept]
  dsimp only
  rw [List.drop_append_of_le_length (by simp)]
  simp

theorem yields_imageLoad (hc : ctx s x.val = some c) (hst : c.st = .load) (hd : desc s c.place = some d)
    (hop : opcodeOf d.words = 0x10)
    (hgood : loadFault s (x.val / 8) (imageKept image d) image (bits (wordAt d.words 2) 24 8) (bits (wordAt d.words 4) 0 16) = none) :
    Yields (.imageLoadComplete x image args) s fun t =>
      (∃ c', ctx t x.val = some c' ∧ c'.st = .run ∧ c'.args = args.take (64 * bits (wordAt d.words 4) 0 16)
        ∧ c'.pos = BitVec.ofNat 32 (bits (sqiRec image (leAt image 0x20 4) (bits (wordAt d.words 2) 24 8)).1 0 32)
        ∧ c'.regions = c.regions ∧ c'.vals = c.vals)
      ∧ (∀ y, y ≠ x.val → ctx t y = ctx s y)
      ∧ imageKept image d ∈ tget [] t.seq.kept (x.val / 8)
      ∧ t = { s with seq := { s.seq with ctxs := t.seq.ctxs, kept := t.seq.kept } } := by
  have hu := execImageLoadComplete_of_run (image := image) (args := args) hc hst hd hop
  rw [loadRun] at hu
  dsimp only at hu
  rw [← imageKept, hgood] at hu
  exact ⟨_, hu, ⟨_, ctx_setCtx_self .., rfl, rfl, rfl, rfl, rfl⟩, fun y hy => ctx_setCtx_ne _ _ _ _ hy,
    mem_kept_keepImage .., rfl⟩

theorem yields_imageLoad_bad (hc : ctx s x.val = some c) (hst : c.st = .load) (hd : desc s c.place = some d)
    (hop : opcodeOf d.words = 0x10) (hmagic : leAt image 0x00 4 ≠ 0x31495153) :
    Yields (.imageLoadComplete x image args) s (SeqFaults x c 0x01 s) := by
  have hfault : ∀ k e n, loadFault s (x.val / 8) k image e n = some 0x01 := fun k e n => by rw [loadFault, if_pos hmagic]
  have hu := execImageLoadComplete_of_run (image := image) (args := args) hc hst hd hop
  rw [loadRun] at hu
  dsimp only at hu
  rw [hfault] at hu
  exact ⟨_, hu, seqFaults_faultCtx 0x01 hc⟩

/-! ### The end of a context -/

theorem outstanding_congr {v : State} (hseq : v.seq.queues = s.seq.queues) (hbcs : v.ctl.bcs = s.ctl.bcs)
    (hsets : (ctx v x.val).map (fun c => c.sets) = (ctx s x.val).map (fun c => c.sets)) : outstanding v x = outstanding s x := by
  rw [outstanding, ctxCmds, ctxP1, hseq, hbcs, hsets, outstanding, ctxCmds, ctxP1]

/-- A draining context with nothing outstanding ends its descriptor. -/
theorem ended_settleCtx {v : State} {e : Ctx} (hc : ctx v x.val = some e) (hst : e.st = .drain) (ho : outstanding v x = 0)
    (hd : desc v e.place = some d) (hb : d.stage ≠ .built) :
    ∃ f, desc (settleCtx x v) e.place = some f ∧ f.stage = .ended := by
  rw [settleCtx, hc]
  dsimp only
  rw [if_pos ⟨hst, ho⟩, hd]
  exact ⟨_, desc_setDesc_self .., if_neg hb⟩

theorem yields_contextEnd (h : running s x = some c) :
    Yields (.contextEnd x) s fun t =>
      ctx t x.val = some { c with st := .drain, since := now s } ∧ (∀ y, y ≠ x.val → ctx t y = ctx s y)
      ∧ (outstanding s x = 0 → ∀ d, desc s c.place = some d → d.stage ≠ .built →
          ∃ e, desc t c.place = some e ∧ e.stage = .ended) := by
  obtain ⟨hctx, -⟩ := ctx_of_running h
  have hdrain : drainCtx x (serve x s) = setCtx x.val { c with st := .drain, since := now s } (serve x s) :=
    drainCtx_of_ctx (s := serve x s) hctx
  have hu : execContextEnd x s
      = ok (settleCtx x (countEv 0x60 (x.val / 8) (some c.func) 1 (setCtx x.val { c with st := .drain, since := now s } (serve x s)))) := by
    rw [execContextEnd, h]
    dsimp only
    rw [hdrain]
  generalize hv : countEv 0x60 (x.val / 8) (some c.func) 1 (setCtx x.val { c with st := .drain, since := now s } (serve x s)) = v at hu
  have hself : ctx v x.val = some { c with st := .drain, since := now s } := by
    rw [← hv]
    exact ctx_setCtx_self ..
  have hother : ∀ y, y ≠ x.val → ctx v y = ctx s y := fun y hy => by
    rw [← hv]
    exact ctx_setCtx_ne _ _ _ _ hy
  refine ⟨_, hu, by rw [ctx_settleCtx, hself], fun y hy => by rw [ctx_settleCtx, hother y hy], fun ho d hd hb => ?_⟩
  have hout : outstanding v x = outstanding s x := by
    refine outstanding_congr ?_ ?_ ?_
    · rw [← hv]; rfl
    · rw [← hv]; rfl
    · rw [hself, hctx]; rfl
  have hdv : desc v c.place = some d := by
    rw [← hv]
    exact hd
  exact ended_settleCtx (e := { c with st := .drain, since := now s }) hself rfl (hout.trans ho) hdv hb

theorem yields_contextWatchdogExpiry (hc : ctx s x.val = some c) (hst : c.st ≠ .run)
    (hlong : ¬ now s < c.since + BitVec.ofNat 64 (s.hub.wdCtx.toNat * 1000000)) :
    Yields (.contextWatchdogExpiry x) s fun t =>
      (∃ c', ctx t x.val = some c' ∧ c'.st = .drain ∧ c'.wait = .nothing) ∧ (∀ y, y ≠ x.val → ctx t y = ctx s y)
      ∧ ∀ d, desc s c.place = some d → ∃ e, desc t c.place = some e ∧ .watchdog ∈ e.conds := by
  obtain ⟨d0, hsn, hu⟩ : ∃ d0 hsn, execContextWatchdogExpiry x s
      = ok (stopCtx x (addCond c.place .watchdog (logFn 0x04 0x01 (locOf 6 x.val) c.func d0 hsn s))) := by
    rw [execContextWatchdogExpiry, hc]
    dsimp only
    rw [if_neg (not_or.mpr ⟨hst, hlong⟩)]
    exact ⟨_, _, rfl⟩
  generalize hv : addCond c.place .watchdog (logFn 0x04 0x01 (locOf 6 x.val) c.func d0 hsn s) = v at hu
  have hctxs : ∀ k, ctx v k = ctx s k := fun k => by
    have hseq : v.seq = s.seq := by rw [← hv, addCond_frame, logFn_seq]
    rw [ctx, hseq, ctx]
  rw [stopCtx_of_ctx ((hctxs _).trans hc)] at hu
  refine ⟨_, hu, ⟨_, by rw [ctx_settleCtx, ctx_haltedCtx_self], rfl, rfl⟩, fun y hy => ?_, fun d hd => ?_⟩
  · rw [ctx_settleCtx, ctx_haltedCtx_ne hy, hctxs]
  · have hcond : desc (haltedCtx x c v) c.place = some { d with conds := addStatus .watchdog d.conds } := by
      rw [desc_congr places_haltedCtx, ← hv, addCond_of_desc _ ((desc_congr (logFn_places ..) _).trans hd), desc_setDesc_self]
    obtain ⟨g, hg⟩ := desc_settleCtx (x := x) hcond
    exact ⟨_, hg, mem_addStatus (by decide)⟩

/-- Settles O49: an image that passes its checks runs, one that fails them faults, and a context drains at its end. -/
theorem contextsLoadAndEnd : Obligations.ContextsLoadAndEnd := by
  refine ⟨?load, ?bad, ?ends, ?watchdog⟩
  case load => exact fun _ _ _ _ _ _ hc hst hd hop hgood => yields_imageLoad hc hst hd hop hgood
  case bad => exact fun _ _ _ _ _ _ hc hst hd hop hmagic => yields_imageLoad_bad hc hst hd hop hmagic
  case ends => exact fun _ _ _ h => yields_contextEnd h
  case watchdog => exact fun _ _ _ hc hst hlong => yields_contextWatchdogExpiry hc hst hlong

end Sys2Proof.Machine
end

section
/-! A push that enters its queue (09 R255 to R263): the command it becomes, and what its context keeps. -/

namespace Sys2Proof.Machine

variable {s t u : State} {x : CtxNo} {c : Ctx} {p : Push} {regs : List (Nat × Nat × Bool)}

/-! ### The context after a push -/

theorem settleLoops_frame (n : Nat) (c : Ctx) :
    settleLoops n c = { c with pos := (settleLoops n c).pos, loops := (settleLoops n c).loops } := by
  induction n generalizing c with
  | zero => rfl
  | succ n ih =>
    rw [settleLoops]
    split
    · rfl
    · split
      · rfl
      · split
        · rfl
        · rw [ih]

/-- Going on moves a context's position and its loops alone. -/
theorem goTo_frame (pos : U32) (c : Ctx) : goTo pos c = { c with pos := (goTo pos c).pos, loops := (goTo pos c).loops } := by
  rw [goTo, settleLoops_frame]

theorem takeSlots_frame (q : QueueNo) (ops : List (Operand × Bool)) (c : Ctx) :
    (takeSlots q ops c).1 = { c with streams := (takeSlots q ops c).1.streams } := by
  refine foldl_of_step (P := fun a : Ctx × Option (Fin 16 × Nat) × List (Fin 16 × Nat) => a.1 = { c with streams := a.1.streams })
    (fun a o ha => ?_) rfl ops
  split
  · split
    · exact ha
    · split <;> (rw [ha])
  · exact ha

/-- The context of a push that has entered: its slots are taken, and what the command writes is pending. -/
def slotted (s : State) (c : Ctx) (p : Push) : Ctx :=
  let t := (takeSlots p.queue (operandsOf s c p.cmd) c).1
  let c1 := match p.value with
    | some r => { t with pendVals := r.val :: t.pendVals }
    | none => t
  { c1 with st := .run, wait := .nothing }

theorem slotted_frame (s : State) (c : Ctx) (p : Push) :
    slotted s c p = { c with
      streams := (slotted s c p).streams
      pendVals := (slotted s c p).pendVals
      st := .run
      wait := .nothing } := by
  have h := takeSlots_frame p.queue (operandsOf s c p.cmd) c
  unfold slotted
  generalize (takeSlots p.queue (operandsOf s c p.cmd) c).1 = t at h
  dsimp only
  rw [h]
  cases p.value <;> rfl

theorem mem_pendVals_slotted (s : State) (c : Ctx) {r : Fin 16} (h : p.value = some r) : r.val ∈ (slotted s c p).pendVals := by
  rw [slotted, h]
  exact List.mem_cons_self

/-! ### The command in its queue -/

/-- The command that a push becomes. -/
def pushed (x : CtxNo) (c : Ctx) (p : Push) (regs : List (Nat × Nat × Bool)) (s : State) : QCmd :=
  let t := takeSlots p.queue (operandsOf s c p.cmd) c
  { ctx := some x, place := c.place, push := { p with cmd := fixCmd c p.cmd }, words := pushWords s c p.cmd,
    offs := regs.map (fun r => (r.1, r.2.1)), reads := (regs.filter (fun r => !r.2.2)).map (fun r => r.1),
    writes := (regs.filter (fun r => r.2.2)).map (fun r => r.1), slot := t.2.1, pops := t.2.2,
    pushNo := tget 0 s.seq.pushNo (pushKey p.queue.val), started := false, fin := false, since := now s, result := none }

/-- The state with the command in its queue, its claims taken and the next number of its engine. -/
def enqueued (x : CtxNo) (c : Ctx) (p : Push) (regs : List (Nat × Nat × Bool)) (s : State) : State :=
  let s1 := takeClaims x p (setQueue p.queue.val (queue s p.queue.val ++ [pushed x c p regs s]) s)
  { s1 with seq := { s1.seq with
      pushNo := tset 0 s1.seq.pushNo (pushKey p.queue.val) (tget 0 s.seq.pushNo (pushKey p.queue.val) + 1) } }

/-- The grain command of a push, as its bank controller gets it. -/
def p1Of (x : CtxNo) (c : Ctx) (v : Nat × GrainSel × P1Kind) : P1 :=
  { rank := v.1, sel := v.2.1, kind := v.2.2, place := some c.place, ctx := some x, func := c.func, dirty := [], started := [],
    issued := false, since := 0#64, num := 0 }

/-- A grain command goes to its bank controller too. -/
def sentOn (x : CtxNo) (c : Ctx) (p : Push) (s : State) : State :=
  match p1OfCmd p.cmd with
  | some v => queueP1 (p.queue.val - 10) (p1Of x c v) s
  | none => s

theorem enterPush_eq (x : CtxNo) (c : Ctx) (p : Push) (regs : List (Nat × Nat × Bool)) (s : State) :
    enterPush x c p regs s
      = if p.lib then issue x (advance (scrambled s.freeCtr (slotted s c p))) (takeFree (sentOn x c p (enqueued x c p regs s)))
        else issue x (advance (slotted s c p)) (sentOn x c p (enqueued x c p regs s)) := by
  rw [enterPush, sentOn]
  cases p1OfCmd p.cmd <;> rfl

theorem takeClaims_frame (x : CtxNo) (p : Push) (s : State) :
    takeClaims x p s = { s with seq := { s.seq with claims := (takeClaims x p s).seq.claims } } := by
  refine foldl_of_step (P := fun u : State => u = { s with seq := { s.seq with claims := u.seq.claims } })
    (fun u r hu => ?_) rfl (cmdClaims p.cmd)
  dsimp only
  split
  · exact hu
  · rw [hu]

theorem enqueued_frame (x : CtxNo) (c : Ctx) (p : Push) (regs : List (Nat × Nat × Bool)) (s : State) :
    ∃ claims nos, enqueued x c p regs s = { s with seq := { s.seq with
      queues := tset [] s.seq.queues p.queue.val (queue s p.queue.val ++ [pushed x c p regs s])
      claims := claims
      pushNo := nos } } := by
  unfold enqueued
  rw [takeClaims_frame]
  exact ⟨_, _, rfl⟩

theorem queue_enqueued_self (x : CtxNo) (c : Ctx) (p : Push) (regs : List (Nat × Nat × Bool)) (s : State) :
    queue (enqueued x c p regs s) p.queue.val = queue s p.queue.val ++ [pushed x c p regs s] := by
  obtain ⟨_, _, h⟩ := enqueued_frame x c p regs s
  rw [h]
  exact tget_tset_self ..

theorem queue_enqueued_ne (x : CtxNo) (c : Ctx) (p : Push) (regs : List (Nat × Nat × Bool)) (s : State) {q : Nat}
    (hq : q ≠ p.queue.val) : queue (enqueued x c p regs s) q = queue s q := by
  obtain ⟨_, _, h⟩ := enqueued_frame x c p regs s
  rw [h]
  exact tget_tset_ne _ _ _ _ _ hq

theorem ctx_enqueued (x : CtxNo) (c : Ctx) (p : Push) (regs : List (Nat × Nat × Bool)) (s : State) (y : Nat) :
    ctx (enqueued x c p regs s) y = ctx s y := by
  obtain ⟨_, _, h⟩ := enqueued_frame x c p regs s
  rw [h]
  rfl

theorem sentOn_frame (x : CtxNo) (c : Ctx) (p : Push) (s : State) :
    sentOn x c p s = { s with
      ctl := (sentOn x c p s).ctl
      seq := { s.seq with pushNo := (sentOn x c p s).seq.pushNo } } := by
  unfold sentOn
  split <;> rfl

/-! ### What an issue leaves -/

/-- Whatever context is stored by an issue, the queues and every other context stay. -/
theorem issue_spec (x : CtxNo) (c : Ctx) (s : State) :
    (∃ n, ctx (issue x c s) x.val = some { c with since := n }) ∧ (∀ y, y ≠ x.val → ctx (issue x c s) y = ctx s y)
    ∧ (issue x c s).seq.queues = s.seq.queues ∧ (issue x c s).ctl = s.ctl := by
  obtain ⟨n, hframe, -⟩ := goOn_frame x c (serve x s)
  rw [← issue] at hframe
  generalize issue x c s = v at hframe ⊢
  have hctxs : ∀ k, ctx v k = ctx (setCtx x.val { c with since := n } (serve x s)) k := fun k => by rw [hframe]; rfl
  refine ⟨⟨n, (hctxs _).trans (ctx_setCtx_self ..)⟩, fun y hy => (hctxs y).trans (ctx_setCtx_ne _ _ _ _ hy), ?_, ?_⟩
  · rw [hframe]; rfl
  · rw [hframe]; rfl

/-- What a push that enters leaves of its context. -/
structure PushedCtx (c : Ctx) (p : Push) (c' : Ctx) : Prop where
  st : c'.st = .run
  wait : c'.wait = .nothing
  stack : c'.stack = c.stack
  vals : p.lib = false → c'.vals = c.vals
  pend : ∀ r, p.value = some r → r.val ∈ c'.pendVals

theorem pushedCtx_advance (s : State) (c : Ctx) (n : U64) :
    PushedCtx c p { advance (slotted s c p) with since := n } := by
  rw [advance, goTo_frame]
  have h := slotted_frame s c p
  have hpend := fun r hr => mem_pendVals_slotted s c (p := p) (r := r) hr
  generalize slotted s c p = e at h hpend ⊢
  exact ⟨by rw [h], by rw [h], by rw [h], fun _ => by rw [h], hpend⟩

theorem pushedCtx_scrambled (s : State) (c : Ctx) (k : Nat) (n : U64) (hlib : p.lib = true) :
    PushedCtx c p { advance (scrambled k (slotted s c p)) with since := n } := by
  rw [advance, goTo_frame]
  have h := slotted_frame s c p
  have hpend := fun r hr => mem_pendVals_slotted s c (p := p) (r := r) hr
  generalize slotted s c p = e at h hpend ⊢
  rw [scrambled]
  exact ⟨by rw [h], by rw [h], by rw [h], fun hf => absurd (hf.symm.trans hlib) (by decide), hpend⟩

/-- A push that enters: its command stands last in its queue, and its context goes on. -/
theorem enterPush_spec (x : CtxNo) (c : Ctx) (p : Push) (regs : List (Nat × Nat × Bool)) (s : State) :
    queue (enterPush x c p regs s) p.queue.val = queue s p.queue.val ++ [pushed x c p regs s]
    ∧ (∀ q, q ≠ p.queue.val → queue (enterPush x c p regs s) q = queue s q)
    ∧ (∃ c', ctx (enterPush x c p regs s) x.val = some c' ∧ PushedCtx c p c')
    ∧ (∀ y, y ≠ x.val → ctx (enterPush x c p regs s) y = ctx s y)
    ∧ (enterPush x c p regs s).ctl = (sentOn x c p (enqueued x c p regs s)).ctl := by
  obtain ⟨v, e, hu, hctxs, hqueues, hctl, hpushed⟩ : ∃ v e, enterPush x c p regs s = issue x e v
      ∧ (∀ y, ctx v y = ctx s y) ∧ v.seq.queues = (enqueued x c p regs s).seq.queues
      ∧ v.ctl = (sentOn x c p (enqueued x c p regs s)).ctl ∧ ∀ n, PushedCtx c p { e with since := n } := by
    have hsent := sentOn_frame x c p (enqueued x c p regs s)
    have hctx : ∀ y, ctx (sentOn x c p (enqueued x c p regs s)) y = ctx s y := fun y => by
      rw [hsent]
      exact ctx_enqueued x c p regs s y
    have hq : (sentOn x c p (enqueued x c p regs s)).seq.queues = (enqueued x c p regs s).seq.queues := by rw [hsent]
    rw [enterPush_eq]
    split
    · next hlib => exact ⟨_, _, rfl, hctx, hq, rfl, fun n => pushedCtx_scrambled s c _ n hlib⟩
    · exact ⟨_, _, rfl, hctx, hq, rfl, fun n => pushedCtx_advance s c n⟩
  obtain ⟨⟨n, hself⟩, hother, hq, hc⟩ := issue_spec x e v
  have hqueue : ∀ q, queue (issue x e v) q = queue (enqueued x c p regs s) q := fun q => by
    rw [queue, hq, hqueues, ← queue]
  rw [hu]
  exact ⟨(hqueue _).trans (queue_enqueued_self ..), fun q hne => (hqueue q).trans (queue_enqueued_ne x c p regs s hne),
    ⟨_, hself, hpushed n⟩, fun y hy => (hother y hy).trans (hctxs y), hc.trans hctl⟩

/-- A push whose checks pass enters. -/
theorem doPush_of_enter (h : judgePush s x c p = .enter regs) : doPush x c p s = enterPush x c p regs s := by
  rw [doPush, h]

end Sys2Proof.Machine
end

section
/-! The operations of a running context: loops, branches, calls, values and generators (09 R254 to R267). -/

namespace Sys2Proof.Machine

variable {s t u : State} {x : CtxNo} {c : Ctx}

/-! ### Loops -/

section
variable {n : BitVec 24} {body last : U32} {count : LoopCount}

theorem yields_loopOpen_of_count {v : U32} (h : running s x = some c) (h6 : c.loops.length < 6)
    (hv : valSrc c (countSrc count) = .inl v) (h0 : v ≠ 0#32) :
    Yields (.loopOpen x count body last) s fun t =>
      Issued x { c with loops := c.loops ++ [{ count := v.toNat, index := 0, body := body, last := last }], pos := body } s t
      ∧ CtxOnly s t := by
  have hu : execLoopOpen x count body last s = ok (issue x { c with
      loops := c.loops ++ [{ count := v.toNat, index := 0, body := body, last := last }]
      pos := body } s) := by
    simp [execLoopOpen, h, Nat.not_le.mpr h6, hv, h0]
  exact ⟨_, hu, issued_issue h _⟩

theorem yields_loopOpen_imm (h : running s x = some c) (h6 : c.loops.length < 6) (h0 : n ≠ 0#24) :
    Yields (.loopOpen x (.imm n) body last) s fun t =>
      Issued x { c with loops := c.loops ++ [{ count := n.toNat, index := 0, body := body, last := last }], pos := body } s t
      ∧ CtxOnly s t := by
  have hlt := n.isLt
  have hn : (n.setWidth 32).toNat = n.toNat := by
    rw [BitVec.toNat_setWidth]
    omega
  have h0' : n.setWidth 32 ≠ 0#32 := fun he => by
    have hzero : n.toNat = 0 := hn.symm.trans (congrArg BitVec.toNat he)
    exact h0 (BitVec.eq_of_toNat_eq hzero)
  have hopen := yields_loopOpen_of_count (count := .imm n) (body := body) (last := last) h h6 rfl h0'
  rwa [hn] at hopen

theorem yields_loopOpen_zero (h : running s x = some c) (h6 : c.loops.length < 6) :
    Yields (.loopOpen x (.imm 0#24) body last) s fun t => Issued x (goTo last c) s t ∧ CtxOnly s t := by
  have hu : execLoopOpen x (.imm 0#24) body last s = ok (issue x (goTo last c) s) := by
    simp [execLoopOpen, h, Nat.not_le.mpr h6, valSrc, countSrc]
  exact ⟨_, hu, issued_issue h _⟩

theorem yields_loopOpen_deep (h : running s x = some c) (h6 : 6 ≤ c.loops.length) :
    Yields (.loopOpen x count body last) s (SeqFaults x c 0x12 s) := by
  have hu : execLoopOpen x count body last s = ok (failOp x 0x12 s) := by simp [execLoopOpen, h, h6]
  exact ⟨_, hu, seqFaults_failOp h⟩

end

theorem valSrc_reg {r : Fin 16} (h : r.val ∉ c.pendVals) : valSrc c (.reg r) = .inl (valOf c r.val) := if_neg h

/-! ### Branches -/

theorem valSrc_branchSrc {b : BranchArg} {w : U32}
    (h : match b with
     | .reg r => r.val ∉ c.pendVals ∧ w = valOf c r.val
     | .imm v => w = v.signExtend 32) : valSrc c (branchSrc b) = .inl w := by
  cases b with
  | reg r => rw [h.2]; exact valSrc_reg h.1
  | imm v => rw [h]; rfl

theorem yields_branch {cond : Fin 9} {a : Fin 16} {b : BranchArg} {target w : U32} {taken : Bool} (h : running s x = some c)
    (ha : a.val ∉ c.pendVals) (hb : valSrc c (branchSrc b) = .inl w)
    (ht : brTaken cond.val (valOf c a.val) w = some taken) :
    Yields (.branch x cond a b target) s fun t =>
      Issued x (if taken = true then goTo target c else goTo (c.pos + 1#32) c) s t ∧ CtxOnly s t := by
  have hu : execBranch x cond a b target s = ok (issue x (if taken = true then goTo target c else goTo (c.pos + 1#32) c) s) := by
    rw [execBranch, h]
    dsimp only
    rw [valSrc_reg ha, hb]
    dsimp only
    rw [ht]
    cases taken <;> rfl
  exact ⟨_, hu, issued_issue h _⟩

/-! ### Calls -/

section
variable {r : Byte}

theorem yields_call (h : running s x = some c) (h4 : c.stack.length < 4)
    (hr : r.toNat < 0x10 ∨ (0x20 ≤ r.toNat ∧ r.toNat < 0x40)) :
    Yields (.call x r) s fun t =>
      Issued x { c with stack := c.stack ++ [(c.pos + 1#32, c.loops.length)],
                        pos := Config.routineEntry (routineNo s r.toNat) } s t ∧ CtxOnly s t := by
  have hlib : ¬ 0x40 ≤ r.toNat := by omega
  have hslip : ¬ (0x10 ≤ r.toNat ∧ r.toNat < 0x20) := by omega
  have hu : execCall x r s = ok (issue x { c with
      stack := c.stack ++ [(c.pos + 1#32, c.loops.length)]
      pos := Config.routineEntry (routineNo s r.toNat) } s) := by
    rw [execCall, h]
    dsimp only
    rw [if_neg (Nat.not_le.mpr h4), if_neg hlib, if_neg hslip]
  exact ⟨_, hu, issued_issue h _⟩

theorem pendingArg_of_none (h : ∀ v < 8, v ∉ c.pendVals) : pendingArg c = none := by
  have hall : ∀ r ∈ ([0, 1, 2, 3, 4, 5, 6, 7] : List (Fin 16)), r.val < 8 := by decide
  rw [pendingArg, List.find?_eq_none]
  intro r hr
  rw [decide_eq_true_eq]
  exact h r.val (hall r hr)

/-- A Slip routine with its arguments at hand returns at once where a count is 0, and else comes to a push. -/
theorem execCall_of_slip (h : running s x = some c) (h4 : c.stack.length < 4) (hlo : 0x10 ≤ r.toNat) (hhi : r.toNat < 0x20)
    (hpend : ∀ v < 8, v ∉ c.pendVals) :
    execCall x r s = if valOf c 0 = 0#32 ∨ valOf c 1 = 0#32 then ok (issue x (advance c) s)
      else ok (doPush x c (routinePush s c r.toNat) s) := by
  have hlib : ¬ 0x40 ≤ r.toNat := by omega
  rw [execCall, h]
  dsimp only
  rw [if_neg (Nat.not_le.mpr h4), if_neg hlib, if_pos ⟨hlo, hhi⟩, pendingArg_of_none hpend]

theorem yields_call_empty (h : running s x = some c) (h4 : c.stack.length < 4) (hlo : 0x10 ≤ r.toNat) (hhi : r.toNat < 0x20)
    (hpend : ∀ v < 8, v ∉ c.pendVals) (h0 : valOf c 0 = 0#32 ∨ valOf c 1 = 0#32) :
    Yields (.call x r) s fun t => Issued x (goTo (c.pos + 1#32) c) s t ∧ CtxOnly s t := by
  have hu := execCall_of_slip h h4 hlo hhi hpend
  rw [if_pos h0] at hu
  exact ⟨_, hu, issued_issue h _⟩

theorem argCount_of_le {n k b : Nat} (h : n ≤ b) : argCount n k b = n := if_pos h

/-- The Slip command of a routine, its operands fixed, keeps the routine's counts and immediates. -/
theorem fixCmd_routine (s : State) (c : Ctx) (r : Nat) :
    ∃ v, fixCmd c (.slip (routineCmd s c r)) = .slip v ∧ v.rows = argRows s c ∧ v.cols = argCols s c
      ∧ v.i0 = valOf c 4 ∧ v.i1 = valOf c 5 := ⟨_, rfl, rfl, rfl, rfl, rfl⟩

theorem yields_call_slip {regs : List (Nat × Nat × Bool)} (h : running s x = some c) (h4 : c.stack.length < 4)
    (hlo : 0x10 ≤ r.toNat) (hhi : r.toNat < 0x20) (hpend : ∀ v < 8, v ∉ c.pendVals) (h0 : valOf c 0 ≠ 0#32)
    (h1 : valOf c 1 ≠ 0#32) (hrows : (valOf c 0).toNat < 2 ^ 24) (hcols : (valOf c 1).toNat ≤ 65536)
    (hjudge : judgePush s x c (routinePush s c r.toNat) = .enter regs) :
    Yields (.call x r) s fun t =>
      ∃ (q : Fin 26) (k : QCmd) (v : SlipCmd), 4 ≤ q.val ∧ q.val < 8 ∧ queue t q.val = queue s q.val ++ [k]
        ∧ k.push.cmd = .slip v ∧ k.ctx = some x ∧ v.rows = (valOf c 0).toNat ∧ v.cols = (valOf c 1).toNat
        ∧ v.i0 = valOf c 4 ∧ v.i1 = valOf c 5 ∧ (∃ c', ctx t x.val = some c' ∧ c'.st = .run ∧ c'.stack = c.stack) := by
  have hu := execCall_of_slip h h4 hlo hhi hpend
  rw [if_neg (not_or.mpr ⟨h0, h1⟩), doPush_of_enter hjudge] at hu
  obtain ⟨hqueue, -, ⟨c', hc', hkept⟩, -, -⟩ := enterPush_spec x c (routinePush s c r.toNat) regs s
  obtain ⟨v, hv, hr, hc, hi0, hi1⟩ := fixCmd_routine s c r.toNat
  have hq : (routinePush s c r.toNat).queue.val = 4 + (Config.routineWord s.freeCtr 82).toNat % 4 := by
    show (4 + (Config.routineWord s.freeCtr 82).toNat % 4) % 26 = _
    omega
  refine ⟨_, hu, (routinePush s c r.toNat).queue, pushed x c (routinePush s c r.toNat) regs s, v, ?_, ?_, hqueue, hv, rfl, ?_, ?_,
    hi0, hi1, c', hc', hkept.st, hkept.stack⟩
  · omega
  · omega
  · rw [hr, argRows, argCount_of_le (by omega)]
  · rw [hc, argCols, argCount_of_le hcols]

theorem yields_call_deep (h : running s x = some c) (h4 : 4 ≤ c.stack.length) : Yields (.call x r) s (SeqFaults x c 0x13 s) := by
  have hu : execCall x r s = ok (failOp x 0x13 s) := by simp [execCall, h, h4]
  exact ⟨_, hu, seqFaults_failOp h⟩

theorem yields_call_absent (h : running s x = some c) (h4 : c.stack.length < 4) (hr : 0x40 ≤ r.toNat) :
    Yields (.call x r) s (SeqFaults x c 0x15 s) := by
  have hu : execCall x r s = ok (failOp x 0x15 s) := by simp [execCall, h, Nat.not_le.mpr h4, hr]
  exact ⟨_, hu, seqFaults_failOp h⟩

end

theorem yields_ret {pos : U32} {depth : Nat} (h : running s x = some c) (hlast : c.stack.getLast? = some (pos, depth)) :
    Yields (.ret x) s fun t =>
      Issued x (goTo pos { c with stack := c.stack.dropLast, loops := c.loops.take depth }) s t ∧ CtxOnly s t := by
  have hu : execRet x s = ok (issue x (goTo pos { c with
      stack := c.stack.dropLast
      loops := c.loops.take depth }) s) := by
    simp only [execRet, h, hlast]
  exact ⟨_, hu, issued_issue h _⟩

theorem yields_ret_empty (h : running s x = some c) (hnil : c.stack = []) : Yields (.ret x) s (SeqFaults x c 0x14 s) := by
  have hu : execRet x s = ok (failOp x 0x14 s) := by simp only [execRet, h, hnil, List.getLast?_nil]
  exact ⟨_, hu, seqFaults_failOp h⟩

/-! ### Values -/

section
variable {fn d a b : Fin 16}

theorem yields_valueOp {v : U32} (h : running s x = some c) (ha : a.val ∉ c.pendVals) (hb : b.val ∉ c.pendVals)
    (hv : salu fn.val (valOf c a.val) (valOf c b.val) = some v) :
    Yields (.valueOp x fn d a b) s fun t =>
      Issued x (goTo (c.pos + 1#32) { c with vals := tset 0#32 c.vals d.val v }) s t ∧ CtxOnly s t := by
  have hu : execValueOp x fn d a b s = ok (issue x (advance { c with vals := tset 0#32 c.vals d.val v }) s) := by
    rw [execValueOp, h]
    dsimp only
    rw [valSrc_reg ha, valSrc_reg hb]
    dsimp only
    rw [hv, Option.getD_some]
  exact ⟨_, hu, issued_issue h _⟩

theorem yields_valueOp_pending (h : running s x = some c) (ha : a.val ∈ c.pendVals) :
    Yields (.valueOp x fn d a b) s fun t => Waits x c .waitVal (.value a) s t ∧ (∀ i, desc t i = desc s i) := by
  have hsrc : valSrc c (.reg a) = .inr a := if_pos ha
  have hu : execValueOp x fn d a b s = ok (waitFor x c .waitVal (.value a) s) := by
    rw [execValueOp, h]
    dsimp only
    rw [hsrc]
  exact ⟨_, hu, waits_waitFor .., fun i => desc_waitFor ..⟩

end

/-! ### Generators -/

/-- A generator with one of its fields set. -/
def withField (o : Gen) (fld : GenField) (w : U32) : Gen :=
  match fld with
  | .base => { o with base := w }
  | .stride l => { o with strides := tset 0#32 o.strides l.val w }
  | .region r => { o with region := r.val }

theorem yields_generatorSet {g : Fin 8} {v : ValSrc} {w : U32} (fld : GenField) (h : running s x = some c)
    (hv : valSrc c v = .inl w) :
    Yields (.generatorSet x g fld v) s fun t =>
      Issued x (goTo (c.pos + 1#32) { c with gens := tset Gen.reset c.gens g.val (withField (genOf c g.val) fld w) }) s t
      ∧ CtxOnly s t := by
  have hu : execGeneratorSet x g fld v s
      = ok (issue x (advance { c with gens := tset Gen.reset c.gens g.val (withField (genOf c g.val) fld w) }) s) := by
    rw [execGeneratorSet, h]
    dsimp only
    rw [hv]
    cases fld <;> rfl
  exact ⟨_, hu, issued_issue h _⟩

/-- Settles O50: every operation of a running context is issued with what it changes, or faults its context. -/
theorem contextsIssueOperations : Obligations.ContextsIssueOperations := by
  refine ⟨?loop, ?loopReg, ?loopZero, ?loopDeep, ?branch, ?call, ?callEmpty, ?callSlip, ?callDeep, ?callAbsent, ?ret, ?retEmpty,
    ?value, ?valuePending, ?base, ?stride, ?region⟩
  case loop => exact fun _ _ _ _ _ _ h h6 h0 => yields_loopOpen_imm h h6 h0
  case loopReg => exact fun _ _ _ _ _ _ h h6 hr h0 => yields_loopOpen_of_count h h6 (valSrc_reg hr) h0
  case loopZero => exact fun _ _ _ _ _ h h6 => yields_loopOpen_zero h h6
  case loopDeep => exact fun _ _ _ _ _ _ h h6 => yields_loopOpen_deep h h6
  case branch => exact fun _ _ _ _ _ _ _ _ _ h ha hb ht => yields_branch h ha (valSrc_branchSrc hb) ht
  case call => exact fun _ _ _ _ h h4 hr => yields_call h h4 hr
  case callEmpty => exact fun _ _ _ _ h h4 hlo hhi hpend h0 => yields_call_empty h h4 hlo hhi hpend h0
  case callSlip =>
    exact fun _ _ _ _ _ h h4 hlo hhi hpend h0 h1 hrows hcols hjudge =>
      yields_call_slip h h4 hlo hhi hpend h0 h1 hrows hcols hjudge
  case callDeep => exact fun _ _ _ _ h h4 => yields_call_deep h h4
  case callAbsent => exact fun _ _ _ _ h h4 hr => yields_call_absent h h4 hr
  case ret => exact fun _ _ _ _ _ h hlast => yields_ret h hlast
  case retEmpty => exact fun _ _ _ h hnil => yields_ret_empty h hnil
  case value => exact fun _ _ _ _ _ _ _ _ h ha hb hv => yields_valueOp h ha hb hv
  case valuePending => exact fun _ _ _ _ _ _ _ h ha => yields_valueOp_pending h ha
  case base => exact fun _ _ _ _ _ _ h hv => yields_generatorSet .base h hv
  case stride => exact fun _ _ _ _ l _ _ h hv => yields_generatorSet (.stride l) h hv
  case region => exact fun _ _ _ _ r _ _ h hv => yields_generatorSet (.region r) h hv

end Sys2Proof.Machine
end

section
/-! Commands that contexts push: how they enter their queues, wait for them, wake, and leave them (09 R255 to R263). -/

namespace Sys2Proof.Machine

variable {s t u : State} {x : CtxNo} {c : Ctx} {p : Push} {regs : List (Nat × Nat × Bool)}

/-! ### The push -/

/-- A push of a context, which is no routine's. -/
def plain (p : Push) : Push := { p with lib := false }

theorem judgePush_plain (s : State) (x : CtxNo) (c : Ctx) (p : Push) : judgePush s x c (plain p) = judgePush s x c p := rfl

theorem execCommandPush_of_running (h : running s x = some c) : execCommandPush x p s = ok (doPush x c (plain p) s) := by
  rw [execCommandPush, h]
  rfl

theorem execCommandPush_of_enter (h : running s x = some c) (hj : judgePush s x c p = .enter regs) :
    execCommandPush x p s = ok (enterPush x c (plain p) regs s) := by
  rw [execCommandPush_of_running h, doPush_of_enter ((judgePush_plain s x c p).trans hj)]

theorem yields_commandPush (h : running s x = some c) (hj : judgePush s x c p = .enter regs) :
    Yields (.commandPush x p) s fun t =>
      (∃ k : QCmd, queue t p.queue.val = queue s p.queue.val ++ [k] ∧ k.ctx = some x ∧ k.place = c.place
        ∧ k.push = { p with cmd := fixCmd c p.cmd, lib := false } ∧ k.started = false ∧ k.fin = false
        ∧ k.pushNo = tget 0 s.seq.pushNo (pushKey p.queue.val)
        ∧ k.reads = (regs.filter (fun r => !r.2.2)).map (fun r => r.1)
        ∧ k.writes = (regs.filter (fun r => r.2.2)).map (fun r => r.1))
      ∧ (∀ q, q ≠ p.queue.val → queue t q = queue s q)
      ∧ (∃ c', ctx t x.val = some c' ∧ c'.st = .run ∧ c'.vals = c.vals
        ∧ ∀ r, p.value = some r → r.val ∈ c'.pendVals) ∧ (∀ y, y ≠ x.val → ctx t y = ctx s y) := by
  obtain ⟨hqueue, hqueues, ⟨c', hc', hkept⟩, hother, -⟩ := enterPush_spec x c (plain p) regs s
  exact ⟨_, execCommandPush_of_enter h hj, ⟨pushed x c (plain p) regs s, hqueue, rfl, rfl, rfl, rfl, rfl, rfl, rfl, rfl⟩, hqueues,
    ⟨c', hc', hkept.st, hkept.vals rfl, hkept.pend⟩, hother⟩

theorem dirtyOfRank_congr (hm : t.marl.copies = s.marl.copies) (hq : t.ctl.quads = s.ctl.quads) (k r : Nat) :
    dirtyOfRank t k r = dirtyOfRank s k r := by
  have hl : ∀ l, logicalLoc t l = logicalLoc s l := fun l => by rw [logicalLoc, quadMap, hq, logicalLoc, quadMap]
  rw [dirtyOfRank, dirtyWords, hm, dirtyOfRank, dirtyWords]
  simp only [hl]

/-- A grain command as its controller latches it. -/
def latchedP1 (x : CtxNo) (c : Ctx) (p : Push) (v : Nat × GrainSel × P1Kind) (s : State) : P1 :=
  { p1Of x c v with
    dirty := dirtyOfRank s (p.queue.val - 10) v.1
    since := now s
    num := p1Count s }

theorem p1_sentOn {v : Nat × GrainSel × P1Kind} (hv : p1OfCmd p.cmd = some v) (s : State) :
    (bc (sentOn x c p s) (p.queue.val - 10)).p1 = (bc s (p.queue.val - 10)).p1 ++ [latchedP1 x c p v s] := by
  rw [sentOn, hv]
  exact p1_queueP1 ..

theorem yields_commandPush_p1 {v : Nat × GrainSel × P1Kind} (h : running s x = some c) (hj : judgePush s x c p = .enter regs)
    (hv : p1OfCmd p.cmd = some v) :
    Yields (.commandPush x p) s fun t =>
      (∃ k : P1, (bc t (p.queue.val - 10)).p1 = (bc s (p.queue.val - 10)).p1 ++ [k] ∧ k.rank = v.1 ∧ k.sel = v.2.1
        ∧ k.kind = v.2.2 ∧ k.ctx = some x ∧ k.place = some c.place ∧ k.func = c.func ∧ k.issued = false
        ∧ k.dirty = dirtyOfRank s (p.queue.val - 10) v.1)
      ∧ (queue t p.queue.val).length = (queue s p.queue.val).length + 1 := by
  obtain ⟨hqueue, -, -, -, hctl⟩ := enterPush_spec x c (plain p) regs s
  have hp1 := p1_sentOn (x := x) (c := c) (p := plain p) hv (enqueued x c (plain p) regs s)
  obtain ⟨_, _, henq⟩ := enqueued_frame x c (plain p) regs s
  have hold : bc (enqueued x c (plain p) regs s) (p.queue.val - 10) = bc s (p.queue.val - 10) := by
    rw [henq]
    rfl
  have hdirty : dirtyOfRank (enqueued x c (plain p) regs s) (p.queue.val - 10) v.1 = dirtyOfRank s (p.queue.val - 10) v.1 :=
    dirtyOfRank_congr (by rw [henq]) (by rw [henq]) ..
  have hlatched : (bc (enterPush x c (plain p) regs s) (p.queue.val - 10)).p1
      = (bc s (p.queue.val - 10)).p1 ++ [latchedP1 x c p v (enqueued x c (plain p) regs s)] := by
    rw [bc, hctl, ← bc, ← hold]
    exact hp1
  refine ⟨_, execCommandPush_of_enter h hj, ⟨_, hlatched, rfl, rfl, rfl, rfl, rfl, rfl, rfl, hdirty⟩, ?_⟩
  rw [show queue (enterPush x c (plain p) regs s) p.queue.val = queue s p.queue.val ++ [pushed x c (plain p) regs s] from hqueue,
    List.length_append, List.length_singleton]

theorem yields_commandPush_foreign (h : running s x = some c) (hq : queueCarries p.queue.val p.cmd = false) :
    Yields (.commandPush x p) s (SeqFaults x c 0x10 s) := by
  have hj : judgePush s x c p = .fault 0x10 := by
    rw [judgePush, hq]
    rfl
  have hu : execCommandPush x p s = ok (failOp x 0x10 s) := by
    rw [execCommandPush_of_running h, doPush, judgePush_plain, hj]
  exact ⟨_, hu, seqFaults_failOp h⟩

theorem queue_waitFor (st : CState) (w : WaitFor) (q : Nat) : queue (waitFor x c st w s) q = queue s q := by
  unfold waitFor
  dsimp only
  split <;> rfl

theorem yields_commandPush_full (h : running s x = some c) (hj : judgePush s x c p = .full) :
    Yields (.commandPush x p) s fun t =>
      Waits x c .waitQ (.push { p with lib := false }) s t ∧ (∀ q, queue t q = queue s q) := by
  have hu : execCommandPush x p s = ok (waitFor x c .waitQ (.push (plain p)) s) := by
    rw [execCommandPush_of_running h, doPush, judgePush_plain, hj]
  exact ⟨_, hu, waits_waitFor .., fun q => queue_waitFor ..⟩

/-! ### The wake -/

theorem yields_contextWake_push (hc : ctx s x.val = some c) (hst : c.st = .waitQ) (hw : c.wait = .push p)
    (hj : judgePush s x c p = .enter regs) :
    Yields (.contextWake x) s fun t =>
      (∃ c', ctx t x.val = some c' ∧ c'.st = .run ∧ c'.wait = .nothing)
      ∧ (∃ k : QCmd, queue t p.queue.val = queue s p.queue.val ++ [k] ∧ k.ctx = some x) := by
  have hu : execContextWake x s = ok (enterPush x c p regs s) := by
    rw [execContextWake, hc]
    dsimp only
    rw [hst, hw]
    dsimp only
    rw [hj, if_neg (by simp), doPush_of_enter hj]
  obtain ⟨hqueue, -, ⟨c', hc', hkept⟩, -, -⟩ := enterPush_spec x c p regs s
  exact ⟨_, hu, ⟨c', hc', hkept.st, hkept.wait⟩, _, hqueue, rfl⟩

theorem yields_contextWake_value {r : Fin 16} (hc : ctx s x.val = some c) (hst : c.st = .waitVal) (hw : c.wait = .value r)
    (hr : r.val ∉ c.pendVals) :
    Yields (.contextWake x) s fun t =>
      ctx t x.val = some { c with st := .run, wait := .nothing, since := now s } ∧ (∀ y, y ≠ x.val → ctx t y = ctx s y)
      ∧ t = { s with seq := { s.seq with ctxs := t.seq.ctxs } } := by
  have hu : execContextWake x s = ok (moveCtx x.val { c with wait := .nothing } .run s) := by
    rw [execContextWake, hc]
    dsimp only
    rw [hst, hw]
    dsimp only
    rw [if_neg hr]
  exact ⟨_, hu, ctx_setCtx_self .., fun y hy => ctx_setCtx_ne _ _ _ _ hy, rfl⟩

/-! ### The completion -/

section
variable {k : QCmd} {rest : List QCmd} {q : QueueNo}

/-- A queue that its head has left: the next stands at the head from now on. -/
def behindHead (at_ : U64) (rest : List QCmd) : List QCmd :=
  match rest with
  | e :: more => { e with since := at_ } :: more
  | [] => []

theorem length_behindHead (at_ : U64) (rest : List QCmd) : (behindHead at_ rest).length = rest.length := by
  cases rest <;> rfl

theorem mem_behindHead {at_ : U64} {rest : List QCmd} {e : QCmd} (h : e ∈ behindHead at_ rest) :
    ∃ e' ∈ rest, e' = { e with since := e'.since } := by
  cases rest with
  | nil => cases h
  | cons a more =>
    rcases List.mem_cons.mp h with rfl | hm
    · exact ⟨a, List.mem_cons_self, rfl⟩
    · exact ⟨e, List.mem_cons_of_mem _ hm, rfl⟩

theorem completeCtx_frame (k : QCmd) (c : Ctx) (n : Nat) :
    (completeCtx k c n).st = c.st ∧ (completeCtx k c n).pos = c.pos
    ∧ ∀ v r, k.push.value = some v → k.result = some r → tget 0#32 (completeCtx k c n).vals v.val = r := by
  unfold completeCtx
  dsimp only
  cases hv : k.push.value with
  | none => exact ⟨rfl, rfl, fun v r h => nomatch h⟩
  | some v0 =>
    refine ⟨rfl, rfl, fun v r h hr => ?_⟩
    cases h
    rw [hr]
    exact tget_tset_self ..

/-- The context of a completed command is told of it. -/
def toldCtx (x : CtxNo) (k : QCmd) (n : Nat) (s : State) : State :=
  match ctx s x.val with
  | none => s
  | some c =>
    let s2 := setCtx x.val (completeCtx k c n) s
    settleCtx x (if k.push.value.isSome && k.result.isNone then takeFree s2 else s2)

theorem completeFlag_of_none (hflag : p.flag = none) (s : State) : completeFlag x p s = s := by rw [completeFlag, hflag]

/-- The head of a queue with no flag and no wire completes: the queue goes on without it, and its context is told. -/
theorem completeCmd_of_head (hq : queue s q.val = k :: rest) (hx : k.ctx = some x) (hflag : k.push.flag = none)
    (hwire : k.push.wire = none) :
    completeCmd q.val k s = toldCtx x k s.freeCtr (setQueue q.val (behindHead (now s) rest) s) := by
  unfold completeCmd
  dsimp only
  simp only [hq, List.erase_cons_head, List.head?_cons, if_true, hx, hwire, completeFlag_of_none hflag]
  cases rest <;> rfl

theorem toldCtx_spec (x : CtxNo) (k : QCmd) (n : Nat) (s : State) :
    (∀ q, queue (toldCtx x k n s) q = queue s q)
    ∧ ∀ c, ctx s x.val = some c → ctx (toldCtx x k n s) x.val = some (completeCtx k c n) := by
  unfold toldCtx
  split
  · next hnone => exact ⟨fun _ => rfl, fun c hc => nomatch hnone.symm.trans hc⟩
  · next c hsome =>
    dsimp only
    have hfree : ∀ u : State, (if (k.push.value.isSome && k.result.isNone) = true then takeFree u else u).seq = u.seq := fun u => by
      split <;> rfl
    generalize hv : (if (k.push.value.isSome && k.result.isNone) = true then takeFree (setCtx x.val (completeCtx k c n) s)
      else setCtx x.val (completeCtx k c n) s) = v
    have hseq : v.seq = (setCtx x.val (completeCtx k c n) s).seq := by rw [← hv, hfree]
    refine ⟨fun q => ?_, fun e he => ?_⟩
    · rw [settleCtx_frame, queue, hseq]
      rfl
    · cases hsome.symm.trans he
      rw [ctx_settleCtx, ctx, hseq]
      exact tfind_tput_self ..

theorem yields_engineCommandComplete (hq : queue s q.val = k :: rest) (hfin : k.fin = true) (hx : k.ctx = some x)
    (hflag : k.push.flag = none) (hwire : k.push.wire = none) :
    Yields (.engineCommandComplete q) s fun t =>
      (queue t q.val).length = rest.length ∧ (∀ e ∈ queue t q.val, ∃ e' ∈ rest, e' = { e with since := e'.since })
      ∧ (∀ r, r ≠ q.val → queue t r = queue s r)
      ∧ ∀ c, ctx s x.val = some c → ∃ c', ctx t x.val = some c' ∧ c'.st = c.st ∧ c'.pos = c.pos
          ∧ ∀ v r, k.push.value = some v → k.result = some r → tget 0#32 c'.vals v.val = r := by
  have hnext : nextDone s q.val = some k := by simp [nextDone, hq, hfin]
  have hu : execEngineCommandComplete q s = ok (toldCtx x k s.freeCtr (setQueue q.val (behindHead (now s) rest) s)) := by
    rw [execEngineCommandComplete, hnext]
    dsimp only
    rw [if_pos hfin, finishHead, completeCmd_of_head hq hx hflag hwire, hx]
    rfl
  obtain ⟨hqueues, hctx⟩ := toldCtx_spec x k s.freeCtr (setQueue q.val (behindHead (now s) rest) s)
  have hself : queue (toldCtx x k s.freeCtr (setQueue q.val (behindHead (now s) rest) s)) q.val = behindHead (now s) rest :=
    (hqueues _).trans (tget_tset_self ..)
  refine ⟨_, hu, by rw [hself, length_behindHead], fun e he => mem_behindHead (hself ▸ he),
    fun r hr => (hqueues r).trans (tget_tset_ne _ _ _ _ _ hr), fun c hc => ?_⟩
  obtain ⟨hst, hpos, hvals⟩ := completeCtx_frame k c s.freeCtr
  exact ⟨_, hctx c hc, hst, hpos, hvals⟩

end

/-- Settles O51: a push enters its queue, waits where it is full, and its command leaves the queue complete. -/
theorem pushesEnterQueues : Obligations.PushesEnterQueues := by
  refine ⟨?enters, ?grain, ?foreign, ?full, ?wakePush, ?wakeValue, ?complete⟩
  case enters => exact fun _ _ _ _ _ h hj _ => yields_commandPush h hj
  case grain => exact fun _ _ _ _ _ _ h hj hv => yields_commandPush_p1 h hj hv
  case foreign => exact fun _ _ _ _ h hq => yields_commandPush_foreign h hq
  case full => exact fun _ _ _ _ h hj => yields_commandPush_full h hj
  case wakePush => exact fun _ _ _ _ _ hc hst hw hj _ => yields_contextWake_push hc hst hw hj
  case wakeValue => exact fun _ _ _ _ hc hst hw hr => yields_contextWake_value hc hst hw hr
  case complete => exact fun _ _ _ _ _ hq hfin hx hflag hwire => yields_engineCommandComplete hq hfin hx hflag hwire

end Sys2Proof.Machine
end

section
/-! The flag operations of contexts: sets, clears, waits, and the set of a peer's flag (12 R323 to R326). -/

namespace Sys2Proof.Machine

variable {s t u : State} {x y : CtxNo} {c e : Ctx} {sp : FlagSpace} {n i : Nat}

/-! ### A flag that nothing waits on -/

theorem waitsOn_of_unwatched (h : unwatched s sp n = true) (hy : y ∈ s.seq.waits) :
    waitsOn s y sp n true false = false ∧ waitsOn s y sp n false false = false ∧ waitsOn s y sp n true true = false := by
  have hall := List.all_eq_true.mp h y hy
  simpa [and_assoc] using hall

theorem judgeWaits_of_unwatched (h : unwatched s sp n = true) : judgeWaits sp n s = s := by
  have hplain : s.seq.waits.filter (fun x => waitsOn s x sp n (getFlag s sp n).value false) = [] := by
    rw [List.filter_eq_nil_iff]
    intro y hy
    obtain ⟨htrue, hfalse, -⟩ := waitsOn_of_unwatched h hy
    cases (getFlag s sp n).value with
    | true => rw [htrue]; exact Bool.false_ne_true
    | false => rw [hfalse]; exact Bool.false_ne_true
  have heater : (if (getFlag s sp n).value then s.seq.waits.find? (fun x => waitsOn s x sp n true true) else none) = none := by
    split
    · rw [List.find?_eq_none]
      intro y hy
      rw [(waitsOn_of_unwatched h hy).2.2]
      exact Bool.false_ne_true
    · rfl
  simp only [judgeWaits, heater, hplain, List.foldl_nil]

theorem unwatched_putFlag (x : Flag) : unwatched (putFlag sp n x s) sp n = unwatched s sp n := by
  rw [unwatched, unwatched, seq_waits_putFlag]
  simp only [waitsOn_putFlag]

theorem setFlag_of_unwatched (k : Fin 8) (h : unwatched s sp n = true) :
    setFlag sp n k s = putFlag sp n { getFlag s sp n with
      value := true
      setter := k
      setMtb := now s
      sets := sat16 (getFlag s sp n).sets } s := by
  rw [setFlag, judgeWaits_of_unwatched ((unwatched_putFlag _).trans h)]

theorem clearFlag_of_unwatched (h : unwatched s sp n = true) :
    clearFlag sp n s = putFlag sp n { getFlag s sp n with
      value := false
      clearMtb := now s
      clears := sat16 (getFlag s sp n).clears } s := by
  rw [clearFlag, judgeWaits_of_unwatched ((unwatched_putFlag _).trans h)]

/-! ### From an issue to the flag -/

/-- Between two states only the context x, which runs in both, the latches and the log may have changed: every flag and every
wait stands as it was. -/
structure FlagsStay (x : CtxNo) (s t : State) : Prop where
  clk : t.clk = s.clk
  localF : t.seq.localF = s.seq.localF
  sharedF : t.seq.sharedF = s.seq.sharedF
  clearedAt : t.seq.clearedAt = s.seq.clearedAt
  waits : t.seq.waits = s.seq.waits
  others : ∀ y, y ≠ x.val → ctx t y = ctx s y
  before : ∀ e, ctx s x.val = some e → e.st ≠ .waitFlag
  after : ∀ e, ctx t x.val = some e → e.st ≠ .waitFlag

namespace FlagsStay

theorem getFlag (h : FlagsStay x s t) (sp : FlagSpace) (n : Nat) : getFlag t sp n = getFlag s sp n := by
  cases sp with
  | loc => simp only [Machine.getFlag, localFlag, h.localF, h.clearedAt]
  | shared => simp only [Machine.getFlag, sharedFlag, h.sharedF, h.clearedAt]

theorem now (h : FlagsStay x s t) : now t = now s := by rw [Machine.now, h.clk, Machine.now]

theorem waitsOn_self {v : State} (hv : ∀ e, ctx v x.val = some e → e.st ≠ .waitFlag) (sp : FlagSpace) (n : Nat) (a b : Bool) :
    waitsOn v x sp n a b = false := by
  rw [waitsOn]
  split
  · next e he => rw [decide_eq_false (hv e he), Bool.false_and]
  · rfl

theorem waitsOn (h : FlagsStay x s t) (y : CtxNo) (sp : FlagSpace) (n : Nat) (a b : Bool) :
    waitsOn t y sp n a b = waitsOn s y sp n a b := by
  by_cases hy : y = x
  · subst hy
    rw [waitsOn_self h.after, waitsOn_self h.before]
  · have hctx := h.others y.val fun hv => hy (Fin.ext hv)
    rw [Machine.waitsOn, hctx, ← Machine.waitsOn]

theorem unwatched (h : FlagsStay x s t) (sp : FlagSpace) (n : Nat) : unwatched t sp n = unwatched s sp n := by
  rw [Machine.unwatched, h.waits]
  simp only [h.waitsOn]
  rfl

end FlagsStay

theorem flagsStay_of_issued {o : Ctx} (h : running s x = some o) (hst : c.st = .run) (hi : Issued x c s t) (ho : CtxOnly s t) :
    FlagsStay x s t := by
  obtain ⟨hctx, hrun⟩ := ctx_of_running h
  rw [CtxOnly] at ho
  refine ⟨by rw [ho], by rw [ho], by rw [ho], by rw [ho], by rw [ho], hi.2, fun e he => ?_, fun e he => ?_⟩
  · cases hctx.symm.trans he
    rw [hrun]
    decide
  · cases hi.1.symm.trans he
    rw [hst]
    decide

theorem noteFlagOp_frame (sp : FlagSpace) (n : Nat) (f : Func) (p : Place) (s : State) :
    noteFlagOp sp n f p s = { s with
      out := (noteFlagOp sp n f p s).out
      log := (noteFlagOp sp n f p s).log
      cnt := (noteFlagOp sp n f p s).cnt } := by
  unfold noteFlagOp
  split
  · rfl
  · dsimp only
    split
    · split
      · rfl
      · rw [logCollision_eq]
        rfl
    · rfl

theorem FlagsStay.noted (h : FlagsStay x s t) (sp : FlagSpace) (n : Nat) (f : Func) (p : Place) :
    FlagsStay x s (noteFlagOp sp n f p t) := by
  rw [noteFlagOp_frame]
  exact ⟨h.clk, h.localF, h.sharedF, h.clearedAt, h.waits, h.others, h.before, h.after⟩

theorem st_advance (c : Ctx) : (advance c).st = c.st := by rw [advance, goTo_frame]

/-- An issue of a running context moves no flag. -/
theorem flagsStay_issue (h : running s x = some c) : FlagsStay x s (issue x (advance c) s) := by
  obtain ⟨hi, ho⟩ := issued_issue h (advance c)
  exact flagsStay_of_issued h ((st_advance c).trans (ctx_of_running h).2) hi ho

theorem ctx_putFlag (f : Flag) (k : Nat) : ctx (putFlag sp n f s) k = ctx s k := by cases sp <;> rfl

/-- A context's context table after its flag is put: it stands as it was issued. -/
theorem issued_of_ctxs (hi : Issued x c s u) (h : ∀ k, ctx t k = ctx u k) : Issued x c s t :=
  ⟨(h _).trans hi.1, fun y hy => (h y).trans (hi.2 y hy)⟩

/-! ### Sets, clears and waits -/

section
variable {act : Ctx → Nat → Host.Outcome State Fault Refusal} {wait want : Bool}

theorem onFlag_of_named (h : running s x = some c) (hi : ctxFlag s x c.func sp n wait = some i) (hf : wordFaulted s sp i = false) :
    onFlag x sp n wait s act = act c i := by
  rw [onFlag, h]
  dsimp only
  rw [hi]
  dsimp only
  rw [hf, if_neg Bool.false_ne_true]

theorem onFlag_of_foreign (h : running s x = some c) (hi : ctxFlag s x c.func sp n wait = none) :
    onFlag x sp n wait s act = ok (failOp x 0x18 s) := by
  rw [onFlag, h]
  dsimp only
  rw [hi]

theorem countSet_frame (sp : FlagSpace) (f : Func) (s : State) : countSet sp f s = { s with cnt := (countSet sp f s).cnt } := by
  cases sp <;> rfl

theorem yields_flagSet (h : running s x = some c) (hi : ctxFlag s x c.func sp n false = some i) (hf : wordFaulted s sp i = false)
    (hw : unwatched s sp i = true) :
    Yields (.flagSet x sp n) s fun t =>
      (getFlag t sp i).value = true ∧ (getFlag t sp i).setter = 0 ∧ (getFlag t sp i).setMtb = now s
      ∧ (getFlag t sp i).sets = sat16 (getFlag s sp i).sets ∧ (getFlag t sp i).clears = (getFlag s sp i).clears
      ∧ OtherFlags sp i s t ∧ Issued x (goTo (c.pos + 1#32) c) s t := by
  have hu : execFlagSet x sp n s
      = ok (countSet sp c.func (setFlag sp i 0 (noteFlagOp sp i c.func c.place (issue x (advance c) s)))) := onFlag_of_named h hi hf
  have hissued := (issued_issue h (advance c)).1
  have hstay := (flagsStay_issue h).noted sp i c.func c.place
  have hctxs : ∀ k, ctx (noteFlagOp sp i c.func c.place (issue x (advance c) s)) k = ctx (issue x (advance c) s) k := fun k => by
    rw [noteFlagOp_frame]
    rfl
  generalize noteFlagOp sp i c.func c.place (issue x (advance c) s) = v at hu hstay hctxs
  rw [setFlag_of_unwatched 0 ((hstay.unwatched sp i).trans hw)] at hu
  generalize hput : putFlag sp i { getFlag v sp i with
      value := true
      setter := 0
      setMtb := now v
      sets := sat16 (getFlag v sp i).sets } v = w at hu
  have hget : ∀ q m, getFlag (countSet sp c.func w) q m = getFlag w q m := fun q m => by
    rw [countSet_frame]
    cases q <;> rfl
  have hself : getFlag (countSet sp c.func w) sp i = { getFlag s sp i with
      value := true
      setter := 0
      setMtb := now s
      sets := sat16 (getFlag s sp i).sets } := by
    rw [hget, ← hput, getFlag_putFlag_self, hstay.getFlag, hstay.now]
  refine ⟨_, hu, by rw [hself], by rw [hself], by rw [hself], by rw [hself], by rw [hself], fun q m hne => ?_, ?_⟩
  · rw [hget, ← hput, getFlag_putFlag_ne _ hne, hstay.getFlag]
  · refine issued_of_ctxs hissued fun k => ?_
    rw [countSet_frame, ← hput]
    exact (ctx_putFlag ..).trans (hctxs k)

/-- What a clear by an issued operation leaves, from a state in which every flag stands as at the start. -/
theorem cleared_of_flagsStay {v : State} (hstay : FlagsStay x s v) (hw : unwatched s sp i = true) :
    getFlag (clearFlag sp i v) sp i = { getFlag s sp i with
      value := false
      clearMtb := now s
      clears := sat16 (getFlag s sp i).clears }
    ∧ OtherFlags sp i s (clearFlag sp i v) ∧ ∀ k, ctx (clearFlag sp i v) k = ctx v k := by
  refine ⟨?_, fun q m hne => ?_, fun k => ?_⟩
  · rw [getFlag_clearFlag, hstay.getFlag, hstay.now]
  · rw [getFlag_clearFlag_ne hne, hstay.getFlag]
  · rw [clearFlag_of_unwatched ((hstay.unwatched sp i).trans hw), ctx_putFlag]

theorem yields_flagClear (h : running s x = some c) (hi : ctxFlag s x c.func sp n false = some i) (hf : wordFaulted s sp i = false)
    (hw : unwatched s sp i = true) :
    Yields (.flagClear x sp n) s fun t =>
      (getFlag t sp i).value = false ∧ (getFlag t sp i).clearMtb = now s
      ∧ (getFlag t sp i).clears = sat16 (getFlag s sp i).clears ∧ (getFlag t sp i).sets = (getFlag s sp i).sets
      ∧ OtherFlags sp i s t ∧ Issued x (goTo (c.pos + 1#32) c) s t := by
  have hu : execFlagClear x sp n s
      = ok (clearFlag sp i (noteFlagOp sp i c.func c.place (issue x (advance c) s))) := onFlag_of_named h hi hf
  have hissued := (issued_issue h (advance c)).1
  have hctxs : ∀ k, ctx (noteFlagOp sp i c.func c.place (issue x (advance c) s)) k = ctx (issue x (advance c) s) k := fun k => by
    rw [noteFlagOp_frame]
    rfl
  obtain ⟨hself, hother, hkept⟩ := cleared_of_flagsStay ((flagsStay_issue h).noted sp i c.func c.place) hw
  exact ⟨_, hu, by rw [hself], by rw [hself], by rw [hself], by rw [hself], hother,
    issued_of_ctxs hissued fun k => (hkept k).trans (hctxs k)⟩

theorem yields_flagSet_foreign (h : running s x = some c) (hi : ctxFlag s x c.func sp n false = none) :
    Yields (.flagSet x sp n) s (SeqFaults x c 0x18 s) :=
  ⟨_, (show execFlagSet x sp n s = ok (failOp x 0x18 s) from onFlag_of_foreign h hi), seqFaults_failOp h⟩

theorem yields_flagWait (h : running s x = some c) (hi : ctxFlag s x c.func sp n true = some i) (hf : wordFaulted s sp i = false)
    (hv : (getFlag s sp i).value = want) :
    Yields (.flagWait x sp n want) s fun t => Issued x (goTo (c.pos + 1#32) c) s t ∧ CtxOnly s t := by
  have hu : execFlagWait x sp n want s = ok (issue x (advance c) s) := (onFlag_of_named h hi hf).trans (if_pos hv)
  exact ⟨_, hu, issued_issue h _⟩

theorem yields_flagWait_other (h : running s x = some c) (hi : ctxFlag s x c.func sp n true = some i)
    (hf : wordFaulted s sp i = false) (hv : (getFlag s sp i).value ≠ want) :
    Yields (.flagWait x sp n want) s (Waits x c .waitFlag (.flagIs sp i want false) s) := by
  have hu : execFlagWait x sp n want s = ok (waitFor x c .waitFlag (.flagIs sp i want false) s) :=
    (onFlag_of_named h hi hf).trans (if_neg hv)
  exact ⟨_, hu, waits_waitFor ..⟩

theorem yields_flagWaitConsume (h : running s x = some c) (hi : ctxFlag s x c.func sp n true = some i)
    (hf : wordFaulted s sp i = false) (hv : (getFlag s sp i).value = true) (hw : unwatched s sp i = true) :
    Yields (.flagWaitConsume x sp n) s fun t =>
      (getFlag t sp i).value = false ∧ (getFlag t sp i).clears = sat16 (getFlag s sp i).clears ∧ OtherFlags sp i s t
      ∧ Issued x (goTo (c.pos + 1#32) c) s t := by
  have hu : execFlagWaitConsume x sp n s = ok (clearFlag sp i (issue x (advance c) s)) :=
    (onFlag_of_named h hi hf).trans (if_pos hv)
  obtain ⟨hself, hother, hkept⟩ := cleared_of_flagsStay (flagsStay_issue h) hw
  exact ⟨_, hu, by rw [hself], by rw [hself], hother, issued_of_ctxs (issued_issue h (advance c)).1 hkept⟩

end

/-! ### A set that a consuming wait takes -/

/-- One context alone waits, and consumes the flag: a set clears it again, and the context's wait has ended. -/
theorem judgeWaits_of_consumer (hwaits : s.seq.waits = [y]) (he : ctx s y.val = some e) (hst : e.st = .waitFlag)
    (hwait : e.wait = .flagIs sp i true true) (hv : (getFlag s sp i).value = true) :
    ∃ f : Flag, f.value = false ∧ judgeWaits sp i s = putFlag sp i f (endWait y s) := by
  have hon : ∀ b, waitsOn s y sp i true b = b := fun b => by
    rw [waitsOn, he]
    cases b <;> simp [hst, hwait]
  have hfilter : s.seq.waits.filter (fun x => waitsOn s x sp i true false) = [] := by
    rw [hwaits, List.filter_cons_of_neg (by rw [hon]; exact Bool.false_ne_true), List.filter_nil]
  have hfind : s.seq.waits.find? (fun x => waitsOn s x sp i true true) = some y := by
    rw [hwaits]
    exact List.find?_cons_of_pos (hon true)
  have hgone : (endWait y s).seq.waits = [] := by
    rw [endWait, he]
    simp [hwaits]
  refine ⟨{ getFlag s sp i with value := false, clearMtb := now s, clears := sat16 (getFlag s sp i).clears }, rfl, ?_⟩
  rw [judgeWaits]
  simp only [hv, if_true, hfilter, List.foldl_nil, hfind, seq_waits_putFlag, hgone, List.filter_nil]

theorem yields_flagSet_consumed (h : running s x = some c) (hi : ctxFlag s x c.func .shared n false = some i)
    (hf : wordFaulted s .shared i = false) (hyx : y ≠ x) (hwaits : s.seq.waits = [y]) (he : ctx s y.val = some e)
    (hst : e.st = .waitFlag) (hwait : e.wait = .flagIs .shared i true true) :
    Yields (.flagSet x .shared n) s fun t =>
      (getFlag t .shared i).value = false ∧ ctx t y.val = some { e with wait := .nothing } ∧ t.seq.waits = [] := by
  have hu : execFlagSet x .shared n s
      = ok (countSet .shared c.func (setFlag .shared i 0 (noteFlagOp .shared i c.func c.place (issue x (advance c) s)))) :=
    onFlag_of_named h hi hf
  have hstay := (flagsStay_issue h).noted .shared i c.func c.place
  generalize noteFlagOp .shared i c.func c.place (issue x (advance c) s) = v at hu hstay
  rw [setFlag] at hu
  generalize hw : putFlag .shared i { getFlag v .shared i with
      value := true
      setter := 0
      setMtb := now v
      sets := sat16 (getFlag v .shared i).sets } v = w at hu
  have hew : ctx w y.val = some e := by
    rw [← hw, ctx_putFlag, hstay.others y.val fun hv => hyx (Fin.ext hv), he]
  have hww : w.seq.waits = [y] := by rw [← hw, seq_waits_putFlag, hstay.waits, hwaits]
  obtain ⟨f, hfalse, hjudge⟩ := judgeWaits_of_consumer (sp := .shared) (i := i) hww hew hst hwait
    (by rw [← hw, getFlag_putFlag_self])
  rw [hjudge] at hu
  have hend : endWait y w = { setCtx y.val { e with wait := .nothing } w with
      seq := { (setCtx y.val { e with wait := .nothing } w).seq with waits := w.seq.waits.filter (fun z => decide (z ≠ y)) } } := by
    rw [endWait, hew]
  refine ⟨_, hu, ?_, ?_, ?_⟩
  · have hget : getFlag (countSet .shared c.func (putFlag .shared i f (endWait y w))) .shared i = f :=
      getFlag_putFlag_self (sp := .shared) (n := i) f
    rw [hget, hfalse]
  · rw [countSet_frame]
    refine (ctx_putFlag (sp := .shared) (n := i) f y.val).trans ?_
    rw [hend]
    exact ctx_setCtx_self ..
  · rw [countSet_frame]
    refine (seq_waits_putFlag (sp := .shared) (n := i) f).trans ?_
    rw [hend]
    simp [hww]

/-! ### The set of a peer's flag -/

/-- A context with one reply more to come. -/
def countedSet (x : CtxNo) (u : State) : State :=
  match ctx u x.val with
  | some c => setCtx x.val { c with sets := c.sets + 1 } u
  | none => u

theorem yields_remoteSignal {dst : Byte} (h : running s x = some c) (hne : ownPos s ≠ some dst)
    (ho : originate dst c.place (.flagSet (BitVec.ofNat 14 n) false) none (issue x (advance c) s) = some u) :
    Yields (.remoteSignal x n dst) s fun t =>
      t.lnk = u.lnk ∧ (∀ c', ctx u x.val = some c' → ctx t x.val = some { c' with sets := c'.sets + 1 }) := by
  have hu : execRemoteSignal x n dst s = ok (countedSet x u) := by
    rw [execRemoteSignal, h]
    dsimp only
    rw [if_neg hne, ho]
    dsimp only
    rw [countedSet]
    cases ctx u x.val <;> rfl
  refine ⟨_, hu, ?_, fun c' hc' => ?_⟩
  · rw [countedSet]
    split <;> rfl
  · rw [countedSet, hc']
    exact ctx_setCtx_self ..

/-- An issue may mark a descriptor, and drops none. -/
theorem desc_issue {p : Place} {d : Desc} (hd : desc s p = some d) (c : Ctx) : ∃ d', desc (issue x c s) p = some d' := by
  have hclip : ∀ (q : Place) b (v : State), desc v p = some d → ∃ d', desc (clipDesc q b v) p = some d' := by
    intro q b v hv
    unfold clipDesc
    split
    · split
      · by_cases hp : p = q
        · subst hp
          exact ⟨_, desc_setDesc_self ..⟩
        · exact ⟨d, (desc_setDesc_ne v q p _ hp).trans hv⟩
      · exact ⟨d, hv⟩
    · exact ⟨d, hv⟩
  exact hclip _ _ _ hd

theorem yields_remoteSignal_noPlan {dst : Byte} (h : running s x = some c) (hplan : s.lnk.plan = none) :
    Yields (.remoteSignal x n dst) s fun t =>
      Issued x (goTo (c.pos + 1#32) c) s t ∧ (∀ d, desc s c.place = some d → ∃ e, desc t c.place = some e ∧ .linkDown ∈ e.conds) := by
  have hown : ownPos s = none := by rw [ownPos, hplan]; rfl
  obtain ⟨hi, ho⟩ := issued_issue h (advance c)
  have hu : execRemoteSignal x n dst s = ok (addCond c.place .linkDown (issue x (advance c) s)) := by
    have hnone : ownPos (issue x (advance c) s) = none := by
      rw [ho]
      exact hown
    have horig : originate dst c.place (.flagSet (BitVec.ofNat 14 n) false) none (issue x (advance c) s) = none := by
      rw [originate, hnone]
    rw [execRemoteSignal, h]
    dsimp only
    rw [if_neg (by rw [hown]; exact nofun), horig]
  refine ⟨_, hu, issued_of_ctxs hi fun k => by rw [addCond_frame]; rfl, fun d hd => ?_⟩
  obtain ⟨d', hd'⟩ := desc_issue (x := x) hd (advance c)
  rw [addCond_of_desc _ hd']
  exact ⟨_, desc_setDesc_self .., mem_addStatus (by decide)⟩

/-- Settles O52: an operation on a flag is issued with the set, the clear or the wait that it is, or faults its context. -/
theorem flagsAreOperated : Obligations.FlagsAreOperated := by
  refine ⟨?set_, ?clear, ?foreign, ?holds, ?other, ?consume, ?consumed, ?remote, ?noPlan⟩
  case set_ => exact fun _ _ _ _ _ _ h hi hf hw => yields_flagSet h hi hf hw
  case clear => exact fun _ _ _ _ _ _ h hi hf hw => yields_flagClear h hi hf hw
  case foreign => exact fun _ _ _ _ _ h hi => yields_flagSet_foreign h hi
  case holds => exact fun _ _ _ _ _ _ _ h hi hf hv => yields_flagWait h hi hf hv
  case other => exact fun _ _ _ _ _ _ _ h hi hf hv => yields_flagWait_other h hi hf hv
  case consume => exact fun _ _ _ _ _ _ h hi hf hv hw => yields_flagWaitConsume h hi hf hv hw
  case consumed =>
    exact fun _ _ _ _ _ _ _ h hi hf hyx hwaits he hst hwait => yields_flagSet_consumed h hi hf hyx hwaits he hst hwait
  case remote => exact fun _ _ _ _ _ _ h hne ho => yields_remoteSignal h hne ho
  case noPlan => exact fun _ _ _ _ _ h hplan => yields_remoteSignal_noPlan h hplan

end Sys2Proof.Machine
end

section
/-! The loops of the power governor: the ramp, the clocks, the channels' frequency and the links' rate (16 Table 16.3, R421 to
R424, 15 R408). -/

namespace Sys2Proof.Machine

variable {s t u : State}

/-! ### A loop that changes state -/

/-- A loop's change moves its record, the log and what a log entry signals. -/
theorem setLoop_frame (i : Nat) (loc : U16) (active over_ : Bool) (setting : Nat) (s : State) :
    setLoop i loc active over_ setting s = { s with
      pwr := { s.pwr with loops := (setLoop i loc active over_ setting s).pwr.loops }
      out := (setLoop i loc active over_ setting s).out
      log := (setLoop i loc active over_ setting s).log
      cnt := (setLoop i loc active over_ setting s).cnt } := by
  unfold setLoop
  dsimp only
  split
  · rfl
  · rw [logDev, logAs_eq]

/-- A loop's record with its change. -/
def loopPut (i : Nat) (active over_ : Bool) (setting : Nat) (s : State) : State :=
  { s with pwr := { s.pwr with loops := tset LoopRec.reset s.pwr.loops i { loopRec s i with
      active := active
      overruled := (loopRec s i).overruled || over_
      setting := BitVec.ofNat 32 setting
      changed := now s } } }

theorem setLoop_of_change {i setting : Nat} {loc : U16} {active over_ : Bool} (h : (loopRec s i).active ≠ active) :
    setLoop i loc active over_ setting s
      = logDev 0x07 i loc (bitIf active 0 + bitIf over_ 1 + (BitVec.ofNat 32 setting).toNat * 2 ^ 32) (loopRec s i).heldNs.toNat
          (loopPut i active over_ setting s) := if_neg fun hsame => h hsame.1

/-- A loop that changes is active or not, from now on, and the last entry of the log is its own. -/
theorem loopMoved_setLoop {i setting : Nat} {loc : U16} {active over_ : Bool} (h : (loopRec s i).active ≠ active) :
    LoopMoved i active s (setLoop i loc active over_ setting s) := by
  have hrec : loopRec (loopPut i active over_ setting s) i = { loopRec s i with
      active := active
      overruled := (loopRec s i).overruled || over_
      setting := BitVec.ofNat 32 setting
      changed := now s } := tget_tset_self ..
  rw [setLoop_of_change h]
  generalize loopPut i active over_ setting s = v at hrec
  have hlogged := logged_logAs (s := v) (u := v) 0x07 i loc 0xFF#8 4
    (bitIf active 0 + bitIf over_ 1 + (BitVec.ofNat 32 setting).toNat * 2 ^ 32) (loopRec s i).heldNs.toNat rfl rfl
  obtain ⟨⟨e, hlast, hcls, hcode, -, -⟩, -⟩ := hlogged
  have hput : loopRec (logDev 0x07 i loc (bitIf active 0 + bitIf over_ 1 + (BitVec.ofNat 32 setting).toNat * 2 ^ 32)
      (loopRec s i).heldNs.toNat v) i = loopRec v i := by rw [loopRec, logDev_pwr, loopRec]
  exact ⟨by rw [hput, hrec], by rw [hput, hrec], e, hlast, hcls, hcode⟩

/-! ### The ramp governor -/

theorem yields_powerMeasure {w predicted : Nat} (hp : s.boot.powered = true) :
    Yields (.powerMeasure w predicted) s fun t =>
      t.pwr.holding = decide (s.pwr.ceiling < 10 * predicted) ∧ t.pwr.ballast = decide (10 * predicted < s.pwr.floor)
      ∧ t.pwr.samples = lastN 10 (s.pwr.samples ++ [w]) ∧ t.pwr.ceiling = s.pwr.ceiling ∧ t.pwr.ramp = s.pwr.ramp
      ∧ t.bank = s.bank ∧ t.places = s.places := by
  generalize hv : ({ s with pwr := { s.pwr with
    samples := lastN 10 (s.pwr.samples ++ [w])
    holding := decide (s.pwr.ceiling < 10 * predicted)
    ballast := decide (10 * predicted < s.pwr.floor)
    heldMs := lastN 1000 (s.pwr.heldMs ++ [bitIf (decide (s.pwr.ceiling < 10 * predicted)) 0]) } } : State) = v
  obtain ⟨t, hu, hframe⟩ : ∃ t, execPowerMeasure w predicted s = ok t ∧ ∃ loops out log cnt, t = { v with
      pwr := { v.pwr with loops := loops }
      out := out
      log := log
      cnt := cnt } := by
    rw [execPowerMeasure, hp]
    refine ⟨_, rfl, ?_⟩
    dsimp only
    rw [hv]
    split
    · exact ⟨v.pwr.loops, v.out, v.log, v.cnt, rfl⟩
    · exact ⟨_, _, _, _, setLoop_frame ..⟩
  obtain ⟨loops, out, log, cnt, rfl⟩ := hframe
  subst hv
  exact ⟨_, hu, rfl, rfl, rfl, rfl, rfl, rfl, rfl⟩

theorem yields_rampInterval (hp : s.boot.powered = true) (hf : s.boot.fwRestarting = false) :
    Yields .rampInterval s fun t =>
      t.pwr.ramp = s.pwr.rampNext.getD s.pwr.ramp ∧ t.pwr.rampNext = none ∧ t.pwr.samples = []
      ∧ t.pwr.draw = (if s.pwr.samples = [] then s.pwr.draw else 10 * sumNat s.pwr.samples / s.pwr.samples.length)
      ∧ t.pwr.ceiling = min (10 * t.pwr.ramp.cap.toNat) (t.pwr.draw + t.pwr.ramp.up.toNat)
      ∧ t.pwr.floor = max 380 (t.pwr.draw - t.pwr.ramp.down.toNat) ∧ t = { s with pwr := t.pwr } := by
  obtain ⟨t, hu, ht⟩ : ∃ t, execRampInterval s = ok t ∧ t = { s with pwr := { s.pwr with
      ramp := s.pwr.rampNext.getD s.pwr.ramp
      rampNext := none
      draw := if s.pwr.samples = [] then s.pwr.draw else 10 * sumNat s.pwr.samples / s.pwr.samples.length
      samples := []
      ceiling := min (10 * (s.pwr.rampNext.getD s.pwr.ramp).cap.toNat)
        ((if s.pwr.samples = [] then s.pwr.draw else 10 * sumNat s.pwr.samples / s.pwr.samples.length)
          + (s.pwr.rampNext.getD s.pwr.ramp).up.toNat)
      floor := max 380 ((if s.pwr.samples = [] then s.pwr.draw else 10 * sumNat s.pwr.samples / s.pwr.samples.length)
        - (s.pwr.rampNext.getD s.pwr.ramp).down.toNat) } } := by
    refine ⟨_, ?_, rfl⟩
    rw [execRampInterval, hp, if_neg (by decide)]
    dsimp only
    rw [hf, if_neg (by decide)]
  subst ht
  exact ⟨_, hu, rfl, rfl, rfl, rfl, rfl, rfl, rfl⟩

/-! ### Clocks -/

section
variable {n : MxNo} {temp : Int}

theorem tfind_clk_setClk {no v top : Nat} (h : v ≠ top) (s : State) :
    tfind (setClk no v top s).pwr.clk no = some v ∧ ∀ i, i ≠ no → tfind (setClk no v top s).pwr.clk i = tfind s.pwr.clk i := by
  rw [setClk, if_neg h]
  exact ⟨tfind_tput_self .., fun i hi => tfind_tput_ne _ _ _ _ hi⟩

/-- The highest clock that a matrix island may run at. -/
def mxTop (s : State) : Nat := min 1500 (bits s.dev.clkHold.toNat 0 12)

/-- The clock that a matrix island runs at. -/
def mxClock (n : MxNo) (s : State) : Nat := min (mxTop s) (tget (mxTop s) s.pwr.clk (islMx n))

/-- The loop steps a matrix island's clock to v; a step past the policy floor is counted. -/
def mxStepped (n : MxNo) (v : Nat) (past : Bool) (s : State) : State :=
  let s1 := setClk (islMx n) v (mxTop s) (if past then bump 10 s else s)
  setLoop 0 (locOf 3 (islMx n)) (decide (s1.pwr.clk ≠ [])) past v s1

/-- Where its step is not to its highest, the island is held there, and no other clock moves. -/
theorem clk_mxStepped {v : Nat} (hv : v ≠ mxTop s) (past : Bool) :
    tfind (mxStepped n v past s).pwr.clk (islMx n) = some v
    ∧ (∀ i, i ≠ islMx n → tfind (mxStepped n v past s).pwr.clk i = tfind s.pwr.clk i)
    ∧ (mxStepped n v past s).bank = s.bank ∧ (mxStepped n v past s).seq = s.seq := by
  have hstart : (if past then bump 10 s else s).pwr = s.pwr ∧ (if past then bump 10 s else s).bank = s.bank
      ∧ (if past then bump 10 s else s).seq = s.seq := by
    split <;> exact ⟨rfl, rfl, rfl⟩
  obtain ⟨hpwr, hbank, hseq⟩ := hstart
  rw [mxStepped]
  generalize (if past then bump 10 s else s) = w at hpwr hbank hseq
  obtain ⟨hself, hother⟩ := tfind_clk_setClk (no := islMx n) hv w
  have hset : (setClk (islMx n) v (mxTop s) w).bank = w.bank ∧ (setClk (islMx n) v (mxTop s) w).seq = w.seq := ⟨rfl, rfl⟩
  generalize setClk (islMx n) v (mxTop s) w = x at hself hother hset
  have hframe := setLoop_frame 0 (locOf 3 (islMx n)) (decide (x.pwr.clk ≠ [])) past v x
  generalize setLoop 0 (locOf 3 (islMx n)) (decide (x.pwr.clk ≠ [])) past v x = t at hframe
  have hclk : t.pwr.clk = x.pwr.clk := by rw [hframe]
  rw [hclk]
  refine ⟨hself, fun i hi => (hother i hi).trans (by rw [hpwr]), ?_, ?_⟩
  · rw [hframe]
    exact hset.1.trans hbank
  · rw [hframe]
    exact hset.2.trans hseq

/-- A matrix island whose clock has rested takes one step. -/
theorem execThermalSense_mx (hat : tfind s.pwr.clkAt (islMx n) = none) :
    execThermalSense (.mx n) temp s
      = if 100 ≤ temp then
          ok (mxStepped n (min (mxClock n s) (max 500 (mxClock n s - 50)))
            (decide (min (mxClock n s) (max 500 (mxClock n s - 50)) < min (mxTop s) (bits s.dev.perfFloor.toNat 0 12)
              ∧ min (mxClock n s) (max 500 (mxClock n s - 50)) < mxClock n s)) s)
        else if temp < 95 ∧ (tfind s.pwr.clk (islMx n)).isSome = true then ok (mxStepped n (min (mxTop s) (mxClock n s + 50)) false s)
        else ok s := by
  have hno : islandNo (.mx n) = islMx n := rfl
  rw [execThermalSense, show clkOf s (.mx n) = some (0, 12, 1500, 50, 500) from rfl]
  dsimp only
  rw [hno, hat, if_neg (by simp)]
  rfl

theorem yields_thermalSense_hot (hhot : 100 ≤ temp) (hclk : tfind s.pwr.clk (islMx n) = none)
    (hat : tfind s.pwr.clkAt (islMx n) = none) (htop : 500 < mxTop s) :
    Yields (.thermalSense (.mx n) temp) s fun t =>
      tfind t.pwr.clk (islMx n) = some (max 500 (mxTop s - 50))
      ∧ (∀ i, i ≠ islMx n → tfind t.pwr.clk i = tfind s.pwr.clk i) ∧ t.bank = s.bank ∧ t.seq = s.seq := by
  have hcur : mxClock n s = mxTop s := by
    rw [mxClock, tget, hclk]
    exact Nat.min_self _
  have hstep : min (mxTop s) (max 500 (mxTop s - 50)) = max 500 (mxTop s - 50) := by omega
  have hu := (execThermalSense_mx (temp := temp) hat).trans (if_pos hhot)
  rw [hcur, hstep] at hu
  exact ⟨_, hu, clk_mxStepped (by omega) _⟩

theorem yields_thermalSense_cool {v : Nat} (hcool : temp < 95) (hclk : tfind s.pwr.clk (islMx n) = some v)
    (hat : tfind s.pwr.clkAt (islMx n) = none) (htop : v + 50 < mxTop s) :
    Yields (.thermalSense (.mx n) temp) s fun t =>
      tfind t.pwr.clk (islMx n) = some (v + 50) ∧ (∀ i, i ≠ islMx n → tfind t.pwr.clk i = tfind s.pwr.clk i) := by
  have hcur : mxClock n s = v := by
    rw [mxClock, tget, hclk]
    exact Nat.min_eq_right (by simp only [Option.getD_some]; omega)
  have hstep : min (mxTop s) (v + 50) = v + 50 := by omega
  have hu := (execThermalSense_mx (temp := temp) hat).trans (if_neg (by omega))
  rw [if_pos ⟨hcool, by rw [hclk]; rfl⟩, hcur, hstep] at hu
  obtain ⟨hself, hother, -, -⟩ := clk_mxStepped (s := s) (n := n) (v := v + 50) (by omega) false
  exact ⟨_, hu, hself, hother⟩

theorem yields_voltageDroop {ns : Nat} (hns : 1000 ≤ ns) :
    Yields (.voltageDroop (.mx n) ns) s fun t =>
      tfind t.pwr.clip (islMx n) = some (now s + BitVec.ofNat 64 ns)
      ∧ (∀ i, i ≠ islMx n → tfind t.pwr.clip i = tfind s.pwr.clip i) ∧ t.bank = s.bank ∧ t.seq = s.seq := by
  have hu : execVoltageDroop (.mx n) ns s = ok (setLoop 1 (locOf 3 (islMx n)) true false 0
      { s with pwr := { s.pwr with clip := tput s.pwr.clip (islMx n) (now s + BitVec.ofNat 64 ns) } }) := by
    rw [execVoltageDroop, if_neg (by simp; omega), if_neg (by omega)]
    rfl
  refine ⟨_, hu, ?_⟩
  rw [setLoop_frame]
  exact ⟨tfind_tput_self .., fun i hi => tfind_tput_ne _ _ _ _ hi, rfl, rfl⟩

end

/-! ### The channels' frequency -/

/-- A channel whose set differs begins to change, and its quad's migration pauses. -/
def changeStarted (setB : Bool) (s : State) (c : Nat) : State :=
  if (bc s c).setB = setB then s
  else setQuad (c / 4) { quadMap s (c / 4) with mig := (quadMap s (c / 4)).mig.map (fun m => { m with paused := true }) }
    (setBc c { bc s c with changing := true } s)

theorem startChange_eq (setB : Bool) (s : State) :
    startChange setB s = (List.range 16).foldl (changeStarted setB) { s with dev := { s.dev with freq := setB } } := rfl

theorem startChange_frame (setB : Bool) (s : State) :
    startChange setB s = { s with
      dev := { s.dev with freq := setB }
      ctl := (startChange setB s).ctl } := by
  rw [startChange_eq]
  refine foldl_of_step (P := fun u : State => u = { s with
    dev := { s.dev with freq := setB }
    ctl := u.ctl }) (fun u c hu => ?_) rfl _
  rw [changeStarted]
  split
  · exact hu
  · rw [hu]
    rfl

/-- A channel of the other set is changing once the change has started. -/
theorem changing_startChange {setB : Bool} {c : Chan} (h : (bc s c).setB ≠ setB) : (bc (startChange setB s) c).changing = true := by
  have hbc : ∀ (u : State) (k : Nat), (bc u c).setB ≠ setB → bc (changeStarted setB u k) c
      = if c.val = k then { bc u c with changing := true } else bc u c := by
    intro u k hu
    rw [changeStarted]
    by_cases hk : c.val = k
    · subst hk
      rw [if_neg hu, if_pos rfl]
      exact bc_setBc_self ..
    · rw [if_neg hk]
      split
      · rfl
      · exact bc_setBc_ne _ _ _ _ hk
  have hkeep : ∀ (u : State) (k : Nat), (bc u c).setB ≠ setB → (bc (changeStarted setB u k) c).setB ≠ setB := fun u k hu => by
    rw [hbc u k hu]
    split <;> exact hu
  have hrange : c.val ∈ List.range 16 := List.mem_range.mpr c.isLt
  rw [startChange_eq]
  refine (foldl_after_mem (P := fun u => (bc u c).setB ≠ setB)
    (Q := fun u => (bc u c).changing = true ∧ (bc u c).setB ≠ setB) (fun k u hu => hkeep u k hu) (fun u hu => ⟨?_, hkeep u c hu⟩)
    (fun k u hu => ⟨?_, hkeep u k hu.2⟩) hrange ?_).1
  · rw [hbc u c hu, if_pos rfl]
  · rw [hbc u k hu.2]
    split
    · rfl
    · exact hu.1
  · exact h

theorem loopMoved_congr {i : Nat} {active : Bool} (h : LoopMoved i active s t) (hp : u.pwr = t.pwr) (hl : u.log = t.log) :
    LoopMoved i active s u := by
  rw [LoopMoved, loopRec, hp, hl]
  exact h

theorem yields_channelFreqLoop_hot {h : U64} {c : Chan} (hfree : freqHeld s = false) (hhot : s.pwr.hotSince = some h)
    (hlong : 100000000 ≤ (now s - h).toNat) (hvalid : s.dev.bInvalid = false) (hset : (bc s c).setB = false) :
    Yields .channelFreqLoop s fun t =>
      t.dev.freq = true ∧ (bc t c).changing = true ∧ LoopMoved 3 true s t ∧ t.dev.policyFreq = s.dev.policyFreq := by
  obtain ⟨v, cnt, hv, hu⟩ : ∃ v cnt, v = { s with cnt := cnt } ∧ execChannelFreqLoop s
      = ok (startChange true (setLoop 3 (locOf 3 islPmu) true (!s.dev.policyFreq) 1 v)) := by
    have hlate : s.pwr.hotSince.any (fun t => decide (100000000 ≤ (now s - t).toNat)) = true := by
      rw [hhot]
      exact decide_eq_true hlong
    refine ⟨if (!s.dev.policyFreq) = true then bump 10 s else s, if (!s.dev.policyFreq) = true then (bump 10 s).cnt else s.cnt, ?_, ?_⟩
    · split <;> rfl
    · simp only [execChannelFreqLoop, hfree, hlate, hvalid, Bool.not_false, Bool.and_self, if_true]
  have hmoved : LoopMoved 3 true s (setLoop 3 (locOf 3 islPmu) true (!s.dev.policyFreq) 1 v) := by
    have hne : (loopRec v 3).active ≠ true := by
      rw [hv]
      exact fun he => absurd (hfree.symm.trans he) (by decide)
    have hm := loopMoved_setLoop (s := v) (setting := 1) (loc := locOf 3 islPmu) (over_ := !s.dev.policyFreq) hne
    subst hv
    exact hm
  have hframe := setLoop_frame 3 (locOf 3 islPmu) true (!s.dev.policyFreq) 1 v
  generalize setLoop 3 (locOf 3 islPmu) true (!s.dev.policyFreq) 1 v = w at hu hmoved hframe
  have hctl : bc w c = bc s c := by rw [hframe, hv]; rfl
  have hdev : w.dev = s.dev := by rw [hframe, hv]
  have hstart := startChange_frame true w
  have hchange : (bc (startChange true w) c).changing = true := changing_startChange (by rw [hctl, hset]; decide)
  refine ⟨_, hu, by rw [hstart], hchange, loopMoved_congr hmoved (by rw [hstart]) (by rw [hstart]), ?_⟩
  rw [hstart, ← hdev]

theorem yields_channelFreqLoop_cool {h : U64} (hheld : freqHeld s = true) (hcool : s.pwr.coolSince = some h)
    (hlong : 10000000000 ≤ (now s - h).toNat) :
    Yields .channelFreqLoop s fun t => t.dev.freq = s.dev.policyFreq ∧ LoopMoved 3 false s t := by
  have hu : execChannelFreqLoop s
      = ok (startChange s.dev.policyFreq (setLoop 3 (locOf 3 islPmu) false false (bitIf s.dev.policyFreq 0) s)) := by
    have hlate : s.pwr.coolSince.any (fun t => decide (10000000000 ≤ (now s - t).toNat)) = true := by
      rw [hcool]
      exact decide_eq_true hlong
    simp only [execChannelFreqLoop, hheld, hlate, Bool.not_true, Bool.false_and, Bool.false_eq_true, if_false, Bool.and_self,
      if_true]
  have hmoved : LoopMoved 3 false s (setLoop 3 (locOf 3 islPmu) false false (bitIf s.dev.policyFreq 0) s) :=
    loopMoved_setLoop fun he => absurd (hheld.symm.trans he) (by decide)
  generalize setLoop 3 (locOf 3 islPmu) false false (bitIf s.dev.policyFreq 0) s = w at hu hmoved
  have hstart := startChange_frame s.dev.policyFreq w
  exact ⟨_, hu, by rw [hstart], loopMoved_congr hmoved (by rw [hstart]) (by rw [hstart])⟩

/-! ### The rate of a link -/

variable {p : PortNo}

/-- A port that changes its rate does so through training where it was up; no other port changes. -/
theorem port_setRate (fallback : Bool) (s : State) :
    (port (setRate p fallback s) p).fallback = fallback ∧ (port (setRate p fallback s) p).loopHold = (port s p).loopHold
    ∧ ((port s p).fallback ≠ fallback → portUp s p = true → (port (setRate p fallback s) p).st = .train)
    ∧ (∀ q, q ≠ p.val → port (setRate p fallback s) q = port s q) := by
  rw [setRate]
  dsimp only
  split
  · next hsame => exact ⟨hsame, rfl, fun h => absurd hsame h, fun _ _ => rfl⟩
  · have hself := port_setPort_self s p.val { port s p with fallback := fallback }
    have hother := fun q (hq : q ≠ p.val) => port_setPort_ne s p.val q { port s p with fallback := fallback } hq
    split
    · next hup =>
      have hst : (port (setPort p.val { port s p with fallback := fallback } s) p).st ≠ .train := by
        rw [hself]
        intro ht
        rw [portUp, show (port s p).st = .train from ht] at hup
        cases hup
      have hport := fun k => port_enterTrain (q := p.val) hst k
      rw [hself] at hport
      refine ⟨?_, ?_, fun _ _ => ?_, fun q hq => ?_⟩
      · rw [hport, if_pos rfl]
      · rw [hport, if_pos rfl]
      · rw [hport, if_pos rfl]
      · rw [hport, if_neg hq, hother q hq]
    · next hdown => exact ⟨by rw [hself], by rw [hself], fun _ hup => absurd hup hdown, hother⟩

theorem pwr_setRate (q : Nat) (fallback : Bool) (s : State) : (setRate q fallback s).pwr = s.pwr := by
  rw [setRate]
  dsimp only
  split
  · rfl
  · split
    · rw [enterTrain_frame]
      rfl
    · rfl

theorem port_congr (h : t.lnk = s.lnk) (q : Nat) : port t q = port s q := by rw [port, h, port]

theorem yields_rateLoopCheck {c n u m : Nat} (hup : portUp s p = true) (hbad : n < 100000 * c ∨ m < 1000000000 * u)
    (hhold : (port s p).loopHold = false) (hloop : (loopRec s 4).active = false) :
    Yields (.rateLoopCheck p c n u m) s fun t =>
      (port t p).loopHold = true ∧ (port t p).fallback = true
      ∧ ((port s p).fallback = false → (port t p).st = .train) ∧ (∀ q, q ≠ p.val → port t q = port s q)
      ∧ (loopRec t 4).active = true ∧ (loopRec t 4).changed = now s := by
  obtain ⟨v, past, cnt, hv, hu⟩ : ∃ v past cnt, v = setPort p.val { port s p with loopHold := true } { s with cnt := cnt }
      ∧ execRateLoopCheck p c n u m s = ok (setRate p.val true (setLoop 4 (locOf 3 (islLk p.val)) true past 664 v)) := by
    have hfec : fecBad c n u m = true := by simpa [fecBad] using hbad
    generalize hs0 : countEv 0x73 p.val none u (countEv 0x72 p.val none c s) = s0
    have hs0' : s0 = { s with cnt := s0.cnt } := by rw [← hs0]; rfl
    refine ⟨setPort p.val { port s p with loopHold := true } (if decide (ratePinOf s p.val = 2) then bump 10 s0 else s0),
      decide (ratePinOf s p.val = 2), (if decide (ratePinOf s p.val = 2) then bump 10 s0 else s0).cnt, ?_, ?_⟩
    · split
      · rw [hs0']
        rfl
      · rw [hs0']
    · simp only [execRateLoopCheck, hup, hfec, hhold, hs0, Bool.not_true, Bool.false_eq_true, if_false, Bool.or_self]
  have hloopv : (loopRec v 4).active ≠ true := by
    rw [hv]
    exact fun he => absurd (hloop.symm.trans he) (by decide)
  have hmoved := loopMoved_setLoop (setting := 664) (loc := locOf 3 (islLk p.val)) (over_ := past) hloopv
  have hframe := setLoop_frame 4 (locOf 3 (islLk p.val)) true past 664 v
  generalize setLoop 4 (locOf 3 (islLk p.val)) true past 664 v = w at hu hmoved hframe
  have hports : ∀ q, port w q = port v q := fun q => port_congr (by rw [hframe]) q
  have hself : port w p = { port s p with loopHold := true } := by
    rw [hports, hv]
    exact port_setPort_self ..
  have hupw : portUp w p = true := by
    rw [portUp, hself]
    exact hup
  obtain ⟨hfall, hkept, htrain, hother⟩ := port_setRate (p := p) true w
  refine ⟨_, hu, hkept.trans (by rw [hself]), hfall, fun hf => htrain ?_ hupw, fun q hq => ?_, ?_, ?_⟩
  · rw [hself, show ({ port s p with loopHold := true } : Port).fallback = (port s p).fallback from rfl, hf]
    decide
  · rw [hother q hq, hports, hv]
    exact port_setPort_ne _ _ _ _ hq
  · rw [loopRec, pwr_setRate]
    exact hmoved.1
  · rw [loopRec, pwr_setRate]
    refine hmoved.2.1.trans ?_
    rw [hv]
    rfl

theorem yields_rateRetryTimer (hhold : (port s p).loopHold = true) (hpin : ratePinOf s p ≠ 1) :
    Yields (.rateRetryTimer p) s fun t =>
      (port t p).loopHold = false ∧ (port t p).fallback = false ∧ (∀ q, q ≠ p.val → port t q = port s q) := by
  generalize hv : setPort p.val { port s p with loopHold := false } s = v
  have hu : execRateRetryTimer p s = ok (setRate p.val false (setLoop 4 (locOf 3 (islLk p.val)) (anyHeld v) false 1328 v)) := by
    simp only [execRateRetryTimer, hhold, Bool.not_true, Bool.false_eq_true, if_false, hpin, decide_false, hv]
  have hw : (setLoop 4 (locOf 3 (islLk p.val)) (anyHeld v) false 1328 v).lnk
      = (setPort p.val { port s p with loopHold := false } s).lnk := by rw [setLoop_frame, hv]
  generalize setLoop 4 (locOf 3 (islLk p.val)) (anyHeld v) false 1328 v = w at hu hw
  have hself : port w p = { port s p with loopHold := false } := (port_congr hw p).trans (port_setPort_self ..)
  obtain ⟨hfall, hkept, -, hother⟩ := port_setRate (p := p) false w
  exact ⟨_, hu, hkept.trans (by rw [hself]), hfall, fun q hq => (hother q hq).trans ((port_congr hw q).trans (port_setPort_ne _ _ _ _ hq))⟩

/-- Settles O57: each loop moves what it governs and nothing else of its kind. -/
theorem powerIsGoverned : Obligations.PowerIsGoverned := by
  refine ⟨?measure, ?interval, ?hot, ?cool, ?droop, ?channelHot, ?channelCool, ?check, ?retry⟩
  case measure => exact fun _ _ _ hp => yields_powerMeasure hp
  case interval => exact fun _ hp hf => yields_rampInterval hp hf
  case hot => exact fun _ _ _ hhot hclk hat htop => yields_thermalSense_hot hhot hclk hat htop
  case cool => exact fun _ _ _ _ hcool hclk hat htop => yields_thermalSense_cool hcool hclk hat htop
  case droop => exact fun _ _ _ hns => yields_voltageDroop hns
  case channelHot => exact fun _ _ _ hfree hhot hlong hvalid hset => yields_channelFreqLoop_hot hfree hhot hlong hvalid hset
  case channelCool => exact fun _ _ hheld hcool hlong => yields_channelFreqLoop_cool hheld hcool hlong
  case check => exact fun _ _ _ _ _ _ hup hbad hhold hloop => yields_rateLoopCheck hup hbad hhold hloop
  case retry => exact fun _ _ hhold hpin => yields_rateRetryTimer hhold hpin

end Sys2Proof.Machine
end

section
/-! The GRC's caps (17 R448), and a table of modules that lists one of them twice. -/

namespace Sys2Proof.Machine

variable {s : State} {m : Nat}

theorem rackMod_reportCapacity (m : Nat) (s : State) : rackMod (reportCapacity s) m = rackMod s m := by
  rw [reportCapacity]
  dsimp only
  split <;> rfl

/-- The cap of the only healthy module is all that changes of its record. -/
theorem healthy_sendCaps_of_only (h : healthyMods s = [m]) : (rackMod (sendCaps s) m).healthy = (rackMod s m).healthy := by
  have hcaps : sendCaps s = orderRamp m (setRackMod m { rackMod s m with cap := capW s.grc 1 } s) := by
    rw [sendCaps, h]
    rfl
  have hkept : rackMod (sendCaps s) m = rackMod (setRackMod m { rackMod s m with cap := capW s.grc 1 } s) m := by
    rw [hcaps]
    rfl
  rw [hkept, rackMod_setRackMod_self]

/-- The GRC's table lists module 5 twice: first as it is at reset, then healthy. The GRC reads the first of them, and counts the
second. -/
def moduleTwice : State :=
  { State.reset with grc := { State.reset.grc with mods := [(5, RackMod.reset), (5, { RackMod.reset with healthy := true })] } }

/-- The same state once the source has changed. -/
def sourceChanged (shelves trays : Nat) (s : State) : State :=
  { s with grc := { s.grc with
      shelves := shelves
      trays := trays
      raises := [] } }

theorem execCapacityChange_of_unseen {shelves trays : Nat} (h : s.grc.raises = []) :
    execCapacityChange shelves trays [] s = ok (reportCapacity (sendCaps (sourceChanged shelves trays s))) := by
  rw [execCapacityChange, if_pos h]
  rfl

/-- Refutes O60: where the table of modules lists module 5 twice, first not healthy and then healthy, module 5 is among the
healthy ones and they are distinct, yet after a change of capacity its record, the first of the two, is not healthy. The first
clause has no premise that the table's keys rise, as the clause on a restart has. -/
theorem not_rackIsBudgeted : ¬ Obligations.RackIsBudgeted := by
  unfold Obligations.RackIsBudgeted
  rintro ⟨hcaps, -⟩
  have hmods : healthyMods moduleTwice = [5] := by decide
  obtain ⟨t, ht, -, -, -, hhealthy, -⟩ := hcaps moduleTwice 0 0 5 (by rw [hmods]; decide) (by rw [hmods]; decide) rfl
  obtain rfl : reportCapacity (sendCaps (sourceChanged 0 0 moduleTwice)) = t := by
    have hu : exec (.capacityChange 0 0 []) moduleTwice = ok (reportCapacity (sendCaps (sourceChanged 0 0 moduleTwice))) :=
      execCapacityChange_of_unseen rfl
    exact Host.Outcome.next.inj (hu.symm.trans ht)
  rw [rackMod_reportCapacity, healthy_sendCaps_of_only (s := sourceChanged 0 0 moduleTwice) hmods] at hhealthy
  exact absurd hhealthy (by decide)

end Sys2Proof.Machine
end
